-- ==== Sys2Proof/Syntax.lean ====
section
/-!
DEFINITION. The commands the block takes from outside: one constructor per row of spec/opcode_table.json.
The table gives no operands; each row's operands are what its governing rules say the event or access carries
(log entry 7).
-/
namespace Sys2Proof

/-- Tenant number, 0 to 63 (11 R431). -/
abbrev Tenant := Fin 64

/-- Ring pair of a tenant, 0 to 3 (03 R112). -/
abbrev RingNo := Fin 4

/-- Initiator identity of an access (18 R613). -/
abbrev Ident := BitVec 12

/-- Fault source identity (01 R41). -/
abbrev Source := BitVec 16

/-- Key handle (09 R375). -/
abbrev Handle := BitVec 20

/-- DCLK cycle of a tick, 0 to 319 (02 R63). -/
abbrev Cycle := Fin 320

/-- When a fabric return comes: its time of flight in ns, and the DCLK cycle of the tick (08 R353, R360). -/
structure Flight where
  ns : Nat
  cycle : Cycle
deriving DecidableEq, Repr

/-- A request of a control processor to the arbiter of the management lock: what it asks, and who asks for the lock in the same DCLK
cycle, other processors and an identity on the register port (11 R454). -/
structure LockAsk where
  release : Bool
  others : List (Fin 3)
  port : Option Ident
deriving DecidableEq, Repr

/-- Width of a register access (00 R16): 8, 16, 32 or 64 bits. -/
inductive Width where
  | w8 | w16 | w32 | w64
deriving DecidableEq, Repr

/-- A node that the system partition of the key cache holds (09 Tables 09-2, 09-7). -/
inductive SysNode where
  | tenantRoot
  /-- storage key of a generation -/
  | storage (gen : Nat)
  | recordHash | digestState | persistent | deviceId
deriving DecidableEq, Repr

/-- Owner of an SRAM word (12 Table 12-7). -/
inductive WordOwner where
  /-- a request: its staging, operand region, chain buffer or hold chunk -/
  | request (rid : Nat)
  /-- a key cache slot -/
  | slot (t : Tenant) (handle : Handle)
  /-- a slot of the cache's system partition: its node, and its tenant or 0xFF -/
  | system (node : SysNode) (t : BitVec 8)
  /-- the active bank of a section store or platform table -/
  | activeBank
  /-- the inactive bank -/
  | inactiveBank
  /-- no one -/
  | nobody
deriving DecidableEq, Repr


/-- The commands of the block, one per row of the opcode table, in its order. -/
inductive Instr where
  /-- The always-on rail rises above 1.6 V and the always-on domain leaves reset with its validity marker invalid (R624). -/
  | aonPowerUp
  /-- The main domain is released (a cold start): TRH_TICK is 0 and the start-up stages begin (R624). Operands: nvm, the SIZE code the SFDP read gives, or none where no device answers. -/
  | mainResetRelease (nvm : Option (Fin 8))
  /-- Stage 2 ends: the image has been read from the area in force, hashed, and its sections loaded into bank 0 (R586). Operands: good, the area was read without error. -/
  | imageRead (good : Bool)
  /-- Stage 3 checks the signature, the patches and the other image causes, and puts the identity map in force (R585). -/
  | signatureAndPatchCheck
  /-- Stage 4 derives K_R and K_F, loads the system and resident keys, checks the store counter and decides the root state (R405). -/
  | rootAndResidentKeyLoad
  /-- Stage 5 runs the known-answer tests, proves every checker, verifies and mirrors the tamper log, and retires failing lanes (R586). Operands: failed, lanes that fail: 8 x station + engine, lane. -/
  | knownAnswerTests (failed : List (Fin 64 × Fin 16))
  /-- At the first period boundary after stage 5, the timetable starts, TRH_ALIVE toggles, the rings open and recorded doorbells take effect (R586). -/
  | ringsOpen
  /-- The main domain enters reset asynchronously on TRH_RST_N low or SCRAP, and its outputs go to their reset values (R625). Operands: scrap, SCRAP rather than TRH_RST_N low. -/
  | mainDomainReset (scrap : Bool)
  /-- VDD_CORE crosses the reset level; the main domain resets at once and the always-on domain switches to VBAT (R505). -/
  | vddCoreResetCrossing
  /-- VDD_CORE crosses the warning level: DCLK drops to 1.0 GHz, a SUPPLY record is made and caution begins (R501). Operands: cycle, DCLK cycle of the crossing; mv, VDD_CORE in mV. -/
  | supplyWarningCrossing (cycle : Cycle) (mv : BitVec 16)
  /-- At the first boundary after a supply warning, SS discards its running pieces and enters hold (R326). -/
  | ssHoldEnter
  /-- The recovery count reaches 64 with the rails in range; normal operation is declared and DCLK returns to 1.25 GHz (R503). -/
  | cautionRecoveryDeclaration
  /-- VDD_IO_NVM falls below 1.65 V; new program and erase commands are held and NVM_LOW is set (R506). -/
  | nvmSupplyLow
  /-- Once per period, the Supervisor sets each rail target from its critical-path monitors and its aging margin (R496). Operands: st, station domain; fmon, floor its monitors report. -/
  | regulatorTargetUpdate (st : Fin 8) (fmon : Nat)
  /-- Every 64 ticks each sensor is sampled; threshold crossings raise THERMAL or the tamper alarm (R508). Operands: temps, sensor readings in units of 0.25 C after factory calibration. -/
  | temperatureSample (temps : Vector Int 8)
  /-- About once an hour the Supervisor measures the aging oscillators and sets each station's margin (R512). Operands: shift, measured slowing of each station and the commons in units of 0.1%. -/
  | agingMeasurement (shift : Vector Nat 8)
  /-- A tamper source alarms on two consecutive bad samples, and its response (LOG, LOCK or ERASE) is carried out (R523). Operands: src, tamper source; rail, a failed wire of a host input; detail, reading of TEMP and THERM, VBAT of the cell sources, fault source identity of FSM. -/
  | tamperAlarm (src : BitVec 8) (rail : Bool) (detail : BitVec 32)
  /-- A source re-arms after 64 consecutive good samples (R533). Operands: src, tamper source. -/
  | tamperSourceRearm (src : BitVec 8)
  /-- On the cell, a sampling window of 62.5 us opens every 4 ms and powers the BACKUP sensors (R527). -/
  | backupWindowOpen
  /-- The Custody processor copies pending log entries to the NVM mirror and reads them back (R536). Operands: verifies, the read-back verifies. -/
  | tamperLogMirror (verifies : Bool)
  /-- TRH_TICK increments; buckets refill, banks swap, step state is saved, readiness is fixed and budgets are set (R62). -/
  | tickBoundary
  /-- Descriptor read data lands and the chains it completes can be admitted (R635). Operands: port, fabric port; tag, burst tag; data, data returned; ns, time of flight; cycle, DCLK cycle. -/
  | descriptorDataLanded (port : Fin 4) (tag : Fin 256) (data : Bytes) (ns : Nat) (cycle : Cycle)
  /-- Checks 0 to 6 are applied to a fetched chain, which is queued or completed with the failing status (R133). Operands: cycle, DCLK cycle. -/
  | chainAdmission (cycle : Cycle)
  /-- In the tick after admission, the VS or SS input checker validates operands and SS draws its random values (R277). Operands: rid, identifier of the request. -/
  | validationTick (rid : Nat)
  /-- At the start of each slot, the sequencer selects the step that runs in each entry and runs its piece (R76). Operands: bad, pieces on which a pair disagrees: station, position. -/
  | slotStart (bad : List (Nat × Nat))
  /-- A KS key-bus entry carries the keys for the next tick's pieces to the destination loading bank (R80). Operands: slot, slot; dest, destination station. -/
  | keyBusTransfer (slot : Fin 8) (dest : Fin 6)
  /-- The Custody processor advances a key's mark in NVM within 4 ms once the counter nears M (R191). Operands: t, tenant page; handle, key. -/
  | ivMarkWrite (t : Tenant) (handle : Handle)
  /-- A missed node is derived in the platform's derivation entries in the tick after admission (R383). Operands: rid, identifier of the request. -/
  | missDerivation (rid : Nat)
  /-- A freight miss derives missing levels, or reads and unwraps a record from NVM, and checks its hash (R384). Operands: rid, identifier of the request. -/
  | freightKeyLoad (rid : Nat)
  /-- Held AEAD output is released to host memory or the chain buffer after a (1,0) compare (R202). Operands: rid, identifier of the request. -/
  | holdRelease (rid : Nat)
  /-- A blinded RSA-CRT signature is checked on VS; a failure is reported and the request ends INTERNAL (R313). Operands: rid, identifier of the request. -/
  | rsaCrtCheck (rid : Nat)
  /-- A matched and checked SS result is released to host, chain buffer or key store (R316). Operands: rid, identifier of the request. -/
  | ssResultRelease (rid : Nat)
  /-- A step whose counted wait exceeds 4,096 ticks completes its request with INTERNAL (R105). Operands: rid, identifier of the request. -/
  | stepWaitTimeout (rid : Nat)
  /-- An admitted request stops at the first slot boundary at least 8 cycles after the abort, is zeroised and posts ABORTED (R160). Operands: rid, identifier of the request. -/
  | abortStop (rid : Nat)
  /-- The completion writer writes a request's 32-byte entry, after zeroisation, and applies coalescing (R153). -/
  | completionWrite
  /-- At a boundary the oldest pending entry's age reaches TIME, and the completion source is asserted (R157). Operands: t, tenant page; k, ring pair. -/
  | coalesceTimerExpiry (t : Tenant) (k : RingNo)
  /-- The tenant's audit head is extended once for a completion tick, within 64 ticks (R165). Operands: t, tenant page. -/
  | auditExtend (t : Tenant)
  /-- Read burst data returns and lands in staging; it is timed, late returns are counted and errors end the request (R344). Operands: port, fabric port; tag, burst tag; data, data returned; err, error response; flight, time of flight and the DCLK cycle of the tick in which it returns. -/
  | readBurstReturn (port : Fin 4) (tag : Fin 256) (data : Bytes) (err : Bool) (flight : Flight)
  /-- A write response returns for a data burst or completion entry; it is timed and errors are handled (R345). Operands: port, fabric port; tag, burst tag; err, error response; flight, time of flight and the DCLK cycle of the tick in which it returns. -/
  | writeResponse (port : Fin 4) (tag : Fin 256) (err : Bool) (flight : Flight)
  /-- A burst with no return after 4,096 ns times out and counts as an error response (R355). Operands: port, fabric port; write, a write burst; tag, burst tag. -/
  | burstTimeout (port : Fin 4) (write : Bool) (tag : Fin 256)
  /-- A checker reports an error, a record is made and the response of its effective severity is taken (R462). Operands: source, fault source identity; detail, detail field; owner, owner of the word an UNCORR report is about; cycle, DCLK cycle of the report. -/
  | faultReport (source : Source) (detail : BitVec 16) (owner : WordOwner) (cycle : Cycle)
  /-- From the second boundary after the fault tick, the siding serves the retired lane's position (R473). Operands: eng, 8 x station + engine. -/
  | sidingTakeover (eng : Fin 64)
  /-- At the second boundary after a loss with no siding, every station switches to the matching contingency (R101). -/
  | contingencySwitch
  /-- An open window reaches its boundary unacknowledged, and the configured action is taken (R467). Operands: source, fault source identity. -/
  | escalationExpiry (source : Source)
  /-- The Supervisor writes TRH_FLT_ACK, which closes the source's open window (R467). Operands: v, value written. -/
  | faultAck (v : BitVec 32)
  /-- On a FATAL-STATION response a station stops, zeroises, ends its requests with INTERNAL and reloads (R476). Operands: st, station. -/
  | stationRestart (st : Fin 7)
  /-- A restarted station passes its tests and rejoins at a tick boundary (R476). Operands: st, station. -/
  | stationRejoin (st : Fin 7)
  /-- On a FATAL-BLOCK or tamper lockdown, every station and admission stop and memories are zeroised (R478). -/
  | lockdown
  /-- The Supervisor writes a dump to NVM, and to the host window if one is set, after a restart or lockdown (R488). Operands: good, the NVM write verifies. -/
  | dumpWrite (good : Bool)
  /-- A control processor's lockstep mismatch restarts it from its last checkpoint (R46). Operands: p, control processor. -/
  | lockstepMismatch (p : Fin 3)
  /-- A restarted control processor resumes within 64 ticks, or CPSTALL is reported (R46). Operands: p, control processor. -/
  | controlProcessorResume (p : Fin 3)
  /-- The scrubber reads, tests and corrects each SRAM word at least once per 64 periods (R32). Operands: source, checker of the word; word, the stored word that the scrubber reads, 19 symbols; detail, word address; owner, owner of the word. -/
  | scrub (source : Source) (word : Bytes) (detail : BitVec 16) (owner : WordOwner)
  /-- A checker is proven on a known error within the rotation; a missing or wrong report is a path failure (R482). Operands: source, checker; good, its report arrives. -/
  | checkerProof (source : Source) (good : Bool)
  /-- The Supervisor moves an active lane to a powered siding at a tick boundary without losing pieces (R475). Operands: eng, 8 x station + engine; lane, active lane; siding, siding lane. -/
  | plannedShunt (eng : Fin 64) (lane : Fin 16) (siding : Fin 16)
  /-- A write of TRH_FLT_INJECT with GO = 1 injects an error into the target checker, if permitted (R486). Operands: ident, initiator identity on the register port; v, value written. -/
  | faultInjection (ident : Ident) (v : BitVec 64)
  /-- Writing 1 to TRH_FLT_FIRST.VALID clears the latch, OVF and LATER, and re-arms the latch (R470). Operands: ident, initiator identity on the register port; v, value written. -/
  | firstErrorClear (ident : Ident) (v : BitVec 64)
  /-- The Supervisor firmware takes a fault record from the queue (R471). -/
  | faultRecordTake
  /-- A noise source fails a health test, is retired and its delay line is discarded (R413). Operands: n, noise source; cause, cause bits. -/
  | sourceHealthFailure (n : Fin 4) (cause : BitVec 8)
  /-- A retested source rejoins after 2,048 samples have passed (R424). Operands: n, noise source. -/
  | sourceRejoin (n : Fin 4)
  /-- 4,096 periods after retirement, the Supervisor retests a source (R424). Operands: n, noise source. -/
  | sourceRetestTimer (n : Fin 4)
  /-- A write of TRH_EN_CTRL.RETEST starts an immediate retest of a retired source (R424). Operands: ident, initiator identity on the register port; v, value written. -/
  | retest (ident : Ident) (v : BitVec 32)
  /-- The conditioner completes a 256-bit block from 4,096 raw bits and adds it to the seed pool (R415). Operands: runs, longest run of each source since the last block; apts, largest window count of each source since the last block. -/
  | conditionedBlock (runs : Vector (Fin 256) 4) (apts : Vector (Fin 1024) 4)
  /-- The DRBG is instantiated from 512 pool bits, and the service enters RUNNING (R417). -/
  | drbgInstantiate
  /-- The reseed counter reaches its limit, or sources recover, and the core reseeds from 384 pool bits (R418). -/
  | drbgReseed
  /-- The core makes a generate call that refills the buffer or serves RANDOM pieces (R417). Operands: mismatch, the two cores disagree. -/
  | drbgGenerate (mismatch : Bool)
  /-- A write setting ENABLE tests the ring configuration and resets the pointers, or reports CFG_ERR (R116). Operands: ident, initiator identity on the register port; t, tenant page; k, ring pair; v, value written. -/
  | ringEnable (ident : Ident) (t : Tenant) (k : RingNo) (v : BitVec 32)
  /-- A write clearing ENABLE stops fetching at the next boundary (R117). Operands: ident, initiator identity on the register port; t, tenant page; k, ring pair; v, value written. -/
  | ringDisable (ident : Ident) (t : Tenant) (k : RingNo) (v : BitVec 32)
  /-- A write of TN_SQ_TAIL_k publishes descriptors, or is ignored and sets IDX_ERR (R118). Operands: ident, initiator identity on the register port; t, tenant page; k, ring pair; v, value written. -/
  | doorbell (ident : Ident) (t : Tenant) (k : RingNo) (v : BitVec 32)
  /-- A write of TN_CQ_HEAD_k consumes completion entries and returns credit (R119). Operands: ident, initiator identity on the register port; t, tenant page; k, ring pair; v, value written. -/
  | completionHeadWrite (ident : Ident) (t : Tenant) (k : RingNo) (v : BitVec 32)
  /-- A write of TN_FIFO_DATA adds 8 bytes to the current inline item (R144). Operands: ident, initiator identity on the register port; t, tenant page; v, value written. -/
  | fifoData (ident : Ident) (t : Tenant) (v : BitVec 64)
  /-- A write of TN_FIFO_LAST_n adds n bytes and ends the inline item (R144). Operands: ident, initiator identity on the register port; t, tenant page; n, n - 1; v, value written. -/
  | fifoLast (ident : Ident) (t : Tenant) (n : Fin 8) (v : BitVec 64)
  /-- Writing TN_FIFO_CTRL.FLUSH empties the FIFO, including any partial item and DISCARD state (R149). Operands: ident, initiator identity on the register port; t, tenant page; v, value written. -/
  | flush (ident : Ident) (t : Tenant) (v : BitVec 32)
  /-- A write of TN_ABORT marks unfetched indices and aborts admitted requests of a ring pair (R159). Operands: ident, initiator identity on the register port; t, tenant page; v, value written; cyc, DCLK cycle of the write. -/
  | abort (ident : Ident) (t : Tenant) (v : BitVec 32) (cyc : Cycle)
  /-- Writing TN_AUDIT_SNAP.SNAP copies the audit head, count and through-tick into the snapshot registers (R168). Operands: ident, initiator identity on the register port; t, tenant page; v, value written. -/
  | auditSnap (ident : Ident) (t : Tenant) (v : BitVec 32)
  /-- Writing TRH_TT_PLAT_SEL.CLR clears MISS and OVER of the selected platform (R110). Operands: ident, initiator identity on the register port; v, value written. -/
  | platformCountClear (ident : Ident) (v : BitVec 32)
  /-- Writing PEAK_CLR of TRH_CS_HOLDn sets PEAK to USED (R225). Operands: ident, initiator identity on the register port; n, cipher station; v, value written. -/
  | holdPeakClr (ident : Ident) (n : Fin 2) (v : BitVec 32)
  /-- Writing PEAK_CLR of TRH_VS_MEM sets PEAK to USED (R291). Operands: ident, initiator identity on the register port; v, value written. -/
  | vsMemPeakClr (ident : Ident) (v : BitVec 32)
  /-- Writing PEAK_CLR of TRH_SS_MEM sets PEAK to USED (R330). Operands: ident, initiator identity on the register port; v, value written. -/
  | ssMemPeakClr (ident : Ident) (v : BitVec 32)
  /-- Writing TRH_EN_BUF.LOW_CLR sets LOW to the current FILL (R429). Operands: ident, initiator identity on the register port; v, value written. -/
  | lowClr (ident : Ident) (v : BitVec 64)
  /-- Writing TRH_PWR_CTRL.MIN_CLR sets the VDD_CORE minimum to the current reading (R517). Operands: ident, initiator identity on the register port; v, value written. -/
  | minClr (ident : Ident) (v : BitVec 32)
  /-- Writing TRH_PWR_CTRL.TMAX_CLR sets every sensor's TMAX to its current reading (R517). Operands: ident, initiator identity on the register port; v, value written. -/
  | tmaxClr (ident : Ident) (v : BitVec 32)
  /-- Writing 1 to TRH_TMP_FIRST.VALID clears and re-arms the first-source latch (R539). Operands: ident, initiator identity on the register port; v, value written. -/
  | tamperFirstClear (ident : Ident) (v : BitVec 64)
  /-- TN_KE_CTRL START opens a clear-entry session on a vacant handle and makes the handle pending (R391). Operands: ident, initiator identity on the register port; t, tenant page; v, value written. -/
  | start (ident : Ident) (t : Tenant) (v : BitVec 64)
  /-- TN_KE_CTRL COMPONENT submits one component for its KCV comparison under the identity rules (R391). Operands: ident, initiator identity on the register port; t, tenant page; v, value written. -/
  | component (ident : Ident) (t : Tenant) (v : BitVec 64)
  /-- TN_KE_CTRL FINISH combines the components, compares the KCV and commits the record (R391). Operands: ident, initiator identity on the register port; t, tenant page; v, value written. -/
  | finish (ident : Ident) (t : Tenant) (v : BitVec 64)
  /-- TN_KE_CTRL CANCEL ends the open session with result 9 and zeroises its data (R391). Operands: ident, initiator identity on the register port; t, tenant page; v, value written. -/
  | cancel (ident : Ident) (t : Tenant) (v : BitVec 64)
  /-- TN_KE_CTRL INVALIDATE makes a record or node unresolvable from the next boundary and records a tomb or list entry (R399). Operands: ident, initiator identity on the register port; t, tenant page; v, value written. -/
  | invalidate (ident : Ident) (t : Tenant) (v : BitVec 64)
  /-- The key-entry unit posts its comparison result within 2 ticks of the write (R391). Operands: t, tenant page. -/
  | keCompareResult (t : Tenant)
  /-- A session with no accepted write for 268,435,456 ticks ends with result 8 (R391). Operands: t, tenant page. -/
  | keSessionTimeout (t : Tenant)
  /-- A record write completes: appended, read back, indexed and counted, or failed after retries (R387). Operands: good, the read-back verifies. -/
  | keyStoreCommit (good : Bool)
  /-- A SEND write makes an empty outbound mailbox FULL and forms its stamp, or sets REFUSED (R441). Operands: ident, initiator identity on the register port; box, tenant mailbox, or none for the management mailbox; v, value written. -/
  | send (ident : Ident) (box : Option Tenant) (v : BitVec 32)
  /-- An ACK write empties the inbound mailbox and notifies the Registrar (R443). Operands: ident, initiator identity on the register port; box, tenant mailbox, or none for the management mailbox; v, value written. -/
  | ack (ident : Ident) (box : Option Tenant) (v : BitVec 32)
  /-- The Registrar delivers a reply into an empty inbound mailbox and asserts MBOX_IN (R443). -/
  | mailboxDelivery
  /-- A message with an unknown code, or sent through the wrong mailbox, is answered with 0x80 or 0x81 (R448). -/
  | unknownRequestCode
  /-- Request 0x0101 from an OFFICER asks for a signed tenant waybill (R567). -/
  | tenantWaybill
  /-- Request 0x0102 draws and returns a 32-byte challenge for the tenant (R559). -/
  | debugChallenge
  /-- Request 0x0103 checks a presented debug pass and puts its rights map in force (R561). Operands: payload, payload area as the management transfer reads it. -/
  | debugPass (payload : Bytes)
  /-- Request 0x0201 queues a curve record for its sanity checks on VS (R286). Operands: payload, payload area as the management transfer reads it. -/
  | curveLoad (payload : Bytes)
  /-- A curve load ends: the entry becomes READY, or the load fails or times out after 20 ms (R286). Operands: timeout, 20 ms have passed. -/
  | curveLoadComplete (timeout : Bool)
  /-- Request 0x0202 puts a READY loaded curve in RETIRING at the next boundary (R290). -/
  | curveUnload
  /-- A RETIRING entry becomes EMPTY at the first boundary at which no region holds its parameters (R290). Operands: ix, curve table entry. -/
  | curveRetired (ix : Fin 32)
  /-- Request 0x0203 starts re-wrapping every record under generation g + 1 (R402). -/
  | storageKeyRotation
  /-- A block of 4,096 records is re-wrapped, hashed and checkpointed (R402). -/
  | rotationBlockCopy
  /-- After verification, the key-store pointer is written to name the new area and generation (R404). -/
  | pointerFlip
  /-- Request 0x0204 draws a new BBK, resets the store counter, initialises an empty store and derives every node anew (R405). -/
  | reroot
  /-- Request 0x0205 from the lock holder asks for a signed block waybill (R567). -/
  | blockWaybill
  /-- The waybill signature step completes on SS, and the waybill is written and answered (R569). Operands: good, the payload write succeeds. -/
  | waybillSigned (good : Bool)
  /-- Request 0x0206 with OP 1 quiesces if needed, burns the target row, wipes and burns the commit row (R551). -/
  | lifeCycleTransition
  /-- Request 0x0206 with OP 2 burns the hash of a debug or configuration authority key and its seal (R557). Operands: payload, payload area as the management transfer reads it. -/
  | authoritySeal (payload : Bytes)
  /-- The host OTP controller acknowledges a program after reading the row back, with or without error (R620). Operands: err, TRH_OTP_ERR. -/
  | otpProgramComplete (err : Bool)
  /-- Request 0x0207 reads a new image into the inactive area, checks it, prepares the banks and starts the cut-over (R591). -/
  | configurationAmendment
  /-- The management transfer of the amendment image completes and the image is checked (R591). Operands: payload, image as the management transfer reads it; none on a failed transfer; good, the NVM write verifies. -/
  | amendmentImageLoaded (payload : Option Bytes) (good : Bool)
  /-- On an unconfigured block, 0x0207 installs the image in area A and cold-starts the main domain (R590). Operands: payload, image as the management transfer reads it; none on a failed transfer; good, the NVM write verifies. -/
  | configInstall (payload : Option Bytes) (good : Bool)
  /-- Request 0x0208 loads new patches and hands the affected processors over at a cut-over (R595). -/
  | firmwareHandover
  /-- Request 0x0209 writes a stored dump to the payload area (R491). Operands: good, the payload write succeeds. -/
  | dumpRetrieval (good : Bool)
  /-- At p - 256, every owner and halted processor is tested as armed, and CUTOVER_ARMED or CUTOVER_CANCEL is raised (R592). -/
  | cutoverArmCheck
  /-- At tick p, every owner switches banks and the new set, map, windows, shares and severities take effect (R593). -/
  | cutoverSwitch
  /-- From p - 256, a processor with a changed patch completes its work, writes its record and halts (R596). Operands: p, control processor. -/
  | handoverHalt (p : Fin 3)
  /-- At p, the processor restarts on its standby bank and resumes within 128 ticks (R596). Operands: p, control processor; good, it resumes in time. -/
  | handoverResume (p : Fin 3) (good : Bool)
  /-- A write of TN_RESET or TRH_TN_RESET starts a tenant reset: FIFO flush, mailbox clear, lock release and abort (R438). Operands: ident, initiator identity on the register port; own, TN_RESET of this page, or none for TRH_TN_RESET; v, value written; cyc, DCLK cycle of the write. -/
  | tenantReset (ident : Ident) (own : Option Tenant) (v : BitVec 32) (cyc : Cycle)
  /-- After the aborted completions, the page takes its reset values and BUSY clears (R440). Operands: t, tenant page. -/
  | tenantResetDone (t : Tenant)
  /-- A read of TRH_MGMT_LOCK acquires, renews or reports the lock through the arbiter (R450). Operands: ident, initiator identity on the register port. -/
  | lockAcquire (ident : Ident)
  /-- A write of TRH_MGMT_LOCK by the holder releases the lock (R451). Operands: ident, initiator identity on the register port; v, value written. -/
  | lockRelease (ident : Ident) (v : BitVec 32)
  /-- A control processor requests or releases the lock through the arbiter (R454). Operands: p, control processor; ask, what it asks, and who asks in the same cycle. -/
  | processorLockRequest (p : Fin 3) (ask : LockAsk)
  /-- A lease count reaches 0, the lock is freed and LOCK_EXPIRED is asserted (R452). -/
  | leaseExpiry
  /-- TRH_DBG_CORE OP halt stops a control processor where R566 allows it (R566). Operands: ident, initiator identity on the register port; v, value written. -/
  | dbgHalt (ident : Ident) (v : BitVec 32)
  /-- TRH_DBG_CORE OP step runs one instruction of a halted processor (R566). Operands: ident, initiator identity on the register port; v, value written. -/
  | dbgStep (ident : Ident) (v : BitVec 32)
  /-- TRH_DBG_CORE OP resume restarts a halted processor (R566). Operands: ident, initiator identity on the register port; v, value written. -/
  | dbgResume (ident : Ident) (v : BitVec 32)
  /-- TRH_DBG_ACCESS read returns one word of a reachable non-secret group in TRH_DBG_DATA (R565). Operands: ident, initiator identity on the register port; v, value written. -/
  | dbgRead (ident : Ident) (v : BitVec 64)
  /-- TRH_DBG_ACCESS write stores TRH_DBG_DATA into a reachable non-secret group (R565). Operands: ident, initiator identity on the register port; v, value written. -/
  | dbgWrite (ident : Ident) (v : BitVec 64)
  /-- TRH_DBG_ACCESS BIST zeroises a group, tests it, zeroises it again and reports pass or fail (R565). Operands: ident, initiator identity on the register port; v, value written; pass, the memory test passes. -/
  | bist (ident : Ident) (v : BitVec 64) (pass : Bool)
  /-- A write to a register without a row of its own sets its fields under its access types (R19). Operands: ident, initiator identity on the register port; a, byte offset in the register space; w, access width; v, value written; cyc, DCLK cycle of the write; pass, the memory test passes where the write starts one. -/
  | registerWrite (ident : Ident) (a : BitVec 24) (w : Width) (v : BitVec 64) (cyc : Cycle) (pass : Bool)
  /-- VDD_CORE rises back above the reset level and the always-on domain resumes continuous sampling from main power within 1 us (R527). -/
  | mainPowerReturn
  /-- The always-on rail falls below 1.5 V with VBAT absent and VDD_CORE below reset, and the always-on domain loses BBK, log head, count and store counter (R624). -/
  | alwaysOnReset
  /-- VDD_IO_NVM rises back to 1.65 V or above; NVM_LOW clears and held program and erase commands may begin (R506). -/
  | nvmSupplyRestored
  /-- A register read that is foreign, at a reserved offset or of a refused width returns 0 and is recorded and reported under FOREIGN or RESOFF (R436). Operands: ident, initiator identity on the register port; a, byte offset in the register space; w, access width. -/
  | registerRead (ident : Ident) (a : BitVec 24) (w : Width)
  /-- Preparation of an amendment ends: inactive banks loaded, changed nodes derived and resident keys loaded, then the image pointer is written and cut-over targets set (R591). Operands: good, the image pointer was written and read back. -/
  | amendmentPrepared (good : Bool)
  /-- The Supervisor finishes reloading an inactive bank after an uncorrectable word and reads it back, so the owner may rearm (R480). Operands: owner, owner of the bank; good, the read-back verifies. -/
  | inactiveBankReload (owner : Fin 8) (good : Bool)
  /-- The Custody processor reloads or rederives a zeroised system or resident cache slot within 8 ms, after which requests naming it resolve again (R480). Operands: t, tenant page; handle, key. -/
  | cacheSlotReload (t : Tenant) (handle : Handle)
deriving DecidableEq, Repr

end Sys2Proof
end

