-- ==== Sys2Proof/Decode.lean ====
section
/-! DEFINITION. Commands spelt by words: the table gives no row any bits, so no word spells a command. -/
namespace Sys2Proof

/-- Rows of the opcode table that give bits: their width, mask, pattern and command. The table gives none. -/
def tableRows : List (Nat × Nat × Nat × Instr) := []

/-- The command that a word spells by the table's bits. -/
def decodeTableWord (nbits w : Nat) : Option Instr :=
  (tableRows.find? fun r => r.1 == nbits && w &&& r.2.1 == r.2.2.1).map fun r => r.2.2.2

end Sys2Proof
end

