-- ==== Sys2Proof/Machine/Bits.lean ====
section
/-! DEFINITION. Bit fields, byte strings, saturating counts and association lists: the helpers every meaning uses. -/
namespace Sys2Proof.Machine

/-- The value of the `w` bits of `v` that start at bit `lo`. -/
def fieldNat {n : Nat} (v : BitVec n) (lo w : Nat) : Nat := (v.toNat >>> lo) % 2 ^ w

/-- Bit `i` of a word. -/
def bitAt {n : Nat} (v : BitVec n) (i : Nat) : Bool := v.getLsbD i

/-- A word with `x` placed at bit `lo`. -/
def place (x lo : Nat) : BitVec 64 := BitVec.ofNat 64 x <<< lo

/-- A flag placed at bit `lo`. -/
def placeB (b : Bool) (lo : Nat) : BitVec 64 := if b then BitVec.ofNat 64 1 <<< lo else 0

/-- `n` with one added, held at `cap`. -/
def satInc (cap n : Nat) : Nat := min cap (n + 1)

/-- Sum held at `cap`. -/
def satAdd (cap n k : Nat) : Nat := min cap (n + k)

/-- Quotient rounded up. -/
def ceilDiv (a b : Nat) : Nat := (a + b - 1) / b

/-- A number as `n` bytes, least significant first (00 R21). -/
def leBytes : Nat → Nat → Bytes
  | 0, _ => []
  | n + 1, v => BitVec.ofNat 8 v :: leBytes n (v / 256)

/-- The number a byte string spells, least significant byte first (00 R21). -/
def ofLe : Bytes → Nat
  | [] => 0
  | b :: r => b.toNat + 256 * ofLe r

/-- A number as `n` bytes, most significant first (00 R23). -/
def beBytes (n v : Nat) : Bytes := (leBytes n v).reverse

/-- The number a byte string spells, most significant byte first (00 R23). -/
def ofBe (b : Bytes) : Nat := ofLe b.reverse

/-- `len` bytes from offset `off`. -/
def slice (b : Bytes) (off len : Nat) : Bytes := (b.drop off).take len

/-- The little-endian number in `len` bytes from offset `off`. -/
def leAt (b : Bytes) (off len : Nat) : Nat := ofLe (slice b off len)

/-- The byte at an offset, 0 past the end. -/
def byteAt (b : Bytes) (off : Nat) : Nat := (b.getD off 0).toNat

/-- A string of `n` equal bytes. -/
def fillBytes (n : Nat) (v : Nat) : Bytes := List.replicate n (BitVec.ofNat 8 v)

/-- A string brought to `n` bytes: cut, or padded at its end with zeros. -/
def fitTo (n : Nat) (b : Bytes) : Bytes := b.take n ++ List.replicate (n - b.length) 0

/-- Byte-wise exclusive or, as long as the shorter operand. -/
def xorBytes (a b : Bytes) : Bytes := List.zipWith (· ^^^ ·) a b

/-- A string cut into blocks of `n` bytes, the last one possibly short; `fuel` bounds the count of blocks. -/
def chunksAux (n : Nat) : Nat → Bytes → List Bytes
  | 0, _ => []
  | fuel + 1, b => if b.isEmpty then [] else b.take n :: chunksAux n fuel (b.drop n)

/-- A string cut into blocks of `n` bytes, the last one possibly short. -/
def chunks (n : Nat) (b : Bytes) : List Bytes := chunksAux n b.length b

/-- Whether every byte of a string is zero. -/
def allZero (b : Bytes) : Bool := b.all (· == 0)

/-- The count of bits set in a byte string. -/
def onesIn (b : Bytes) : Nat := (b.map fun x => ((List.range 8).filter fun i => x.getLsbD i).length).sum

/-- The value an association list gives a key, or a default. -/
def lookupD {α β : Type} [BEq α] (k : α) (d : β) (l : List (α × β)) : β := (l.lookup k).getD d

/-- An association list with a key's value replaced or added at the end. -/
def assoc {α β : Type} [BEq α] (k : α) (v : β) : List (α × β) → List (α × β)
  | [] => [(k, v)]
  | (k', v') :: r => if k' == k then (k, v) :: r else (k', v') :: assoc k v r

/-- A list without an element that is already in it: `x` is added at the end when it is absent. -/
def addNew {α : Type} [BEq α] (x : α) (l : List α) : List α := if l.contains x then l else l ++ [x]

/-- Stable insertion by a numeric key. -/
def insertBy {α : Type} (key : α → Nat) (x : α) : List α → List α
  | [] => [x]
  | y :: r => if key x < key y then x :: y :: r else y :: insertBy key x r

/-- Stable sort by a numeric key. -/
def sortBy {α : Type} (key : α → Nat) (l : List α) : List α := l.foldl (fun acc x => insertBy key x acc) []

/-- A 16-bit two's complement value. -/
def signed16 (n : Nat) : Int := if n % 65536 < 32768 then (n % 65536 : Nat) else ((n % 65536 : Nat) : Int) - 65536

/-- ASCII bytes of a text. -/
def ascii (t : String) : Bytes := t.toList.map fun c => BitVec.ofNat 8 c.toNat

end Sys2Proof.Machine
end

