-- ==== Sys2Proof/Config.lean ====
section
/-!
DEFINITION. What the spec leaves to an implementation and the free values: constants without a body, so that nothing is known
of their values (log entry 10).
-/
namespace Sys2Proof.Config

/-- Free values: the bytes a draw from the entropy service yields, by the model's draw counter. Every draw of the
block, whichever consumer makes it, is one of these (10). -/
opaque freeByte : Nat → Byte

/-- Free values: the raw samples of the noise sources, by source and by the sample's number since release (10 R408; log entry 117). -/
opaque rawSample : Nat → Nat → Bool

/-- Free values: the fault source identity of an `INTERNAL` completion for which the spec names none (log entry 23), by
the model's draw counter. -/
opaque freeSource : Nat → BitVec 16
/-- Free values: `VDD_CORE` in mV as the supply monitor samples it at a tick boundary (log entry 24), by the model's
draw counter. -/
opaque supplySample : Nat → BitVec 16

/-- Free values: the lowest `VDD_CORE` in mV in the whole of a tick, which the supply monitor compares with the recovery level (log entry
24), by the model's draw counter. -/
opaque supplyLowest : Nat → BitVec 16
/-- Free values: units of 1/65,536 s by which the real-time clock runs on between two looks at it (log entry 26), by its trim and the
model's draw counter. -/
opaque clockStep : Int → Nat → BitVec 64
/-- Free values: the six host inputs as they are sampled at a tick boundary: bit i input i + 1 reads (1,0), bit 6 + i its wire has failed
(log entry 24), by the model's draw counter. -/
opaque inputSample : Nat → BitVec 12
/-- Free values: whether what is written to the tamper-log mirror at a start reads back (log entry 129), by the model's draw counter. -/
opaque readBack : Nat → Bool
/-- Free values: `VBAT` in mV as it is sampled once per period (log entry 24), by the model's draw counter. -/
opaque cellSample : Nat → BitVec 12
/-- Free values: the bits of a row that a program burnt which was cut short, or whose read-back lacked a bit (log entry 25),
by the model's draw counter. -/
opaque burntBits : Nat → BitVec 64

/-- Free values: the usage code in the derivation context of a system node of an algorithm, where the spec states none (log
entry 13). -/
opaque systemUsage : Nat → Nat

/-- Free value: the padding length of a decrypted text whose last byte is no length from 1 to 16 (log entry 12). -/
opaque freeUnpad : Bytes → Nat

/-- Free value: the b bytes that FF1 takes for a number that b bytes do not hold, where β of 04 R208 is less than the longer half of an
odd length needs (log entry 72). -/
opaque freeFf1 : Nat → Nat → Bytes

/-- Free values: which of the curve loads on the five pairs ends first before the timetable starts (06 R289; log entry 112), by the model's
draw counter. -/
opaque loadEnds : Nat → Nat

/-- Free values: whether a block of the key store and its checkpoint read back as they were written (log entry 98), by the model's draw
counter. -/
opaque readsBack : Nat → Bool

/-- Free values: whether the areas that a transition wipes read back as erased (log entry 99), by the model's draw counter. -/
opaque erasesBack : Nat → Bool

/-- Free values: KS derivation entries, in units of one tree level, that the unwrapping of a stored value of a length takes (log entry
93). -/
opaque unwrapLevels : Nat → Nat
/-- Free values: KS derivation entries, in units of one tree level, that a rotation takes to wrap a stored value of a length anew (log
entry 93). -/
opaque rewrapLevels : Nat → Nat

/-- Free value: the slots of the fixed schedule of one prime candidate of an RSA key generation, by the length of the modulus (07 R321; log
entry 69). -/
opaque candidateSlots : Nat → Nat
/-- Free values: the bases of the Miller–Rabin rounds that test a prime candidate, by candidate and round (07 R321; log entry 69). -/
opaque primeBase : Nat → Nat → Nat
/-- Free values: what a word of a memory group holds that nothing known has written: group, word address, and the model's
draw counter (log entry 33). -/
opaque groupWord : Nat → Nat → Nat → BitVec 64

/-- ROM firmware image of a control processor: 0 Custody, 1 Supervisor, 2 Registrar (16 R582). -/
opaque romImage : Nat → Bytes
/-- Knavesan's firmware key, a point on P-384 held in the block's ROM (16 R582). -/
opaque firmwareKey : Nat × Nat

end Sys2Proof.Config
end

