-- ==== Sys2Proof/Machine/State.lean ====
section
/-!
DEFINITION. The whole state of the block as plain data, and the state right after reset.
Each field's docstring names the file of the spec and the rule or table that gives it.
-/
namespace Sys2Proof.Machine

/-- Partition of the key cache that holds a slot (09 Table 09-7). -/
inductive Partition where
  | resident | receiving | miss | pool
deriving DecidableEq, Repr

/-- How a request stands to its platform's rate (02 R72, R75). -/
inductive RateClass where
  | inRate | overRate | freight
deriving DecidableEq, Repr

/-- What an admitted request waits for. -/
inductive ReqStage where
  /-- its steps run (02 R68) -/
  | running
  /-- the CRT check of an RSA signature runs on VS (07 R313) -/
  | crtCheck
  /-- an imported private key makes its signature on SS (09 R397) -/
  | keySign
  /-- that signature is verified on VS (09 R397) -/
  | keyVerify
  /-- the checked result waits for its release (07 R316) -/
  | release
  /-- a record of the key store is committed (07 R322) -/
  | commit
  /-- the last step has ended; output bytes are not all written (08 R345) -/
  | draining
deriving DecidableEq, Repr

/-- What a fabric burst carries (08 R332, R333). -/
inductive BurstKind where
  /-- descriptor at a ring index: tenant, ring, index -/
  | desc (tenant ring : Nat) (index : BitVec 16)
  /-- input bytes of a request's step at an offset of source then auxiliary -/
  | input (rid step off : Nat)
  /-- output bytes of a request's step -/
  | output (rid step : Nat)
  /-- completion entry: tenant, ring, index -/
  | completion (tenant ring : Nat) (index : BitVec 16)
  /-- management transfer that a control processor started -/
  | mgmt (proc : Nat)
deriving DecidableEq, Repr


/-- One step record of a class entry (16 Table 16-8). -/
structure ClassStep where
  /-- opcode (16 Table 16-8). -/
  opcode : Nat
  /-- station 0 to 6, or 255 for any of its kind (16 Table 16-8). -/
  station : Nat
  /-- CALLER_IV (16 Table 16-8). -/
  callerIv : Bool
  /-- SHADOW (16 Table 16-8). -/
  shadow : Bool
  /-- max_length (16 Table 16-8). -/
  maxLen : Nat
  /-- curve (16 Table 16-8). -/
  curve : Nat
  /-- modulus_bits (16 Table 16-8). -/
  modBits : Nat
  /-- exponent_bits (16 Table 16-8). -/
  expBits : Nat
  /-- salt_length (16 Table 16-8). -/
  saltLen : Nat
deriving DecidableEq, Repr

/-- ClassStep as reset leaves it. -/
def ClassStep.reset : ClassStep :=
  { opcode := 0,
    station := 0,
    callerIv := false,
    shadow := false,
    maxLen := 0,
    curve := 0,
    modBits := 0,
    expBits := 0,
    saltLen := 0 }

/-- A class entry (16 Table 16-8). -/
structure ClassDef where
  /-- class number (16 Table 16-8). -/
  num : Nat
  /-- DERIVABLE (16 Table 16-8). -/
  derivable : Bool
  /-- public_exponent, 0 for any (16 Table 16-8). -/
  pubExp : Nat
  /-- steps in chain order (16 Table 16-8). -/
  steps : List ClassStep
deriving DecidableEq, Repr

/-- ClassDef as reset leaves it. -/
def ClassDef.reset : ClassDef :=
  { num := 0,
    derivable := false,
    pubExp := 0,
    steps := [] }

/-- A platform table entry (02 Table 02-4). -/
structure PlatEntry where
  /-- 0 unused, 1 through, 2 freight (02 Table 02-4). -/
  kind : Nat
  /-- tenant (02 Table 02-4). -/
  tenant : Nat
  /-- class (02 Table 02-4). -/
  cls : Nat
  /-- queue depth (02 Table 02-4). -/
  depth : Nat
  /-- policy OVR (02 Table 02-4). -/
  ovr : Bool
  /-- policy KMISS (02 Table 02-4). -/
  kmiss : Bool
  /-- rate increment r, 8.24 (02 Table 02-4). -/
  rate : Nat
  /-- burst depth b (02 Table 02-4). -/
  burst : Nat
  /-- borrower 1 (02 Table 02-4). -/
  bor1 : Option Nat
  /-- borrower 2 (02 Table 02-4). -/
  bor2 : Option Nat
  /-- certified bound B (02 Table 02-4). -/
  bound : Nat
  /-- index bits of borrower 1 while it is not valid (02 Table 02-4). -/
  idle1 : Nat
  /-- index bits of borrower 2 while it is not valid (02 Table 02-4). -/
  idle2 : Nat
deriving DecidableEq, Repr

/-- PlatEntry as reset leaves it. -/
def PlatEntry.reset : PlatEntry :=
  { kind := 0,
    tenant := 0,
    cls := 0,
    depth := 0,
    ovr := false,
    kmiss := false,
    rate := 0,
    burst := 0,
    bor1 := none,
    bor2 := none,
    bound := 0,
    idle1 := 0,
    idle2 := 0 }

/-- A station shares entry (16 Table 16-9). -/
structure ShareEntry where
  /-- platform index (16 Table 16-9). -/
  plat : Nat
  /-- hold chunks on CS0, CS1 (16 Table 16-9). -/
  hold : List Nat
  /-- VS blocks (16 Table 16-9). -/
  vs : Nat
  /-- SS blocks (16 Table 16-9). -/
  ss : Nat
  /-- staging chunks on CS0, CS1, DS0, DS1 (16 Table 16-9). -/
  staging : List Nat
  /-- miss-share cache slots (16 Table 16-9). -/
  miss : Nat
deriving DecidableEq, Repr

/-- ShareEntry as reset leaves it. -/
def ShareEntry.reset : ShareEntry :=
  { plat := 0,
    hold := [0, 0],
    vs := 0,
    ss := 0,
    staging := [0, 0, 0, 0],
    miss := 0 }

/-- A station timetable section (16 Table 16-10). -/
structure StnTable where
  /-- present mask (16 Table 16-10). -/
  present : Nat
  /-- running orders, by timetable index (02 R85). -/
  orders : List (List Nat)
  /-- frames of the bank, as slot entries (R83) (02 R84). -/
  frames : List (List (BitVec 16))
deriving DecidableEq, Repr

/-- StnTable as reset leaves it. -/
def StnTable.reset : StnTable :=
  { present := 0,
    orders := [],
    frames := [] }

/-- A tenant record of the tenant map (16 Table 16-6). -/
structure TenantRec where
  /-- attribute scheme code (09 R376). -/
  scheme : Nat
  /-- present flag (16 Table 16-6). -/
  present : Nat
  /-- shares S(t, p) (08 R337). -/
  shares : List Nat
deriving DecidableEq, Repr

/-- TenantRec as reset leaves it. -/
def TenantRec.reset : TenantRec :=
  { scheme := 3,
    present := 0,
    shares := [0, 0, 0, 0] }

/-- An address window record (08 Table 08-3). -/
structure Window where
  /-- BASE, WRITE, READ as loaded (08 R638). -/
  base : BitVec 64
  /-- LIMIT as loaded (08 R638). -/
  limit : BitVec 64
deriving DecidableEq, Repr

/-- Window as reset leaves it. -/
def Window.reset : Window :=
  { base := 0,
    limit := 0 }

/-- A node entry of the key-tree policy (09 Table 09-6). -/
structure Node where
  /-- global index of the parent, or 0xFFFF_FFFF (09 Table 09-6). -/
  parent : Nat
  /-- tenant (09 Table 09-6). -/
  tenant : Nat
  /-- depth (09 Table 09-6). -/
  depth : Nat
  /-- algorithm (09 Table 09-6). -/
  alg : BitVec 16
  /-- handle (09 Table 09-6). -/
  handle : BitVec 20
  /-- usage (09 Table 09-6). -/
  usage : BitVec 8
  /-- EXPORT (09 Table 09-6). -/
  exp : Bool
  /-- SECRET (09 Table 09-6). -/
  secret : Bool
  /-- RESIDENT (09 Table 09-6). -/
  resident : Bool
  /-- label (09 Table 09-6). -/
  label : Bytes
deriving DecidableEq, Repr

/-- Node as reset leaves it. -/
def Node.reset : Node :=
  { parent := 0,
    tenant := 0,
    depth := 0,
    alg := 0,
    handle := 0,
    usage := 0,
    exp := false,
    secret := false,
    resident := false,
    label := [] }

/-- A template entry of the key-tree policy (09 Table 09-6). -/
structure Template where
  /-- tenant (09 Table 09-6). -/
  tenant : Nat
  /-- usage (09 Table 09-6). -/
  usage : BitVec 8
  /-- algorithm (09 Table 09-6). -/
  alg : BitVec 16
  /-- first handle (09 Table 09-6). -/
  first : Nat
  /-- count (09 Table 09-6). -/
  count : Nat
  /-- first record number, or 0xFFFF_FFFF when cache-only (09 Table 09-6). -/
  recno : Nat
  /-- size (09 Table 09-6). -/
  size : Nat
  /-- EXPORT (09 Table 09-6). -/
  exp : Bool
  /-- SECRET (09 Table 09-6). -/
  secret : Bool
  /-- CLEAR (09 Table 09-6). -/
  clear : Bool
  /-- CACHE (09 Table 09-6). -/
  cacheOnly : Bool
deriving DecidableEq, Repr

/-- Template as reset leaves it. -/
def Template.reset : Template :=
  { tenant := 0,
    usage := 0,
    alg := 0,
    first := 0,
    count := 0,
    recno := 0,
    size := 0,
    exp := false,
    secret := false,
    clear := false,
    cacheOnly := false }

/-- A severity rule (12 Table 12-4). -/
structure SevRule where
  /-- match (12 Table 12-4). -/
  pat : BitVec 16
  /-- mask (12 Table 12-4). -/
  mask : BitVec 16
  /-- severity (12 Table 12-4). -/
  sev : Nat
  /-- action (12 Table 12-4). -/
  action : Nat
  /-- window (12 Table 12-4). -/
  window : Nat
deriving DecidableEq, Repr

/-- SevRule as reset leaves it. -/
def SevRule.reset : SevRule :=
  { pat := 0,
    mask := 0,
    sev := 0,
    action := 0,
    window := 0 }

/-- The configuration image as one bank of every owner holds it (16 Table 16-6). -/
structure Image where
  /-- contract level (16 Table 16-5). -/
  contract : BitVec 16
  /-- sequence (16 Table 16-5). -/
  seq : BitVec 32
  /-- INSTANCE when given (16 Table 16-7). -/
  instNo : Option (BitVec 26)
  /-- management capacity M (16 Table 16-7). -/
  mgmtCap : Nat
  /-- latch_min (16 Table 16-7). -/
  latchMin : Nat
  /-- dump window base (16 Table 16-7). -/
  dumpBase : BitVec 64
  /-- dump window length (16 Table 16-7). -/
  dumpLen : BitVec 64
  /-- resident partition slots (16 Table 16-7). -/
  residentSlots : Nat
  /-- receiving and miss-share slots (16 Table 16-7). -/
  reservedSlots : Nat
  /-- pool slots (16 Table 16-7). -/
  poolSlots : Nat
  /-- class table (16 Table 16-8). -/
  classes : List ClassDef
  /-- platform table (02 R88). -/
  plats : List PlatEntry
  /-- station shares (16 Table 16-9). -/
  shares : List ShareEntry
  /-- contingency index of each loss case (16 Table 16-6). -/
  groups : List Nat
  /-- number of contingencies (16 Table 16-6). -/
  conts : Nat
  /-- station timetables (16 Table 16-10). -/
  tables : List StnTable
  /-- identity map (11 R431). -/
  idmap : List (BitVec 8)
  /-- tenant records (16 Table 16-6). -/
  tenants : List TenantRec
  /-- address windows, tenant-major (08 R349). -/
  windows : List Window
  /-- nodes (09 R379). -/
  nodes : List Node
  /-- templates (09 R379). -/
  templates : List Template
  /-- resident records (16 Table 16-6). -/
  residents : List (Nat × BitVec 20)
  /-- curve additions (16 Table 16-6). -/
  curves : List Bytes
  /-- severity rules (12 R465). -/
  rules : List SevRule
  /-- user calibration offsets (13 R515). -/
  offsets : List (Nat × Int)
  /-- firmware patches (16 Table 16-11). -/
  patches : List (Nat × Bytes)
  /-- body of section 0x09 (16 R584). -/
  keyBody : Bytes
  /-- bodies of sections 0x03 to 0x06 (16 R584). -/
  ttBody : Bytes
deriving DecidableEq, Repr

/-- Image as reset leaves it. -/
def Image.reset : Image :=
  { contract := 0,
    seq := 0,
    instNo := none,
    mgmtCap := 32,
    latchMin := 1,
    dumpBase := 0,
    dumpLen := 0,
    residentSlots := 0,
    reservedSlots := 0,
    poolSlots := 0,
    classes := [],
    plats := [],
    shares := [],
    groups := [],
    conts := 0,
    tables := [],
    idmap := [],
    tenants := [],
    windows := [],
    nodes := [],
    templates := [],
    residents := [],
    curves := [],
    rules := [],
    offsets := [],
    patches := [],
    keyBody := [],
    ttBody := [] }

/-- The data of one step of an admitted request (03 R135, 08 R344). -/
structure StepState where
  /-- station that runs it (02 R68). -/
  station : Nat
  /-- source bytes staged (08 R344). -/
  src : Bytes
  /-- auxiliary bytes staged (08 R344). -/
  aux : Bytes
  /-- host bytes the step reads, source then auxiliary (08 R344). -/
  need : Nat
  /-- host bytes whose bursts are issued (08 R339). -/
  issued : Nat
  /-- host bytes landed (08 R344). -/
  landed : Nat
  /-- tick in which the last input landed (08 R344). -/
  landTick : Nat
  /-- output held until its release (04 R198, 07 R316). -/
  out : Bytes
  /-- key held until its release: value and public key (07 R316). -/
  key : Option (Bytes × Bytes)
  /-- output bytes of earlier pieces handed to the write bobbins (02 R69, 08 R345). -/
  streamed : Nat
  /-- host bytes of its output, once it has completed (03 R143). -/
  wrote : Nat
  /-- values drawn for the step: with its first key transfer, in its validation tick, or as its pieces run (04 R189, 07 R308). -/
  drawn : Bytes
  /-- C drawn for the step (04 R188, R189). -/
  counter : Option Nat
  /-- the first key transfer of the step is made (04 R189). -/
  keysDone : Bool
  /-- tick for which the latest key transfer of the step brought its keys (04 R173). -/
  keysTick : Nat
  /-- hold chunks the step has taken and not given back (04 R199). -/
  hold : Nat
  /-- of these, from the platform's share (04 R200). -/
  holdShare : Nat
  /-- staging chunks its input takes from the common pool (08 R348). -/
  region : Nat
  /-- host bytes that had landed at the tick boundary (08 R344, R348). -/
  present : Nat
  /-- check symbols of the source words staged (01 R26, R27). -/
  srcSym : Bytes
  /-- check symbols of the auxiliary words staged (01 R26, R27). -/
  auxSym : Bytes
  /-- check symbols of the output held until its release (01 R30). -/
  outSym : Bytes
  /-- its IV has gone to the write bobbins (08 R334). -/
  ivSent : Bool
  /-- check symbols of the values drawn (01 R30). -/
  drawnSym : Bytes
  /-- check symbols of the key held until its release (01 R30). -/
  keySym : Bytes
  /-- check symbols of the public key held until its release (01 R30). -/
  pubSym : Bytes
deriving DecidableEq, Repr

/-- StepState as reset leaves it. -/
def StepState.reset : StepState :=
  { station := 0,
    src := [],
    aux := [],
    need := 0,
    issued := 0,
    landed := 0,
    landTick := 0,
    out := [],
    key := none,
    streamed := 0,
    wrote := 0,
    drawn := [],
    counter := none,
    keysDone := false,
    keysTick := 0,
    hold := 0,
    holdShare := 0,
    region := 0,
    present := 0,
    srcSym := [],
    auxSym := [],
    outSym := [],
    ivSent := false,
    drawnSym := [],
    keySym := [],
    pubSym := [] }

/-- What one hardened unit of a pair holds of an SS step, which the other unit never sees (07 R295, R306). -/
structure SealedUnit where
  /-- first share of the key (07 R295). -/
  share0 : Bytes
  /-- second share of the key (07 R295). -/
  share1 : Bytes
  /-- check symbols of the two shares (01 R26). -/
  shareSym : Bytes × Bytes
  /-- its blinding values: lambda, Z and beta, or lambda p, lambda q and rho (07 R306, Table 07-7). -/
  blind : List Nat
deriving DecidableEq, Repr

/-- SealedUnit as reset leaves it. -/
def SealedUnit.reset : SealedUnit :=
  { share0 := [],
    share1 := [],
    shareSym := ([], []),
    blind := [] }

/-- A private key out of a key block, until its signature has been verified (09 R397). -/
structure ImportedKey where
  /-- algorithm (09 R395). -/
  alg : Nat
  /-- size of its template (09 Table 09-6). -/
  size : Nat
  /-- value (09 R394). -/
  value : Bytes
  /-- check symbols of the value (01 R26). -/
  sym : Bytes
  /-- public key (09 R394). -/
  pub : Bytes
  /-- the header lets it be exported (09 R394). -/
  exp : Bool
deriving DecidableEq, Repr

/-- ImportedKey as reset leaves it. -/
def ImportedKey.reset : ImportedKey :=
  { alg := 0,
    size := 0,
    value := [],
    sym := [],
    pub := [],
    exp := false }

/-- One slot of a tree level that a KS derivation entry has run in the tick (02 R94). -/
structure LevelSlot where
  /-- position (02 R77). -/
  pos : Nat
  /-- position whose lane ran it (12 R474). -/
  lane : Nat
  /-- a standby ran it too (02 R78). -/
  shadowed : Bool
deriving DecidableEq, Repr

/-- LevelSlot as reset leaves it. -/
def LevelSlot.reset : LevelSlot :=
  { pos := 0,
    lane := 0,
    shadowed := false }

/-- Output bytes of a request waiting for write bursts (08 R345). -/
structure OutPart where
  /-- host address of the next byte (03 Table 03-8). -/
  addr : BitVec 64
  /-- bytes not yet issued (08 R345). -/
  data : Bytes
  /-- check symbols of its words (01 R26, R30). -/
  sym : Bytes
  /-- first tick in which the write bobbins can use them (02 R69). -/
  ready : Nat
  /-- the auxiliary output of the step (03 Table 03-8). -/
  aux : Bool
  /-- the step it belongs to (08 R351). -/
  step : Nat
deriving DecidableEq, Repr

/-- OutPart as reset leaves it. -/
def OutPart.reset : OutPart :=
  { addr := 0,
    data := [],
    sym := [],
    ready := 0,
    aux := false,
    step := 0 }

/-- An admitted request (02 R74, 03 R131). -/
structure Request where
  /-- identifier (model). -/
  rid : Nat
  /-- tenant (03 R131). -/
  tenant : Nat
  /-- ring pair (03 R131). -/
  ring : Nat
  /-- ring index of its first descriptor (03 R154). -/
  index : BitVec 16
  /-- its descriptors (03 R131). -/
  descs : List Bytes
  /-- its class (03 R133). -/
  cls : ClassDef
  /-- platform index (02 R74). -/
  plat : Nat
  /-- in rate, over rate or freight (02 R72). -/
  rate : RateClass
  /-- admission tick (02 R96). -/
  admitTick : Nat
  /-- time of the admission boundary (02 R97). -/
  admitWall : Nat
  /-- B in force at admission (16 R594). -/
  bound : Nat
  /-- through platform (02 R97). -/
  through : Bool
  /-- data of its steps (03 R131). -/
  steps : List StepState
  /-- the step it is at (02 R68). -/
  cur : Nat
  /-- first tick in which that step can be ready (02 R68). -/
  readyTick : Nat
  /-- slots the step has run, counted pieces only (02 R94). -/
  slots : Nat
  /-- ticks in which the step has run (04 R636). -/
  ticks : Nat
  /-- tick of its latest piece (02 R66). -/
  pieceTick : Nat
  /-- slots of that piece (02 R66). -/
  pieceSlots : Nat
  /-- position of that piece (02 R77). -/
  piecePos : Nat
  /-- position whose lane runs it: its own, or that of a standby that stands in (12 R474). -/
  laneAt : Nat
  /-- a standby runs every slot of that piece (02 R78). -/
  shadowed : Bool
  /-- the step ended in pieceTick (02 R69). -/
  finished : Bool
  /-- the validation tick has passed (06 R277). -/
  validated : Bool
  /-- key copied into its VS region, or absorbed, at the first piece of the step (06 R265, 05 R249). -/
  key : Bytes
  /-- check symbols of that copy (01 R26). -/
  keySym : Bytes
  /-- digest state key that its first piece has taken from the endpoint (05 R244). -/
  stateKey : Bytes
  /-- check symbols of that copy (01 R26). -/
  stateSym : Bytes
  /-- its first piece found that the blob does not open (05 R246). -/
  broken : Bool
  /-- what each unit of the pair holds of its SS step (07 R295, R306, R311). -/
  units : List SealedUnit
  /-- what SS passed to VS for the check of a signature: s', m', N, e (07 R313). -/
  check : List Nat
  /-- tick of the piece that copied it (06 R265, 07 R295). -/
  keyTick : Nat
  /-- private key that it has imported and that is still to be checked (09 R397). -/
  imported : Option ImportedKey
  /-- status it completes with once its output is written (03 R155). -/
  final : BitVec 8
  /-- VS region blocks held (06 R276). -/
  vsBlocks : Nat
  /-- SS region blocks held (07 R324). -/
  ssBlocks : Nat
  /-- the VS region is from the platform's share (06 R276). -/
  vsShared : Bool
  /-- the SS region is from the platform's share (07 R324). -/
  ssShared : Bool
  /-- consecutive mismatched runs of the step (06 R257). -/
  reruns : Nat
  /-- counted wait of the step (02 R105). -/
  wait : Nat
  /-- its SS work was discarded by a hold (07 R326). -/
  held : Bool
  /-- its SS step runs again: its values are drawn afresh in the tick in which it restarts (07 R308). -/
  redraw : Bool
  /-- position of the pair on which its SS step runs again (07 R312). -/
  pairAt : Option Nat
  /-- what the request waits for (07 R316). -/
  stage : ReqStage
  /-- output waiting for write bursts (08 R345). -/
  outq : List OutPart
  /-- completion auxiliary of the last step (03 Table 03-16). -/
  auxOut : Bytes
  /-- a return for the request was late (08 R353). -/
  late : Bool
  /-- a piece came from a shadow or was run again (02 R98). -/
  replayed : Bool
  /-- a piece was discarded by a lane retirement (02 R100). -/
  replaying : Bool
  /-- abort: tick and slot boundary at which it stops (03 R160). -/
  stopAt : Option (Nat × Nat)
  /-- handles that missed, to be derived (09 R382). -/
  misses : List (BitVec 20)
  /-- levels that KS derivation entries had run for them at the start of the tick: 2 slots each (02 R94, 09 R383). -/
  missRun : Nat
  /-- levels half way at the start of the tick (02 R67, R94). -/
  missHalf : Nat
  /-- slots run for them in the tick (02 R66, R100). -/
  missLog : List LevelSlot
  /-- handles whose key has been transferred (09 R399). -/
  carried : List (BitVec 20)
  /-- NOINT of its first descriptor (03 R157). -/
  noint : Bool
  /-- CRT-check source of the pair that signed (07 R315). -/
  signSrc : BitVec 16
  /-- IMMED of its first descriptor (03 R157). -/
  immed : Bool
  /-- its SHA-3 work has moved to the other digest station (02 R637). -/
  moved : Bool
deriving DecidableEq, Repr

/-- Request as reset leaves it. -/
def Request.reset : Request :=
  { rid := 0,
    tenant := 0,
    ring := 0,
    index := 0,
    descs := [],
    cls := ClassDef.reset,
    plat := 0,
    rate := .inRate,
    admitTick := 0,
    admitWall := 0,
    bound := 0,
    through := false,
    steps := [],
    cur := 0,
    readyTick := 0,
    slots := 0,
    ticks := 0,
    pieceTick := 0,
    pieceSlots := 0,
    piecePos := 0,
    laneAt := 0,
    shadowed := false,
    finished := false,
    validated := false,
    key := [],
    keySym := [],
    stateKey := [],
    stateSym := [],
    broken := false,
    units := [],
    check := [],
    keyTick := 0,
    imported := none,
    final := 0,
    vsBlocks := 0,
    ssBlocks := 0,
    vsShared := false,
    ssShared := false,
    reruns := 0,
    wait := 0,
    held := false,
    redraw := false,
    pairAt := none,
    stage := .running,
    outq := [],
    auxOut := List.replicate 8 0,
    late := false,
    replayed := false,
    replaying := false,
    stopAt := none,
    misses := [],
    missRun := 0,
    missHalf := 0,
    missLog := [],
    carried := [],
    noint := false,
    signSrc := 0,
    immed := false,
    moved := false }

/-- A request that ended and whose entry is not yet written (03 R153). -/
structure Ended where
  /-- identifier (model). -/
  rid : Nat
  /-- tenant (03 R153). -/
  tenant : Nat
  /-- ring pair (03 R153). -/
  ring : Nat
  /-- first index (03 R154). -/
  index : BitVec 16
  /-- descriptors (03 R164). -/
  descs : List Bytes
  /-- status (03 Table 03-18). -/
  status : BitVec 8
  /-- auxiliary field (03 R154). -/
  auxOut : Bytes
  /-- output length (03 R143). -/
  outLen : Nat
  /-- host bytes of the steps it completed (03 R143). -/
  stepLens : List Nat
  /-- admission tick (02 R96). -/
  admitTick : Nat
  /-- time of the admission boundary (02 R97). -/
  admitWall : Nat
  /-- tick in which the entry is written (03 R153). -/
  due : Nat
  /-- false: completed at admission (03 R134). -/
  admitted : Bool
  /-- platform (02 R74). -/
  plat : Nat
  /-- in rate, over rate or freight (02 R72). -/
  rate : RateClass
  /-- through platform (02 R97). -/
  through : Bool
  /-- B (02 R97). -/
  bound : Nat
  /-- a return was late (02 R97). -/
  late : Bool
  /-- replayed (02 R98). -/
  replayed : Bool
  /-- NOINT (03 R157). -/
  noint : Bool
  /-- IMMED (03 R157). -/
  immed : Bool
deriving DecidableEq, Repr

/-- Ended as reset leaves it. -/
def Ended.reset : Ended :=
  { rid := 0,
    tenant := 0,
    ring := 0,
    index := 0,
    descs := [],
    status := 0,
    auxOut := List.replicate 8 0,
    outLen := 0,
    stepLens := [],
    admitTick := 0,
    admitWall := 0,
    due := 0,
    admitted := true,
    plat := 0,
    rate := .inRate,
    through := false,
    bound := 0,
    late := false,
    replayed := false,
    noint := false,
    immed := false }

/-- A burst issued on a fabric port and not yet returned (08 R333). -/
structure Burst where
  /-- tag, unique among outstanding bursts (18 R609). -/
  tag : Nat
  /-- port (08 R332). -/
  port : Nat
  /-- write burst (08 R333). -/
  write : Bool
  /-- address (18 Table 18-1). -/
  addr : BitVec 64
  /-- bytes, at most 512 (08 R333). -/
  len : Nat
  /-- initiator identity (08 R335). -/
  ident : BitVec 12
  /-- what the burst carries (08 R332). -/
  kind : BurstKind
  /-- write data (08 R333). -/
  data : Bytes
  /-- tick of issue (08 R353). -/
  tick : Nat
  /-- time at which that tick began, in units of 0.2 ns (08 R355). -/
  wall : Nat
  /-- timed out: what still returns is discarded (08 R357). -/
  dead : Bool
  /-- nobody takes what it brings: its ring was enabled anew, or the block locked down (03 R125, 12 R478). -/
  dropped : Bool
deriving DecidableEq, Repr

/-- Burst as reset leaves it. -/
def Burst.reset : Burst :=
  { tag := 0,
    port := 0,
    write := false,
    addr := 0,
    len := 0,
    ident := 0,
    kind := .output 0 0,
    data := [],
    tick := 0,
    wall := 0,
    dead := false,
    dropped := false }

/-- A shunt due (12 R473). -/
structure Takeover where
  /-- 8 x station + engine (12 R473). -/
  engine : Nat
  /-- logical position (12 R473). -/
  pos : Nat
  /-- lane that takes over (12 R473). -/
  lane : Nat
  /-- second boundary after the fault tick (12 R473). -/
  tick : Nat
deriving DecidableEq, Repr

/-- Takeover as reset leaves it. -/
def Takeover.reset : Takeover :=
  { engine := 0,
    pos := 0,
    lane := 0,
    tick := 0 }

/-- A contingency switch due (02 R101). -/
structure SwitchDue where
  /-- engine that lost a position (02 R101). -/
  engine : Nat
  /-- loss case, in the order of the set head (02 Table 02-7). -/
  case : Nat
  /-- fault source of the loss (02 Table 02-15). -/
  source : BitVec 16
  /-- second boundary after the fault tick (02 R101). -/
  tick : Nat
deriving DecidableEq, Repr

/-- SwitchDue as reset leaves it. -/
def SwitchDue.reset : SwitchDue :=
  { engine := 0,
    case := 0,
    source := 0,
    tick := 0 }

/-- A record of a key-store area (09 R386). -/
structure StoreRec where
  /-- record number (09 R385). -/
  recno : Nat
  /-- tenant (09 R386). -/
  tenant : Nat
  /-- handle (09 R386). -/
  handle : BitVec 20
  /-- algorithm (09 R386). -/
  alg : BitVec 16
  /-- usage (09 R386). -/
  usage : BitVec 8
  /-- EXPORT (09 R386). -/
  exp : Bool
  /-- SECRET (09 R386). -/
  secret : Bool
  /-- TOMB (09 R386). -/
  tomb : Bool
  /-- store sequence S (09 R386). -/
  seq : BitVec 64
  /-- storage key generation g (09 R386). -/
  gen : BitVec 32
  /-- KCV (09 R386). -/
  kcv : BitVec 24
  /-- the value the record wraps (09 R386). -/
  value : Bytes
  /-- public key kept with a private key (09 R374). -/
  pub : Bytes
  /-- record hash (09 R386). -/
  hash : Bytes
  /-- IV under which its value is wrapped (09 R386). -/
  iv : Bytes
  /-- offset of the record in the heap, in 64-byte units (09 R385). -/
  off : Nat
  /-- CRC-16 of its index entry (09 R385). -/
  crc : BitVec 16
deriving DecidableEq, Repr

/-- StoreRec as reset leaves it. -/
def StoreRec.reset : StoreRec :=
  { recno := 0,
    tenant := 0,
    handle := 0,
    alg := 0,
    usage := 0,
    exp := false,
    secret := true,
    tomb := false,
    seq := 0,
    gen := 0,
    kcv := 0,
    value := [],
    pub := [],
    hash := [],
    iv := [],
    off := 0,
    crc := 0 }

/-- A record write under way (09 R387). -/
structure Commit where
  /-- the record, S not yet given (09 R387). -/
  record : StoreRec
  /-- request that waits for it (07 R322). -/
  rid : Option Nat
  /-- key entry of the tenant waits for it (09 R391). -/
  ke : Bool
  /-- atomic replacement (09 R392). -/
  replace : Bool
  /-- the key is also placed in the cache (07 R322). -/
  cached : Bool
  /-- appends that failed their check (09 R387). -/
  tries : Nat
deriving DecidableEq, Repr

/-- Commit as reset leaves it. -/
def Commit.reset : Commit :=
  { record := StoreRec.reset,
    rid := none,
    ke := false,
    replace := false,
    cached := false,
    tries := 0 }

/-- A key-entry operation written and not yet finished (09 R391, 13 R501). -/
structure KeJob where
  /-- OP (09 Table 09-19). -/
  op : Nat
  /-- the TN_KE_CTRL value written (09 Table 09-19). -/
  value : BitVec 64
  /-- TN_KE_KCV as it stood at the write (09 Table 09-19). -/
  kcv : BitVec 24
  /-- TN_KE_DATAn as they stood at the write (09 Table 09-19). -/
  data : Bytes
  /-- identity that wrote it (09 R391). -/
  ident : BitVec 12
  /-- the writes of its component came from more than one identity (09 R391). -/
  mixed : Bool
  /-- tick of the write (09 R391). -/
  tick : Nat
deriving DecidableEq, Repr

/-- KeJob as reset leaves it. -/
def KeJob.reset : KeJob :=
  { op := 0,
    value := 0,
    kcv := 0,
    data := [],
    ident := 0,
    mixed := false,
    tick := 0 }

/-- A reply of the Registrar that waits for an empty inbound mailbox (11 R443). -/
structure Reply where
  /-- tenant mailbox, none for the management mailbox (11 R443). -/
  tenant : Option Nat
  /-- the message (11 Table 11-6). -/
  bytes : Bytes
  /-- the request is answered by it (11 R444). -/
  final : Bool
deriving DecidableEq, Repr

/-- Reply as reset leaves it. -/
def Reply.reset : Reply :=
  { tenant := none,
    bytes := [],
    final := true }

/-- A waybill whose signature is pending on SS (15 R569). -/
structure WaybillJob where
  /-- tenant waybill, none for a block waybill (15 R567). -/
  tenant : Option Nat
  /-- the request message (15 R567). -/
  req : Bytes
  /-- the bytes to be signed (15 R568). -/
  payload : Bytes
  /-- slots its internal step has run (02 R76). -/
  slots : Nat
  /-- tick of the latest of them (07 R326). -/
  lastTick : Nat
  /-- random values of the signature (15 R569). -/
  drawn : Bytes
  /-- position of its latest slot; 255 where a retirement has discarded its piece (02 R77). -/
  pos : Nat
  /-- position whose pair ran it (12 R474). -/
  lane : Nat
  /-- slots of its latest piece (02 R66). -/
  here : Nat
  /-- a standby ran every slot of it too (02 R78). -/
  shadowed : Bool
  /-- it runs again: its values are drawn afresh in its first slot (07 R308). -/
  redraw : Bool
  /-- reruns of the signature (07 R312). -/
  reruns : Nat
deriving DecidableEq, Repr

/-- WaybillJob as reset leaves it. -/
def WaybillJob.reset : WaybillJob :=
  { tenant := none,
    req := [],
    payload := [],
    slots := 0,
    lastTick := 0,
    drawn := [],
    pos := 0,
    lane := 0,
    here := 0,
    shadowed := false,
    redraw := false,
    reruns := 0 }

/-- A management transfer that has bursts to issue (08 R342). -/
structure MgmtXfer where
  /-- control processor that started it: 0 Custody, 1 Supervisor, 2 Registrar (08 Table 08-1). -/
  proc : Nat
  /-- to host memory (08 R342). -/
  write : Bool
  /-- host address of the next byte (08 R342). -/
  addr : BitVec 64
  /-- bytes not yet issued (08 R342). -/
  left : Nat
  /-- of a write: these bytes (08 R342). -/
  data : Bytes
  /-- check symbols of those bytes (01 R26). -/
  sym : Bytes
deriving DecidableEq, Repr

/-- MgmtXfer as reset leaves it. -/
def MgmtXfer.reset : MgmtXfer :=
  { proc := 0,
    write := false,
    addr := 0,
    left := 0,
    data := [],
    sym := [] }

/-- Fault record of Table 12-5 (12 R471). -/
structure FaultRec where
  /-- TRH_TICK of the report (12 R471). -/
  tick : Nat
  /-- source identity (12 R471). -/
  source : BitVec 16
  /-- effective severity (12 R471). -/
  severity : Nat
  /-- flag PROOF (12 R471). -/
  proof : Bool
  /-- flag ACKED (12 R471). -/
  acked : Bool
  /-- flag ACTION (12 R471). -/
  action : Bool
  /-- flag SUPERSEDED (12 R469). -/
  superseded : Bool
  /-- flag PROMOTED (12 R463). -/
  promoted : Bool
  /-- reports of the source in this tick (12 R471). -/
  count : Nat
  /-- detail field (12 R471). -/
  detail : BitVec 16
deriving DecidableEq, Repr

/-- FaultRec as reset leaves it. -/
def FaultRec.reset : FaultRec :=
  { tick := 0,
    source := 0,
    severity := 0,
    proof := false,
    acked := false,
    action := false,
    superseded := false,
    promoted := false,
    count := 0,
    detail := 0 }

/-- A descriptor the engine has read and holds (03 R125). -/
structure HeldDesc where
  /-- ring index (03 R125). -/
  index : BitVec 16
  /-- the 64 bytes as read (03 R129). -/
  bytes : Bytes
  /-- tick in which it landed (03 R635). -/
  landTick : Nat
  /-- DCLK cycle in which it landed (03 R635). -/
  landCycle : Nat
  /-- the read returned late (08 R353). -/
  late : Bool
  /-- check symbols of its four words (01 R26, R27). -/
  sym : Bytes
deriving DecidableEq, Repr

/-- HeldDesc as reset leaves it. -/
def HeldDesc.reset : HeldDesc :=
  { index := 0,
    bytes := [],
    landTick := 0,
    landCycle := 0,
    late := false,
    sym := [] }

/-- One ring pair of a tenant page (03 R112 to R128). -/
structure Ring where
  /-- TN_RQ_BASE_k (03 R128 Table 03-2). -/
  rqBase : BitVec 64
  /-- TN_CQ_BASE_k (03 R128 Table 03-2). -/
  cqBase : BitVec 64
  /-- TN_RING_CFG_k.ENABLE (03 R128 Table 03-3). -/
  enable : Bool
  /-- TN_RING_CFG_k.PORT (03 R128 Table 03-3). -/
  port : BitVec 2
  /-- TN_RING_CFG_k.SIZE (03 R128 Table 03-3). -/
  size : BitVec 4
  /-- TN_RING_STAT_k.CFG_ERR (03 R116 Table 03-4). -/
  cfgErr : BitVec 4
  /-- TN_RING_STAT_k.IDX_ERR (03 R119 Table 03-4). -/
  idxErr : Bool
  /-- TN_RING_STAT_k.OUTSTANDING (03 Table 03-4). -/
  outstanding : Nat
  /-- TN_SQ_TAIL_k (the last tail written before ready is the recorded doorbell, R122) (03 R118 Table 03-5). -/
  sqTail : BitVec 16
  /-- TN_SQ_HEAD_k (03 R118 Table 03-5). -/
  sqHead : BitVec 16
  /-- TN_CQ_TAIL_k.INDEX (03 R153 Table 03-6). -/
  cqTail : BitVec 16
  /-- TN_CQ_TAIL_k.PHASE (03 R153 Table 03-6). -/
  phase : Bool
  /-- TN_CQ_HEAD_k (03 R119 Table 03-5). -/
  cqHead : BitVec 16
  /-- TN_COAL_k.TIME (03 R157 Table 03-7). -/
  coalTime : BitVec 12
  /-- TN_COAL_k.COUNT (03 R157 Table 03-7). -/
  coalCount : BitVec 8
  /-- descriptors read and held (03 R125). -/
  held : List HeldDesc
  /-- the head chain is taken and waits for descriptors that landed late (03 R635). -/
  kept : Bool
  /-- the head chain is taken and waits for the end of its tenant's DISCARD (03 R146). -/
  waits : Bool
  /-- indices marked by aborts, not yet fetched (03 R160). -/
  marks : List (BitVec 16)
  /-- fetching stopped by an error until enabled anew (R127, R156) (03 R127). -/
  stopped : Bool
  /-- the engine fetches from this ring (changes at tick boundaries) (03 R117). -/
  fetching : Bool
  /-- a completion write failed: later entries are lost until enabled anew (03 R156). -/
  lost : Bool
  /-- coalescing: pending count (03 R157). -/
  pend : Nat
  /-- coalescing: write tick of the oldest pending entry (03 R157). -/
  oldest : Option Nat
deriving DecidableEq, Repr

/-- Ring as reset leaves it. -/
def Ring.reset : Ring :=
  { rqBase := 0,
    cqBase := 0,
    enable := false,
    port := 0,
    size := 6,
    cfgErr := 0,
    idxErr := false,
    outstanding := 0,
    sqTail := 0,
    sqHead := 0,
    cqTail := 0,
    phase := true,
    cqHead := 0,
    coalTime := 0,
    coalCount := 1,
    held := [],
    kept := false,
    waits := false,
    marks := [],
    stopped := false,
    fetching := false,
    lost := false,
    pend := 0,
    oldest := none }

/-- A completion recorded and not yet in the audit head (03 R164). -/
structure AuditRec where
  /-- completion tick c (03 R165). -/
  tick : Nat
  /-- ring pair number (03 R165). -/
  ring : Nat
  /-- completion ring order (03 R165). -/
  seq : Nat
  /-- E (03 R164). -/
  digest : Bytes
deriving DecidableEq, Repr

/-- AuditRec as reset leaves it. -/
def AuditRec.reset : AuditRec :=
  { tick := 0,
    ring := 0,
    seq := 0,
    digest := [] }

/-- An outbound mailbox (11 R441). -/
structure MboxOut where
  /-- MBO_DATAn (11 Table 11-13). -/
  data : Vector (BitVec 64) 8
  /-- FULL (11 R441). -/
  full : Bool
  /-- REFUSED (11 R441). -/
  refused : Bool
  /-- ABORTED (11 R446). -/
  aborted : Bool
  /-- EMPTIED (11 R442). -/
  emptied : Bool
  /-- stamp: tenant (11 Table 11-5). -/
  stampTenant : BitVec 8
  /-- stamp: role (11 Table 11-5). -/
  stampRole : BitVec 8
  /-- stamp: identity (11 Table 11-5). -/
  stampIdent : BitVec 12
  /-- stamp: tick (11 Table 11-5). -/
  stampTick : BitVec 32
  /-- tick of the SEND (11 R444). -/
  sendTick : Nat
  /-- a request taken from this mailbox is unanswered (11 R444). -/
  unanswered : Bool
deriving DecidableEq, Repr

/-- MboxOut as reset leaves it. -/
def MboxOut.reset : MboxOut :=
  { data := .replicate 8 0,
    full := false,
    refused := false,
    aborted := false,
    emptied := false,
    stampTenant := 0,
    stampRole := 0,
    stampIdent := 0,
    stampTick := 0,
    sendTick := 0,
    unanswered := false }

/-- An inbound mailbox (11 R443). -/
structure MboxIn where
  /-- MBI_DATAn (11 Table 11-13). -/
  data : Vector (BitVec 64) 8
  /-- FULL (11 R443). -/
  full : Bool
  /-- MBI_STAMP (11 Table 11-16). -/
  stamp : BitVec 64
deriving DecidableEq, Repr

/-- MboxIn as reset leaves it. -/
def MboxIn.reset : MboxIn :=
  { data := .replicate 8 0,
    full := false,
    stamp := 0 }

/-- An open key-entry session (09 R391). -/
structure KeSession where
  /-- NCOMP (09 R391). -/
  ncomp : Nat
  /-- REPLACE (09 R392). -/
  replace : Bool
  /-- accepted components (09 R391). -/
  comps : List Bytes
  /-- check symbols of the accepted components (01 R26). -/
  compSym : List Bytes
  /-- identities that entered a component (09 R391). -/
  idents : List (BitVec 12)
  /-- handle that the session fills (09 R391). -/
  handle : BitVec 20
  /-- tick of the last accepted write (09 R391). -/
  lastTick : Nat
deriving DecidableEq, Repr

/-- KeSession as reset leaves it. -/
def KeSession.reset : KeSession :=
  { ncomp := 0,
    replace := false,
    comps := [],
    compSym := [],
    idents := [],
    handle := 0,
    lastTick := 0 }

/-- The key-entry window of a tenant (09 R390, R406). -/
structure KeyEntry where
  /-- TN_KE_KCV (09 Table 09-19). -/
  kcv : BitVec 24
  /-- TN_KE_DATAn (write-secret) (09 Table 09-19). -/
  data : Vector (BitVec 64) 8
  /-- check symbols of their four words (01 R26, R27). -/
  dataSym : Bytes
  /-- TN_KE_STAT.STATE (09 Table 09-20). -/
  state : BitVec 4
  /-- TN_KE_STAT.RESULT (09 Table 09-20). -/
  result : BitVec 4
  /-- TN_KE_STAT.HANDLE (09 Table 09-20). -/
  handle : BitVec 20
  /-- the open session (09 R391). -/
  session : Option KeSession
  /-- identity of the first data write of the current component (09 R391). -/
  wIdent : Option (BitVec 12)
  /-- writes since then came from another identity too (09 R391). -/
  wMixed : Bool
  /-- operation started, its result not yet posted (09 R391). -/
  job : Option KeJob
  /-- operations held under a caution, in the order written (13 R501). -/
  heldOps : List KeJob
deriving DecidableEq, Repr

/-- KeyEntry as reset leaves it. -/
def KeyEntry.reset : KeyEntry :=
  { kcv := 0,
    data := .replicate 8 0,
    dataSym := List.replicate 12 0,
    state := 0,
    result := 0,
    handle := 0,
    session := none,
    wIdent := none,
    wMixed := false,
    job := none,
    heldOps := [] }

/-- One tenant page and its FIFO window (17 R605). -/
structure TenantPage where
  /-- ring pairs 0 to 3 (03 R112). -/
  rings : Vector Ring 4
  /-- complete inline items, oldest first (03 R144). -/
  fifoItems : List Bytes
  /-- check symbols of their words (01 R26, R27). -/
  fifoSym : List Bytes
  /-- the item being written (03 R144). -/
  fifoPart : Bytes
  /-- check symbols of its 16-byte words that are formed (01 R27). -/
  fifoPartSym : Bytes
  /-- dropping or discarding (DISCARD) (03 R148 Table 03-15). -/
  fifoDrop : Bool
  /-- TN_FIFO_CTRL.LEVEL (03 Table 03-14). -/
  fifoLevel : BitVec 6
  /-- TN_FIFO_STAT.OVERFLOW (03 Table 03-15). -/
  overflow : Bool
  /-- TN_FIFO_STAT.LEVEL_HIT (03 Table 03-15). -/
  levelHit : Bool
  /-- TN_FIFO_STAT.EMPTY_MID (03 Table 03-15). -/
  emptyMid : Bool
  /-- TN_ABORT_STAT.RESULT (03 Table 03-20). -/
  abortResult : BitVec 2
  /-- TN_ABORT_STAT.COUNT (03 Table 03-20). -/
  abortCount : Nat
  /-- requests the last abort found, not yet completed (03 R163). -/
  abortReqs : List Nat
  /-- marks of the last abort not yet acted on (03 R163). -/
  abortMarks : List (Nat × BitVec 16)
  /-- live audit head (03 R165). -/
  auditHead : Bytes
  /-- live audit count (03 R165). -/
  auditCount : BitVec 64
  /-- live through-tick (03 R167). -/
  auditThrough : BitVec 64
  /-- completions not yet in the head (03 R167). -/
  auditPend : List AuditRec
  /-- TN_AUDIT_HEAD0 to 3 (03 R168). -/
  snapHead : Bytes
  /-- TN_AUDIT_COUNT (03 R168). -/
  snapCount : BitVec 64
  /-- TN_AUDIT_THROUGH (03 R168). -/
  snapThrough : BitVec 64
  /-- TN_FAB_STAT.LATE (08 Table 08-11). -/
  fabLate : Nat
  /-- TN_FAB_STAT.FABERR (08 Table 08-11). -/
  fabErr : Nat
  /-- key-entry window (09 R406). -/
  ke : KeyEntry
  /-- TN_INT_STATUS (11 Table 11-12). -/
  intStatus : BitVec 4
  /-- TN_INT_ENABLE (11 Table 11-12). -/
  intEnable : BitVec 4
  /-- outbound mailbox (11 R441). -/
  mbo : MboxOut
  /-- inbound mailbox (11 R443). -/
  mbi : MboxIn
  /-- TN_RESET.BUSY (11 Table 11-20). -/
  resetBusy : Bool
  /-- TN_FAULTS.FOREIGN (11 Table 11-21). -/
  foreign : Nat
  /-- the debug challenge held for the tenant (15 R559). -/
  challenge : Option Bytes
  /-- a session or held operation was ended by the running reset (KE result 9) (11 Table 11-4). -/
  keNine : Bool
deriving DecidableEq, Repr

/-- TenantPage as reset leaves it. -/
def TenantPage.reset : TenantPage :=
  { rings := .replicate 4 Ring.reset,
    fifoItems := [],
    fifoSym := [],
    fifoPart := [],
    fifoPartSym := [],
    fifoDrop := false,
    fifoLevel := 0,
    overflow := false,
    levelHit := false,
    emptyMid := false,
    abortResult := 0,
    abortCount := 0,
    abortReqs := [],
    abortMarks := [],
    auditHead := List.replicate 32 0,
    auditCount := 0,
    auditThrough := 0,
    auditPend := [],
    snapHead := List.replicate 32 0,
    snapCount := 0,
    snapThrough := 0,
    fabLate := 0,
    fabErr := 0,
    ke := KeyEntry.reset,
    intStatus := 0,
    intEnable := 0,
    mbo := MboxOut.reset,
    mbi := MboxIn.reset,
    resetBusy := false,
    foreign := 0,
    challenge := none,
    keNine := false }

/-- Management page state: lock, selectors, interrupts, mailbox (11 R450 to R459). -/
structure Mgmt where
  /-- the lock is held (11 R450). -/
  held : Bool
  /-- SRC: holder is a control processor (11 R450). -/
  src : Bool
  /-- holder identity (11 R450). -/
  holder : BitVec 12
  /-- TRH_MGMT_LEASE (11 Table 11-22). -/
  lease : BitVec 16
  /-- lease ticks remaining (11 Table 11-23). -/
  remain : Nat
  /-- EXPIRED (11 Table 11-23). -/
  expired : Nat
  /-- DENIED (11 Table 11-23). -/
  denied : Nat
  /-- TRH_TN_RESET.TENANT (11 Table 11-20). -/
  tnReset : BitVec 6
  /-- TRH_TN_FOREIGN.OFFSET (11 Table 11-24). -/
  fgnOffset : BitVec 24
  /-- TRH_TN_FOREIGN.WRITE (11 Table 11-24). -/
  fgnWrite : Bool
  /-- TRH_TN_FOREIGN.TEN_V (11 Table 11-24). -/
  fgnTenV : Bool
  /-- TRH_TN_FOREIGN.TENANT (11 Table 11-24). -/
  fgnTenant : BitVec 6
  /-- TRH_TN_FOREIGN.IDENTITY (11 Table 11-24). -/
  fgnIdent : BitVec 12
  /-- TRH_TN_FOREIGN.COUNT (11 Table 11-24). -/
  fgnCount : Nat
  /-- TRH_INT_BLK_STATUS (11 Table 11-24). -/
  intStatus : BitVec 64
  /-- TRH_INT_BLK_ENABLE (11 Table 11-24). -/
  intEnable : BitVec 64
  /-- TRH_INT_BLK_ROUTEi (11 Table 11-24). -/
  route : Vector (BitVec 32) 4
  /-- management outbound mailbox (11 R441). -/
  mbo : MboxOut
  /-- management inbound mailbox (11 R443). -/
  mbi : MboxIn
  /-- TRH_TT_PLAT_SEL.PLATFORM (02 Table 02-16). -/
  platSel : BitVec 10
  /-- TRH_CS_IVCTR_SEL.TENANT (04 Table 04-14). -/
  ivTenant : BitVec 6
  /-- TRH_CS_IVCTR_SEL.HANDLE (04 Table 04-14). -/
  ivHandle : BitVec 20
  /-- TRH_VS_CURVE_SEL (06 Table 06-13). -/
  curveSel : BitVec 5
  /-- TRH_FAB_SHARE_SEL (08 Table 08-6). -/
  shareSel : BitVec 6
  /-- TRH_PWR_STN_SEL (13 Table 13-11). -/
  stnSel : BitVec 3
  /-- TRH_PWR_CAL_SEL (13 Table 13-11). -/
  calSel : BitVec 8
  /-- TRH_FLT_SEV_SEL (12 Table 12-18). -/
  sevSel : BitVec 16
  /-- TRH_FLT_LANE_SEL (STATION, ENGINE) (12 Table 12-21). -/
  laneSel : BitVec 6
  /-- replies of the Registrar waiting for an empty inbound mailbox (11 R443). -/
  replies : List Reply
deriving DecidableEq, Repr

/-- Mgmt as reset leaves it. -/
def Mgmt.reset : Mgmt :=
  { held := false,
    src := false,
    holder := 0,
    lease := 0x1000,
    remain := 0,
    expired := 0,
    denied := 0,
    tnReset := 0,
    fgnOffset := 0,
    fgnWrite := false,
    fgnTenV := false,
    fgnTenant := 0,
    fgnIdent := 0,
    fgnCount := 0,
    intStatus := 0,
    intEnable := 0,
    route := .replicate 4 0,
    mbo := MboxOut.reset,
    mbi := MboxIn.reset,
    platSel := 0,
    ivTenant := 0,
    ivHandle := 0,
    curveSel := 0,
    shareSel := 0,
    stnSel := 0,
    calSel := 0,
    sevSel := 0,
    laneSel := 0,
    replies := [] }

/-- Counters of one fabric port (08 Table 08-8). -/
structure Port where
  /-- LATE (08 Table 08-8). -/
  late : Nat
  /-- ERR (08 Table 08-8). -/
  err : Nat
  /-- TIMEOUT (08 Table 08-8). -/
  timeout : Nat
  /-- PEAK (08 Table 08-8). -/
  peak : Nat
deriving DecidableEq, Repr

/-- Port as reset leaves it. -/
def Port.reset : Port :=
  { late := 0,
    err := 0,
    timeout := 0,
    peak := 0 }

/-- Fabric ports, event lines and outstanding bursts (08). -/
structure Fabric where
  /-- port counters (08 Table 08-8). -/
  ports : Vector Port 4
  /-- TRH_FAB_EVMAPn (08 Table 08-9). -/
  evMap : Vector (BitVec 32) 16
  /-- TRH_FAB_EVOVR (08 Table 08-10). -/
  evOvr : BitVec 16
  /-- cycle count at which line n last rose (08 R360). -/
  evStart : Vector (Option Nat) 16
  /-- bursts issued and not returned (08 R333). -/
  bursts : List Burst
  /-- read budget spent in this tick, by (tenant, port) (08 R338). -/
  rdUsed : List ((Nat × Nat) × Nat)
  /-- write budget spent in this tick, by (tenant, port) (08 R338). -/
  wrUsed : List ((Nat × Nat) × Nat)
  /-- tenant whose read burst a port issued last in this tick, by port (08 R340). -/
  rdTurn : List (Nat × Nat)
  /-- tenant whose write burst a port issued last in this tick, by port (08 R340). -/
  wrTurn : List (Nat × Nat)
  /-- requests with a write error after their entry was issued: no output-landed pulse (08 R356). -/
  badOut : List Nat
  /-- VS operand bytes admitted in this tick, by (tenant, port) (06 R276). -/
  vsUsed : List ((Nat × Nat) × Nat)
  /-- management transfers with bursts to issue, oldest first (08 R342). -/
  mgmt : List MgmtXfer
  /-- management bytes read in this tick (08 R336). -/
  mgRd : Nat
  /-- management bytes written in this tick (08 R336). -/
  mgWr : Nat
deriving DecidableEq, Repr

/-- Fabric as reset leaves it. -/
def Fabric.reset : Fabric :=
  { ports := .replicate 4 Port.reset,
    evMap := .replicate 16 0,
    evOvr := 0,
    evStart := .replicate 16 none,
    bursts := [],
    rdUsed := [],
    wrUsed := [],
    rdTurn := [],
    wrTurn := [],
    badOut := [],
    vsUsed := [],
    mgmt := [],
    mgRd := 0,
    mgWr := 0 }

/-- Registers of a cipher station (04 R225). -/
structure CipherStation where
  /-- hold chunks in use (04 Table 04-12). -/
  holdUsed : Nat
  /-- PEAK (04 Table 04-12). -/
  holdPeak : Nat
  /-- TAGMIS (04 Table 04-16). -/
  tagMis : Nat
  /-- PINFMT (04 Table 04-16). -/
  pinFmt : Nat
  /-- HOLDWAIT (04 Table 04-16). -/
  holdWait : Nat
  /-- MACNEG (04 Table 04-16). -/
  macNeg : Nat
deriving DecidableEq, Repr

/-- CipherStation as reset leaves it. -/
def CipherStation.reset : CipherStation :=
  { holdUsed := 0,
    holdPeak := 0,
    tagMis := 0,
    pinFmt := 0,
    holdWait := 0,
    macNeg := 0 }

/-- Registers of a digest station (05 R252). -/
structure DigestStation where
  /-- CMPNEG (05 Table 05-7). -/
  cmpNeg : Nat
  /-- BLOBBAD (05 Table 05-7). -/
  blobBad : Nat
  /-- SAVES (05 Table 05-7). -/
  saves : Nat
  /-- RESUMES (05 Table 05-7). -/
  resumes : Nat
deriving DecidableEq, Repr

/-- DigestStation as reset leaves it. -/
def DigestStation.reset : DigestStation :=
  { cmpNeg := 0,
    blobBad := 0,
    saves := 0,
    resumes := 0 }

/-- One entry of the curve table (06 R284). -/
structure CurveEntry where
  /-- EMPTY, CHECKING, READY, RETIRING (06 Table 06-14). -/
  state : BitVec 2
  /-- ORIGIN (06 Table 06-14). -/
  origin : BitVec 2
  /-- cofactor (06 Table 06-14). -/
  h : Nat
  /-- field bit length (06 Table 06-14). -/
  fbits : Nat
  /-- the loaded record (entries 8 to 31) (06 Table 06-8). -/
  record : Bytes
  /-- check symbols of that record (01 R26). -/
  recordSym : Bytes
deriving DecidableEq, Repr

/-- CurveEntry as reset leaves it. -/
def CurveEntry.reset : CurveEntry :=
  { state := 0,
    origin := 0,
    h := 0,
    fbits := 0,
    record := [],
    recordSym := [] }

/-- A curve load that waits or is being checked (06 R288). -/
structure CurveLoad where
  /-- the record (06 Table 06-8). -/
  record : Bytes
  /-- 01 image, 10 management request (06 Table 06-14). -/
  origin : BitVec 2
  /-- sequence of the request to answer (11 R448). -/
  seq : Option (BitVec 16)
  /-- start of its checks (06 R288). -/
  startTick : Nat
  /-- its checks have started (06 R288). -/
  begun : Bool
  /-- VS cycles spent on its checks (06 R287). -/
  cycles : Nat
  /-- tick of its latest piece (02 R77). -/
  tick : Nat
  /-- position of that piece (02 R77). -/
  pos : Nat
  /-- position whose pair ran it (12 R474). -/
  lane : Nat
  /-- slots of that piece (06 R257). -/
  here : Nat
  /-- a standby ran every slot of it too (02 R78). -/
  shadowed : Bool
  /-- consecutive mismatched runs (06 R257). -/
  reruns : Nat
deriving DecidableEq, Repr

/-- CurveLoad as reset leaves it. -/
def CurveLoad.reset : CurveLoad :=
  { record := [],
    origin := 0,
    seq := none,
    startTick := 0,
    begun := false,
    cycles := 0,
    tick := 0,
    pos := 0,
    lane := 0,
    here := 0,
    shadowed := false,
    reruns := 0 }

/-- The three parameters a built-in curve shows in TRH_VS_CURVE_STAT: bit length and cofactor of entry i (06 Table 06-6). -/
def builtinCurves : Vector CurveEntry 32 :=
  let entry := fun f => { CurveEntry.reset with state := 2, h := 1, fbits := f }
  ((((((((Vector.replicate 32 CurveEntry.reset).set 0 (entry 256)).set 1 (entry 384)).set 2 (entry 521)).set 3
    (entry 256)).set 4 (entry 256)).set 5 (entry 384)).set 6 (entry 512)).set 7
    { CurveEntry.reset with state := 2, fbits := 255 }

/-- The role of each lane at reset, by 8 x station + engine, for the engines with logical positions
(01 Table 01-4, 02 Table 02-3, 12 Table 12-21): position p is served by lane p, the sidings are gated. -/
def resetRoles : List (Nat × List (BitVec 4)) :=
  [(0, [0, 1, 2, 8]), (8, [0, 1, 2, 8]), (16, [0, 1, 2, 8]), (17, [3, 8]), (24, [0, 1, 2, 8]), (25, [3, 8]),
   (32, [0, 0, 1, 1, 2, 2, 3, 3, 4, 4, 8, 8]), (40, [0, 0, 1, 1, 2, 2, 8, 8]), (48, [0, 1, 2, 8])]

/-- The OTP rows as the part is made: nothing burnt but the calibration items whose factory value the spec states:
items 0, 1, 24 and 25 of Table 13-5 (13 R514; 18 Table 18-2). Log entry 3. -/
def resetOtp : Vector (BitVec 64) 128 :=
  ((Vector.replicate 128 (0 : BitVec 64)).set 6 (BitVec.ofNat 64 (740 + 680 * 65536))).set 12
    (BitVec.ofNat 64 (100 + 110 * 65536))

/-- VS state (06 R291). -/
structure Verify where
  /-- USED (06 Table 06-12). -/
  memUsed : Nat
  /-- PEAK (06 Table 06-12). -/
  memPeak : Nat
  /-- curve table (06 R284). -/
  curves : Vector CurveEntry 32
  /-- loads, the head being checked (BUSY, QUEUED) (06 R288). -/
  loads : List CurveLoad
  /-- entries that enter RETIRING at the next boundary (06 R290). -/
  unload : List Nat
  /-- INDEX (06 Table 06-15). -/
  lastIndex : BitVec 5
  /-- RESULT (06 Table 06-15). -/
  lastResult : BitVec 8
  /-- VERNEG (06 Table 06-16). -/
  verNeg : Nat
  /-- RANGE (06 Table 06-16). -/
  range : Nat
  /-- CURVE (06 Table 06-16). -/
  curve : Nat
  /-- PAIRMIS (06 Table 06-16). -/
  pairMis : Nat
deriving DecidableEq, Repr

/-- Verify as reset leaves it. -/
def Verify.reset : Verify :=
  { memUsed := 0,
    memPeak := 0,
    curves := builtinCurves,
    loads := [],
    unload := [],
    lastIndex := 0,
    lastResult := 0,
    verNeg := 0,
    range := 0,
    curve := 0,
    pairMis := 0 }

/-- SS state (07 R330). -/
structure Sealed where
  /-- USED (07 Table 07-11). -/
  memUsed : Nat
  /-- PEAK (07 Table 07-11). -/
  memPeak : Nat
  /-- HOLD (07 Table 07-12). -/
  hold : Bool
  /-- NOENT (07 Table 07-12). -/
  noent : Bool
  /-- RERUN (07 Table 07-13). -/
  rerun : Nat
  /-- CRTFAIL (07 Table 07-13). -/
  crtFail : Nat
  /-- NOENT (07 Table 07-13). -/
  noentCnt : Nat
  /-- REFUSE (07 Table 07-13). -/
  refuse : Nat
  /-- waybill signatures pending on SS, oldest first (15 R569). -/
  waybills : List WaybillJob
deriving DecidableEq, Repr

/-- Sealed as reset leaves it. -/
def Sealed.reset : Sealed :=
  { memUsed := 0,
    memPeak := 0,
    hold := false,
    noent := false,
    rerun := 0,
    crtFail := 0,
    noentCnt := 0,
    refuse := 0,
    waybills := [] }

/-- Values drawn for a step, as a key register brings them (04 R174, R189). -/
structure Brought where
  /-- request of the step (04 R174). -/
  rid : Nat
  /-- the step (04 R174). -/
  step : Nat
  /-- bytes drawn (04 R174, R189). -/
  drawn : Bytes
  /-- their check symbols (04 R176, 01 R26). -/
  drawnSym : Bytes
  /-- C drawn for the step (04 R174, R188). -/
  ctr : Option Nat
deriving DecidableEq, Repr

/-- Brought as reset leaves it. -/
def Brought.reset : Brought :=
  { rid := 0,
    step := 0,
    drawn := [],
    drawnSym := [],
    ctr := none }

/-- One register of a key-bus endpoint bank (04 R174). -/
structure KeyReg where
  /-- steps that an entry has served with this key: request, step (02 R80, 04 R174). -/
  users : List (Nat × Nat)
  /-- tenant of the key (04 R174). -/
  tenant : Nat
  /-- handle (0xFFFF_FFFF: system key of R244) (04 R174). -/
  handle : BitVec 32
  /-- algorithm (04 R174). -/
  alg : BitVec 16
  /-- usage (04 R174). -/
  usage : BitVec 8
  /-- key value (04 R173). -/
  value : Bytes
  /-- values drawn for the steps that use it (04 R174, R189). -/
  brought : List Brought
  /-- check symbols of the key value (04 R176, 01 R26). -/
  sym : Bytes
deriving DecidableEq, Repr

/-- KeyReg as reset leaves it. -/
def KeyReg.reset : KeyReg :=
  { users := [],
    tenant := 0,
    handle := 0,
    alg := 0,
    usage := 0,
    value := [],
    brought := [],
    sym := [] }

/-- One derived-key register of a cipher station's endpoint (04 R175). -/
structure DerivedReg where
  /-- request it belongs to (04 R175). -/
  rid : Nat
  /-- step of that request (04 R175). -/
  step : Nat
  /-- DUKPT working key (04 R221). -/
  value : Bytes
  /-- check symbols of its word (04 R176, 01 R26). -/
  sym : Bytes
deriving DecidableEq, Repr

/-- DerivedReg as reset leaves it. -/
def DerivedReg.reset : DerivedReg :=
  { rid := 0,
    step := 0,
    value := [],
    sym := [] }

/-- Common state of one station (12 R476, 04 R173). -/
structure StationState where
  /-- loading bank of the key-bus endpoint (04 R173). -/
  loading : List KeyReg
  /-- active bank of the key-bus endpoint (04 R173). -/
  active : List KeyReg
  /-- derived-key registers in use (CS0 and CS1) (04 R175). -/
  derived : List DerivedReg
  /-- the station is restarting, with the source that caused it (12 R476). -/
  restart : Option (BitVec 16)
  /-- tick in which the restart began (12 R476). -/
  started : Nat
  /-- tick in which it last rejoined the timetable (12 R476). -/
  rejoined : Nat
deriving DecidableEq, Repr

/-- StationState as reset leaves it. -/
def StationState.reset : StationState :=
  { loading := [],
    active := [],
    derived := [],
    restart := none,
    started := 0,
    rejoined := 0 }

/-- One key held in the key cache, with its tag (09 R380). -/
structure CacheSlot where
  /-- tenant (09 R380). -/
  tenant : Nat
  /-- handle (09 R380). -/
  handle : BitVec 20
  /-- algorithm (09 R380). -/
  alg : BitVec 16
  /-- usage (09 R380). -/
  usage : BitVec 8
  /-- EXPORT (09 R380). -/
  exp : Bool
  /-- SECRET (09 R380). -/
  secret : Bool
  /-- partition (09 Table 09-7). -/
  part : Partition
  /-- key value (09 R380). -/
  value : Bytes
  /-- check value kept with the key (09 R374). -/
  kcv : BitVec 24
  /-- public key kept with a private key (09 R374). -/
  pub : Bytes
  /-- requests that pin the slot (09 R382). -/
  pins : List Nat
  /-- first tick in which a key-bus entry can carry the slot (09 R383). -/
  avail : Nat
  /-- order of resolution, for eviction from the pool (09 Table 09-7). -/
  lastUse : Nat
  /-- platform whose miss share holds it (09 R381). -/
  plat : Nat
  /-- check symbols of the key value (01 R26, R30). -/
  sym : Bytes
  /-- a value that a cut-over replaced, kept for the requests that pin it (09 R400). -/
  old : Bool
deriving DecidableEq, Repr

/-- CacheSlot as reset leaves it. -/
def CacheSlot.reset : CacheSlot :=
  { tenant := 0,
    handle := 0,
    alg := 0,
    usage := 0,
    exp := false,
    secret := true,
    part := .resident,
    value := [],
    kcv := 0,
    pub := [],
    pins := [],
    avail := 0,
    lastUse := 0,
    plat := 0,
    sym := [],
    old := false }

/-- A key of the system partition of the cache (09 Tables 09-2, 09-7). -/
structure SystemKey where
  /-- node (09 Table 09-2). -/
  node : SysNode
  /-- tenant, 0xFF for a node under K_R or K_F (09 R369). -/
  tenant : Nat
  /-- key value (09 R380). -/
  value : Bytes
  /-- check symbols of the key value (01 R26, R30). -/
  sym : Bytes
deriving DecidableEq, Repr

/-- SystemKey as reset leaves it. -/
def SystemKey.reset : SystemKey :=
  { node := .recordHash,
    tenant := 255,
    value := [],
    sym := [] }

/-- One key-store area of NVM (09 R385, 16 R576). -/
structure StoreArea where
  /-- header (09 R385, 16 R576). Reset: DESIGN CHOICE (log entry 3). -/
  header : Bytes
  /-- index and heap: the record or tomb that each index entry names (09 R385). -/
  recs : List StoreRec
  /-- verified records of the heap that no index entry names yet (09 R392). -/
  shadows : List StoreRec
  /-- heap bytes written (16 R576). -/
  heapUsed : Nat
  /-- node invalidation list: global index and label digest (09 R399). -/
  inval : List (Nat × Bytes)
deriving DecidableEq, Repr

/-- StoreArea as reset leaves it. -/
def StoreArea.reset : StoreArea :=
  { header := [],
    recs := [],
    shadows := [],
    heapUsed := 0,
    inval := [] }

/-- The invocation counter of a resident AES key (04 R188). -/
structure IvCtr where
  /-- tenant (04 R188). -/
  tenant : Nat
  /-- handle (04 R188). -/
  handle : BitVec 20
  /-- C, the next value issued (04 R188). -/
  c : Nat
  /-- M as stored in NVM (04 R191). -/
  mark : Nat
  /-- C and M as sampled at the latest boundary (04 Table 04-15). -/
  shown : Nat × Nat
deriving DecidableEq, Repr

/-- IvCtr as reset leaves it. -/
def IvCtr.reset : IvCtr :=
  { tenant := 0,
    handle := 0,
    c := 0,
    mark := 0,
    shown := (0, 0) }

/-- Custody station: cache, roots, store service (09 R406). -/
structure Custody where
  /-- K_R in the root registers (09 R365). -/
  kr : Option Bytes
  /-- K_F in the root registers (09 R366). -/
  kf : Option Bytes
  /-- ROOT: loading, READY, ROOT_LOST, STALE (09 Table 09-13). -/
  root : BitVec 2
  /-- ROT (09 Table 09-13). -/
  rot : BitVec 2
  /-- AREA (from NVM) (09 Table 09-13). Reset: DESIGN CHOICE (log entry 3). -/
  area : Bool
  /-- CKPT (09 Table 09-13). -/
  ckpt : Nat
  /-- next block the rotation copies (09 R402). -/
  rotBlock : Nat
  /-- KS derivation entries, two to a unit, run for that block by the start of the tick (09 R402). -/
  rotLevels : Nat
  /-- units half way at the start of the tick (02 R67, 09 R402). -/
  rotHalf : Nat
  /-- entries run for it in the tick (02 R66, R100). -/
  rotLog : List LevelSlot
  /-- running hash h of the rotation (09 R402). -/
  rotHash : Bytes
  /-- sequence of the rotation request to answer (11 R448). -/
  rotSeq : Option (BitVec 16)
  /-- GEN (from NVM) (09 Table 09-14). Reset: DESIGN CHOICE (log entry 3). -/
  gen : BitVec 32
  /-- SEQ (from NVM) (09 Table 09-15). Reset: DESIGN CHOICE (log entry 3). -/
  seq : BitVec 64
  /-- key cache (09 R380). -/
  cache : List CacheSlot
  /-- system partition of the key cache (09 Table 09-7). -/
  system : List SystemKey
  /-- system or resident keys zeroised by UNCORR, to be reloaded (12 Table 12-7). -/
  lost : List (Nat × BitVec 20)
  /-- record handles in the pending state (09 R389). -/
  pendingH : List (Nat × BitVec 20)
  /-- handles invalidated, unresolvable from the next boundary (09 R399). -/
  invalNext : List (Nat × BitVec 20)
  /-- handles whose invalidation is in force (09 R399). -/
  invalid : List (Nat × BitVec 20)
  /-- invocation counters (04 R188). -/
  ivs : List IvCtr
  /-- record writes under way (09 R387). -/
  commits : List Commit
  /-- order counter of resolutions (09 Table 09-7). -/
  useSeq : Nat
  /-- MISS (09 Table 09-17). -/
  miss : Nat
  /-- EVICT (09 Table 09-17). -/
  evict : Nat
  /-- INVAL (09 Table 09-17). -/
  inval : Nat
  /-- IMPFAIL (09 Table 09-17). -/
  impFail : Nat
deriving DecidableEq, Repr

/-- Custody as reset leaves it. -/
def Custody.reset : Custody :=
  { kr := none,
    kf := none,
    root := 0,
    rot := 0,
    area := false,
    ckpt := 0,
    rotBlock := 0,
    rotLevels := 0,
    rotHalf := 0,
    rotLog := [],
    rotHash := [],
    rotSeq := none,
    gen := 0,
    seq := 0,
    cache := [],
    system := [],
    lost := [],
    pendingH := [],
    invalNext := [],
    invalid := [],
    ivs := [],
    commits := [],
    useSeq := 0,
    miss := 0,
    evict := 0,
    inval := 0,
    impFail := 0 }

/-- A noise source (10 R429). -/
structure Source where
  /-- STATE (10 Table 10-10). -/
  state : BitVec 2
  /-- REJOINS (10 Table 10-10). -/
  rejoins : BitVec 2
  /-- CAUSE (10 Table 10-10). -/
  cause : BitVec 8
  /-- RUN_PEAK (10 Table 10-10). -/
  runPeak : Nat
  /-- APT_PEAK (10 Table 10-10). -/
  aptPeak : Nat
  /-- FAILS (10 Table 10-10). -/
  fails : Nat
  /-- tick of the retirement (10 R424). -/
  retired : Nat
  /-- samples taken since its latest start (10 R411). -/
  taken : Nat
  /-- last(s) (10 R412). -/
  last : Bool
  /-- run(s) (10 R412). -/
  run : Nat
  /-- first(s) (10 R412). -/
  first : Bool
  /-- count(s) (10 R412). -/
  count : Nat
  /-- i(s) (10 R412). -/
  win : Nat
  /-- CAUSE of the test that a sample of the tick failed, for its retirement by the end of the tick (10 R413). -/
  failed : BitVec 8
  /-- its delay line, oldest sample first (10 R410). -/
  line : List Bool
  /-- samples that have left the line and that the conditioner has still to take (10 R410, R415). -/
  out : List Bool
  /-- the test it is under is a retest (10 R424). -/
  retest : Bool
deriving DecidableEq, Repr

/-- Source as reset leaves it. -/
def Source.reset : Source :=
  { state := 1,
    rejoins := 0,
    cause := 0,
    runPeak := 0,
    aptPeak := 0,
    fails := 0,
    retired := 0,
    taken := 0,
    last := false,
    run := 0,
    first := false,
    count := 0,
    win := 0,
    failed := 0,
    line := [],
    out := [],
    retest := false }

/-- The entropy complex and service (10 R429). -/
structure Entropy where
  /-- STATE: START, RUNNING, DEGRADED, EXHAUSTED (10 Table 10-5). -/
  state : BitVec 2
  /-- DEGR (10 Table 10-5). -/
  degr : Bool
  /-- noise sources (10 R408). -/
  sources : Vector Source 4
  /-- seed pool; POOL is its length in bits (10 R416). -/
  seed : Bytes
  /-- raw bits of the conditioned block in progress (10 R415). -/
  raw : List Bool
  /-- source from which the conditioner takes its next 64 bits (10 R415). -/
  turn : Fin 4
  /-- Key of the CTR_DRBG (10 R417). -/
  key : Bytes
  /-- V of the CTR_DRBG (10 R417). -/
  vec : Bytes
  /-- the DRBG is instantiated (10 R417). -/
  inst : Bool
  /-- instantiated or reseeded since the state was last decided (10 Table 10-1). -/
  reseeded : Bool
  /-- CALLS (10 Table 10-7). -/
  calls : Nat
  /-- RESEEDS (10 Table 10-7). -/
  reseeds : Nat
  /-- FILL (10 Table 10-8). -/
  fill : Nat
  /-- LOW (10 Table 10-8). -/
  low : Nat
  /-- RUNNING was first entered, so LOW follows FILL (10 Table 10-8). -/
  lowOn : Bool
  /-- consecutive DRBG mismatches (10 R419). -/
  mism : Nat
  /-- EXHAUSTED until block reset (10 R419). -/
  stuck : Bool
  /-- the buffer refill call of this tick is made (10 R417). -/
  callsTick : Bool
  /-- bytes that the refill of this tick has put into the buffer (10 R420). -/
  credit : Nat
  /-- bytes that RANDOM pieces have taken from the core in this tick: the call that serves them is made once they are not 0 (10 R417, R420, R422). -/
  direct : Nat
  /-- NOENT_RANDOM (10 Table 10-9). -/
  noentRandom : Nat
  /-- NOENT_IV (10 Table 10-9). -/
  noentIv : Nat
  /-- WAITS (10 Table 10-9). -/
  waits : Nat
  /-- RETIRE (10 Table 10-9). -/
  retire : Nat
deriving DecidableEq, Repr

/-- Entropy as reset leaves it. -/
def Entropy.reset : Entropy :=
  { state := 0,
    degr := false,
    sources := .replicate 4 Source.reset,
    seed := [],
    raw := [],
    turn := 0,
    key := [],
    vec := [],
    inst := false,
    reseeded := false,
    calls := 0,
    reseeds := 0,
    fill := 0,
    low := 0,
    lowOn := false,
    mism := 0,
    stuck := false,
    callsTick := false,
    credit := 0,
    direct := 0,
    noentRandom := 0,
    noentIv := 0,
    waits := 0,
    retire := 0 }

/-- One regulator and its sensor (13 R517). -/
structure Rail where
  /-- TARGET, the factory floor at reset (FLOOR1G25 of OTP; 600 where OTP gives none) (13 Table 13-12). Reset: DESIGN CHOICE (log entry 4). -/
  target : Nat
  /-- RAIL, measured (13 Table 13-12). Reset: DESIGN CHOICE (log entry 4). -/
  rail : Nat
  /-- BYPASS (13 Table 13-12). -/
  bypass : Bool
  /-- TEMP, measured (13 Table 13-12). Reset: DESIGN CHOICE (log entry 4). -/
  temp : Int
  /-- TMAX, measured (13 Table 13-12). Reset: DESIGN CHOICE (log entry 4). -/
  tmax : Int
  /-- AGE (13 Table 13-12). -/
  age : Nat
  /-- MARGIN (13 Table 13-12). -/
  margin : Nat
  /-- target that the Supervisor has set, which TARGET approaches by 5 mV a tick (13 R496). Reset: DESIGN CHOICE (log entry 4). -/
  goal : Nat
  /-- TARGET has moved in this tick (13 R496). -/
  moved : Bool
  /-- the sensor has been sampled since block reset (13 Table 13-12). -/
  seen : Bool
  /-- tick of the latest setting of the target (13 R496). -/
  setTick : Option Nat
  /-- the sensor is above the warning threshold and has not fallen 5 C below it (13 R509). -/
  warm : Bool
deriving DecidableEq, Repr

/-- Rail as reset leaves it. -/
def Rail.reset : Rail :=
  { target := 600,
    rail := 600,
    bypass := false,
    temp := 0,
    tmax := 0,
    age := 0,
    margin := 0,
    goal := 600,
    moved := false,
    seen := false,
    setTick := none,
    warm := false }

/-- Power manager (13 R517). -/
structure Power where
  /-- STATE (13 Table 13-7). -/
  caution : Bool
  /-- DCLK_LOW (13 Table 13-7). -/
  dclkLow : Bool
  /-- KE_HELD (13 Table 13-7). -/
  keHeld : Bool
  /-- TWARN (13 Table 13-7). -/
  twarn : Bool
  /-- NVM_LOW (13 Table 13-7). -/
  nvmLow : Bool
  /-- RECOVER (13 Table 13-7). -/
  recover : Nat
  /-- NOW, measured (13 Table 13-9). Reset: DESIGN CHOICE (log entry 4). -/
  vNow : Nat
  /-- MIN, measured (13 Table 13-9). Reset: DESIGN CHOICE (log entry 4). -/
  vMin : Nat
  /-- VDD_CORE has been sampled since block reset (13 Table 13-9). -/
  vSeen : Bool
  /-- COUNT (13 Table 13-10). -/
  count : Nat
  /-- LONGEST (13 Table 13-10). -/
  longest : Nat
  /-- LAST (13 Table 13-10). -/
  last : Nat
  /-- tick of the first SUPPLY record of the caution in force (13 R503). -/
  began : Nat
  /-- last tick whose key-entry writes are performed as usual while KE_HELD is 1 (13 R501). -/
  heldSince : Nat
  /-- tick of the latest sample of the temperature sensors (13 R508). -/
  tempTick : Option Nat
  /-- tick of the latest aging measurement since the start (13 R512). -/
  ageTick : Option Nat
  /-- cut-over tick, and the user offsets whose thresholds hold to its end (13 R516). -/
  oldLevels : Option (Nat × List (Nat × Int))
  /-- tick that began at the latest declaration (13 R504). -/
  decl : Option Nat
  /-- cycles of this tick at 1.25 GHz, the others at 1.0 GHz (13 R499). -/
  fast : Nat
  /-- the same for the next tick, as far as it is decided (13 R501). -/
  nextFast : Nat
  /-- regulators and sensors (13 R495). -/
  rails : Vector Rail 8
deriving DecidableEq, Repr

/-- Power as reset leaves it. -/
def Power.reset : Power :=
  { caution := false,
    dclkLow := false,
    keHeld := false,
    twarn := false,
    nvmLow := false,
    recover := 0,
    vNow := 800,
    vMin := 800,
    vSeen := false,
    count := 0,
    longest := 0,
    last := 0,
    began := 0,
    heldSince := 0,
    tempTick := none,
    ageTick := none,
    oldLevels := none,
    decl := none,
    fast := 320,
    nextFast := 320,
    rails := .replicate 8 Rail.reset }

/-- The first-source latch (14 Table 14-10). -/
structure TmpFirst where
  /-- VALID (14 Table 14-10). Reset: DESIGN CHOICE (log entry 3). -/
  valid : Bool
  /-- OVF (14 Table 14-10). Reset: DESIGN CHOICE (log entry 3). -/
  ovf : Bool
  /-- RESP (14 Table 14-10). Reset: DESIGN CHOICE (log entry 3). -/
  resp : BitVec 2
  /-- FLAGS (14 Table 14-10). Reset: DESIGN CHOICE (log entry 3). -/
  flags : BitVec 8
  /-- SOURCE (14 Table 14-10). Reset: DESIGN CHOICE (log entry 3). -/
  source : BitVec 8
  /-- TRH_TMP_FIRST_TIME (14 Table 14-10). Reset: DESIGN CHOICE (log entry 3). -/
  time : BitVec 64
deriving DecidableEq, Repr

/-- TmpFirst as reset leaves it. -/
def TmpFirst.reset : TmpFirst :=
  { valid := false,
    ovf := false,
    resp := 0,
    flags := 0,
    source := 0,
    time := 0 }

/-- The always-on domain (14; 18 Table 18-3). -/
structure Aon where
  /-- the always-on rail is up (18 R624). Reset: DESIGN CHOICE (log entry 3). -/
  up : Bool
  /-- validity marker (invalid when the domain leaves reset) (14 R530). -/
  marker : Bool
  /-- battery-backed key; none when cleared (09 R365). Reset: DESIGN CHOICE (log entry 3). -/
  bbk : Option Bytes
  /-- store counter (09 R388). Reset: DESIGN CHOICE (log entry 3). -/
  storeCounter : BitVec 64
  /-- log head (14 R535). -/
  head : Bytes
  /-- log count (14 R535). -/
  count : BitVec 64
  /-- log key LK (14 R535). Reset: DESIGN CHOICE (log entry 3). -/
  lk : Option Bytes
  /-- entries not yet mirrored (14 R536). -/
  pendLog : List Bytes
  /-- SUMMARY gathered: highest response, events, bitmap (14 R536). -/
  summary : Option (Nat × Nat × Nat)
  /-- first-source latch (14 Table 14-10). -/
  first : TmpFirst
  /-- real-time clock (14 Table 14-12). Reset: DESIGN CHOICE (log entry 3). -/
  rtc : BitVec 64
  /-- sources in alarm, not re-armed (14 R533). -/
  alarmed : List (BitVec 8)
  /-- ROOT_CLR (14 Table 14-8). Reset: DESIGN CHOICE (log entry 3). -/
  rootClr : Bool
  /-- AON_LOST (14 Table 14-8). -/
  aonLost : Bool
  /-- MIRROR_BAD (14 Table 14-8). -/
  mirrorBad : Bool
  /-- RESP (14 Table 14-8). -/
  resp : BitVec 2
  /-- CELL_LOW (14 Table 14-8). -/
  cellLow : Bool
  /-- RAILF, live (14 Table 14-9). Reset: DESIGN CHOICE (log entry 4). -/
  railF : BitVec 6
  /-- ALARM, live (14 Table 14-9). Reset: DESIGN CHOICE (log entry 4). -/
  alarm : BitVec 6
  /-- VBAT, measured (14 Table 14-13). Reset: DESIGN CHOICE (log entry 4). -/
  vbat : BitVec 12
  /-- the domain draws from VBAT (14 R527). Reset: DESIGN CHOICE (log entry 3). -/
  onCell : Bool
  /-- real-time clock up to which sampling on the cell goes on: the end of a window, or of the switch to VBAT (14 R527). -/
  window : Option (BitVec 64)
  /-- the head and count have been set at TEST (14 R535). Reset: DESIGN CHOICE (log entry 3). -/
  begun : Bool
  /-- latest alarm reading of the always-on temperature sensor (13 R511). Reset: DESIGN CHOICE (log entry 3). -/
  reading : Int
  /-- retained effective TALARM in degrees (13 R511). Reset: DESIGN CHOICE (log entry 3). -/
  talarm : Int
  /-- TRH_ZEROISE (14 R525). Reset: DESIGN CHOICE (log entry 3). -/
  zeroise : Bool
deriving DecidableEq, Repr

/-- Aon as reset leaves it. -/
def Aon.reset : Aon :=
  { up := true,
    marker := false,
    bbk := none,
    storeCounter := 0,
    head := List.replicate 32 0,
    count := 0,
    lk := none,
    pendLog := [],
    summary := none,
    first := TmpFirst.reset,
    rtc := 0,
    alarmed := [],
    rootClr := false,
    aonLost := false,
    mirrorBad := false,
    resp := 0,
    cellLow := false,
    railF := 0,
    alarm := 0,
    vbat := 3000,
    onCell := false,
    window := none,
    begun := false,
    reading := 0,
    talarm := 110,
    zeroise := false }

/-- Image pointer record (16 Table 16-4). -/
structure ImagePtr where
  /-- area in force (16 Table 16-4). Reset: DESIGN CHOICE (log entry 3). -/
  area : Bool
  /-- pointer sequence (16 Table 16-4). Reset: DESIGN CHOICE (log entry 3). -/
  seq : Nat
  /-- image sequence (16 Table 16-4). Reset: DESIGN CHOICE (log entry 3). -/
  imgSeq : BitVec 32
  /-- image length (16 Table 16-4). Reset: DESIGN CHOICE (log entry 3). -/
  length : Nat
deriving DecidableEq, Repr

/-- ImagePtr as reset leaves it. -/
def ImagePtr.reset : ImagePtr :=
  { area := false,
    seq := 0,
    imgSeq := 0,
    length := 0 }

/-- One half of the tamper-log mirror (14 R537). -/
structure MirrorHalf where
  /-- magic of its checkpoint, none where it was never written (14 R537). Reset: DESIGN CHOICE (log entry 3). -/
  magic : Bytes
  /-- generation (14 R537). Reset: DESIGN CHOICE (log entry 3). -/
  gen : BitVec 32
  /-- count before its first entry (14 R537). Reset: DESIGN CHOICE (log entry 3). -/
  count : BitVec 64
  /-- head before its first entry (14 R537). Reset: DESIGN CHOICE (log entry 3). -/
  head : Bytes
  /-- truncated HMAC of its checkpoint under LK (14 R537). Reset: DESIGN CHOICE (log entry 3). -/
  mac : Bytes
  /-- entries in index order (14 R537). Reset: DESIGN CHOICE (log entry 3). -/
  entries : List Bytes
deriving DecidableEq, Repr

/-- MirrorHalf as reset leaves it. -/
def MirrorHalf.reset : MirrorHalf :=
  { magic := [],
    gen := 0,
    count := 0,
    head := [],
    mac := [],
    entries := [] }

/-- A copy of the replacement journal (09 R392, 16 Table 16-3). -/
structure Journal where
  /-- record number (16 Table 16-3). -/
  recno : Nat
  /-- old offset in the heap, in 64-byte units (16 Table 16-3). -/
  oldOff : Nat
  /-- new offset: that of the shadow (16 Table 16-3). -/
  newOff : Nat
  /-- store sequence S of the shadow (16 Table 16-3). -/
  seq : BitVec 64
deriving DecidableEq, Repr

/-- Journal as reset leaves it. -/
def Journal.reset : Journal :=
  { recno := 0,
    oldOff := 0,
    newOff := 0,
    seq := 0 }

/-- A copy of the key-store pointer (09 R404). -/
structure KsPtr where
  /-- magic (09 R404). -/
  magic : Bytes
  /-- sequence (09 R404). -/
  seq : Nat
  /-- active area (09 R404). -/
  area : Bool
  /-- g (09 R404). -/
  gen : BitVec 32
  /-- store sequence (09 R404). -/
  sseq : BitVec 64
  /-- CRC-32 over the fields above (09 R404). -/
  crc : BitVec 32
deriving DecidableEq, Repr

/-- KsPtr as reset leaves it. -/
def KsPtr.reset : KsPtr :=
  { magic := [],
    seq := 0,
    area := false,
    gen := 0,
    sseq := 0,
    crc := 0 }

/-- An entry of the IV mark table (16 R579). -/
structure Mark where
  /-- tenant (16 R579). -/
  tenant : Nat
  /-- handle (16 R579). -/
  handle : BitVec 20
  /-- base (16 R579). -/
  base : Nat
  /-- CRC-16 over the other bytes (16 R579). -/
  crc : Nat
deriving DecidableEq, Repr

/-- Mark as reset leaves it. -/
def Mark.reset : Mark :=
  { tenant := 0,
    handle := 0,
    base := 0,
    crc := 0 }

/-- The attached NVM's areas and the block's view of it (16 R575, R598). -/
structure Nvm where
  /-- PRESENT (16 Table 16-20). -/
  present : Bool
  /-- SIZE (16 Table 16-20). -/
  sizeN : Nat
  /-- ERRORS (16 Table 16-20). -/
  errors : Nat
  /-- image area A (16 Table 16-2). Reset: DESIGN CHOICE (log entry 3). -/
  imageA : Bytes
  /-- image area B (16 Table 16-2). Reset: DESIGN CHOICE (log entry 3). -/
  imageB : Bytes
  /-- image pointer in force (16 Table 16-4). Reset: DESIGN CHOICE (log entry 3). -/
  imgPtr : ImagePtr
  /-- key-store pointer in force: sequence (09 R404). Reset: DESIGN CHOICE (log entry 3). -/
  ksPtrSeq : Nat
  /-- key-store pointer in force: active area (09 R404). Reset: DESIGN CHOICE (log entry 3). -/
  ksArea : Bool
  /-- key-store pointer in force: g (09 R404). Reset: DESIGN CHOICE (log entry 3). -/
  ksGen : BitVec 32
  /-- key-store pointer in force: store sequence (09 R404). Reset: DESIGN CHOICE (log entry 3). -/
  ksSeq : BitVec 64
  /-- IV epoch E (16 Table 16-3). Reset: DESIGN CHOICE (log entry 3). -/
  epoch : Nat
  /-- replacement journal, copy 0 (09 R392, 16 Table 16-3). Reset: DESIGN CHOICE (log entry 3). -/
  journal0 : Option Journal
  /-- replacement journal, copy 1 (09 R392, 16 Table 16-3). Reset: DESIGN CHOICE (log entry 3). -/
  journal1 : Option Journal
  /-- key-store pointer, copy 0 (09 R404, 16 Table 16-3). Reset: DESIGN CHOICE (log entry 3). -/
  ksPtr0 : KsPtr
  /-- key-store pointer, copy 1 (09 R404, 16 Table 16-3). Reset: DESIGN CHOICE (log entry 3). -/
  ksPtr1 : KsPtr
  /-- boot block: the slots written in each of its sectors since that sector was erased, two sectors a record (16 R578). Reset: DESIGN CHOICE (log entry 3). -/
  boot : Vector (List Bytes) 8
  /-- IV mark table, copy 0 (16 R579). Reset: DESIGN CHOICE (log entry 3). -/
  marks0 : List Mark
  /-- IV mark table, copy 1 (16 R579). Reset: DESIGN CHOICE (log entry 3). -/
  marks1 : List Mark
  /-- key-store area A (09 R385). Reset: DESIGN CHOICE (log entry 3). -/
  storeA : StoreArea
  /-- key-store area B (09 R385). Reset: DESIGN CHOICE (log entry 3). -/
  storeB : StoreArea
  /-- last rotation checkpoint: block, h, store sequence (09 R402). Reset: DESIGN CHOICE (log entry 3). -/
  rotCkpt : Option (Nat × Bytes × BitVec 64)
  /-- area into which that rotation copies: B (09 R402, R404). Reset: DESIGN CHOICE (log entry 3). -/
  rotTo : Bool
  /-- mirror half 0 (14 R537). Reset: DESIGN CHOICE (log entry 3). -/
  mirror0 : MirrorHalf
  /-- mirror half 1 (14 R537). Reset: DESIGN CHOICE (log entry 3). -/
  mirror1 : MirrorHalf
  /-- dump slot 0 (12 R488). Reset: DESIGN CHOICE (log entry 3). -/
  dump0 : Option Bytes
  /-- dump slot 1 (12 R488). Reset: DESIGN CHOICE (log entry 3). -/
  dump1 : Option Bytes
  /-- dumps written since PROVISION (12 R490). Reset: DESIGN CHOICE (log entry 3). -/
  dumpSeq : Nat
  /-- tenant persistent store (only the Custody processor writes it) (16 R577). Reset: DESIGN CHOICE (log entry 3). -/
  pstore : Bytes
deriving DecidableEq, Repr

/-- Nvm as reset leaves it. -/
def Nvm.reset : Nvm :=
  { present := false,
    sizeN := 0,
    errors := 0,
    imageA := [],
    imageB := [],
    imgPtr := ImagePtr.reset,
    ksPtrSeq := 0,
    ksArea := false,
    ksGen := 0,
    ksSeq := 0,
    epoch := 0,
    journal0 := none,
    journal1 := none,
    ksPtr0 := KsPtr.reset,
    ksPtr1 := KsPtr.reset,
    boot := .replicate 8 [],
    marks0 := [],
    marks1 := [],
    storeA := StoreArea.reset,
    storeB := StoreArea.reset,
    rotCkpt := none,
    rotTo := false,
    mirror0 := MirrorHalf.reset,
    mirror1 := MirrorHalf.reset,
    dump0 := none,
    dump1 := none,
    dumpSeq := 0,
    pstore := [] }

/-- Life cycle (15 R571). -/
structure LifeCycle where
  /-- STATE, sensed from OTP (15 Table 15-13). Reset: DESIGN CHOICE (log entry 3). -/
  state : BitVec 4
  /-- NEXT (15 Table 15-13). Reset: DESIGN CHOICE (log entry 3). -/
  next : BitVec 4
  /-- PHASE (15 Table 15-13). -/
  phase : BitVec 2
  /-- ROLLFWD (15 Table 15-13). -/
  rollFwd : Bool
  /-- QUIESCED (15 Table 15-13). -/
  quiesced : Bool
  /-- slot of the transition under way (15 R551). -/
  slot : Nat
  /-- OTP program under way: 0 none, 1 target row, 2 commit row, 3 a row of an authority set (15 R551, R557). -/
  burning : Nat
  /-- the wipe of the transition under way is made (15 R551). -/
  wiped : Bool
  /-- sequence of the request to answer (11 R448). -/
  seq : Option (BitVec 16)
  /-- authority seal under way: kind, rows burnt, hash (15 R557). -/
  sealJob : Option (Nat × Nat × Bytes)
  /-- set being burnt (15 R557). -/
  sealSet : Nat
deriving DecidableEq, Repr

/-- LifeCycle as reset leaves it. -/
def LifeCycle.reset : LifeCycle :=
  { state := 1,
    next := 0,
    phase := 0,
    rollFwd := false,
    quiesced := false,
    slot := 0,
    burning := 0,
    wiped := false,
    seq := none,
    sealJob := none,
    sealSet := 0 }

/-- Debug access (15 R571). -/
structure Debug where
  /-- RIGHTS (15 Table 15-16). -/
  rights : BitVec 32
  /-- TENANT (15 Table 15-16). -/
  tenant : BitVec 6
  /-- LAST (15 Table 15-16). -/
  last : BitVec 8
  /-- REFUSED (15 Table 15-16). -/
  refused : Nat
  /-- HALT_SUP (15 Table 15-17). -/
  haltSup : Bool
  /-- HALT_REG (15 Table 15-17). -/
  haltReg : Bool
  /-- HALT_CUS (15 Table 15-17). -/
  haltCus : Bool
  /-- TRH_DBG_DATA (15 Table 15-18). -/
  data : BitVec 64
  /-- RESULT (15 Table 15-19). -/
  result : BitVec 2
  /-- BIST (15 Table 15-19). -/
  bist : BitVec 2
  /-- TARGET (15 Table 15-19). -/
  target : BitVec 6
  /-- words known in the memory groups: (group, word address), value (15 R565). -/
  words : List ((Nat × Nat) × BitVec 64)
  /-- groups whose other words a BIST has left at 0 (15 R565). -/
  zeroed : List Nat
deriving DecidableEq, Repr

/-- Debug as reset leaves it. -/
def Debug.reset : Debug :=
  { rights := 0,
    tenant := 0,
    last := 0,
    refused := 0,
    haltSup := false,
    haltReg := false,
    haltCus := false,
    data := 0,
    result := 0,
    bist := 0,
    target := 0,
    words := [],
    zeroed := [] }

/-- One control processor (01 R46, 16 R596). -/
structure Proc where
  /-- restarting from its checkpoint since this tick (01 R46). -/
  restart : Option Nat
  /-- halted for handover with its record (16 R596). -/
  halted : Bool
  /-- instruction bank in use (16 R596). Reset: DESIGN CHOICE (log entry 5). -/
  bank : Bool
  /-- patch bytes 0 to 63 + C in use (16 R582). -/
  patch : Bytes
  /-- patch in the standby bank (16 R596). -/
  newPatch : Option Bytes
  /-- answer of the arbiter to its latest request for the management lock: OUTCOME and holder (11 R450, R454). Reset: DESIGN CHOICE (log entry 5). -/
  lockAns : BitVec 64
  /-- restarted at a cut-over in this tick, not yet resumed (16 R596). -/
  resuming : Option Nat
  /-- instructions stepped while halted (15 R566). -/
  stepsDone : Nat
deriving DecidableEq, Repr

/-- Proc as reset leaves it. -/
def Proc.reset : Proc :=
  { restart := none,
    halted := false,
    bank := false,
    patch := [],
    newPatch := none,
    lockAns := 0,
    resuming := none,
    stepsDone := 0 }

/-- Start-up and configuration (16 R598). -/
structure Config where
  /-- STAGE (16 Table 16-17). -/
  stage : BitVec 4
  /-- CAUSE (16 Table 16-17). -/
  cause : BitVec 8
  /-- FALLBACK (16 Table 16-17). -/
  fallback : Bool
  /-- AREA (16 Table 16-17). -/
  area : Bool
  /-- UNCONF (16 Table 16-17). -/
  unconf : Bool
  /-- TRH_CFG_SEQ (16 Table 16-17). -/
  seq : BitVec 32
  /-- TRH_CFG_READY (16 Table 16-18). -/
  ready : BitVec 64
  /-- the identity map is in force (16 R588). -/
  mapOn : Bool
  /-- the image read at this start (16 R586). -/
  image : Bytes
  /-- BANK: active bank (02 Table 02-15). -/
  bank : Bool
  /-- bank 0 of every owner (02 R84). -/
  bank0 : Option Image
  /-- bank 1 of every owner (02 R84). -/
  bank1 : Option Image
  /-- configuration hash of the image in force (16 R584). -/
  hash : Bytes
  /-- TRH_CFG_CUTOVER.STATE (16 Table 16-19). -/
  coState : BitVec 4
  /-- ATTEMPTS (16 Table 16-19). -/
  attempts : Nat
  /-- CAUSE (16 Table 16-19). -/
  coCause : BitVec 8
  /-- ARMED (16 Table 16-19). -/
  armed : BitVec 8
  /-- TARGET (16 Table 16-19). -/
  target : Nat
  /-- owners whose inactive bank awaits a reload (16 R592). -/
  bankBad : List Nat
  /-- the image of the amendment under way (16 R591). -/
  newImage : Bytes
  /-- image length that the request gives (16 R591). -/
  coLen : Nat
  /-- its configuration hash (16 R584). -/
  newHash : Bytes
  /-- the request under way is 0x0208 (16 R595). -/
  handover : Bool
  /-- the image of a 0x0207 on an unconfigured block is being moved (16 R590). -/
  instBegun : Bool
  /-- sequence of the request to answer (11 R448). -/
  coSeq : Option (BitVec 16)
  /-- the pointer of the old image is to be written back once NVM_LOW clears (13 R506). -/
  ptrWaits : Bool
  /-- the tamper log mirror of a closed start is to be verified once NVM_LOW clears (13 R506). -/
  logWaits : Bool
  /-- the image pointer before step 5 (16 R592). -/
  oldPtr : ImagePtr
deriving DecidableEq, Repr

/-- Config as reset leaves it. -/
def Config.reset : Config :=
  { stage := 0,
    cause := 0,
    fallback := false,
    area := false,
    unconf := false,
    seq := 0,
    ready := 0,
    mapOn := false,
    image := [],
    bank := false,
    bank0 := none,
    bank1 := none,
    hash := [],
    coState := 0,
    attempts := 0,
    coCause := 0,
    armed := 0,
    target := 0,
    bankBad := [],
    newImage := [],
    coLen := 0,
    newHash := [],
    handover := false,
    instBegun := false,
    coSeq := none,
    ptrWaits := false,
    logWaits := false,
    oldPtr := ImagePtr.reset }

/-- One open escalation window (12 R467). -/
structure EscTimer where
  /-- source (12 R467). -/
  source : BitVec 16
  /-- tick that begins at its opening boundary (12 R467). -/
  opens : Nat
  /-- tick that begins at its expiry boundary (12 R467). -/
  expires : Nat
  /-- configured action: 2, 4 or 5 (12 R467). -/
  action : Nat
  /-- number of the timer (12 Table 12-20). -/
  idx : Nat
deriving DecidableEq, Repr

/-- EscTimer as reset leaves it. -/
def EscTimer.reset : EscTimer :=
  { source := 0,
    opens := 0,
    expires := 0,
    action := 0,
    idx := 0 }

/-- The fault collector (12 R492). -/
structure Faults where
  /-- LOCKDOWN (12 Table 12-15). -/
  lockdown : Bool
  /-- TRH_ALIVE level (12 R472). -/
  alive : Bool
  /-- ALIVE: the pin is toggling (12 Table 12-15). -/
  toggling : Bool
  /-- fault records waiting for the Supervisor (12 R471). -/
  queue : List FaultRec
  /-- records of the last 4,096 ticks (12 R490). -/
  recent : List FaultRec
  /-- QDROP (12 Table 12-15). -/
  qdrop : Nat
  /-- FIRST.VALID (12 Table 12-16). -/
  fValid : Bool
  /-- FIRST.OVF (12 Table 12-16). -/
  fOvf : Bool
  /-- FIRST.SEV (12 Table 12-16). -/
  fSev : BitVec 3
  /-- FIRST.SOURCE (12 Table 12-16). -/
  fSource : BitVec 16
  /-- TRH_FLT_FIRST_TICK (12 Table 12-16). -/
  fTick : BitVec 64
  /-- LATER (12 Table 12-17). -/
  later : Nat
  /-- TOTAL (12 Table 12-17). -/
  total : Nat
  /-- TRH_FLT_SEV.COUNT per source (12 Table 12-18). -/
  counts : List (BitVec 16 × Nat)
  /-- open escalation windows (12 R468). -/
  timers : List EscTimer
  /-- ROLE of each lane, by 8 x station + engine (12 Table 12-21). -/
  roles : List (Nat × List (BitVec 4))
  /-- DCLK cycle since reset of the last FAULT_REPORT, by which reports of one cycle are told (12 R487) (model). -/
  cycleAt : Option Nat
  /-- lanes that reports of that cycle retired: 8 x station + engine, lane (12 R487) (model). -/
  cycleRetired : List (Nat × Nat)
  /-- stations that reports of that cycle restart, 7 for the block (12 R487) (model). -/
  cycleStops : List Nat
  /-- sources for which reports of that cycle opened a window (12 R487) (model). -/
  cycleWindows : List (BitVec 16)
  /-- DCLK cycle of the report the first-error latch holds (12 R487) (model). -/
  latchAt : Option Nat
  /-- lanes retired in this tick, no siding chosen yet: 8 x station + engine, lane, source, position (12 R473). -/
  retiring : List (Nat × Nat × BitVec 16 × Nat)
  /-- shunts due (12 R473). -/
  takeovers : List Takeover
  /-- contingency switches due (02 R101). -/
  switches : List SwitchDue
  /-- station restarts and lockdowns due: station or 7, boundary tick, source (12 R476). -/
  due : List (Nat × Nat × BitVec 16)
  /-- source and report tick of each window whose action waits to be carried out (12 R467, R490). -/
  reportTicks : List (BitVec 16 × Nat)
  /-- outcomes of uncorrectable words due: tick, source, word address, owner (12 R480). -/
  wordsDue : List (Nat × BitVec 16 × BitVec 16 × WordOwner)
  /-- FAIL (12 Table 12-22). -/
  proofFail : Nat
  /-- ROTATIONS (12 Table 12-22). -/
  rotations : Nat
  /-- OVERDUE (12 Table 12-22). -/
  overdue : Bool
  /-- tick since which AGE counts periods (12 Table 12-22). -/
  ageBase : Nat
  /-- checkers proven in the rotation in progress (12 R482). -/
  proven : List (BitVec 16)
  /-- sidings, by engine and lane, on which a proof or an injection has run in this tick (01 R60, 12 R484). -/
  busySidings : List (Nat × Nat)
  /-- station and position whose slot for proofs in place this period has been taken (12 R485). -/
  inPlace : List (Nat × Nat)
  /-- INJ_STAT.RESULT (12 Table 12-23). -/
  injResult : BitVec 2
  /-- RESULT that an injection in progress will have (12 Table 12-23). -/
  injNext : BitVec 2
  /-- INJ_STAT.REFUSED (12 Table 12-23). -/
  injRefused : Bool
  /-- INJ_STAT.SOURCE (12 Table 12-23). -/
  injSource : BitVec 16
  /-- DUMP.STATE (12 Table 12-24). -/
  dumpState : BitVec 2
  /-- DUMP.HOST (12 Table 12-24). -/
  dumpHost : Bool
  /-- a write of the host copy of the latest dump has failed (12 R488, 08 R359). -/
  hostBad : Bool
  /-- DUMP.SLOT (12 Table 12-24). -/
  dumpSlot : Bool
  /-- dumps owed: station or 7, source, tick (12 R488). -/
  dumpDue : List (Nat × BitVec 16 × Nat)
  /-- lanes and units retired since block reset (15 Table 15-10). -/
  retired : Nat
  /-- station restarts since block reset (15 Table 15-10). -/
  restarts : Nat
deriving DecidableEq, Repr

/-- Faults as reset leaves it. -/
def Faults.reset : Faults :=
  { lockdown := false,
    alive := false,
    toggling := false,
    queue := [],
    recent := [],
    qdrop := 0,
    fValid := false,
    fOvf := false,
    fSev := 0,
    fSource := 0,
    fTick := 0,
    later := 0,
    total := 0,
    counts := [],
    timers := [],
    roles := resetRoles,
    cycleAt := none,
    cycleRetired := [],
    cycleStops := [],
    cycleWindows := [],
    latchAt := none,
    retiring := [],
    takeovers := [],
    switches := [],
    due := [],
    reportTicks := [],
    wordsDue := [],
    proofFail := 0,
    rotations := 0,
    overdue := false,
    ageBase := 0,
    proven := [],
    busySidings := [],
    inPlace := [],
    injResult := 0,
    injNext := 0,
    injRefused := false,
    injSource := 0,
    dumpState := 0,
    dumpHost := false,
    hostBad := false,
    dumpSlot := false,
    dumpDue := [],
    retired := 0,
    restarts := 0 }

/-- Token bucket and counters of one platform (02 R72, Table 02-17). -/
structure PlatStat where
  /-- bucket level, 16.24 (02 R72). -/
  level : Nat
  /-- requests queued (02 R74). -/
  depth : Nat
  /-- MISS (02 Table 02-17). -/
  miss : Nat
  /-- OVER (02 Table 02-17). -/
  overs : Nat
deriving DecidableEq, Repr

/-- PlatStat as reset leaves it. -/
def PlatStat.reset : PlatStat :=
  { level := 0,
    depth := 0,
    miss := 0,
    overs := 0 }

/-- Execution of the timetable (02). -/
structure Timetable where
  /-- the timetable has started (02 R65). -/
  started : Bool
  /-- ACTIVE (02 Table 02-15). -/
  active : BitVec 3
  /-- CAUSE_V (02 Table 02-15). -/
  causeV : Bool
  /-- CAUSE (02 Table 02-15). -/
  cause : BitVec 16
  /-- bucket and counters of each platform (02 R72). -/
  plats : Vector PlatStat 1024
  /-- the same, sampled at the latest boundary (02 R111). -/
  shown : Vector PlatStat 1024
  /-- next slot of the tick to start, 0 to 8 (02 R63). -/
  slot : Nat
  /-- descriptors taken in this tick (03 R123). -/
  taken : Nat
  /-- chains taken in this tick, by ring number g (03 R126). -/
  passes : List (Nat × Nat)
  /-- chains of each platform taken in this tick (03 R125). -/
  platTaken : List (Nat × Nat)
  /-- hold chunks given back in this tick, free from the next boundary on: station, platform, chunks, of its share (02 R68, 04 R199) (model). -/
  holdFreed : List (Nat × Nat × Nat × Nat)
  /-- key-bus entries of this tick that have run: slot, destination (02 R80). -/
  busDone : List (Nat × Nat)
  /-- keys of which one of the two transfers has been made in this tick: destination, request (02 R80, 07 R296). -/
  parts : List (Nat × Nat)
  /-- what the positions run in the slot that started last: station, position, request (none for an internal step), for the owner (02 R76, R79). -/
  running : List (Nat × Nat × Option Nat × Bool)
  /-- bytes of the internal buffer that the key-bus transfers of the slot draw ahead of key generation and RANDOM (01 R57). -/
  ivAhead : Nat
deriving DecidableEq, Repr

/-- Timetable as reset leaves it. -/
def Timetable.reset : Timetable :=
  { started := false,
    active := 0,
    causeV := false,
    cause := 0,
    plats := .replicate 1024 PlatStat.reset,
    shown := .replicate 1024 PlatStat.reset,
    slot := 0,
    taken := 0,
    passes := [],
    platTaken := [],
    holdFreed := [],
    busDone := [],
    parts := [],
    running := [],
    ivAhead := 0 }

/-- The whole block, and the queue of waiting commands. -/
structure State where
  /-- commands waiting, first in first out (model). The model's own field (log entry 6). -/
  pending : List Instr
  /-- counter from which free values are taken (model). The model's own field (log entry 6). -/
  drawn : Nat
  /-- TRH_TICK (02 R62). -/
  tick : BitVec 64
  /-- time since release in units of 0.2 ns at the start of this tick (02 R97). -/
  wall : Nat
  /-- TRH_MAIN_UP: the main domain is out of reset (18 R616). -/
  mainUp : Bool
  /-- read data of the latest register response (18 R613). -/
  rsp : BitVec 64
  /-- tenant pages (17 R605). -/
  tenants : Vector TenantPage 64
  /-- management page (11 R459). -/
  mgmt : Mgmt
  /-- timetable (02 R65). -/
  tt : Timetable
  /-- requests admitted and not yet ended, oldest first (02 R74). -/
  reqs : List Request
  /-- requests ended whose entry is not yet written, in completion order (03 R153). -/
  ended : List Ended
  /-- identifier of the next request (model). The model's own field (log entry 6). -/
  nextRid : Nat
  /-- fabric (08 R362). -/
  fab : Fabric
  /-- CS0 and CS1 (04 R225). -/
  cs : Vector CipherStation 2
  /-- DS0 and DS1 (05 R252). -/
  ds : Vector DigestStation 2
  /-- VS (06 R291). -/
  vs : Verify
  /-- SS (07 R330). -/
  ss : Sealed
  /-- KS (09 R406). -/
  ks : Custody
  /-- entropy service (10 R429). -/
  en : Entropy
  /-- stations 0 to 6 (12 R476). -/
  stations : Vector StationState 7
  /-- power manager (13 R517). -/
  pwr : Power
  /-- always-on domain (14 R539). -/
  aon : Aon
  /-- the block's OTP rows (18 R621). Reset: DESIGN CHOICE (log entry 3). -/
  otp : Vector (BitVec 64) 128
  /-- attached NVM (16 R575). -/
  nvm : Nvm
  /-- life cycle (15 R571). -/
  lc : LifeCycle
  /-- debug access (15 R571). -/
  dbg : Debug
  /-- Custody, Supervisor and Registrar processors (01 Table 01-5). -/
  procs : Vector Proc 3
  /-- start-up and configuration (16 R598). -/
  cfg : Config
  /-- fault collector (12 R492). -/
  flt : Faults
deriving DecidableEq, Repr

/-- State as reset leaves it. -/
def State.reset : State :=
  { pending := [],
    drawn := 0,
    tick := 0,
    wall := 0,
    mainUp := false,
    rsp := 0,
    tenants := .replicate 64 TenantPage.reset,
    mgmt := Mgmt.reset,
    tt := Timetable.reset,
    reqs := [],
    ended := [],
    nextRid := 0,
    fab := Fabric.reset,
    cs := .replicate 2 CipherStation.reset,
    ds := .replicate 2 DigestStation.reset,
    vs := Verify.reset,
    ss := Sealed.reset,
    ks := Custody.reset,
    en := Entropy.reset,
    stations := .replicate 7 StationState.reset,
    pwr := Power.reset,
    aon := Aon.reset,
    otp := resetOtp,
    nvm := Nvm.reset,
    lc := LifeCycle.reset,
    dbg := Debug.reset,
    procs := .replicate 3 Proc.reset,
    cfg := Config.reset,
    flt := Faults.reset }


/-- Why the machine stops with a fault. -/
inductive Fault where
  /-- A fabric return that answers no outstanding burst (READ_BURST_RETURN, WRITE_RESPONSE): the spec gives a
  return only as the answer to a burst (18 R609). Safe: the model stops. -/
  | unsolicitedResponse
deriving DecidableEq, Repr

/-- Why the model refuses a command. -/
inductive Refusal where
  /-- No meaning yet for the command with this mnemonic. Safe: the model stops. -/
  | notModelled (mnemonic : String)
deriving DecidableEq, Repr

end Sys2Proof.Machine
end

