-- ==== Sys2Proof/Machine/Ops.lean ====
section
/-! DEFINITION. The named operations over the state: one update per component, interrupt sources, the image in
force, identities, free values. -/
namespace Sys2Proof.Machine

/-- The page of a tenant. -/
def State.page (s : State) (t : Tenant) : TenantPage := s.tenants[t]

/-- Update one tenant page. -/
def State.updPage (s : State) (t : Tenant) (f : TenantPage → TenantPage) : State :=
  { s with tenants := s.tenants.set t (f s.tenants[t]) }

/-- A ring pair of a tenant. -/
def State.ring (s : State) (t : Tenant) (k : RingNo) : Ring := (s.page t).rings[k]

/-- Update one ring pair. -/
def State.updRing (s : State) (t : Tenant) (k : RingNo) (f : Ring → Ring) : State :=
  s.updPage t fun p => { p with rings := p.rings.set k (f p.rings[k]) }

/-- Update the key-entry window of a tenant. -/
def State.updKe (s : State) (t : Tenant) (f : KeyEntry → KeyEntry) : State :=
  s.updPage t fun p => { p with ke := f p.ke }

/-- Update the management page. -/
def State.updMgmt (s : State) (f : Mgmt → Mgmt) : State := { s with mgmt := f s.mgmt }

/-- Update the timetable. -/
def State.updTt (s : State) (f : Timetable → Timetable) : State := { s with tt := f s.tt }

/-- Update the fabric. -/
def State.updFab (s : State) (f : Fabric → Fabric) : State := { s with fab := f s.fab }

/-- Update VS. -/
def State.updVs (s : State) (f : Verify → Verify) : State := { s with vs := f s.vs }

/-- Update SS. -/
def State.updSs (s : State) (f : Sealed → Sealed) : State := { s with ss := f s.ss }

/-- Update the custody station. -/
def State.updKs (s : State) (f : Custody → Custody) : State := { s with ks := f s.ks }

/-- Update the entropy service. -/
def State.updEn (s : State) (f : Entropy → Entropy) : State := { s with en := f s.en }

/-- Update the power manager. -/
def State.updPwr (s : State) (f : Power → Power) : State := { s with pwr := f s.pwr }

/-- Update the always-on domain. -/
def State.updAon (s : State) (f : Aon → Aon) : State := { s with aon := f s.aon }

/-- Update the attached NVM. -/
def State.updNvm (s : State) (f : Nvm → Nvm) : State := { s with nvm := f s.nvm }

/-- Update the life cycle. -/
def State.updLc (s : State) (f : LifeCycle → LifeCycle) : State := { s with lc := f s.lc }

/-- Update debug access. -/
def State.updDbg (s : State) (f : Debug → Debug) : State := { s with dbg := f s.dbg }

/-- Update start-up and configuration. -/
def State.updCfg (s : State) (f : Config → Config) : State := { s with cfg := f s.cfg }

/-- Update the fault collector. -/
def State.updFlt (s : State) (f : Faults → Faults) : State := { s with flt := f s.flt }

/-- Update one control processor. -/
def State.updProc (s : State) (p : Fin 3) (f : Proc → Proc) : State :=
  { s with procs := s.procs.set p (f s.procs[p]) }

/-- Update every control processor. -/
def State.mapProcs (s : State) (f : Proc → Proc) : State := { s with procs := s.procs.map f }

/-- Update every tenant page. -/
def State.mapPages (s : State) (f : TenantPage → TenantPage) : State := { s with tenants := s.tenants.map f }

/-- Update every admitted request. -/
def State.mapReqs (s : State) (f : Request → Request) : State := { s with reqs := s.reqs.map f }

/-- Update the common state of one station. -/
def State.updStn (s : State) (n : Fin 7) (f : StationState → StationState) : State :=
  { s with stations := s.stations.set n (f s.stations[n]) }

/-- Update one cipher station. -/
def State.updCs (s : State) (n : Fin 2) (f : CipherStation → CipherStation) : State :=
  { s with cs := s.cs.set n (f s.cs[n]) }

/-- Update one digest station. -/
def State.updDs (s : State) (n : Fin 2) (f : DigestStation → DigestStation) : State :=
  { s with ds := s.ds.set n (f s.ds[n]) }

/-- Update one admitted request. -/
def State.updReq (s : State) (rid : Nat) (f : Request → Request) : State :=
  { s with reqs := s.reqs.map fun r => if r.rid = rid then f r else r }

/-- The admitted request with an identifier. -/
def State.req? (s : State) (rid : Nat) : Option Request := s.reqs.find? fun r => r.rid = rid

/-- Burn OTP bits: a program burns the bits that are 1 in the data and no others (18 R620). -/
def State.burn (s : State) (row : Fin 128) (data : BitVec 64) : State :=
  { s with otp := s.otp.set row (s.otp[row] ||| data) }

/-- The value the register port answers with. -/
def State.respond (s : State) (v : BitVec 64) : State := { s with rsp := v }

/-- Take the next `n` free values: the model's own counter advances, so that no two draws share an index. -/
def State.draw (s : State) (n : Nat) : State := { s with drawn := s.drawn + n }

/-- TRH_TICK as a number. -/
def State.now (s : State) : Nat := s.tick.toNat

/-- Position of the tick in its period (02 R64). -/
def State.pos (s : State) : Nat := s.now % 4096

/-- A source of Table 11-8 is asserted: its status bit is set (11 R456). -/
def assertTn (t : Tenant) (bit : Nat) (s : State) : State :=
  s.updPage t fun p => { p with intStatus := p.intStatus ||| (BitVec.ofNat 4 1 <<< bit) }

/-- A block-level source of Table 11-9 is asserted: its status bit is set (11 R456). -/
def assertBlk (bit : Nat) (s : State) : State :=
  s.updMgmt fun m => { m with intStatus := m.intStatus ||| (BitVec.ofNat 64 1 <<< bit) }

/-- COMPLETION, bit 0 of Table 11-8. -/
def srcCompletion : Nat := 0
/-- ERROR, bit 1 of Table 11-8. -/
def srcError : Nat := 1
/-- MBOX_IN, bit 2 of Table 11-8. -/
def srcMboxIn : Nat := 2
/-- MBOX_OUT, bit 3 of Table 11-8. -/
def srcMboxOut : Nat := 3

/-- The configuration image held in the active bank of every owner (02 R84, R87). -/
def State.image (s : State) : Image :=
  ((if s.cfg.bank then s.cfg.bank1 else s.cfg.bank0)).getD Image.reset

/-- The image held in the inactive bank. -/
def State.nextImage? (s : State) : Option Image := if s.cfg.bank then s.cfg.bank0 else s.cfg.bank1

/-- STAGE value of an unconfigured block (16 R590). -/
def stageUnconfigured : BitVec 4 := 8

/-- The identity that the ADMIN_ID row gives, none where the row is neither zero nor an identity with its
complement (18 R622). -/
def State.adminId (s : State) : Option Ident :=
  let row := s.otp[(23 : Fin 128)]
  if row = 0 then some 0
  else
    let id := row.extractLsb' 0 12
    if row = (id.zeroExtend 64 ||| ((~~~ id).zeroExtend 64 <<< 16)) then some id else none

/-- The identity map entry of an identity: the image's in force (11 R431), or in an unconfigured block the
ADMIN_ID identity as HOST_ADMIN of tenant 0 and no other (16 R590). -/
def State.identEntry (s : State) (i : Ident) : BitVec 8 :=
  if s.cfg.stage = stageUnconfigured then (if s.adminId = some i then 0xC0 else 0)
  else if s.cfg.mapOn then s.image.idmap.getD i.toNat 0 else 0

/-- ROLE of an identity: 0 none, 1 USER, 2 OFFICER, 3 HOST_ADMIN (11 Table 11-1). -/
def State.roleOf (s : State) (i : Ident) : Nat := fieldNat (s.identEntry i) 6 2

/-- Tenant of an identity (11 Table 11-1). -/
def State.tenantOf (s : State) (i : Ident) : Tenant := ⟨fieldNat (s.identEntry i) 0 6, Nat.mod_lt _ (by decide)⟩

/-- The first value of a list of tenants' numbers as tenant indices. -/
def tenantFin (n : Nat) : Tenant := ⟨n % 64, Nat.mod_lt _ (by decide)⟩

/-- A number as a ring pair index. -/
def ringFin (n : Nat) : RingNo := ⟨n % 4, Nat.mod_lt _ (by decide)⟩

/-- The admitted requests of a tenant. -/
def State.reqsOf (s : State) (t : Tenant) : List Request := s.reqs.filter fun r => r.tenant = t.val

/-- Outcome of a meaning that only changes the state. -/
def ok (s : State) : Host.Outcome State Fault Refusal := .next s

end Sys2Proof.Machine
end

