-- ==== Sys2Proof/Machine/Collector.lean ====
section
/-! DEFINITION. The fault collector: source identities, effective severities, reports and their responses
(12 R460 to R487). -/
namespace Sys2Proof.Machine

/-- The source identity of a checker (01 R41, R461). -/
def sourceId (station engine lane checker : Nat) : BitVec 16 :=
  BitVec.ofNat 16 (station % 8 * 8192 + engine % 8 * 1024 + lane % 16 * 64 + checker % 64)

/-- Station field of a source identity. -/
def srcStation (c : BitVec 16) : Nat := fieldNat c 13 3
/-- Engine field of a source identity. -/
def srcEngine (c : BitVec 16) : Nat := fieldNat c 10 3
/-- Lane field of a source identity. -/
def srcLane (c : BitVec 16) : Nat := fieldNat c 6 4
/-- Checker field of a source identity. -/
def srcChecker (c : BitVec 16) : Nat := fieldNat c 0 6
/-- 8 x station + engine of a source identity: the key of an engine. -/
def srcKey (c : BitVec 16) : Nat := fieldNat c 10 6

/-- Lanes of the engines that have sidings, by 8 x station + engine (01 Table 01-4). -/
def laneCount (key : Nat) : Nat := ((resetRoles.lookup key).map List.length).getD 0

/-- Lanes of the engines without logical positions (01 Table 01-4). -/
def plainLanes (key : Nat) : Nat :=
  if key = 49 then 1 else if key = 50 then 6 else if key = 51 then 6
  else if key % 8 = 7 ∧ key < 56 then 5
  else if key = 56 then 3 else if key = 57 then 8 else if key = 58 then 8 else if key = 59 then 5
  else if key = 60 then 3 else if key = 61 then 1 else if key = 62 then 1 else if key = 63 then 1 else 0

/-- Whether a source is a lane or unit of an engine that has sidings (12 R463). -/
def isLaneSource (c : BitVec 16) : Bool := srcLane c < laneCount (srcKey c)

/-- Whether a source is a noise source (01 Table 01-4: station 6, engine 2, lanes 0 to 3). -/
def isNoiseSource (c : BitVec 16) : Bool := srcKey c == 50 && srcLane c < 4

/-- Whether a source identity can be reported: a listed engine, lane and checker code (01 R42, 12 R461). -/
def reportable (c : BitVec 16) : Bool :=
  let base := srcChecker c % 32
  (srcLane c < laneCount (srcKey c) || srcLane c < plainLanes (srcKey c)) &&
    !([12, 13, 14, 15, 18, 19].contains base)

/-- The fault source of an end for which the spec names none: a free one among those that can be reported (01 R42; log entry 23). -/
def freeReport (n : Nat) : BitVec 16 :=
  if reportable (Config.freeSource n) then Config.freeSource n else sourceId 6 1 0 27

/-- Vendor minimum of a checker code (12 Table 12-1). -/
def vendorMin (code : Nat) : Nat :=
  if code ≥ 32 then 2
  else if [0, 1, 2, 4, 5, 8, 11].contains code then 2
  else if [3, 6, 16, 20].contains code then 1
  else if [7, 17, 21, 26, 27, 28].contains code then 3 else 0

/-- Default severity and action of a source (12 Table 12-1). -/
def defaultSev (c : BitVec 16) : Nat × Nat :=
  let code := srcChecker c
  if code = 4 then (if isLaneSource c then (2, 0) else (3, 4))
  else if code = 17 then (4, 0)
  else if code = 7 ∨ code = 27 ∨ code = 28 then (3, 4)
  else if code = 21 ∨ code = 26 then (3, 5)
  else (vendorMin code, 0)

/-- Effective classification of a source (12 R462, R463, R466). -/
structure SevClass where
  sev : Nat
  action : Nat
  window : Nat
  promoted : Bool
deriving DecidableEq, Repr

/-- Severity, action and window that the rules give a source before R463 (12 R462, R466). -/
def configuredSev (rules : List SevRule) (c : BitVec 16) : Nat × Nat × Nat :=
  let vmin := vendorMin (srcChecker c)
  let (dsev, dact) := defaultSev c
  match (rules.filter fun r => (c &&& r.mask) = r.pat).getLast? with
  | none => (max dsev vmin, dact, if dsev = 3 then 256 else 0)
  | some r =>
    if r.sev ≥ vmin then (r.sev, r.action, r.window)
    else (vmin, if vmin = 3 then (if dsev = 3 then dact else 4) else 0, if vmin = 3 then 256 else 0)

/-- The promotions of an action (12 R463): CONTAIN without a lane becomes FATAL-STATION, and FATAL-STATION of
station 7 becomes FATAL-BLOCK. -/
def promoteAction (c : BitVec 16) (a : Nat) : Nat :=
  let a := if a = 2 ∧ ¬ isLaneSource c ∧ ¬ isNoiseSource c then 4 else a
  if a = 4 ∧ srcStation c = 7 then 5 else a

/-- Effective severity of a source (12 R462, R463, R466). -/
def severityOf (s : State) (c : BitVec 16) : SevClass :=
  let (sev, act, win) := configuredSev s.image.rules c
  if sev = 2 ∧ ¬ isLaneSource c ∧ ¬ isNoiseSource c then
    { sev := 3, action := promoteAction c 4, window := 256, promoted := true }
  else if sev = 4 ∧ srcStation c = 7 then { sev := 5, action := 0, window := 0, promoted := true }
  else if sev = 3 then
    { sev := 3, action := promoteAction c act, window := win, promoted := promoteAction c act ≠ act }
  else { sev := sev, action := 0, window := 0, promoted := false }

/-- Roles of the lanes of an engine (12 Table 12-21). -/
def State.roles (s : State) (key : Nat) : List (BitVec 4) := lookupD key [] s.flt.roles

/-- Set the role of a lane. -/
def setRole (key lane : Nat) (r : BitVec 4) (s : State) : State :=
  s.updFlt fun f => { f with roles := assoc key ((lookupD key [] f.roles).set lane r) f.roles }

/-- Whether a lane is in reserve: a siding gated, powered or under injection (12 Table 12-21, R484). -/
def inReserve (r : BitVec 4) : Bool := r == 8 || r == 9 || r == 10

/-- SPARE: sidings in reserve, one that is to take over a position no longer among them (12 Table 12-21; log entry 39). -/
def spareCount (s : State) (key : Nat) : Nat :=
  ((s.roles key).zipIdx.filter fun p => inReserve p.1 && !s.flt.takeovers.any fun t => t.engine = key && t.lane = p.2).length

/-- Lanes that serve a logical position of an engine. -/
def lanesAt (s : State) (key pos : Nat) : Nat := ((s.roles key).filter fun r => r.toNat = pos).length

/-- Lanes that a position takes: two for VS and SS, whose positions are pairs (01 Table 01-4). -/
def lanesNeeded (key : Nat) : Nat := if key = 32 ∨ key = 40 then 2 else 1

/-- Whether a logical position of an engine is served (02 R101, R105). -/
def served (s : State) (key pos : Nat) : Bool := lanesAt s key pos == lanesNeeded key

/-- Whether the report's record is dropped: more than 192 are queued and its severity is NOTE or MASKED
(12 R471). -/
def recordDropped (f : Faults) (sev : Nat) : Bool := f.queue.length > 192 && sev ≤ 1

/-- Two reports of one source in one tick make one record: at the greater severity, with PROOF where a proof made one of them (12 R471,
R483; DESIGN CHOICE, log entry 121). -/
def FaultRec.merge (x r : FaultRec) : FaultRec :=
  { x with count := x.count + 1, severity := max x.severity r.severity, proof := x.proof || r.proof, action := x.action || r.action,
           promoted := x.promoted || r.promoted }

/-- Add a report to a list of records: reports of one source in one tick make one record (12 R471). -/
def addRecord (r : FaultRec) : List FaultRec → List FaultRec
  | [] => [r]
  | x :: l => if x.source = r.source ∧ x.tick = r.tick then x.merge r :: l else x :: addRecord r l

/-- The record of a report enters the queue and the records of the last 4,096 ticks; a record that is dropped is counted once, with the
first of its reports (12 R471, R490). -/
def record (r : FaultRec) (f : Faults) : Faults :=
  let same := fun (x : FaultRec) => decide (x.source = r.source ∧ x.tick = r.tick)
  let merged := f.queue.any same
  let recent := addRecord r (f.recent.filter fun x => x.tick + 4096 > r.tick)
  if !merged && recordDropped f r.severity then { f with recent := recent, qdrop := if f.recent.any same then f.qdrop else satInc 255 f.qdrop }
  else { f with recent := recent, queue := addRecord r f.queue }

/-- The first-error latch takes a qualifying report, or counts it as later (12 R470). -/
def latch (min sev : Nat) (c : BitVec 16) (now : BitVec 64) (f : Faults) : Faults :=
  if sev < min then f
  else if f.fValid then { f with fOvf := true, later := satInc 0xFFFFFFFF f.later }
  else { f with fValid := true, fSev := BitVec.ofNat 3 sev, fSource := c, fTick := now }

/-- Whether a report will set FAULT_FIRST: it is the one the latch captures (11 Table 11-9, bit 0). -/
def latchCaptures (min sev : Nat) (f : Faults) : Bool := sev ≥ min && !f.fValid

/-- The report is counted: TOTAL and the count of its source (12 Tables 12-17, 12-18). -/
def countReport (c : BitVec 16) (f : Faults) : Faults :=
  { f with total := satInc 0xFFFFFFFF f.total, counts := assoc c (satInc 1023 (lookupD c 0 f.counts)) f.counts }

/-- A report is recorded, latched and counted, at its effective severity; `proof` is the flag PROOF of the record. -/
def logReport (proof : Bool) (c detail : BitVec 16) (cl : SevClass) (s : State) : State :=
  let r := { FaultRec.reset with tick := s.now, source := c, severity := cl.sev, proof := proof, promoted := cl.promoted,
                                 count := 1, action := cl.sev == 2 || cl.sev ≥ 4, detail := detail }
  let s' := s.updFlt fun f => countReport c (latch s.image.latchMin cl.sev c s.tick (record r f))
  if latchCaptures s.image.latchMin cl.sev s.flt then assertBlk 0 s' else s'

/-- Mark the record of a source's reports of a tick, an injected report's too (12 R486). -/
def markRecords (c : BitVec 16) (tick : Nat) (g : FaultRec → FaultRec) (s : State) : State :=
  let upd := fun l : List FaultRec => l.map fun x => if x.source = c ∧ x.tick = tick then g x else x
  s.updFlt fun f => { f with queue := upd f.queue, recent := upd f.recent }

/-- Station on which a request's piece runs: that of its step, VS for the check of an RSA signature, SS and then VS for that of an
imported private key (07 R313; 09 R397). -/
def Request.runsOn (r : Request) : Nat :=
  match r.stage with
  | .crtCheck | .keyVerify => 4
  | .keySign => 5
  | _ => ((r.steps[r.cur]?).map StepState.station).getD 8

/-- Whether a request's piece of this tick runs on the lane of a position of a station. -/
def pieceAt (s : State) (r : Request) (station pos : Nat) : Bool :=
  r.pieceTick == s.now && r.pieceSlots > 0 && r.laneAt == pos && r.runsOn == station

/-- The piece of this tick is discarded: its slots do not count, and the step resumes from the saved state, which lacks a key that
the piece copied (02 R67, R100). `replaying` says that a lane retirement discards it. -/
def discardPiece (replaying : Bool) (r : Request) : Request :=
  { r with slots := r.slots - r.pieceSlots, ticks := r.ticks - 1, pieceSlots := 0, finished := false,
           key := if r.keyTick = r.pieceTick then [] else r.key, units := if r.keyTick = r.pieceTick then [] else r.units,
           stateKey := if r.keyTick = r.pieceTick then [] else r.stateKey, broken := r.broken && r.slots != r.pieceSlots, replaying := r.replaying || replaying }

/-- A retirement discards the pieces of its position in the fault tick; a shadowed piece is the standby's
(02 R78, R100). -/
def discardAt (station pos : Nat) (s : State) : State :=
  { s with reqs := s.reqs.map fun r =>
      if pieceAt s r station pos then (if r.shadowed then { r with replayed := true } else discardPiece true r) else r }

/-- The piece of a curve load is discarded: its checks go on from the state saved at the start of the tick (02 R67, R100; 06 R255). -/
def CurveLoad.discard (l : CurveLoad) : CurveLoad := { l with cycles := l.cycles - 40 * l.here, here := 0 }

/-- The piece of a waybill's signature is discarded; its position serves no further slot in the tick (02 R67, R77, R100). -/
def WaybillJob.discard (w : WaybillJob) : WaybillJob := { w with slots := w.slots - w.here, here := 0, pos := 255 }

/-- The slots of level work that a retired lane has run in the tick are discarded, those that a standby ran too are not (02 R78,
R100). -/
def dropLevels (pos : Nat) (l : List LevelSlot) : List LevelSlot := l.filter fun x => x.lane != pos || x.shadowed

/-- A retirement discards what its position ran in the fault tick beside the steps of requests: slots of KS derivation and rotation, a
curve load's piece, a waybill's (01 R37; 02 R78, R100; 06 R283). -/
def discardInternal (key pos : Nat) (s : State) : State :=
  if key = 48 then
    (s.mapReqs fun r => { r with missLog := dropLevels pos r.missLog }).updKs fun k => { k with rotLog := dropLevels pos k.rotLog }
  else if key = 32 then
    s.updVs fun v => { v with loads := v.loads.map fun l =>
      if l.tick = s.now ∧ l.here > 0 ∧ l.lane = pos ∧ ¬ l.shadowed then l.discard else l }
  else if key = 40 then
    s.updSs fun v => { v with waybills := v.waybills.map fun w =>
      if w.lastTick = s.now ∧ w.here > 0 ∧ w.lane = pos ∧ ¬ w.shadowed then w.discard else w }
  else s

/-- Retire a lane (01 R37, 02 R100): its role becomes 11 and its pieces of this tick are discarded. The siding is
chosen at the boundary (12 R473). -/
def retireLane (key lane : Nat) (c : BitVec 16) (s : State) : State :=
  match (s.roles key)[lane]? with
  | none => s
  | some r =>
    if r = 11 then s
    else
      let s := if r.toNat < 8 then discardInternal key r.toNat (discardAt (key / 8) r.toNat s) else s
      (setRole key lane 11 s).updFlt fun f =>
        { f with retiring := f.retiring ++ [(key, lane, c, r.toNat)], retired := f.retired + 1 }

/-- Retire a noise source (10 R413): its delay line is discarded. `cause` shows in TRH_EN_SRCs.CAUSE. -/
def retireSource (n : Fin 4) (cause : BitVec 8) (s : State) : State :=
  if s.en.sources[n].state = 2 then s
  else
    let src := { s.en.sources[n] with state := 2, cause := cause, line := [], out := [], failed := 0, retired := s.now }
    s.updEn fun e => { e with retire := satInc 0xFFFF e.retire, sources := e.sources.set n src }

/-- The action of a response: 2 retires the lane or noise source, 4 restarts the station, 5 locks the block down,
the last two at the boundary that ends this tick (12 R467, R476, R478). -/
def takeAction (action : Nat) (c : BitVec 16) (s : State) : State :=
  if action = 2 then
    (if isNoiseSource c then retireSource ⟨srcLane c % 4, Nat.mod_lt _ (by decide)⟩ 0 s
     else retireLane (srcKey c) (srcLane c) c s)
  else if action = 4 then s.updFlt fun f => { f with due := f.due ++ [(srcStation c, s.now + 1, c)] }
  else if action = 5 then s.updFlt fun f => { f with due := f.due ++ [(7, s.now + 1, c)] }
  else s

/-- Source identity of ESCFULL: the fault collector's checker 31 (12 Table 12-1). -/
def srcEscFull : BitVec 16 := sourceId 7 7 0 31

/-- The lowest-numbered escalation timer that is free (12 R468). -/
def freeTimer (f : Faults) : Nat := ((List.range 16).find? fun i => !f.timers.any fun t => t.idx = i).getD 15

/-- An ESCALATE report opens a window on a free timer at the boundary that ends this tick, or, with all 16 in use,
takes its action there and is recorded as ESCFULL (12 R467, R468). A source whose window is open opens none. -/
def openWindow (c : BitVec 16) (cl : SevClass) (s : State) : State :=
  if s.flt.timers.any fun t => t.source = c then s
  else if s.flt.timers.length < 16 then
    s.updFlt fun f => { f with timers := f.timers ++
      [{ source := c, opens := s.now + 1, expires := s.now + 1 + cl.window, action := cl.action, idx := freeTimer s.flt }] }
  else
    let s := takeAction cl.action c (markRecords c s.now (fun x => { x with action := true }) s)
    let ce := severityOf s srcEscFull
    takeAction (if ce.sev = 3 then ce.action else ce.sev) srcEscFull (logReport false srcEscFull 0 ce s)

/-- A report is logged, and the response of its effective severity is taken. -/
def reportAs (proof : Bool) (c detail : BitVec 16) (s : State) : State :=
  let cl := severityOf s c
  let s := logReport proof c detail cl s
  if cl.sev = 3 then openWindow c cl s
  else if cl.sev ≥ 2 then takeAction cl.sev c s
  else s

/-- A report reaches the collector (12 R462): it is recorded, latched and counted, and the response of its
effective severity is taken. -/
def faultReport (c detail : BitVec 16) (s : State) : State := reportAs false c detail s

/-- Lanes retired in this tick, of those that `sel` names by engine and lane, serve again: a response of greater severity supersedes their
retirement (12 R487, 14 R532). -/
def restoreLanes (sel : Nat → Nat → Bool) (s : State) : State :=
  let hit := fun (x : Nat × Nat × BitVec 16 × Nat) => sel x.1 x.2.1
  let gone := s.flt.retiring.filter hit
  let s := gone.foldl (fun s x =>
    setRole x.1 x.2.1 (BitVec.ofNat 4 x.2.2.2) (markRecords x.2.2.1 s.now (fun r => { r with action := false }) s)) s
  s.updFlt fun f => { f with retiring := f.retiring.filter fun x => !hit x, retired := f.retired - gone.length }

/-- Remove the escalation window of a source. -/
def closeWindow (c : BitVec 16) (s : State) : State :=
  s.updFlt fun f => { f with timers := f.timers.filter fun t => t.source ≠ c }

/-- Windows closed without action by a restart or lockdown, their records marked (12 R469). -/
def supersede (sel : BitVec 16 → Bool) (s : State) : State :=
  (s.flt.timers.filter fun t => sel t.source).foldl (fun s t =>
    markRecords t.source (t.opens - 1) (fun x => { x with superseded := true }) (closeWindow t.source s)) s

/-- A restart of station `st` reported in this DCLK cycle, or a lockdown for 7, supersedes the retirements and windows of the other
reports of the cycle there (12 R487). -/
def supersedeCycle (st : Nat) (s : State) : State :=
  let mine := fun (c : BitVec 16) => s.flt.cycleWindows.contains c && (st == 7 || srcStation c == st)
  restoreLanes (fun key lane => s.flt.cycleRetired.contains (key, lane) && (st == 7 || key / 8 == st)) (supersede mine s)

/-- Whether a report of this DCLK cycle restarts the station of a source or locks the block down (12 R487). -/
def stoppedInCycle (s : State) (c : BitVec 16) : Bool := s.flt.cycleStops.contains (srcStation c) || s.flt.cycleStops.contains 7

/-- An ESCALATE report in a DCLK cycle with others: its window opens unless a restart or lockdown of the cycle supersedes it, and
supersedes the retirement of its own lane (12 R487). -/
def openAtCycle (c : BitVec 16) (cl : SevClass) (s : State) : State :=
  if stoppedInCycle s c then s
  else
    let s := restoreLanes (fun key lane => s.flt.cycleRetired.contains (key, lane) && key == srcKey c && lane == srcLane c) s
    openWindow c cl (s.updFlt fun f => { f with cycleWindows := addNew c f.cycleWindows })

/-- The response to a report of severity CONTAIN or above that falls in a DCLK cycle with others: only the most severe of the
responses that touch a lane, a station or the block is carried out (12 R487). -/
def respondTo (sev : Nat) (c : BitVec 16) (s : State) : State :=
  let st := if sev = 5 then 7 else srcStation c
  if sev ≥ 4 then
    let s := supersedeCycle st (s.updFlt fun f => { f with cycleStops := addNew st f.cycleStops })
    takeAction sev c s
  else if !isNoiseSource c && (stoppedInCycle s c || s.flt.cycleWindows.any fun w => srcKey w == srcKey c && srcLane w == srcLane c) then
    markRecords c s.now (fun r => { r with action := false }) s
  else
    let t := takeAction sev c s
    if t.flt.retiring.length = s.flt.retiring.length then t
    else t.updFlt fun f => { f with cycleRetired := f.cycleRetired ++ [(srcKey c, srcLane c)] }

/-- Reports of one DCLK cycle: the latch that the first of them took holds the lowest source identity among those that
qualify (12 R487). -/
def latchLowest (n : Nat) (fresh : Bool) (c : BitVec 16) (cl : SevClass) (s : State) : State :=
  if fresh then s.updFlt fun f => if f.fValid then { f with latchAt := some n } else f
  else if s.flt.latchAt = some n ∧ s.image.latchMin ≤ cl.sev ∧ c.toNat < s.flt.fSource.toNat then
    s.updFlt fun f => { f with fSource := c, fSev := BitVec.ofNat 3 cl.sev }
  else s

/-- A report in a DCLK cycle of the tick (12 R462, R487): it is recorded, latched and counted, and the response of its
effective severity is taken. -/
def reportAtCycle (cycle : Nat) (c detail : BitVec 16) (s : State) : State :=
  let n := 320 * s.now + cycle
  let s := if s.flt.cycleAt = some n then s
    else s.updFlt fun f => { f with cycleAt := some n, cycleRetired := [], cycleStops := [], cycleWindows := [] }
  let cl := severityOf s c
  let t := latchLowest n (!s.flt.fValid) c cl (logReport false c detail cl s)
  if cl.sev = 3 then openAtCycle c cl t
  else if cl.sev ≥ 2 then respondTo cl.sev c t
  else t

/-- A report that a proof makes: recorded with PROOF at severity NOTE, no response, no latch, not counted
(12 R470, R483, Table 12-17). -/
def proofReport (c : BitVec 16) (s : State) : State :=
  s.updFlt (record { FaultRec.reset with tick := s.now, source := c, severity := 0, proof := true, count := 1 })

/-- Whether a station restart, or a lockdown for station 7, has fallen due and is yet to be carried out (12 R476, R478). -/
def stopDue (s : State) (st : Nat) (tick : Nat) : Bool := s.flt.due.any fun d => d.1 = st && decide (d.2.1 ≤ tick)

/-- Whether the block is in lockdown, or due to enter it (12 R478). -/
def State.locked (s : State) : Bool := s.flt.lockdown || stopDue s 7 s.now

/-! ### Proofs of the checkers -/

/-- Checkers of each lane of an engine, by 8 x station + engine: those that Table 12-1 names as raised there (12 R461; DEDUCED, log entry
124). -/
def checkersOf (key lane : Nat) : List Nat :=
  if key = 0 ∨ key = 8 then [0, 1, 2, 3, 4, 8, 11]
  else if [16, 17, 24, 25].contains key then [0, 2, 3, 4, 5, 8, 11]
  else if key = 32 then [0, 3, 4, 6, 8, 11]
  else if key = 40 then [0, 3, 4, 6, 7, 8, 11]
  else if key = 48 then [0, 3, 4, 8, 11]
  else if key = 49 then [3, 4, 27, 28]
  else if key = 50 then (if lane < 4 then [9, 10] else [0])
  else if key = 51 then [3, 4]
  else if key % 8 = 7 ∧ key < 56 then
    (if lane = 0 then [3, 4, 16, 17] else if lane = 1 then [3, 4] else if lane = 2 then [3, 4, 16, 17]
     else if lane = 3 then [16, 17] else [30])
  else if key = 56 then (if lane = 1 then [3, 4, 26] else [3, 4])
  else if key = 57 ∨ key = 58 then [3, 4]
  else if key = 59 then (if lane < 4 then [22, 23] else [24, 25])
  else if key = 60 then [20, 21]
  else if key = 61 then [29, 30]
  else if key = 63 then [31] else []

/-- The checkers of an engine, by 8 x station + engine. -/
def engineCheckers (key : Nat) : List (BitVec 16) :=
  (List.range (laneCount key + plainLanes key)).flatMap fun lane =>
    (checkersOf key lane).map fun c => sourceId (key / 8) (key % 8) lane c

/-- Every checker of the block (12 R482). -/
def allCheckers : List (BitVec 16) := (List.range 64).flatMap engineCheckers

/-- Ticks of the 24 hours in which every checker is proven (12 R482). -/
def proofSpan : Nat := 337500000000

/-- A lane of an engine with no siding in reserve, whose proof in place has found no slot for a whole rotation, is overdue
(12 R485). -/
def markOverdue (s : State) : State :=
  let late := fun (c : BitVec 16) =>
    isLaneSource c && spareCount s (srcKey c) == 0 && decide (((s.roles (srcKey c)).getD (srcLane c) 15).toNat < 8) &&
      !s.flt.proven.contains c
  if s.now = s.flt.ageBase + proofSpan ∧ allCheckers.any late then s.updFlt fun f => { f with overdue := true } else s

end Sys2Proof.Machine
end

