-- ==== Sys2Proof/Machine/BlockCiphers.lean ====
section
/-! DEFINITION. The block ciphers: AES (FIPS 197) and DES, of which TDEA is made (SP 800-67). PRESUMED: the spec names the
standards, and the algorithms are taken from them (log entry 11). -/
namespace Sys2Proof.Machine

/-! ### AES -/

/-- The S-box of AES, entry i in bits 8i to 8i + 7. -/
def aesSbox : Nat :=
  0x16BB54B00F2D99416842E6BF0D89A18CDF2855CEE9871E9B948ED9691198F8E19E1DC186B95735610EF6034866B53E708A8BBD4B1F74DDE8C6B4A61C2E2578BA08AE7A65EAF4566CA94ED58D6D37C8E779E4959162ACD3C25C2406490A3A32E0DB0B5EDE14B8EE4688902A22DC4F816073195D643D7EA7C41744975FEC130CCDD2F3FF1021DAB6BCF5389D928F40A351A89F3C507F02F94585334D43FBAAEFD0CF584C4A39BECB6A5BB1FC20ED00D153842FE329B3D63B52A05A6E1B1A2C830975B227EBE28012079A059618C323C7041531D871F1E5A534CCF73F362693FDB7C072A49CAFA2D4ADF04759FA7DC982CA76ABD7FE2B670130C56F6BF27B777C63

/-- The inverse S-box of AES, entry i in bits 8i to 8i + 7. -/
def aesInvSbox : Nat :=
  0x7D0C2155631469E126D677BA7E042B17619953833CBBEBC8B0F52AAE4D3BE0A0EF9CC9939F7AE52D0D4AB519A97F51605FEC8027591012B131C7078833A8DD1FF45ACD78FEC0DB9A2079D2C64B3E56FC1BBE18AA0E62B76F89C5291D711AF1476EDF751CE837F9E28535ADE72274AC9673E6B4F0CECFF297EADC674F4111913A6B8A130103BDAFC1020F3FCA8F1E2CD00645B3B80558E4F70AD3BC8C00ABD890849D8DA75746155EDAB9EDFD5048706C92B6655DCC5CA4D41698688664F6F87225D18B6D49A25B76B224D92866A12E084EC3FA420B954CEE3D23C2A632947B54CBE9DEC444438E3487FF2F9B8239E37CFBD7F3819EA340BF38A53630D56A0952

/-- Entry of an S-box. -/
def sboxAt (t : Nat) (b : Byte) : Byte := BitVec.ofNat 8 (t >>> (8 * b.toNat))

/-- Multiplication by x in the field of AES. -/
def xtime (b : Byte) : Byte := if b.getLsbD 7 then (b <<< 1) ^^^ 0x1B else b <<< 1

/-- The product of a byte and a number below 16 in the field of AES. -/
def gfMul (k : Nat) (b : Byte) : Byte :=
  let b2 := xtime b
  let b4 := xtime b2
  (if k.testBit 0 then b else 0) ^^^ (if k.testBit 1 then b2 else 0) ^^^ (if k.testBit 2 then b4 else 0) ^^^
    (if k.testBit 3 then xtime b4 else 0)

/-- A column multiplied by the circulant matrix whose first row is `m`. -/
def mixColumn (m : List Nat) (col : Bytes) : Bytes :=
  (List.range 4).map fun i =>
    (List.range 4).foldl (fun acc j => acc ^^^ gfMul (m.getD ((j + 4 - i) % 4) 0) (col.getD j 0)) 0

/-- The columns of a state, each mixed. -/
def mixColumns (m : List Nat) (st : Bytes) : Bytes := (chunks 4 st).flatMap (mixColumn m)

/-- The rows of a state, rotated left by `k` times their number. -/
def shiftRows (k : Nat) (st : Bytes) : Bytes :=
  (List.range 16).map fun i => st.getD (i % 4 + 4 * ((i / 4 + k * (i % 4)) % 4)) 0

/-- Round constant `i` of the key expansion. -/
def aesRcon : Nat → Byte
  | 0 => 1
  | n + 1 => xtime (aesRcon n)

/-- The word that follows the words so far in a key expansion with `nk` key words. -/
def aesNextWord (nk : Nat) (ws : List Bytes) : Bytes :=
  let i := ws.length
  let t := ws.getLastD []
  let t := if i % nk = 0 then
      xorBytes ((t.drop 1 ++ t.take 1).map (sboxAt aesSbox)) [aesRcon (i / nk - 1), 0, 0, 0]
    else if nk > 6 ∧ i % nk = 4 then t.map (sboxAt aesSbox) else t
  xorBytes (ws.getD (i - nk) []) t

/-- The round keys of a key of 16, 24 or 32 bytes. -/
def aesRoundKeys (k : Bytes) : List Bytes :=
  let nk := k.length / 4
  let ws := (List.range (4 * (nk + 7) - nk)).foldl (fun ws _ => ws ++ [aesNextWord nk ws]) (chunks 4 k)
  chunks 16 ws.flatten

/-- The rounds after the first key addition; the last one has no column mix. -/
def aesRounds : List Bytes → Bytes → Bytes
  | [], st => st
  | [k], st => xorBytes (shiftRows 1 (st.map (sboxAt aesSbox))) k
  | k :: ks, st => aesRounds ks (xorBytes (mixColumns [2, 3, 1, 1] (shiftRows 1 (st.map (sboxAt aesSbox)))) k)

/-- The inverse rounds, round keys from the last but one down. -/
def aesInvRounds : List Bytes → Bytes → Bytes
  | [], st => st
  | [k], st => xorBytes ((shiftRows 3 st).map (sboxAt aesInvSbox)) k
  | k :: ks, st => aesInvRounds ks (mixColumns [14, 11, 13, 9] (xorBytes ((shiftRows 3 st).map (sboxAt aesInvSbox)) k))

/-- One AES block enciphered or deciphered under a key of 16, 24 or 32 bytes. -/
def aesBlock (enc : Bool) (k b : Bytes) : Bytes :=
  let ks := if enc then aesRoundKeys k else (aesRoundKeys k).reverse
  let st := xorBytes (fitTo 16 b) (ks.headD [])
  fitTo 16 (if enc then aesRounds (ks.drop 1) st else aesInvRounds (ks.drop 1) st)

/-! ### DES -/

/-- A bit string: first bit first. -/
abbrev Bits := List Bool

/-- The bits of a byte string, most significant bit of each byte first. -/
def toBits (b : Bytes) : Bits := b.flatMap fun x => (List.range 8).map fun i => x.getLsbD (7 - i)
/-- The number a bit string spells, first bit most significant. -/
def ofBits (b : Bits) : Nat := b.foldl (fun n x => 2 * n + (if x then 1 else 0)) 0
/-- The `n` low bits of a number, most significant first. -/
def natBits (n x : Nat) : Bits := (List.range n).map fun i => x.testBit (n - 1 - i)
/-- The bytes a bit string spells. -/
def bitBytes (b : Bits) : Bytes := beBytes (b.length / 8) (ofBits b)
/-- The bits that a table names, counted from 1. -/
def permute (t : List Nat) (b : Bits) : Bits := t.map fun i => b.getD (i - 1) false
/-- Exclusive or of bit strings. -/
def xorBits (a b : Bits) : Bits := List.zipWith xor a b

/-- Initial permutation. -/
def desIp : List Nat :=
  [58, 50, 42, 34, 26, 18, 10, 2, 60, 52, 44, 36, 28, 20, 12, 4,
   62, 54, 46, 38, 30, 22, 14, 6, 64, 56, 48, 40, 32, 24, 16, 8,
   57, 49, 41, 33, 25, 17, 9, 1, 59, 51, 43, 35, 27, 19, 11, 3,
   61, 53, 45, 37, 29, 21, 13, 5, 63, 55, 47, 39, 31, 23, 15, 7]

/-- Final permutation. -/
def desFp : List Nat :=
  [40, 8, 48, 16, 56, 24, 64, 32, 39, 7, 47, 15, 55, 23, 63, 31,
   38, 6, 46, 14, 54, 22, 62, 30, 37, 5, 45, 13, 53, 21, 61, 29,
   36, 4, 44, 12, 52, 20, 60, 28, 35, 3, 43, 11, 51, 19, 59, 27,
   34, 2, 42, 10, 50, 18, 58, 26, 33, 1, 41, 9, 49, 17, 57, 25]

/-- Expansion. -/
def desE : List Nat :=
  [32, 1, 2, 3, 4, 5, 4, 5, 6, 7, 8, 9, 8, 9, 10, 11,
   12, 13, 12, 13, 14, 15, 16, 17, 16, 17, 18, 19, 20, 21, 20, 21,
   22, 23, 24, 25, 24, 25, 26, 27, 28, 29, 28, 29, 30, 31, 32, 1]

/-- Permutation of a round. -/
def desP : List Nat :=
  [16, 7, 20, 21, 29, 12, 28, 17, 1, 15, 23, 26, 5, 18, 31, 10,
   2, 8, 24, 14, 32, 27, 3, 9, 19, 13, 30, 6, 22, 11, 4, 25]

/-- First choice of key bits. -/
def desPc1 : List Nat :=
  [57, 49, 41, 33, 25, 17, 9, 1, 58, 50, 42, 34, 26, 18, 10, 2,
   59, 51, 43, 35, 27, 19, 11, 3, 60, 52, 44, 36, 63, 55, 47, 39,
   31, 23, 15, 7, 62, 54, 46, 38, 30, 22, 14, 6, 61, 53, 45, 37,
   29, 21, 13, 5, 28, 20, 12, 4]

/-- Second choice of key bits. -/
def desPc2 : List Nat :=
  [14, 17, 11, 24, 1, 5, 3, 28, 15, 6, 21, 10, 23, 19, 12, 4,
   26, 8, 16, 7, 27, 20, 13, 2, 41, 52, 31, 37, 47, 55, 30, 40,
   51, 45, 33, 48, 44, 49, 39, 56, 34, 53, 46, 42, 50, 36, 29, 32]

/-- The S-boxes of DES, the entry of each input in four bits, that of input 0 lowest: an input is its row, then its column. -/
def desSboxes : List Nat :=
  [0xD60AE3B5719428CF05A379CFB26D8E148359BC6A1D2E47F07095C6A38BF21D4E,
   0x9E50C76B24F31A8DF2396C851D4AB7E05B96A10CE82F74D3A50CD27943B6E81F,
   0xC25B3EF478960DA17EA5C21B03F8946D1FBCE582A643907D824B7CD15F36E90A,
   0xE27CB5498D1A60F34825E31FD7BC096A9EA1C27430F65B8DF4CB5821A9603ED7,
   0x354A90F6D2E17C8BE0365C9F87DAB1246893AF051D74C2BE9E0DF3586BA714C2,
   0xD80671EBAF59C2346BD1A4073C825FE983B0ED1659C724FAB57E43D08629FA1C,
   0xC32EF0597A418DB6295086FAE73CDB4168F2C53EA1947B0D16A579C3D80FE2B4,
   0xB65309CFD8A47E12853FDA602EC914B729E0B65C473A8DF17C05E39A1BF6482D]

/-- Left rotations of the key halves before each round. -/
def desShifts : List Nat := [1, 1, 2, 2, 2, 2, 2, 2, 1, 2, 2, 2, 2, 2, 2, 1]

/-- The round keys from the key halves. -/
def desKeysFrom : List Nat → Bits → Bits → List Bits
  | [], _, _ => []
  | n :: ns, c, d =>
    let c := c.drop n ++ c.take n
    let d := d.drop n ++ d.take n
    permute desPc2 (c ++ d) :: desKeysFrom ns c d

/-- The sixteen round keys of a key of 8 bytes. -/
def desKeys (k : Bytes) : List Bits :=
  let b := permute desPc1 (toBits k)
  desKeysFrom desShifts (b.take 28) (b.drop 28)

/-- Output of S-box `i` for six bits: the outer two name the row, the inner four the column. -/
def desSbox (i : Nat) (b : Bits) : Bits :=
  natBits 4 (desSboxes.getD i 0 >>> (4 * (16 * ofBits (b.take 1 ++ b.drop 5) + ofBits ((b.drop 1).take 4))) % 16)

/-- The function of a round. -/
def desF (k r : Bits) : Bits :=
  let x := xorBits (permute desE r) k
  permute desP ((List.range 8).flatMap fun i => desSbox i ((x.drop (6 * i)).take 6))

/-- The rounds from two halves; the halves change places after the last. -/
def desRounds : List Bits → Bits → Bits → Bits
  | [], l, r => r ++ l
  | k :: ks, l, r => desRounds ks r (xorBits l (desF k r))

/-- One DES block enciphered or deciphered under a key of 8 bytes. -/
def desBlock (enc : Bool) (k b : Bytes) : Bytes :=
  let ks := if enc then desKeys k else (desKeys k).reverse
  let x := permute desIp (toBits (fitTo 8 b))
  bitBytes (permute desFp (desRounds ks (x.take 32) (x.drop 32)))

/-- One TDEA block: encipher, decipher, encipher under the parts of a 2-key or 3-key TDEA key (04 R218 runs single DES
as K, K, K). -/
def tdeaBlock (enc : Bool) (k b : Bytes) : Bytes :=
  let k1 := slice k 0 8
  let k2 := slice k 8 8
  let k3 := if k.length ≥ 24 then slice k 16 8 else k1
  fitTo 8 (if enc then desBlock true k3 (desBlock false k2 (desBlock true k1 b))
           else desBlock false k1 (desBlock true k2 (desBlock false k3 b)))

end Sys2Proof.Machine
end

