-- ==== Sys2Proof/Machine/Digests.lean ====
section
/-! DEFINITION. The digest functions: SHA-2 (FIPS 180-4), SHA-3 and SHAKE (FIPS 202), named by the low byte of their opcode
(05 Table 05-1, R234). PRESUMED: the spec names the standards, and the algorithms are taken from them (log entry 11). -/
namespace Sys2Proof.Machine

/-! ### SHA-2 -/

/-- Round constants of SHA-384, SHA-512 and SHA-512/256; the upper halves of the first 64 are those of SHA-224 and SHA-256. -/
def shaK : List Nat :=
  [0x428A2F98D728AE22, 0x7137449123EF65CD, 0xB5C0FBCFEC4D3B2F, 0xE9B5DBA58189DBBC,
   0x3956C25BF348B538, 0x59F111F1B605D019, 0x923F82A4AF194F9B, 0xAB1C5ED5DA6D8118,
   0xD807AA98A3030242, 0x12835B0145706FBE, 0x243185BE4EE4B28C, 0x550C7DC3D5FFB4E2,
   0x72BE5D74F27B896F, 0x80DEB1FE3B1696B1, 0x9BDC06A725C71235, 0xC19BF174CF692694,
   0xE49B69C19EF14AD2, 0xEFBE4786384F25E3, 0x0FC19DC68B8CD5B5, 0x240CA1CC77AC9C65] ++
  [0x2DE92C6F592B0275, 0x4A7484AA6EA6E483, 0x5CB0A9DCBD41FBD4, 0x76F988DA831153B5,
   0x983E5152EE66DFAB, 0xA831C66D2DB43210, 0xB00327C898FB213F, 0xBF597FC7BEEF0EE4,
   0xC6E00BF33DA88FC2, 0xD5A79147930AA725, 0x06CA6351E003826F, 0x142929670A0E6E70,
   0x27B70A8546D22FFC, 0x2E1B21385C26C926, 0x4D2C6DFC5AC42AED, 0x53380D139D95B3DF,
   0x650A73548BAF63DE, 0x766A0ABB3C77B2A8, 0x81C2C92E47EDAEE6, 0x92722C851482353B] ++
  [0xA2BFE8A14CF10364, 0xA81A664BBC423001, 0xC24B8B70D0F89791, 0xC76C51A30654BE30,
   0xD192E819D6EF5218, 0xD69906245565A910, 0xF40E35855771202A, 0x106AA07032BBD1B8,
   0x19A4C116B8D2D0C8, 0x1E376C085141AB53, 0x2748774CDF8EEB99, 0x34B0BCB5E19B48A8,
   0x391C0CB3C5C95A63, 0x4ED8AA4AE3418ACB, 0x5B9CCA4F7763E373, 0x682E6FF3D6B2B8A3,
   0x748F82EE5DEFB2FC, 0x78A5636F43172F60, 0x84C87814A1F0AB72, 0x8CC702081A6439EC] ++
  [0x90BEFFFA23631E28, 0xA4506CEBDE82BDE9, 0xBEF9A3F7B2C67915, 0xC67178F2E372532B,
   0xCA273ECEEA26619C, 0xD186B8C721C0C207, 0xEADA7DD6CDE0EB1E, 0xF57D4F7FEE6ED178,
   0x06F067AA72176FBA, 0x0A637DC5A2C898A6, 0x113F9804BEF90DAE, 0x1B710B35131C471B,
   0x28DB77F523047D84, 0x32CAAB7B40C72493, 0x3C9EBE0A15C9BEBC, 0x431D67C49C100D4C,
   0x4CC5D4BECB3E42B6, 0x597F299CFC657E2A, 0x5FCB6FAB3AD6FAEC, 0x6C44198C4A475817]

/-- Initial value of SHA-512; the upper halves are that of SHA-256. -/
def sha512Init : List Nat :=
  [0x6A09E667F3BCC908, 0xBB67AE8584CAA73B, 0x3C6EF372FE94F82B, 0xA54FF53A5F1D36F1,
   0x510E527FADE682D1, 0x9B05688C2B3E6C1F, 0x1F83D9ABFB41BD6B, 0x5BE0CD19137E2179]

/-- Initial value of SHA-384; the lower halves are that of SHA-224. -/
def sha384Init : List Nat :=
  [0xCBBB9D5DC1059ED8, 0x629A292A367CD507, 0x9159015A3070DD17, 0x152FECD8F70E5939,
   0x67332667FFC00B31, 0x8EB44A8768581511, 0xDB0C2E0D64F98FA7, 0x47B5481DBEFA4FA4]

/-- Initial value of SHA-512/256. -/
def sha512t256Init : List Nat :=
  [0x22312194FC2BF72C, 0x9F555FA3C84C64C2, 0x2393B86B6F53B151, 0x963877195940EABD,
   0x96283EE2A88EFFE3, 0xBE5E1E2553863992, 0x2B0199FC2C85B8AA, 0x0EB72DDC81C52CA2]

/-- Width of the words of a SHA-2 function. -/
def shaWidth (f : Nat) : Nat := if f ≤ 1 then 32 else 64

/-- Initial value of a SHA-2 function. -/
def shaInit (f : Nat) : List (BitVec (shaWidth f)) :=
  (if f = 0 then sha384Init else if f = 1 then sha512Init.map (· / 2 ^ 32) else if f = 2 then sha384Init
   else if f = 3 then sha512Init else sha512t256Init).map (BitVec.ofNat _)

/-- Round constants of a width. -/
def shaConsts (w : Nat) : List (BitVec w) :=
  if w = 32 then (shaK.take 64).map fun k => BitVec.ofNat w (k / 2 ^ 32) else shaK.map (BitVec.ofNat w)

/-- Exclusive or of three rotations. -/
def rotSum {w : Nat} (a b c : Nat) (x : BitVec w) : BitVec w := x.rotateRight a ^^^ x.rotateRight b ^^^ x.rotateRight c
/-- Exclusive or of two rotations and a shift. -/
def rotShift {w : Nat} (a b c : Nat) (x : BitVec w) : BitVec w := x.rotateRight a ^^^ x.rotateRight b ^^^ x >>> c

/-- One round on the eight working words. -/
def shaRound {w : Nat} (k x : BitVec w) : List (BitVec w) → List (BitVec w)
  | [a, b, c, d, e, f, g, h] =>
    let s1 := if w = 32 then rotSum 6 11 25 e else rotSum 14 18 41 e
    let s0 := if w = 32 then rotSum 2 13 22 a else rotSum 28 34 39 a
    let t1 := h + s1 + ((e &&& f) ^^^ (~~~e &&& g)) + k + x
    let t2 := s0 + ((a &&& b) ^^^ (a &&& c) ^^^ (b &&& c))
    [t1 + t2, a, b, c, d + t1, e, f, g]
  | l => l

/-- The schedule word that follows a window of sixteen. -/
def shaNext {w : Nat} (win : List (BitVec w)) : BitVec w :=
  let y := win.getD 1 0
  let z := win.getD 14 0
  (if w = 32 then rotShift 17 19 10 z else rotShift 19 61 6 z) + win.getD 9 0 +
    (if w = 32 then rotShift 7 18 3 y else rotShift 1 8 7 y) + win.getD 0 0

/-- The rounds of a block, from the window of its first sixteen schedule words. -/
def shaRounds {w : Nat} : List (BitVec w) → List (BitVec w) → List (BitVec w) → List (BitVec w)
  | [], _, st => st
  | k :: ks, win, st => shaRounds ks (win.drop 1 ++ [shaNext win]) (shaRound k (win.getD 0 0) st)

/-- The chaining value after a block. -/
def shaBlock {w : Nat} (h : List (BitVec w)) (block : Bytes) : List (BitVec w) :=
  List.zipWith (· + ·) h (shaRounds (shaConsts w) ((chunks (w / 8) block).map fun b => BitVec.ofNat w (ofBe b)) h)

/-- A chaining value as bytes. -/
def shaBytes {w : Nat} (h : List (BitVec w)) : Bytes := h.flatMap fun x => beBytes (w / 8) x.toNat
/-- The chaining value that bytes spell. -/
def shaWords (f : Nat) (b : Bytes) : List (BitVec (shaWidth f)) := (chunks (shaWidth f / 8) b).map fun x => BitVec.ofNat _ (ofBe x)

/-- The chaining value after whole blocks. -/
def shaAbsorb {w : Nat} (h : List (BitVec w)) (msg : Bytes) : List (BitVec w) := (chunks (2 * w) msg).foldl shaBlock h

/-- Padding of a message of `m` bytes: a one bit, zeros, and the length in bits. -/
def shaPad (w m : Nat) : Bytes :=
  let block := 2 * w
  let n := w / 4
  [0x80] ++ fillBytes ((block - (m + 1 + n) % block) % block) 0 ++ beBytes n (8 * m)

/-! ### SHA-3 and SHAKE -/

/-- The shift register whose bit 0 gives the bits of Keccak's round constants, after a number of steps (FIPS 202: x^8 + x^6 + x^5 + x^4 + 1). -/
def keccakShift : Nat → BitVec 8
  | 0 => 1
  | t + 1 => let r := keccakShift t; if r.msb then r <<< 1 ^^^ 0x71 else r <<< 1

/-- Round constant of a round: seven bits of the register, at the places 2^j - 1 of the lane. -/
def keccakConst (round : Nat) : BitVec 64 :=
  BitVec.ofNat 64 (((List.range 7).map fun j => if (keccakShift (7 * round + j)).getLsbD 0 then 2 ^ (2 ^ j - 1) else 0).sum)

/-- Column and row of the lane that the `t`-th step of the walk over the lanes reaches. -/
def keccakWalk : Nat → Nat × Nat
  | 0 => (1, 0)
  | t + 1 => let p := keccakWalk t; (p.2, (2 * p.1 + 3 * p.2) % 5)

/-- How far a lane is rotated: the triangular number of its step of the walk; the lane at the origin is not on it. -/
def keccakTurn (x y : Nat) : Nat :=
  match (List.range 24).find? fun t => keccakWalk t == (x, y) with
  | some t => (t + 1) * (t + 2) / 2 % 64
  | none => 0

/-- The lane in a column and row of a state, as five columns of five rows. -/
def lane (a : List (List (BitVec 64))) (x y : Nat) : BitVec 64 := (a.getD (x % 5) []).getD (y % 5) 0

/-- A state made lane by lane. -/
def lanes (f : Nat → Nat → BitVec 64) : List (List (BitVec 64)) := (List.range 5).map fun x => (List.range 5).map (f x)

/-- The parity that theta adds to a column: of the column before it, and of the one after it turned by one bit. -/
def keccakParity (a : List (List (BitVec 64))) (x : Nat) : BitVec 64 :=
  let col := fun x => (a.getD (x % 5) []).foldl (· ^^^ ·) 0
  col (x + 4) ^^^ (col (x + 1)).rotateLeft 1

/-- Theta, rho and pi: each lane with its column's parity is turned, and goes to column y, row 2x + 3y. -/
def keccakSpread (a : List (List (BitVec 64))) : List (List (BitVec 64)) :=
  let par := (List.range 5).map (keccakParity a)
  lanes fun x y =>
    let u := (x + 3 * y) % 5
    (lane a u x ^^^ par.getD u 0).rotateLeft (keccakTurn u x)

/-- One round: the spread state, chi along the rows, and the round constant into the lane at the origin. -/
def keccakRound (a : List (List (BitVec 64))) (round : Nat) : List (List (BitVec 64)) :=
  let b := keccakSpread a
  lanes fun x y =>
    let v := lane b x y ^^^ (~~~lane b (x + 1) y &&& lane b (x + 2) y)
    if x + y = 0 then v ^^^ keccakConst round else v

/-- Keccak-f on a state of 200 bytes: lane (x, y) is the eight bytes from 8 (x + 5 y) on. -/
def keccakF (st : Bytes) : Bytes :=
  let a := (List.range 24).foldl keccakRound (lanes fun x y => BitVec.ofNat 64 (leAt st (8 * (x + 5 * y)) 8))
  (List.range 25).flatMap fun i => leBytes 8 (lane a i (i / 5)).toNat

/-- The state after a block of the rate. -/
def keccakBlock (st block : Bytes) : Bytes := keccakF (xorBytes st (block ++ fillBytes (200 - block.length) 0))

/-- Output of `n` blocks of a rate. -/
def keccakSqueeze (rate : Nat) : Nat → Bytes → Bytes
  | 0, _ => []
  | n + 1, st => st.take rate ++ keccakSqueeze rate n (keccakF st)

/-- Padding of a message of `m` bytes: the domain bits with the first pad bit, zeros, and the last pad bit. -/
def keccakPad (rate dom m : Nat) : Bytes :=
  let n := rate - m % rate
  if n = 1 then [BitVec.ofNat 8 (dom + 0x80)] else [BitVec.ofNat 8 dom] ++ fillBytes (n - 2) 0 ++ [0x80]

/-! ### Any function -/

/-- Rate or block size of a digest function by the low byte of its opcode (05 Table 05-1). -/
def digestBlock (f : Nat) : Nat :=
  if f ≤ 1 then 64 else if f ≤ 4 then 128 else if f = 0x10 then 144 else if f = 0x11 then 136 else if f = 0x12 then 104
  else if f = 0x13 then 72 else if f = 0x14 then 168 else 136

/-- Digest length of a function, 0 for SHAKE (03 Table 03-10). -/
def digestLen (f : Nat) : Nat :=
  if f = 0 ∨ f = 0x10 then 28 else if f = 1 ∨ f = 4 ∨ f = 0x11 then 32 else if f = 2 ∨ f = 0x12 then 48
  else if f = 3 ∨ f = 0x13 then 64 else 0

/-- Chaining value or Keccak state of a function before its first block. -/
def digestInit (f : Nat) : Bytes := if f ≤ 4 then shaBytes (shaInit f) else fillBytes 200 0

/-- Chaining value or Keccak state after whole blocks, from one before them. -/
def digestFeed (f : Nat) (st msg : Bytes) : Bytes :=
  if f ≤ 4 then shaBytes (shaAbsorb (shaWords f st) msg) else (chunks (digestBlock f) msg).foldl keccakBlock st

/-- The finished digest of a function: `len` bytes of output, from a state after `count` bytes, with the rest of the message
(05 R234). -/
def digestEnd (f len : Nat) (st : Bytes) (count : Nat) (msg : Bytes) : Bytes :=
  if f ≤ 4 then (digestFeed f st (msg ++ shaPad (shaWidth f) (count + msg.length))).take len
  else
    let r := digestBlock f
    (keccakSqueeze r (ceilDiv len r)
      (digestFeed f st (msg ++ keccakPad r (if f ≤ 0x13 then 0x06 else 0x1F) (count + msg.length)))).take len

/-- The finished digest of a whole message. -/
def digestOf (f len : Nat) (msg : Bytes) : Bytes := digestEnd f len (digestInit f) 0 msg

end Sys2Proof.Machine
end

