-- ==== Sys2Proof/Machine/Crypto.lean ====
section
/-! DEFINITION. Modes of the block ciphers, message authentication, FF1, DUKPT, and drawn bytes. What the spec takes from a
standard by its name is PRESUMED: it is modelled as the standard gives it (log entry 11). -/
namespace Sys2Proof.Machine

/-- SHA-256, 32 bytes (FIPS 180-4). -/
def sha256 (b : Bytes) : Bytes := fitTo 32 (digestOf 1 32 b)
/-- SHA-384, 48 bytes (FIPS 180-4). -/
def sha384 (b : Bytes) : Bytes := fitTo 48 (digestOf 2 48 b)

/-- The key block of a pad: the key with zeros to the block of its function, combined with 0x36 or 0x5C (05 R249). -/
def keyPad (f modf : Nat) (k : Bytes) : Bytes :=
  (fitTo (digestBlock f) k).map fun b => b ^^^ (if modf = 1 then 0x36 else 0x5C)

/-- HMAC with a digest function and a key no longer than its block (RFC 2104; 05 R250, R251). -/
def hmacOf (f : Nat) (k m : Bytes) : Bytes :=
  let h := fun b => fitTo (digestLen f) (digestOf f (digestLen f) b)
  h (keyPad f 2 k ++ h (keyPad f 1 k ++ m))

/-- HMAC-SHA-256, 32 bytes; a longer key is first reduced to its digest (RFC 2104). -/
def hmac256 (k b : Bytes) : Bytes := hmacOf 1 (if k.length > 64 then sha256 k else k) b

/-- `n` drawn bytes from index `i` of the free values (log entry 10). -/
def drawnBytes (i n : Nat) : Bytes := (List.range n).map fun j => Config.freeByte (i + j)

/-- ECB over whole blocks. -/
def ecb (f : Bytes → Bytes) (blocks : List Bytes) : Bytes := (blocks.map f).flatten

/-- CBC encipherment. -/
def cbcEnc (f : Bytes → Bytes) : Bytes → List Bytes → Bytes
  | _, [] => []
  | iv, b :: r => let c := f (xorBytes b iv); c ++ cbcEnc f c r

/-- CBC decipherment, `f` the block decipherment. -/
def cbcDec (f : Bytes → Bytes) : Bytes → List Bytes → Bytes
  | _, [] => []
  | iv, b :: r => xorBytes (f b) iv ++ cbcDec f b r

/-- CFB with full-block feedback: encipherment. -/
def cfbEnc (f : Bytes → Bytes) : Bytes → List Bytes → Bytes
  | _, [] => []
  | iv, b :: r => let c := xorBytes b (f iv); c ++ cfbEnc f c r

/-- CFB with full-block feedback: decipherment, `f` the block encipherment. -/
def cfbDec (f : Bytes → Bytes) : Bytes → List Bytes → Bytes
  | _, [] => []
  | iv, b :: r => xorBytes b (f iv) ++ cfbDec f b r

/-- OFB in either direction. -/
def ofb (f : Bytes → Bytes) : Bytes → List Bytes → Bytes
  | _, [] => []
  | iv, b :: r => let o := f iv; xorBytes b o ++ ofb f o r

/-- The next counter block: the low 32 bits increment (04 Table 04-5). -/
def incr32 (b : Bytes) : Bytes := b.take 12 ++ beBytes 4 ((ofBe (b.drop 12) + 1) % 4294967296)

/-- CTR in either direction (04 Table 04-5). -/
def ctrMode (f : Bytes → Bytes) : Bytes → List Bytes → Bytes
  | _, [] => []
  | c, b :: r => xorBytes b (f c) ++ ctrMode f (incr32 c) r

/-- Padding methods 1 to 3 of ISO/IEC 9797-1 for 8-byte blocks, by PAD (04 Table 04-3, R218). -/
def macPad (pad : Nat) (m : Bytes) : Bytes :=
  let z := fun (x : Bytes) => x ++ fillBytes ((8 - x.length % 8) % 8) 0
  if pad = 0 then z m
  else if pad = 1 then z (m ++ [0x80])
  else beBytes 8 (8 * m.length) ++ (if m.isEmpty then fillBytes 8 0 else z m)

/-- Last cipher block of a CBC chain from a zero initial value (04 R186, R218). -/
def cbcMac (f : Bytes → Bytes) (m : Bytes) : Bytes :=
  (chunks 8 m).foldl (fun acc b => f (xorBytes b acc)) (fillBytes 8 0)

/-- MAC algorithm 1 of ISO/IEC 9797-1 (04 R218). -/
def mac1 (k : Bytes) (pad : Nat) (m : Bytes) : Bytes := cbcMac (tdeaBlock true k) (macPad pad m)

/-- MAC algorithm 3 of ISO/IEC 9797-1: the chain under single DES with K, the final block deciphered under K' and
enciphered under K (04 R218). -/
def mac3 (k : Bytes) (pad : Nat) (m : Bytes) : Bytes :=
  let kk := slice k 0 8
  let k' := slice k 8 8
  let des := fun (e : Bool) (x b : Bytes) => tdeaBlock e (x ++ x ++ x) b
  des true kk (des false k' (cbcMac (des true kk) (macPad pad m)))

/-- Length of the state a sealed blob carries (05 Table 05-4). -/
def stateLen (f : Nat) : Nat := if f ≤ 1 then 32 else if f ≤ 4 then 64 else 200

/-- Length of a sealed blob (05 Table 05-1). -/
def blobLen (f : Nat) : Nat := 48 + stateLen f

/-- Padding overhead of a function (05 Table 05-1). -/
def padOverhead (f : Nat) : Nat := if f ≤ 1 then 9 else if f ≤ 4 then 17 else 1

/-- Cycles per block of a function (05 Table 05-1). -/
def blockCycles (f : Nat) : Nat := if f ≤ 1 then 16 else if f ≤ 4 then 20 else 24

/-! ### Message authentication and authenticated encryption -/

/-- A string with zeros to a whole number of blocks of `n` bytes. -/
def padTo (n : Nat) (b : Bytes) : Bytes := b ++ fillBytes ((n - b.length % n) % n) 0

/-- Last cipher block of a CBC chain over blocks of `n` bytes from a zero initial value. -/
def chainMac (n : Nat) (f : Bytes → Bytes) (m : Bytes) : Bytes :=
  (chunks n m).foldl (fun acc b => f (xorBytes b acc)) (fillBytes n 0)

/-- A CMAC subkey doubled from `b`, for blocks of 8 or 16 bytes (SP 800-38B). -/
def cmacDouble (n : Nat) (b : Bytes) : Bytes :=
  let x := ofBe b
  beBytes n ((2 * x % 2 ^ (8 * n)) ^^^ (if x.testBit (8 * n - 1) then (if n = 16 then 0x87 else 0x1B) else 0))

/-- CMAC over a block cipher with blocks of `n` bytes (SP 800-38B). -/
def cmacWith (n : Nat) (f : Bytes → Bytes) (m : Bytes) : Bytes :=
  let k1 := cmacDouble n (f (fillBytes n 0))
  let rest := m.length - (if m.isEmpty then 0 else (m.length - 1) % n + 1)
  let last := m.drop rest
  let last := if last.length = n then xorBytes last k1 else xorBytes (fitTo n (last ++ [0x80])) (cmacDouble n k1)
  chainMac n f (m.take rest ++ last)

/-- CMAC with AES (04 R219). -/
def aesCmac (k m : Bytes) : Bytes := fitTo 16 (cmacWith 16 (aesBlock true k) m)

/-- The product of two elements of the field of GHASH, bit 0 of the field first (SP 800-38D). -/
def ghashMul (x y : Nat) : Nat :=
  ((List.range 128).foldl (fun (zv : Nat × Nat) i =>
    (if x.testBit (127 - i) then zv.1 ^^^ zv.2 else zv.1,
     if zv.2 % 2 = 1 then zv.2 / 2 ^^^ (0xE1 <<< 120) else zv.2 / 2)) (0, y)).1

/-- GHASH of a string of whole blocks. -/
def ghash (h : Nat) (b : Bytes) : Nat := (chunks 16 b).foldl (fun acc x => ghashMul (acc ^^^ ofBe x) h) 0

/-- The GCM tag of 16 bytes for an IV of 12 bytes. -/
def gcmTag (k iv aad c : Bytes) : Bytes :=
  let f := aesBlock true k
  let g := ghash (ofBe (f (fillBytes 16 0))) (padTo 16 aad ++ padTo 16 c ++ beBytes 8 (8 * aad.length) ++ beBytes 8 (8 * c.length))
  xorBytes (f (fitTo 12 iv ++ beBytes 4 1)) (beBytes 16 g)

/-- The counter mode of GCM, in either direction. -/
def gcmCrypt (k iv p : Bytes) : Bytes := ctrMode (aesBlock true k) (fitTo 12 iv ++ beBytes 4 2) (chunks 16 p)

/-- GCM encipherment with the tag cut to `t` bytes (SP 800-38D). -/
def gcmSeal (k iv aad p : Bytes) (t : Nat) : Bytes :=
  let c := fitTo p.length (gcmCrypt k iv p)
  c ++ fitTo t (gcmTag k iv aad c)

/-- GCM decipherment: the payload, and whether the tag verifies. -/
def gcmOpen (k iv aad c tag : Bytes) : Bytes × Bool :=
  (fitTo c.length (gcmCrypt k iv c), fitTo tag.length (gcmTag k iv aad c) == tag)

/-- A counter block of CCM: the length of the counter less 1, the nonce, the counter (SP 800-38C). -/
def ccmBlock (n : Bytes) (i : Nat) : Bytes := leBytes 1 (14 - n.length) ++ n ++ beBytes (15 - n.length) i

/-- The CCM tag of `t` bytes (SP 800-38C). -/
def ccmTag (k n aad p : Bytes) (t : Nat) : Bytes :=
  let f := aesBlock true k
  let b0 := leBytes 1 ((if aad.isEmpty then 0 else 64) + 8 * ((t - 2) / 2) + (14 - n.length)) ++ n ++ beBytes (15 - n.length) p.length
  let al := if aad.length < 0xFF00 then beBytes 2 aad.length else [0xFF, 0xFE] ++ beBytes 4 aad.length
  let a := if aad.isEmpty then [] else padTo 16 (al ++ aad)
  (xorBytes (chainMac 16 f (b0 ++ a ++ padTo 16 p)) (f (ccmBlock n 0))).take t

/-- The counter mode of CCM, in either direction. -/
def ccmCrypt (k n p : Bytes) : Bytes := ctrMode (aesBlock true k) (ccmBlock n 1) (chunks 16 p)

/-- CCM encipherment with a tag of `t` bytes (SP 800-38C). -/
def ccmSeal (k n aad p : Bytes) (t : Nat) : Bytes := fitTo p.length (ccmCrypt k n p) ++ fitTo t (ccmTag k n aad p t)

/-- CCM decipherment: the payload, and whether the tag verifies. -/
def ccmOpen (k n aad c tag : Bytes) : Bytes × Bool :=
  let p := fitTo c.length (ccmCrypt k n c)
  (p, fitTo tag.length (ccmTag k n aad p tag.length) == tag)

/-! ### XTS -/

/-- The tweak of the block that follows, as a little-endian number (IEEE 1619). -/
def xtsNext (t : Nat) : Nat := (2 * t % 2 ^ 128) ^^^ (if t.testBit 127 then 0x87 else 0)

/-- The tweak of block `i`. -/
def xtsTweak (t0 : Nat) : Nat → Nat
  | 0 => t0
  | i + 1 => xtsNext (xtsTweak t0 i)

/-- One block under a tweak. -/
def xtsBlock (f : Bytes → Bytes) (t : Nat) (b : Bytes) : Bytes := xorBytes (f (xorBytes b (leBytes 16 t))) (leBytes 16 t)

/-- Whole blocks from a tweak on. -/
def xtsBlocks (f : Bytes → Bytes) : Nat → List Bytes → Bytes
  | _, [] => []
  | t, b :: r => xtsBlock f t b ++ xtsBlocks f (xtsNext t) r

/-- XTS with AES: direction, double-length key, tweak, data of at least a block; a short last block takes bytes of the one before
(IEEE 1619). -/
def xts (enc : Bool) (k tweak p : Bytes) : Bytes :=
  let h := k.length / 2
  let f := aesBlock enc (k.take h)
  let t0 := ofLe (aesBlock true (k.drop h) tweak)
  let m := p.length / 16
  let r := p.length % 16
  if r = 0 then xtsBlocks f t0 (chunks 16 p)
  else
    let body := xtsBlocks f t0 (chunks 16 (p.take (16 * (m - 1))))
    let tm := xtsTweak t0 (m - 1)
    let tn := xtsNext tm
    let x := xtsBlock f (if enc then tm else tn) (slice p (16 * (m - 1)) 16)
    let y := xtsBlock f (if enc then tn else tm) (p.drop (16 * m) ++ x.drop r)
    body ++ y ++ x.take r

/-! ### FF1 -/

/-- The number that digits spell, most significant first. -/
def ofDigits (radix : Nat) (x : List Nat) : Nat := x.foldl (fun n d => n * radix + d) 0
/-- `n` digits of a number, most significant first. -/
def toDigits (radix : Nat) : Nat → Nat → List Nat
  | 0, _ => []
  | n + 1, x => toDigits radix n (x / radix) ++ [x % radix]

/-- The `b` bytes of the number of a half; the value is free where they do not hold it (04 R208; log entry 72). -/
def ff1Number (b x : Nat) : Bytes := if x < 256 ^ b then beBytes b x else fitTo b (Config.freeFf1 b x)

/-- The round value y of FF1 for the half that enters the round (SP 800-38G). -/
def ff1Round (f : Bytes → Bytes) (radix n b : Nat) (tweak : Bytes) (i : Nat) (half : List Nat) : Nat :=
  let t := tweak.length
  let p : Bytes := [1, 2, 1] ++ beBytes 3 radix ++ [10] ++ leBytes 1 (n / 2) ++ beBytes 4 n ++ beBytes 4 t
  let q := tweak ++ fillBytes ((16 - (t + b + 1) % 16) % 16) 0 ++ leBytes 1 i ++ ff1Number b (ofDigits radix half)
  let r := chainMac 16 f (p ++ q)
  let d := 4 * ceilDiv b 4 + 4
  let s := (List.range (ceilDiv d 16)).flatMap fun j => if j = 0 then r else f (xorBytes r (beBytes 16 j))
  ofBe (s.take d)

/-- FF1 with AES: direction, key, radix, byte count b, tweak, digits (SP 800-38G; 04 R207, R208). -/
def ff1 (enc : Bool) (k : Bytes) (radix b : Nat) (tweak : Bytes) (x : List Nat) : List Nat :=
  let n := x.length
  let u := n / 2
  let y := ff1Round (aesBlock true k) radix n b tweak
  let m := fun i => if i % 2 = 0 then u else n - u
  let ab := if enc then
      (List.range 10).foldl (fun (p : List Nat × List Nat) i =>
        (p.2, toDigits radix (m i) ((ofDigits radix p.1 + y i p.2) % radix ^ m i))) (x.take u, x.drop u)
    else
      (List.range 10).reverse.foldl (fun (p : List Nat × List Nat) i =>
        (toDigits radix (m i) ((ofDigits radix p.2 + radix ^ m i - y i p.1 % radix ^ m i) % radix ^ m i), p.1)) (x.take u, x.drop u)
  ab.1 ++ ab.2

/-! ### DUKPT -/

/-- Algorithm indicator and length of an AES key in derivation data (ANSI X9.24-3). -/
def dukptAlg (bytes : Nat) : Bytes := beBytes 2 (bytes / 8) ++ beBytes 2 (8 * bytes)

/-- A key of `n` bytes from derivation data without its first two bytes (ANSI X9.24-3). -/
def dukptDerive (k : Bytes) (n : Nat) (data : Bytes) : Bytes :=
  ((List.range (ceilDiv n 16)).flatMap fun i => aesBlock true k ([1] ++ leBytes 1 (i + 1) ++ data)).take n

/-- AES DUKPT: base key, KSN field, key usage code; the AES-128 working key (ANSI X9.24-3; 04 R221, Table 04-10). -/
def dukptAes (bdk ksn : Bytes) (usage : Nat) : Bytes :=
  let n := bdk.length
  let ctr := ofBe (slice ksn 8 4)
  let data := fun (use : Nat) (bytes c : Nat) => beBytes 2 use ++ dukptAlg bytes ++ slice ksn 4 4 ++ beBytes 4 c
  let ik := dukptDerive bdk n (beBytes 2 0x8001 ++ dukptAlg n ++ ksn.take 8)
  let kc := ((List.range 32).map (31 - ·)).foldl (fun (p : Bytes × Nat) i =>
    if ctr.testBit i then
      let c := p.2 + 2 ^ i
      (dukptDerive p.1 n (data 0x8000 n c), c)
    else p) (ik, 0)
  dukptDerive kc.1 16 (data usage 16 ctr)

/-- A key of 16 bytes combined with the constant of TDEA DUKPT. -/
def dukptMask (k : Bytes) : Bytes :=
  let c : Bytes := [0xC0, 0xC0, 0xC0, 0xC0, 0, 0, 0, 0]
  xorBytes k (c ++ c)

/-- One half of the key that follows in TDEA DUKPT (ANSI X9.24-1). -/
def dukptHalf (k r : Bytes) : Bytes := xorBytes (desBlock true (k.take 8) (xorBytes r (k.drop 8))) (k.drop 8)

/-- TDEA DUKPT: base key, KSN of 10 bytes, variant of 8 bytes; the 2-key working key (ANSI X9.24-1; 04 R221, Table 04-10). -/
def dukptTdea (bdk ksn var : Bytes) : Bytes :=
  let id := ofBe ksn / 2 ^ 21 * 2 ^ 21
  let ctr := ofBe ksn % 2 ^ 21
  let top := (beBytes 10 id).take 8
  let ik := tdeaBlock true bdk top ++ tdeaBlock true (dukptMask bdk) top
  let kc := ((List.range 21).map (20 - ·)).foldl (fun (p : Bytes × Nat) i =>
    if ctr.testBit i then
      let c := p.2 + 2 ^ i
      let r := beBytes 8 (c % 2 ^ 64)
      (dukptHalf (dukptMask p.1) r ++ dukptHalf p.1 r, c)
    else p) (ik, id)
  xorBytes kc.1 (var ++ var)

end Sys2Proof.Machine
end

