-- ==== Sys2Proof/Machine/Drbg.lean ====
section
/-! DEFINITION. CTR_DRBG with AES-256 and its derivation function, as SP 800-90A gives it (10 R417; log entry 11). -/
namespace Sys2Proof.Machine

/-- A 16-byte counter with one added. -/
def countUp (v : Bytes) : Bytes := beBytes 16 ((ofBe v + 1) % 2 ^ 128)

/-- BCC: the chained encryption of whole blocks under a key. -/
def bcc (k b : Bytes) : Bytes := (chunks 16 b).foldl (fun v x => aesBlock true k (xorBytes v x)) (fillBytes 16 0)

/-- Blocks of a chain that begins with a block, each the encryption of the one before. -/
def encChain (k : Bytes) : Nat → Bytes → Bytes
  | 0, _ => []
  | n + 1, x => let y := aesBlock true k x; y ++ encChain k n y

/-- Block_Cipher_df of an input, to the 48 bytes of a seed. -/
def blockCipherDf (b : Bytes) : Bytes :=
  let s := beBytes 4 b.length ++ beBytes 4 48 ++ b ++ [0x80]
  let s := fitTo (16 * ceilDiv s.length 16) s
  let k := (List.range 32).map fun i => BitVec.ofNat 8 i
  let t := (List.range 3).flatMap fun i => bcc k (beBytes 4 i ++ fillBytes 12 0 ++ s)
  encChain (t.take 32) 3 (t.drop 32)

/-- `n` output blocks of a Key, and the counter after them. -/
def ctrBlocks (k : Bytes) : Nat → Bytes → Bytes × Bytes
  | 0, v => ([], v)
  | n + 1, v =>
    let v := countUp v
    let (o, w) := ctrBlocks k n v
    (aesBlock true k v ++ o, w)

/-- CTR_DRBG_Update: the Key and V that a seed of 48 bytes gives. -/
def drbgUpdate (data key v : Bytes) : Bytes × Bytes :=
  let t := xorBytes (ctrBlocks key 3 v).1 data
  (t.take 32, t.drop 32)

/-- Key and V of an instantiation from entropy input with its nonce, and a personalisation string. -/
def drbgInstantiate (seed pers : Bytes) : Bytes × Bytes :=
  drbgUpdate (blockCipherDf (seed ++ pers)) (fillBytes 32 0) (fillBytes 16 0)

/-- Key and V of a reseed from entropy input. -/
def drbgReseed (seed key v : Bytes) : Bytes × Bytes := drbgUpdate (blockCipherDf seed) key v

/-- Key and V that a generate call of a number of bytes leaves. -/
def drbgGenerate (n : Nat) (key v : Bytes) : Bytes × Bytes :=
  drbgUpdate (fillBytes 48 0) key (ctrBlocks key (ceilDiv n 16) v).2

end Sys2Proof.Machine
end

