-- ==== Sys2Proof/Machine/Gate.lean ====
section
/-! DEFINITION. The register port: which accesses reach a register, and what becomes of those that do not
(00 R18, 11 R434 to R436, R439, R455, 15 R542, 16 R588, 17 R599, R600). -/
namespace Sys2Proof.Machine

/-- Part of a tenant page, by the rows of Table 11-3. -/
inductive Sub where
  /-- offsets 0x000 to 0x2FF and 0x400 to 0x4FF -/
  | user
  /-- offsets 0x300 to 0x3FF and 0x500 to 0x5FF -/
  | officer
  /-- offsets 0x600 to 0x6FF: USER may read -/
  | shared
  /-- the other offsets -/
  | other
deriving DecidableEq, Repr

/-- Region of an access (11 Table 11-3, 17 Table 17-1). -/
inductive Region where
  | mgmt
  | sup
  | page (t : Tenant) (sub : Sub)
  | fifo (t : Tenant)
  /-- a range Table 17-1 does not assign -/
  | unassigned
deriving DecidableEq, Repr

/-- What the port does with an access. -/
inductive Verdict where
  /-- no register answers: the read value is 0 and a write is ignored, with no record (15 R542, 16 R588) -/
  | shut
  /-- a foreign access (11 R435) -/
  | foreign
  /-- a write refused for want of the lock (11 R455) -/
  | denied
  /-- a write to a page whose tenant reset runs (11 R439) -/
  | ignored
  /-- the access reaches the register -/
  | go
deriving DecidableEq, Repr

/-- The region of an offset (17 Table 17-1, 11 Table 11-3). -/
def regionOf (off : Nat) : Region :=
  if off < 0x10000 then .mgmt
  else if off < 0x20000 then .sup
  else if 0x100000 ≤ off ∧ off < 0x140000 then
    let o := off % 0x1000
    let sub := if o < 0x300 ∨ (0x400 ≤ o ∧ o < 0x500) then Sub.user
      else if o < 0x600 then Sub.officer
      else if o < 0x700 then Sub.shared else Sub.other
    .page (tenantFin ((off - 0x100000) / 0x1000)) sub
  else if 0x200000 ≤ off ∧ off < 0x240000 then .fifo (tenantFin ((off - 0x200000) / 0x1000))
  else .unassigned

/-- Life-cycle code of SCRAP (15 Table 15-1). -/
def lcScrap : BitVec 4 := 7

/-- Whether the port is shut for all but the identity registers: in SCRAP, and until stage 3 ends (15 R542,
16 R588). -/
def portShut (s : State) : Bool := s.lc.state == lcScrap || decide (s.cfg.stage.toNat < 4)

/-- Whether Table 11-3 permits an access of an identity (11 R434). An access to a range that belongs to no region
is a reserved access of whoever makes it (log entry 9). -/
def permitted (s : State) (i : Ident) (rg : Region) (wr : Bool) : Bool :=
  let role := s.roleOf i
  match rg with
  | .mgmt | .sup => role == 3
  | .page t sub =>
    decide (s.tenantOf i = t) &&
      (match sub with
       | .user | .other => role == 1 || role == 2
       | .officer => role == 2
       | .shared => role == 2 || (role == 1 && !wr))
  | .fifo t => decide (s.tenantOf i = t) && (role == 1 || role == 2)
  | .unassigned => true

/-- Whether an identity holds the management lock with SRC = 0 (11 R455). -/
def isHolder (s : State) (i : Ident) : Bool := s.mgmt.held && !s.mgmt.src && s.mgmt.holder == i

/-- What the port does with an access of identity `i` to a region; `lock` says that the register is
TRH_MGMT_LOCK. -/
def verdict (s : State) (i : Ident) (rg : Region) (wr lock : Bool) : Verdict :=
  if !s.mainUp || portShut s then .shut
  else if !permitted s i rg wr then .foreign
  else if !wr then .go
  else match rg with
    | .mgmt => if lock || isHolder s i then .go else .denied
    | .sup => if isHolder s i then .go else .denied
    | .page t _ | .fifo t => if (s.page t).resetBusy then .ignored else .go
    | .unassigned => .go

/-- Source identity of the foreign-access checker of the register port (12 Table 12-1, 01 Table 01-4). -/
def srcForeign : BitVec 16 := sourceId 7 3 4 24
/-- Source identity of the RESOFF checker of the register port. -/
def srcResoff : BitVec 16 := sourceId 7 3 4 25

/-- A foreign access is recorded and reported, and has no other effect (11 R435, R436). -/
def foreignAccess (i : Ident) (off : Nat) (wr : Bool) (s : State) : State :=
  let has := s.roleOf i ≠ 0
  let t := s.tenantOf i
  let s := if has then s.updPage t fun p => { p with foreign := satInc 0xFFFF p.foreign } else s
  let s := s.updMgmt fun m =>
    { m with fgnOffset := BitVec.ofNat 24 off, fgnWrite := wr, fgnTenV := has,
             fgnTenant := if has then BitVec.ofNat 6 t.val else 0, fgnIdent := i,
             fgnCount := satInc 0xFFFF m.fgnCount }
  faultReport srcForeign 0 (assertBlk 16 s)

/-- An access to a reserved offset, or of a refused width, is reported and has no other effect (00 R18, 17 R600). -/
def reservedAccess (s : State) : State := faultReport srcResoff 0 s

/-- A write refused for want of the lock is counted (11 R455, R492, R571). -/
def deniedWrite (s : State) : State := s.updMgmt fun m => { m with denied := satInc 0xFFFF m.denied }

/-- A write of identity `i` at offset `off` of a region: its effect when it reaches the register. A write answers
with read data 0 (18 R613). -/
def gateWrite (i : Ident) (off : Nat) (rg : Region) (lock : Bool) (eff : State → State) (s : State) : State :=
  match verdict s i rg true lock with
  | .shut | .ignored => s.respond 0
  | .foreign => (foreignAccess i off true s).respond 0
  | .denied => (deniedWrite s).respond 0
  | .go => (eff s).respond 0

/-- A read of identity `i` at offset `off` of a region: the value `val` gives when it reaches the register; `keeps`
says that the register answers while the port is shut. -/
def gateRead (i : Ident) (off : Nat) (rg : Region) (keeps : Bool) (val : State → BitVec 64) (s : State) : State :=
  match verdict s i rg false false with
  | .shut => s.respond (if s.mainUp && keeps then val s else 0)
  | .foreign => (foreignAccess i off false s).respond 0
  | _ => s.respond (val s)

/-- Offset of a tenant page register. -/
def pageOff (t : Tenant) (o : Nat) : Nat := 0x100000 + t.val * 0x1000 + o

/-- Offset of a FIFO window register. -/
def fifoOff (t : Tenant) (o : Nat) : Nat := 0x200000 + t.val * 0x1000 + o

/-- A write to a management page register other than TRH_MGMT_LOCK. -/
def mgmtWrite (i : Ident) (off : Nat) (eff : State → State) (s : State) : State := gateWrite i off .mgmt false eff s

/-- A write to a Supervisor and debug page register. -/
def supWrite (i : Ident) (off : Nat) (eff : State → State) (s : State) : State := gateWrite i off .sup false eff s

/-- A write to a tenant page register. -/
def pageWrite (i : Ident) (t : Tenant) (o : Nat) (eff : State → State) (s : State) : State :=
  gateWrite i (pageOff t o) (regionOf (pageOff t o)) false eff s

end Sys2Proof.Machine
end

