-- ==== Sys2Proof/Machine/EntropyOps.lean ====
section
/-! DEFINITION. The entropy service: sources, seed pool, DRBG, buffer and service states (10 R408 to R430). -/
namespace Sys2Proof.Machine

/-- Limit of the reseed counter (10 R418). -/
def callLimit : Nat := 1048576
/-- Capacity of the internal buffer in bytes (10 R420). -/
def bufCap : Nat := 65536

/-- Bits in the seed pool (10 Table 10-5). -/
def Entropy.pool (e : Entropy) : Nat := 8 * e.seed.length

/-- Number of healthy sources (10 R424). -/
def healthyCount (e : Entropy) : Nat := (e.sources.toList.filter fun x => x.state = 0).length

/-- Number of sources under test. -/
def testingCount (e : Entropy) : Nat := (e.sources.toList.filter fun x => x.state = 1).length

/-- LOW follows FILL once RUNNING was first entered (10 Table 10-8). -/
def trackLow (e : Entropy) : Entropy := if e.lowOn then { e with low := min e.low e.fill } else e

/-- Take `n` bytes from the internal buffer (10 R420). -/
def takeBuf (n : Nat) (e : Entropy) : Entropy := trackLow { e with fill := e.fill - n }

/-- Whether a draw that can wait is made now: while the buffer holds 32 KiB, or, where the service is EXHAUSTED, the draw (10 R421, R426,
Table 10-2). -/
def drawsNow (n : Nat) (e : Entropy) : Bool := if e.state = 3 then decide (e.fill ≥ n) else decide (e.fill ≥ 32768)

/-- Whether the core can serve `RANDOM` pieces in this tick: their call is made, or can still be made (10 R417, R418). -/
def coreServes (e : Entropy) : Bool := e.inst && !e.stuck && (e.direct != 0 || decide (e.calls < callLimit))

/-- A generate call that the two copies of the core agree on (10 R417 to R419). -/
def coreCall (e : Entropy) : Entropy :=
  let (k, v) := drbgGenerate 1280 e.key e.vec
  { e with mism := 0, calls := e.calls + 1, key := k, vec := v }

/-- The buffer keeps of the refill of the tick what the cycles that no `RANDOM` piece used have given (10 R420). -/
def settleRefill (e : Entropy) : Entropy :=
  let lost := e.credit - (1280 - e.direct)
  { e with fill := e.fill - lost, credit := e.credit - lost }

/-- The core serves `n` bytes to a `RANDOM` piece: the first piece of a tick makes its call (10 R417, R418, R420, R422). -/
def takeCore (n : Nat) (e : Entropy) : Entropy :=
  let e := if e.direct = 0 then coreCall e else e
  trackLow (settleRefill { e with direct := e.direct + n })

/-! ### Samples, health tests and the conditioner -/

/-- The tests of R412 on a sample of a source; the first 1,024 samples of a start are its start-up test (10 R411, R412, Table 10-10). -/
def Source.test (x : Source) (b : Bool) : Source :=
  let run := if x.taken ≠ 0 ∧ b = x.last then x.run + 1 else 1
  let first := if x.win = 0 then b else x.first
  let count := if x.win = 0 then 1 else if b = x.first then x.count + 1 else x.count
  let start : BitVec 8 := if x.taken < 1024 then 1 else 3
  { x with taken := x.taken + 1, last := b, run := run, first := first, count := count, win := (x.win + 1) % 1024,
           runPeak := max x.runPeak (min 255 run), aptPeak := max x.aptPeak (min 1023 count),
           failed := if run ≥ 201 then start else if count ≥ 947 then start + 1 else 0 }

/-- A source takes a sample: it is tested, enters the delay line, and pushes out the sample that 2,048 later ones have followed, which
counts where the source is healthy (10 R410, R411). A retired source takes none. -/
def Source.sample (x : Source) (b : Bool) : Source :=
  if x.state = 2 ∨ x.failed ≠ 0 then x
  else
    let y := x.test b
    let l := x.line ++ [b]
    if l.length ≤ 2048 then { y with line := l }
    else { y with line := l.tail, out := if x.state = 0 then x.out ++ l.take 1 else [] }

/-- A source whose start-up test has passed is healthy; one under retest waits for its rejoin (10 R411, R424). -/
def Source.ready (x : Source) : Source :=
  if x.state = 1 ∧ !x.retest ∧ x.failed = 0 ∧ x.taken ≥ 1024 then { x with state := 0 } else x

/-- A source starts afresh: its tests, its delay line and what has left it (10 R411, R424). -/
def Source.restart (x : Source) : Source :=
  { x with taken := 0, last := false, run := 0, first := false, count := 0, win := 0, failed := 0, line := [], out := [] }

/-- The samples that the sources take from one time to another, one every 60 ns since release: free values (10 R408; log entry 117). -/
def takeSamples (w0 w1 : Nat) (e : Entropy) : Entropy :=
  let ks := (List.range (w1 / 300 - w0 / 300)).map fun i => w0 / 300 + i
  { e with sources := e.sources.mapIdx fun n x => (ks.foldl (fun x k => x.sample (Config.rawSample n k)) x).ready }

/-- The conditioner takes the next 64 raw bits, from the next healthy source in turn once that has them (10 R415). -/
def takeRaw (e : Entropy) : Entropy :=
  match ((List.finRange 4).map fun k => e.turn + k).find? fun n => e.sources[n].state == 0 with
  | none => e
  | some n =>
    let x := e.sources[n]
    if e.raw.length ≥ 4096 ∨ x.out.length < 64 then e
    else { e with raw := e.raw ++ x.out.take 64, turn := n + 1, sources := e.sources.set n { x with out := x.out.drop 64 } }

/-- Raw bits as bytes, the first bit of a byte its most significant (log entry 117). -/
def bitsToBytes : List Bool → Bytes
  | a :: b :: c :: d :: e :: f :: g :: h :: r =>
    BitVec.ofNat 8 ([a, b, c, d, e, f, g, h].foldl (fun n x => 2 * n + x.toNat) 0) :: bitsToBytes r
  | _ => []

/-- What the conditioner does in a tick; a block in progress is discarded where fewer than two sources are healthy (10 R415). -/
def gatherRaw (e : Entropy) : Entropy :=
  if healthyCount e < 2 then { e with raw := [] } else (List.range 8).foldl (fun e _ => takeRaw e) e

/-- The two copies of the core disagree on a call: its output is discarded, and the third time in a row the service is EXHAUSTED until block
reset (10 R419). -/
def coreMismatch (e : Entropy) : Entropy := { e with mism := e.mism + 1, stuck := e.stuck || decide (e.mism + 1 ≥ 3) }

/-- A source fails a health test of a cause: it is counted, retired, and reported under its RCT or APT checker (10 R413; 12 R464). -/
def failSource (n : Fin 4) (cause : BitVec 8) (s : State) : State :=
  let rct := cause = 1 ∨ cause = 3
  let count := fun (x : Source) =>
    { x with fails := satInc 0xFFFF x.fails, runPeak := if rct then max x.runPeak 201 else x.runPeak,
             aptPeak := if rct then x.aptPeak else max x.aptPeak 947 }
  let s := s.updEn fun e => { e with sources := e.sources.set n (count e.sources[n]) }
  faultReport (sourceId 6 2 n.val (if rct then 9 else 10)) 0 (retireSource n cause s)

/-- The samples of the tick that ends: a source that fails a test on one is retired by its end, and the conditioner takes what the others
give (10 R410 to R415). -/
def sampleTick (units : Nat) (s : State) : State :=
  let s := s.updEn (takeSamples s.wall (s.wall + units))
  let fails := fun (s : State) (n : Fin 4) =>
    if s.en.sources[n].failed = 0 then s else failSource n s.en.sources[n].failed s
  ((List.finRange 4).foldl fails s).updEn gatherRaw

/-- The service state decided at a tick boundary (10 R424, R427, Table 10-1). -/
def nextEntropyState (e : Entropy) : BitVec 2 :=
  let short : BitVec 2 := if e.calls = callLimit then 3 else 2
  if e.stuck then 3
  else if e.reseeded && healthyCount e ≥ 2 then 1
  else if e.state = 0 then
    (if e.inst then (if healthyCount e < 2 then short else 1) else if testingCount e = 0 ∧ healthyCount e < 2 then 3 else 0)
  else if e.state = 1 then (if healthyCount e < 2 then short else 1)
  else if e.state = 2 then (if healthyCount e < 2 then short else 2)
  else 3

/-- The boundary's effect on the entropy service: the state is decided, DEGRADED zeroises the pool, and the
interrupt sources follow (10 R414, R424, R425). -/
def entropyBoundary (s : State) : State :=
  let e := s.en
  let st := nextEntropyState e
  let entersDegr := st = 2 ∧ e.state ≠ 2
  let entersExh := st = 3 ∧ e.state ≠ 3
  let entersRun := st = 1 ∧ e.state ≠ 1
  let s := s.updEn fun e =>
    { e with state := st, callsTick := false, direct := 0, credit := 0, reseeded := false,
             seed := if entersDegr then [] else e.seed,
             degr := if entersDegr then true else if entersRun then false else e.degr,
             low := if entersRun && !e.lowOn then e.fill else e.low,
             lowOn := e.lowOn || entersRun }
  let s := if entersDegr then assertBlk 6 s else s
  let s := if entersExh then assertBlk 7 s else s
  if entersRun then s.updMgmt fun m => { m with intStatus := m.intStatus &&& ~~~ (BitVec.ofNat 64 64) } else s

/-- The tamper response clears the DRBG state, the buffer, the pool, the block in progress and every delay line, and the service returns
to START (10 R428). -/
def clearEntropy (e : Entropy) : Entropy :=
  trackLow { e with state := 0, seed := [], raw := [], fill := 0, credit := 0, inst := false, reseeded := false, calls := 0, mism := 0,
                    key := [], vec := [], sources := e.sources.map fun x => { x with line := [], out := [] } }

/-- The memory of the DRBG and the conditioner is cleared (15 Table 15-19). -/
def clearDrbg (e : Entropy) : Entropy :=
  trackLow { e with seed := [], raw := [], fill := 0, credit := 0, inst := false, reseeded := false, key := [], vec := [] }

/-- TRH_EN_STATUS (10 Table 10-5). -/
def readEnStatus (s : State) : BitVec 64 :=
  let mask := fun (v : BitVec 2) => ((List.range 4).map fun i =>
    if ((s.en.sources.toList)[i]?.map Source.state) = some v then 2 ^ i else 0).sum
  place s.en.state.toNat 30 ||| placeB s.en.degr 29 ||| place (mask 0) 20 ||| place (mask 2) 16 ||| place (mask 1) 12
    ||| place s.en.pool 0

/-- TRH_EN_RESEED (10 Table 10-7). -/
def readEnReseed (s : State) : BitVec 64 := place s.en.reseeds 32 ||| place s.en.calls 0

/-- TRH_EN_BUF (10 Table 10-8). -/
def readEnBuf (s : State) : BitVec 64 := place s.en.low 32 ||| place s.en.fill 0

/-- TRH_EN_EVENTS (10 Table 10-9). -/
def readEnEvents (s : State) : BitVec 64 :=
  place s.en.noentRandom 48 ||| place s.en.noentIv 32 ||| place s.en.waits 16 ||| place s.en.retire 0

/-- TRH_EN_SRCs (10 Table 10-10). -/
def readEnSrc (n : Fin 4) (s : State) : BitVec 64 :=
  let x := s.en.sources[n]
  place x.state.toNat 62 ||| place x.rejoins.toNat 60 ||| place x.cause.toNat 48 ||| place x.runPeak 40
    ||| place x.aptPeak 30 ||| place x.fails 0

/-- Start a retest of a retired source that has rejoined fewer than 3 times (10 R424). -/
def startRetest (n : Fin 4) (s : State) : State :=
  let x := s.en.sources[n]
  if x.state = 2 ∧ x.rejoins ≠ 3 then
    s.updEn fun e => { e with sources := e.sources.set n { x.restart with state := 1, retest := true } }
  else s

/-- A write of TRH_EN_CTRL: a retest of each source whose bit is 1 (10 Table 10-6). -/
def writeEnCtrl (v : BitVec 32) (s : State) : State :=
  (List.finRange 4).foldl (fun s n => if bitAt v n.val then startRetest n s else s) s

/-- A write of TRH_EN_BUF: LOW_CLR sets LOW to FILL (10 Table 10-8). -/
def writeEnBuf (v : BitVec 64) (s : State) : State :=
  if bitAt v 63 then s.updEn fun e => { e with low := e.fill } else s

end Sys2Proof.Machine
end

