-- ==== Sys2Proof/Machine/Operands.lean ====
section
/-! DEFINITION. Descriptors: fields, flags and opcode modifiers (03 Tables 03-8 to 03-10, 04 Table 04-3, 05 Table
05-2). A descriptor is its 64 bytes. -/
namespace Sys2Proof.Machine

/-- A descriptor as fetched: 64 bytes (03 R129). -/
abbrev Desc := Bytes

/-- Opcode (03 Table 03-8). -/
def Desc.op (d : Desc) : Nat := leAt d 0 2
/-- Class field, 16 bits. -/
def Desc.cls (d : Desc) : Nat := leAt d 2 2
/-- Flags. -/
def Desc.flags (d : Desc) : Nat := leAt d 4 4
/-- Tag. -/
def Desc.tag (d : Desc) : Bytes := slice d 8 8
/-- Key handle A, 32 bits. -/
def Desc.keyA (d : Desc) : Nat := leAt d 16 4
/-- Key handle B, 32 bits. -/
def Desc.keyB (d : Desc) : Nat := leAt d 20 4
/-- Source address. -/
def Desc.srcAddr (d : Desc) : Nat := leAt d 24 8
/-- Source length. -/
def Desc.srcLen (d : Desc) : Nat := leAt d 32 4
/-- Destination address. -/
def Desc.dstAddr (d : Desc) : Nat := leAt d 36 8
/-- Destination maximum. -/
def Desc.dstMax (d : Desc) : Nat := leAt d 44 4
/-- Auxiliary address. -/
def Desc.auxAddr (d : Desc) : Nat := leAt d 48 8
/-- Auxiliary length. -/
def Desc.auxLen (d : Desc) : Nat := leAt d 56 4
/-- Chain link. -/
def Desc.link (d : Desc) : Nat := leAt d 60 4
/-- A field of the flags (03 Table 03-9). -/
def Desc.flag (d : Desc) (lo w : Nat) : Nat := (Desc.flags d >>> lo) % 2 ^ w
/-- OPX. -/
def Desc.opx (d : Desc) : Nat := Desc.flag d 16 8
/-- IMMED. -/
def Desc.immed (d : Desc) : Bool := Desc.flag d 11 1 == 1
/-- NOINT. -/
def Desc.noint (d : Desc) : Bool := Desc.flag d 10 1 == 1
/-- AUX: 0 none, 1 host, 2 inline, 3 reserved. -/
def Desc.aux (d : Desc) : Nat := Desc.flag d 8 2
/-- LENP. -/
def Desc.lenp (d : Desc) : Bool := Desc.flag d 7 1 == 1
/-- DST: 0 host, 1 chain, 2 none, 3 host and chain. -/
def Desc.dst (d : Desc) : Nat := Desc.flag d 5 2
/-- MOD: 0 none, 1 KEY_IPAD, 2 KEY_OPAD, 3 reserved. -/
def Desc.modf (d : Desc) : Nat := Desc.flag d 3 2
/-- SRC: 0 host, 1 inline, 2 chain, 3 none, else reserved. -/
def Desc.src (d : Desc) : Nat := Desc.flag d 0 3
/-- Bits of OPX. -/
def Desc.opxF (d : Desc) (lo w : Nat) : Nat := (Desc.opx d >>> lo) % 2 ^ w
/-- A handle field that names no key. -/
def noHandle : Nat := 0xFFFFFFFF
/-- A chain link that ends the chain. -/
def lastLink : Nat := 0xFFFFFFFF

/-- Whether the step feeds its successor through the chain buffer (03 R135). -/
def Desc.feeds (d : Desc) : Bool := Desc.dst d == 1 || Desc.dst d == 3
/-- Whether the step writes to host memory. -/
def Desc.toHost (d : Desc) : Bool := Desc.dst d == 0 || Desc.dst d == 3

/-- Station kind of an opcode: 0 CS, 2 DS, 4 VS, 5 SS, 6 KS, 8 for no opcode of the table (03 Table 03-10). -/
def opKind (op : Nat) : Nat :=
  if 0x0100 ≤ op ∧ op ≤ 0x0110 then 0
  else if 0x0200 ≤ op ∧ op ≤ 0x0207 then 0
  else if 0x0300 ≤ op ∧ op ≤ 0x0303 then 0
  else if (0x0400 ≤ op ∧ op ≤ 0x0404) ∨ (0x0410 ≤ op ∧ op ≤ 0x0415) then 2
  else if 0x0500 ≤ op ∧ op ≤ 0x0504 then 4
  else if 0x0600 ≤ op ∧ op ≤ 0x0607 then 5
  else if (0x0700 ≤ op ∧ op ≤ 0x0702) ∨ op = 0x0710 then 6 else 8

/-- Whether an opcode is a digest. -/
def isDigest (op : Nat) : Bool := opKind op == 2
/-- Whether an opcode is a SHA-2 digest, on which MOD may be set (03 Table 03-9). -/
def isSha2 (op : Nat) : Bool := decide (0x0400 ≤ op ∧ op ≤ 0x0404)
/-- Whether an opcode is SHAKE. -/
def isShake (op : Nat) : Bool := op == 0x0414 || op == 0x0415

/-- Digest step fields (05 Table 05-2). -/
def Desc.resume (d : Desc) : Bool := Desc.opxF d 7 1 == 1
/-- END of a digest step. -/
def Desc.dend (d : Desc) : Nat := Desc.opxF d 5 2
/-- Compare length of a digest step with END = 01. -/
def Desc.cmpLen (d : Desc) : Nat :=
  let t := Desc.opxF d 0 5
  if t = 0 then digestLen (Desc.op d % 256) else 2 * t

/-- CIV of an encrypting cipher step. -/
def Desc.civ (d : Desc) : Bool := Desc.opxF d 0 1 == 1
/-- DUKPT of a cipher step, which stands in bit 7 for the PIN opcodes and bit 2 for the MACs (04 Table 04-3). -/
def Desc.dukpt (d : Desc) : Bool :=
  let op := Desc.op d
  if op = 0x0302 ∨ op = 0x0303 then Desc.opxF d 7 1 == 1
  else if op = 0x010E ∨ op = 0x010F ∨ (0x0204 ≤ op ∧ op ≤ 0x0207) then Desc.opxF d 2 1 == 1 else false
/-- Tag or MAC length of a cipher step (04 Table 04-3). -/
def Desc.tlen (d : Desc) : Nat :=
  let t := Desc.opxF d 3 5
  if t ≠ 0 then t else if Desc.op d < 0x0200 then 16 else 8
/-- Source format code of a PIN step, or format of block 1. -/
def Desc.fmt1 (d : Desc) : Nat := Desc.opxF d 0 3
/-- Destination format code of a PIN step, or format of block 2. -/
def Desc.fmt2 (d : Desc) : Nat := Desc.opxF d 4 3
/-- Length of a PIN block by format (04 Table 04-7). -/
def pinLen (f : Nat) : Nat := if f = 4 then 16 else 8
/-- Whether a format code is one of Table 04-7. -/
def pinFmtOk (f : Nat) : Bool := f == 0 || f == 1 || f == 3 || f == 4

/-- Opcodes whose CIV bit Table 04-3 gives. -/
def hasCiv (op : Nat) : Bool := [0x0102, 0x0104, 0x0106, 0x0107, 0x0108, 0x010A, 0x0202].contains op
/-- GCM opcodes. -/
def isGcm (op : Nat) : Bool := op == 0x0108 || op == 0x0109
/-- CCM opcodes. -/
def isCcm (op : Nat) : Bool := op == 0x010A || op == 0x010B
/-- AEAD decryption opcodes. -/
def isAeadDec (op : Nat) : Bool := op == 0x0109 || op == 0x010B

/-- β of FF1 for a source length (04 R208). -/
def ff1Beta (radix l : Nat) : Nat := ceilDiv (Nat.log2 (radix ^ (l / 2) - 1) + 1) 8
/-- Radix of an FF1 step. -/
def Desc.radix (d : Desc) : Nat := if Desc.opxF d 0 1 = 1 then 36 else 10

/-- Length of the AAD of an AEAD step (04 Table 04-2). -/
def Desc.aadLen (d : Desc) : Nat :=
  let op := Desc.op d
  if isAeadDec op || Desc.civ d then Desc.auxLen d - 12 else Desc.auxLen d
/-- Payload length of an AEAD step, without its tag. -/
def Desc.payLen (d : Desc) : Nat :=
  if isAeadDec (Desc.op d) then Desc.srcLen d - Desc.tlen d else Desc.srcLen d

/-- OPX values of a cipher step (04 Table 04-3). -/
def cipherOpxOk (d : Desc) : Bool :=
  let op := Desc.op d
  let x := Desc.opx d
  let t := Desc.opxF d 3 5
  if isGcm op then
    [0, 4, 8, 12, 13, 14, 15, 16].contains t && x &&& (if op = 0x0108 then 6 else 7) == 0
  else if isCcm op then
    [0, 4, 6, 8, 10, 12, 14, 16].contains t && x &&& (if op = 0x010A then 6 else 7) == 0
  else if op = 0x010E ∨ op = 0x010F then (t == 0 || decide (4 ≤ t ∧ t ≤ 16)) && x &&& 3 == 0
  else if 0x0204 ≤ op ∧ op ≤ 0x0207 then (t == 0 || decide (4 ≤ t ∧ t ≤ 8)) && x &&& 3 != 3
  else if op = 0x0300 ∨ op = 0x0301 then x &&& 0xFE == 0
  else if op = 0x0302 ∨ op = 0x0303 then x &&& 8 == 0 && pinFmtOk (Desc.fmt1 d) && pinFmtOk (Desc.fmt2 d)
  else if hasCiv op then x &&& 0xFE == 0
  else x == 0

/-- Source length of a cipher step (04 Table 04-2). -/
def cipherSrcOk (d : Desc) : Bool :=
  let op := Desc.op d
  let l := Desc.srcLen d
  if [0x0100, 0x0101, 0x0102, 0x0103, 0x0110].contains op then l ≥ 16 && l % 16 == 0
  else if [0x0104, 0x0105, 0x0106, 0x0107].contains op then decide (l ≥ 1)
  else if op = 0x0108 then true
  else if op = 0x010A then decide (l ≤ 16777215)
  else if isAeadDec op then decide (Desc.tlen d ≤ l ∧ l ≤ 65536 + Desc.tlen d)
  else if op = 0x010C ∨ op = 0x010D then decide (16 ≤ l ∧ l ≤ 16777216)
  else if op = 0x010E ∨ op = 0x010F then true
  else if 0x0200 ≤ op ∧ op ≤ 0x0203 then l ≥ 8 && l % 8 == 0
  else if 0x0204 ≤ op ∧ op ≤ 0x0207 then Desc.opxF d 0 2 != 0 || decide (l ≥ 1)
  else if op = 0x0300 ∨ op = 0x0301 then decide (6 ≤ l ∧ l ≤ 32)
  else if op = 0x0302 then l == pinLen (Desc.fmt1 d)
  else l == pinLen (Desc.fmt1 d) + pinLen (Desc.fmt2 d)

/-- Auxiliary length of a cipher step (04 Table 04-2). -/
def cipherAuxOk (d : Desc) : Bool :=
  let op := Desc.op d
  let a := Desc.auxLen d
  let ksn := if Desc.dukpt d then 12 else 0
  if [0x0102, 0x0104, 0x0106].contains op then a == 16 && (Desc.civ d || Desc.aux d == 1)
  else if [0x0103, 0x0105, 0x0110, 0x010C, 0x010D].contains op then a == 16
  else if op = 0x0107 then a == (if Desc.civ d then 16 else 0)
  else if isAeadDec op then decide (12 ≤ a ∧ a ≤ 12 + 16384)
  else if op = 0x0108 ∨ op = 0x010A then
    (if Desc.civ d then decide (12 ≤ a ∧ a ≤ 12 + 16384) else decide (a ≤ 16384))
  else if op = 0x010E then a == ksn
  else if op = 0x010F then a == ksn + Desc.tlen d
  else if op = 0x0202 then a == (if Desc.civ d then 8 else 0)
  else if op = 0x0203 then a == 8
  else if op = 0x0204 ∨ op = 0x0206 then a == ksn
  else if op = 0x0205 ∨ op = 0x0207 then a == ksn + Desc.tlen d
  else if op = 0x0300 ∨ op = 0x0301 then decide (a + ff1Beta (Desc.radix d) (Desc.srcLen d) ≤ 15)
  else if op = 0x0302 ∨ op = 0x0303 then a == 12 + ksn
  else a == 0

/-- Whether a cipher step runs in the encrypt direction of Table 04-4; OFB and CTR with CIV = 1 run in the decrypt
direction (04 R195). -/
def cipherEncrypts (d : Desc) : Bool :=
  let op := Desc.op d
  if op = 0x0106 ∨ op = 0x0107 then !Desc.civ d
  else [0x0100, 0x0102, 0x0104, 0x0108, 0x010A, 0x010C, 0x010E, 0x0200, 0x0202, 0x0204, 0x0206, 0x0300].contains op

/-- Check 2 of a cipher step (04 R184, R197, R215); `callerIv` is the class step's mark. -/
def cipherShape (d : Desc) (callerIv : Bool) : Bool :=
  cipherOpxOk d && cipherSrcOk d && cipherAuxOk d &&
    !(hasCiv (Desc.op d) && Desc.civ d && cipherEncrypts d && !callerIv) &&
    !(Desc.op d == 0x0302 && Desc.fmt2 d == 1 && Desc.fmt1 d != 1)

/-- Key block length under MOD, 0 without (05 R234). -/
def Desc.keyBlock (d : Desc) : Nat := if Desc.modf d = 0 then 0 else digestBlock (Desc.op d % 256)

/-- Check 2 of a digest step (05 R237 to R240). -/
def digestShape (d : Desc) : Bool :=
  let op := Desc.op d
  let f := op % 256
  let e := Desc.dend d
  let t := Desc.opxF d 0 5
  let blob := if Desc.resume d then blobLen f else 0
  e != 3 && !(e == 1 && isShake op) &&
    (if e = 1 then t == 0 || decide (2 ≤ t ∧ 2 * t ≤ digestLen f) else t == 0) &&
    Desc.auxLen d == blob + (if e = 1 then Desc.cmpLen d else 0) &&
    !(Desc.modf d != 0 && Desc.resume d) && !(e == 2 && Desc.lenp d) &&
    !(e == 2 && (Desc.srcLen d + Desc.keyBlock d) % digestBlock f != 0) &&
    (!isShake op || decide (1 ≤ Desc.dstMax d ∧ Desc.dstMax d ≤ 65536))

/-- Output length of a digest step (05 Table 05-3). -/
def digestOut (d : Desc) : Nat :=
  let f := Desc.op d % 256
  if Desc.dend d = 1 then 0 else if Desc.dend d = 2 then blobLen f
  else if isShake (Desc.op d) then Desc.dstMax d else digestLen f

/-- Output length of a cipher step; for `AES_CBC_DEC_UNPAD` its bound (03 Table 03-10). -/
def cipherOut (d : Desc) : Nat :=
  let op := Desc.op d
  let l := Desc.srcLen d
  if op = 0x0108 ∨ op = 0x010A then l + Desc.tlen d
  else if isAeadDec op then l - Desc.tlen d
  else if op = 0x010E ∨ op = 0x0204 ∨ op = 0x0206 then Desc.tlen d
  else if op = 0x010F ∨ op = 0x0205 ∨ op = 0x0207 ∨ op = 0x0303 then 0
  else if op = 0x0302 then pinLen (Desc.fmt2 d)
  else l

/-- Slots and ticks of a step: the slots it takes in all, and the least number of ticks (02 Table 02-5, 04 R223,
R636, 05 R248). A serial step takes one slot in each tick of its span. -/
def cipherCost (d : Desc) : Nat × Nat :=
  let op := Desc.op d
  let l := Desc.srcLen d
  let dk := if Desc.dukpt d then 1 else 0
  let par := fun b => (ceilDiv (b + 24) 40, 1)
  let ser := fun b => (ceilDiv b 20 + dk, ceilDiv b 20 + dk)
  let b := ceilDiv l 16
  if [0x0300, 0x0301, 0x0302, 0x0303].contains op then (1 + dk, 1 + dk)
  else if op < 0x0200 then
    if isCcm op then
      let x := 2 * Desc.payLen d + Desc.aadLen d + 32
      if x ≤ 64 then (1, 1) else ser (ceilDiv x 16)
    else if isGcm op then
      let x := Desc.payLen d + Desc.aadLen d
      if x ≤ 64 then (1, 1) else par (ceilDiv x 16)
    else if l ≤ 64 then (1 + dk, 1 + dk)
    else if [0x0102, 0x0104, 0x0106, 0x010E, 0x010F].contains op then ser b
    else par b
  else
    let bt := ceilDiv l 8
    if op = 0x0200 ∨ op = 0x0201 ∨ op = 0x0203 then (ceilDiv (bt + 56) 40, 1)
    else (ceilDiv (bt + 1) 5 + dk, ceilDiv (bt + 1) 5 + dk)

/-- Blocks a digest step runs, resuming at count `c` (05 R248). -/
def digestBlocks (d : Desc) (c l : Nat) : Nat :=
  let f := Desc.op d % 256
  let blk := digestBlock f
  if Desc.dend d = 2 then (Desc.keyBlock d + l) / blk
  else ceilDiv (c + Desc.keyBlock d + l + padOverhead f) blk - c / blk +
    (if isShake (Desc.op d) then ceilDiv (Desc.dstMax d) blk - 1 else 0)

/-- Slots and ticks of a digest step over `l` source bytes. -/
def digestCost (d : Desc) (c l : Nat) : Nat × Nat :=
  (ceilDiv (blockCycles (Desc.op d % 256) * digestBlocks d c l) 40 +
    (if Desc.resume d then 1 else 0) + (if Desc.dend d = 2 then 1 else 0), 1)

end Sys2Proof.Machine
end

