-- ==== Sys2Proof/Machine/CipherOps.lean ====
section
/-! DEFINITION. What the cipher and digest steps compute (04, 05). -/
namespace Sys2Proof.Machine

/-- What a finished step leaves: its status, its output, its completion auxiliary bytes, and the value written to a
receiving auxiliary area in host memory. -/
structure StepResult where
  status : Nat
  out : Bytes
  aux : Bytes
  ivOut : Bytes
deriving DecidableEq, Repr

/-- A step that completed with an output. -/
def StepResult.done (out : Bytes) : StepResult := { status := 0, out := out, aux := fillBytes 8 0, ivOut := [] }
/-- A step that failed. -/
def StepResult.fail (status : Nat) : StepResult := { status := status, out := [], aux := fillBytes 8 0, ivOut := [] }
/-- A compare: `DONE` with the pair (1,0), or `DONE_NEGATIVE` with (0,1) (04 R177, R182, R220). -/
def StepResult.compare (eq : Bool) : StepResult :=
  { status := if eq then 0 else 1, out := [], ivOut := [],
    aux := (if eq then [1, 0] else [0, 1]) ++ fillBytes 6 0 }

/-- What a step works on. -/
structure StepInput where
  desc : Desc
  src : Bytes
  aux : Bytes
  keyA : Bytes
  keyB : Bytes
  tenant : Nat
  /-- fixed field F (04 R187) -/
  fixed : Bytes
  /-- C drawn for the step -/
  counter : Nat
  /-- bytes drawn for the step -/
  drawn : Bytes
  /-- derived-key register of the step (04 R175) -/
  derived : Bytes
deriving DecidableEq, Repr

/-- F ‖ C, 12 bytes, big-endian (04 R186, R187). -/
def StepInput.fc (i : StepInput) : Bytes := i.fixed ++ beBytes 8 i.counter

/-- The nibbles of a byte string, high nibble first. -/
def nibbles (b : Bytes) : List Nat := b.flatMap fun x => [x.toNat / 16, x.toNat % 16]
/-- A byte string of nibbles. -/
def ofNibbles : List Nat → Bytes
  | a :: b :: r => BitVec.ofNat 8 (a * 16 + b) :: ofNibbles r
  | [a] => [BitVec.ofNat 8 (a * 16)]
  | [] => []

/-- Digits of a PAN field, none where it breaks Table 04-8 (04 R212, R214). -/
def panDigits (f : Bytes) : Option (List Nat) :=
  let n := byteAt f 0
  let d := nibbles (f.drop 2)
  if 12 ≤ n ∧ n ≤ 19 ∧ byteAt f 1 = 0 ∧ (d.take n).all (· < 10) ∧ (d.drop n).all (· == 15) then some (d.take n)
  else none

/-- PAN field of a format (04 Table 04-7): formats 0 and 3 take the 12 digits before the check digit, after zeros (log entry 74),
format 4 the length and all digits. -/
def panField (fmt : Nat) (d : List Nat) : Bytes :=
  if fmt = 4 then fitTo 16 (ofNibbles (((d.length - 12) :: d) ++ List.replicate (32 - d.length) 0))
  else if fmt = 1 then fillBytes 8 0
  else
    let x := (d.take (d.length - 1)).drop (d.length - 13)
    ofNibbles (List.replicate (16 - x.length) 0 ++ x)

/-- Decipher a PIN block and recover its PIN field (04 Table 04-7, R213). -/
def pinOpen (fmt : Nat) (k pan blk : Bytes) : Bytes :=
  if fmt = 4 then aesBlock false k (xorBytes (aesBlock false k blk) pan)
  else xorBytes (tdeaBlock false k blk) pan

/-- PIN digits of a PIN field, none where a check of Table 04-8 fails (04 R214). -/
def pinDigits (fmt : Nat) (f : Bytes) : Option (List Nat) :=
  let x := nibbles (f.take 8)
  let n := x.getD 1 0
  let digits := (x.drop 2).take n
  let fill := x.drop (2 + n)
  let fillOk := if fmt = 0 then fill.all (· == 15) else if fmt = 3 then fill.all (10 ≤ ·)
    else if fmt = 4 then fill.all (· == 10) else true
  if x.getD 0 0 = fmt ∧ 4 ≤ n ∧ n ≤ 12 ∧ digits.all (· < 10) ∧ fillOk then some digits else none

/-- Build a PIN field; random nibbles and bytes come from the 8 bytes drawn. A fill nibble of format 3 is 10 + r mod 6 for a drawn
nibble r (04 Table 04-7, R216; log entry 90). -/
def pinField (fmt : Nat) (digits : List Nat) (rnd : Bytes) : Bytes :=
  let n := digits.length
  let r := nibbles rnd
  let fill := (List.range (14 - n)).map fun i =>
    if fmt = 0 then 15 else if fmt = 4 then 10 else if fmt = 3 then 10 + r.getD i 0 % 6 else r.getD i 0
  ofNibbles ([fmt, n] ++ digits ++ fill) ++ (if fmt = 4 then fitTo 8 rnd else [])

/-- Encipher a PIN field (04 Table 04-7). -/
def pinSeal (fmt : Nat) (k pan f : Bytes) : Bytes :=
  if fmt = 4 then aesBlock true k (xorBytes (aesBlock true k f) pan) else tdeaBlock true k (xorBytes f pan)

/-- Whether a KSN counter obeys its rule (04 Table 04-10). -/
def ksnOk (aes : Bool) (ksn : Bytes) : Bool :=
  if aes then
    let c := slice ksn 8 4
    !allZero c && onesIn c ≤ 16
  else
    let c := ofBe (slice ksn 9 3) % 2097152
    c != 0 && onesIn (beBytes 3 c) ≤ 10

/-- Working key of a DUKPT step (04 R221, Table 04-10). The first two bytes of a TDEA-family KSN field are not tested
(DESIGN CHOICE, log entry 104). -/
def workingKey (d : Desc) (aes : Bool) (bdk ksn : Bytes) : Bytes :=
  let op := Desc.op d
  let pin := op = 0x0302 ∨ op = 0x0303
  if aes then
    fitTo 16 (dukptAes bdk ksn (if pin then 0x1000 else if op = 0x010E then 0x2000 else 0x2001))
  else
    let var := if pin then 0xFF else if op = 0x0205 ∨ op = 0x0207 then 0xFF00 else 0xFF000000
    fitTo 16 (dukptTdea bdk (ksn.drop 2) (beBytes 8 var))

/-- Whether the DUKPT family of a step is AES: format 4 and CMAC (04 R221). -/
def dukptAesFamily (d : Desc) : Bool :=
  Desc.op d == 0x010E || Desc.op d == 0x010F || ((Desc.op d == 0x0302 || Desc.op d == 0x0303) && Desc.fmt1 d == 4)

/-- KSN field of a DUKPT step (04 Table 04-2, Table 04-10). -/
def ksnField (d : Desc) (aux : Bytes) : Bytes := if Desc.op d = 0x0302 ∨ Desc.op d = 0x0303 then aux.drop 12 else aux.take 12

/-- Whether the KSN of a DUKPT step breaks its counter rule: the step ends with its first piece (04 R222). -/
def ksnBroken (d : Desc) (aux : Bytes) : Bool := Desc.dukpt d && !ksnOk (dukptAesFamily d) (ksnField d aux)

/-- What the derived-key register of a cipher step holds from its first piece on (04 R175, R221, R224). -/
def derivedKey (d : Desc) (bdk aux : Bytes) : Bytes :=
  if Desc.dukpt d && !ksnBroken d aux then workingKey d (dukptAesFamily d) bdk (ksnField d aux) else []

/-- Padding length that `AES_CBC_DEC_UNPAD` removes: the value of the last byte, 1 to 16; where it is not, the spec
states no length and it is a free value (log entry 12). -/
def unpadLen (p : Bytes) : Nat :=
  let n := (p.getLastD 0).toNat
  if 1 ≤ n ∧ n ≤ 16 then n else Config.freeUnpad p % 17

/-- A PIN translation or comparison (04 R213, R214, R217). -/
def runPin (i : StepInput) (keyA : Bytes) : StepResult :=
  let d := i.desc
  let f1 := Desc.fmt1 d
  let f2 := Desc.fmt2 d
  match panDigits (i.aux.take 12) with
  | none => .fail 0x1B
  | some pan =>
    let b1 := slice i.src 0 (pinLen f1)
    match pinDigits f1 (pinOpen f1 keyA (panField f1 pan) b1) with
    | none => .fail 0x1B
    | some pin =>
      if Desc.op d = 0x0302 then
        .done (pinSeal f2 i.keyB (panField f2 pan) (pinField f2 pin i.drawn))
      else
        match pinDigits f2 (pinOpen f2 i.keyB (panField f2 pan) (slice i.src (pinLen f1) (pinLen f2))) with
        | none => .fail 0x1B
        | some pin2 => .compare (pin == pin2)

/-- An FF1 step (04 R207 to R210), with β of R208 as its byte count b: a byte that is no symbol of the radix ends it with
`INPUT_RANGE`. -/
def runFf1 (i : StepInput) : StepResult :=
  let radix := Desc.radix i.desc
  let val := fun (b : Byte) =>
    let n := b.toNat
    if 48 ≤ n ∧ n ≤ 57 then some (n - 48) else if radix = 36 ∧ 65 ≤ n ∧ n ≤ 90 then some (n - 55) else none
  match i.src.mapM val with
  | none => .fail 0x17
  | some x =>
    let n := x.length
    let enc := Desc.op i.desc == 0x0300
    let y := ff1 enc i.keyA radix (ff1Beta radix n) i.aux x
    let sym := fun n => BitVec.ofNat 8 (if n % radix < 10 then n % radix + 48 else n % radix + 55)
    .done (fitTo i.src.length (y.map sym))

/-- A MAC step with the key it runs under (04 R218 to R220). -/
def runMac (i : StepInput) (k : Bytes) : StepResult :=
  let d := i.desc
  let op := Desc.op d
  let pad := Desc.opxF d 0 2
  let full := if op < 0x0200 then aesCmac k i.src
    else if op < 0x0206 then mac1 k pad i.src else mac3 k pad i.src
  let m := full.take (Desc.tlen d)
  if op % 2 = 0 then .done m
  else .compare (m == i.aux.drop (if Desc.dukpt d then 12 else 0))

/-- A cipher step whole (04). -/
def runCipher (i : StepInput) : StepResult :=
  let d := i.desc
  let op := Desc.op d
  let enc := aesBlock true i.keyA
  let dec := aesBlock false i.keyA
  let blocks := chunks 16 i.src
  let tb := chunks 8 i.src
  let iv := if Desc.civ d then i.aux.take 16 else i.drawn.take 16
  let withIv := fun (out : Bytes) => { StepResult.done out with ivOut := if Desc.civ d then [] else iv }
  let cAux := if Desc.civ d then fillBytes 8 0 else beBytes 8 i.counter
  if Desc.dukpt d then
    if ksnBroken d i.aux then .fail 0x17
    else if op = 0x0302 ∨ op = 0x0303 then runPin i i.derived else runMac i i.derived
  else if op = 0x0100 then .done (ecb enc blocks)
  else if op = 0x0101 then .done (ecb dec blocks)
  else if op = 0x0102 then withIv (cbcEnc enc iv blocks)
  else if op = 0x0103 then .done (cbcDec dec i.aux blocks)
  else if op = 0x0104 then withIv (cfbEnc enc iv blocks)
  else if op = 0x0105 then .done (cfbDec enc i.aux blocks)
  else if op = 0x0106 then withIv (ofb enc iv blocks)
  else if op = 0x0107 then
    let c0 := if Desc.civ d then i.aux.take 16 else i.fc ++ fillBytes 4 0
    { StepResult.done (ctrMode enc c0 blocks) with aux := cAux }
  else if op = 0x0108 then
    let n := if Desc.civ d then i.aux.take 12 else i.fc
    let aad := if Desc.civ d then i.aux.drop 12 else i.aux
    { StepResult.done (gcmSeal i.keyA n aad i.src (Desc.tlen d)) with aux := cAux }
  else if op = 0x010A then
    let n := if Desc.civ d then i.aux.take 12 else i.fc
    let aad := if Desc.civ d then i.aux.drop 12 else i.aux
    { StepResult.done (ccmSeal i.keyA n aad i.src (Desc.tlen d)) with aux := cAux }
  else if op = 0x0109 ∨ op = 0x010B then
    let n := i.src.length - Desc.tlen d
    let (p, good) := if op = 0x0109 then gcmOpen i.keyA (i.aux.take 12) (i.aux.drop 12) (i.src.take n) (i.src.drop n)
      else ccmOpen i.keyA (i.aux.take 12) (i.aux.drop 12) (i.src.take n) (i.src.drop n)
    if good then .done p else .fail 0x1A
  else if op = 0x010C ∨ op = 0x010D then
    .done (fitTo i.src.length (xts (op == 0x010C) i.keyA i.aux i.src))
  else if op = 0x0110 then
    let p := cbcDec dec i.aux blocks
    .done (p.take (p.length - unpadLen p))
  else if op = 0x0200 then .done (ecb (tdeaBlock true i.keyA) tb)
  else if op = 0x0201 then .done (ecb (tdeaBlock false i.keyA) tb)
  else if op = 0x0202 then
    let iv8 := if Desc.civ d then i.aux.take 8 else i.drawn.take 8
    { StepResult.done (cbcEnc (tdeaBlock true i.keyA) iv8 tb) with aux := if Desc.civ d then fillBytes 8 0 else iv8 }
  else if op = 0x0203 then .done (cbcDec (tdeaBlock false i.keyA) i.aux tb)
  else if op = 0x0300 ∨ op = 0x0301 then runFf1 i
  else if op = 0x0302 ∨ op = 0x0303 then runPin i i.keyA
  else runMac i i.keyA

/-! ### Digests -/

/-- A sealed blob opened under the tenant's digest state key: its count, its KEYED flag and its state; none where a
check of R246 fails. -/
def openBlob (f tenant : Nat) (key blob : Bytes) : Option (Nat × Bool × Bytes) :=
  let n := stateLen f
  let count := leAt blob 8 8
  let (st, good) := gcmOpen key (slice blob 16 12) (blob.take 32) (slice blob 32 n) (slice blob (32 + n) 16)
  if slice blob 0 4 = [0x54, 0x52, 0x48, 0x44] ∧ byteAt blob 4 = 1 ∧ leAt blob 28 4 = 0 ∧ byteAt blob 5 = f ∧
      byteAt blob 6 = tenant ∧ count % digestBlock f = 0 ∧ good then
    some (count, byteAt blob 7 % 2 == 1, st)
  else none

/-- What a resume step finds in its blob (05 R246). -/
def opened (d : Desc) (tenant : Nat) (key aux : Bytes) : Option (Nat × Bool × Bytes) :=
  let f := Desc.op d % 256
  if Desc.resume d then openBlob f tenant key (aux.take (blobLen f)) else some (0, false, [])

/-- Whether a resume step ends with its first piece: its blob does not open, or its m exceeds the largest (05 R236, R246). -/
def resumeBroken (d : Desc) (tenant : Nat) (key aux src : Bytes) : Bool :=
  Desc.resume d && (match opened d tenant key aux with
    | none => true
    | some x => decide (x.1 + src.length ≥ 2 ^ 61))

/-- A sealed blob (05 R243, R244, Table 05-4). -/
def sealBlob (f tenant count : Nat) (keyed : Bool) (key iv st : Bytes) : Bytes :=
  let head := [0x54, 0x52, 0x48, 0x44, 1] ++ leBytes 1 f ++ leBytes 1 tenant ++ [if keyed then 1 else 0] ++
    leBytes 8 count ++ fitTo 12 iv ++ fillBytes 4 0
  head ++ gcmSeal key (fitTo 12 iv) head (fitTo (stateLen f) st) 16

/-- A digest step whole (05 R234 to R249). `keyB` carries the tenant's digest state key, `keyA` the key of the pad
modifier. -/
def runDigest (i : StepInput) : StepResult :=
  let d := i.desc
  let f := Desc.op d % 256
  let e := Desc.dend d
  let blob := if Desc.resume d then blobLen f else 0
  match opened d i.tenant i.keyB i.aux with
  | none => .fail 0x17
  | some (count, keyed, st) =>
    let pre := if Desc.modf d = 0 then [] else keyPad f (Desc.modf d) i.keyA
    let msg := pre ++ i.src
    let m := count + msg.length
    let keyed := keyed || Desc.modf d != 0
    if m ≥ 2 ^ 61 then .fail 0x17
    else if e = 2 then
      let st' := digestFeed f (if Desc.resume d then st else digestInit f) msg
      { StepResult.done (sealBlob f i.tenant m keyed i.keyB i.drawn st') with aux := leBytes 8 m }
    else
      let len := if isShake (Desc.op d) then Desc.dstMax d else digestLen f
      let h := fitTo len (digestEnd f len (if Desc.resume d then st else digestInit f) count msg)
      if e = 1 then .compare (h.take (Desc.cmpLen d) == i.aux.drop blob) else .done h

end Sys2Proof.Machine
end

