-- ==== Sys2Proof/Machine/Curves.lean ====
section
/-! DEFINITION. Arithmetic modulo a prime, short Weierstrass curves and the built-in ones, and Ed25519 (06 R284, Table 06-7; 07 R307).
PRESUMED: the spec names the curves and the standards, and their parameters and algorithms are taken from them (log entry 11). -/
namespace Sys2Proof.Machine

/-- b to the power e modulo m, by squaring over the bits of e. -/
def powMod (m b e : Nat) : Nat :=
  ((List.range (Nat.log2 e + 1)).reverse.foldl
    (fun acc i => if e.testBit i then acc * acc % m * b % m else acc * acc % m) (1 % m))

/-- Inverse modulo a prime. -/
def invMod (p x : Nat) : Nat := powMod p (x % p) (p - 2)

/-- Difference modulo p. -/
def subMod (p x y : Nat) : Nat := (x % p + p - y % p) % p

/-- A short Weierstrass curve with its base point and order. -/
structure Curve where
  p : Nat
  a : Nat
  b : Nat
  gx : Nat
  gy : Nat
  n : Nat
deriving DecidableEq, Repr

/-- A point, none for the point at infinity. -/
abbrev Point := Option (Nat × Nat)

/-- Sum of two points. -/
def Curve.add (c : Curve) : Point → Point → Point
  | none, q => q
  | q, none => q
  | some (x1, y1), some (x2, y2) =>
    if x1 = x2 ∧ (y1 + y2) % c.p = 0 then none
    else
      let l := if x1 = x2 then (3 * x1 * x1 + c.a) * invMod c.p (2 * y1) % c.p
        else subMod c.p y2 y1 * invMod c.p (subMod c.p x2 x1) % c.p
      let x3 := subMod c.p (l * l) (x1 + x2)
      some (x3, subMod c.p (l * subMod c.p x1 x3) y1)

/-- A multiple of a point. -/
def Curve.mul (c : Curve) (k : Nat) (q : Point) : Point :=
  (List.range (Nat.log2 k + 1)).reverse.foldl
    (fun acc i => let d := c.add acc acc; if k.testBit i then c.add d q else d) none

/-- A multiple of a point as a unit of SS computes it: from a projective form of the point with a random Z, and by the scalar raised by a
random multiple of the order (07 R306). -/
def Curve.mulBlind (c : Curve) (lam z k : Nat) (q : Point) : Point :=
  let z := 1 + z % (c.p - 1)
  let affine := fun (x : Nat × Nat × Nat) => (x.1 * invMod c.p x.2.2 % c.p, x.2.1 * invMod c.p x.2.2 % c.p)
  c.mul (k + lam * c.n) (q.map fun p => affine (p.1 * z % c.p, p.2 * z % c.p, z))

/-- The base point. -/
def Curve.g (c : Curve) : Point := some (c.gx, c.gy)

/-- Whether a pair of coordinates below p is on the curve. -/
def Curve.on (c : Curve) (x y : Nat) : Bool :=
  decide (x < c.p) && decide (y < c.p) && y * y % c.p == (x * x * x + c.a * x + c.b) % c.p

/-- Bit length of a number. -/
def bitLen (n : Nat) : Nat := if n = 0 then 0 else Nat.log2 n + 1

/-- Bytes of the field. -/
def Curve.fb (c : Curve) : Nat := ceilDiv (bitLen c.p) 8
/-- Bytes of the order. -/
def Curve.nb (c : Curve) : Nat := ceilDiv (bitLen c.n) 8

/-- An uncompressed point as `04` ‖ x ‖ y. -/
def Curve.enc (c : Curve) (q : Point) : Bytes :=
  match q with
  | none => fillBytes (1 + 2 * c.fb) 0
  | some (x, y) => [4] ++ beBytes c.fb x ++ beBytes c.fb y

/-- The point that `04` ‖ x ‖ y spells. -/
def Curve.dec (c : Curve) (b : Bytes) : Nat × Nat := (ofBe (slice b 1 c.fb), ofBe (slice b (1 + c.fb) c.fb))

/-! ### The built-in curves (06 Table 06-7) -/

/-- P-256. -/
def curveP256 : Curve :=
  { p := 0xFFFFFFFF00000001000000000000000000000000FFFFFFFFFFFFFFFFFFFFFFFF,
    a := 0xFFFFFFFF00000001000000000000000000000000FFFFFFFFFFFFFFFFFFFFFFFC,
    b := 0x5AC635D8AA3A93E7B3EBBD55769886BC651D06B0CC53B0F63BCE3C3E27D2604B,
    gx := 0x6B17D1F2E12C4247F8BCE6E563A440F277037D812DEB33A0F4A13945D898C296,
    gy := 0x4FE342E2FE1A7F9B8EE7EB4A7C0F9E162BCE33576B315ECECBB6406837BF51F5,
    n := 0xFFFFFFFF00000000FFFFFFFFFFFFFFFFBCE6FAADA7179E84F3B9CAC2FC632551 }

/-- P-384. -/
def curveP384 : Curve :=
  { p := 0xFFFFFFFFFFFFFFFFFFFFFFFFFFFFFFFFFFFFFFFFFFFFFFFFFFFFFFFFFFFFFFFEFFFFFFFF0000000000000000FFFFFFFF,
    a := 0xFFFFFFFFFFFFFFFFFFFFFFFFFFFFFFFFFFFFFFFFFFFFFFFFFFFFFFFFFFFFFFFEFFFFFFFF0000000000000000FFFFFFFC,
    b := 0xB3312FA7E23EE7E4988E056BE3F82D19181D9C6EFE8141120314088F5013875AC656398D8A2ED19D2A85C8EDD3EC2AEF,
    gx := 0xAA87CA22BE8B05378EB1C71EF320AD746E1D3B628BA79B9859F741E082542A385502F25DBF55296C3A545E3872760AB7,
    gy := 0x3617DE4A96262C6F5D9E98BF9292DC29F8F41DBD289A147CE9DA3113B5F0B8C00A60B1CE1D7E819D7A431D7C90EA0E5F,
    n := 0xFFFFFFFFFFFFFFFFFFFFFFFFFFFFFFFFFFFFFFFFFFFFFFFFC7634D81F4372DDF581A0DB248B0A77AECEC196ACCC52973 }

/-- P-521. -/
def curveP521 : Curve :=
  { p := 0x1FFFFFFFFFFFFFFFFFFFFFFFFFFFFFFFFFFFFFFFFFFFFFFFFFFFFFFFFFFFFFFFFFFFFFFFFFFFFFFFFFFFFFFFFFFFFFFFFFFFFFFFFFFFFFFFFFFFFFFFFFFFFFFFFFF,
    a := 0x1FFFFFFFFFFFFFFFFFFFFFFFFFFFFFFFFFFFFFFFFFFFFFFFFFFFFFFFFFFFFFFFFFFFFFFFFFFFFFFFFFFFFFFFFFFFFFFFFFFFFFFFFFFFFFFFFFFFFFFFFFFFFFFFFFC,
    b := 0x51953EB9618E1C9A1F929A21A0B68540EEA2DA725B99B315F3B8B489918EF109E156193951EC7E937B1652C0BD3BB1BF073573DF883D2C34F1EF451FD46B503F00,
    gx := 0xC6858E06B70404E9CD9E3ECB662395B4429C648139053FB521F828AF606B4D3DBAA14B5E77EFE75928FE1DC127A2FFA8DE3348B3C1856A429BF97E7E31C2E5BD66,
    gy := 0x11839296A789A3BC0045C8A5FB42C7D1BD998F54449579B446817AFBD17273E662C97EE72995EF42640C550B9013FAD0761353C7086A272C24088BE94769FD16650,
    n := 0x1FFFFFFFFFFFFFFFFFFFFFFFFFFFFFFFFFFFFFFFFFFFFFFFFFFFFFFFFFFFFFFFFFA51868783BF2F966B7FCC0148F709A5D03BB5C9B8899C47AEBB6FB71E91386409 }

/-- secp256k1. -/
def curveK256 : Curve :=
  { p := 0xFFFFFFFFFFFFFFFFFFFFFFFFFFFFFFFFFFFFFFFFFFFFFFFFFFFFFFFEFFFFFC2F,
    a := 0x0,
    b := 0x7,
    gx := 0x79BE667EF9DCBBAC55A06295CE870B07029BFCDB2DCE28D959F2815B16F81798,
    gy := 0x483ADA7726A3C4655DA4FBFC0E1108A8FD17B448A68554199C47D08FFB10D4B8,
    n := 0xFFFFFFFFFFFFFFFFFFFFFFFFFFFFFFFEBAAEDCE6AF48A03BBFD25E8CD0364141 }

/-- brainpoolP256r1. -/
def curveB256 : Curve :=
  { p := 0xA9FB57DBA1EEA9BC3E660A909D838D726E3BF623D52620282013481D1F6E5377,
    a := 0x7D5A0975FC2C3057EEF67530417AFFE7FB8055C126DC5C6CE94A4B44F330B5D9,
    b := 0x26DC5C6CE94A4B44F330B5D9BBD77CBF958416295CF7E1CE6BCCDC18FF8C07B6,
    gx := 0x8BD2AEB9CB7E57CB2C4B482FFC81B7AFB9DE27E1E3BD23C23A4453BD9ACE3262,
    gy := 0x547EF835C3DAC4FD97F8461A14611DC9C27745132DED8E545C1D54C72F046997,
    n := 0xA9FB57DBA1EEA9BC3E660A909D838D718C397AA3B561A6F7901E0E82974856A7 }

/-- brainpoolP384r1. -/
def curveB384 : Curve :=
  { p := 0x8CB91E82A3386D280F5D6F7E50E641DF152F7109ED5456B412B1DA197FB71123ACD3A729901D1A71874700133107EC53,
    a := 0x7BC382C63D8C150C3C72080ACE05AFA0C2BEA28E4FB22787139165EFBA91F90F8AA5814A503AD4EB04A8C7DD22CE2826,
    b := 0x4A8C7DD22CE28268B39B55416F0447C2FB77DE107DCD2A62E880EA53EEB62D57CB4390295DBC9943AB78696FA504C11,
    gx := 0x1D1C64F068CF45FFA2A63A81B7C13F6B8847A3E77EF14FE3DB7FCAFE0CBD10E8E826E03436D646AAEF87B2E247D4AF1E,
    gy := 0x8ABE1D7520F9C2A45CB1EB8E95CFD55262B70B29FEEC5864E19C054FF99129280E4646217791811142820341263C5315,
    n := 0x8CB91E82A3386D280F5D6F7E50E641DF152F7109ED5456B31F166E6CAC0425A7CF3AB6AF6B7FC3103B883202E9046565 }

/-- brainpoolP512r1. -/
def curveB512 : Curve :=
  { p := 0xAADD9DB8DBE9C48B3FD4E6AE33C9FC07CB308DB3B3C9D20ED6639CCA703308717D4D9B009BC66842AECDA12AE6A380E62881FF2F2D82C68528AA6056583A48F3,
    a := 0x7830A3318B603B89E2327145AC234CC594CBDD8D3DF91610A83441CAEA9863BC2DED5D5AA8253AA10A2EF1C98B9AC8B57F1117A72BF2C7B9E7C1AC4D77FC94CA,
    b := 0x3DF91610A83441CAEA9863BC2DED5D5AA8253AA10A2EF1C98B9AC8B57F1117A72BF2C7B9E7C1AC4D77FC94CADC083E67984050B75EBAE5DD2809BD638016F723,
    gx := 0x81AEE4BDD82ED9645A21322E9C4C6A9385ED9F70B5D916C1B43B62EEF4D0098EFF3B1F78E2D0D48D50D1687B93B97D5F7C6D5047406A5E688B352209BCB9F822,
    gy := 0x7DDE385D566332ECC0EABFA9CF7822FDF209F70024A57B1AA000C55B881F8111B2DCDE494A5F485E5BCA4BD88A2763AED1CA2B2FA8F0540678CD1E0F3AD80892,
    n := 0xAADD9DB8DBE9C48B3FD4E6AE33C9FC07CB308DB3B3C9D20ED6639CCA70330870553E5C414CA92619418661197FAC10471DB1D381085DDADDB58796829CA90069 }

/-- A built-in curve by its entry; entry 7 is Ed25519 and has none of this form. -/
def builtinCurve (i : Nat) : Curve :=
  if i = 0 then curveP256 else if i = 1 then curveP384 else if i = 2 then curveP521 else if i = 3 then curveK256
  else if i = 4 then curveB256 else if i = 5 then curveB384 else if i = 6 then curveB512
  else { p := 0, a := 0, b := 0, gx := 0, gy := 0, n := 0 }

/-! ### Ed25519 (RFC 8032) -/

/-- 2^255 - 19. -/
def edP : Nat := 2 ^ 255 - 19
/-- Order L of the base point. -/
def edL : Nat := 2 ^ 252 + 27742317777372353535851937790883648493
/-- The constant d of the curve. -/
def edD : Nat := 0x52036CEE2B6FFE738CC740797779E89800700A4D4141D8AB75EB4DCA135978A3
/-- The base point. -/
def edB : Nat × Nat :=
  (0x216936D3CD6E53FEC0A4E231FDD6DC5C692CC7609525A7B2C9562D608F25D51A,
   0x6666666666666666666666666666666666666666666666666666666666666658)

/-- The sum of two points; the point at infinity is (0, 1). -/
def edAdd (q r : Nat × Nat) : Nat × Nat :=
  let t := edD * (q.1 * r.1 % edP) % edP * (q.2 * r.2 % edP) % edP
  ((q.1 * r.2 + q.2 * r.1) * invMod edP (1 + t) % edP, (q.2 * r.2 + q.1 * r.1) * invMod edP (subMod edP 1 t) % edP)

/-- A multiple of a point. -/
def edMul (k : Nat) (q : Nat × Nat) : Nat × Nat :=
  (List.range (Nat.log2 k + 1)).reverse.foldl
    (fun acc i => let d := edAdd acc acc; if k.testBit i then edAdd d q else d) (0, 1)

/-- The 32 bytes of a point: y, with the lowest bit of x on top. -/
def edEnc (q : Nat × Nat) : Bytes := leBytes 32 (q.2 + q.1 % 2 * 2 ^ 255)

/-- The x-coordinate of a point that 32 bytes encode, none where they encode none. -/
def edRecover (b : Bytes) : Option Nat :=
  let y := ofLe b % 2 ^ 255
  let sign := ofLe b / 2 ^ 255 % 2
  let x2 := subMod edP (y * y) 1 * invMod edP (edD * (y * y % edP) + 1) % edP
  let x := powMod edP x2 ((edP + 3) / 8)
  let x := if x * x % edP = x2 then x else x * powMod edP 2 ((edP - 1) / 4) % edP
  if y ≥ edP ∨ x * x % edP ≠ x2 ∨ (x = 0 ∧ sign = 1) then none
  else some (if x % 2 = sign then x else edP - x)

/-- The x-coordinate of the 32-byte A of a public key as 32 bytes; none where A encodes no point. -/
def ed25519Recover (b : Bytes) : Option Bytes := (edRecover b).map (leBytes 32)

/-- The point of A ‖ xA. -/
def edPoint (b : Bytes) : Nat × Nat := (ofLe (slice b 32 32), ofLe (b.take 32) % 2 ^ 255)

/-- Whether A ‖ xA is a point of the curve with matching sign, not of order dividing 8 (06 Table 06-6, check 8). -/
def ed25519Point (b : Bytes) : Bool :=
  let q := edPoint b
  let xx := q.1 * q.1 % edP
  let yy := q.2 * q.2 % edP
  (yy % edP == (1 + xx + edD * (xx * yy % edP)) % edP) && ofLe (b.take 32) / 2 ^ 255 % 2 == q.1 % 2 && edMul 8 q != (0, 1)

/-- The prefix of the hash inputs: none, or that of Ed25519ph with an empty context (RFC 8032). -/
def edDom (ph : Bool) : Bytes :=
  if ph then ascii "SigEd25519 no Ed25519 collisions" ++ [1, 0] else []

/-- SHA-512 as a little-endian number. -/
def edHash (b : Bytes) : Nat := ofLe (digestOf 3 64 b)

/-- Verification with the cofactorless equation: PH, message or its SHA-512, R ‖ S, A ‖ xA (06 R269). -/
def ed25519Verify (ph : Bool) (msg sig pub : Bytes) : Bool :=
  let k := edHash (edDom ph ++ sig.take 32 ++ pub.take 32 ++ msg) % edL
  let a := edPoint pub
  let neg := (subMod edP 0 a.1, a.2)
  edEnc (edAdd (edMul (ofLe (slice sig 32 32)) edB) (edMul k neg)) == sig.take 32

/-- The secret scalar of a seed. -/
def edScalar (seed : Bytes) : Nat :=
  let h := edHash seed % 2 ^ 256
  h % 2 ^ 254 / 8 * 8 + 2 ^ 254

/-- The 32-byte public key of a seed. -/
def edPublic (seed : Bytes) : Bytes := edEnc (edMul (edScalar seed) edB)

/-- A multiple of the base point as a unit of SS computes it (07 R306). -/
def edMulBlind (lam z k : Nat) : Nat × Nat :=
  let z := 1 + z % (edP - 1)
  let affine := fun (x : Nat × Nat × Nat) => (x.1 * invMod edP x.2.2 % edP, x.2.1 * invMod edP x.2.2 % edP)
  edMul (k + lam * edL) (affine (edB.1 * z % edP, edB.2 * z % edP, z))

/-- Signature R ‖ S: PH, seed ‖ A, message (07 R307); `base` multiplies the base point. -/
def ed25519SignBy (base : Nat → Nat × Nat) (ph : Bool) (key msg : Bytes) : Bytes :=
  let pre := (digestOf 3 64 (key.take 32)).drop 32
  let r := edHash (edDom ph ++ pre ++ msg) % edL
  let rb := edEnc (base r)
  let k := edHash (edDom ph ++ rb ++ slice key 32 32 ++ msg) % edL
  rb ++ leBytes 32 ((r + k * edScalar (key.take 32)) % edL)

/-- Signature R ‖ S of plain scalars. -/
def ed25519Sign (ph : Bool) (key msg : Bytes) : Bytes := ed25519SignBy (fun r => edMul r edB) ph key msg

end Sys2Proof.Machine
end

