-- ==== Sys2Proof/Machine/Encodings.lean ====
section
/-! DEFINITION. Encodings of signatures, keys and key blocks: PKCS#1 (RFC 8017), ECPrivateKey (RFC 5915), OneAsymmetricKey
(RFC 8410), ANSI X9.143 (06 R270; 07 R319; 09 R394, R398). PRESUMED: the spec names the standards, and the encodings are taken from
them (log entry 11). -/
namespace Sys2Proof.Machine

/-! ### Signatures and OAEP -/

/-- Digest length of a HASH code (06 Table 06-2). -/
def hashLen (h : Nat) : Nat := if h = 1 then 28 else if h = 2 then 32 else if h = 3 then 48 else if h = 4 then 64 else 32

/-- The digest of a HASH code (06 Table 06-2): code h is the digest function of code h - 1. -/
def hashOf (h : Nat) (b : Bytes) : Bytes := fitTo (hashLen h) (digestOf (h - 1) (hashLen h) b)

/-- The last byte of the object identifier of a HASH code's function. -/
def hashOid (h : Nat) : Byte := if h = 1 then 4 else if h = 2 then 1 else if h = 3 then 2 else if h = 4 then 3 else 6

/-- EMSA-PKCS1-v1_5 encoding: HASH, digest, length (RFC 8017). -/
def emsaPkcs1 (h : Nat) (dg : Bytes) (k : Nat) : Bytes :=
  let t : Bytes := leBytes 1 0x30 ++ leBytes 1 (17 + hashLen h) ++
    [0x30, 0x0D, 0x06, 0x09, 0x60, 0x86, 0x48, 0x01, 0x65, 0x03, 0x04, 0x02, hashOid h, 0x05, 0x00, 0x04] ++ leBytes 1 (hashLen h) ++ dg
  [0x00, 0x01] ++ fillBytes (k - t.length - 3) 0xFF ++ [0x00] ++ t

/-- MGF1: HASH, seed, length (RFC 8017). -/
def mgf1 (h : Nat) (seed : Bytes) (n : Nat) : Bytes :=
  ((List.range (ceilDiv n (hashLen h))).flatMap fun i => hashOf h (seed ++ beBytes 4 i)).take n

/-- EMSA-PSS encoding: HASH, digest, salt, length of the encoding in bits (RFC 8017). -/
def emsaPss (h : Nat) (dg salt : Bytes) (emBits : Nat) : Bytes :=
  let n := ceilDiv emBits 8 - hashLen h - 1
  let hh := hashOf h (fillBytes 8 0 ++ dg ++ salt)
  let db := fillBytes (n - salt.length - 1) 0 ++ [1] ++ salt
  let masked := beBytes n (ofBe (xorBytes db (mgf1 h hh n)) % 2 ^ (emBits - 8 * (hashLen h + 1)))
  masked ++ hh ++ [0xBC]

/-- EMSA-PSS verification: HASH, digest, salt length, length of the encoding in bits, encoding (RFC 8017). -/
def emsaPssVerify (h : Nat) (dg : Bytes) (sLen emBits : Nat) (em : Bytes) : Bool :=
  let n := ceilDiv emBits 8 - hashLen h - 1
  let hh := slice em n (hashLen h)
  let db := beBytes n (ofBe (xorBytes (em.take n) (mgf1 h hh n)) % 2 ^ (emBits - 8 * (hashLen h + 1)))
  let salt := db.drop (n - sLen)
  decide (hashLen h + sLen + 2 ≤ ceilDiv emBits 8) && em.length == ceilDiv emBits 8 && decide (ofBe em < 2 ^ emBits) &&
    em.getLastD 0 == 0xBC && db.take (n - sLen) == fillBytes (n - sLen - 1) 0 ++ [1] &&
    hh == hashOf h (fillBytes 8 0 ++ dg ++ salt)

/-- OAEP decoding: HASH, label, encoding; none on any failure (RFC 8017; 07 R319). -/
def oaepDecode (h : Nat) (label em : Bytes) : Option Bytes :=
  let l := hashLen h
  let mdb := em.drop (1 + l)
  let seed := xorBytes (slice em 1 l) (mgf1 h mdb l)
  let db := xorBytes mdb (mgf1 h seed mdb.length)
  let m := (db.drop l).dropWhile (· == 0)
  if 2 * l + 2 ≤ em.length ∧ byteAt em 0 = 0 ∧ db.take l = hashOf h label ∧ m.headD 0 = 1 then some (m.drop 1) else none

/-! ### Private keys in DER -/

/-- Bytes of a number without leading zeros. -/
def natBytes (n : Nat) : Bytes := beBytes (ceilDiv (bitLen n) 8) n

/-- An element of DER. -/
def derTlv (tag : Nat) (b : Bytes) : Bytes :=
  let n := natBytes b.length
  leBytes 1 tag ++ (if b.length < 128 then leBytes 1 b.length else leBytes 1 (128 + n.length) ++ n) ++ b

/-- An INTEGER of DER, not negative. -/
def derInt (n : Nat) : Bytes := derTlv 2 (beBytes (bitLen n / 8 + 1) n)

/-- The contents of the element of a tag that a string begins with, and the rest. -/
def derRead (tag : Nat) (b : Bytes) : Option (Bytes × Bytes) :=
  let l := byteAt b 1
  let k := if l < 128 then 0 else l - 128
  let n := if l < 128 then l else ofBe (slice b 2 k)
  if byteAt b 0 = tag ∧ 2 + k + n ≤ b.length then some (slice b (2 + k) n, b.drop (2 + k + n)) else none

/-- The numbers of a run of INTEGERs. -/
def derInts : Nat → Bytes → Option (List Nat)
  | 0, b => if b.isEmpty then some [] else none
  | n + 1, b => (derRead 2 b).bind fun x => (derInts n x.2).map (ofBe x.1 :: ·)

/-- Object identifier of a built-in curve. -/
def curveOid (i : Nat) : Bytes :=
  if i = 0 then [0x2A, 0x86, 0x48, 0xCE, 0x3D, 0x03, 0x01, 0x07]
  else if i = 1 then [0x2B, 0x81, 0x04, 0x00, 0x22] else if i = 2 then [0x2B, 0x81, 0x04, 0x00, 0x23]
  else if i = 3 then [0x2B, 0x81, 0x04, 0x00, 0x0A]
  else [0x2B, 0x24, 0x03, 0x03, 0x02, 0x08, 0x01, 0x01, if i = 4 then 0x07 else if i = 5 then 0x0B else 0x0D]

/-- ECPrivateKey with the named curve and the public key (RFC 5915; 09 R394). -/
def encodeEc (i : Nat) (d pub : Bytes) : Bytes :=
  derTlv 0x30 (derInt 1 ++ derTlv 4 d ++ derTlv 0xA0 (derTlv 6 (curveOid i)) ++ derTlv 0xA1 (derTlv 3 ([0] ++ pub)))

/-- OneAsymmetricKey of Ed25519 with the public key, without attributes (RFC 8410; 09 R394). -/
def encodeEd (key : Bytes) : Bytes :=
  derTlv 0x30 (derInt 1 ++ derTlv 0x30 (derTlv 6 [0x2B, 0x65, 0x70]) ++ derTlv 4 (derTlv 4 (key.take 32)) ++
    derTlv 0x81 ([0] ++ slice key 32 32))

/-- RSAPrivateKey of two primes: n, e, d, p, q, dp, dq, qInv (RFC 8017; 09 R394). -/
def encodeRsa (l : List Nat) : Bytes := derTlv 0x30 (derInt 0 ++ l.flatMap derInt)

/-- Coefficient of the extended Euclidean algorithm; `fuel` bounds its divisions. -/
def euclid : Nat → Int → Int → Int → Int → Int
  | 0, _, _, s0, _ => s0
  | fuel + 1, r0, r1, s0, s1 => if r1 = 0 then s0 else euclid fuel r1 (r0 % r1) s1 (s0 - r0 / r1 * s1)

/-- Inverse modulo any number to which `x` is prime. -/
def inverseMod (m x : Nat) : Nat := (euclid (2 * bitLen m + 2) x m 1 0 % m).toNat

/-- The asymmetric key data of a key block for an algorithm: its value in the form of 09 Table 09-3, and its public key
(09 R394, R398). -/
def encodePrivate (a : Nat) (value pub : Bytes) : Bytes :=
  if a = 0x107 then encodeEd value
  else if a = 0x200 then
    let h := (value.length - 32) / 5
    let g := fun i => ofBe (slice value (i * h) h)
    let e := ofBe (value.drop (5 * h))
    encodeRsa [g 0 * g 1, e, inverseMod (Nat.lcm (g 0 - 1) (g 1 - 1)) e, g 0, g 1, g 2, g 3, g 4]
  else encodeEc (a - 0x100) value pub

/-- Length of the encoding of the largest key of its algorithm, of a value of `n` bytes (09 R398; log entry 73). -/
def largestPrivate (a n : Nat) (value pub : Bytes) : Nat :=
  if a = 0x200 then
    let h := (n - 32) / 5
    let big := fun k => 2 ^ (8 * k) - 1
    (encodeRsa [big (2 * h), big 32, big (2 * h), big h, big h, big h, big h, big h]).length
  else (encodePrivate a value pub).length

/-- The value and the public key of key data of an algorithm, none where they are not the encoding that the spec names
(09 R394; log entry 73). -/
def decodePrivate (a : Nat) (b : Bytes) : Option (Bytes × Bytes) :=
  if a = 0x107 then
    let key := slice b 16 32 ++ b.drop (b.length - 32)
    if encodeEd key = b then some (key, key.drop 32) else none
  else if a = 0x200 then
    match (derRead 0x30 b).bind fun x => derInts 9 x.1 with
    | some (0 :: n :: e :: d :: p :: q :: dp :: dq :: qi :: _) =>
      let k := ceilDiv (bitLen n) 8
      if encodeRsa [n, e, d, p, q, dp, dq, qi] = b ∧ n = p * q ∧ bitLen e ≤ 256 ∧ [p, q, dp, dq, qi].all (fun x => decide (x < 2 ^ (4 * k))) then
        some ([p, q, dp, dq, qi].flatMap (beBytes (k / 2)) ++ beBytes 32 e, beBytes k n ++ beBytes 32 e)
      else none
    | _ => none
  else
    let c := builtinCurve (a - 0x100)
    let pub := b.drop (b.length - (1 + 2 * c.fb))
    match (derRead 0x30 b).bind fun x => (derRead 2 x.1).bind fun y => derRead 4 y.2 with
    | some (d, _) => if encodeEc (a - 0x100) d pub = b ∧ d.length = c.nb then some (d, pub) else none
    | none => none

/-! ### Key blocks of ANSI X9.143 -/

/-- Upper-case hexadecimal digits of a byte string. -/
def hexOf (b : Bytes) : Bytes :=
  b.flatMap fun x => [x.toNat / 16, x.toNat % 16].map fun n => BitVec.ofNat 8 (if n < 10 then 48 + n else 55 + n)

/-- Value of a hexadecimal digit. -/
def hexDigit (b : Byte) : Option Nat :=
  let n := b.toNat
  if 48 ≤ n ∧ n ≤ 57 then some (n - 48) else if 65 ≤ n ∧ n ≤ 70 then some (n - 55) else none

/-- The byte string that hexadecimal digits spell. -/
def unhex : Bytes → Option Bytes
  | [] => some []
  | [_] => none
  | x :: y :: r => (hexDigit x).bind fun a => (hexDigit y).bind fun b => (unhex r).map (BitVec.ofNat 8 (16 * a + b) :: ·)

/-- The number that decimal digits spell. -/
def decimal (b : Bytes) : Option Nat :=
  if b.all fun x => decide (48 ≤ x.toNat ∧ x.toNat ≤ 57) then some (b.foldl (fun n x => 10 * n + (x.toNat - 48)) 0) else none

/-- `n` decimal digits. -/
def decimalOf : Nat → Nat → Bytes
  | 0, _ => []
  | n + 1, x => decimalOf n (x / 10) ++ [BitVec.ofNat 8 (48 + x % 10)]

/-- One block of the cipher of a protection key: AES or TDEA. -/
def wrapBlock (aes enc : Bool) (k b : Bytes) : Bytes := if aes then aesBlock enc k b else tdeaBlock enc k b
/-- Block length of the cipher of a protection key. -/
def wrapLen (aes : Bool) : Nat := if aes then 16 else 8

/-- The key of a use derived from the protection key: 0 enciphers, 1 authenticates (key derivation binding method). -/
def wrapKey (aes : Bool) (k : Bytes) (use : Nat) : Bytes :=
  let alg := if aes then k.length / 8 else if k.length = 16 then 0 else 1
  ((List.range (ceilDiv k.length (wrapLen aes))).flatMap fun i =>
    cmacWith (wrapLen aes) (wrapBlock aes true k)
      (leBytes 1 (i + 1) ++ beBytes 2 use ++ [0] ++ beBytes 2 alg ++ beBytes 2 (8 * k.length))).take k.length

/-- The authentication code of a key block: the header whole, and the clear key data. -/
def wrapMac (aes : Bool) (k hdr data : Bytes) : Bytes := cmacWith (wrapLen aes) (wrapBlock aes true (wrapKey aes k 1)) (hdr ++ data)

/-- The length of the header with `n` optional blocks from an offset on. -/
def optionalEnd (b : Bytes) : Nat → Nat → Option Nat
  | 0, off => some off
  | n + 1, off =>
    match (unhex (slice b (off + 2) 2)).map ofBe with
    | none => none
    | some l =>
      let len := if l ≠ 0 then some l
        else (unhex (slice b (off + 4) 2)).bind fun m => (unhex (slice b (off + 6) (2 * ofBe m))).map ofBe
      match len with
      | none => none
      | some l => if l < 4 ∨ off + l > b.length then none else optionalEnd b n (off + l)

/-- A key block opened: `aes` says that its protection key is AES. Its 16 header bytes and clear key; none on a bad MAC or a
malformed block (09 R394). -/
def keyBlockOpen (aes : Bool) (kbpk b : Bytes) : Option (Bytes × Bytes) :=
  let m := wrapLen aes
  match decimal (slice b 1 4), (decimal (slice b 12 2)).bind fun n => if n ≤ 16 then optionalEnd b n 16 else none with
  | some len, some off =>
    match unhex (b.drop off) with
    | none => none
    | some body =>
      let mac := body.drop (body.length - m)
      let data := cbcDec (wrapBlock aes false (wrapKey aes kbpk 0)) mac (chunks m (body.take (body.length - m)))
      let bits := ofBe (data.take 2)
      if b.take 1 = ascii (if aes then "D" else "B") ∧ len = b.length ∧ len % m = 0 ∧ 2 * m ≤ body.length ∧ body.length % m = 0 ∧
          bits % 8 = 0 ∧ 2 + bits / 8 ≤ data.length ∧ wrapMac aes kbpk (b.take off) data = mac then
        some (b.take 16, slice data 2 (bits / 8))
      else none
  | _, _ => none

/-- Bytes of clear key data in a key block: the length, the largest key of the family, and the rest of the last cipher block
(09 R398). -/
def keyBlockData (aes : Bool) (largest : Nat) : Nat := let m := wrapLen aes; ceilDiv (2 + largest) m * m

/-- Length of a key block without optional blocks. -/
def keyBlockLen (aes : Bool) (largest : Nat) : Nat := 16 + 2 * (keyBlockData aes largest + wrapLen aes)

/-- A key block: the protection key, 16 header bytes whose length field is filled in, the key, the length of the largest key of its
family, and the padding drawn (09 R398). -/
def keyBlockSeal (aes : Bool) (kbpk hdr key : Bytes) (largest : Nat) (pad : Bytes) : Bytes :=
  let hdr := hdr.take 1 ++ decimalOf 4 (keyBlockLen aes largest) ++ hdr.drop 5
  let data := fitTo (keyBlockData aes largest) (beBytes 2 (8 * key.length) ++ key ++ pad)
  let mac := wrapMac aes kbpk hdr data
  hdr ++ hexOf (cbcEnc (wrapBlock aes true (wrapKey aes kbpk 0)) mac (chunks (wrapLen aes) data)) ++ hexOf mac

end Sys2Proof.Machine
end

