-- ==== Sys2Proof/Machine/SymbolCode.lean ====
section
/-! DEFINITION. The symbol code of SRAM words and internal data paths: 16 data symbols and 3 check symbols over GF(2^8) (01 R26 to
R34, Table 01-2). -/
namespace Sys2Proof.Machine

/-- Multiplication by α of GF(2^8), primitive polynomial 0x11D (01 Table 01-2). -/
def symAlpha (a : Byte) : Byte := a <<< 1 ^^^ (if a.getLsbD 7 then 0x1D else 0)

/-- Product of two symbols; `n` bits of `b` are left. -/
def symTimes : Nat → Byte → Byte → Byte
  | 0, _, _ => 0
  | n + 1, a, b => (if b.getLsbD 0 then a else 0) ^^^ symTimes n (symAlpha a) (b >>> 1)

/-- Product of two symbols in GF(2^8). -/
def symMul (a b : Byte) : Byte := symTimes 8 a b

/-- α to a power. -/
def alphaPow : Nat → Byte
  | 0 => 1
  | n + 1 => symAlpha (alphaPow n)

/-- One data symbol enters the division by g(x) = x³ + 0x07·x² + 0x0E·x + 0x08 (01 Table 01-2). -/
def checkStep (c : Byte × Byte × Byte) (d : Byte) : Byte × Byte × Byte :=
  let q := d ^^^ c.1
  (c.2.1 ^^^ symMul q 0x07, c.2.2 ^^^ symMul q 0x0E, symMul q 0x08)

/-- Check symbols c0, c1, c2 of data symbols d0 to d15 (01 Table 01-2). -/
def checkSymbols (data : Bytes) : Bytes :=
  let c := data.foldl checkStep (0, 0, 0)
  [c.1, c.2.1, c.2.2]

/-- The stored word of up to 16 data bytes; the symbols that a partial word does not use are 0 (01 R27, R29). -/
def encodeWord (data : Bytes) : Bytes := let d := fitTo 16 data; d ++ checkSymbols d

/-- Syndrome of a stored word at α^j (01 Table 01-2). -/
def syndrome (word : Bytes) (j : Nat) : Byte := word.foldl (fun acc x => symMul acc (alphaPow j) ^^^ x) 0

/-- What a test of a stored word finds: no error, one symbol in error and the word corrected, or more than the code corrects. -/
inductive WordTest where
  | clean
  | corrected (word : Bytes)
  | uncorrectable
deriving DecidableEq, Repr

/-- Place of the one symbol that explains three syndromes, none where no single symbol does; the symbol at place `i` of 19 is the
coefficient of x^(18 - i). -/
def errorPlace (s0 s1 s2 : Byte) : Option Nat :=
  if s0 = 0 then none
  else (List.range 19).find? fun i => symMul s0 (alphaPow (18 - i)) == s1 && symMul s1 (alphaPow (18 - i)) == s2

/-- Test of a stored word (01 R28, R31, R34): an error in one symbol is corrected, one in two is detected. -/
def testWord (word : Bytes) : WordTest :=
  let s0 := syndrome word 0
  let s1 := syndrome word 1
  let s2 := syndrome word 2
  if s0 = 0 ∧ s1 = 0 ∧ s2 = 0 then .clean
  else match errorPlace s0 s1 s2 with
    | some i => .corrected (word.modify i (· ^^^ s0))
    | none => .uncorrectable

/-! ### Words of a string -/

/-- Check symbols of the words of a string, 3 for each (01 R27, R29, R30). -/
def symbolsOf (b : Bytes) : Bytes := (chunks 16 b).flatMap fun w => checkSymbols (fitTo 16 w)

/-- The stored words of a string with the check symbols that are carried beside it. -/
def storedWords (b sym : Bytes) : List Bytes := (chunks 16 b).mapIdx fun i w => fitTo 16 w ++ slice sym (3 * i) 3

/-- The data that a read of a stored word delivers: corrected where the code corrects it (01 R31). -/
def readWord (word : Bytes) : Bytes :=
  match testWord word with
  | .corrected w => w.take 16
  | _ => word.take 16

/-- A string read from its words: the check symbols are tested and stripped (01 R28, R31). -/
def readWords (b sym : Bytes) : Bytes := ((storedWords b sym).flatMap readWord).take b.length

/-- The check symbols that a read of a stored word leaves in place: those of the corrected word, where the code corrects it (01 R31). -/
def readSym (word : Bytes) : Bytes :=
  match testWord word with
  | .corrected w => w.drop 16
  | _ => word.drop 16

/-- The check symbols of a string once its words have been read (01 R31). -/
def readSyms (b sym : Bytes) : Bytes := (storedWords b sym).flatMap readSym

/-- Whether a word of a string has more errors than the code corrects (01 R28, R34). -/
def wordsLost (b sym : Bytes) : Bool := (storedWords b sym).any fun w => testWord w == .uncorrectable

/-- Whether a word of a string has an error that the code corrects (01 R31). -/
def wordsMended (b sym : Bytes) : Bool := (storedWords b sym).any fun w => testWord w != .clean && testWord w != .uncorrectable

end Sys2Proof.Machine
end

