-- ==== Sys2Proof/Machine/PkOps.lean ====
section
/-! DEFINITION. Public-key arithmetic, the curve table, and what the VS and SS steps read, cost, check and compute
(06, 07). -/
namespace Sys2Proof.Machine

/-- The parameters of a loaded curve record (06 Table 06-8). -/
def recordCurve (r : Bytes) : Curve :=
  let f := fun i => ofBe (slice r (16 + 72 * i) 72)
  { p := f 0, a := f 1, b := f 2, gx := f 3, gy := f 4, n := f 5 }

/-- Curve entry `i` of the curve table (06 R284). -/
def State.curveEntry (s : State) (i : Nat) : CurveEntry := s.vs.curves.toList.getD i CurveEntry.reset

/-- The curve of entry `i`: built in for 0 to 6, else its loaded record. -/
def State.curve (s : State) (i : Nat) : Curve :=
  if i < 8 then builtinCurve i
  else recordCurve (readWords (s.curveEntry i).record (s.curveEntry i).recordSym)

/-- Field and order lengths in bits of an entry: the built-in curves' are those of their names. -/
def State.curveBits (s : State) (i : Nat) : Nat × Nat :=
  if i < 8 then ((s.curveEntry i).fbits, (s.curveEntry i).fbits)
  else
    let c := s.curve i
    (bitLen c.p, bitLen c.n)

/-- f and n in bytes of an entry. -/
def State.curveBytes (s : State) (i : Nat) : Nat × Nat := let (f, n) := s.curveBits i; (ceilDiv f 8, ceilDiv n 8)

/-- Whether the lengths of an entry are known: an EMPTY one has no record. A chain that names it meets no length test that depends on the
curve, and its step fails the curve check of its validation tick (06 R263, R278; 07 R300; log entry 87). -/
def State.curveKnown (s : State) (i : Nat) : Bool := decide (i < 8) || (s.curveEntry i).state != 0

/-- Limbs of a value of F bits (06 R254). -/
def limbs (f : Nat) : Nat := ceilDiv f 256

/-! ### Operand shapes -/

/-- Whether a HASH code is one of Table 06-2. -/
def hashOk (h : Nat) : Bool := decide (1 ≤ h ∧ h ≤ 5)

/-- Whether key handle A names a key. -/
def Desc.hasA (d : Desc) : Bool := Desc.keyA d != noHandle

/-- Check 2 of a VS step (06 R263). -/
def vsShape (s : State) (d : Desc) (c : ClassStep) : Bool :=
  let op := Desc.op d
  let h := Desc.hasA d
  let nB := c.modBits / 8
  let l := Desc.srcLen d
  let a := Desc.auxLen d
  if op = 0x0500 then
    let (f, n) := s.curveBytes c.curve
    Desc.opx d == c.curve && Desc.opx d != 7 && decide (20 ≤ l ∧ l ≤ 64) &&
      (!s.curveKnown c.curve || a == 2 * n + (if h then 0 else 1 + 2 * f))
  else if op = 0x0501 then
    decide (Desc.opx d ≤ 1) && (if Desc.opx d = 1 then l == 64 else decide (l ≤ 1024)) && a == 64 + (if h then 0 else 64)
  else if op = 0x0504 then
    Desc.opx d == 0 && l == nB && a == (if h then 0 else nB + 32) && !(decide (c.modBits > 4096) && !h)
  else
    decide (Desc.opx d < 16) && hashOk (Desc.opx d) && l == hashLen (Desc.opx d) &&
      a == nB + (if h then 0 else nB + 32) && !(decide (c.modBits > 4096) && !h)

/-- Check 2 of an SS step (07 R300). -/
def ssShape (s : State) (d : Desc) (c : ClassStep) : Bool :=
  let op := Desc.op d
  let nB := c.modBits / 8
  let l := Desc.srcLen d
  let a := Desc.auxLen d
  if op = 0x0600 then Desc.opx d == c.curve && Desc.opx d != 7 && decide (20 ≤ l ∧ l ≤ 64) && a == 0
  else if op = 0x0601 then decide (Desc.opx d ≤ 1) && (if Desc.opx d = 1 then l == 64 else decide (l ≤ 1024)) && a == 0
  else if op = 0x0602 then Desc.opx d == c.curve && Desc.opx d != 7 && (!s.curveKnown c.curve || l == 1 + 2 * (s.curveBytes c.curve).1) && a == 0
  else if op = 0x0603 ∨ op = 0x0604 then
    decide (Desc.opx d < 16) && hashOk (Desc.opx d) && l == hashLen (Desc.opx d) && a == 0
  else if op = 0x0605 then decide (Desc.opx d < 16) && hashOk (Desc.opx d) && l == nB && decide (a ≤ 256)
  else if op = 0x0606 then Desc.opx d == c.curve && Desc.opx d != 7 && l == 0 && a == 0 && Desc.src d == 3
  else Desc.opx d == 0 && l == 0 && a == 0 && Desc.src d == 3

/-- Output length of a VS step (03 Table 03-10). -/
def vsOut (d : Desc) (c : ClassStep) : Nat := if Desc.op d = 0x0504 then c.modBits / 8 else 0

/-- Output length of an SS step (03 Table 03-10). -/
def ssOut (s : State) (d : Desc) (c : ClassStep) : Nat :=
  let op := Desc.op d
  let (f, n) := s.curveBytes c.curve
  if op = 0x0600 then 2 * n else if op = 0x0601 then 64
  else if op = 0x0603 ∨ op = 0x0604 ∨ op = 0x0607 then c.modBits / 8
  else if op = 0x0606 then 1 + 2 * f else 0

/-- SHA-512 blocks of a hash input of `n` bytes after padding. -/
def sha512Blocks (n : Nat) : Nat := ceilDiv (n + 17) 128

/-- Length of the dom2 prefix of Ed25519ph with an empty context. -/
def dom2Len : Nat := 34

/-- M of an exponent (06 R266). -/
def expProducts (e : Nat) : Nat := (bitLen e - 1) + (((List.range (bitLen e)).filter fun i => e.testBit i).length - 1)

/-- g, B and q of a HASH (06 Table 06-4). -/
def hashTerms (h : Nat) : Nat × Nat × Nat := if h ≤ 2 then (16, 64, 9) else (20, 128, 17)

/-- The PSS term of Tables 06-4 and 07-5. -/
def pssCycles (h emLen sLen : Nat) : Nat :=
  let (g, b, q) := hashTerms h
  g * (ceilDiv (emLen - hashLen h - 1) (hashLen h) + ceilDiv (8 + hashLen h + sLen + q) b)

/-- Cycles of a public exponentiation (06 Table 06-4). -/
def modexpCycles (modBits e : Nat) : Nat := let k := limbs modBits; (expProducts e + 16) * k * k + 20 * k

/-- Cycles of a VS step; `e` is the exponent of its key (06 R266, R267). -/
def vsCycles (s : State) (d : Desc) (c : ClassStep) (e l : Nat) : Nat :=
  let op := Desc.op d
  if op = 0x0500 then
    let f := (s.curveBits c.curve).1
    23 * f * limbs f * limbs f + 140
  else if op = 0x0501 then
    let h := if Desc.opx d = 1 then 2 else sha512Blocks (64 + l)
    23 * 255 + 100 + 20 * max h 3
  else modexpCycles c.modBits e + (if op = 0x0503 then pssCycles (Desc.opx d) (ceilDiv (c.modBits - 1) 8) c.saltLen else 0)

/-- Cycles of an SS step other than RSA key generation (07 Table 07-5). -/
def ssCycles (s : State) (d : Desc) (c : ClassStep) (l : Nat) : Nat :=
  let op := Desc.op d
  let kp := ceilDiv c.modBits 512
  let rsa := kp * kp * (2 * c.modBits + 838) + 336 * kp * kp * kp + 2 * kp
  let (g, b, q) := hashTerms (Desc.opx d)
  if op = 0x0601 then
    let h1 := sha512Blocks (32 + l + (if Desc.opx d = 1 then dom2Len else 0))
    let h2 := sha512Blocks (64 + l + (if Desc.opx d = 1 then dom2Len else 0))
    8100 + 20 * max (h1 + h2) 6
  else if op = 0x0603 then rsa
  else if op = 0x0604 then rsa + pssCycles (Desc.opx d) (ceilDiv (c.modBits - 1) 8) c.saltLen
  else if op = 0x0605 then
    rsa + g * (ceilDiv (c.modBits / 8 - hashLen (Desc.opx d) - 1) (hashLen (Desc.opx d)) + 1 + ceilDiv (Desc.auxLen d + q) b)
  else
    let (f, n) := s.curveBits c.curve
    25 * (64 * ceilDiv n 64 + 64) * limbs f * limbs f + 220

/-- Region of a VS step in blocks (06 R274). -/
def vsRegion (s : State) (d : Desc) (c : ClassStep) : Nat :=
  if Desc.op d = 0x0500 then 2 * limbs (s.curveBits c.curve).1
  else if Desc.op d = 0x0501 then 2 + (if Desc.opx d = 0 then ceilDiv c.maxLen 512 else 0)
  else 2 * limbs c.modBits

/-- Region of an SS step in blocks (07 R323). -/
def ssRegion (s : State) (d : Desc) (c : ClassStep) : Nat :=
  let op := Desc.op d
  if op = 0x0601 then 4 + (if Desc.opx d = 0 then ceilDiv c.maxLen 512 else 0)
  else if op = 0x0607 then 6 * limbs c.modBits
  else if op = 0x0603 ∨ op = 0x0604 ∨ op = 0x0605 then 4 * limbs c.modBits
  else 4 * limbs (s.curveBits c.curve).1

/-- Whether the op signs with RSA, so that its class has a check step on VS (07 R313). -/
def isRsaSign (op : Nat) : Bool := op == 0x0603 || op == 0x0604

/-- Region on VS of the check of an RSA signature (07 R314). -/
def checkRegion (d : Desc) (c : ClassStep) : Nat := if isRsaSign (Desc.op d) then 2 * limbs c.modBits else 0

/-- Random bits an SS step draws (07 Table 07-7): the total of the pair. -/
def ssDrawBits (s : State) (d : Desc) (c : ClassStep) : Nat :=
  let op := Desc.op d
  let (f, n) := s.curveBits c.curve
  if op = 0x0600 then n + 64 + 2 * (64 + f + n)
  else if op = 0x0601 then 2 * (64 + 255)
  else if op = 0x0602 then 2 * (64 + f)
  else if op = 0x0606 then n + 64 + 2 * (64 + f)
  else if op = 0x0603 then c.modBits + 2 * (128 + c.modBits)
  else if op = 0x0604 then c.modBits + 8 * c.saltLen + 2 * (128 + c.modBits)
  else if op = 0x0605 then 2 * (128 + c.modBits)
  else 0

/-! ### Validation -/

/-- READY of a curve entry (06 R284). -/
def State.curveReady (s : State) (i : Nat) : Bool := (s.curveEntry i).state == 2

/-- The modulus and exponent of an RSA step: from the key's N ‖ e, or from the auxiliary data after `skip` bytes. -/
def rsaPublic (nB skip : Nat) (key aux : Bytes) : Nat × Nat :=
  if key.isEmpty then (ofBe (slice aux skip nB), ofBe (slice aux (skip + nB) 32))
  else (ofBe (key.take nB), ofBe (slice key nB 32))

/-- Checks 9 to 12 of Table 06-6, none where all pass; a chained base is not known and not checked. -/
def rsaCheck (d : Desc) (c : ClassStep) (pubExp : Nat) (src aux key : Bytes) : Option Nat :=
  let op := Desc.op d
  let nB := c.modBits / 8
  let (n, e) := rsaPublic nB (if op = 0x0504 then 0 else nB) key aux
  let sg := if op = 0x0504 then ofBe src else ofBe (aux.take nB)
  if key.isEmpty ∧ (n % 2 = 0 ∨ bitLen n ≠ c.modBits) then some 0x17
  else if key.isEmpty ∧ (e = 0 ∨ (op ≠ 0x0504 ∧ (e = 1 ∨ e % 2 = 0)) ∨ (pubExp ≠ 0 ∧ e ≠ pubExp) ∨
      (pubExp = 0 ∧ bitLen e > c.expBits)) then some 0x17
  else if op ≠ 0x0504 ∧ (sg ≤ 1 ∨ sg + 1 = n ∨ sg ≥ n) then some 0x17
  else if op = 0x0504 ∧ Desc.src d ≠ 2 ∧ (sg ≤ 1 ∨ sg ≥ n) then some 0x17
  else none

/-- The checks of Table 06-6 on one VS step (06 R278): the status of the first that fails. -/
def vsValidate (s : State) (d : Desc) (c : ClassStep) (pubExp : Nat) (src aux key : Bytes) : Option Nat :=
  let op := Desc.op d
  if op = 0x0500 then
    let cv := s.curve c.curve
    let n := (s.curveBytes c.curve).2
    let r := ofBe (aux.take n)
    let sg := ofBe (slice aux n n)
    let q := aux.drop (2 * n)
    let (x, y) := cv.dec q
    if !s.curveReady c.curve then some 0x19
    else if r = 0 ∨ sg = 0 ∨ r ≥ cv.n ∨ sg ≥ cv.n then some 0x17
    else if Desc.hasA d then none
    else if byteAt q 0 = 0 then some 0x18
    else if byteAt q 0 ≠ 4 then some 0x17
    else if !cv.on x y then some 0x18 else none
  else if op = 0x0501 then
    let r := ofLe (aux.take 32) % 2 ^ 255
    let sg := ofLe (slice aux 32 32)
    let a := ofLe (slice aux 64 32) % 2 ^ 255
    let xa := ofLe (slice aux 96 32)
    if sg ≥ edL ∨ r ≥ edP then some 0x17
    else if Desc.hasA d then none
    else if a ≥ edP ∨ xa ≥ edP then some 0x17
    else if !ed25519Point (slice aux 64 64) then some 0x18 else none
  else rsaCheck d c pubExp src aux key

/-- Checks 4 to 7 of Table 07-8: those of the operand itself (07 R309). -/
def ssOperand (s : State) (d : Desc) (c : ClassStep) (src key : Bytes) : Option Nat :=
  let op := Desc.op d
  let cv := s.curve c.curve
  let (x, y) := cv.dec src
  if op = 0x0602 then
    if byteAt src 0 = 0 then some 0x18
    else if byteAt src 0 ≠ 4 then some 0x17
    else if !cv.on x y then some 0x18 else none
  else if op = 0x0605 then
    let n := ofBe (slice key 0 (c.modBits / 16)) * ofBe (slice key (c.modBits / 16) (c.modBits / 16))
    let v := ofBe src
    if v ≤ 1 ∨ v + 1 = n ∨ v ≥ n then some 0x17 else none
  else none

/-- Checks 2 to 7 of Table 07-8 on one SS step in the validation tick (07 R309). A source that comes by chain buffer does not exist yet: it
meets checks 4 to 7 when the step has run, and a step that fails one ends with its status (log entry 96). -/
def ssValidate (s : State) (d : Desc) (c : ClassStep) (src key : Bytes) : Option Nat :=
  let op := Desc.op d
  let ec := op = 0x0600 ∨ op = 0x0602 ∨ op = 0x0606
  if ec ∧ !s.curveReady c.curve then some 0x19
  else if op = 0x0602 ∧ (s.curveEntry c.curve).h ≠ 1 then some 0x19
  else if Desc.src d = 2 then none else ssOperand s d c src key

/-! ### Results -/

/-- Odd part and power of two of a number; `fuel` bounds the halvings. -/
def splitEven : Nat → Nat → Nat × Nat
  | 0, d => (d, 0)
  | fuel + 1, d => if d % 2 = 0 then let (o, k) := splitEven fuel (d / 2); (o, k + 1) else (d, 0)

/-- One Miller–Rabin round. -/
def mrRound (m base : Nat) : Bool :=
  let (o, k) := splitEven (bitLen m) (m - 1)
  let x := powMod m base o
  x == 1 || (List.range k).any fun i => powMod m x (2 ^ i) == m - 1

/-- The integer of a digest on an order of `nb` bits (06 R268). -/
def digestInt (dg : Bytes) (nb : Nat) : Nat := ofBe dg >>> (8 * dg.length - nb)

/-- ECDSA verification (06 R268). -/
def ecdsaVerify (c : Curve) (dg : Bytes) (r sg : Nat) (q : Nat × Nat) : Bool :=
  let w := invMod c.n sg
  let e := digestInt dg (bitLen c.n)
  match c.add (c.mul (e * w % c.n) c.g) (c.mul (r * w % c.n) (some q)) with
  | none => false
  | some (x, _) => x % c.n == r

/-- ECDSA signature r ‖ s of a nonce k; `base` multiplies the base point and `inv` inverts modulo the order. -/
def ecdsaSignBy (c : Curve) (base : Nat → Point) (inv : Nat → Nat) (nB : Nat) (dg : Bytes) (d k : Nat) : Bytes :=
  match base k with
  | none => fillBytes (2 * nB) 0
  | some (x, _) =>
    let r := x % c.n
    beBytes nB r ++ beBytes nB (inv k * (digestInt dg (bitLen c.n) + r * d) % c.n)

/-- ECDSA signature of plain scalars. -/
def ecdsaSign (c : Curve) (nB : Nat) (dg : Bytes) (d k : Nat) : Bytes := ecdsaSignBy c (fun k => c.mul k c.g) (invMod c.n) nB dg d k

/-- Inverse of a nonce as a unit computes it, with a random β below n (07 R306). -/
def invBlind (n beta k : Nat) : Nat :=
  let b := 1 + beta % (n - 1)
  invMod n (k * b) * b % n

/-- What a VS step computes: a verdict as `compare`, or x^e mod N (06 R268 to R271). -/
def runVs (s : State) (d : Desc) (c : ClassStep) (src aux key : Bytes) : StepResult :=
  let op := Desc.op d
  let nB := c.modBits / 8
  if op = 0x0500 then
    let cv := s.curve c.curve
    let n := (s.curveBytes c.curve).2
    let q := cv.dec (if Desc.hasA d then key else aux.drop (2 * n))
    .compare (ecdsaVerify cv src (ofBe (aux.take n)) (ofBe (slice aux n n)) q)
  else if op = 0x0501 then
    .compare (ed25519Verify (Desc.opx d == 1) src (aux.take 64) (if Desc.hasA d then key else slice aux 64 64))
  else if op = 0x0504 then
    let (n, e) := rsaPublic nB 0 key aux
    .done (beBytes nB (powMod n (ofBe src) e))
  else
    let (n, e) := rsaPublic nB nB key aux
    let m := beBytes nB (powMod n (ofBe (aux.take nB)) e)
    if op = 0x0502 then .compare (m == emsaPkcs1 (Desc.opx d) src nB)
    else .compare (emsaPssVerify (Desc.opx d) src c.saltLen (c.modBits - 1) m)

/-- An RSA private key's parts (07 R296): p, q, dp, dq, qInv, e. -/
def rsaPart (modBits : Nat) (key : Bytes) (i : Nat) : Nat :=
  let h := modBits / 16
  if i = 5 then ofBe (slice key (5 * h) 32) else ofBe (slice key (i * h) h)

/-- Modulus of an RSA private key. -/
def rsaModulus (modBits : Nat) (key : Bytes) : Nat := rsaPart modBits key 0 * rsaPart modBits key 1

/-- Private exponentiation by CRT. -/
def rsaPrivate (modBits : Nat) (key : Bytes) (m : Nat) : Nat :=
  let g := rsaPart modBits key
  let m1 := powMod (g 0) m (g 2)
  let m2 := powMod (g 1) m (g 3)
  m2 + g 1 * (subMod (g 0) m1 m2 * g 4 % g 0)

/-- Private exponentiation as a unit computes it: the half-exponents raised by random multiples of p − 1 and q − 1, the message multiplied
by ρ^e and the result by ρ⁻¹ (07 R306). -/
def rsaBlind (modBits : Nat) (key : Bytes) (lp lq rho m : Nat) : Nat :=
  let g := rsaPart modBits key
  let n := g 0 * g 1
  let r := 1 + rho % (n - 1)
  let m := m * powMod n r (g 5) % n
  let m1 := powMod (g 0) m (g 2 + lp * (g 0 - 1))
  let m2 := powMod (g 1) m (g 3 + lq * (g 1 - 1))
  (m2 + g 1 * (subMod (g 0) m1 m2 * g 4 % g 0)) * inverseMod n r % n

/-- The encoded message of an RSA signature. -/
def rsaEncoded (d : Desc) (c : ClassStep) (src drawn : Bytes) : Bytes :=
  let nB := c.modBits / 8
  if Desc.op d = 0x0603 then fitTo nB (emsaPkcs1 (Desc.opx d) src nB)
  else beBytes nB (ofBe (emsaPss (Desc.opx d) src (drawn.take c.saltLen) (c.modBits - 1)))

/-- What an SS step yields: the value for the receiving handle beside its output. -/
structure SealedResult where
  out : Bytes
  /-- value and public key for the key store, none where nothing enters it -/
  key : Option (Bytes × Bytes)
  /-- the step ended with `INPUT_RANGE` (07 R319) -/
  bad : Bool
deriving DecidableEq, Repr

/-- The nonce or private scalar of the extra-bits method (07 R307). -/
def scalarOf (c : Curve) (drawn : Bytes) : Nat :=
  let bits := bitLen c.n + 64
  let n := ceilDiv bits 8
  (ofBe (drawn.take n) >>> (8 * n - bits)) % (c.n - 1) + 1

/-! ### Key shares and blinding -/

/-- Two shares of a key under a mask: an EC scalar as a sum modulo n, the two exponents of an RSA-CRT key as sums, the other parts and an
Ed25519 key byte by byte (07 R295; log entry 97). -/
def shareKey (s : State) (d : Desc) (c : ClassStep) (key mask : Bytes) : Bytes × Bytes :=
  let op := Desc.op d
  if op = 0x0600 ∨ op = 0x0602 then
    let n := (s.curve c.curve).n
    let a := ofBe mask % n
    (beBytes key.length a, beBytes key.length ((ofBe key + n - a) % n))
  else if 0x0603 ≤ op ∧ op ≤ 0x0605 then
    let h := c.modBits / 16
    let part := fun (i : Nat) =>
      let v := slice key (i * h) h
      let m := slice mask (i * h) h
      if i = 2 ∨ i = 3 then (beBytes h (ofBe m % (ofBe v + 1)), beBytes h (ofBe v - ofBe m % (ofBe v + 1))) else (m, xorBytes v m)
    let rest := (slice mask (5 * h) 32, xorBytes (slice key (5 * h) 32) (slice mask (5 * h) 32))
    let l := (List.range 5).map part ++ [rest]
    (l.flatMap Prod.fst, l.flatMap Prod.snd)
  else (mask.take key.length, xorBytes key (mask.take key.length))

/-- The key that two shares stand for. -/
def joinKey (s : State) (d : Desc) (c : ClassStep) (a b : Bytes) : Bytes :=
  let op := Desc.op d
  if op = 0x0600 ∨ op = 0x0602 then beBytes a.length ((ofBe a + ofBe b) % (s.curve c.curve).n)
  else if 0x0603 ≤ op ∧ op ≤ 0x0605 then
    let h := c.modBits / 16
    let part := fun (i : Nat) =>
      let x := slice a (i * h) h
      let y := slice b (i * h) h
      if i = 2 ∨ i = 3 then beBytes h (ofBe x + ofBe y) else xorBytes x y
    (List.range 5).flatMap part ++ xorBytes (slice a (5 * h) 32) (slice b (5 * h) 32)
  else xorBytes a b

/-- The bits of a draw that both units use: a nonce or scalar, or the check blinding with the salt before it (07 Table 07-7). -/
def sharedBits (s : State) (d : Desc) (c : ClassStep) : Nat :=
  let op := Desc.op d
  let (_, n) := s.curveBits c.curve
  if op = 0x0600 ∨ op = 0x0606 then n + 64 else if op = 0x0603 then c.modBits
  else if op = 0x0604 then c.modBits + 8 * c.saltLen else 0

/-- A field of a draw: `len` bits from bit `off` on, the first bit the most significant. -/
def drawField (drawn : Bytes) (off len : Nat) : Nat := ofBe drawn >>> (8 * drawn.length - off - len) % 2 ^ len

/-- The bits of the blinding values of one unit: λ, Z and β, or λ and Z, or λp, λq and ρ (07 R306, Table 07-7). -/
def unitFields (s : State) (d : Desc) (c : ClassStep) : List Nat :=
  let op := Desc.op d
  let (f, n) := s.curveBits c.curve
  if op = 0x0600 then [64, f, n] else if op = 0x0601 then [64, 255] else if op = 0x0602 ∨ op = 0x0606 then [64, f]
  else if 0x0603 ≤ op ∧ op ≤ 0x0605 then [64, 64, c.modBits] else []

/-- Consecutive fields of a draw. -/
def drawFields (drawn : Bytes) : Nat → List Nat → List Nat
  | _, [] => []
  | off, n :: l => drawField drawn off n :: drawFields drawn (off + n) l

/-- The blinding values of unit `u` of a pair (07 R306, Table 07-7). -/
def unitBlind (s : State) (d : Desc) (c : ClassStep) (drawn : Bytes) (u : Nat) : List Nat :=
  let l := unitFields s d c
  drawFields drawn (sharedBits s d c + u * l.sum) l

/-! ### Key generation -/

/-- Whether a prime candidate of half the modulus length is taken: at least √2 · 2^(bits − 1), e prime to it less 1, and a probable prime
by 64 Miller–Rabin rounds (07 R321; FIPS 186-5; log entry 69). -/
def candidateOk (bits e m : Nat) : Bool :=
  decide (2 ^ (2 * bits - 1) ≤ m * m) && Nat.gcd (m - 1) e == 1 &&
    (List.range 64).all fun j => mrRound m (2 + Config.primeBase m j % (m - 3))

/-- The candidates of a draw, made odd. -/
def candidates (modBits : Nat) (drawn : Bytes) : List Nat := (chunks (modBits / 16) drawn).map fun b => ofBe b ||| 1

/-- The primes p and q that candidates give: the first that is taken, and the first after it that is far enough from it (07 R321; FIPS
186-5). -/
def keygenPair (modBits e : Nat) (l : List Nat) : Option (Nat × Nat) :=
  let h := modBits / 2
  match l.dropWhile fun m => !candidateOk h e m with
  | [] => none
  | p :: rest => (rest.find? fun q => candidateOk h e q && decide (2 ^ (h - 100) < p - q + (q - p))).map fun q => (p, q)

/-- Slots of the fixed schedule of one candidate. -/
def candidateSlots (modBits : Nat) : Nat := max 1 (Config.candidateSlots modBits)

/-! ### Sealed results -/

/-- The first share of a key, as its words deliver it (01 R31). -/
def SealedUnit.part0 (u : SealedUnit) : Bytes := readWords u.share0 u.shareSym.1

/-- The second share of a key, as its words deliver it (01 R31). -/
def SealedUnit.part1 (u : SealedUnit) : Bytes := readWords u.share1 u.shareSym.2

/-- What unit `u` of a pair computes of an SS step, from its key shares with its own blinding (07 R297, R306, R307, R311, R318 to R321). -/
def runSs (s : State) (d : Desc) (c : ClassStep) (pubExp : Nat) (src aux drawn : Bytes) (u : SealedUnit) : SealedResult :=
  let op := Desc.op d
  let cv := s.curve c.curve
  let (f, n) := s.curveBytes c.curve
  let nB := c.modBits / 8
  let key := joinKey s d c u.part0 u.part1
  let b := fun i => u.blind.getD i 0
  if op = 0x0600 then
    { out := ecdsaSignBy cv (fun k => cv.mulBlind (b 0) (b 1) k cv.g) (invBlind cv.n (b 2)) n src (ofBe key) (scalarOf cv drawn),
      key := none, bad := false }
  else if op = 0x0601 then
    { out := fitTo 64 (ed25519SignBy (edMulBlind (b 0) (b 1)) (Desc.opx d == 1) key src), key := none, bad := false }
  else if op = 0x0602 then
    let z := match cv.mulBlind (b 0) (b 1) (ofBe key) (some (cv.dec src)) with
      | none => 0
      | some (x, _) => x
    { out := [], key := some (beBytes f z, []), bad := false }
  else if op = 0x0603 ∨ op = 0x0604 then
    { out := beBytes nB (rsaBlind c.modBits key (b 0) (b 1) (b 2) (ofBe (rsaEncoded d c src drawn))), key := none, bad := false }
  else if op = 0x0605 then
    match oaepDecode (Desc.opx d) aux (beBytes nB (rsaBlind c.modBits key (b 0) (b 1) (b 2) (ofBe src))) with
    | none => { out := [], key := none, bad := true }
    | some k => { out := [], key := some (k, []), bad := false }
  else if op = 0x0606 then
    let x := scalarOf cv drawn
    let q := cv.enc (cv.mulBlind (b 0) (b 1) x cv.g)
    { out := q, key := some (beBytes n x, q), bad := false }
  else
    let (p, q) := (keygenPair c.modBits pubExp (candidates c.modBits drawn)).getD (0, 0)
    let h := c.modBits / 16
    let parts := [p, q, inverseMod (p - 1) pubExp, inverseMod (q - 1) pubExp, invMod p q]
    { out := beBytes nB (p * q), key := some (parts.flatMap (beBytes h) ++ beBytes 32 pubExp, beBytes nB (p * q) ++ beBytes 32 pubExp),
      bad := false }

/-- What SS forms for the check of an RSA-CRT signature with the check blinding ρc: s′ = s·ρc mod N and m′ = m·ρc^e mod N, which go to VS
with N and e (07 R313). -/
def crtForm (s : State) (d : Desc) (c : ClassStep) (src drawn sig : Bytes) (u : SealedUnit) : List Nat :=
  let key := joinKey s d c u.part0 u.part1
  let n := rsaModulus c.modBits key
  let e := rsaPart c.modBits key 5
  let rc := 1 + drawField drawn (sharedBits s d c - c.modBits) c.modBits % (n - 1)
  [ofBe sig * rc % n, ofBe (rsaEncoded d c src drawn) * powMod n rc e % n, n, e]

/-- The check of an RSA-CRT signature on VS: s′^e mod N equals m′ (07 R313). -/
def crtCheck (x : List Nat) : Bool := powMod (x.getD 2 0) (x.getD 0 0) (x.getD 3 0) == x.getD 1 0

/-! ### Curve loads -/

/-- Base j of the Miller–Rabin rounds for m: SHA-384 of the record and j, reduced into 2 to m - 2 (06 R286). -/
def mrBase (record : Bytes) (m j : Nat) : Nat := 2 + ofBe (sha384 (record ++ leBytes 1 j)) % (m - 3)

/-- Whether a number passes 64 Miller–Rabin rounds (06 Table 06-9). -/
def mrPrime (record : Bytes) (m : Nat) : Bool :=
  decide (m > 4) && m % 2 == 1 && (List.range 64).all fun j => mrRound m (mrBase record m j)

/-- Header of a curve record: index, fbits, cofactor (06 Table 06-8). -/
def recordIndex (r : Bytes) : Nat := byteAt r 5
/-- fbits of a curve record. -/
def recordFbits (r : Bytes) : Nat := leAt r 6 2
/-- Cofactor of a curve record. -/
def recordH (r : Bytes) : Nat := byteAt r 8

/-- Check 1 of Table 06-9. -/
def recordHeaderOk (r : Bytes) : Bool :=
  slice r 0 4 == [0x54, 0x52, 0x48, 0x4B] && byteAt r 4 == 1 && allZero (slice r 9 7) &&
    decide (160 ≤ recordFbits r ∧ recordFbits r ≤ 576) && decide (1 ≤ recordH r ∧ recordH r ≤ 4) &&
    bitLen (recordCurve r).p == recordFbits r

/-- The outcome of the checks of Table 06-9 from check 2 on: a result code, `0x01` where all pass (06 R286). -/
def curveChecks (r : Bytes) : Nat :=
  let c := recordCurve r
  let h := recordH r
  if !mrPrime r c.p then 0x04
  else if c.a ≥ c.p ∨ c.b ≥ c.p then 0x05
  else if (4 * c.a * c.a * c.a + 27 * c.b * c.b) % c.p = 0 then 0x06
  else if !c.on c.gx c.gy then 0x07
  else if !mrPrime r c.n || (c.mul c.n c.g).isSome then 0x08
  else if ((h * c.n : Nat) - (c.p : Int) - 1) ^ 2 > 4 * c.p then 0x09
  else if c.n = c.p then 0x0A
  else if (List.range 100).any (fun t => powMod c.n c.p (t + 1) == 1 % c.n) then 0x0B
  else 0x01

/-- A load that ends: its entry and TRH_VS_LOADSTAT (06 R286 to R288). -/
def endCurveLoad (l : CurveLoad) (code : Nat) (s : State) : State :=
  let i := recordIndex l.record
  s.updVs fun v =>
    let put := fun (e : CurveEntry) => if h : i < 32 then v.curves.set i e else v.curves
    { v with lastIndex := BitVec.ofNat 5 i, lastResult := BitVec.ofNat 8 code,
             curves := if code = 1 then
                 put { state := 2, origin := l.origin, h := recordH l.record, fbits := recordFbits l.record, record := l.record,
                       recordSym := symbolsOf l.record }
               else if (v.curves.toList.getD i CurveEntry.reset).state = 1 then put CurveEntry.reset else v.curves }

end Sys2Proof.Machine
end

