-- ==== Sys2Proof/Machine/KeyOps.lean ====
section
/-! DEFINITION. Key custody: derivation, attributes, handles, the cache, the record store, invocation counters
(09 R364 to R407, 04 R186 to R194). -/
namespace Sys2Proof.Machine

/-- KDF in counter mode with AES-256-CMAC, `n` bytes of output (09 R364). -/
def kdf (k label ctx : Bytes) (n : Nat) : Bytes :=
  ((List.range (ceilDiv n 16)).flatMap fun i =>
    aesCmac k (beBytes 4 (i + 1) ++ fitTo 32 label ++ [0] ++ ctx ++ beBytes 4 (8 * n))).take n

/-- Context of a node derivation (09 Table 09-1). -/
def nodeCtx (tenant depth alg usage : Nat) (exp : Bool) : Bytes :=
  leBytes 1 tenant ++ leBytes 1 depth ++ beBytes 2 alg ++ leBytes 1 usage ++ [if exp then 1 else 0, 0, 0]

/-- Context of a system node under K_R or K_F: tenant and depth are 0xFF (09 R369, Table 09-1); its usage is that of a derivation
key for one, and else a free value, which the spec does not state (log entry 13). -/
def sysCtx (alg : Nat) : Bytes := nodeCtx 0xFF 0xFF alg (if alg = 6 then 4 else Config.systemUsage alg) false

/-- Device secret FDS: OTP rows 2 to 5, byte 8j in the low byte of row 2 + j (09 R365, 18 Table 18-2). -/
def State.fds (s : State) : Bytes := (List.range 4).flatMap fun i => leBytes 8 (s.otp.toList.getD (2 + i) 0).toNat

/-- K_R from a battery-backed key (09 R365). -/
def deriveRoot (bbk fds : Bytes) : Bytes := kdf bbk (ascii "TRH-ROOT") fds 32
/-- K_F (09 R366). -/
def deriveFusedRoot (fds : Bytes) : Bytes := kdf fds (ascii "TRH-FUSEROOT") (sysCtx 6) 32
/-- K_T(t) (09 R368). -/
def tenantRoot (kr : Bytes) (t : Nat) : Bytes := kdf kr (ascii "TRH-TENANT") (nodeCtx t 1 6 4 false) 32
/-- Storage key of generation g (09 Table 09-2). -/
def storageKey (kr : Bytes) (g : Nat) : Bytes := kdf kr (fitTo 28 (ascii "TRH-STORE") ++ beBytes 4 g) (sysCtx 3) 32
/-- Context of a system node under a tenant's root: its tenant, and depth 0xFF (09 Table 09-1). -/
def tenantCtx (t alg : Nat) : Bytes := nodeCtx t 0xFF alg (Config.systemUsage alg) false

/-- Record hash key (09 Table 09-2). -/
def recordHashKey (kr : Bytes) : Bytes := kdf kr (ascii "TRH-RHASH") (sysCtx 3) 32
/-- Digest state key of a tenant, from its root (09 Table 09-2). -/
def digestStateKey (kt : Bytes) (t : Nat) : Bytes := kdf kt (ascii "TRH-DSTATE") (tenantCtx t 3) 32
/-- Persistent store key of a tenant, from its root (09 Table 09-2). -/
def persistKey (kt : Bytes) (t : Nat) : Bytes := kdf kt (ascii "TRH-PSTORE") (tenantCtx t 3) 32
/-- The 448 bits from which SS reduces the device identity key (09 Table 09-2). -/
def deviceIdBits (kf : Bytes) : Bytes := kdf kf (ascii "TRH-DEVID") (sysCtx 0x0101) 56
/-- Device identity key d on P-384, as SS reduces it (09 Table 09-2). -/
def deviceIdKey (bits : Bytes) : Nat := ofBe bits % (curveP384.n - 1) + 1

/-! ### The system partition -/

/-- A key of the system partition with the check symbols that its derivation gives it (01 R30). -/
def systemKey (n : SysNode) (t : Nat) (v : Bytes) : SystemKey := { node := n, tenant := t, value := v, sym := symbolsOf v }

/-- System nodes of a tenant: its root and that root's two children (09 Table 09-2). -/
def tenantSystem (kr : Bytes) (t : Nat) : List SystemKey :=
  let kt := tenantRoot kr t
  [systemKey .tenantRoot t kt, systemKey .digestState t (digestStateKey kt t), systemKey .persistent t (persistKey kt t)]

/-- A system node under K_R or K_F. -/
def rootSystem (n : SysNode) (v : Bytes) : SystemKey := systemKey n 0xFF v

/-- What the system partition holds: the tenant roots and the nodes of Table 09-2 under K_R while the root is READY, during a rotation
the next storage key too, and the device identity key under K_F (09 Table 09-7, R402, R405). -/
def systemKeys (k : Custody) : List SystemKey :=
  (match (if k.root = 1 then k.kr else none) with
   | none => []
   | some kr =>
     let gens := if k.rot = 0 then [k.gen.toNat] else [k.gen.toNat, k.gen.toNat + 1]
     (List.range 64).flatMap (tenantSystem kr) ++ gens.map (fun g => rootSystem (.storage g) (storageKey kr g)) ++
       [rootSystem .recordHash (recordHashKey kr)]) ++
  (match k.kf with
   | none => []
   | some kf => [rootSystem .deviceId (deviceIdBits kf)])

/-- The system keys are loaded (09 R405). -/
def loadSystem (s : State) : State := s.updKs fun k => { k with system := systemKeys k }

/-- A key of the system partition: that of a tenant, or with 0xFF one under K_R or K_F; none where the partition lacks it
(09 Table 09-7). -/
def sysKey? (s : State) (n : SysNode) (t : Nat) : Option Bytes :=
  (s.ks.system.find? fun x => x.node == n && x.tenant = t).map fun x => readWords x.value x.sym

/-- The value of a key of the system partition. -/
def sysKey (s : State) (n : SysNode) (t : Nat) : Bytes := (sysKey? s n t).getD []

/-- The digest state key of a tenant as the partition holds it (05 R244). -/
def stateKeyOf (s : State) (t : Nat) : Bytes := sysKey s .digestState t

/-- Whether the root of this device is there: READY, with K_R in the root registers (09 R401, R405). -/
def rootHere (s : State) : Bool := s.ks.root == 1 && s.ks.kr.isSome

/-! ### Algorithms -/

/-- Value bytes of a derivable algorithm; an HMAC key derived has the digest length (09 Table 09-3, R370). -/
def algBytes (a : Nat) : Nat :=
  if a = 1 then 16 else if a = 2 then 24 else if a = 3 ∨ a = 4 ∨ a = 6 then 32 else if a = 5 then 64
  else if a = 0x10 ∨ a = 0x18 ∨ a = 0x34 then 16 else if a = 0x11 ∨ a = 0x19 then 24
  else if a = 0x1A ∨ a = 0x30 then 16 else if a = 0x1B ∨ a = 0x31 then 24 else if a = 0x1C ∨ a = 0x32 then 32
  else if 0x20 ≤ a ∧ a ≤ 0x24 then digestLen (a - 0x20) else 0

/-- Whether an algorithm is derivable (09 Table 09-3). -/
def algDerivable (a : Nat) : Bool := algBytes a != 0
/-- Whether a key is TDEA, a TDEA PIN key or a TDEA base derivation key, whose bytes have odd parity (09 R370). -/
def algParity (a : Nat) : Bool := [0x10, 0x11, 0x18, 0x19, 0x34].contains a
/-- Whether a key is an HMAC key. -/
def algHmac (a : Nat) : Bool := decide (0x20 ≤ a ∧ a ≤ 0x24)
/-- Whether a key is a public key. -/
def algPublic (a : Nat) : Bool := decide (0x140 ≤ a ∧ a ≤ 0x15F) || a == 0x201
/-- Whether SECRET is taken from the node or template: for the public keys 0x0140 to 0x0147 and 0x0201; it is 1 for every other algorithm
(09 R375). -/
def algOpen (a : Nat) : Bool := decide (0x140 ≤ a ∧ a ≤ 0x147) || a == 0x201
/-- The SECRET flag of a key whose node or template asks for one (09 R375). -/
def secretFlag (a : Nat) (asked : Bool) : Bool := !algOpen a || asked
/-- Whether a key is an asymmetric key with a KCV of method P. -/
def algAsym (a : Nat) : Bool := decide (0x100 ≤ a ∧ a ≤ 0x15F) || a == 0x200 || a == 0x201
/-- Whether an algorithm has a KCV method (09 Table 09-3). -/
def algHasKcv (a : Nat) : Bool := a != 6 && a != 0x300
/-- AES keys of the plain kind. -/
def algAes (a : Nat) : Bool := decide (1 ≤ a ∧ a ≤ 3)

/-- A byte brought to odd parity. -/
def oddParity (b : Byte) : Byte :=
  let hi := b &&& 0xFE
  if onesIn [hi] % 2 = 0 then hi ||| 1 else hi

/-- A key value in the form its algorithm uses (09 R370). -/
def keyForm (a : Nat) (v : Bytes) : Bytes := if algParity a then v.map oddParity else v

/-- Key check value (09 R374). -/
def keyKcv (a : Nat) (v pub : Bytes) : Bytes :=
  if !algHasKcv a then [0, 0, 0]
  else if algHmac a then (hmacOf (a - 0x20) v (fillBytes 16 0)).take 3
  else if algAsym a then (sha256 (if a = 0x147 then v.take 32 else if algPublic a then v else pub)).take 3
  else if algParity a || a == 0x11 then (tdeaBlock true v (fillBytes 8 0)).take 3
  else (aesBlock true (if a = 4 ∨ a = 5 then v.take (v.length / 2) else v) (fillBytes 16 0)).take 3

/-- A KCV as the register holds it: byte 0 in bits 23 to 16. -/
def kcvBits (b : Bytes) : BitVec 24 := BitVec.ofNat 24 (ofBe (b.take 3))

/-- The 64-byte cache slots a value takes (09 Table 09-3). -/
def slotsFor (n : Nat) : Nat := max 1 (ceilDiv n 64)

/-- Value bytes a template's key has: fixed by the algorithm, the template's size for HMAC, the curve, or the modulus
(09 Table 09-3). -/
def templateBytes (s : State) (a size : Nat) : Nat :=
  if algHmac a then size
  else if algBytes a ≠ 0 then algBytes a
  else if a = 0x107 ∨ a = 0x147 then 64
  else if 0x100 ≤ a ∧ a < 0x140 then (s.curveBytes (a - 0x100)).2
  else if 0x140 ≤ a ∧ a < 0x160 then 1 + 2 * (s.curveBytes (a - 0x140)).1
  else if a = 0x200 then 5 * size / 16 + 32
  else if a = 0x201 then size / 8 + 32 else 0

/-- Strength in bits (09 R395). -/
def keyStrength (s : State) (a len size : Nat) : Nat :=
  if a = 0x10 ∨ a = 0x18 ∨ a = 0x34 then 80 else if a = 0x11 ∨ a = 0x19 then 112
  else if algHmac a then min (8 * len) 256
  else if a = 0x107 ∨ a = 0x147 then 128
  else if 0x100 ≤ a ∧ a < 0x160 then (s.curveBits (a % 0x40)).2 / 2
  else if a = 0x200 ∨ a = 0x201 then (if size < 3072 then 112 else 128)
  else if a = 4 ∨ a = 5 then 4 * len else 8 * len

/-! ### Handles -/

/-- Whether a handle names a record (09 R372). -/
def isRecordHandle (h : Nat) : Bool := h.testBit 19

/-- The template whose range holds a record handle of a tenant (09 R389). -/
def templateOf (s : State) (t h : Nat) : Option Template :=
  s.image.templates.find? fun x => x.tenant = t && decide (x.first ≤ h ∧ h < x.first + x.count)

/-- Record number of a handle, none for a cache-only template (09 R378). -/
def recordNo (s : State) (t h : Nat) : Option Nat :=
  (templateOf s t h).bind fun x => if x.recno = 0xFFFFFFFF ∨ x.cacheOnly then none else some (x.recno + (h - x.first))

/-- Global index and entry of a configured node of a tenant. -/
def nodeOf (s : State) (t h : Nat) : Option (Nat × Node) :=
  (s.image.nodes.zipIdx.find? fun p => p.1.tenant = t && p.1.handle.toNat = h).map fun p => (p.2, p.1)

/-- The active key-store area (09 R385). -/
def State.store (s : State) : StoreArea := if s.nvm.ksArea then s.nvm.storeB else s.nvm.storeA

/-- Update the active key-store area. -/
def State.updStore (s : State) (f : StoreArea → StoreArea) : State :=
  s.updNvm fun n => if n.ksArea then { n with storeB := f n.storeB } else { n with storeA := f n.storeA }

/-- Update the other key-store area, into which a rotation copies. -/
def State.updOtherStore (s : State) (f : StoreArea → StoreArea) : State :=
  s.updNvm fun n => if n.ksArea then { n with storeA := f n.storeA } else { n with storeB := f n.storeB }

/-! ### Stored form -/

/-- CRC-16 (CCITT, initial value 0xFFFF) over a byte string (09 R385). -/
def crc16 (b : Bytes) : Nat :=
  b.foldl (fun c x =>
    (List.range 8).foldl (fun c _ => if c ≥ 0x8000 then (2 * c % 0x10000) ^^^ 0x1021 else 2 * c) (c ^^^ (x.toNat * 256))) 0xFFFF

/-- CRC-32 of IEEE 802.3 over a byte string (09 R404). -/
def crc32 (b : Bytes) : BitVec 32 :=
  ~~~ (b.foldl (fun (c : BitVec 32) x =>
    (List.range 8).foldl (fun c _ => if c.getLsbD 0 then (c >>> 1) ^^^ 0xEDB88320 else c >>> 1) (c ^^^ x.zeroExtend 32)) 0xFFFFFFFF)

/-- Bytes 0 to 47 of a record (09 Table 09-9). -/
def recordHead (r : StoreRec) : Bytes :=
  let flag := fun (b : Bool) (n : Nat) => if b then n else 0
  ascii "TRHR" ++ [1] ++ leBytes 1 r.tenant ++ leBytes 2 r.alg.toNat ++ leBytes 4 r.handle.toNat ++ leBytes 1 r.usage.toNat ++
    leBytes 1 (flag r.exp 1 + flag r.secret 2 + flag r.tomb 4) ++ leBytes 2 r.value.length ++ leBytes 8 r.seq.toNat ++
    leBytes 4 r.gen.toNat ++ beBytes 3 r.kcv.toNat ++ [0] ++ fitTo 12 r.iv ++ fillBytes 4 0

/-- Record hash: the leftmost 16 bytes of the CMAC over bytes 0 to 31 and the clear value (09 Table 09-9). -/
def recordHash (s : State) (r : StoreRec) : Bytes :=
  (aesCmac (sysKey s .recordHash 0xFF) ((recordHead r).take 32 ++ r.value)).take 16

/-- A record with its hash (09 R386). -/
def hashed (s : State) (r : StoreRec) : StoreRec := { r with hash := recordHash s r }

/-- Whether a record that has been read and unwrapped verifies: its hash (09 R384). -/
def recordGood (s : State) (r : StoreRec) : Bool := r.hash == recordHash s r

/-- Bytes of the heap that a record takes (09 R386). -/
def recordSize (r : StoreRec) : Nat := 64 * ceilDiv (80 + r.value.length) 64

/-- A record as it stands in the heap, its value wrapped under the storage key of its generation (09 R386). -/
def recordBytes (s : State) (r : StoreRec) : Bytes :=
  let h := recordHead r
  fitTo (recordSize r) (h ++ gcmSeal (sysKey s (.storage r.gen.toNat) 0xFF) (fitTo 12 r.iv) h r.value 16 ++ r.hash)

/-- The CRC-16 of a record's index entry: over the offset and the record number (09 R385). -/
def indexCrc (r : StoreRec) : BitVec 16 := BitVec.ofNat 16 (crc16 (leBytes 4 r.off ++ leBytes 3 r.recno))

/-- Index entry of a record as it is stored (09 R385). -/
def indexEntry (r : StoreRec) : Bytes := leBytes 4 r.off ++ leBytes 2 r.crc.toNat ++ [0xFF, 0xFF]

/-- Whether a record's index entry verifies; one that does not is treated as vacant (09 R385). -/
def indexGood (r : StoreRec) : Bool := r.crc == indexCrc r

/-- The live record of a record number in an area (09 R385, R389). -/
def StoreArea.live (a : StoreArea) (r : Nat) : Option StoreRec := a.recs.find? fun x => x.recno = r && !x.tomb && indexGood x

/-- A record appended to the heap: it stands at the next offset, and no index entry names it yet (09 R387, R392). -/
def StoreArea.append (a : StoreArea) (r : StoreRec) : StoreArea :=
  { a with shadows := a.shadows ++ [{ r with off := a.heapUsed / 64 }], heapUsed := a.heapUsed + recordSize r }

/-- The index entry of a record that stands in the heap is written, and names it alone (09 R385, R392). -/
def StoreArea.index (a : StoreArea) (r : StoreRec) : StoreArea :=
  { a with recs := a.recs.filter (fun x => x.recno ≠ r.recno) ++ [{ r with crc := indexCrc r }],
           shadows := a.shadows.filter fun x => x.off ≠ r.off }

/-- A record written into an area: appended to the heap, and its index entry written (09 R385, R387). -/
def StoreArea.put (a : StoreArea) (r : StoreRec) : StoreArea := (a.append r).index { r with off := a.heapUsed / 64 }

/-- A record wrapped anew under the next generation and written into the other area; its IV is drawn (09 R386, R402). -/
def copyRewrapped (r : StoreRec) (s : State) : State :=
  let r' := hashed s { r with gen := s.ks.gen + 1, iv := drawnBytes s.drawn 12 }
  ((s.updEn (takeBuf 12)).updOtherStore fun a => a.put r').draw 12

/-! ### The boot block's records -/

/-- A record is appended in the next free slot of a sector (16 R578). -/
def bootAppend (i : Fin 8) (b : Bytes) (n : Nvm) : Nvm := { n with boot := n.boot.set i (n.boot[i] ++ [b]) }

/-- A sector with fewer than 16 of its 1,024 slots free is erased; the other copy holds the current value then (16 R578). -/
def bootTrim (i : Fin 8) (n : Nvm) : Nvm := if n.boot[i].length > 1008 then { n with boot := n.boot.set i [] } else n

/-- Sector of a copy of a record: 0 image pointer, 1 key-store pointer, 2 IV epoch, 3 replacement journal (16 Table 16-3). -/
def bootSector (k : Fin 4) (copy : Bool) : Fin 8 := ⟨2 * k.val + copy.toNat, by cases copy <;> simp <;> omega⟩

/-- One copy of a record is written: the other sector may be erased after it (16 R578). -/
def bootPut (k : Fin 4) (copy : Bool) (b : Bytes) (n : Nvm) : Nvm :=
  bootTrim (bootSector k !copy) (bootAppend (bootSector k copy) b n)

/-- A record is written in copy 0, then in copy 1 (16 R578). -/
def bootWrite (k : Fin 4) (b : Bytes) (n : Nvm) : Nvm := bootPut k true b (bootPut k false b n)

/-- A record's fields and the CRC-32 over them (16 R578). -/
def withCrc (b : Bytes) : Bytes := b ++ leBytes 4 (crc32 b).toNat

/-- Magic of a record (09 R404; 16 Tables 16-3, 16-4). -/
def bootMagic (k : Fin 4) : Bytes := ascii (match k with | 0 => "TRHI" | 1 => "TRHP" | 2 => "TRHE" | 3 => "TRHJ")

/-- Bytes of a record that its CRC-32 follows: those before it (16 Tables 16-3, 16-4). -/
def bootFields (k : Fin 4) (b : Bytes) : Nat := if k = 0 then 24 else b.length - 4

/-- Whether a slot holds a valid record (16 R578). -/
def bootValid (k : Fin 4) (b : Bytes) : Bool :=
  slice b 0 4 == bootMagic k && leAt b (bootFields k b) 4 == (crc32 (b.take (bootFields k b))).toNat

/-- Sequence of a record (16 R578). -/
def bootSeq (k : Fin 4) (b : Bytes) : Nat := leAt b (if k = 0 then 8 else 4) 8

/-- The record in force: the valid slot of the highest sequence across both copies (16 R578). -/
def bootFound (k : Fin 4) (n : Nvm) : Option Bytes :=
  ((n.boot[bootSector k false] ++ n.boot[bootSector k true]).filter (bootValid k)).foldl (fun m b =>
    match m with
    | some x => if bootSeq k x < bootSeq k b then some b else m
    | none => some b) none

/-- Sequence of the next record (16 R578). -/
def bootNext (k : Fin 4) (n : Nvm) : Nat := ((bootFound k n).map (bootSeq k)).getD 0 + 1

/-- An image pointer record (16 Table 16-4). -/
def imgPtrRecord (p : ImagePtr) : Bytes :=
  fitTo 64 (withCrc (bootMagic 0 ++ [1] ++ leBytes 1 (if p.area then 1 else 0) ++ leBytes 2 0 ++ leBytes 8 p.seq ++
    leBytes 4 p.imgSeq.toNat ++ leBytes 4 p.length))

/-- The image pointer is written (16 R578, R590 to R592). -/
def writeImgPtr (p : ImagePtr) (n : Nvm) : Nvm := bootWrite 0 (imgPtrRecord p) { n with imgPtr := p }

/-- The IV epoch is written (16 R578, R579). -/
def putEpoch (e : Nat) (n : Nvm) : Nvm :=
  bootWrite 2 (withCrc (bootMagic 2 ++ leBytes 8 (bootNext 2 n) ++ leBytes 8 e)) { n with epoch := e }

/-- The boot block is read: the image pointer and the epoch that it holds are in force (16 R578, Table 16-13). -/
def takeBoot (n : Nvm) : Nvm :=
  let n := match bootFound 0 n with
    | none => n
    | some b => { n with imgPtr := { area := byteAt b 5 == 1, seq := leAt b 8 8, imgSeq := BitVec.ofNat 32 (leAt b 16 4), length := leAt b 20 4 } }
  match bootFound 2 n with
  | none => n
  | some b => { n with epoch := leAt b 12 8 }

/-- The fields of a key-store pointer, over which its CRC-32 runs: little-endian (09 R404; 16 R578; log entry 92). -/
def KsPtr.fields (p : KsPtr) : Bytes :=
  p.magic ++ leBytes 8 p.seq ++ leBytes 1 (if p.area then 1 else 0) ++ leBytes 4 p.gen.toNat ++ leBytes 8 p.sseq.toNat

/-- Whether a copy of the key-store pointer is valid (09 R404). -/
def KsPtr.ok (p : KsPtr) : Bool := p.magic == ascii "TRHP" && p.crc == crc32 p.fields

/-- A copy of the key-store pointer with its magic and CRC-32 (09 R404). -/
def ksPtr (seq : Nat) (area : Bool) (gen : BitVec 32) (sseq : BitVec 64) : KsPtr :=
  let p : KsPtr := { magic := ascii "TRHP", seq := seq, area := area, gen := gen, sseq := sseq, crc := 0 }
  { p with crc := crc32 p.fields }

/-- The copy in force at a start: the valid one of the higher sequence (09 R404). -/
def ptrInForce (n : Nvm) : Option KsPtr :=
  if n.ksPtr0.ok && n.ksPtr1.ok then (if n.ksPtr1.seq > n.ksPtr0.seq then some n.ksPtr1 else some n.ksPtr0)
  else if n.ksPtr0.ok then some n.ksPtr0 else if n.ksPtr1.ok then some n.ksPtr1 else none

/-- The pointer that a start finds is taken; where no copy is valid the area that was in force stays so (09 R404; log entry 92). -/
def takePointer (n : Nvm) : Nvm :=
  match ptrInForce n with
  | none => n
  | some p => { n with ksPtrSeq := p.seq, ksArea := p.area, ksGen := p.gen, ksSeq := p.sseq }

/-- The open replacement journal, as either copy holds it (09 R392; 16 R578). -/
def Nvm.journal (n : Nvm) : Option Journal := n.journal0 <|> n.journal1

/-- A replacement journal record, or the record of a cleared journal, whose four fields are all ones (09 R392; 16 Table 16-3; log
entry 92). -/
def journalRecord (seq : Nat) (j : Option Journal) : Bytes :=
  withCrc (bootMagic 3 ++ leBytes 8 seq ++ match j with
    | some j => leBytes 4 j.recno ++ leBytes 4 j.oldOff ++ leBytes 4 j.newOff ++ leBytes 8 j.seq.toNat
    | none => fillBytes 20 0xFF)

/-- Both copies of the replacement journal are written, or cleared (09 R392; 16 R578). -/
def Nvm.setJournal (j : Option Journal) (n : Nvm) : Nvm :=
  bootWrite 3 (journalRecord (bootNext 3 n) j) { n with journal0 := j, journal1 := j }

/-- One copy of the key-store pointer is written (09 R404; 16 R578). -/
def putKsPtr (copy : Bool) (p : KsPtr) (n : Nvm) : Nvm :=
  bootPut 1 copy (p.fields ++ leBytes 4 p.crc.toNat) (if copy then { n with ksPtr1 := p } else { n with ksPtr0 := p })

/-- The shadow that a journal names, in an area (09 R392). -/
def StoreArea.shadow (a : StoreArea) (j : Journal) : Option StoreRec :=
  a.shadows.find? fun r => r.recno = j.recno && r.off = j.newOff

/-- The live record of a handle. -/
def recordOf (s : State) (t h : Nat) : Option StoreRec := (recordNo s t h).bind s.store.live

/-- Slot of the cache that holds a handle. -/
def cached (s : State) (t h : Nat) : Option CacheSlot :=
  s.ks.cache.find? fun c => c.tenant = t && c.handle.toNat = h && !c.old

/-- Slot that an admitted request works with: the one it pins, which may hold a value that a cut-over replaced
(09 R382, R400). -/
def cachedFor (s : State) (rid t h : Nat) : Option CacheSlot :=
  (s.ks.cache.find? fun c => c.tenant = t && c.handle.toNat = h && c.pins.contains rid).or (cached s t h)

/-- Bytes of clear key data that an export of a key carries, and the length of its block, by its cached key and protection key:
the length of the largest key of its family or size counts (09 R398). -/
def largestKey (c : CacheSlot) : Nat :=
  let a := c.alg.toNat
  if algHmac a then 128 else if algParity a then 24
  else if algAsym a then largestPrivate a c.value.length c.value c.pub else 32

/-- The key that a step exports and its protection key, as the cache holds them. -/
def exportKeys (s : State) (rid t : Nat) (d : Desc) : Option (CacheSlot × CacheSlot) :=
  match cachedFor s rid t (Desc.keyA d), cachedFor s rid t (Desc.keyB d) with
  | some k, some w => some (k, w)
  | _, _ => none

/-- Length of the key block of an export (09 Table 09-10). -/
def exportLen (s : State) (rid t : Nat) (d : Desc) : Nat :=
  match exportKeys s rid t d with
  | some (k, w) => keyBlockLen (algAes w.alg.toNat) (largestKey k)
  | none => Desc.dstMax d

/-- Padding bytes that an export draws (09 R398). -/
def exportPad (s : State) (rid t : Nat) (d : Desc) : Nat :=
  match exportKeys s rid t d with
  | some (k, w) =>
    let n := if algAsym k.alg.toNat then (encodePrivate k.alg.toNat k.value k.pub).length else k.value.length
    keyBlockData (algAes w.alg.toNat) (largestKey k) - 2 - n
  | none => 0

/-- First 8 bytes of SHA-256 of a node's label (09 R399). -/
def labelDigest (n : Node) : Bytes := (sha256 n.label).take 8

/-- Whether a node is on the invalidation list with its present label (09 R400). -/
def nodeListed (s : State) (idx : Nat) (n : Node) : Bool := s.store.inval.contains (idx, labelDigest n)

/-- Whether a handle's invalidation is in force: its own or, for a node, an ancestor's (09 R399). `fuel` bounds the
depth of the tree. -/
def nodeInvalid (s : State) : Nat → Nat → Bool
  | 0, _ => false
  | fuel + 1, idx =>
    match s.image.nodes[idx]? with
    | none => false
    | some n =>
      s.ks.invalid.contains (n.tenant, n.handle) || (nodeListed s idx n && !s.ks.invalNext.contains (n.tenant, n.handle)) ||
        (n.parent != 0xFFFFFFFF && nodeInvalid s fuel n.parent)

/-- Whether a node has children (09 R368). -/
def isInterior (s : State) (idx : Nat) : Bool := s.image.nodes.any fun n => n.parent = idx

/-- Key of the configured node with a global index (09 R368, R370); `fuel` bounds the depth. -/
def nodeKey (s : State) (kr : Bytes) : Nat → Nat → Bytes
  | 0, _ => []
  | fuel + 1, idx =>
    match s.image.nodes[idx]? with
    | none => []
    | some n =>
      let parent := if n.parent = 0xFFFFFFFF then tenantRoot kr n.tenant else nodeKey s kr fuel n.parent
      let a := n.alg.toNat
      keyForm a (kdf parent n.label (nodeCtx n.tenant n.depth a n.usage.toNat n.exp) (algBytes a))

/-- Cache slot of a node derived now. -/
def nodeSlot (s : State) (idx : Nat) (n : Node) (part : Partition) (plat avail : Nat) : CacheSlot :=
  let v := nodeKey s (s.ks.kr.getD []) 8 idx
  { CacheSlot.reset with tenant := n.tenant, handle := n.handle, alg := n.alg, usage := n.usage, exp := n.exp,
                         secret := secretFlag n.alg.toNat n.secret, part := part, value := v, kcv := kcvBits (keyKcv n.alg.toNat v []),
                         avail := avail, plat := plat, sym := symbolsOf v }

/-- Cache slot of a stored record. -/
def recordSlot (r : StoreRec) (part : Partition) (avail : Nat) : CacheSlot :=
  { CacheSlot.reset with tenant := r.tenant, handle := r.handle, alg := r.alg, usage := r.usage, exp := r.exp,
                         secret := r.secret, part := part, value := r.value, kcv := r.kcv, pub := r.pub, avail := avail,
                         sym := symbolsOf r.value }

/-- What check 4a and 4b know of a key (09 R382). -/
structure KeyInfo where
  alg : Nat
  usage : Nat
  exp : Bool
  secret : Bool
  value : Bytes
  pub : Bytes
  /-- a resident key has an invocation counter if it is an AES key -/
  resident : Bool
  interior : Bool
  /-- a node or record that is not in the cache, or whose hit counts as a miss -/
  miss : Bool
deriving DecidableEq, Repr

/-- Key information of a cache slot. -/
def slotInfo (c : CacheSlot) (interior miss : Bool) : KeyInfo :=
  { alg := c.alg.toNat, usage := c.usage.toNat, exp := c.exp, secret := c.secret, value := c.value, pub := c.pub,
    resident := c.part == .resident, interior := interior, miss := miss }

/-- Slots that a partition of the pool or of a platform uses. -/
def slotsIn (s : State) (sel : CacheSlot → Bool) : Nat :=
  ((s.ks.cache.filter sel).map fun c => slotsFor c.value.length).sum

/-- Cache slots that a missed key of a tenant will take (09 Table 09-3, R382). -/
def missSize (s : State) (t h : Nat) : Nat :=
  slotsFor (if isRecordHandle h then ((recordOf s t h).map fun r => r.value.length).getD 0
    else ((nodeOf s t h).map fun p => algBytes p.2.alg.toNat).getD 0)

/-- Slots that a request has taken at its admission for keys that are still to come (09 R382). -/
def slotsTaken (s : State) (r : Request) : Nat := (r.misses.map fun h => missSize s r.tenant h.toNat).sum

/-- Slots of the pool that are taken for keys still to come: those of freight and over-rate requests (09 R382). -/
def poolTaken (s : State) : Nat := ((s.reqs.filter fun r => r.rate != .inRate).map (slotsTaken s)).sum

/-- Slots of a platform's miss share in use: copies that hold a key, and slots taken for keys still to come (09 Table 09-7, R382). -/
def missUsed (s : State) (p : Nat) : Nat :=
  slotsIn s (fun c => c.part == .miss && c.plat = p) + ((s.reqs.filter fun r => r.plat = p && r.rate == .inRate).map (slotsTaken s)).sum

/-- Slots of a platform's miss share (09 R381). -/
def missShare (s : State) (p : Nat) : Nat := ((s.image.shares.find? fun x => x.plat = p).getD ShareEntry.reset).miss

/-- Whether an occupied record is being replaced: the old record stays in force until its index entry is written
(09 R392). -/
def replacing (s : State) (t h : Nat) : Bool :=
  (s.ks.commits.any fun c => c.replace && c.record.tenant = t && c.record.handle.toNat = h) ||
    ((s.page (tenantFin t)).ke.session.any fun x => x.replace && x.handle.toNat = h) ||
    (s.reqs.any fun r => r.tenant = t && r.descs.any fun d =>
      Desc.op d == 0x0700 && Desc.opxF d 7 1 == 1 && Desc.keyB d == h)

/-- Check 4a for one handle (09 R382, R399, R405): what it resolves to, none where it fails. -/
def resolve (s : State) (pl : PlatEntry) (t h : Nat) : Option KeyInfo :=
  let bh := BitVec.ofNat 20 h
  if !rootHere s ∨ s.ks.invalid.contains (t, bh) ∨ (s.ks.pendingH.contains (t, bh) ∧ ¬ replacing s t h) ∨ s.ks.lost.contains (t, bh) then none
  else if isRecordHandle h then
    if (templateOf s t h).isNone then none
    else match cached s t h with
    | some c =>
      if c.part == .resident || c.part == .receiving || pl.kind == 2 then some (slotInfo c false false) else none
    | none =>
      if pl.kind = 2 then (recordOf s t h).map fun r => slotInfo (recordSlot r .pool 0) false true else none
  else
    match nodeOf s t h with
    | none => none
    | some (idx, n) =>
      if nodeInvalid s 8 idx then none
      else
        match cached s t h with
        | some c =>
          if c.part == .resident then some (slotInfo c (isInterior s idx) false)
          else if pl.kmiss then some (slotInfo c (isInterior s idx) true) else none
        | none => if pl.kmiss then some (slotInfo (nodeSlot s idx n .miss 0 0) (isInterior s idx) true) else none

/-- Whether a handle of a step has been invalidated before its transfer, or its key was lost to an uncorrectable word and
is not back yet (09 R399; 12 Table 12-7). -/
def invalidated (s : State) (t h : Nat) : Bool :=
  h != 0xFFFFFFFF &&
    (s.ks.invalid.contains (t, BitVec.ofNat 20 h) || s.ks.lost.contains (t, BitVec.ofNat 20 h) ||
      (match nodeOf s t h with
       | some (i, _) => !isRecordHandle h && nodeInvalid s 8 i
       | none => false))

/-! ### The cache -/

/-- Evict pool copies, least recently resolved first, until the pool has `need` slots beside what it holds and what is taken for keys
still to come; `fuel` bounds the evictions (09 Table 09-7, R382). -/
def evictFor (need : Nat) : Nat → State → State
  | 0, s => s
  | fuel + 1, s =>
    if slotsIn s (fun c => c.part == .pool) + poolTaken s + need ≤ s.image.poolSlots then s
    else
      match (sortBy CacheSlot.lastUse (s.ks.cache.filter fun c => c.part == .pool && c.pins.isEmpty)).head? with
      | none => s
      | some v =>
        evictFor need fuel
          (s.updKs fun k =>
            { k with cache := k.cache.filter fun c =>
                       !(c.part == .pool && c.pins.isEmpty && c.tenant = v.tenant && c.handle = v.handle),
                     evict := satInc 0xFFFF k.evict })

/-- Put a slot into the cache, replacing one of the same key; a pool copy evicts what it must, and is zeroised when no
room can be made (09 R383). -/
def cachePut (c : CacheSlot) (s : State) : State :=
  let s := s.updKs fun k =>
    { k with cache := k.cache.filter fun x => x.old || !x.pins.isEmpty || !(x.tenant = c.tenant && x.handle = c.handle) }
  if c.part == .pool then
    let n := slotsFor c.value.length
    let s := evictFor n s.ks.cache.length s
    if slotsIn s (fun c => c.part == .pool) + poolTaken s + n ≤ s.image.poolSlots then
      s.updKs fun k => { k with cache := k.cache ++ [c] }
    else s
  else s.updKs fun k => { k with cache := k.cache ++ [c] }

/-- Pin the slot of a resolved handle for a request, and mark it as the latest resolved (09 R382). -/
def pinSlot (rid t h : Nat) (s : State) : State :=
  s.updKs fun k =>
    { k with useSeq := k.useSeq + 1,
             cache := k.cache.map fun c =>
               if c.tenant = t ∧ c.handle.toNat = h ∧ ¬ c.old then { c with pins := addNew rid c.pins, lastUse := k.useSeq } else c }

/-- A request's last transfer is made or it ends: its pins go, miss slots move to the pool, and copies of invalidated
handles that nobody pins are zeroised (09 R382, R383, R399). -/
def unpin (rid : Nat) (s : State) : State :=
  let mine := s.ks.cache.filter fun c => c.pins.contains rid
  let s := s.updKs fun k => { k with cache := k.cache.map fun c => { c with pins := c.pins.filter (· ≠ rid) } }
  let s := mine.foldl (fun s c =>
    if c.part == .miss ∧ ¬ c.old ∧ c.pins = [rid] then cachePut { c with part := .pool, pins := [] } s else s) s
  s.updKs fun k =>
    { k with cache := k.cache.filter fun c => !(c.pins.isEmpty && (c.old || k.invalid.contains (c.tenant, c.handle))) }

/-- A request's last transfer has been made: its pins go, but for a miss slot and a replaced value, which it holds until it ends
(09 R382, R383, R400). -/
def unpinCarried (rid : Nat) (s : State) : State :=
  s.updKs fun k => { k with cache := k.cache.map fun c => if c.part == .miss || c.old then c else { c with pins := c.pins.filter (· ≠ rid) } }

/-- A key of a cache-only template enters the receiving partition: an invalidation of the key before it has run its course (09 Table
09-7, R396, R399; 07 R318). -/
def receiveSlot (c : CacheSlot) (s : State) : State :=
  (cachePut c s).updKs fun k => { k with invalid := k.invalid.filter fun p => p ≠ (c.tenant, c.handle) }

/-- A receiving handle leaves the pending state (07 R302). -/
def unpend (t h : Nat) (s : State) : State :=
  s.updKs fun k => { k with pendingH := k.pendingH.filter fun p => !(p.1 = t && p.2.toNat = h) }

/-- Whether a record handle is vacant: inside a template, no live record or, for a cache-only template, no key in the
cache, and not pending (09 R389). -/
def isVacant (s : State) (t h : Nat) : Bool :=
  (templateOf s t h).isSome && (if (recordNo s t h).isSome then (recordOf s t h).isNone else (cached s t h).isNone) &&
    !s.ks.pendingH.contains (t, BitVec.ofNat 20 h)

/-- Whether a record handle is occupied by a stored record. -/
def isOccupied (s : State) (t h : Nat) : Bool :=
  (recordOf s t h).isSome && !s.ks.pendingH.contains (t, BitVec.ofNat 20 h)

/-! ### Invocation counters -/

/-- Invocation counter of a key (04 R188). -/
def ivOf (s : State) (t h : Nat) : Option IvCtr := s.ks.ivs.find? fun v => v.tenant = t && v.handle.toNat = h

/-- Whether a key has a counter: one is kept and it is below 2^64 - 2^20 (04 R193). -/
def hasCounter (s : State) (t h : Nat) : Bool :=
  match ivOf s t h with
  | some v => decide (v.c < 2 ^ 64 - 2 ^ 20)
  | none => false

/-- Update the counter of a key. -/
def updIv (t h : Nat) (f : IvCtr → IvCtr) (s : State) : State :=
  s.updKs fun k => { k with ivs := k.ivs.map fun v => if v.tenant = t ∧ v.handle.toNat = h then f v else v }

/-- Attribute scheme of a tenant (09 R376). -/
def schemeOf (s : State) (t : Nat) : Nat := ((s.image.tenants[t]?).getD TenantRec.reset).scheme

/-- Whether a tenant enforces usage: schemes 1 and 3. -/
def usageEnforced (s : State) (t : Nat) : Bool := schemeOf s t == 1 || schemeOf s t == 3

/-- Whether a key of a tenant has an invocation counter kept for it: a resident AES key that permits encryption
(04 R188). -/
def countsIv (s : State) (t alg usage : Nat) : Bool := algAes alg && (usage == 1 || schemeOf s t == 2)

/-- Effective export (09 R376). -/
def effectiveExport (s : State) (t : Nat) (k : KeyInfo) : Bool := k.exp || schemeOf s t == 1

/-- Fixed field F of a tenant: INSTANCE x 64 + tenant, 4 bytes (04 R187). -/
def State.fixedField (s : State) (t : Nat) : Bytes :=
  let inst := match s.image.instNo with
    | some i => i.toNat
    | none => (s.otp.toList.getD 0 0).toNat % 2 ^ 26
  beBytes 4 (inst * 64 + t)

/-! ### Misses -/

/-- Levels between a node and its nearest cached ancestor, itself among them (09 R384); `fuel` bounds the depth. -/
def missingLevels (s : State) : Nat → Nat → Nat
  | 0, _ => 0
  | fuel + 1, idx =>
    match s.image.nodes[idx]? with
    | none => 0
    | some n =>
      if (cached s n.tenant n.handle.toNat).isSome then 0
      else 1 + (if n.parent = 0xFFFFFFFF then 0 else missingLevels s fuel n.parent)

/-- What a missed key takes of KS derivation entries, in units of one level of 2 slots (02 R94): one on a through platform, every missing
level for freight, and for a record its unwrapping, whose cost the spec does not state (09 R383, R384; log entry 93). -/
def missLevels (s : State) (r : Request) (h : BitVec 20) : Nat :=
  if isRecordHandle h.toNat then ((recordOf s r.tenant h.toNat).map fun x => Config.unwrapLevels x.value.length).getD 0
  else match nodeOf s r.tenant h.toNat with
    | none => 0
    | some (i, _) => if r.rate = .freight then missingLevels s 8 i else 1

/-- The live records of a block of 4,096 record numbers, in record order (09 R402). -/
def liveIn (s : State) (j : Nat) : List StoreRec :=
  sortBy StoreRec.recno (s.store.recs.filter fun r => r.recno / 4096 = j && !r.tomb && indexGood r)

/-- KS derivation entries, in units of one tree level, that a rotation takes for its present block (09 R402; log entry 93). -/
def rotNeed (s : State) : Nat := ((liveIn s s.ks.rotBlock).map fun r => Config.rewrapLevels r.value.length).sum

/-- The first missed keys whose levels have all been run. -/
def coveredMisses (cost : BitVec 20 → Nat) : Nat → List (BitVec 20) → List (BitVec 20)
  | _, [] => []
  | n, h :: l => if cost h ≤ n then h :: coveredMisses cost (n - cost h) l else []

/-- Source identity of the key cache's checkers (01 Table 01-4: station 6, engine 1, lane 0). -/
def srcCache (checker : Nat) : BitVec 16 := sourceId 6 1 0 checker
/-- Source identity of SECRETBUS (01 R55). -/
def srcSecretBus : BitVec 16 := sourceId 7 0 1 26

end Sys2Proof.Machine
end

