-- ==== Sys2Proof/Machine/Mailbox.lean ====
section
/-! DEFINITION. Mailboxes, messages, the management lock and the interrupt lines (11 R441 to R458). -/
namespace Sys2Proof.Machine

/-- A mailbox by its owner: a tenant, or none for the management mailbox. -/
abbrev Box := Option Tenant

/-- Outbound mailbox of an owner. -/
def State.mbo (s : State) : Box → MboxOut
  | some t => (s.page t).mbo
  | none => s.mgmt.mbo

/-- Inbound mailbox of an owner. -/
def State.mbi (s : State) : Box → MboxIn
  | some t => (s.page t).mbi
  | none => s.mgmt.mbi

/-- Update an outbound mailbox. -/
def State.updMbo (s : State) (b : Box) (f : MboxOut → MboxOut) : State :=
  match b with
  | some t => s.updPage t fun p => { p with mbo := f p.mbo }
  | none => s.updMgmt fun m => { m with mbo := f m.mbo }

/-- Update an inbound mailbox. -/
def State.updMbi (s : State) (b : Box) (f : MboxIn → MboxIn) : State :=
  match b with
  | some t => s.updPage t fun p => { p with mbi := f p.mbi }
  | none => s.updMgmt fun m => { m with mbi := f m.mbi }

/-- MBOX_OUT of a tenant, or MB_OUT (11 R442, R446). -/
def notifyOut (b : Box) (s : State) : State :=
  match b with
  | some t => assertTn t srcMboxOut s
  | none => assertBlk 21 s

/-- MBOX_IN of a tenant, or MB_IN (11 R443). -/
def notifyIn (b : Box) (s : State) : State :=
  match b with
  | some t => assertTn t srcMboxIn s
  | none => assertBlk 20 s

/-- Life-cycle states in which the rings stay closed for want of an image (15 R543): BLANK and VENDOR_LOCKED. -/
def ringless (s : State) : Bool := s.lc.state == 1 || s.lc.state == 3

/-- Whether doorbells and tenant messages are ignored: while the rings stay closed, and once the block is quiesced (15 R543,
R552). -/
def hushed (s : State) : Bool := ringless s || s.lc.quiesced

/-- A write of SEND: an EMPTY mailbox becomes FULL with its stamp, a FULL one sets REFUSED (11 R441, Table 11-5).
Tenant messages are ignored in BLANK and VENDOR_LOCKED, and while the block is quiesced (15 R543, R552). -/
def sendMessage (b : Box) (i : Ident) (v : BitVec 32) (s : State) : State :=
  if !bitAt v 0 || (b.isSome && hushed s) then s
  else
    let role := s.roleOf i
    let ten := s.tenantOf i
    s.updMbo b fun m =>
      if m.full then { m with refused := true }
      else { m with full := true, stampTenant := BitVec.ofNat 8 ten.val, stampRole := BitVec.ofNat 8 role, stampIdent := i,
                    stampTick := s.tick.truncate 32, sendTick := s.now }

/-- A write of ACK empties a FULL inbound mailbox (11 R443). -/
def ackMessage (b : Box) (v : BitVec 32) (s : State) : State :=
  if bitAt v 0 then s.updMbi b fun m => { m with full := false } else s

/-- A write of an outbound data register: ignored while FULL (11 R441). -/
def writeMboData (b : Box) (n : Fin 8) (v : BitVec 64) (s : State) : State :=
  s.updMbo b fun m => if m.full then m else { m with data := m.data.set n v }

/-- A write of an outbound status register: W1C of REFUSED, ABORTED and EMPTIED (11 Table 11-15). -/
def writeMboStat (b : Box) (v : BitVec 32) (s : State) : State :=
  s.updMbo b fun m => { m with refused := m.refused && !bitAt v 2, aborted := m.aborted && !bitAt v 1,
                               emptied := m.emptied && !bitAt v 0 }

/-- An outbound status register (11 Table 11-15). -/
def readMboStat (b : Box) (s : State) : BitVec 64 :=
  let m := s.mbo b
  placeB m.full 31 ||| placeB m.refused 2 ||| placeB m.aborted 1 ||| placeB m.emptied 0

/-- An inbound data register: 0 while EMPTY (11 Table 11-13). -/
def readMbiData (b : Box) (n : Fin 8) (s : State) : BitVec 64 :=
  let m := s.mbi b
  if m.full then m.data[n] else 0

/-- An inbound stamp register: 0 while EMPTY (11 Table 11-16). -/
def readMbiStamp (b : Box) (s : State) : BitVec 64 :=
  let m := s.mbi b
  if m.full then m.stamp else 0

/-- An inbound status register (11 Table 11-18). -/
def readMbiStat (b : Box) (s : State) : BitVec 64 := placeB (s.mbi b).full 31

/-- The 64 bytes of eight message words, byte 8n in bits 7 to 0 of word n (11 Table 11-13). -/
def wordsToBytes (v : Vector (BitVec 64) 8) : Bytes := v.toList.flatMap fun w => leBytes 8 w.toNat

/-- Eight message words of 64 bytes. -/
def bytesToWords (b : Bytes) : Vector (BitVec 64) 8 := Vector.ofFn fun i => BitVec.ofNat 64 (leAt b (8 * i.val) 8)

/-- A message the Registrar has before it, with its stamp (11 Tables 11-5, 11-6). -/
structure Msg where
  box : Box
  tenant : Tenant
  role : Nat
  ident : Ident
  bytes : Bytes
  /-- an earlier request from the same mailbox is unanswered (11 R444) -/
  busy : Bool
deriving DecidableEq, Repr

/-- Request code (11 Table 11-6). -/
def Msg.code (m : Msg) : Nat := leAt m.bytes 0 2
/-- Sequence chosen by the sender. -/
def Msg.seq (m : Msg) : Nat := leAt m.bytes 2 2
/-- Payload address. -/
def Msg.payload (m : Msg) : Nat := leAt m.bytes 8 8
/-- Payload length. -/
def Msg.paylen (m : Msg) : Nat := leAt m.bytes 16 4
/-- Parameter bytes. -/
def Msg.params (m : Msg) : Bytes := m.bytes.drop 20

/-- The message in a FULL outbound mailbox. -/
def messageIn (s : State) (b : Box) : Option Msg :=
  let m := s.mbo b
  if m.full then
    some { box := b, tenant := tenantFin m.stampTenant.toNat, role := m.stampRole.toNat, ident := m.stampIdent,
           bytes := wordsToBytes m.data, busy := m.unanswered }
  else none

/-- The 65 mailboxes in ascending tenant, the management mailbox last (11 R444). -/
def boxes : List Box := (List.finRange 64).map some ++ [none]

/-- The message the Registrar takes next: the earliest SEND tick, within a tick in the order of `boxes`
(11 R444). None while the Registrar restarts or is halted, and before stage 5 of a start ends (16 R586). -/
def nextMessage (s : State) : Option Msg :=
  let p := s.procs[(2 : Fin 3)]
  if decide (s.cfg.stage.toNat < 6) || p.restart.isSome || p.halted || p.resuming.isSome || s.dbg.haltReg then none
  else
    let full := boxes.filter fun b => (s.mbo b).full
    match sortBy (fun b => (s.mbo b).sendTick) full with
    | [] => none
    | b :: _ => messageIn s b

/-- The Registrar takes a message: the mailbox becomes EMPTY, EMPTIED is set and MBOX_OUT or MB_OUT is asserted
(11 R442). -/
def takeMessage (m : Msg) (s : State) : State :=
  notifyOut m.box (s.updMbo m.box fun x => { x with full := false, emptied := true, unanswered := true })

/-- Bytes of a reply (11 Table 11-6): code and sequence echoed, a status, 0 payload fields unless given, and
parameters. -/
def replyBytes (code seq status : Nat) (params : Bytes) : Bytes :=
  fitTo 64 (leBytes 2 code ++ leBytes 2 seq ++ leBytes 1 status ++ fillBytes 15 0 ++ params)

/-- Post a reply: it waits for an EMPTY inbound mailbox (11 R443). A reply with status 0x01 is not the answer. -/
def reply (b : Box) (code seq status : Nat) (params : Bytes) (s : State) : State :=
  let r : Reply := { tenant := b.map Fin.val, bytes := replyBytes code seq status params, final := status != 1 }
  s.updMgmt fun m => { m with replies := m.replies ++ [r] }

/-- Answer a message at once with a status. -/
def answer (m : Msg) (status : Nat) (s : State) : State := reply m.box m.code m.seq status [] s

/-- Answer a message sent while an earlier request from its mailbox is unanswered: that request stays so (11 R444). -/
def answerBusy (m : Msg) (s : State) : State :=
  let r : Reply := { tenant := m.box.map Fin.val, bytes := replyBytes m.code m.seq 0x83 [], final := false }
  s.updMgmt fun g => { g with replies := g.replies ++ [r] }

/-- Take a message and answer it at once with a status (11 R444, R448). -/
def refuse (m : Msg) (status : Nat) (s : State) : State := answer m status (takeMessage m s)

/-- Owner of a reply. -/
def Reply.box (r : Reply) : Box := r.tenant.map tenantFin

/-- Request codes of tenant mailboxes (11 Table 11-7). -/
def tenantCodes : List Nat := [0x0101, 0x0102, 0x0103]
/-- Request codes of the management mailbox (11 Table 11-7). -/
def mgmtCodes : List Nat := [0x0201, 0x0202, 0x0203, 0x0204, 0x0205, 0x0206, 0x0207, 0x0208, 0x0209]

/-- Whether a code came through the mailbox that may send it (11 R449, Table 11-7). -/
def rightBox (m : Msg) : Bool :=
  match m.box with
  | some _ => tenantCodes.contains m.code
  | none => mgmtCodes.contains m.code

/-- Whether the block's condition refuses a request with 0x85 whatever it asks: in lockdown all but dump retrieval
(12 R479), in an unconfigured block all but 0x0205 to 0x0207 and 0x0209 (16 R590), in BLANK and VENDOR_LOCKED all but
0x0205 and 0x0206 (15 R543). -/
def conditionRefuses (s : State) (m : Msg) : Bool :=
  (s.flt.lockdown && m.code != 0x0209) ||
  (ringless s && !(m.code == 0x0206 || (m.code == 0x0205 && s.lc.state != 1))) ||
  (s.cfg.stage == stageUnconfigured && !ringless s && ! [0x0205, 0x0206, 0x0207, 0x0209].contains m.code)

/-- The header of a request: status 0, its reserved bytes 0, a payload length in range (11 R448, Table 11-6). -/
def reqHeaderOk (m : Msg) : Bool := byteAt m.bytes 4 == 0 && allZero (slice m.bytes 5 3) && decide (m.paylen ≤ 1048576)

/-- The shared start of a request: nothing unless the message the Registrar takes next carries `code` through the
right mailbox. The message is taken; one sent while an earlier request is unanswered gets 0x83, one the block's
condition refuses gets 0x85, a tenant request of another role than OFFICER gets 0x81, one whose header is not that of
Table 11-6 gets 0x82; else `act` answers it (order of the refusals: log entry 119). -/
def onRequest (code : Nat) (act : Msg → State → State) (s : State) : State :=
  match nextMessage s with
  | none => s
  | some m =>
    if m.code ≠ code ∨ ¬ rightBox m then s
    else
      let s' := takeMessage m s
      if m.busy then answerBusy m s'
      else if conditionRefuses s m then answer m 0x85 s'
      else if m.box.isSome && m.role != 2 then answer m 0x81 s'
      else if !reqHeaderOk m then answer m 0x82 s'
      else act m s'

/-- Window record n of a tenant in the image in force (08 R349). -/
def windowOf (s : State) (t : Tenant) (n : Nat) : Window := s.image.windows.getD (t.val * 8 + n) Window.reset

/-- Clear an outbound mailbox with an aborted notice where a message waited in it or a request taken from it is
unanswered (11 R446). -/
def abortBox (s : State) (b : Box) : State :=
  let m := s.mbo b
  if m.full || m.unanswered then
    notifyOut b (s.updMbo b fun m => { m with full := false, unanswered := false, aborted := true })
  else s

/-- The Registrar has lost the requests it had taken: no answer of theirs will come, and a waybill under way is not made. What other
processors do for a request goes on (11 R446). -/
def loseRequests (s : State) : State :=
  let s := s.updMgmt fun m => { m with replies := [] }
  let s := s.updVs fun v => { v with loads := v.loads.map fun l => { l with seq := none } }
  let s := (s.updKs fun k => { k with rotSeq := none }).updSs fun v => { v with waybills := [] }
  (s.updCfg fun c => { c with coSeq := none }).updLc fun l => { l with seq := none }

/-- A restart of the Registrar that does not resume from a checkpoint clears every outbound mailbox, and loses what it had taken
(11 R446). -/
def clearOutboxes (s : State) : State := loseRequests (boxes.foldl abortBox s)

/-- Word that a read of TRH_MGMT_LOCK returns (11 Table 11-22). -/
def lockWord (outcome : Nat) (src : Bool) (i : Ident) : BitVec 64 :=
  place outcome 30 ||| placeB src 12 ||| i.zeroExtend 64

/-- Lease count of a grant: values below 256 act as 256 (11 Table 11-22). -/
def leaseOf (m : Mgmt) : Nat := max 256 m.lease.toNat

/-- An acquisition by an identity (11 R450): granted, renewed, or held by another. -/
def acquireLock (src : Bool) (i : Ident) (m : Mgmt) : Mgmt × BitVec 64 :=
  if !m.held || (m.src == src && m.holder == i) then
    ({ m with held := true, src := src, holder := i, remain := leaseOf m }, lockWord 1 src i)
  else (m, lockWord 2 m.src m.holder)

/-- The lock is freed. -/
def freeLock (m : Mgmt) : Mgmt := { m with held := false, src := false, holder := 0, remain := 0 }

/-- A write of TRH_MGMT_LOCK (11 R451). -/
def releaseLock (i : Ident) (v : BitVec 32) (m : Mgmt) : Mgmt :=
  if m.held && !m.src && m.holder == i && v.extractLsb' 0 12 == i then freeLock m else m

/-- Initiator identity of a control processor: Custody, Supervisor, Registrar (08 Table 08-1). -/
def procIdent (p : Fin 3) : Ident := BitVec.ofNat 12 (0xF00 + p.val)

/-- Level of tenant interrupt line n (11 R457). -/
def tenantLine (s : State) (t : Tenant) : Bool := (s.page t).intStatus &&& (s.page t).intEnable != 0

/-- Management line of block source i (11 R458, Table 11-24). -/
def routeOf (m : Mgmt) (i : Fin 64) : Nat := fieldNat (m.route.toList.getD (i.val / 16) 0) (2 * (i.val % 16)) 2

/-- Level of a management interrupt line (11 R458). -/
def mgmtLine (s : State) (line : Fin 4) : Bool :=
  (List.finRange 64).any fun i =>
    bitAt s.mgmt.intStatus i.val && bitAt s.mgmt.intEnable i.val && routeOf s.mgmt i == line.val

end Sys2Proof.Machine
end

