-- ==== Sys2Proof/Machine/RingOps.lean ====
section
/-! DEFINITION. Ring pairs, the inline FIFO, aborts and the audit chain: register effects (03). -/
namespace Sys2Proof.Machine

/-- Entries of a ring (03 Table 03-3). SIZE is the register's four-bit field [3:0]; R112 and R116 name sizes up to 16, which that field cannot
hold, so that the largest ring has 2^15 entries (log entry 88). -/
def Ring.entries (r : Ring) : Nat := 2 ^ r.size.toNat

/-- Published descriptors not yet fetched (03 R118). -/
def Ring.published (r : Ring) : Nat := (r.sqTail.toNat + r.entries - r.sqHead.toNat) % r.entries

/-- The published indices, from HEAD up to TAIL - 1 (03 R118, R159). -/
def Ring.publishedIdx (r : Ring) : List (BitVec 16) :=
  (List.range r.published).map fun i => BitVec.ofNat 16 ((r.sqHead.toNat + i) % r.entries)

/-- `TN_RING_STAT_k.IDLE`: ENABLE = 0 and no request of the ring is outstanding (03 R117, Table 03-4). -/
def Ring.isIdle (r : Ring) : Bool := !r.enable && r.outstanding == 0

/-- Completion entries written and not yet consumed (03 R121). -/
def Ring.unconsumed (r : Ring) : Nat := (r.cqTail.toNat + r.entries - r.cqHead.toNat) % r.entries

/-- Whether the completion ring has credit for one more chain (03 R121). -/
def Ring.credit (r : Ring) : Bool := r.unconsumed + r.outstanding + 1 ≤ r.entries - 1

/-- Share S(t, p) of a tenant on a port (08 R337). -/
def shareOf (s : State) (t : Tenant) (port : Nat) : Nat :=
  ((s.image.tenants[t.val]?).getD TenantRec.reset).shares.getD port 0

/-- Whether `len` bytes at `addr` lie within one window that grants the access (08 R350, its share condition
apart). -/
def inWindows (s : State) (t : Tenant) (addr len : Nat) (rd wr : Bool) : Bool :=
  len == 0 ||
  (decide (addr + len ≤ 2 ^ 64) &&
    (List.range 8).any fun n =>
      let w := windowOf s t n
      (!rd || bitAt w.base 0) && (!wr || bitAt w.base 1) && (bitAt w.base 0 || bitAt w.base 1) &&
        decide (fieldNat w.base 12 52 * 4096 ≤ addr) &&
        decide (addr + len ≤ fieldNat w.limit 12 52 * 4096 + 4096))

/-- Whether the Registrar may move a payload of `len` bytes at `addr` (11 R449). A block without an image in force has no window record to
hold it to, and moves it all the same (15 R541, Table 15-1, 16 R590; log entry 47). -/
def payloadOk (s : State) (t : Tenant) (addr len : Nat) (rd wr : Bool) : Bool :=
  inWindows s t addr len rd wr || (s.cfg.stage == stageUnconfigured && decide (addr + len ≤ 2 ^ 64))

/-- The rule of R350 whole: one window, the access granted, and a share on the port. -/
def rangeOk (s : State) (t : Tenant) (port addr len : Nat) (rd wr : Bool) : Bool :=
  len == 0 || (inWindows s t addr len rd wr && shareOf s t port != 0)

/-- Whether both rings of a pair lie within windows of the tenant (03 R116). -/
def ringInWindows (s : State) (t : Tenant) (r : Ring) : Bool :=
  rangeOk s t r.port.toNat r.rqBase.toNat (64 * r.entries) true false &&
    rangeOk s t r.port.toNat r.cqBase.toNat (32 * r.entries) false true

/-- The tests of an enable (03 R116): 1 SIZE out of range, 2 outside the windows, 0 passed. -/
def enableTest (s : State) (t : Tenant) (r : Ring) : BitVec 4 :=
  if r.size.toNat < 6 ∨ r.size.toNat > 16 then 1 else if ringInWindows s t r then 0 else 2

/-- A ring pair just enabled (03 R116, R160). -/
def enabledRing (r : Ring) : Ring :=
  { r with enable := true, cfgErr := 0, sqHead := 0, sqTail := 0, cqHead := 0, cqTail := 0, phase := true,
           held := [], marks := [], kept := false, stopped := false, lost := false, fetching := false }

/-- Whether the block takes work at all: rings closed in BLANK and VENDOR_LOCKED, quiesced, or locked down
(15 R543, R552; 12 R478). -/
def takesWork (s : State) : Bool := !hushed s && !s.locked

/-- Whether an armed cut-over is to be made at this boundary and is not made yet (16 R592). -/
def cutDue (s : State) : Bool := s.cfg.coState == 4 && s.cfg.target == s.now && !s.locked

/-- Marks of an abort that lapse when a ring pair is enabled anew (03 R160, R163). -/
def lapseMarks (k : RingNo) (p : TenantPage) : TenantPage :=
  { p with abortMarks := p.abortMarks.filter fun m => m.1 ≠ k.val }

/-- TN_ABORT_STAT once every request found has completed and every mark is acted on or lapsed (03 R163). -/
def settleAbort (p : TenantPage) : TenantPage :=
  if p.abortResult = 1 ∧ p.abortReqs.isEmpty ∧ p.abortMarks.isEmpty then { p with abortResult := 3 } else p

/-- What a debug access has shown or written of some groups is no longer known. -/
def forgetWord (gs : List Nat) (d : Debug) : Debug :=
  { d with words := d.words.filter fun w => !gs.contains w.1.1, zeroed := d.zeroed.filter fun g => !gs.contains g }

/-- The memories of some groups are zeroised: a debug access reads zeros (12 R476, R478; 14 Table 14-3). -/
def zeroWords (gs : List Nat) (d : Debug) : Debug :=
  let d := forgetWord gs d
  { d with zeroed := gs.foldl (fun l g => addNew g l) d.zeroed }

/-- What a debug access has shown of the memories that a running ring uses is no longer known. -/
def forgetWords (d : Debug) : Debug := { d with words := d.words.filter fun w => w.1.1 < 8, zeroed := d.zeroed.filter (· < 8) }

/-- Descriptor reads of a ring that are still out when it is enabled anew bring nothing to it (03 R116, R125). -/
def dropReads (t : Tenant) (k : RingNo) (f : Fabric) : Fabric :=
  let old := fun (b : Burst) => match b.kind with
    | .desc t' k' _ => t' == t.val && k' == k.val
    | _ => false
  { f with bursts := f.bursts.map fun b => if old b then { b with dropped := true } else b }

/-- A write of TN_RING_CFG_k (03 R115 to R117, Table 03-3). -/
def writeRingCfg (t : Tenant) (k : RingNo) (v : BitVec 32) (s : State) : State :=
  let r := s.ring t k
  let free := !r.enable && r.isIdle
  let r1 := if free then { r with size := v.extractLsb' 0 4, port := v.extractLsb' 24 2 } else r
  if bitAt v 31 then
    if r.enable then s
    else if !r.isIdle then s.updRing t k fun r => { r with cfgErr := 6 }
    else
      let e := enableTest s t r1
      if e = 0 then
        (((s.updRing t k fun _ => enabledRing r1).updPage t fun p => settleAbort (lapseMarks k p)).updFab (dropReads t k)).updDbg forgetWords
      else s.updRing t k fun _ => { r1 with cfgErr := e }
  else s.updRing t k fun _ => { r1 with enable := false }

/-- A write of TN_RQ_BASE_k: ignored while ENABLE = 1 or IDLE = 0 (03 R115, Table 03-2). -/
def writeRqBase (t : Tenant) (k : RingNo) (v : BitVec 64) (s : State) : State :=
  s.updRing t k fun r => if !r.enable && r.isIdle then { r with rqBase := v &&& ~~~ 63#64 } else r

/-- A write of TN_CQ_BASE_k: ignored while ENABLE = 1 or IDLE = 0 (03 R115, Table 03-2). -/
def writeCqBase (t : Tenant) (k : RingNo) (v : BitVec 64) (s : State) : State :=
  s.updRing t k fun r => if !r.enable && r.isIdle then { r with cqBase := v &&& ~~~ 31#64 } else r

/-- The doorbell (03 R118, R119): an index out of range sets IDX_ERR, a disabled ring ignores the write, and so does a
block that is quiesced or whose rings stay closed (15 R543, R552). -/
def doorbell (t : Tenant) (k : RingNo) (v : BitVec 32) (s : State) : State :=
  if hushed s then s
  else
    s.updRing t k fun r =>
      if fieldNat v 0 16 ≥ r.entries then { r with idxErr := true }
      else if r.enable then { r with sqTail := v.extractLsb' 0 16 } else r

/-- A write of TN_CQ_HEAD_k (03 R119). -/
def writeCqHead (t : Tenant) (k : RingNo) (v : BitVec 32) (s : State) : State :=
  s.updRing t k fun r =>
    if fieldNat v 0 16 ≥ r.entries then { r with idxErr := true }
    else if r.enable then { r with cqHead := v.extractLsb' 0 16 } else r

/-- A write of TN_COAL_k (03 Table 03-7). -/
def writeCoal (t : Tenant) (k : RingNo) (v : BitVec 32) (s : State) : State :=
  s.updRing t k fun r => { r with coalTime := v.extractLsb' 16 12, coalCount := v.extractLsb' 0 8 }

/-- A write of TN_RING_STAT_k: W1C of IDX_ERR (03 Table 03-4). -/
def writeRingStat (t : Tenant) (k : RingNo) (v : BitVec 32) (s : State) : State :=
  s.updRing t k fun r => { r with idxErr := r.idxErr && !bitAt v 16 }

/-- TN_RING_CFG_k (03 Table 03-3). -/
def readRingCfg (r : Ring) : BitVec 64 := placeB r.enable 31 ||| place r.port.toNat 24 ||| place r.size.toNat 0

/-- TN_RING_STAT_k (03 Table 03-4). -/
def readRingStat (r : Ring) : BitVec 64 :=
  placeB r.isIdle 31 ||| place r.cfgErr.toNat 24 ||| placeB r.idxErr 16 ||| place (r.outstanding % 65536) 0

/-- TN_CQ_TAIL_k (03 Table 03-6). -/
def readCqTail (r : Ring) : BitVec 64 := placeB r.phase 16 ||| place r.cqTail.toNat 0

/-- TN_COAL_k (03 Table 03-7). -/
def readCoal (r : Ring) : BitVec 64 := place r.coalTime.toNat 16 ||| place r.coalCount.toNat 0

/-! ### The inline FIFO -/

/-- Wide words that an item takes (03 R144). -/
def wideWords (b : Bytes) : Nat := ceilDiv b.length 64

/-- Fill: wide words that hold at least one byte (03 R150). -/
def TenantPage.fill (p : TenantPage) : Nat := (p.fifoItems.map wideWords).sum + wideWords p.fifoPart

/-- LEVEL_HIT and the completion source when the fill rises to LEVEL (03 R150, Table 03-14). -/
def levelCheck (before : Nat) (p : TenantPage) : TenantPage :=
  let lv := p.fifoLevel.toNat
  if 1 ≤ lv ∧ lv ≤ 32 ∧ before + 1 = lv ∧ p.fill = lv then
    { p with levelHit := true, intStatus := p.intStatus ||| 1 }
  else p

/-- Check symbols of the wide words of an item that are formed once `b` has been added to what stands of it: a wide word is encoded as
it is formed, the last one as the item ends (01 R27, R29; 03 R144). -/
def formedSym (part sym b : Bytes) (last : Bool) : Bytes :=
  let rest := (part ++ b).drop (64 * (part.length / 64))
  sym ++ symbolsOf (if last then rest else rest.take (64 * (rest.length / 64)))

/-- A write of `b` into the FIFO, ending the item or not; the wide words of an item carry their check symbols as they are formed (03 R144,
R148, R150; 01 R27). -/
def fifoWrite (b : Bytes) (last : Bool) (p : TenantPage) : TenantPage :=
  if p.fifoDrop then { p with fifoDrop := !last }
  else if p.fifoPart.length % 64 = 0 ∧ p.fill ≥ 32 then
    { p with overflow := true, fifoPart := [], fifoPartSym := [], fifoDrop := !last }
  else
    let item := p.fifoPart ++ b
    let sym := formedSym p.fifoPart p.fifoPartSym b last
    levelCheck p.fill
      (if last then { p with fifoItems := p.fifoItems ++ [item], fifoSym := p.fifoSym ++ [sym], fifoPart := [], fifoPartSym := [] }
       else { p with fifoPart := item, fifoPartSym := sym })

/-- FLUSH empties the FIFO with any partial item and any discarding (03 R149). -/
def fifoFlush (p : TenantPage) : TenantPage := { p with fifoItems := [], fifoSym := [], fifoPart := [], fifoPartSym := [], fifoDrop := false }

/-- A write of TN_FIFO_CTRL (03 Table 03-14). -/
def writeFifoCtrl (t : Tenant) (v : BitVec 32) (s : State) : State :=
  s.updPage t fun p =>
    let p := { p with fifoLevel := v.extractLsb' 0 6 }
    if bitAt v 31 then fifoFlush p else p

/-- A write of TN_FIFO_STAT: W1C (03 Table 03-15). -/
def writeFifoStat (t : Tenant) (v : BitVec 32) (s : State) : State :=
  s.updPage t fun p => { p with overflow := p.overflow && !bitAt v 2, levelHit := p.levelHit && !bitAt v 1,
                                emptyMid := p.emptyMid && !bitAt v 0 }

/-- TN_FIFO_STAT (03 Table 03-15). -/
def readFifoStat (p : TenantPage) : BitVec 64 :=
  place p.fill 16 ||| place p.fifoItems.length 8 ||| placeB p.fifoDrop 3 ||| placeB p.overflow 2
    ||| placeB p.levelHit 1 ||| placeB p.emptyMid 0

/-! ### Aborts -/

/-- The first slot boundary at least 8 DCLK cycles after a write in cycle `cyc`: tick and boundary number, 8 standing
for the end of the tick (03 R160). -/
def stopBoundary (s : State) (cyc : Cycle) : Nat × Nat :=
  let b := ceilDiv (cyc.val + 8) 40
  if b ≤ 8 then (s.now, b) else (s.now + 1, b - 8)

/-- Whether the request's last piece has ended: the abort then has no effect (03 R161). So it is for an AEAD decryption whose tag has been
compared (04 R205); the last piece of an RSA signature is its check on VS (07 R313, R328). A key-store commit that is under way holds a
request against the reset of its tenant (11 R439), and not against TN_ABORT where steps are still to run. -/
def pastAbort (reset : Bool) (r : Request) : Bool :=
  let last := r.cur + 1 == r.steps.length
  let op := Desc.op (r.descs.getD r.cur [])
  let checked := !(op == 0x0603 || op == 0x0604) || r.stage == .crtCheck
  r.stage == .draining || (r.stage == .commit && (last || reset)) || (last && ((r.finished && checked && r.stage != .keySign) || r.stage == .release))

/-- Whether a request is aborted by the reset of its tenant, or by a quiesce, and not by TN_ABORT (11 R439; 15 R552). -/
def abortedByReset (s : State) (r : Request) : Bool := (s.page (tenantFin r.tenant)).resetBusy || s.lc.quiesced

/-- Name admitted requests for abort: each stops at the slot boundary given (03 R160). -/
def markStops (stop : Nat × Nat) (sel : Request → Bool) (s : State) : State :=
  { s with reqs := s.reqs.map fun r =>
      if sel r && !pastAbort (abortedByReset s r) r && r.stopAt.isNone then { r with stopAt := some stop } else r }

/-- A write of TN_ABORT (03 R159, R160, R163, Table 03-19). -/
def abortWrite (t : Tenant) (v : BitVec 32) (cyc : Cycle) (s : State) : State :=
  let p := s.page t
  if p.abortResult = 1 then s
  else
    let k := ringFin (fieldNat v 16 2)
    let all := bitAt v 31
    let idx := v.extractLsb' 0 16
    let marks := (s.ring t k).publishedIdx.filter fun i => all || i == idx
    let sel := fun r : Request => r.tenant == t.val && r.ring == k.val && (all || r.index == idx)
    let ended := s.ended.filter fun e => e.admitted && e.tenant == t.val && e.ring == k.val && (all || e.index == idx)
    let found := (s.reqs.filter sel).map Request.rid ++ ended.map Ended.rid
    if marks.isEmpty ∧ found.isEmpty then s.updPage t fun p => { p with abortResult := 2, abortCount := 0 }
    else
      let s := s.updPage t fun p =>
        { p with abortResult := 1, abortCount := 0, abortReqs := found, abortMarks := marks.map fun i => (k.val, i) }
      let s := s.updRing t k fun r => { r with marks := marks.foldl (fun l i => addNew i l) r.marks }
      markStops (stopBoundary s cyc) sel s

/-- TN_ABORT_STAT (03 Table 03-20). -/
def readAbortStat (p : TenantPage) : BitVec 64 := place p.abortResult.toNat 30 ||| place (p.abortCount % 65536) 0

/-! ### The audit chain -/

/-- A write of TN_AUDIT_SNAP (03 R168). -/
def auditSnap (t : Tenant) (v : BitVec 32) (s : State) : State :=
  if bitAt v 0 then
    s.updPage t fun p => { p with snapHead := p.auditHead, snapCount := p.auditCount, snapThrough := p.auditThrough }
  else s

/-- The digest E of a completion (03 R164). -/
def auditDigest (descs : List Bytes) (status flags : BitVec 8) (admitted delta : Nat) : Bytes :=
  sha256 (descs.flatten ++ [status, flags &&& 0x7F] ++ leBytes 8 admitted ++ leBytes 4 delta)

/-- Extend the head for one completion tick, in ascending ring pair and completion ring order (03 R165). -/
def auditExtend (p : TenantPage) (c : Nat) : TenantPage :=
  let recs := sortBy (fun r : AuditRec => r.ring) (sortBy (fun r : AuditRec => r.seq) (p.auditPend.filter fun r => r.tick = c))
  { p with auditHead := sha256 (p.auditHead ++ leBytes 8 c ++ (recs.map AuditRec.digest).flatten),
           auditCount := p.auditCount + BitVec.ofNat 64 recs.length, auditThrough := BitVec.ofNat 64 c,
           auditPend := p.auditPend.filter fun r => r.tick ≠ c }

end Sys2Proof.Machine
end

