-- ==== Sys2Proof/Machine/Requests.lean ====
section
/-! DEFINITION. Admitted requests: their ends, what a step needs and costs, and what a finished step leaves
(02 R66 to R69, R94; 03 R135 to R143, R153 to R155). -/
namespace Sys2Proof.Machine

/-! ### Words of a step, as a read delivers them (01 R28, R30, R31) -/

/-- Source bytes staged. -/
def StepState.source (x : StepState) : Bytes := readWords x.src x.srcSym

/-- Auxiliary bytes staged. -/
def StepState.auxiliary (x : StepState) : Bytes := readWords x.aux x.auxSym

/-- Values drawn for the step. -/
def StepState.random (x : StepState) : Bytes := readWords x.drawn x.drawnSym

/-- Output held until its release. -/
def StepState.output (x : StepState) : Bytes := readWords x.out x.outSym

/-- Key held until its release, with its public key. -/
def StepState.newKey (x : StepState) : Option (Bytes × Bytes) :=
  x.key.map fun k => (readWords k.1 x.keySym, readWords k.2 x.pubSym)

/-- The step takes these drawn values, encoded as they are drawn (01 R30). -/
def StepState.takeDrawn (b : Bytes) (x : StepState) : StepState := { x with drawn := b, drawnSym := symbolsOf b }

/-- What a station computes for a step is held with its check symbols until its release (01 R30). -/
def StepState.keep (out : Bytes) (key : Option (Bytes × Bytes)) (x : StepState) : StepState :=
  { x with out := out, outSym := symbolsOf out, key := key, keySym := (key.map fun k => symbolsOf k.1).getD [],
           pubSym := (key.map fun k => symbolsOf k.2).getD [] }

/-- The descriptor of the step a request is at. -/
def Request.desc (r : Request) : Desc := r.descs.getD r.cur []
/-- The class step of the step a request is at. -/
def Request.cstep (r : Request) : ClassStep := r.cls.steps.getD r.cur ClassStep.reset
/-- The data of the step a request is at. -/
def Request.step (r : Request) : StepState := r.steps.getD r.cur StepState.reset
/-- Station kind of the step a request is at; the check of an RSA signature runs on VS (07 R313). -/
def Request.kind (r : Request) : Nat :=
  match r.stage with
  | .crtCheck | .keyVerify => 4
  | .keySign => 5
  | _ => opKind (Desc.op r.desc)
/-- Update the data of a step. -/
def Request.updStep (r : Request) (i : Nat) (f : StepState → StepState) : Request :=
  { r with steps := r.steps.modify i f }

/-- The auxiliary field of a completion that failed in execution (03 R154). -/
def failAux (r : Request) (source : BitVec 16) : Bytes :=
  leBytes 1 r.cur ++ [0xFF, 0, 0] ++ leBytes 2 source.toNat ++ leBytes 2 r.index.toNat

/-- Give back the hold chunks of a request's step `i`; a step that waits for them may be ready from the next boundary on, since
readiness is fixed for a tick (04 R199, R200; 02 R68). -/
def freeHold (r : Request) (s : State) (i : Nat) : State :=
  let x := r.steps.getD i StepState.reset
  if x.hold = 0 then s
  else
    let n : Fin 2 := ⟨x.station % 2, Nat.mod_lt _ (by decide)⟩
    let s := s.updTt fun t => { t with holdFreed := t.holdFreed ++ [(x.station, r.plat, x.hold, x.holdShare)] }
    (s.updCs n fun c => { c with holdUsed := c.holdUsed - x.hold }).updReq r.rid fun r =>
      r.updStep i fun x => { x with hold := 0, holdShare := 0 }

/-- The derived-key registers that a selection of steps holds are zeroised (04 R175, R224). -/
def dropDerived (sel : DerivedReg → Bool) (s : State) : State :=
  { s with stations := s.stations.map fun x => { x with derived := x.derived.filter fun d => !sel d } }

/-- Free the regions, hold chunks and derived-key registers of a request, as its zeroisation does (03 R142; 04 R175, R199;
06 R276; 07 R324). -/
def freeRegions (r : Request) (s : State) : State :=
  let s := s.updVs fun v => { v with memUsed := v.memUsed - r.vsBlocks }
  let s := s.updSs fun v => { v with memUsed := v.memUsed - r.ssBlocks }
  (List.range r.steps.length).foldl (freeHold r) (dropDerived (fun d => d.rid = r.rid) s)

/-- Whether the release of a step's hold has completed: the step has been released and all its output is issued
(04 R199, R202). -/
def holdReleased (r : Request) (i : Nat) : Bool :=
  (r.steps.getD i StepState.reset).hold != 0 && (i != r.cur || r.stage == .draining) && !r.outq.any fun o => o.step = i

/-- Whether key handle B is a receiving handle (07 Table 07-1, 09 Table 09-10). -/
def receives (d : Desc) : Bool := let op := Desc.op d; op == 0x0602 || (0x0605 ≤ op && op ≤ 0x0607) || op == 0x0700

/-- Output of the steps a request has completed that waits for write bursts (03 R143). -/
def leftOver (r : Request) : List OutPart := r.outq.filter fun o => decide (o.step < r.cur)

/-- The output length of a request's entry: the host bytes that its completed steps have written. Where it ends in failure, the step
it is at has failed and is none of them, its last piece having ended or not, and bytes that are never issued do not count (03 R143; log
entry 36). -/
def lengthOf (r : Request) (status : Nat) : Nat :=
  if status < 0x10 then (r.steps.map StepState.wrote).sum
  else ((r.steps.take r.cur).map StepState.wrote).sum - (((leftOver r).filter fun o => !o.aux).map fun o => o.data.length).sum

/-- The ended record of a request. -/
def endedOf (r : Request) (status : Nat) (aux : Bytes) (due : Nat) : Ended :=
  { rid := r.rid, tenant := r.tenant, ring := r.ring, index := r.index, descs := r.descs, status := BitVec.ofNat 8 status,
    auxOut := aux, outLen := lengthOf r status, stepLens := (r.steps.take r.cur).map StepState.wrote, admitTick := r.admitTick, admitWall := r.admitWall, due := due, admitted := true,
    plat := r.plat, rate := r.rate, through := r.through, bound := r.bound, late := r.late, replayed := r.replayed,
    noint := r.noint, immed := r.immed }

/-- A request ends: it is zeroised, its pins and regions go, and its entry is due in a tick (03 R142, R153). The
receiving handle of a request that does not end with `DONE` returns to vacant (07 R302); that of one that does leaves
the pending state at the next boundary. A key already placed stays (DESIGN CHOICE, log entry 105). -/
def closeRequest (r : Request) (status : Nat) (aux : Bytes) (due : Nat) (s : State) : State :=
  let s := freeRegions r s
  let s := { s with reqs := s.reqs.filter fun x => x.rid ≠ r.rid, ended := s.ended ++ [endedOf r status aux due] }
  let s := if status = 0 then s else r.descs.foldl (fun s d => if receives d then unpend r.tenant (Desc.keyB d) s else s) s
  unpin r.rid s

/-- Statuses after which a request issues no further burst, or whose entry is due in a tick that the spec names: `ADDRESS_WINDOW`,
`ABORTED`, `FABRIC_ERROR`, `INTERNAL` (03 R160; 08 R351, R356; 12 R476). -/
def cutsOutput (status : Nat) : Bool := [0x12, 0x20, 0x31, 0x3F].contains status

/-- A request that failed in execution drops its failing step's output, and completes once the output of its completed steps is
issued (03 R143; log entry 36). -/
def Request.failDraining (r : Request) (status : Nat) (source : BitVec 16) : Request :=
  { r with stage := .draining, final := BitVec.ofNat 8 status, auxOut := failAux r source, outq := leftOver r, finished := false,
           pieceSlots := 0 }

/-- A request ends with a failing status; `source` is the fault source of `INTERNAL` and `FABRIC_ERROR`. -/
def failRequest (rid status : Nat) (source : BitVec 16) (due : Nat) (s : State) : State :=
  match s.req? rid with
  | none => s
  | some r =>
    if (leftOver r).isEmpty ∨ cutsOutput status then closeRequest r status (failAux r source) due s
    else dropDerived (fun d => d.rid = rid) (s.updReq rid fun r => r.failDraining status source)

/-- A request taken as failed at a step: the bytes of the steps before count as its output length (03 R143, R154; log
entry 36). -/
def Request.failedAt (r : Request) (step : Nat) : Request := { r with cur := min step r.cur }

/-- A request ends with a failing status that a burst of one of its steps gives it (03 R154; 08 R351, R356; log entry 36). -/
def failStep (rid step status : Nat) (source : BitVec 16) (due : Nat) (s : State) : State :=
  match s.req? rid with
  | none => s
  | some r =>
    if (leftOver (r.failedAt step)).isEmpty ∨ cutsOutput status then
      closeRequest (r.failedAt step) status (failAux { r with cur := step } source) due s
    else
      dropDerived (fun d => d.rid = rid) (s.updReq rid fun r =>
        { (r.failedAt step).failDraining status source with auxOut := failAux { r with cur := step } source })

/-- A request that completed, but whose entry is not issued, fails by a burst of a step after all (08 R356): its entry is due anew,
in the order of its new end (03 R153). -/
def failEnded (e : Ended) (step status : Nat) (source : BitVec 16) (due : Nat) (s : State) : State :=
  let e' := { e with status := BitVec.ofNat 8 status, due := due, outLen := (e.stepLens.take step).sum,
                     auxOut := leBytes 1 step ++ [0xFF, 0, 0] ++ leBytes 2 source.toNat ++ leBytes 2 e.index.toNat }
  e.descs.foldl (fun s d => if receives d then unpend e.tenant (Desc.keyB d) s else s)
    { s with ended := s.ended.filter (fun x => x.rid ≠ e.rid) ++ [e'] }

/-- A request with nothing left to run or write completes with the status it has reached. -/
def closeDrained (rid due : Nat) (s : State) : State :=
  match s.req? rid with
  | none => s
  | some r => if r.stage = .draining ∧ r.outq.isEmpty then closeRequest r r.final.toNat r.auxOut due s else s

/-! ### Needs and costs -/

/-- Whether a step is SHA-3 work. -/
def sha3Step (d : Desc) : Bool := decide (0x0410 ≤ Desc.op d ∧ Desc.op d ≤ 0x0415)

/-- How a handle field stands to its step (03 R634). -/
inductive HandleUse where
  | needed | unused | optional
deriving DecidableEq, Repr

/-- Use of key handles A and B by an opcode (03 R634; 04 Table 04-4, 05 R249, 06 Table 06-1, 07 Table 07-1, 09 Table
09-10, 10 R423). -/
def handleUse (d : Desc) : HandleUse × HandleUse :=
  let op := Desc.op d
  let k := opKind op
  if k = 0 then (.needed, if op = 0x0302 ∨ op = 0x0303 then .needed else .unused)
  else if k = 2 then (if Desc.modf d = 0 then .unused else .needed, .unused)
  else if k = 4 then (.optional, .unused)
  else if k = 5 then
    (if op = 0x0606 ∨ op = 0x0607 then .unused else .needed,
     if op = 0x0602 ∨ op ≥ 0x0605 then .needed else .unused)
  else if op = 0x0700 then (if Desc.opxF d 0 2 = 0 then .needed else .unused, .needed)
  else if op = 0x0701 then (.needed, .needed)
  else if op = 0x0702 then (.needed, .unused) else (.unused, .unused)

/-- Whether the auxiliary area receives an IV (04 Table 04-2). -/
def auxReceives (d : Desc) : Bool := [0x0102, 0x0104, 0x0106].contains (Desc.op d) && !Desc.civ d

/-- Whether a cipher step takes its counter value from the invocation counter of its key (04 Table 04-5). -/
def needsCounter (d : Desc) : Bool := [0x0107, 0x0108, 0x010A].contains (Desc.op d) && !Desc.civ d

/-- Handles of a step that check 4a resolves: the keys it uses, not a receiving handle. -/
def usedHandles (d : Desc) : List Nat :=
  let (a, b) := handleUse d
  (if a ≠ .unused ∧ Desc.keyA d ≠ noHandle then [Desc.keyA d] else []) ++
    (if b = .needed ∧ !receives d then [Desc.keyB d] else [])

/-- The handle that stands for the tenant's digest state key in a key register (05 R244). -/
def stateKeyHandle : Nat := 0xFFFFFFFF

/-- Whether a digest step opens or seals a blob, so that the digest state key travels with it (05 R244, R246). -/
def usesStateKey (d : Desc) : Bool := isDigest (Desc.op d) && (Desc.resume d || Desc.dend d == 2)

/-- Handles carried over the key bus for a step; a custody step reads the cache directly (02 R80, 09 R393). -/
def carriedHandles (d : Desc) : List Nat :=
  if opKind (Desc.op d) = 6 then []
  else usedHandles d ++ (if usesStateKey d then [stateKeyHandle] else [])

/-- Whether the next piece of a step needs its keys at the endpoint. A cipher step needs them in every piece (04 R174),
a save step of a digest too; the others copy or absorb them in their first piece (05 R249, 06 R265, 07 R295). A step of SS that runs
again from its start has its key in its region (07 R295, R312, R326). -/
def needsKeys (r : Request) : Bool :=
  r.stage != .crtCheck && !(carriedHandles r.desc).isEmpty &&
    (r.kind == 0 || (if r.kind = 5 then r.units.isEmpty else r.slots == 0) || (r.kind == 2 && Desc.dend r.desc == 2))

/-- Key registers of a bank that belong to a request's present step. -/
def regsFor (bank : List KeyReg) (r : Request) : List KeyReg := bank.filter fun k => k.users.contains (r.rid, r.cur)

/-- Whether a bank holds every key the step needs. -/
def keysIn (bank : List KeyReg) (r : Request) : Bool :=
  (carriedHandles r.desc).all fun h => (regsFor bank r).any fun k => k.handle.toNat = h

/-- Value of a handle in a bank for a request's step, as its words deliver it (04 R176). -/
def keyIn (bank : List KeyReg) (r : Request) (h : Nat) : Bytes :=
  (((regsFor bank r).find? fun k => k.handle.toNat = h).map fun k => readWords k.value k.sym).getD []

/-- The values drawn for a request's step, as its key register brings them (04 R174, R189). -/
def drawnIn (bank : List KeyReg) (r : Request) : Option Brought :=
  (regsFor bank r).findSome? fun k => k.brought.find? fun b => b.rid = r.rid && b.step = r.cur

/-- The working key in the derived-key register of a request's step (04 R175). -/
def derivedIn (s : State) (r : Request) : Bytes :=
  ((s.stations.toList.flatMap StationState.derived).find? fun d => d.rid = r.rid && d.step = r.cur).elim []
    fun d => readWords d.value d.sym

/-- The key that a step has copied into its region or absorbed, as its words deliver it (01 R26). -/
def Request.keyCopy (r : Request) : Bytes := readWords r.key r.keySym

/-- The exponent a VS step works with: its key's, its operand's, or the class's. -/
def vsExponent (r : Request) : Nat :=
  let op := Desc.op r.desc
  let nB := r.cstep.modBits / 8
  (rsaPublic nB (if op = 0x0504 then 0 else nB) r.keyCopy r.step.auxiliary).2

/-- Exponent of an RSA class: its public_exponent, 65,537 where it gives none (07 Table 07-3). -/
def classExp (r : Request) : Nat := if r.cls.pubExp = 0 then 65537 else r.cls.pubExp

/-- Slots of a key generation: those it has run once the candidates drawn so far give both primes and the schedule of the last is done, else
one more (07 R321). -/
def keygenCost (r : Request) : Nat × Nat :=
  let l := candidates r.cstep.modBits r.step.random
  let done := decide (candidateSlots r.cstep.modBits * l.length ≤ r.slots) && (keygenPair r.cstep.modBits (classExp r) l).isSome
  (if done then r.slots else r.slots + 1, 1)

/-- The signature that checks an imported private key: its opcode, as a descriptor with PKCS #1 and SHA-256 for RSA, and its class step
(09 R397; log entry 69). -/
def signForm (k : ImportedKey) : Desc × ClassStep :=
  let a := k.alg
  let op := if a = 0x107 then 0x0601 else if a = 0x200 then 0x0603 else 0x0600
  let opx := if a = 0x200 then 2 else if a = 0x107 then 0 else a - 0x100
  (leBytes 2 op ++ fillBytes 2 0 ++ leBytes 4 (opx <<< 16) ++ fillBytes 56 0,
   { ClassStep.reset with opcode := op, curve := if a = 0x200 then 0 else a - 0x100, modBits := k.size })

/-- Its verification on VS (09 R397; log entry 69). -/
def verifyForm (k : ImportedKey) : Desc × ClassStep :=
  let (d, c) := signForm k
  let op := if Desc.op d = 0x0603 then 0x0502 else Desc.op d - 0x0100
  (leBytes 2 op ++ d.drop 2, { c with opcode := op })

/-- What an SS step works on: its descriptor and class step, or the signature that checks an imported key (09 R397). -/
def Request.sealedForm (r : Request) : Desc × ClassStep :=
  if r.stage = .keySign then signForm (r.imported.getD ImportedKey.reset) else (r.desc, r.cstep)

/-- Cycles of the check of an imported private key, on SS or on VS: over a message of 32 bytes (09 R397). -/
def keyCheckCycles (s : State) (r : Request) : Nat :=
  let k := r.imported.getD ImportedKey.reset
  if r.stage = .keySign then ssCycles s (signForm k).1 (signForm k).2 32
  else vsCycles s (verifyForm k).1 (verifyForm k).2 (ofBe (k.value.drop (5 * k.size / 16))) 32

/-- Slots and least ticks of the step a request is at (02 Table 02-5, R94, R636; 06 R266; 07 R304; 09 Table 09-10;
10 R423). -/
def stepCost (s : State) (r : Request) : Nat × Nat :=
  let d := r.desc
  let op := Desc.op d
  let l := r.step.src.length
  if r.stage = .crtCheck then (ceilDiv (modexpCycles r.cstep.modBits (classExp r)) 40, 1)
  else if r.stage = .keySign ∨ r.stage = .keyVerify then (ceilDiv (keyCheckCycles s r) 40, 1)
  else if r.kind = 0 then cipherCost d
  else if r.kind = 2 then digestCost d (if Desc.resume d then leAt r.step.auxiliary 8 8 else 0) l
  else if r.kind = 4 then (ceilDiv (vsCycles s d r.cstep (vsExponent r) l) 40, 1)
  else if r.kind = 5 then
    (if op = 0x0607 then keygenCost r
     else (ceilDiv (ssCycles s d r.cstep l) 40, 1))
  else if op = 0x0710 then (ceilDiv (Desc.dstMax d) 160, 1)
  else if op = 0x0702 ∨ (op = 0x0700 ∧ Desc.opxF d 0 2 ≠ 0) then (1, 1)
  else
    let n := if op = 0x0700 then l else exportLen s r.rid r.tenant d
    (ceilDiv (16 * ceilDiv n 16 + 120) 40, max 1 (ceilDiv n 320))

/-- Whether the step still takes a slot in this tick: it has run `slots` slots in all, of which `here` in this tick, and
has run in `ticks` ticks before. A serial step spreads its slots so that its last comes in its last tick, and finishes
when it has run the slots and the ticks of its cost (04 R636). -/
def wantsSlot (s : State) (r : Request) : Bool :=
  let (u, span) := stepCost s r
  let tick := if r.pieceTick = s.now ∧ r.pieceSlots > 0 then r.ticks else r.ticks + 1
  if tick ≥ span then decide (r.slots < u) else decide (r.slots < u - (span - tick)) || decide (r.pieceTick ≠ s.now)

/-- The digest state key that a step has taken from the endpoint at its first piece (05 R244). -/
def Request.sealKey (r : Request) : Bytes := readWords r.stateKey r.stateSym

/-- Whether a digest step resumes from a blob that opens under the key its first piece took (05 R244, R246). -/
def blobOpens (r : Request) : Bool :=
  r.kind == 2 && Desc.resume r.desc && (opened r.desc r.tenant r.sealKey r.step.auxiliary).isSome

/-- Whether the first piece of a digest step finds that its blob does not open, or its m beyond the largest (05 R236, R246). -/
def findsBroken (r : Request) : Bool :=
  r.kind == 2 && resumeBroken r.desc r.tenant r.sealKey r.step.auxiliary r.step.source

/-- Whether a step is refused in its first piece, for its KSN or its blob (04 R222; 05 R236, R246). -/
def brokenAtFirst (r : Request) : Bool := if r.kind = 0 then ksnBroken r.desc r.step.auxiliary else r.broken

/-- Whether the slots run so far end the step; one that is refused in its first piece ends with that piece. -/
def stepEnds (s : State) (r : Request) : Bool :=
  let (u, span) := stepCost s r
  decide (r.slots ≥ u ∧ r.ticks ≥ span) || brokenAtFirst r

/-! ### What a finished step leaves -/

/-- Hand `data` to the write bobbins, for an address, from a tick on (08 R345, 02 R69). -/
def Request.emit (r : Request) (addr : Nat) (data : Bytes) (aux : Bool) (ready : Nat) : Request :=
  if data.isEmpty then r
  else { r with outq := r.outq ++ [{ addr := BitVec.ofNat 64 addr, data := data, sym := symbolsOf data, ready := ready, aux := aux,
                                     step := r.cur }] }

/-- The request turns to its next step, ready from a tick on, or to draining after its last (02 R68, 03 R135). -/
def Request.advance (r : Request) (out aux : Bytes) (tick : Nat) : Request :=
  if r.cur + 1 ≥ r.descs.length then
    { r with stage := .draining, final := 0, auxOut := fitTo 8 aux, finished := false, pieceSlots := 0 }
  else
    let r := if Desc.feeds r.desc then r.updStep (r.cur + 1) fun x => { x with src := out, srcSym := symbolsOf out } else r
    { r with cur := r.cur + 1, readyTick := tick, slots := 0, ticks := 0, pieceSlots := 0, finished := false,
             stage := .running, reruns := 0, wait := 0, key := [], keySym := [], stateKey := [], stateSym := [],
             broken := false, units := [], check := [], redraw := false, pairAt := none }

/-- Hand the IV that the block supplied to the write bobbins, once (04 Table 04-5; 08 R334). -/
def Request.emitIv (r : Request) (iv : Bytes) (tick : Nat) : Request :=
  if r.step.ivSent then r else (r.emit (Desc.auxAddr r.desc) iv true tick).updStep r.cur fun x => { x with ivSent := true }

/-- The step ended with `DONE`: its output goes to host memory, in ascending address, to the chain buffer, or both (03 R135, R137; 08
R334). -/
def Request.done (r : Request) (res : StepResult) (tick : Nat) : Request :=
  let d := r.desc
  let k := r.step.streamed
  let host := fun (r : Request) => if Desc.toHost d then
      (r.emit (Desc.dstAddr d + k) (res.out.drop k) false tick).updStep r.cur fun x => { x with wrote := res.out.length }
    else r
  let iv := fun (r : Request) => r.emitIv res.ivOut tick
  (if Desc.auxAddr d < Desc.dstAddr d + k then host (iv r) else iv (host r)).advance res.out res.aux tick

/-- Output bytes that the slots and ticks run so far have finished, for the cipher steps whose output is streamed: 640
bytes a slot after the set-up of a parallel step, 20 AES blocks or 5 TDEA blocks a tick of a serial one (02 Table 02-5,
04 R172, R202; log entry 22). -/
def streamedLen (r : Request) : Nat :=
  let d := r.desc
  let op := Desc.op d
  let n := Desc.payLen d
  if [0x0100, 0x0101, 0x0103, 0x0105, 0x0107, 0x010C, 0x010D].contains op then min n (16 * (40 * r.slots - 24))
  else if op = 0x0110 then min (n - 16) (16 * (40 * r.slots - 24))
  else if op = 0x0108 then min n (16 * (40 * r.slots - 24 - ceilDiv (Desc.aadLen d) 16))
  else if [0x0102, 0x0104, 0x0106].contains op then min n (320 * r.ticks)
  else if op = 0x010A then min n (16 * ((20 * r.ticks - ceilDiv (Desc.aadLen d + 32) 16) / 2))
  else if op = 0x0200 ∨ op = 0x0201 ∨ op = 0x0203 then min n (8 * (40 * r.slots - 56))
  else if op = 0x0202 then min n (8 * (5 * r.ticks - 1)) else 0

/-- Hand the output of the pieces so far to the write bobbins, after the IV where that lies below it (02 R69; 08 R334, R345). -/
def Request.stream (r : Request) (out iv : Bytes) (tick : Nat) : Request :=
  let k := r.step.streamed
  let n := streamedLen r
  if Desc.toHost r.desc ∧ k < n then
    let r := if Desc.auxAddr r.desc < Desc.dstAddr r.desc then r.emitIv iv tick else r
    (r.emit (Desc.dstAddr r.desc + k) (slice out k (n - k)) false tick).updStep r.cur fun x => { x with streamed := n }
  else r

/-- The step ended with `DONE_NEGATIVE`: the chain stops (03 R141). -/
def Request.negative (r : Request) (aux : Bytes) : Request :=
  { r with stage := .draining, final := 1, auxOut := fitTo 8 aux, finished := false, pieceSlots := 0 }

/-- Count the end of a step in its station's registers (04 R225, 05 R252, 06 R291, 09 R406). -/
def countStep (r : Request) (status : Nat) (s : State) : State :=
  let op := Desc.op r.desc
  let st := r.step.station
  if r.kind = 0 then
    let n : Fin 2 := ⟨st % 2, Nat.mod_lt _ (by decide)⟩
    s.updCs n fun c =>
      if status = 0x1A then { c with tagMis := satInc 0xFFFF c.tagMis }
      else if status = 0x1B then { c with pinFmt := satInc 0xFFFF c.pinFmt }
      else if status = 1 then { c with macNeg := satInc 0xFFFF c.macNeg } else c
  else if r.kind = 2 then
    let n : Fin 2 := ⟨st % 2, Nat.mod_lt _ (by decide)⟩
    let bad := Desc.resume r.desc && !blobOpens r
    s.updDs n fun c =>
      if status = 1 then { c with cmpNeg := satInc 0xFFFF c.cmpNeg }
      else if status = 0x17 ∧ bad then { c with blobBad := satInc 0xFFFF c.blobBad }
      else
        { c with saves := if status = 0 ∧ Desc.dend r.desc = 2 then satInc 0xFFFF c.saves else c.saves }
  else if r.kind = 4 then
    s.updVs fun v =>
      if status = 1 then { v with verNeg := satInc 0xFFFF v.verNeg }
      else if status = 0x17 then { v with range := satInc 0xFFFF v.range }
      else if status = 0x18 ∨ status = 0x19 then { v with curve := satInc 0xFFFF v.curve } else v
  else if r.kind = 5 then
    s.updSs fun v =>
      if status = 0x30 then { v with noentCnt := satInc 0xFFFF v.noentCnt }
      else if status = 0x17 ∨ status = 0x18 ∨ status = 0x19 then { v with refuse := satInc 0xFFFF v.refuse } else v
  else if op = 0x0700 ∧ status = 0x17 then s.updKs fun k => { k with impFail := satInc 0xFFFF k.impFail }
  else s

/-- Settle a finished step whose result is `res`, for the tick `tick` that follows its last slot. -/
def settleStep (rid : Nat) (res : StepResult) (tick : Nat) (s : State) : State :=
  match s.req? rid with
  | none => s
  | some r =>
    let s := dropDerived (fun d => d.rid = rid && d.step = r.cur) (countStep r res.status s)
    if res.status = 0 then s.updReq rid fun r => r.done res tick
    else if res.status = 1 then s.updReq rid fun r => r.negative res.aux
    else failRequest rid res.status 0 tick s

/-! ### Records on their way to the store -/

/-- A key-store record of a template for a handle (09 Table 09-9). -/
def newRecord (s : State) (x : Template) (h : Nat) (value pub : Bytes) (exp : Bool) : StoreRec :=
  let a := x.alg.toNat
  { StoreRec.reset with recno := x.recno + (h - x.first), tenant := x.tenant, handle := BitVec.ofNat 20 h, alg := x.alg,
                        usage := x.usage, exp := exp, secret := secretFlag a x.secret, value := value, pub := pub,
                        gen := s.ks.gen, kcv := kcvBits (keyKcv a value pub) }

/-- Open the commit of a record that a request waits for, or place it in the receiving partition at once for a
cache-only template (09 R387, R396, 07 R318, R322). -/
def storeKey (r : Request) (value pub : Bytes) (exp alsoCache : Bool) (s : State) : State :=
  let h := Desc.keyB r.desc
  match templateOf s r.tenant h with
  | none => s
  | some x =>
    let exp := exp && x.exp
    let rec0 := newRecord s x h value pub exp
    if (recordNo s r.tenant h).isNone then receiveSlot (recordSlot rec0 .receiving (s.now + 1)) s
    else
      s.updKs fun k =>
        { k with commits := k.commits ++
            [{ Commit.reset with record := rec0, rid := some r.rid, replace := Desc.op r.desc == 0x0700 && Desc.opxF r.desc 7 1 == 1,
                                 cached := alsoCache }] }

/-- Place Z or a recovered key in the receiving partition (07 R318). -/
def receiveKey (r : Request) (value : Bytes) (s : State) : State :=
  let h := Desc.keyB r.desc
  match templateOf s r.tenant h with
  | none => s
  | some x =>
    let rec0 := newRecord s x h value [] x.exp
    let rec0 := if Desc.op r.desc = 0x0602 then { rec0 with usage := 4, secret := true } else rec0
    receiveSlot (recordSlot rec0 .receiving (s.now + 1)) s

end Sys2Proof.Machine
end

