-- ==== Sys2Proof/Machine/Fabric.lean ====
section
/-! DEFINITION. The host fabric: bursts, budgets, returns, event lines, and the completion writer
(08 R332 to R363, 03 R153 to R158). -/
namespace Sys2Proof.Machine

/-- A fabric port index. -/
def portFin (n : Nat) : Fin 4 := ⟨n % 4, Nat.mod_lt _ (by decide)⟩

/-- Identity of a tenant's ring pair on the fabric (08 Table 08-1). -/
def ringIdent (t k : Nat) : Ident := BitVec.ofNat 12 (0x800 + 4 * t + k)
/-- Tenant of a ring identity. -/
def identTenant (i : Ident) : Nat := (i.toNat - 0x800) / 4 % 64
/-- Ring pair of a ring identity. -/
def identRing (i : Ident) : Nat := i.toNat % 4

/-- Lowest tag no outstanding burst of a port and direction carries (18 R609). -/
def freeTag (s : State) (port : Nat) (write : Bool) : Nat :=
  let used := (s.fab.bursts.filter fun b => b.port = port && b.write == write).map Burst.tag
  ((List.range 257).find? fun n => !used.contains n).getD 256

/-- Payload bursts outstanding on a port in a direction. -/
def payloadOut (s : State) (port : Nat) (write : Bool) : Nat :=
  (s.fab.bursts.filter fun b => b.port = port && b.write == write && !b.dead && (match b.kind with
    | .input _ _ _ | .output _ _ => true
    | _ => false)).length

/-- Bursts that the payload bobbins of a port keep outstanding: 32 each, bobbin 7 being the management's
(08 R332, R333). -/
def payloadCap (port : Nat) : Nat := if port = 3 then 32 else 64

/-- Bytes of a burst that begins at `addr` with `n` bytes to go (08 R333). -/
def burstLen (addr n : Nat) : Nat := min n (512 - addr % 512)

/-- Issue a burst; what it writes is tested against its check symbols and stripped of them as it leaves (01 R28). -/
def issueBurst (port : Nat) (write : Bool) (addr len : Nat) (ident : Ident) (kind : BurstKind) (data sym : Bytes) (s : State) :
    State :=
  let b : Burst := { tag := freeTag s port write, port := port, write := write, addr := BitVec.ofNat 64 addr, len := len,
                     ident := ident, kind := kind, data := readWords data sym, tick := s.now, wall := s.wall, dead := false,
                     dropped := false }
  s.updFab fun f => { f with bursts := f.bursts ++ [b] }

/-! ### Management transfers -/

/-- Identity of a control processor's transfers (08 Table 08-1): 0 Custody, 1 Supervisor, 2 Registrar. -/
def mgmtIdent (proc : Nat) : Ident := BitVec.ofNat 12 (0xF00 + proc % 3)

/-- A control processor starts a transfer of `len` bytes from host memory (08 R342; log entry 83). -/
def startRead (proc addr len : Nat) (s : State) : State :=
  if len = 0 then s
  else s.updFab fun f => { f with mgmt := f.mgmt ++ [{ MgmtXfer.reset with proc := proc, addr := BitVec.ofNat 64 addr, left := len }] }

/-- A control processor starts a transfer of bytes to host memory (08 R342; log entry 83). -/
def startWrite (proc addr : Nat) (data : Bytes) (s : State) : State :=
  if data.isEmpty then s
  else s.updFab fun f =>
    { f with mgmt := f.mgmt ++ [{ proc := proc, write := true, addr := BitVec.ofNat 64 addr, left := data.length, data := data,
                                  sym := symbolsOf data }] }

/-- Management bursts outstanding in a direction: those of bobbin 7 (08 R332, R333). -/
def mgmtOut (s : State) (write : Bool) : Nat :=
  (s.fab.bursts.filter fun b => b.write == write && !b.dead && (match b.kind with
    | .mgmt _ => true
    | _ => false)).length

/-- What a management transfer writes, tested as it leaves: a corrected word is reported; at one that cannot be corrected the transfer
ends (01 R28, R31; 12 R480). -/
def testMgmt (x : MgmtXfer) (s : State) : State × Bool :=
  if wordsLost x.data x.sym then
    (faultReport (sourceId 7 2 7 4) 0
      ((s.updFab fun f => { f with mgmt := f.mgmt.erase x }).updFlt fun f => { f with hostBad := f.hostBad || x.proc == 1 }), true)
  else if wordsMended x.data x.sym then (faultReport (sourceId 7 2 7 3) 0 s, false)
  else (s, false)

/-- One burst of the oldest management transfer of a direction, on port 3, within the 80 × M bytes of the tick (08 R333, R336,
R342). -/
def mgmtTurn (write : Bool) (s : State) : State :=
  match s.fab.mgmt.find? fun x => x.write == write with
  | none => s
  | some x =>
    let room := 80 * s.image.mgmtCap - (if write then s.fab.mgWr else s.fab.mgRd)
    let len := min room (burstLen x.addr.toNat x.left)
    if len = 0 ∨ mgmtOut s write ≥ 32 then s
    else
      match testMgmt x s with
      | (s, true) => s
      | (s, false) =>
        let whole := readWords x.data x.sym
        let data := whole.take len
        let left := whole.drop len
        let s := issueBurst 3 write x.addr.toNat len (mgmtIdent x.proc) (.mgmt x.proc) data (symbolsOf data) s
        let rest := { x with addr := x.addr + BitVec.ofNat 64 len, left := x.left - len, data := left, sym := symbolsOf left }
        s.updFab fun f =>
          { f with mgmt := if x.left ≤ len then f.mgmt.erase x else f.mgmt.map fun y => if y = x then rest else y,
                   mgRd := if write then f.mgRd else f.mgRd + len, mgWr := if write then f.mgWr + len else f.mgWr }

/-- The management bursts that a direction issues now, back to back (08 R342). -/
def issueMgmt (write : Bool) (s : State) : State := (List.range 16).foldl (fun s _ => mgmtTurn write s) s

/-! ### Payload -/

/-- Port of a request: its ring pair's (03 R114). -/
def portOf (s : State) (r : Request) : Nat := (s.ring (tenantFin r.tenant) (ringFin r.ring)).port.toNat

/-- Source and auxiliary host bytes that a step reads. -/
def hostAreas (d : Desc) (need : Nat) : Nat × Nat :=
  let n := if Desc.src d = 0 then Desc.srcLen d else 0
  (n, need - n)

/-- Place of the next input byte of a step: its offset in source then auxiliary, its address, and the bytes to go in its area. The
area at the lower address is read first (08 R334); that of a step whose input is read in turn as pieces consume it begins with what its
first piece consumes, its auxiliary area (08 R348; log entry 113). -/
def inputPlace (d : Desc) (inTurn : Bool) (need issued : Nat) : Nat × Nat × Nat :=
  let (n, m) := hostAreas d need
  let src := fun k => (k, Desc.srcAddr d + k, n - k)
  let aux := fun k => (n + k, Desc.auxAddr d + k, m - k)
  if m ≠ 0 ∧ (inTurn ∨ Desc.auxAddr d < Desc.srcAddr d) then (if issued < m then aux issued else src (issued - m))
  else if issued < n then src issued else aux (issued - n)

/-- Staging chunks of a station that no platform's reservation covers (08 R347, R348; log entry 84). -/
def stagingPool (s : State) (st : Nat) : Nat := 256 - (s.image.shares.map fun x => x.staging.getD st 0).sum

/-- Stations in whose staging a step's host input is placed: its own, or both of its kind for a cipher or digest step of any station that no
key transfer or piece has fixed yet (08 R344, R347; log entry 84). -/
def stagedAt (d : Desc) (x : StepState) : List Nat :=
  if x.station ≤ 3 then [x.station]
  else if x.station = 255 ∧ opKind (Desc.op d) ≤ 3 then [opKind (Desc.op d) / 2 * 2, opKind (Desc.op d) / 2 * 2 + 1] else []

/-- Whether the host input of a step goes through a region of the common pool: that of an over-rate or freight request on a cipher or digest
station (08 R348). -/
def takesRegion (r : Request) (d : Desc) (x : StepState) : Bool := r.rate != .inRate && !(stagedAt d x).isEmpty

/-- Staging chunks of a common pool that the input of a step takes: at most 64 KiB (08 R348). -/
def regionNeed (r : Request) (d : Desc) (x : StepState) : Nat := if takesRegion r d x then ceilDiv (min x.need 65536) 4096 else 0

/-- Whether the input of a step is read in turn into its region, as pieces consume it (08 R348). -/
def readInTurn (r : Request) (d : Desc) (x : StepState) : Bool := takesRegion r d x && decide (x.need > 65536)

/-- Staging chunks of a station's common pool in use. -/
def poolUsed (s : State) (st : Nat) : Nat :=
  (s.reqs.flatMap fun y => ((y.steps.zip y.descs).filter fun z => (stagedAt z.2 z.1).contains st).map fun z => z.1.region).sum

/-- Whether a step has its region, or finds room for one in the common pool (08 R348). -/
def regionFree (s : State) (r : Request) (d : Desc) (x : StepState) : Bool :=
  x.region ≥ regionNeed r d x || (stagedAt d x).all fun st => decide (poolUsed s st + regionNeed r d x ≤ stagingPool s st)

/-- Host input of a step that its first `slots` slots consume (08 R348; log entry 84). -/
def consumedBy (s : State) (r : Request) (need slots : Nat) : Nat := min need (ceilDiv (need * slots) (max 1 (stepCost s r).1))

/-- Input of a step that may be read so far: all of it, or what its region of 64 KiB holds beyond what pieces have consumed
(08 R348). -/
def readLimit (s : State) (r : Request) (i : Nat) (d : Desc) (x : StepState) : Nat :=
  if !takesRegion r d x then x.need
  else min x.need (65536 + (if i = r.cur then consumedBy s r x.need r.slots else 0))

/-- Next host input of a request that may be read: step, offset, address, bytes to go (08 R334, R348). `vs` limits it to VS
steps. -/
def nextInput (s : State) (vs : Bool) (r : Request) : Option (Nat × Nat × Nat × Nat) :=
  match (r.steps.zip r.descs).zipIdx.find? fun x => x.1.1.issued < x.1.1.need && (!vs || opKind (Desc.op x.1.2) == 4) with
  | none => none
  | some ((x, d), i) =>
    let room := readLimit s r i d x - x.issued
    let (off, addr, n) := inputPlace d (readInTurn r d x) x.need x.issued
    if room = 0 ∨ !regionFree s r d x then none else some (i, off, addr, min room n)

/-- Requests in the order of the budgets: in rate, over rate, freight, oldest first (08 R339). -/
def budgetOrder (l : List Request) : List Request :=
  l.filter (·.rate = .inRate) ++ l.filter (·.rate = .overRate) ++ l.filter (·.rate = .freight)

/-- Whether a request holds any state at a station (12 R476): a piece, context or staged bytes of the step it is at, staged
input of a later one, output of a finished one that is not written yet, a region, a hold chunk, or a key. The input of a
step that has finished counts no longer (log entry 37). -/
def holdsState (s : State) (st : Nat) (r : Request) : Bool :=
  let regs := ((s.stations.toList[st]?).map fun x => x.active ++ x.loading).getD []
  let finished := fun i => decide (i < r.cur) || r.stage == .draining
  let staged := fun (x : StepState) => !(x.src.isEmpty && x.aux.isEmpty && x.out.isEmpty && x.landed == 0 && x.drawn.isEmpty)
  (r.steps.zipIdx.any fun p => p.1.station = st && (if finished p.2 then r.outq.any (fun o => o.step = p.2) else staged p.1)) ||
    (st == 4 && r.vsBlocks != 0) || (st == 5 && r.ssBlocks != 0) || (r.steps.any fun x => x.hold != 0 && x.station == st) ||
    (regs.any fun k => k.users.any fun u => u.1 = r.rid) || (r.stage != .draining && r.runsOn == st && (r.slots != 0 || r.pieceSlots != 0))

/-- Whether a request has lost its work at this boundary: a station that holds state of it stops there, or the block locks
down (12 R476, R478). It issues no burst, and it does not complete. -/
def doomed (s : State) (r : Request) : Bool :=
  s.locked || (List.range 7).any fun st => stopDue s st s.now && holdsState s st r

/-- A request whose next burst falls outside the windows in force, or whose tenant has no share of the port, ends with
`ADDRESS_WINDOW` (08 R350, R351). -/
def windowFail (r : Request) (step : Nat) (s : State) : State := failStep r.rid step 0x12 0 (s.now + 1) s

/-- One read burst of a tenant on a port, within its budget (08 R338 to R340, R348, R351). Operands of VS come before
unread input of earlier steps (DESIGN CHOICE, log entry 107). -/
def readTurn (port t : Nat) (s : State) : State :=
  let room := 80 * shareOf s (tenantFin t) port - lookupD (t, port) 0 s.fab.rdUsed
  let mine := s.reqs.filter fun r => r.tenant = t && portOf s r == port && r.stopAt.isNone && !doomed s r
  let vs := (mine.filter fun r => r.admitTick = s.now).find? fun r => (nextInput s true r).isSome
  let any := (budgetOrder mine).find? fun r => (nextInput s false r).isSome
  let pick := match vs with
    | some r => (nextInput s true r).map fun x => (r, x)
    | none => any.bind fun r => (nextInput s false r).map fun x => (r, x)
  match pick with
  | none => s
  | some (r, i, off, addr, n) =>
    let len := min room (burstLen addr n)
    if shareOf s (tenantFin t) port = 0 then windowFail r i s
    else if len = 0 ∨ payloadOut s port false ≥ payloadCap port then s
    else if !inWindows s (tenantFin t) addr len true false then windowFail r i s
    else
      let s := issueBurst port false addr len (ringIdent t r.ring) (.input r.rid i off) [] [] s
      let s := s.updReq r.rid fun r => r.updStep i fun x => { x with issued := x.issued + len, region := max x.region (regionNeed r (r.descs.getD i []) x) }
      s.updFab fun f => { f with rdUsed := assoc (t, port) (lookupD (t, port) 0 f.rdUsed + len) f.rdUsed }

/-- Source identity of a checker of the staging memory of a station (01 Table 01-4: engine 7, lane 1). -/
def srcStaging (st checker : Nat) : BitVec 16 := sourceId st 7 1 checker

/-- Output whose words the test at the exit finds in error: a corrected one is reported, an uncorrectable one is reported and ends its
request (01 R28, R31; 12 R480). `none`: nothing to report, or only corrections. -/
def testOutput (r : Request) (o : OutPart) (s : State) : State × Bool :=
  let st := (r.steps.getD o.step StepState.reset).station
  if wordsLost o.data o.sym then
    (failRequest r.rid 0x3F (srcStaging st 4) (s.now + 1) (faultReport (srcStaging st 4) 0 s), true)
  else if wordsMended o.data o.sym then (faultReport (srcStaging st 3) 0 s, false)
  else (s, false)

/-- One write burst of a tenant on a port, within its budget; the request that has nothing left to write after it completes
(08 R339, R340, R345, R351; 03 R153). -/
def writeTurn (port t : Nat) (s : State) : State :=
  let room := 80 * shareOf s (tenantFin t) port - lookupD (t, port) 0 s.fab.wrUsed
  let mine := s.reqs.filter fun r => r.tenant = t && portOf s r == port && r.stopAt.isNone && !doomed s r
  match (budgetOrder mine).findSome? fun r => match r.outq with
      | o :: _ => if o.ready ≤ s.now then some (r, o) else none
      | [] => none with
  | none => s
  | some (r, o) =>
    let addr := o.addr.toNat
    let len := min room (burstLen addr o.data.length)
    if shareOf s (tenantFin t) port = 0 then windowFail r o.step s
    else if len = 0 ∨ payloadOut s port true ≥ payloadCap port then s
    else if !inWindows s (tenantFin t) addr len false true then windowFail r o.step s
    else
      match testOutput r o s with
      | (s, true) => s
      | (s, false) =>
        let data := readWords o.data o.sym
        let now := data.take len
        let left := data.drop len
        let s := issueBurst port true addr len (ringIdent t r.ring) (.output r.rid o.step) now (symbolsOf now) s
        let s := s.updReq r.rid fun r =>
          { r with outq := if left.isEmpty then r.outq.drop 1
                           else { o with addr := o.addr + BitVec.ofNat 64 len, data := left, sym := symbolsOf left } :: r.outq.drop 1 }
        closeDrained r.rid s.now (s.updFab fun f => { f with wrUsed := assoc (t, port) (lookupD (t, port) 0 f.wrUsed + len) f.wrUsed })

/-- Tenants that have requests, in the rotation of a port: from the one after that which it served last in the tick, else from tenant
TRH_TICK mod 64 (08 R340). -/
def rotation (last : List (Nat × Nat)) (port : Nat) (s : State) : List Nat :=
  let start := match last.lookup port with
    | some t => t + 1
    | none => s.now % 64
  sortBy (fun t => (t + 64 - start % 64) % 64) ((s.reqs.map Request.tenant).eraseDups)

/-- One burst of a tenant on a port, if it has one to issue: the port then turns to the next (08 R340). -/
def takeTurn (turn : Nat → Nat → State → State) (note : Nat → Nat → Fabric → Fabric) (p t : Nat) (s : State) : State :=
  let s' := turn p t s
  if s'.fab.bursts.length = s.fab.bursts.length then s' else s'.updFab (note p t)

/-- The bursts of a tick on all ports, one from each tenant in turn; each bobbin pair takes at most its outstanding
bursts (08 R333, R340). -/
def issueAll (last : State → List (Nat × Nat)) (turn : Nat → Nat → State → State) (note : Nat → Nat → Fabric → Fabric) (s : State) :
    State :=
  (List.range 4).foldl (fun s p =>
    let ts := rotation (last s) p s
    if ts.isEmpty then s
    else (List.range (payloadCap p)).foldl (fun s _ => ts.foldl (fun s t => takeTurn turn note p t s) s) s) s

/-- The reads that the ports issue now (08 R339, R342). -/
def issueReads (s : State) : State :=
  issueMgmt false (issueAll (fun s => s.fab.rdTurn) readTurn (fun p t f => { f with rdTurn := assoc p t f.rdTurn }) s)

/-- The requests that have run their last step and have nothing left to write complete, oldest first (08 R345). -/
def closeIdle (s : State) : State :=
  ((s.reqs.filter fun r => !doomed s r).map Request.rid).foldl (fun s rid => closeDrained rid s.now s) s

/-- The writes that the ports issue now. A request that has nothing left to write completes in the tick: those without output first, the
others in the order of their last data bursts; hold chunks whose release is done are given back (04 R199, R202; 08 R342, R345;
03 R153). -/
def issueWrites (s : State) : State :=
  let s := issueMgmt true
    (issueAll (fun s => s.fab.wrTurn) writeTurn (fun p t f => { f with wrTurn := assoc p t f.wrTurn }) (closeIdle s))
  s.reqs.foldl (fun s r => ((List.range r.steps.length).filter (holdReleased r)).foldl (freeHold r) s) s

/-! ### Event lines -/

/-- An event of a kind for a tenant's ring pair in a cycle of the tick: it pulses the lines whose map matches; within 80 cycles of the
pulse before, it is merged (08 R360; log entry 20). -/
def fabricEvent (t k kind cycle : Nat) (s : State) : State :=
  let c := 320 * s.now + cycle
  (List.finRange 16).foldl (fun s n =>
    let m := s.fab.evMap[n]
    if bitAt m 31 ∧ fieldNat m 26 2 = kind ∧ fieldNat m 16 6 = t ∧ bitAt m (22 + k) then
      match s.fab.evStart[n] with
      | some b =>
        if c < b + 80 then s.updFab fun f => { f with evOvr := f.evOvr ||| (BitVec.ofNat 16 1 <<< n.val) }
        else s.updFab fun f => { f with evStart := f.evStart.set n (some c) }
      | none => s.updFab fun f => { f with evStart := f.evStart.set n (some c) }
    else s) s

/-- Level of event line `n` in cycle `c` of the tick (08 R360). -/
def eventLine (s : State) (n : Fin 16) (c : Nat) : Bool :=
  match s.fab.evStart[n] with
  | some b => decide (b ≤ 320 * s.now + c ∧ 320 * s.now + c < b + 40)
  | none => false

/-! ### Returns -/

/-- The outstanding burst with a tag. -/
def burstOf (s : State) (port : Nat) (write : Bool) (tag : Nat) : Option Burst :=
  s.fab.bursts.find? fun b => b.port = port && b.write == write && b.tag = tag

/-- A burst is answered and its tag free. -/
def dropBurst (b : Burst) (s : State) : State :=
  s.updFab fun f => { f with bursts := f.bursts.filter fun x => !(x.port = b.port && x.write == b.write && x.tag = b.tag) }

/-- Update the counters of a port. -/
def updPort (p : Nat) (f : Port → Port) (s : State) : State :=
  s.updFab fun x => { x with ports := x.ports.set (portFin p) (f x.ports[portFin p]) }

/-- Source identity of a port's checker (01 Table 01-4: station 7, engine 3, lane p). -/
def srcPort (p checker : Nat) : BitVec 16 := sourceId 7 3 (p % 4) checker

/-- The request a burst belongs to. -/
def burstRid (b : Burst) : Option Nat :=
  match b.kind with
  | .input r _ _ => some r
  | .output r _ => some r
  | _ => none

/-- Whether a burst belongs to a management transfer. -/
def isMgmt (b : Burst) : Bool := match b.kind with
  | .mgmt _ => true
  | _ => false

/-- A return is timed: its time is held in PEAK, and one later than 120 ns is counted, reported, and charged to its
request (08 R353). -/
def timeReturn (b : Burst) (ns : Nat) (s : State) : State :=
  let s := updPort b.port (fun p => { p with peak := max p.peak (min 255 ns) }) s
  if ns ≤ 120 then s
  else
    let s := updPort b.port (fun p => { p with late := satInc 0xFFFF p.late }) s
    let s := if isMgmt b then s else s.updPage (tenantFin (identTenant b.ident)) fun p => { p with fabLate := satInc 0xFFFF p.fabLate }
    let s := match burstRid b with
      | some rid =>
        let s := { s with ended := s.ended.map fun (e : Ended) => if e.rid = rid then { e with late := true } else e }
        s.updReq rid fun r => { r with late := true }
      | none => s
    assertBlk 18 (faultReport (srcPort b.port 22) (BitVec.ofNat 16 (min ns 0xFFFF)) s)

/-- A ring stops with a cause, and the tenant's error source is raised (03 R127, R156). -/
def stopRing (t k : Nat) (cause : BitVec 4) (lost : Bool) (s : State) : State :=
  assertTn (tenantFin t) srcError
    (s.updRing (tenantFin t) (ringFin k) fun r => { r with cfgErr := cause, stopped := true, lost := r.lost || lost })

/-- A completion write failed: the tail goes back to the lost entry, or to an earlier one that is lost after it (03 R156).
A pair set up anew meanwhile is stopped as it stands (DESIGN CHOICE, log entry 102). -/
def loseEntry (t k : Nat) (index : BitVec 16) (s : State) : State :=
  let s := s.updRing (tenantFin t) (ringFin k) fun r =>
    let far := fun (i : BitVec 16) => (i.toNat + r.entries - r.cqHead.toNat % r.entries) % r.entries
    if r.lost ∧ far r.cqTail ≤ far index then r
    else { r with cqTail := index, phase := if r.cqTail.toNat < index.toNat then !r.phase else r.phase }
  stopRing t k 4 true s

/-- A management transfer of a control processor fails: it is counted and reported as a fault of port 3, and its retry is left to the
firmware (08 R357, R359; 11 Table 11-9). -/
def transferFailed (s : State) : State :=
  assertBlk 19 (faultReport (srcPort 3 23) 0 (updPort 3 (fun p => { p with err := satInc 0xFFFF p.err }) s))

/-- An error response or a timeout of a burst (08 R356, R359). A payload burst fails its request, one that has ended with another status and
whose entry is not issued too; nobody takes the failure of a burst that nobody waits for (03 R125; 12 R478; log entry 85). -/
def burstError (b : Burst) (s : State) : State :=
  let src := srcPort b.port 23
  if isMgmt b then
    (transferFailed s).updFlt fun f => if b.ident = mgmtIdent 1 then { f with hostBad := true } else f
  else
  let s := faultReport src 0 (updPort b.port (fun p => { p with err := satInc 0xFFFF p.err }) s)
  if b.dropped then s
  else match b.kind with
  | .mgmt _ => s
  | .desc t k _ => stopRing t k 3 false s
  | .completion t k i => loseEntry t k i s
  | .input rid step _ | .output rid step =>
    let count := s.updPage (tenantFin (identTenant b.ident)) fun p => { p with fabErr := satInc 0xFFFF p.fabErr }
    match s.req? rid, s.ended.find? fun e => e.rid = rid with
    | some _, _ => failStep rid step 0x31 src (s.now + 1) count
    | none, some e => if e.status = 0x31 then s else failEnded e step 0x31 src (s.now + 1) count
    | none, none => if b.write then s.updFab fun f => { f with badOut := addNew rid f.badOut } else s

/-- Bytes written over a string from an offset. -/
def putBytes (dst : Bytes) (off : Nat) (b : Bytes) : Bytes := dst.take off ++ b ++ dst.drop (off + b.length)

/-- Read data lands in the region of its step, with the check symbols that the read bobbin computes; the last input of the request is an
input-landed event (01 R27; 08 R344, R360). -/
def landInput (rid step off cycle : Nat) (data : Bytes) (s : State) : State :=
  match s.req? rid with
  | none => s
  | some r =>
    let n := (hostAreas (r.descs.getD step []) 0).1
    let s := s.updReq rid fun r => r.updStep step fun x =>
      let x := if off < n then
          let b := putBytes x.src off data
          { x with src := b, srcSym := symbolsOf b }
        else
          let b := putBytes x.aux (off - n) data
          { x with aux := b, auxSym := symbolsOf b }
      { x with landed := x.landed + data.length, landTick := s.now }
    match s.req? rid with
    | some r => if r.steps.all (fun x => decide (x.landed ≥ x.need)) then fabricEvent r.tenant r.ring 0 cycle s else s
    | none => s

/-- A descriptor lands and is held (03 R125); one of a ring that was disabled or whose tenant was reset is discarded. Data
of a read that was issued at an earlier boundary counts as landed after cycle 160 of its tick: it is used from the next
boundary (03 R635). -/
def landDescriptor (b : Burst) (t k : Nat) (i : BitVec 16) (data : Bytes) (ns cycle : Nat) (s : State) : State :=
  s.updRing (tenantFin t) (ringFin k) fun r =>
    if r.fetching ∧ !r.held.any (fun h => h.index = i) ∧ b.dead = false then
      { r with held := r.held ++ [{ index := i, bytes := fitTo 64 data, sym := symbolsOf (fitTo 64 data), landTick := s.now,
                                    landCycle := if b.tick = s.now then cycle else 320, late := decide (ns > 120) }] }
    else r

/-- Limit of a burst's return in ns (08 R355). -/
def returnLimit : Nat := 4096

/-- A burst times out: it counts as an error, and what still returns of it is discarded (08 R355, R357). -/
def burstTimeout (b : Burst) (s : State) : State :=
  let s := s.updFab fun f =>
    { f with bursts := f.bursts.map fun x => if x.port = b.port ∧ x.write = b.write ∧ x.tag = b.tag then { x with dead := true } else x }
  burstError b (assertBlk 18 (updPort b.port (fun p => { p with timeout := satInc 0xFF p.timeout }) s))

/-- A return of a burst is taken: it is timed and its tag free. One that took longer than the limit has timed out; what comes from a
burst that timed out is discarded (08 R353, R355, R357). `act` takes what a good return brings. -/
def takeReturn (b : Burst) (err : Bool) (ns : Nat) (act : State → State) (s : State) : State :=
  let s := if ns > returnLimit ∧ !b.dead then burstTimeout b s else s
  let s := timeReturn b ns (dropBurst b s)
  if b.dead ∨ ns > returnLimit then s else if err then burstError b s else if b.dropped then s else act s

/-- A read burst returns. -/
def readReturn (b : Burst) (data : Bytes) (err : Bool) (ns cycle : Nat) (s : State) : State :=
  takeReturn b err ns (fun s =>
    match b.kind with
    | .input rid step off => landInput rid step off cycle (fitTo b.len data) s
    | .desc t k i => landDescriptor b t k i data ns cycle s
    | _ => s) s

/-- Whether a request has host output to write yet: some that waits, or what a step that it is at or has still to run writes (08 R345,
R360). -/
def moreToWrite (r : Request) : Bool :=
  !r.outq.isEmpty || (r.stage != .draining && (r.descs.drop r.cur).any fun d => Desc.toHost d || auxReceives d)

/-- The host copy of the latest dump is written once every burst of the Supervisor's transfer has had a good response (12 R488, Table
12-24). -/
def hostCopyDone (s : State) : State :=
  let out := fun (b : Burst) => b.write && (match b.kind with
    | .mgmt p => p == 1
    | _ => false)
  if s.fab.mgmt.any (fun x => x.proc = 1) ∨ s.fab.bursts.any out ∨ s.flt.hostBad then s
  else s.updFlt fun f => { f with dumpHost := true }

/-- A write response returns in a cycle of the tick; the last one of a request's output is an output-landed event, one of an entry an
entry-acknowledged event (08 R345, R360). A request that ended with `FABRIC_ERROR` before its entry makes an output-landed event where a
good response comes last (log entry 85). -/
def writeReturn (b : Burst) (err : Bool) (ns cycle : Nat) (s : State) : State :=
  takeReturn b err ns (fun s =>
    match b.kind with
    | .completion t k _ => fabricEvent t k 2 cycle s
    | .mgmt p => if p = 1 then hostCopyDone s else s
    | .output rid _ =>
      let more := s.fab.bursts.any fun x => burstRid x == some rid && x.write
      let running := (s.req? rid).any moreToWrite
      if more || running then s
      else if s.fab.badOut.contains rid then s.updFab fun f => { f with badOut := f.badOut.filter (· ≠ rid) }
      else fabricEvent (identTenant b.ident) (identRing b.ident) 1 cycle s
    | _ => s) s

/-! ### Completion entries -/

/-- Time units of 0.2 ns of the tick that runs: 320 cycles of 0.8 ns or 1.0 ns, or of both around a switch
(02 R63, 13 R499). -/
def tickUnits (s : State) : Nat := 4 * s.pwr.fast + 5 * (320 - s.pwr.fast)

/-- Completion delta of an entry written in this tick (02 R96). -/
def deltaOf (s : State) (e : Ended) : Nat := s.now + 1 - e.admitTick

/-- BOUND_HELD (02 R97). -/
def boundHeld (s : State) (e : Ended) : Bool :=
  e.admitted && e.through && e.rate == .inRate && decide (deltaOf s e ≤ e.bound) &&
    decide (s.wall + tickUnits s - e.admitWall ≤ e.bound * 1280) && !e.late

/-- Flags of an entry without PHASE (03 Table 03-17). -/
def entryFlags (s : State) (e : Ended) : BitVec 8 :=
  if !e.admitted then 0
  else
    let held := boundHeld s e
    BitVec.ofNat 8 ((if e.rate = .overRate then 8 else 0) + (if e.replayed ∧ held then 4 else 0) +
      (if e.rate = .freight then 2 else 0) + (if held then 1 else 0))

/-- The 32 bytes of a completion entry (03 Table 03-16). -/
def entryBytes (s : State) (e : Ended) (phase : Bool) : Bytes :=
  Desc.tag (e.descs.getD 0 []) ++ [e.status, entryFlags s e ||| (if phase then 0x80 else 0), 0, 0] ++ leBytes 4 e.outLen ++
    leBytes 4 e.admitTick ++ leBytes 4 (deltaOf s e) ++ fitTo 8 e.auxOut

/-- Coalescing at the writing of an entry (03 R157, R158). A COUNT lowered while entries pend is met at the next
written entry (DESIGN CHOICE, log entry 103). -/
def signalEntry (t : Tenant) (k : RingNo) (e : Ended) (s : State) : State :=
  let bad := decide (e.status.toNat ≥ 0x10)
  let s := if e.noint then s
    else s.updRing t k fun r => { r with pend := r.pend + 1, oldest := r.oldest <|> some s.now }
  let r := s.ring t k
  let hit := bad || e.immed || (r.pend != 0 && decide (r.pend ≥ max 1 r.coalCount.toNat))
  let s := if hit then assertTn t srcCompletion (s.updRing t k fun r => { r with pend := 0, oldest := none }) else s
  if bad then assertTn t srcError s else s

/-- Place in ring order of the audit record that is made next (03 R165). -/
def auditNext (p : TenantPage) : Nat := ((p.auditPend.map fun a => a.seq + 1).foldl max 0)

/-- Write the entry of an ended request, or lose it where its ring has lost one before (03 R153 to R158, R163, R164;
02 R97, R98, Table 02-17). An entry outside the windows in force is not issued, and its ring loses it (08 R351; log entry 86). -/
def writeEntry (e : Ended) (s : State) : State :=
  let t := tenantFin e.tenant
  let k := ringFin e.ring
  let r := s.ring t k
  let flags := entryFlags s e
  let addr := r.cqBase.toNat + 32 * r.cqTail.toNat
  let lost := r.lost || !inWindows s t addr 32 false true
  let audit : AuditRec := { tick := s.now, ring := e.ring, seq := auditNext (s.page t),
                            digest := auditDigest e.descs e.status flags e.admitTick (deltaOf s e) }
  let s := s.updPage t fun p =>
    settleAbort { p with auditPend := p.auditPend ++ [audit],
                         abortCount := if p.abortReqs.contains e.rid ∧ e.status = 0x20 ∧ p.abortResult = 1 ∧ !lost then p.abortCount + 1
                           else p.abortCount,
                         abortReqs := p.abortReqs.filter (· ≠ e.rid) }
  let s := if e.admitted then
      let missed := e.through && e.rate == .inRate && !boundHeld s e
      let upd := fun (p : PlatStat) => { p with depth := p.depth - 1, miss := if missed then satInc 0xFFFF p.miss else p.miss }
      s.updTt fun x => { x with plats := if h : e.plat < 1024 then x.plats.set e.plat (upd x.plats[e.plat]) else x.plats }
    else s
  let s := s.updRing t k fun r => { r with outstanding := r.outstanding - 1 }
  if r.lost then s
  else if lost then stopRing e.tenant e.ring 5 true s
  else
      let data := entryBytes s e r.phase
      let s := issueBurst r.port.toNat true addr 32 (ringIdent e.tenant e.ring) (.completion e.tenant e.ring r.cqTail)
        data (symbolsOf data) s
      let s := s.updRing t k fun r =>
        let n := (r.cqTail.toNat + 1) % r.entries
        { r with cqTail := BitVec.ofNat 16 n, phase := if n = 0 then !r.phase else r.phase }
      signalEntry t k e s

/-- The completion writer writes the oldest entry that is due (03 R153). -/
def writeNextEntry (s : State) : State :=
  match s.ended.find? fun e => e.due ≤ s.now with
  | none => s
  | some e => writeEntry e { s with ended := s.ended.filter fun x => x.rid ≠ e.rid }

end Sys2Proof.Machine
end

