-- ==== Sys2Proof/Machine/Slots.lean ====
section
/-! DEFINITION. The slot sequencer: what runs in a slot, the key bus, internal steps (02 R76 to R84, R100;
04 R173, R189; 06 R257, R287; 07 R312; 12 R474). -/
namespace Sys2Proof.Machine

/-- Logical positions of a station (02 Table 02-3). -/
def positions (st : Nat) : Nat := if st ≤ 1 then 3 else if st ≤ 3 then 4 else if st = 4 then 5 else if st = 5 then 3 else 10

/-- Slot entry of a station for a tick, slot and position in the timetable in force (02 R83 to R85). -/
def entryAt (s : State) (st tick slot pos : Nat) : BitVec 16 :=
  let tb := s.image.tables.getD st StnTable.reset
  let order := tb.orders.getD s.tt.active.toNat []
  let frame := order.getD (tick % 4096 / 64) 0 % 32
  (tb.frames.getD frame []).getD (((tick % 64) * 8 + slot) * positions st + pos) 0x3FF

/-- PLAT of a slot entry (02 Table 02-2). -/
def entryPlat (e : BitVec 16) : Nat := fieldNat e 0 10
/-- STBY. -/
def entryStandby (e : BitVec 16) : Bool := bitAt e 12
/-- Borrowers of an entry in its selector's order, those its platform names (02 Table 02-2, Table 02-4). -/
def entryBorrowers (s : State) (e : BitVec 16) : List Nat :=
  let p := s.image.plats.getD (entryPlat e) PlatEntry.reset
  let one := p.bor1.toList
  let two := p.bor2.toList
  if !bitAt e 15 then []
  else match fieldNat e 13 2 with
    | 0 => one
    | 1 => two
    | 2 => one ++ two
    | _ => two ++ one

/-- The engine that a position of a station belongs to, by 8 x station + engine (02 Table 02-3). -/
def engineOf (st pos : Nat) : Nat := if (st = 2 ∨ st = 3) ∧ pos = 3 then 8 * st + 1 else 8 * st

/-- Whether a lane serves a position; the DRBG core and the key-bus transmitters of KS have no sidings. -/
def posServed (s : State) (st pos : Nat) : Bool := (st == 6 && decide (pos ≥ 3)) || served s (engineOf st pos) pos

/-- Whether a station has stopped for a restart (12 R476). -/
def isRestarting (s : State) (st : Nat) : Bool :=
  ((s.stations.toList[st]?).map fun x => x.restart.isSome).getD false || stopDue s st s.now

/-- Active bank of a station's key-bus endpoint. -/
def activeBank (s : State) (st : Nat) : List KeyReg := ((s.stations.toList[st]?).map StationState.active).getD []

/-- Whether an opcode runs on a position of a station (02 Table 02-3). -/
def opRunsAt (r : Request) (st pos : Nat) : Bool :=
  let op := Desc.op r.desc
  if r.stage = .crtCheck then st == 4
  else
    let k := r.kind
    let at_ := r.step.station
    (at_ == st || (at_ == 255 && (if k ≤ 3 then decide (st / 2 = k / 2) && decide (st ≤ 3) else st == k))) &&
      (if k = 2 then (if op ≥ 0x0410 then pos == 3 else decide (pos < 3))
       else if k = 6 then (if op = 0x0710 then pos == 3 else decide (pos < 3)) else true)

/-- Whether the step's host input is present for a piece of this tick: all of it, or, where it is read in turn into a region of 64 KiB, its
auxiliary area and what the next slot consumes (02 R68, 08 R344, R348). -/
def payloadIn (s : State) (r : Request) : Bool :=
  let x := r.step
  if !readInTurn r r.desc x then decide (x.landed ≥ x.need) && (x.need == 0 || decide (x.landTick < s.now))
  else decide (x.present ≥ max (hostAreas r.desc x.need).2 (consumedBy s r x.need (r.slots + 1)))

/-- Hold chunks that a decryption step takes at its first piece (04 R199). -/
def holdNeed (r : Request) : Nat :=
  if r.stage == .running && r.kind == 0 && isAeadDec (Desc.op r.desc) then ceilDiv (Desc.payLen r.desc) 4096 else 0

/-- Hold chunks of a station that a platform's share covers. -/
def holdShareOf (s : State) (p st : Nat) : Nat :=
  (((s.image.shares.find? fun x => x.plat = p).getD ShareEntry.reset).hold.getD st 0)

/-- Chunks that a step may take on a station: from its platform's share, and from the common pool (04 R200). -/
def holdSplit (s : State) (r : Request) (st : Nat) : Option (Nat × Nat) :=
  let n := holdNeed r
  let held := s.reqs.flatMap fun x => (x.steps.filter fun y => y.hold != 0 && y.station = st).map fun y => (x.plat, y)
  let freed := s.tt.holdFreed.filter fun x => x.1 = st
  let mine := ((held.filter fun x => x.1 = r.plat).map fun x => x.2.holdShare).sum +
    ((freed.filter fun x => x.2.1 = r.plat).map fun x => x.2.2.2).sum
  let pool := (held.map fun x => x.2.hold - x.2.holdShare).sum + (freed.map fun x => x.2.2.1 - x.2.2.2).sum
  let total := (s.image.shares.map fun x => x.hold.getD st 0).sum
  let share := if r.rate == .inRate then min n (holdShareOf s r.plat st - mine) else 0
  if total + pool + (n - share) ≤ 256 then some (n, share) else none

/-- Whether the first three conditions of readiness hold in this tick: the step is due (02 R68, R105). -/
def isDue (s : State) (r : Request) : Bool :=
  (r.stage == .running || r.stage == .crtCheck) && !r.finished && decide (r.readyTick ≤ s.now) &&
    ((r.kind != 4 && r.kind != 5) || r.validated)

/-- Whether an abort has stopped the request by a slot (03 R160). -/
def stopped (s : State) (r : Request) (slot : Nat) : Bool :=
  match r.stopAt with
  | some (t, b) => decide (t < s.now) || (t == s.now && decide (b ≤ slot))
  | none => false

/-- Whether the keys that a custody step reads are in the cache; one whose handle no longer resolves lets the step run and
fail (09 R382, R384, R393). -/
def custodyKeysIn (s : State) (r : Request) : Bool :=
  (usedHandles r.desc).all fun h =>
    invalidated s r.tenant h ||
      (!r.misses.contains (BitVec.ofNat 20 h) && (cachedFor s r.rid r.tenant h).any fun c => decide (c.avail ≤ s.now))

/-- Whether the keys of the next piece are at the endpoint, or in the cache for a custody step (02 R68). -/
def keysReady (s : State) (r : Request) (st : Nat) : Bool :=
  (!needsKeys r || keysIn (activeBank s st) r) && (r.kind != 6 || custodyKeysIn s r)

/-- Whether a DUKPT step finds one of the 24 derived-key registers of its station free for its first piece (04 R175; log entry
76). -/
def derivedFree (s : State) (r : Request) (st : Nat) : Bool :=
  !(r.stage == .running && r.kind == 0 && Desc.dukpt r.desc && r.slots == 0) ||
    (((s.stations.toList[st]?).map fun x => (x.derived.filter fun d => !(d.rid = r.rid && d.step = r.cur)).length).getD 0 < 24)

/-- Whether a step that runs again on its pair may run on a position: that of its pair, or any where no lane serves that one
(07 R312; log entry 78). -/
def pairOk (s : State) (r : Request) (st pos : Nat) : Bool := r.pairAt.all fun q => q = pos || !posServed s st q

/-- Whether a step may run on a position in the slot that starts. A step keeps the position on which it began a piece until the end
of the tick (02 R68, R77). -/
def canRun (s : State) (st pos : Nat) (r : Request) : Bool :=
  isDue s r && opRunsAt r st pos && !stopped s r s.tt.slot && (r.stage == .crtCheck || payloadIn s r) &&
    keysReady s r st && !(r.kind == 5 && s.ss.hold) && (r.slots != 0 || holdNeed r == 0 || r.step.hold != 0 || (holdSplit s r st).isSome) &&
    derivedFree s r st && (r.pieceTick != s.now || r.piecePos == pos) && pairOk s r st pos && wantsSlot s r

/-- The step that a platform runs on a position: in progress there, in rate, over rate, freight, oldest first
(02 R76 items 2 to 4 and 6). -/
def pickOf (s : State) (st pos p : Nat) : Option Request :=
  let c := s.reqs.filter fun r => r.plat = p && canRun s st pos r
  let busy := c.find? fun r => r.pieceTick = s.now && r.pieceSlots > 0
  let cls := fun k => c.find? fun r => r.rate = k
  busy <|> cls .inRate <|> cls .overRate <|> cls .freight

/-- What an entry runs. -/
inductive Pick where
  | step (rid : Nat) (own : Bool)
  | internal
  /-- one slot of a tree level for a request that missed a key (09 R383, R384) -/
  | derive (rid : Nat) (own : Bool)
  /-- one slot of the rotation of the storage key (09 R402) -/
  | rotate
  | idle
deriving DecidableEq, Repr

/-- A slot of level work has run on a position: levels run, and positions on which a level is half way, 255 for one that may go on at any
(02 R67, R77, R94). -/
def runLevel (x : Nat × List Nat) (l : LevelSlot) : Nat × List Nat :=
  if x.2.contains l.pos then (x.1 + 1, x.2.filter (· ≠ l.pos))
  else if x.2.contains 255 then (x.1 + 1, x.2.erase 255)
  else (x.1, x.2 ++ [l.pos])

/-- Level work as it stands in the tick: what stood at its start, and the slots run since (02 R67, R94). -/
def levelsNow (run half : Nat) (log : List LevelSlot) : Nat × List Nat := log.foldl runLevel (run, List.replicate half 255)

/-- Whether work of `need` levels takes a slot on a position: the second slot of a level that began in this tick runs where its first
has, that of an earlier tick on any position (02 R67, R77, R94; 09 R367). -/
def wantsLevel (pos need : Nat) (x : Nat × List Nat) : Bool :=
  x.2.contains pos || x.2.contains 255 || decide (x.1 + x.2.length < need)

/-- Whether a request that missed keys takes a slot of KS derivation on a position: from the tick after its admission on
(09 R383, R384). -/
def wantsDerivation (s : State) (pos : Nat) (r : Request) : Bool :=
  decide (r.admitTick < s.now) && rootHere s && !r.misses.isEmpty &&
    wantsLevel pos (r.misses.map (missLevels s r)).sum (levelsNow r.missRun r.missHalf r.missLog)

/-- The request of a through platform for which its own KS derivation entry derives, the oldest first (09 R383). -/
def ownDerivation (s : State) (pos p : Nat) : Option Request :=
  s.reqs.find? fun r => r.plat = p && r.rate != .freight && wantsDerivation s pos r

/-- What a KS derivation entry with nothing else to run does: a level for the oldest freight request that missed a key, else the rotation
of the storage key (09 R384, R402). -/
def idlePick (s : State) (pos : Nat) : Pick :=
  match s.reqs.find? fun r => r.rate == .freight && wantsDerivation s pos r with
  | some r => .derive r.rid false
  | none => if s.ks.rot = 1 && rootHere s && wantsLevel pos (rotNeed s) (levelsNow s.ks.rotLevels s.ks.rotHalf s.ks.rotLog) then .rotate else .idle

/-- Slots that a waybill's signature takes (07 Table 07-6 for P-384; 15 R569). -/
def waybillSlots : Nat := 1126

/-- Whether an internal step of a station is pending and may run on a position: its pair is free in this slot, and it keeps the
position of its piece until the end of the tick (02 R77; 06 R287, 15 R569). -/
def internalPending (s : State) (st pos : Nat) : Bool :=
  if st = 4 then s.vs.loads.head?.any fun l => decide (l.reruns < 3) && (l.tick != s.now || (l.pos == pos && l.here != 0))
  else st == 5 && !s.ss.hold && s.ss.waybills.head?.any fun w => decide (w.slots < waybillSlots) && (w.lastTick != s.now || (w.slots == 0 && w.pos != 255) || w.pos == pos)

/-- The check of an imported private key that an entry of SS or VS runs whose owner, freight or unused, has nothing ready and whose
borrowers have none: the oldest (09 R397; log entry 69). -/
def keyCheckPick (s : State) (st pos : Nat) : Pick :=
  let runs := fun (r : Request) =>
    (r.stage == .keySign || r.stage == .keyVerify) && r.runsOn == st && !r.finished && decide (r.readyTick ≤ s.now) &&
      !stopped s r s.tt.slot && (r.pieceTick != s.now || r.piecePos == pos) && pairOk s r st pos && wantsSlot s r
  match s.reqs.find? runs with
  | some r => .step r.rid false
  | none => .idle

/-- Items 2 to 8 of R76 for an entry, a standby that is offered as any other among them (02 R79). A KS derivation entry
derives what its owner's requests missed before it runs their steps, and serves freight misses and the rotation where nothing else is
ready (09 R383, R384, R402; log entry 93). -/
def pick (s : State) (st pos : Nat) (e : BitVec 16) (internalDone : Bool) : Pick :=
  let p := entryPlat e
  let kind := (s.image.plats.getD p PlatEntry.reset).kind
  let own := if kind = 0 then none else pickOf s st pos p
  let lent := (entryBorrowers s e).findSome? fun b => pickOf s st pos b
  let inPiece := match own with
    | some r => r.pieceTick == s.now && decide (r.pieceSlots > 0)
    | none => false
  let kd := st = 6 ∧ pos < 3
  let derive := if kd ∧ !inPiece then ownDerivation s pos p else none
  if s.ss.hold ∧ st = 5 then .idle
  else if kind ≠ 1 ∧ !inPiece ∧ internalPending s st pos ∧ !internalDone then .internal
  else match derive, own, lent with
    | some r, _, _ => .derive r.rid true
    | none, some r, _ => .step r.rid true
    | none, none, some r => .step r.rid false
    | none, none, none => if kd then idlePick s pos else if kind ≠ 1 then keyCheckPick s st pos else .idle

/-- Primary positions of a platform at a tick and slot of a station (02 R78). -/
def primaries (s : State) (st tick slot p : Nat) : List Nat :=
  (List.range (positions st)).filter fun q => let e := entryAt s st tick slot q; entryPlat e = p && !entryStandby e

/-- Whether the slot of an entry goes to the proof in place of the position's lanes: the first of the period whose owner is
freight or unused, while the engine has no siding in reserve (12 R485; log entry 57). -/
def provesInPlace (s : State) (st pos : Nat) (e : BitVec 16) : Bool :=
  laneCount (engineOf st pos) != 0 && (st != 6 || decide (pos < 3)) && spareCount s (engineOf st pos) == 0 &&
    (s.image.plats.getD (entryPlat e) PlatEntry.reset).kind != 1 && !s.flt.inPlace.contains (st, pos)

/-- Whether a standby entry that a lane serves, and no proof takes, shadows the platform's primary at this slot (02 R78; 12 R485). -/
def hasShadow (s : State) (st p : Nat) : Bool :=
  (primaries s st s.now s.tt.slot p).length == 1 &&
    (List.range (positions st)).any fun q =>
      let e := entryAt s st s.now s.tt.slot q
      entryPlat e == p && entryStandby e && posServed s st q && !provesInPlace s st q e

/-! ### Running a piece -/

/-- Bytes of a slot's share of a `RANDOM` step: 160, or what is left of it (10 R423). -/
def randomBytes (r : Request) : Nat := min 160 (Desc.dstMax r.desc - 160 * r.slots)

/-- Note what a position runs in the slot (02 R76, R79). -/
def noteRun (st pos : Nat) (rid : Option Nat) (own : Bool) (s : State) : State :=
  s.updTt fun t => { t with running := t.running ++ [(st, pos, rid, own)] }

/-- The derived-key register that a DUKPT step takes at the start of its first piece (04 R175, R221). -/
def takeDerived (st : Nat) (r : Request) (s : State) : State :=
  let v := derivedKey r.desc (keyIn (activeBank s st) r (Desc.keyA r.desc)) r.step.auxiliary
  if r.slots ≠ 0 ∨ r.stage ≠ .running ∨ r.kind ≠ 0 ∨ v.isEmpty then s
  else
    let reg : DerivedReg := { rid := r.rid, step := r.cur, value := v, sym := symbolsOf v }
    (dropDerived (fun d => d.rid = r.rid && d.step = r.cur) s).updStn ⟨st % 2, by omega⟩ fun x => { x with derived := x.derived ++ [reg] }

/-- The hold chunks that a decryption step takes at the start of its first piece (04 R199). -/
def takeHold (st : Nat) (r : Request) (s : State) : State :=
  if r.slots ≠ 0 ∨ holdNeed r = 0 ∨ r.step.hold ≠ 0 then s
  else
    let (n, sh) := (holdSplit s r st).getD (0, 0)
    (s.updCs ⟨st % 2, Nat.mod_lt _ (by decide)⟩ fun c =>
      { c with holdUsed := c.holdUsed + n, holdPeak := max c.holdPeak (c.holdUsed + n) }).updReq r.rid fun r =>
        r.updStep r.cur fun x => { x with hold := n, holdShare := sh }

/-- Whether a step copies or absorbs its key at the start of the piece that begins (05 R249, 06 R265, 07 R295). -/
def copiesKey (r : Request) : Bool := r.slots == 0 && r.stage == .running && r.kind != 0 && needsKeys r

/-- Bytes that an SS step draws to share its key, as it copies it (07 R295; log entry 97). -/
def sharesDrawn (s : State) (st : Nat) (r : Request) : Nat :=
  if r.kind = 5 ∧ r.stage = .running ∧ r.slots = 0 ∧ r.units.isEmpty then 2 * (keyIn (activeBank s st) r (Desc.keyA r.desc)).length else 0

/-- What the two units of a pair hold of an SS step that starts: each its own shares of the key, which a step that runs again has already,
and its own blinding values (07 R295, R306). -/
def openUnits (s : State) (st : Nat) (r : Request) : List SealedUnit :=
  let key := keyIn (activeBank s st) r (Desc.keyA r.desc)
  [0, 1].map fun u =>
    let b := unitBlind s r.desc r.cstep r.step.random u
    match r.units[u]? with
    | some x => { x with blind := b }
    | none =>
      let (x, y) := shareKey s r.desc r.cstep key (drawnBytes (s.drawn + u * key.length) key.length)
      { share0 := x, share1 := y, shareSym := (symbolsOf x, symbolsOf y), blind := b }

/-- One slot of a step's piece on a position, run by the lane of `lane`: that position, or a standby's that stands in (02 R66, R77;
12 R474). At the first slot of its first piece the step fixes its station, copies its key or derives its working key, and takes its
hold chunks. -/
def advancePiece (st pos lane rid : Nat) (own shadow replayed : Bool) (s : State) : State :=
  match s.req? rid with
  | none => s
  | some r =>
    let newPiece := r.pieceTick ≠ s.now ∨ r.pieceSlots = 0
    let copies := copiesKey r
    let key := if copies ∧ r.kind ≠ 5 then keyIn (activeBank s st) r (Desc.keyA r.desc) else r.key
    let sealKey := if copies ∧ usesStateKey r.desc then keyIn (activeBank s st) r stateKeyHandle else r.stateKey
    let upd := fun (r : Request) =>
      let r := if r.stage = .running then r.updStep r.cur fun x => { x with station := st } else r
      let r := if copies then { r with key := key, keySym := symbolsOf key, stateKey := sealKey, stateSym := symbolsOf sealKey } else r
      let r := { r with units := if r.kind = 5 ∧ r.stage = ReqStage.running ∧ r.slots = 0 then openUnits s st r else r.units,
                        keyTick := if copies then s.now else r.keyTick, slots := r.slots + 1, pieceTick := s.now,
                        piecePos := pos, laneAt := lane, wait := 0, pieceSlots := if newPiece then 1 else r.pieceSlots + 1,
                        ticks := if newPiece then r.ticks + 1 else r.ticks,
                        shadowed := (newPiece || r.shadowed) && shadow && own,
                        replayed := r.replayed || replayed || r.replaying, replaying := false }
      let r := { r with broken := if r.slots = 1 then findsBroken r else r.broken }
      { r with finished := stepEnds s r }
    ((takeHold st r (takeDerived st r (noteRun st lane (some rid) own s))).updReq rid upd).draw (sharesDrawn s st r)

/-- A slot of `RANDOM`: in rate on an owned slot it is served by the core, and idles where the core makes no further call; else it
waits, idle, below 32 KiB, after what the key transfers of the slot draw. Exhausted, it ends with `NO_ENTROPY` (01 R57; 10 R418,
R421, R422, Table 10-2; log entry 41). -/
def randomSlot (st pos lane rid : Nat) (own : Bool) (s : State) : State :=
  match s.req? rid with
  | none => s
  | some r =>
    let n := randomBytes r
    let give := fun (s : State) =>
      (advancePiece st pos lane rid own false false
        (s.updReq rid fun r => r.updStep r.cur fun x => x.takeDrawn (x.random ++ drawnBytes s.drawn n))).draw n
    if s.en.state = 3 then
      failRequest rid 0x30 0 s.now (s.updEn fun e => { e with noentRandom := satInc 0xFFFF e.noentRandom })
    else if own ∧ r.rate = .inRate ∧ r.through then (if coreServes s.en then give (s.updEn (takeCore n)) else s)
    else if s.en.fill ≥ 32768 + s.tt.ivAhead then give (s.updEn (takeBuf n))
    else s.updEn fun e => { e with waits := satInc 0xFFFF e.waits }

/-- A slot of a step whose draws wait under the 32 KiB rule: `RSA_KEYGEN` candidates, which add up, after what the key transfers of the slot
draw (`ahead`), and the padding of `KEY_EXPORT` (01 R57; 10 R421, 07 R321, 09 R398). The slot draws `n` bytes. -/
def waitingSlot (st pos lane rid n ahead : Nat) (own shadow replayed : Bool) (s : State) : State :=
  let give := fun (s : State) =>
    (advancePiece st pos lane rid own shadow replayed
      (s.updReq rid fun r => r.updStep r.cur fun x =>
        x.takeDrawn (x.random ++ drawnBytes s.drawn n))).draw n
  if s.en.state = 3 ∧ s.en.fill < n then
    failRequest rid 0x30 0 s.now (s.updEn fun e => { e with noentIv := satInc 0xFFFF e.noentIv })
  else if s.en.fill ≥ 32768 + ahead ∨ s.en.state = 3 then give (s.updEn (takeBuf n))
  else s.updEn fun e => { e with waits := satInc 0xFFFF e.waits }

/-- Whether the slot that a key generation runs next begins a new candidate (07 R321). -/
def newCandidate (r : Request) : Bool :=
  decide (candidateSlots r.cstep.modBits * (candidates r.cstep.modBits r.step.random).length ≤ r.slots)

/-- An SS step that runs again draws its values afresh, in the slot in which it restarts, and the signature of an imported key draws its own
in its first slot; where the draw is refused its request ends with `NO_ENTROPY` (07 R308, R325, R331; log entry 69). -/
def redraw (rid : Nat) (s : State) : State :=
  match s.req? rid with
  | none => s
  | some r =>
    let n := ceilDiv (ssDrawBits s r.sealedForm.1 r.sealedForm.2) 8
    let again := !r.step.drawn.isEmpty
    if s.en.state = 3 ∧ s.en.fill < n then failRequest rid 0x30 0 s.now (countStep r 0x30 s)
    else
      (((s.updSs fun v => { v with rerun := if again then satInc 0xFFFF v.rerun else v.rerun }).updEn (takeBuf n)).updReq rid fun r =>
        { r.updStep r.cur (StepState.takeDrawn (drawnBytes s.drawn n)) with redraw := false }).draw n

/-- One slot of a picked step; one of SS that restarts has drawn its values first. -/
def runStep (st pos lane rid : Nat) (own shadow replayed : Bool) (s : State) : State :=
  let s := if (s.req? rid).any Request.redraw then redraw rid s else s
  match s.req? rid with
  | none => s
  | some r =>
    let op := Desc.op r.desc
    if r.redraw then s
    else if r.stage = .crtCheck then advancePiece st pos lane rid own shadow replayed s
    else if op = 0x0710 then randomSlot st pos lane rid own s
    else if op = 0x0607 ∧ newCandidate r then
      (if s.en.state = 3 then failRequest rid 0x30 0 s.now (countStep r 0x30 s)
       else waitingSlot st pos lane rid (r.cstep.modBits / 16) s.tt.ivAhead own shadow replayed s)
    else if op = 0x0701 ∧ r.slots = 0 ∧ exportPad s rid r.tenant r.desc ≠ 0 then
      waitingSlot st pos lane rid (exportPad s rid r.tenant r.desc) 0 own shadow replayed s
    else advancePiece st pos lane rid own shadow replayed s

/-- One slot of the curve load being checked: 40 cycles on a pair (06 R287). The time of the load counts from its first one (06 R288). -/
def runLoad (pos lane : Nat) (shadow : Bool) (s : State) : State :=
  s.updVs fun v =>
    match v.loads with
    | [] => v
    | l :: rest =>
      let more := l.tick = s.now ∧ l.here > 0
      { v with loads := { l with startTick := if l.begun then l.startTick else s.now, begun := true, cycles := l.cycles + 40, tick := s.now,
                                 pos := pos, lane := lane, here := if more then l.here + 1 else 1, shadowed := (!more || l.shadowed) && shadow } :: rest }

/-- The waybill at the head that runs again draws its values afresh, in the slot in which it restarts; it waits for a buffer that does not
hold them, and is answered with 0x03 where the draw is refused (15 R569; 07 R308, R325; 10 R426). -/
def redrawWaybill (s : State) : State :=
  match s.ss.waybills with
  | [] => s
  | w :: rest =>
    if !w.redraw then s
    else if s.en.fill < 264 then
      if s.en.state = 3 then
        reply (w.tenant.map tenantFin) (leAt w.req 0 2) (leAt w.req 2 2) 3 [] (s.updSs fun v => { v with waybills := rest })
      else s
    else
      let s := s.updSs fun v => { v with rerun := satInc 0xFFFF v.rerun, waybills := { w with drawn := drawnBytes s.drawn 264, redraw := false } :: rest }
      (s.updEn (takeBuf 264)).draw 264

/-- One slot of a waybill's signature (15 R569). -/
def runWaybill (pos lane : Nat) (shadow : Bool) (s : State) : State :=
  let s := redrawWaybill s
  s.updSs fun v =>
    match v.waybills with
    | [] => v
    | w :: rest =>
      if w.redraw then v else
      let more := w.lastTick = s.now ∧ w.here > 0
      { v with waybills := { w with slots := w.slots + 1, lastTick := s.now, pos := pos, lane := lane,
                                    here := if more then w.here + 1 else 1,
                                    shadowed := (!more || w.shadowed) && shadow } :: rest }

/-- One slot of the internal step of a station: of the curve load being checked, or of a waybill's signature (06 R287, 15 R569). -/
def runInternal (st pos lane : Nat) (shadow : Bool) (s : State) : State :=
  let s := noteRun st lane none true s
  if st = 4 then runLoad pos lane shadow s else runWaybill pos lane shadow s

/-- One slot of a tree level for a request that missed a key (02 R94). -/
def runDerivation (pos lane rid : Nat) (own shadow : Bool) (s : State) : State :=
  (noteRun 6 lane (some rid) own s).updReq rid fun r =>
    { r with missLog := r.missLog ++ [{ pos := pos, lane := lane, shadowed := shadow }] }

/-- One slot of the rotation of the storage key (09 R402). -/
def runRotation (pos lane : Nat) (s : State) : State :=
  (noteRun 6 lane none false s).updKs fun k => { k with rotLog := k.rotLog ++ [{ pos := pos, lane := lane, shadowed := false }] }

/-- Run what was picked for a position, on the lane of `lane`; the flag is set once an internal step has its pair. -/
def runPick (st pos lane : Nat) (shadow replayed : Bool) (x : Pick) (acc : State × Bool) : State × Bool :=
  match x with
  | .step rid own => (runStep st pos lane rid own (own && shadow) (own && replayed) acc.1, acc.2)
  | .internal => (runInternal st pos lane shadow acc.1, true)
  | .derive rid own => (runDerivation pos lane rid own (own && shadow) acc.1, acc.2)
  | .rotate => (runRotation pos lane acc.1, acc.2)
  | .idle => acc

/-- The entry of a position runs in the slot that starts (02 R76, R78, R79). A standby stands in for a primary whose position no lane
serves; a piece that it runs for the owner counts as one that came from a shadow (12 R474; 02 R98; log entry 79). -/
def runEntry (st pos : Nat) (acc : State × Bool) : State × Bool :=
  let (s, done) := acc
  let e := entryAt s st s.now s.tt.slot pos
  let p := entryPlat e
  if !posServed s st pos || isRestarting s st then acc
  else if provesInPlace s st pos e then (s.updFlt fun f => { f with inPlace := f.inPlace ++ [(st, pos)] }, done)
  else if !entryStandby e then runPick st pos pos (hasShadow s st p) false (pick s st pos e done) acc
  else
    match primaries s st s.now s.tt.slot p with
    | [q] =>
      if !posServed s st q then runPick st q pos false true (pick s st q e done) acc
      else if s.tt.running.any (fun x => x.1 = st && x.2.1 = q && x.2.2.2) then acc
      else runPick st pos pos false false (pick s st pos e done) acc
    | _ => acc

/-- Some positions of a station: primaries before standbys. -/
def runPositions (st : Nat) (ps : List Nat) (s : State) : State :=
  let stby := fun q => entryStandby (entryAt s st s.now s.tt.slot q)
  ((ps.filter (fun q => !stby q) ++ ps.filter stby).foldl (fun acc q => runEntry st q acc) (s, false)).1

/-- All positions of a station. -/
def runStation (s : State) (st : Nat) : State := runPositions st (List.range (positions st)) s

/-! ### Pairs that disagree -/

/-- Requests whose piece of this tick runs on the lane of a position. -/
def ridsAt (s : State) (st pos : Nat) : List Nat := (s.reqs.filter fun r => pieceAt s r st pos).map Request.rid

/-- Source identity of the pair-compare checker: the lower-numbered unit of the pair at a position (06 R257). -/
def srcPair (s : State) (st pos checker : Nat) : BitVec 16 :=
  sourceId st 0 (((s.roles (8 * st)).findIdx? fun r => r.toNat = pos).getD 0) checker

/-- Whether the curve load being checked has a piece of this tick on a pair. -/
def loadAt (s : State) (pos : Nat) : Bool := s.vs.loads.head?.any fun l => l.tick == s.now && l.lane == pos && l.here != 0

/-- The piece of a curve load on a pair that mismatched is discarded: it runs again from the state saved at the start of the tick (06 R255,
R257). -/
def discardLoad (v : Verify) : Verify :=
  match v.loads with
  | [] => v
  | l :: rest => { v with loads := { l.discard with reruns := l.reruns + 1 } :: rest }

/-- A VS pair mismatches: its pieces of this tick are discarded and rerun from the saved state; the third in a row ends
the request with `INTERNAL` (06 R257). A curve load that the pair ran is rerun too (06 R255, R287; log entry 80). -/
def vsMismatch (pos : Nat) (s : State) : State :=
  let rids := ridsAt s 4 pos
  if rids.isEmpty ∧ !loadAt s pos then s
  else
    let src := srcPair s 4 pos 6
    let s := if loadAt s pos then s.updVs discardLoad else s
    let s := faultReport src 0 (s.updVs fun v => { v with pairMis := satInc 0xFFFF v.pairMis })
    rids.foldl (fun s rid =>
      let s := s.updReq rid fun r => { discardPiece false r with reruns := r.reruns + 1, readyTick := s.now + 1 }
      if ((s.req? rid).map Request.reruns).getD 0 ≥ 3 then failRequest rid 0x3F src (s.now + 1) s else s) s

/-- An SS step is to run again from its start in a tick: its working state goes, its operands and key shares stay (07 R312, R326,
R327). -/
def restartSs (rid tick : Nat) (s : State) : State :=
  s.updReq rid fun r =>
    { r with slots := 0, ticks := 0, pieceSlots := 0, finished := false, readyTick := tick, redraw := true }

/-- The results that the two units of a pair have for a step disagree: the step runs again from its start on the same pair, the second time
its request ends with `INTERNAL` (07 R312). -/
def ssDisagree (src : BitVec 16) (s : State) (rid : Nat) : State :=
  let s := s.updReq rid fun r => { r with reruns := r.reruns + 1, pairAt := some r.piecePos }
  if ((s.req? rid).map Request.reruns).getD 0 ≥ 2 then failRequest rid 0x3F src (s.now + 1) s
  else restartSs rid (s.now + 1) s

/-- Whether the signature of a waybill has ended in this tick on a pair. -/
def waybillEnds (s : State) (pos : Nat) : Bool :=
  s.ss.waybills.head?.any fun w => w.lastTick == s.now && w.here != 0 && w.lane == pos && decide (w.slots ≥ waybillSlots)

/-- The two results of a waybill's signature are zeroised, and it runs again from its start with fresh draws (07 R308, R312; 15 R569; no end
after a second mismatch: DESIGN CHOICE, log entry 130). -/
def redoWaybill (v : Sealed) : Sealed :=
  match v.waybills with
  | [] => v
  | w :: rest => { v with waybills := { w with slots := 0, here := 0, redraw := true, reruns := w.reruns + 1 } :: rest }

/-- An SS pair's results for a finished step, or for a waybill, mismatch (07 R312). -/
def ssMismatch (pos : Nat) (s : State) : State :=
  let rids := (ridsAt s 5 pos).filter fun rid => ((s.req? rid).map Request.finished).getD false
  if rids.isEmpty ∧ !waybillEnds s pos then s
  else
    let src := srcPair s 5 pos 6
    let s := if waybillEnds s pos then s.updSs redoWaybill else s
    rids.foldl (ssDisagree src) (faultReport src 0 s)

/-- A MATCH pair other than (1,0) or (0,1) on a cipher or digest lane is a lane fault (04 R177, 05 R241). -/
def laneMismatch (st pos : Nat) (s : State) : State :=
  if (ridsAt s st pos).isEmpty then s
  else
    let key := engineOf st pos
    let lane := ((s.roles key).findIdx? fun r => r.toNat = pos).getD 0
    faultReport (sourceId st (key % 8) lane 2) 0 s

/-- A piece on which the two copies or units disagree. -/
def mismatchAt (s : State) (x : Nat × Nat) : State :=
  if x.1 = 4 then vsMismatch x.2 s else if x.1 = 5 then ssMismatch x.2 s
  else if x.1 ≤ 3 then laneMismatch x.1 x.2 s else s

/-! ### The key bus -/

/-- Key registers of a station's bank (04 R173, 05 R233, 06 R265, 07 R295). -/
def bankRegs (st : Nat) : Nat := if st ≤ 1 then 48 else if st ≤ 3 then 24 else if st = 4 then 40 else 24

/-- Registers of a station's bank that a key of a length takes: 64 bytes each on a cipher or digest station, 1,280 on VS and SS
(04 R173, 05 R233, 06 R265, 07 R295). -/
def regsOf (st len : Nat) : Nat := max 1 (ceilDiv len (if st ≤ 3 then 64 else 1280))

/-- Registers of a bank in use. -/
def regsUsed (st : Nat) (bank : List KeyReg) : Nat := (bank.map fun k => regsOf st k.value.length).sum

/-- Whether a register holds a key: it is not carried again in the tick, and serves every step that needs it (02 R80, 04 R174; log entry
40). -/
def holdsKey (t h : Nat) (k : KeyReg) : Bool := k.tenant = t && k.handle.toNat = h

/-- The step of a request that a key-bus entry of station `dest` would serve for the next tick: the present one, or the
next where the present one has run its last slot (02 R80). -/
def carryView (r : Request) : Option Request :=
  if r.stage != .running then none
  else if r.finished then
    (if r.cur + 1 < r.descs.length then some { r with cur := r.cur + 1, slots := 0, finished := false, key := [], units := [] } else none)
  else some r

/-- Whether the keys of a step may go to a station: its own, or either of its kind for a step of any station, but not one that has
lost the SHA-3 lane the step needs (02 R637). -/
def carryTo (s : State) (dest : Nat) (v : Request) : Bool :=
  v.step.station == dest ||
    (v.step.station == 255 && decide (dest ≤ 3) && decide (dest / 2 = v.kind / 2) && !(sha3Step v.desc && !posServed s dest 3))

/-- Whether the operands that the validation tick reads have landed (06 R272, R277), at stations that work. -/
def operandsIn (s : State) (r : Request) : Bool :=
  (r.steps.zip r.descs).all fun x =>
    let k := opKind (Desc.op x.2)
    (k != 4 && k != 5) ||
      ((x.1.need == 0 || (decide (x.1.landed ≥ x.1.need) && decide (x.1.landTick < s.now))) && !isRestarting s k)

/-- The validation tick: the one after admission, or the first in which late operands are there and the stations whose input checkers
work have rejoined (02 R70; 06 R277; 12 R476; log entry 55). -/
def validTick (s : State) (r : Request) : Nat :=
  (r.steps.zip r.descs).foldl (fun n x =>
    let k := opKind (Desc.op x.2)
    if k = 4 ∨ k = 5 then max n (max (x.1.landTick + 1) (((s.stations.toList[k]?).map StationState.rejoined).getD 0)) else n)
    (r.admitTick + 1)

/-- Whether a request has a VS or SS step. -/
def hasChecked (r : Request) : Bool := r.descs.any fun d => opKind (Desc.op d) == 4 || opKind (Desc.op d) == 5

/-- Whether a step is due on station `dest` at the next boundary and needs keys there (02 R80): a step of VS or SS from its validation
tick on. -/
def carryDue (s : State) (slot dest : Nat) (r : Request) : Bool :=
  match carryView r with
  | none => false
  | some v =>
    decide (v.readyTick ≤ s.now + 1) && needsKeys v && !stopped s v 8 && carryTo s dest v &&
      (r.admitTick != s.now || decide (slot ≥ 5)) &&
      ((v.kind != 4 && v.kind != 5) || v.validated || (decide (validTick s v = s.now) && operandsIn s v))

/-- Steps of a platform in the order R80 serves them. -/
def carryOrder (s : State) (slot dest p : Nat) : List Request :=
  let c := s.reqs.filter fun r => r.plat = p && carryDue s slot dest r
  let busy := c.filter fun r => r.slots > 0 && !r.finished
  let rest := c.filter fun r => !(r.slots > 0 && !r.finished)
  busy ++ rest.filter (·.rate = .inRate) ++ rest.filter (·.rate = .overRate) ++ rest.filter (·.rate = .freight)

/-- A key as the bus would carry it in this tick, with its check symbols (01 R26): the tenant's digest state key, or a cached slot that is there. -/
def carryKey (s : State) (rid t h : Nat) : Option (BitVec 16 × BitVec 8 × Bool × Bytes × Bytes) :=
  if h = stateKeyHandle then (sysKey? s .digestState t).map fun v => (3, 0, true, v, symbolsOf v)
  else if (s.req? rid).any fun r => r.misses.contains (BitVec.ofNat 20 h) then none
  else (cachedFor s rid t h).bind fun c => if c.avail ≤ s.now then some (c.alg, c.usage, c.secret, c.value, c.sym) else none

/-- What a step's first key transfer draws (04 R186 to R189, R194, R216; 05 R244): bytes from the buffer. -/
def ivDraw (d : Desc) : Nat :=
  let op := Desc.op d
  if [0x0102, 0x0104, 0x0106].contains op ∧ !Desc.civ d then 16
  else if op = 0x0202 ∧ !Desc.civ d then 8
  else if op = 0x0302 ∧ (Desc.fmt2 d = 1 ∨ Desc.fmt2 d = 3 ∨ Desc.fmt2 d = 4) then 8
  else if isDigest op ∧ Desc.dend d = 2 then 12 else 0

/-- Whether step `i` of a request has taken a value of C of a key for a transfer of this tick to CS1, which one to CS0 precedes
(04 R190). -/
def tookOnCs1 (s : State) (v : Request) (x : StepState) (d : Desc) : Bool :=
  Desc.keyA d = Desc.keyA v.desc && x.keysDone && x.keysTick = s.now + 1 && x.station == 1 && x.counter.isSome

/-- The value of C that a step takes for a transfer to a station: the next one, but where CS1 has taken values of this key in
this tick and the transfer is to CS0, that one is served first and the values of CS1 follow it (04 R190; log entry 38). -/
def takeCounter (dest : Nat) (v : Request) (next : Nat) (s : State) : State :=
  let hit := fun (r : Request) (p : StepState × Nat) =>
    dest == 0 && r.rid != v.rid && r.tenant = v.tenant && tookOnCs1 s v p.1 (r.descs.getD p.2 [])
  let taken := s.reqs.flatMap fun r => (r.steps.zipIdx.filter (hit r)).map fun p => (r.rid, p.2, p.1.counter.getD next)
  let first := taken.foldl (fun n x => min n x.2.2) next
  let shift := fun (r : Request) =>
    { r with steps := r.steps.mapIdx fun i x => if hit r (x, i) then { x with counter := x.counter.map (· + 1) } else x }
  let follow := fun (k : KeyReg) =>
    { k with brought := k.brought.map fun b =>
        if taken.any (fun x => b.rid = x.1 ∧ b.step = x.2.1) then { b with ctr := b.ctr.map (· + 1) } else b }
  let s := { s with reqs := s.reqs.map shift }
  let s := s.updStn 1 fun x => { x with loading := x.loading.map follow }
  s.updReq v.rid fun r => r.updStep v.cur fun x => { x with counter := some first }

/-- Whether a step has values drawn with its first key transfer. -/
def draws (d : Desc) : Bool := needsCounter d || ivDraw d != 0

/-- The draws of a step, made with its first key transfer (04 R189 to R194): the values, or the status and source with
which the request ends. -/
def drawFor (dest : Nat) (v : Request) (s : State) : State × Option (Nat × BitVec 16) :=
  if v.step.keysDone then (s, none)
  else
    let d := v.desc
    let h := Desc.keyA d
    let n := ivDraw d
    if needsCounter d then
      match ivOf s v.tenant h with
      | none => (s, some (0x13, 0))
      | some c =>
        if c.c ≥ 2 ^ 64 - 2 ^ 20 then (s, some (0x13, 0))
        else if c.c ≥ c.mark then (faultReport (srcCache 27) 0 s, some (0x3F, srcCache 27))
        else
          (takeCounter dest v c.c (updIv v.tenant h (fun c => { c with c := c.c + 1 }) s), none)
    else if n = 0 then (s, none)
    else if s.en.state = 3 ∧ s.en.fill < n then
      (s.updEn fun e => { e with noentIv := satInc 0xFFFF e.noentIv }, some (0x30, 0))
    else (((s.updEn (takeBuf n)).updReq v.rid fun r => r.updStep v.cur (StepState.takeDrawn (drawnBytes s.drawn n))).draw n, none)

/-- The outcome of serving one step at a key-bus entry: bytes left of the transfer, and whether the entry goes on. -/
structure Carry where
  st : State
  room : Nat
  more : Bool

/-- Bytes of `n` that a transfer has still to carry (07 R296). -/
def bytesLeft (s : State) (dest rid n : Nat) : Nat := if s.tt.parts.contains (dest, rid) then n - 1280 else n

/-- The first of the two transfers of a key larger than one (07 R296): it takes the whole of an entry. -/
def carryHalf (dest : Fin 7) (rid : Nat) (c : Carry) : Carry :=
  if c.room = 1280 then
    { st := c.st.updTt fun t => { t with parts := t.parts ++ [(dest.val, rid)] }, room := 0, more := false }
  else { c with more := false }

/-- Carry the keys of one step; a key larger than one transfer takes two entries of the same tick (02 R80, 04 R174, R189; 01 R54,
R55; 07 R296; 09 R399). -/
def carryStep (dest : Fin 7) (c : Carry) (r0 : Request) : Carry :=
  let s := c.st
  match if c.more then (s.req? r0.rid).bind carryView else none with
  | none => c
  | some v =>
    let bank := s.stations[dest].loading
    let need := (carriedHandles v.desc).filter fun h => !((regsFor bank v).any fun k => k.handle.toNat = h)
    let want := need.filter fun h => !bank.any (holdsKey v.tenant h)
    let keys := want.map fun h => (h, carryKey s v.rid v.tenant h)
    let lens := keys.map fun k => (k.2.map fun x => x.2.2.2.1.length).getD 0
    let bytes := bytesLeft s dest.val v.rid lens.sum
    if need.isEmpty then c
    else if need.any (fun h => invalidated s v.tenant h || (h = stateKeyHandle && (carryKey s v.rid v.tenant h).isNone)) then { c with st := failStep v.rid v.cur 0x14 0 s.now s }
    else if keys.any (fun k => k.2.isNone) then c
    else if dest.val = 4 ∧ keys.any (fun k => (k.2.map fun x => x.2.2.1).getD false) then
      { c with st := failStep v.rid v.cur 0x13 0 s.now (faultReport srcSecretBus 0 s) }
    else if bytes > 1280 then
      carryHalf dest v.rid c
    else if bytes > c.room then { c with more := false }
    else if regsUsed dest.val bank + (lens.map (regsOf dest.val)).sum > bankRegs dest.val then { c with more := false }
    else
      let (s, bad) := drawFor dest.val v s
      match bad with
      | some (st, src) => { c with st := failStep v.rid v.cur st src s.now s }
      | none =>
        let x0 := ((s.req? v.rid).bind fun r => r.steps[v.cur]?).getD StepState.reset
        let user := (v.rid, v.cur)
        let mine : List Brought :=
          if draws v.desc then [{ rid := v.rid, step := v.cur, drawn := x0.drawn, drawnSym := x0.drawnSym, ctr := x0.counter }] else []
        let regs := keys.filterMap fun k => k.2.map fun x =>
          { users := [user], tenant := v.tenant, handle := BitVec.ofNat 32 k.1, alg := x.1, usage := x.2.1,
            value := x.2.2.2.1, brought := mine, sym := x.2.2.2.2 : KeyReg }
        let join := fun (k : KeyReg) =>
          if need.any (fun h => holdsKey v.tenant h k) then { k with users := k.users ++ [user], brought := k.brought ++ mine } else k
        let s := s.updStn dest fun x => { x with loading := x.loading.map join ++ regs }
        let s := s.updReq v.rid fun r =>
          { r with carried := need.foldl (fun l h => addNew (BitVec.ofNat 20 h) l) r.carried,
                   steps := r.steps.modify v.cur fun x =>
                     { x with keysDone := true, keysTick := if x.keysDone then x.keysTick else s.now + 1, station := if x.station = 255 then dest.val else x.station } }
        { c with st := s, room := c.room - bytes }

/-- A key-bus entry of the slot `slot` to a station (02 R80): its owner's steps; where none of them has a key to carry it is lent, and
the borrowers are served in the selector's order. -/
def keyBusEntry (slot : Nat) (dest : Fin 6) (s : State) : State :=
  let e := entryAt s 6 s.now slot (4 + dest.val)
  let serve := fun (c : Carry) (p : Nat) =>
    if c.more ∧ c.room = 1280 then (carryOrder c.st slot dest.val p).foldl (carryStep ⟨dest.val, by omega⟩) c else c
  (([entryPlat e] ++ entryBorrowers s e).foldl serve { st := s, room := 1280, more := true }).st

/-- Whether a request's step draws while it waits for the buffer: `RSA_KEYGEN` or `RANDOM` (10 R421). -/
def drawsLater (r : Request) : Bool := Desc.op r.desc == 0x0607 || Desc.op r.desc == 0x0710

/-- What the key-bus transfers of a slot draw from the buffer, ahead of key generation and `RANDOM` in that slot (01 R57). -/
def ivAhead (slot : Nat) (s : State) : Nat :=
  if s.reqs.any drawsLater then s.en.fill - ((List.finRange 6).foldl (fun s d => keyBusEntry slot d s) s).en.fill else 0

end Sys2Proof.Machine
end

