-- ==== Sys2Proof/Machine/PowerOps.lean ====
section
/-! DEFINITION. Calibration, the supply monitor, rails and sensors (13 R494 to R518). -/
namespace Sys2Proof.Machine

/-- Whether a code is an item of Table 13-5. -/
def calValid (i : Nat) : Bool :=
  decide (i ≤ 0x09) || decide (0x10 ≤ i ∧ i ≤ 0x1A) || i == 0x20 || decide (0x28 ≤ i ∧ i ≤ 0x2F) ||
    decide (0x30 ≤ i ∧ i ≤ 0x33) || i == 0x38 || i == 0x39

/-- User offset range of an item, none where it takes no offset (13 Table 13-5). -/
def calRange (i : Nat) : Option (Int × Int) :=
  if i = 0 then some (0, 20) else if i = 1 then some (0, 10)
  else if 2 ≤ i ∧ i ≤ 9 then some (0, 20)
  else if 0x10 ≤ i ∧ i ≤ 0x17 then some (-8, 8)
  else if i = 0x18 ∨ i = 0x19 then some (-20, 0)
  else if i = 0x20 then some (-500, 500) else none

/-- Factory value of an item: 16 bits of OTP rows 6 to 20 (13 R514, 18 Table 18-2). -/
def calFactory (s : State) (i : Nat) : Int :=
  signed16 (fieldNat (s.otp.toList.getD (6 + i / 4) 0) (16 * (i % 4)) 16)

/-- User offset of an item as the image gives it (13 R515). -/
def calUser (s : State) (i : Nat) : Int := lookupD i 0 s.image.offsets

/-- A user offset held within the range of its item (13 R514). -/
def heldOffset (i : Nat) (x : Int) : Int :=
  match calRange i with
  | none => 0
  | some (lo, hi) => max lo (min hi x)

/-- The offset that counts: the user offset held within its range (13 R514). -/
def calOffset (s : State) (i : Nat) : Int := heldOffset i (calUser s i)

/-- CLAMPED: the user offset lies outside its range (13 R514). -/
def calClamped (s : State) (i : Nat) : Bool :=
  match calRange i with
  | none => false
  | some (lo, hi) => decide (calUser s i < lo ∨ hi < calUser s i)

/-- Effective value of an item (13 R514). -/
def calValue (s : State) (i : Nat) : Int := calFactory s i + calOffset s i

/-- Effective value of a threshold: one that a cut-over has changed applies from the first sample after the cut-over tick, in which the
old set's offsets still count (13 R516). -/
def levelValue (s : State) (i : Nat) : Int :=
  match s.pwr.oldLevels with
  | some (n, l) => if n = s.now then calFactory s i + heldOffset i (lookupD i 0 l) else calValue s i
  | none => calValue s i

/-- Effective warning level in mV (13 R500). -/
def warnLevel (s : State) : Int := levelValue s 0
/-- Level at which the count of recovery ticks runs: the warning level with its hysteresis of 10 mV (13 R500, R502). -/
def recoveryLevel (s : State) : Int := warnLevel s + 10
/-- Effective temperature warning threshold in degrees (13 R509). -/
def warnTemp (s : State) : Int := levelValue s 0x18
/-- Effective temperature alarm threshold in degrees (13 R510). -/
def alarmTemp (s : State) : Int := levelValue s 0x19
/-- Slowing of a station's oscillators against the factory baseline, in units of 0.1%, from the count measured (13 R512; the rounding
up and a part without a baseline: DESIGN CHOICE, log entry 127). -/
def slowdown (s : State) (i count : Nat) : Nat :=
  let base := (calFactory s (0x28 + i)).toNat
  if base = 0 then 0 else ceilDiv ((base - count) * 1000) base

/-- Source of the power manager's supply checker, 0xF41D (13 R501). -/
def srcSupply : BitVec 16 := sourceId 7 5 0 29

/-- SUPPLY checker of a regulator: station s, engine 7, lane 4; the power manager for the commons (13 R513). -/
def srcRegulator (st : Nat) : BitVec 16 := if st = 7 then srcSupply else sourceId st 7 4 29

/-- THERMAL checker of a sensor (13 R509). -/
def srcThermal (st : Nat) : BitVec 16 := if st = 7 then sourceId 7 5 0 30 else sourceId st 7 4 30

/-- Update one rail. -/
def State.updRail (s : State) (i : Fin 8) (f : Rail → Rail) : State :=
  s.updPwr fun p => { p with rails := p.rails.set i (f p.rails[i]) }

/-- A rail as it stands at a supply voltage: in bypass it follows the supply, else it holds its target (13 R495,
R502). -/
def settleRail (v : Nat) (r : Rail) : Rail :=
  let by_ := decide (r.target + 10 > v)
  { r with bypass := by_, rail := if by_ then v else r.target }

/-- Whether every station rail is within 5 mV of its target; one in bypass need only reach it less 5 mV (13 R502). -/
def railsHold (p : Power) : Bool :=
  (p.rails.toList.take 7).all fun r => decide (r.target ≤ r.rail + 5) && (r.bypass || decide (r.rail ≤ r.target + 5))

/-- A target moves by at most 5 mV in a tick toward the one that the Supervisor has set (13 R496). -/
def stepTarget (r : Rail) : Rail :=
  { r with target := if r.target < r.goal then min r.goal (r.target + 5) else max r.goal (r.target - 5), moved := r.target != r.goal }

/-- The power manager at a boundary: the supply is sampled, the recovery count of a caution follows, key entry is
held, each target moves toward the one set outside a caution, and the clock of the new tick is what was decided (13 R499 to R502, Table 13-9). `held` says that the supply
stayed at or above the recovery level for the whole tick that ended; `warned`, that the warning level was crossed in
it. -/
def powerBoundary (v : BitVec 16) (held warned : Bool) (p : Power) : Power :=
  { p with vNow := v.toNat, vMin := if p.vSeen then min p.vMin v.toNat else v.toNat, vSeen := true,
           rails := p.rails.map fun r => settleRail v.toNat (if p.caution then { r with moved := false } else stepTarget r),
           heldSince := if p.keHeld then p.heldSince else p.began,
           recover := if !p.caution || warned || !held then 0 else min 64 (p.recover + 1),
           keHeld := p.caution, fast := p.nextFast, nextFast := if p.dclkLow then 0 else 320 }

/-- The warning level is crossed at a cycle of a tick (13 R501, R504): the clock is at 1.0 GHz from the eighth cycle
after it, unless it is already; a crossing within 8 cycles of a declaration cancels the switch back. -/
def crossWarning (now cycle : Nat) (p : Power) : Power :=
  let cancels := p.decl == some now && decide (cycle < 8)
  let c := cycle + 8
  { p with caution := true, dclkLow := true, recover := 0, began := now, count := satInc 0xFFFF p.count,
           fast := if p.dclkLow then p.fast else if cancels then 0 else p.fast - (320 - c),
           nextFast := if p.dclkLow then p.nextFast else if cancels then 0 else c - 320 }

/-- Normal operation is declared (13 R503, Table 13-10). -/
def declareNormal (now : Nat) (p : Power) : Power :=
  let d := min 0xFFFFFF (now - p.began)
  { p with caution := false, dclkLow := false, recover := 0, keHeld := false, fast := 312, nextFast := 320, decl := some now,
           last := d, longest := max p.longest d }

/-- Waybill signatures whose work is lost run again from their start, with fresh draws in the tick in which they restart (07 R308, R326;
15 R569). -/
def restartWaybills (lost : WaybillJob → Bool) (s : State) : State :=
  s.updSs fun v => { v with waybills := v.waybills.map fun w => if lost w then { w with slots := 0, redraw := true } else w }

/-- SS enters hold: steps with a piece in the tick that ended lose their work (07 R326). -/
def ssEnterHold (s : State) : State :=
  let lose := fun (r : Request) =>
    if r.kind = 5 ∧ (r.stage = .running ∨ r.stage = .keySign) ∧ r.pieceTick + 1 = s.now ∧ r.pieceSlots > 0 then
      { r with slots := 0, ticks := 0, pieceSlots := 0, finished := false, held := true }
    else r
  let s := { s with reqs := s.reqs.map lose }
  let s := restartWaybills (fun w => w.slots != 0 && w.lastTick + 1 == s.now) s
  s.updSs fun v => { v with hold := true }

/-- SS enters hold at the boundary that ends the tick of the warning (13 R501; 07 R326). -/
def settleHold (s : State) : State :=
  if s.pwr.caution && decide (s.pwr.began < s.now) && !s.ss.hold then ssEnterHold s else s

/-- SS leaves hold: a step whose work was discarded runs again from its start in the tick that opens, with fresh draws (07 R308,
R327). -/
def ssLeaveHold (s : State) : State :=
  let s := s.updSs fun v => { v with hold := false }
  (s.reqs.filter Request.held).foldl (fun s r =>
    restartSs r.rid s.now (s.updReq r.rid fun r => { r with held := false })) s

/-- Held key-entry operations start: their 2 ticks count from this boundary (13 R503). -/
def releaseKeyEntry (s : State) : State :=
  let go := fun (p : TenantPage) =>
      let ops := p.ke.heldOps.map fun j => { j with tick := s.now }
      let ke := match p.ke.job, ops with
        | none, j :: rest => { p.ke with job := some j, heldOps := rest }
        | _, _ => { p.ke with heldOps := ops }
      { p with ke := ke }
  { s with tenants := s.tenants.map go }

/-- The declaration of normal operation, where it is due: DCLK, SS and key entry, and the second record (13 R502, R503). -/
def settleCaution (s : State) : State :=
  if s.pwr.caution && decide (s.pwr.recover ≥ 64) && railsHold s.pwr then
    assertBlk 8 (faultReport srcSupply 0 (releaseKeyEntry (ssLeaveHold (s.updPwr (declareNormal s.now)))))
  else s

/-- A target sought for a rail: the monitors' floor or the factory floor of the rate in force, with aging margin and
user offset, in steps of 5 mV from 600 (13 R496, R512, R514). -/
def targetSought (s : State) (i : Fin 8) (fmon : Nat) : Nat :=
  let floor := (calValue s (if s.pwr.dclkLow then 0x39 else 0x38)).toNat
  let v := max floor fmon + s.pwr.rails[i].margin + (calOffset s (2 + i.val)).toNat
  max 600 (5 * ceilDiv v 5)

/-- A sensor is sampled: its reading with the user offset, the highest one, and the warning with its hysteresis of
5 degrees (13 R508, R509). -/
def sampleRail (s : State) (i : Fin 8) (t : Int) (r : Rail) : Rail :=
  let x := t + calOffset s (0x10 + i.val)
  { r with temp := x, tmax := if r.seen then max r.tmax x else x, seen := true,
           warm := decide (x > 4 * warnTemp s) || (r.warm && decide (x > 4 * warnTemp s - 20)) }

/-- An 11-bit or 16-bit two's complement field. -/
def signedField (w : Nat) (x : Int) : Nat := (x % (2 ^ w : Nat)).toNat

/-- TRH_PWR_STATUS (13 Table 13-7). -/
def readPwrStatus (s : State) : BitVec 64 :=
  let p := s.pwr
  placeB p.caution 30 ||| placeB p.dclkLow 29 ||| placeB p.keHeld 28 ||| placeB p.twarn 27 ||| placeB p.nvmLow 26 |||
    place p.recover 0

/-- TRH_PWR_VCORE (13 Table 13-9). -/
def readPwrVcore (s : State) : BitVec 64 := place s.pwr.vMin 16 ||| place s.pwr.vNow 0

/-- TRH_PWR_CAUTION (13 Table 13-10). -/
def readPwrCaution (s : State) : BitVec 64 := place s.pwr.count 48 ||| place s.pwr.longest 24 ||| place s.pwr.last 0

/-- TRH_PWR_STN (13 Table 13-12). -/
def readPwrStn (s : State) : BitVec 64 :=
  let r := s.pwr.rails.toList.getD s.mgmt.stnSel.toNat Rail.reset
  place r.target 54 ||| place (r.rail % 1024) 44 ||| placeB r.bypass 43 ||| place (signedField 11 r.temp) 32 |||
    place (signedField 11 r.tmax) 21 ||| place r.age 8 ||| place r.margin 0

/-- TRH_PWR_CAL (13 Table 13-13). -/
def readPwrCal (s : State) : BitVec 64 :=
  let i := s.mgmt.calSel.toNat
  if calValid i then
    placeB true 63 ||| placeB (calClamped s i) 62 ||| place (signedField 16 (calValue s i)) 32 |||
      place (signedField 16 (calUser s i)) 16 ||| place (signedField 16 (calFactory s i)) 0
  else 0

/-- A write of TRH_PWR_CTRL (13 Table 13-8). -/
def writePwrCtrl (v : BitVec 32) (s : State) : State :=
  s.updPwr fun p =>
    { p with vMin := if bitAt v 31 then p.vNow else p.vMin,
             rails := if bitAt v 30 then p.rails.map fun r => { r with tmax := r.temp } else p.rails }

end Sys2Proof.Machine
end

