-- ==== Sys2Proof/Machine/TamperOps.lean ====
section
/-! DEFINITION. Tamper sources, the log, the responses and the erase line (14 R519 to R540). -/
namespace Sys2Proof.Machine

/-- Whether a code is a source that can alarm (14 Table 14-1). -/
def tamperSource (c : Nat) : Bool := decide (1 ≤ c ∧ c ≤ 6) || decide (0x10 ≤ c ∧ c ≤ 0x18)

/-- CONNECTED bit of host input `c` (14 R520, 18 Table 18-2). -/
def inputConnected (s : State) (c : Nat) : Bool := bitAt s.otp[(21 : Fin 128)] (c - 1)
/-- BACKUP bit of host input `c`; without CONNECTED it has no effect. -/
def inputBackup (s : State) (c : Nat) : Bool := inputConnected s c && bitAt s.otp[(21 : Fin 128)] (c + 7)

/-- The real-time clock runs on: by a free amount, which depends on its trim (13 Table 13-5, item 0x20; 14 Table 14-12; log entry 24). -/
def advanceClock (s : State) : State :=
  (s.updAon fun a => { a with rtc := a.rtc + Config.clockStep (calValue s 0x20) s.drawn }).draw 1

/-- Units of 1/65,536 s that a sampling window of 62.5 us lasts (14 R527, Table 14-12). -/
def windowUnits : BitVec 64 := 4

/-- Whether the sources on the cell are sampled: in a window, and while the domain switches to VBAT (14 R527). -/
def windowOpen (a : Aon) : Bool := a.window.any fun e => decide (e - a.rtc ≤ windowUnits)

/-- TRH_TMP_SUP, the sensor supply output: on with the domain on main power, and on the cell in the windows alone (14 R527; 18 R618). -/
def sensorSupply (a : Aon) : Bool := a.up && (!a.onCell || windowOpen a)

/-- Level of TRH_ZEROISE at its pad: the latch, unpowered on the cell (14 R525). -/
def zeroisePad (a : Aon) : Bool := a.zeroise && !a.onCell

/-- Whether a source is watched now: on main power, or on the cell in a window, the cell's own monitors at any time
(14 R520, R526, R527, Tables 14-1, 14-4). -/
def sourceWatched (s : State) (c : Nat) : Bool :=
  let a := s.aon
  if !a.up then false
  else if c ≤ 6 then inputConnected s c && (!a.onCell || (inputBackup s c && windowOpen a))
  else if !a.onCell then c != 0x17
  else if c = 0x13 then windowOpen a
  else c == 0x15 || c == 0x17 || c == 0x18

/-- Response of a source: 1 LOG, 2 LOCK, 3 ERASE; only LOG in BLANK and TEST (14 R522, Table 14-1). -/
def tamperResponse (s : State) (c : Nat) (detail : BitVec 32) : Nat :=
  if s.lc.state = 1 ∨ s.lc.state = 2 then 1
  else if c = 0x14 then (if srcStation (detail.truncate 16) = 7 then 2 else 1)
  else if c = 0x16 ∨ c ≥ 0x20 then 1 else 3

/-- Detail field of a source's entry (14 Table 14-6). -/
def tamperDetail (c : Nat) (detail : BitVec 32) : Nat :=
  if c = 6 ∨ c = 0x13 ∨ c = 0x16 ∨ c = 0x17 ∨ c = 0x18 ∨ c ≥ 0x20 then detail.toNat
  else if c = 0x14 then detail.toNat % 65536 else 0

/-- Time field of an entry, and whether it is RTC time: the tick while the main domain runs (14 Table 14-6). -/
def tamperTime (s : State) : BitVec 64 × Bool := if s.mainUp then (s.tick, false) else (s.aon.rtc, true)

/-- Flags of an entry (14 Table 14-6). -/
def tamperFlags (s : State) (rail : Bool) : Nat :=
  (if (tamperTime s).2 then 1 else 0) + (if s.aon.onCell then 2 else 0) + (if rail then 8 else 0)

/-- A log entry (14 Table 14-6). -/
def logEntry (s : State) (src resp flags events detail : Nat) : Bytes :=
  leBytes 8 (tamperTime s).1.toNat ++ leBytes 1 src ++ leBytes 1 resp ++ leBytes 1 flags ++ leBytes 1 s.lc.state.toNat ++
    leBytes 4 events ++ leBytes 8 ((s.aon.count + 1).toNat) ++ leBytes 4 detail ++ fillBytes 4 0

/-- An entry extends the log: head and count (14 R535). -/
def chainEntry (e : Bytes) (a : Aon) : Aon :=
  { a with head := hmac256 (a.lk.getD []) (a.head ++ e), count := a.count + 1, pendLog := a.pendLog ++ [e] }

/-- An alarm is gathered into the SUMMARY entry (14 R536). -/
def gather (src resp : Nat) (a : Aon) : Aon :=
  let bit := if src < 32 then 2 ^ src else 0
  match a.summary with
  | none => { a with summary := some (resp, 1, bit) }
  | some (r, n, m) => { a with summary := some (max r resp, n + 1, m ||| bit) }

/-- A log entry is appended, or with 31 entries pending gathered; on main power TAMPER is asserted (14 R523, R536). -/
def appendLog (src resp flags detail : Nat) (s : State) : State :=
  let e := logEntry s src resp flags 1 detail
  let s := s.updAon fun a =>
    let a := { a with resp := BitVec.ofNat 2 (max a.resp.toNat resp) }
    if a.pendLog.length < 31 then chainEntry e a else gather src resp a
  if s.mainUp then assertBlk 10 s else s

/-- The SUMMARY entry is chained (14 R536). -/
def chainSummary (s : State) : State :=
  match s.aon.summary with
  | none => s
  | some (r, n, m) =>
    let e := logEntry s 0x22 r (4 + tamperFlags s false) n m
    s.updAon fun a => { chainEntry e a with summary := none }

/-- The first-source latch takes an alarm, or notes a further one (14 R532, Table 14-10). -/
def latchTamper (s : State) (src resp flags : Nat) (f : TmpFirst) : TmpFirst :=
  if f.valid then { f with ovf := true }
  else { valid := true, ovf := false, resp := BitVec.ofNat 2 resp, flags := BitVec.ofNat 8 flags,
         source := BitVec.ofNat 8 src, time := (tamperTime s).1 }

/-- A byte string zeroised. -/
def zeros (b : Bytes) : Bytes := List.replicate b.length 0

/-- The bytes a request holds at the stations are zeroised: staging, operands, chain buffers, holds, keys. -/
def zeroRequest (r : Request) : Request :=
  { r with key := zeros r.key, keySym := [], stateKey := zeros r.stateKey, stateSym := [], imported := none, units := [], check := [],
           outq := r.outq.map (fun o => { o with data := zeros o.data, sym := [] }),
           steps := r.steps.map (fun x => { x with src := zeros x.src, aux := zeros x.aux, out := zeros x.out, key := none,
                                                   drawn := zeros x.drawn, srcSym := [], auxSym := [], outSym := [], drawnSym := [],
                                                   keySym := [], pubSym := [] }) }

/-- The values drawn for a waybill's signature, which stand in sealed operand memory, are zeroised (07 R294). -/
def zeroWaybill (w : WaybillJob) : WaybillJob := { w with drawn := zeros w.drawn }

/-- The key-entry unit and every tenant's data registers are cleared; a session in them ends with nothing left of it
(14 Table 14-3). -/
def eraseKeyEntry (p : TenantPage) : TenantPage :=
  { p with ke := { p.ke with data := Vector.replicate 8 0, dataSym := fillBytes 12 0, session := none, job := none, heldOps := [], state := (0 : BitVec 4) } }

/-- Both banks of a key-bus endpoint and the derived-key registers are zeroised. -/
def clearBanks (x : StationState) : StationState := { x with loading := [], active := [], derived := [] }

/-- The hardware erase line: orders 1 to 5 of Table 14-3, TRH_ZEROISE and ROOT_CLR (14 R524, R525; 09 R401; 15
R553). -/
def eraseLine (s : State) : State :=
  let s := s.updAon fun a => { a with bbk := none, rootClr := true, zeroise := true }
  let s := { s with stations := s.stations.map clearBanks,
                    tenants := s.tenants.map eraseKeyEntry, reqs := s.reqs.map zeroRequest }
  let s := s.updKs fun k => { k with kr := none, kf := none, cache := [], system := [] }
  let s := s.updSs fun v => { v with waybills := v.waybills.map zeroWaybill }
  (s.updDbg (zeroWords [8, 9, 10, 11, 12, 13, 14, 26, 27])).updEn clearEntropy

/-- Source that a tamper lockdown is recorded under: the always-on domain (01 Table 01-4). -/
def srcTamper : BitVec 16 := sourceId 7 6 0 0

/-- A response is carried out: LOCK adds a lockdown at the boundary that ends the tick, which supersedes the retirements of that tick
(14 R532), ERASE the erase line (14 R523). -/
def respond (resp : Nat) (s : State) : State :=
  let s := if resp ≥ 2 ∧ s.mainUp then
      (restoreLanes (fun _ _ => true) s).updFlt fun f => { f with due := f.due ++ [(7, s.now + 1, srcTamper)] }
    else s
  if resp ≥ 3 then eraseLine s else s

/-- Live bits of a host input while it is in alarm (14 Table 14-9). -/
def markInput (c : Nat) (rail on : Bool) (a : Aon) : Aon :=
  if c > 6 then a
  else
    let bit := BitVec.ofNat 6 1 <<< (c - 1)
    { a with railF := if on && rail then a.railF ||| bit else a.railF &&& ~~~ bit,
             alarm := if on && !rail then a.alarm ||| bit else a.alarm &&& ~~~ bit }

/-- A source enters alarm (14 R519 to R533): it is logged and latched, and its response carried out. One in alarm
already, or not watched, does nothing. -/
def tamperAlarm (src : BitVec 8) (rail : Bool) (detail : BitVec 32) (s : State) : State :=
  let c := src.toNat
  if !tamperSource c || s.aon.alarmed.contains src || !sourceWatched s c then s
  else
    let resp := tamperResponse s c detail
    let flags := tamperFlags s (rail && decide (c ≤ 6))
    let s := s.updAon fun a =>
      markInput c rail true { a with alarmed := a.alarmed ++ [src], cellLow := a.cellLow || c == 0x16,
                                     vbat := if 0x16 ≤ c ∧ c ≤ 0x18 then detail.truncate 12 else a.vbat,
                                     first := latchTamper s c resp flags a.first }
    respond resp (appendLog c resp flags (tamperDetail c detail) s)

/-! ### The mirror -/

/-- Entries a mirror half holds (14 R537). -/
def halfCap : Nat := 32766

/-- Magic of a checkpoint: "TRHT" (14 R537). -/
def halfMagic : Bytes := [0x54, 0x52, 0x48, 0x54]

/-- The HMAC of a checkpoint under LK, truncated to 16 bytes (14 R537). -/
def halfMac (lk : Bytes) (h : MirrorHalf) : Bytes :=
  (hmac256 lk (h.magic ++ leBytes 4 h.gen.toNat ++ leBytes 8 h.count.toNat ++ h.head)).take 16

/-- Whether the checkpoint of a half verifies under LK (14 R537, R538). -/
def halfValid (lk : Bytes) (h : MirrorHalf) : Bool := h.magic == halfMagic && h.mac == halfMac lk h

/-- The half being filled: the valid one of the higher generation; the flag says it is half 1. -/
def mirrorHalf (lk : Bytes) (n : Nvm) : Option (Bool × MirrorHalf) :=
  if halfValid lk n.mirror0 && halfValid lk n.mirror1 then
    (if n.mirror1.gen.toNat > n.mirror0.gen.toNat then some (true, n.mirror1) else some (false, n.mirror0))
  else if halfValid lk n.mirror0 then some (false, n.mirror0)
  else if halfValid lk n.mirror1 then some (true, n.mirror1) else none

/-- Write a mirror half. -/
def putHalf (one : Bool) (h : MirrorHalf) (n : Nvm) : Nvm := if one then { n with mirror1 := h } else { n with mirror0 := h }

/-- Start the other half with a checkpoint (14 R537, R538). -/
def startHalf (lk : Bytes) (count : BitVec 64) (head : Bytes) (n : Nvm) : Nvm :=
  let (one, gen) := match mirrorHalf lk n with
    | some (o, h) => (!o, h.gen + 1)
    | none => (false, 1)
  let h : MirrorHalf := { magic := halfMagic, gen := gen, count := count, head := head, mac := [], entries := [] }
  putHalf one { h with mac := halfMac lk h } n

/-- Head after replaying entries (14 R535). -/
def replayHead (lk head : Bytes) (es : List Bytes) : Bytes := es.foldl (fun h e => hmac256 lk (h ++ e)) head

/-- One pending entry is copied to the mirror; a full half gives way to the other one (14 R536, R537). -/
def mirrorOne (lk : Bytes) (n : Nvm) (e : Bytes) : Nvm :=
  match mirrorHalf lk n with
  | none => n
  | some (one, h) =>
    if h.entries.length < halfCap then putHalf one { h with entries := h.entries ++ [e] } n
    else
      let n := startHalf lk (h.count + BitVec.ofNat 64 h.entries.length) (replayHead lk h.head h.entries) n
      match mirrorHalf lk n with
      | none => n
      | some (o, h) => putHalf o { h with entries := h.entries ++ [e] } n

/-- The pending entries are mirrored, the summary chained first; they stay where there is no half to take them (14 R536). -/
def mirrorPending (s : State) : State :=
  let lk := s.aon.lk.getD []
  if (mirrorHalf lk s.nvm).isNone then s
  else
    let s := chainSummary s
    let es := s.aon.pendLog
    (s.updNvm fun n => es.foldl (mirrorOne lk) n).updAon fun a => { a with pendLog := [] }

/-- The mirror copy of a start, whose read-back is a free value: entries that do not read back stay pending (14 R536; log entry 129). -/
def mirrorAtStart (s : State) : State :=
  if s.aon.pendLog.isEmpty && s.aon.summary.isNone then s
  else if Config.readBack s.drawn then mirrorPending (s.draw 1)
  else (s.draw 1).updNvm fun n => { n with errors := satInc 0xFFFF n.errors }

/-- Replay entries from a count and head while each index is one higher than the last: count, head, entries left
(14 R538). -/
def replayLog (lk : Bytes) : List Bytes → BitVec 64 → Bytes → BitVec 64 × Bytes × Nat
  | [], c, h => (c, h, 0)
  | e :: r, c, h =>
    if leAt e 16 8 = (c + 1).toNat then replayLog lk r (c + 1) (hmac256 lk (h ++ e)) else (c, h, (e :: r).length)

/-- Whether a mirror half was ever written. -/
def halfUsed (h : MirrorHalf) : Bool := !h.magic.isEmpty || h.gen != 0 || !h.entries.isEmpty

/-- The mirror as it replays: the count and head it leads to, the entries that did not replay, and whether a checkpoint
fails (14 R538). -/
def replayMirror (s : State) : BitVec 64 × Bytes × Nat × Bool :=
  let lk := s.aon.lk.getD []
  let halves := [s.nvm.mirror0, s.nvm.mirror1]
  let bad := halves.any fun h => halfUsed h && !halfValid lk h
  let hs := sortBy (fun h => h.gen.toNat) (halves.filter (halfValid lk))
  match hs with
  | [] => (0, fillBytes 32 0, 0, bad)
  | h :: _ =>
    let (c, hd, left) := replayLog lk (hs.flatMap MirrorHalf.entries) h.count h.head
    (c, hd, left, bad)

/-- The log of a domain that lost its state: head and count are those of the last entry that verified, and entries made before the start
take the indices that follow (14 R530, R538; DESIGN CHOICE, log entry 129). -/
def restoreLog (lk : Bytes) (c : BitVec 64) (h : Bytes) (a : Aon) : Aon :=
  a.pendLog.foldl (fun a e => chainEntry (e.take 16 ++ leBytes 8 (a.count + 1).toNat ++ e.drop 24) a)
    { a with count := c, head := h, lk := some lk, pendLog := [] }

/-- The mirror is verified at a start, after the marker is read; a lost state is restored and its CELLLOSS entry made;
a gap is logged, and the mirror restarts in the other half, whose checkpoint covers entries still pending (log entry 129); a mirror that
was never written starts (14 R530, R537, R538). -/
def verifyLog (s : State) : State :=
  let lost := s.aon.aonLost && !s.aon.marker
  let lk := s.aon.lk.getD []
  let (c0, h0, left0, bad) := replayMirror s
  let (c, h, left1) := replayLog lk s.aon.pendLog c0 h0
  let gap := bad || left0 != 0 || left1 != 0 || c != s.aon.count || h != s.aon.head
  let losses := (s.otp[(22 : Fin 128)]).toNat % 256
  let missing := if lost then left0 + left1 else s.aon.count.toNat - c0.toNat
  let s := s.updAon fun a => { a with mirrorBad := a.mirrorBad || gap }
  let s := if lost then s.updAon (restoreLog lk c0 h0) else if gap then s.updAon fun a => { a with pendLog := [] } else s
  let s := if (mirrorHalf lk s.nvm).isNone || (lost && (bad || left0 != 0)) then s.updNvm (startHalf lk c0 h0)
    else if gap && !lost then s.updNvm (startHalf lk s.aon.count s.aon.head) else s
  let s := if lost then appendLog 0x20 1 (tamperFlags s false) losses s else s
  let s := if gap then appendLog 0x21 1 (tamperFlags s false) (min missing 0xFFFFFFFF) s else s
  mirrorAtStart (s.updAon fun a => { a with marker := true })

/-- A start without an NVM has no mirror to verify: the loss of the always-on state is logged, and the marker written (14 R530). -/
def noteLoss (s : State) : State :=
  let lost := s.aon.aonLost && !s.aon.marker
  let losses := (s.otp[(22 : Fin 128)]).toNat % 256
  let s := if lost then appendLog 0x20 1 (tamperFlags s false) losses s else s
  s.updAon fun a => { a with marker := true }

/-- The next unburnt bit of the CELL_LOSS row is burnt, up to 8 (14 R530). -/
def burnCellLoss (s : State) : State :=
  match (List.range 8).find? fun i => !bitAt s.otp[(22 : Fin 128)] i with
  | some i => s.burn 22 (BitVec.ofNat 64 (2 ^ i))
  | none => s

/-- Log key (14 R535): the system context with algorithm 0x0021 and usage 1. -/
def logKey (s : State) : Bytes := kdf s.fds (ascii "TRH-TLOG") (nodeCtx 0xFF 0xFF 0x21 1 false) 32

/-- The Custody processor reads the marker and flags at a start, loads LK and the effective TALARM, and on an invalid
marker burns a CELL_LOSS bit (14 R530, R535; 13 R511). -/
def readMarker (s : State) : State :=
  let s := s.updAon fun a => { a with lk := some (logKey s), talarm := calValue s 0x19, aonLost := !a.marker }
  if s.aon.marker then s else burnCellLoss s

/-! ### Registers -/

/-- TRH_TMP_STATUS (14 Table 14-8). -/
def readTmpStatus (s : State) : BitVec 64 :=
  let a := s.aon
  place a.resp.toNat 30 ||| placeB a.rootClr 29 ||| placeB a.aonLost 28 ||| placeB a.cellLow 27 ||| placeB a.mirrorBad 26 |||
    place (min 32 (a.pendLog.length + (if a.summary.isSome then 1 else 0))) 0

/-- TRH_TMP_INPUTS (14 Table 14-9). -/
def readTmpInputs (s : State) : BitVec 64 :=
  let row := s.otp[(21 : Fin 128)]
  place (fieldNat row 0 6) 24 ||| place (fieldNat row 8 6) 16 ||| place s.aon.railF.toNat 8 ||| place s.aon.alarm.toNat 0

/-- TRH_TMP_FIRST (14 Table 14-10). -/
def readTmpFirst (s : State) : BitVec 64 :=
  let f := s.aon.first
  placeB f.valid 63 ||| placeB f.ovf 62 ||| place f.resp.toNat 16 ||| place f.flags.toNat 8 ||| place f.source.toNat 0

/-- CELL_LOSS bits burnt (14 Table 14-13). -/
def cellLosses (s : State) : Nat := onesIn (leBytes 1 (s.otp[(22 : Fin 128)].toNat % 256))

/-- TRH_TMP_CELL (14 Table 14-13). -/
def readTmpCell (s : State) : BitVec 64 := place (cellLosses s) 16 ||| place s.aon.vbat.toNat 0

/-- A write of TRH_TMP_FIRST: VALID clears and re-arms the latch (14 R539, Table 14-10). -/
def writeTmpFirst (v : BitVec 64) (s : State) : State :=
  if bitAt v 63 then s.updAon fun a => { a with first := TmpFirst.reset } else s

end Sys2Proof.Machine
end

