-- ==== Sys2Proof/Machine/LifeOps.lean ====
section
/-! DEFINITION. Fuse rows, life-cycle transitions and their wipes, authority hashes (15 R541 to R558, R571; 18 R620,
R621). -/
namespace Sys2Proof.Machine

/-- An OTP row by its number. -/
def State.otpRow (s : State) (r : Nat) : BitVec 64 := s.otp.toList.getD r 0

/-- Device unique identity, byte 0 first (15 Table 15-6, 18 Table 18-2). -/
def State.uid (s : State) : Bytes := leBytes 8 (s.otpRow 0).toNat ++ leBytes 8 (s.otpRow 1).toNat

/-- Burn an OTP row by its number. -/
def burnRow (r : Nat) (data : BitVec 64) (s : State) : State := s.burn ⟨r % 128, Nat.mod_lt _ (by decide)⟩ data

/-- Target code of a state (15 Table 15-2). -/
def targetCode (t : Nat) : BitVec 64 :=
  if t = 2 then 0xAAAAAAAAAAAAAAAA else if t = 3 then 0x3C3C3C3C3C3C3C3C else if t = 4 then 0x0FF00FF00FF00FF0
  else if t = 5 then 0x00FFFF0000FFFF00 else if t = 6 then 0x0000FFFFFFFF0000 else if t = 7 then 0x6996966996696996 else 0

/-- Commit code of a state: the complement of its target code (15 R547). -/
def commitCode (t : Nat) : BitVec 64 := ~~~ targetCode t

/-- Authority seal (15 Table 15-2). -/
def sealCode : BitVec 64 := 0x5A5A5A5A5A5A5A5A

/-- Target row of slot `k` of state `t`; its commit row is the next one (15 R546, 18 Table 18-2). -/
def slotRow (t k : Nat) : Nat := 24 + 10 * (t - 2) + 2 * k

/-- Allowed transitions (15 Table 15-3). -/
def allowedFrom (f t : Nat) : Bool :=
  [(1, 2), (2, 3), (3, 4), (4, 5), (4, 6), (5, 6)].contains (f, t) || (t == 7 && f != 7)

/-- Whether a transition quiesces the block: those that wipe (15 Table 15-3). -/
def wipes (t : Nat) : Bool := t == 3 || t == 6 || t == 7

/-- One slot of fuse sense (15 R548). -/
def senseSlot (s : State) (acc : Nat × Option (Nat × Nat)) (t k : Nat) : Nat × Option (Nat × Nat) :=
  let tr := s.otpRow (slotRow t k)
  let cr := s.otpRow (slotRow t k + 1)
  if tr = targetCode t ∧ cr = commitCode t then (t, acc.2)
  else if tr = targetCode t ∧ allowedFrom acc.1 t then (acc.1, some (t, k))
  else acc

/-- Fuse sense: the committed state, and a pending transition with its slot (15 R548). -/
def fuseSense (s : State) : Nat × Option (Nat × Nat) :=
  let (st, p) := (List.range 6).foldl (fun acc i => (List.range 5).foldl (fun acc k => senseSlot s acc (i + 2) k) acc) (1, none)
  match p with
  | some (t, k) => if t ≤ st then (st, none) else (st, some (t, k))
  | none => (st, none)

/-- Whether a slot is consumed (15 R549). -/
def slotUsed (s : State) (t k : Nat) : Bool := s.otpRow (slotRow t k) != 0 || s.otpRow (slotRow t k + 1) != 0

/-- The next free slot of a target (15 R549). -/
def freeSlot (s : State) (t : Nat) : Option Nat := (List.range 5).find? fun k => !slotUsed s t k

/-- TRH_LC_SLOTS (15 Table 15-14). -/
def readLcSlots (s : State) : BitVec 64 :=
  (List.range 6).foldl (fun v i => v ||| place ((List.range 5).filter (slotUsed s (i + 2))).length (3 * i)) 0

/-! ### Authorities -/

/-- First row of an authority: 1 debug, 2 configuration (18 Table 18-2). -/
def authorityBase (kind : Nat) : Nat := if kind = 2 then 105 else 84

/-- The sealed hash of an authority: the first set whose seal row is valid (15 R557). -/
def sealedHash (s : State) (kind : Nat) : Option Bytes :=
  let b := authorityBase kind
  ((List.range 3).find? fun k => s.otpRow (b + 7 * k + 6) == sealCode).map fun k =>
    (List.range 6).flatMap fun j => beBytes 8 (s.otpRow (b + 7 * k + j)).toNat

/-- The first set of an authority with no burnt bit (15 R557). -/
def freeSet (s : State) (kind : Nat) : Option Nat :=
  (List.range 3).find? fun k => (List.range 7).all fun j => s.otpRow (authorityBase kind + 7 * k + j) == 0

/-- An uncompressed point on P-384 (15 R557). -/
def validP384 (s : State) (b : Bytes) : Bool :=
  let c := s.curve 1
  let (x, y) := c.dec b
  b.length == 97 && byteAt b 0 == 4 && c.on x y

/-! ### Transitions -/

/-- The row and data of the program under way (15 R551, R557). -/
def programNow (s : State) : Option (Nat × BitVec 64) :=
  let l := s.lc
  let t := l.next.toNat
  if l.burning = 1 then some (slotRow t l.slot, targetCode t)
  else if l.burning = 2 then some (slotRow t l.slot + 1, commitCode t)
  else if l.burning = 3 then
    l.sealJob.map fun j =>
      let r := authorityBase j.1 + 7 * l.sealSet + j.2.1
      (r, if j.2.1 = 6 then sealCode else BitVec.ofNat 64 (ofBe (slice j.2.2 (8 * j.2.1) 8)))
  else none

/-- The program under way ends with its row short of bits, or is cut: some subset of them is burnt (18 R620). -/
def burnPart (s : State) : State :=
  match programNow s with
  | none => s
  | some (r, d) => (burnRow r (d &&& Config.burntBits s.drawn) s).draw 1

/-- The NVM areas that a transition wipes (15 Table 15-3). -/
def wipeNvm (t : Nat) (n : Nvm) : Nvm :=
  let n := { n with storeA := StoreArea.reset, storeB := StoreArea.reset, pstore := [], marks0 := [], marks1 := [] }
  let n := if t = 3 ∨ t = 7 then { n with dump0 := none, dump1 := none } else n
  if t = 7 then { n with imageA := [], imageB := [] } else n

/-- The reply that ends the request under way (15 R554). -/
def endLcRequest (status : Nat) (s : State) : State :=
  match s.lc.seq with
  | none => s
  | some q => reply none 0x0206 q.toNat status [] (s.updLc fun l => { l with seq := none })

/-- Whether this start rolls a pending transition forward (15 R555). -/
def rollingForward (s : State) : Bool := s.lc.seq.isNone && decide (s.cfg.stage = 0) && s.lc.burning != 3

/-- The areas that a transition wipes are erased and read back: where they do not read back as erased, the request ends with 6 and the
transition stays pending, as where no NVM answers; a start that rolls forward erases them until they do (15 R553 to R555; log entry 99). -/
def eraseAreas (t : Nat) (s : State) : State :=
  let done := fun (s : State) => (s.updNvm (wipeNvm t)).updLc fun l => { l with wiped := true }
  if !s.nvm.present then endLcRequest 6 (s.updLc fun l => { l with burning := 0 })
  else if rollingForward s then done s
  else if Config.erasesBack s.drawn then done (s.draw 1)
  else endLcRequest 6 ((s.draw 1).updLc fun l => { l with burning := 0 })

/-- A wipe: the erase line, then the NVM areas unless the NVM takes no erase now (15 R553, 13 R506). -/
def makeWipe (t : Nat) (s : State) : State :=
  if !wipes t then s.updLc fun l => { l with wiped := true }
  else
    let s := (eraseLine s).updLc fun l => { l with phase := 2 }
    if s.pwr.nvmLow then s else eraseAreas t s

/-- Quiesce: fetching stops at the next boundary, and every admitted request is aborted (15 R552). -/
def quiesce (s : State) : State :=
  markStops (s.now + 1, 0) (fun _ => true) (s.updLc fun l => { l with quiesced := true })

/-- Outcome of a transition request before it is carried out (15 R551, Table 15-4): 0 where it may be. -/
def transitionCheck (s : State) (t comp : Nat) : Nat :=
  if s.lc.phase = 3 then 7
  else if t + comp ≠ 255 ∨ ¬ allowedFrom s.lc.state.toNat t then 2
  else if t = 5 ∧ ((sealedHash s 1).isNone ∨ (sealedHash s 2).isNone) then 5
  else if (freeSlot s t).isNone then 3 else 0

/-- A transition is taken: it quiesces the block where it wipes, and the target row is burnt next (15 R551). -/
def startTransition (seq t : Nat) (s : State) : State :=
  let k := (freeSlot s t).getD 0
  let s := s.updLc fun l =>
    { l with next := BitVec.ofNat 4 t, phase := 0, slot := k, burning := 1, wiped := false, seq := some (BitVec.ofNat 16 seq) }
  if wipes t then quiesce s else s

/-- The target row of a roll-forward that needs a new slot; without a free one the start goes on in the committed state
(15 R555). -/
def rollRetarget (s : State) : State :=
  match freeSlot s s.lc.next.toNat with
  | some k => s.updLc fun l => { l with slot := k, burning := 1 }
  | none => s.updLc fun l => { l with burning := 0, phase := 1 }

/-- At TEST the head and count of the tamper log are set, once; a domain that has lost its state has them restored instead (14 R530,
R535). -/
def beginLog (lc : BitVec 4) (s : State) : State :=
  if lc != 2 || s.aon.begun then s
  else if s.aon.marker then
    s.updAon fun a => { a with begun := true, head := fillBytes 32 0, count := 0, pendLog := [], summary := none }
  else s.updAon fun a => { a with begun := true }

/-- Fuse sense at a cold start, and what a pending transition makes of it (15 R541, R548, R555, R572). Where no NVM answers its wipe cannot
be made: it stays pending, and the start ends at its next stage (16 R574; log entry 99). -/
def senseAtStart (s : State) : State :=
  let (st, p) := fuseSense s
  let s := beginLog (BitVec.ofNat 4 st) (s.updLc fun _ => { LifeCycle.reset with state := BitVec.ofNat 4 st })
  match p with
  | none => s
  | some (t, k) =>
    let s := s.updLc fun l => { l with next := BitVec.ofNat 4 t, slot := k, wiped := false, phase := 1 }
    let s := makeWipe t s
    if wipes t && !s.nvm.present then s
    else if s.otpRow (slotRow t k + 1) &&& targetCode t = 0 then s.updLc fun l => { l with burning := 2 }
    else rollRetarget s

/-- The target row has been read back (15 R551, R554, R555). -/
def targetBurnt (err : Bool) (s : State) : State :=
  let t := s.lc.next.toNat
  if err then
    (if rollingForward s then rollRetarget s
     else endLcRequest 6 (s.updLc fun l => { l with next := 0, phase := 0, burning := 0 }))
  else
    let s := s.updLc fun l => { l with burning := 2, phase := if l.phase = 2 then 2 else 1 }
    if rollingForward s then s else makeWipe t s

/-- The commit row has been read back (15 R551, R554, R555). -/
def commitBurnt (err : Bool) (s : State) : State :=
  let s := if err then s else beginLog s.lc.next s
  if rollingForward s then
    (if err then s
     else s.updLc fun l => { l with state := l.next, next := 0, phase := 0, burning := 0, rollFwd := true })
  else if err then endLcRequest 6 (s.updLc fun l => { l with burning := 0 })
  else endLcRequest 0 (s.updLc fun l => { l with burning := 0, phase := 3 })

/-- A row of an authority set has been read back (15 R557). -/
def authorityBurnt (err : Bool) (s : State) : State :=
  match s.lc.sealJob with
  | none => s
  | some (kind, n, h) =>
    if err then endLcRequest 6 (s.updLc fun l => { l with burning := 0, sealJob := none })
    else if n = 6 then endLcRequest 0 (s.updLc fun l => { l with burning := 0, sealJob := none })
    else s.updLc fun l => { l with sealJob := some (kind, n + 1, h) }

/-- TRH_LC_STATUS (15 Table 15-13). -/
def readLcStatus (s : State) : BitVec 64 :=
  let l := s.lc
  place l.state.toNat 28 ||| place l.next.toNat 24 ||| place l.phase.toNat 22 ||| placeB l.rollFwd 21 |||
    placeB l.quiesced 20 ||| placeB (sealedHash s 1).isSome 19 ||| placeB (sealedHash s 2).isSome 18

end Sys2Proof.Machine
end

