-- ==== Sys2Proof/Machine/CurveOps.lean ====
section
/-! DEFINITION. Curve loads and unloads (06 R284 to R290). -/
namespace Sys2Proof.Machine

/-- Record the outcome of a load in TRH_VS_LOADSTAT, and assert CURVE_LOAD (06 R286; 11 Table 11-9). -/
def noteLoad (i code : Nat) (s : State) : State :=
  assertBlk 14 (s.updVs fun v => { v with lastIndex := BitVec.ofNat 5 i, lastResult := BitVec.ofNat 8 code })

/-- The checks made when a record arrives: its header, then its entry (06 R286, Table 06-9); 0 where the load is
queued. -/
def arrivalCheck (s : State) (r : Bytes) : Nat :=
  let i := recordIndex r
  if !recordHeaderOk r || r.length != 448 then 2 else if i < 8 ∨ i ≥ 32 ∨ (s.curveEntry i).state ≠ 0 then 3 else 0

/-- A CHECKING entry: it shows the cofactor and field length of its record (06 R288, Table 06-14). -/
def checkingEntry (r : Bytes) (origin : BitVec 2) : CurveEntry :=
  { state := 1, origin := origin, h := recordH r, fbits := recordFbits r, record := r, recordSym := symbolsOf r }

/-- A record that passed them is queued for its checks on VS, and its entry is CHECKING (06 R288). -/
def queueCurve (r : Bytes) (origin : BitVec 2) (seq : Option (BitVec 16)) (s : State) : State :=
  let i := recordIndex r
  s.updVs fun v =>
    { v with loads := v.loads ++ [{ CurveLoad.reset with record := r, origin := origin, seq := seq, startTick := s.now }],
             curves := if h : i < 32 then v.curves.set i (checkingEntry r origin) else v.curves }

/-- A curve of an image is submitted for loading; one that fails at once leaves its entry as it was (06 R289). -/
def submitCurve (s : State) (r : Bytes) : State :=
  let c := arrivalCheck s r
  if c = 0 then queueCurve r 1 none s else noteLoad (recordIndex r) c s

/-- The curves that the image of this start adds are submitted in ascending index (06 R289). -/
def submitImageCurves (s : State) : State := (sortBy recordIndex s.image.curves).foldl submitCurve s

/-- The curves that an amendment adds (16 R591). -/
def submitNewCurves (old new : List Bytes) (s : State) : State :=
  (sortBy recordIndex (new.filter fun r => !old.contains r)).foldl submitCurve s

/-- A cut-over that removes a curve of the image puts its entry in RETIRING (06 R290). -/
def retireOldCurves (new : List Bytes) (s : State) : State :=
  s.updVs fun v =>
    { v with curves := v.curves.map fun e =>
        if e.state = 2 ∧ e.origin = 1 ∧ ¬ new.contains e.record then { e with state := 3 } else e }

/-- Whether the region of an admitted request holds the parameters of a curve: they are copied in its validation tick, and stay until the
region is zeroised, after the request's last step too (06 R278, R290; 03 R142). -/
def holdsCurve (r : Request) (i : Nat) : Bool :=
  (List.range r.descs.length).any fun n =>
    let d := r.descs.getD n []
    let c := r.cls.steps.getD n ClassStep.reset
    let k := opKind (Desc.op d)
    r.validated && (k == 4 || k == 5) && c.curve == i

/-- Result code of a load whose time has run out, or whose pair has mismatched three times in a row (06 R257, R287; log entry 80). -/
def lateCode : Nat := 0x0C

/-- Ticks of the 20 ms that a load may take (06 R287, 01 Table 01-7). -/
def loadLimit : Nat := 78125

/-- The status that a result code ends a load request with (06 R286, R287): 0 done, CURVE_PARAMS, INTERNAL. -/
def loadStatus (code : Nat) : Nat := if code = 1 then 0 else if code = lateCode then 0x3F else 0x19

/-- Whether the checks of a load have begun: at run time once it has had a slot, before the timetable starts at once
(06 R287 to R289). -/
def loadBegun (s : State) (l : CurveLoad) : Bool := l.begun || !s.tt.started

/-- Loads under check: one at run time, one on each of the five pairs before the timetable starts (06 R288, R289). -/
def loadsRunning (s : State) : Nat := if s.tt.started then 1 else 5

/-- The load that ends next: the one at the head at run time, any of those on the pairs before the timetable starts, a free choice (06 R288,
R289; log entry 112). -/
def nextLoad (s : State) : Nat :=
  if s.tt.started then 0 else Config.loadEnds s.drawn % min (loadsRunning s) s.vs.loads.length

/-- Whether a load can no longer end with the outcome of its checks: its 20 ms, counted from its first slot, are over, or its pair has mismatched three times in a row
(06 R257, R287). -/
def loadLost (s : State) (l : CurveLoad) : Bool := decide (s.now ≥ l.startTick + loadLimit) || decide (l.reruns ≥ 3)

/-- A load ends with a result code (06 R286 to R288). -/
def completeLoad (code : Nat) (s : State) : State :=
  match s.vs.loads[nextLoad s]? with
  | none => s
  | some l =>
    let rest := s.vs.loads.eraseIdx (nextLoad s)
    let s := (if s.tt.started then s else s.draw 1).updVs fun v => { v with loads := rest }
    let s := assertBlk 14 (endCurveLoad l code s)
    match l.seq with
    | none => s
    | some q => reply none 0x0201 q.toNat (loadStatus code) [] s

/-- TRH_VS_CURVE_STAT of the selected entry (06 Table 06-14). -/
def readCurveStat (s : State) : BitVec 64 :=
  let e := s.curveEntry s.mgmt.curveSel.toNat
  place e.state.toNat 30 ||| place e.origin.toNat 28 |||
    (if e.state = 0 then 0 else place e.h 16 ||| place e.fbits 0)

/-- TRH_VS_LOADSTAT (06 Table 06-15). -/
def readLoadStat (s : State) : BitVec 64 :=
  let v := s.vs
  placeB (!v.loads.isEmpty) 31 ||| place (v.loads.length - loadsRunning s) 24 ||| place v.lastIndex.toNat 16 ||| place v.lastResult.toNat 0

end Sys2Proof.Machine
end

