-- ==== Sys2Proof/Machine/CurveFamily.lean ====
section
/-! DEFINITION. Meanings of the curve commands (06 R284 to R290; 11 R448, R449). -/
namespace Sys2Proof.Machine

/-- Request 0x0201 (06 R286, R288): a record that fails as it arrives ends the request with CURVE_PARAMS. -/
def execCurveLoad (payload : Bytes) (s : State) : Host.Outcome State Fault Refusal :=
  ok (onRequest 0x0201 (fun m s =>
    if m.paylen ≠ 448 ∨ ¬ allZero m.params then answer m 0x82 s
    else if !inWindows s m.tenant m.payload m.paylen true false then answer m 0x84 s
    else
      let s := startRead 2 m.payload m.paylen s
      let r := fitTo 448 payload
      let c := arrivalCheck s r
      if c ≠ 0 then answer m 0x19 (noteLoad (recordIndex r) c s)
      else queueCurve r 2 (some (BitVec.ofNat 16 m.seq)) (answer m 1 s)) s)

/-- A load under check ends: with the outcome of its checks, or as late once its time is over (06 R286, R287, R289). -/
def execCurveLoadComplete (timeout : Bool) (s : State) : Host.Outcome State Fault Refusal :=
  match s.vs.loads[nextLoad s]? with
  | none => ok s
  | some l =>
    if !loadBegun s l then ok s
    else if loadLost s l then ok (completeLoad lateCode s)
    else if timeout then ok s
    else ok (completeLoad (curveChecks l.record) s)

/-- Request 0x0202 (06 R290). The entry is parameter byte 0; an entry that is not READY cannot be unloaded (log entry
32). -/
def execCurveUnload (s : State) : Host.Outcome State Fault Refusal :=
  ok (onRequest 0x0202 (fun m s =>
    let i := byteAt m.params 0
    if m.payload ≠ 0 ∨ m.paylen ≠ 0 ∨ i < 8 ∨ i ≥ 32 ∨ ¬ allZero (m.params.drop 1) then answer m 0x82 s
    else if (s.curveEntry i).state ≠ 2 then answer m 2 s
    else answer m 0 (s.updVs fun v => { v with unload := addNew i v.unload })) s)

/-- At a tick boundary, before the first slot of the tick, a RETIRING entry whose parameters no region holds becomes EMPTY
(06 R290). -/
def execCurveRetired (ix : Fin 32) (s : State) : Host.Outcome State Fault Refusal :=
  if s.tt.slot = 0 ∧ s.vs.curves[ix].state = 3 ∧ ¬ s.reqs.any (fun r => holdsCurve r ix.val) then
    ok (assertBlk 14 (s.updVs fun v => { v with curves := v.curves.set ix CurveEntry.reset }))
  else ok s

end Sys2Proof.Machine
end

