-- ==== Sys2Proof/Machine/ImageOps.lean ====
section
/-! DEFINITION. The configuration image: its layout, its checks and its loading (16 R580 to R585; 02 R81 to R90; 08
Table 08-3; 09 Table 09-6; 11 Table 11-1; 12 Table 12-4; 13 R515). -/
namespace Sys2Proof.Machine

/-- A directory entry (16 R581). -/
structure Section where
  typ : Nat
  inst : Nat
  off : Nat
  len : Nat
deriving DecidableEq, Repr

/-- Number of directory entries that the header gives. -/
def imgCount (b : Bytes) : Nat := leAt b 16 2

/-- The directory of an image. -/
def imgDir (b : Bytes) : List Section :=
  (List.range (imgCount b)).map fun i =>
    let o := 64 + 16 * i
    { typ := leAt b o 2, inst := leAt b (o + 2) 2, off := leAt b (o + 4) 4, len := leAt b (o + 8) 4 }

/-- Body of a section. -/
def sectionBody (b : Bytes) (x : Section) : Bytes := slice b x.off x.len

/-- Body of the section of a type and index, empty where it is missing. -/
def imgBody (b : Bytes) (typ inst : Nat) : Bytes :=
  (((imgDir b).find? fun x => x.typ = typ && x.inst = inst).map (sectionBody b)).getD []

/-- Whether an image has a section. -/
def imgHas (b : Bytes) (typ inst : Nat) : Bool := (imgDir b).any fun x => x.typ = typ && x.inst = inst

/-- Whether a range of bytes is zero. -/
def zeroAt (b : Bytes) (off len : Nat) : Bool := leAt b off len == 0

/-- `n` records of `w` bytes from an offset. -/
def records (b : Bytes) (off w n : Nat) : List Bytes := (List.range n).map fun i => slice b (off + w * i) w

/-- Whether every pair of neighbours in a list satisfies a test. -/
def neighbours {α : Type} (f : α → α → Bool) : List α → Bool
  | a :: b :: r => f a b && neighbours f (b :: r)
  | _ => true

/-! ### Cause 0x02: header and directory -/

/-- Whether a directory entry's type and index are listed, and its reserved bytes 0 (16 R581, Table 16-6). -/
def dirEntryOk (b : Bytes) (i : Nat) (x : Section) : Bool :=
  zeroAt b (64 + 16 * i + 12) 4 && decide (1 ≤ x.typ ∧ x.typ ≤ 14) &&
    (if x.typ = 6 then decide (x.inst ≤ 6) else if x.typ = 13 then decide (x.inst ≤ 2) else x.inst == 0) &&
    x.off % 64 == 0 && decide (64 + 16 * imgCount b ≤ x.off ∧ x.off + x.len ≤ b.length - 192)

/-- Header and directory (16 R580, R581). Entries of one type and index are left to the check of cause 0x07. -/
def headerOk (b : Bytes) : Bool :=
  let d := imgDir b
  slice b 0 4 == [0x54, 0x52, 0x48, 0x43] && byteAt b 4 == 1 && byteAt b 5 == 0 && leAt b 8 4 == b.length &&
    decide (b.length ≤ 4194304) && b.length % 64 == 0 && decide (15 ≤ imgCount b ∧ imgCount b ≤ 22) && zeroAt b 18 46 &&
    (d.zipIdx.all fun x => dirEntryOk b x.2 x.1) &&
    neighbours (fun x y => decide (x.typ * 65536 + x.inst ≤ y.typ * 65536 + y.inst)) d &&
    neighbours (fun x y => decide (x.off + x.len ≤ y.off)) (sortBy Section.off d)

/-! ### Causes 0x03 to 0x06: contract, authority, signature, patches -/

/-- Contract level that the part accepts: major 1, minor at most 0 (00 R12). -/
def contractOk (b : Bytes) : Bool := byteAt b 7 == 1 && byteAt b 6 == 0

/-- The authority key of the trailer, x ‖ y. -/
def authorityKey (b : Bytes) : Bytes := slice b (b.length - 192) 96

/-- Whether the authority key is the sealed one; with none sealed any key is accepted (16 R583). -/
def authorityOk (s : State) (b : Bytes) : Bool :=
  match sealedHash s 2 with
  | none => true
  | some h => sha384 ([0x04] ++ authorityKey b) == h

/-- A P-384 signature r ‖ s over a message, verified with a point x ‖ y. -/
def verifyP384 (s : State) (key msg sig : Bytes) : Bool :=
  let c := s.curve 1
  let q := (ofBe (key.take 48), ofBe (key.drop 48))
  let r := ofBe (sig.take 48)
  let t := ofBe (sig.drop 48)
  decide (1 ≤ r ∧ r < c.n ∧ 1 ≤ t ∧ t < c.n) && c.on q.1 q.2 && ecdsaVerify c (sha384 msg) r t q

/-- The signature of an image (16 R583). -/
def signatureOk (s : State) (b : Bytes) : Bool :=
  verifyP384 s (authorityKey b) (b.take (b.length - 96)) (b.drop (b.length - 96))

/-- A patch section for a processor (16 R582, Table 16-11). -/
def patchOk (s : State) (p : Nat) (b : Bytes) : Bool :=
  let c := leAt b 12 4
  let key := beBytes 48 Config.firmwareKey.1 ++ beBytes 48 Config.firmwareKey.2
  slice b 0 4 == [0x54, 0x52, 0x48, 0x46] && byteAt b 4 == 1 && byteAt b 5 == p && zeroAt b 6 2 && decide (c ≤ 1048576) &&
    b.length == 160 + c && slice b 16 48 == sha384 (Config.romImage p) && verifyP384 s key (b.take (64 + c)) (b.drop (64 + c))

/-- The patches of an image. -/
def patchesOk (s : State) (b : Bytes) : Bool :=
  ((imgDir b).filter fun x => x.typ = 13).all fun x => patchOk s x.inst (sectionBody b x)

/-! ### Cause 0x07: sections and their lengths -/

/-- Bytes of one frame of a station (02 Table 02-3). -/
def frameBytes (st : Nat) : Nat := 1024 * positions st

/-- Timetables that a present mask names. -/
def maskCount (b : Bytes) : Nat := onesIn (slice b 2 1)

/-- Length that a section's body accounts for (16 Tables 16-6 to 16-11). -/
def bodyLen (x : Section) (b : Bytes) : Nat :=
  match x.typ with
  | 1 => 64
  | 2 => 16 + 176 * leAt b 0 2
  | 3 => 32768
  | 4 => 24576
  | 5 => 16
  | 6 => 16 + 64 * maskCount b + byteAt b 1 * frameBytes x.inst
  | 7 => 5120
  | 8 => 8192
  | 9 => 16 + 48 * leAt b 0 4 + 24 * leAt b 4 4 + 4 * leAt b 8 4
  | 10 => 16 + 448 * leAt b 0 4
  | 11 => 8 + 8 * leAt b 0 4
  | 12 => 4 + 4 * leAt b 0 2
  | 13 => 160 + leAt b 12 4
  | _ => 64

/-- Sections required once: the types of Table 16-6 that are not optional. -/
def required : List (Nat × Nat) :=
  [(1, 0), (2, 0), (3, 0), (4, 0), (5, 0), (6, 0), (6, 1), (6, 2), (6, 3), (6, 4), (6, 5), (6, 6), (7, 0), (8, 0), (9, 0)]

/-- Presence, uniqueness and lengths of the sections. -/
def sectionsOk (b : Bytes) : Bool :=
  let d := imgDir b
  (required.all fun r => imgHas b r.1 r.2) && neighbours (fun x y => decide ((x.typ, x.inst) ≠ (y.typ, y.inst))) d &&
    d.all fun x => x.len == bodyLen x (sectionBody b x)

/-! ### Parsing -/

/-- A class step record (16 Table 16-8). -/
def parseClassStep (b : Bytes) (i : Nat) : ClassStep :=
  let o := 48 + 16 * i
  { opcode := leAt b o 2, station := byteAt b (o + 2), callerIv := (byteAt b (o + 3)).testBit 0,
    shadow := (byteAt b (o + 3)).testBit 1, maxLen := leAt b (o + 4) 4, curve := byteAt b (o + 8),
    modBits := leAt b (o + 10) 2, expBits := leAt b (o + 12) 2, saltLen := leAt b (o + 14) 2 }

/-- A class entry (16 Table 16-8). -/
def parseClass (b : Bytes) : ClassDef :=
  { num := leAt b 0 2, derivable := (byteAt b 3).testBit 0, pubExp := ofBe (slice b 16 32),
    steps := (List.range (byteAt b 2)).map (parseClassStep b) }

/-- A borrower field (02 Table 02-4). -/
def parseBorrower (n : Nat) : Option Nat := if n.testBit 15 then some (n % 1024) else none

/-- The index bits of a borrower field that is not valid: they name no one, but belong to the entry (02 Table 02-4, R111). -/
def idleBits (n : Nat) : Nat := if n.testBit 15 then 0 else n % 1024

/-- A platform entry (02 Table 02-4). -/
def parsePlat (b : Bytes) : PlatEntry :=
  { kind := byteAt b 0, tenant := byteAt b 1, cls := leAt b 2 2, depth := leAt b 4 2, ovr := (byteAt b 6).testBit 0,
    kmiss := (byteAt b 6).testBit 1, rate := leAt b 8 4, burst := leAt b 12 2, bor1 := parseBorrower (leAt b 14 2),
    bor2 := parseBorrower (leAt b 16 2), bound := leAt b 20 4, idle1 := idleBits (leAt b 14 2), idle2 := idleBits (leAt b 16 2) }

/-- A station shares entry (16 Table 16-9). -/
def parseShare (b : Bytes) : ShareEntry :=
  { plat := leAt b 0 2, hold := [leAt b 2 2, leAt b 4 2], vs := leAt b 6 2, ss := leAt b 8 2,
    staging := [leAt b 10 2, leAt b 12 2, leAt b 14 2, leAt b 16 2], miss := leAt b 18 2 }

/-- A station timetable section (16 Table 16-10). -/
def parseTable (st : Nat) (b : Bytes) : StnTable :=
  let n := maskCount b
  let w := frameBytes st
  { present := byteAt b 2, orders := (records b 16 64 n).map fun o => o.map BitVec.toNat,
    frames := (records b (16 + 64 * n) w (byteAt b 1)).map fun f =>
      (List.range (w / 2)).map fun i => BitVec.ofNat 16 (leAt f (2 * i) 2) }

/-- A tenant record (16 Table 16-6). -/
def parseTenant (b : Bytes) : TenantRec :=
  { scheme := byteAt b 0, present := byteAt b 1, shares := (List.range 4).map fun i => byteAt b (2 + i) }

/-- A node entry (09 Table 09-6). -/
def parseNode (b : Bytes) : Node :=
  { parent := leAt b 0 4, tenant := byteAt b 4, depth := byteAt b 5, alg := BitVec.ofNat 16 (leAt b 6 2),
    handle := BitVec.ofNat 20 (leAt b 8 4), usage := BitVec.ofNat 8 (byteAt b 12), exp := (byteAt b 13).testBit 0,
    secret := (byteAt b 13).testBit 1, resident := (byteAt b 13).testBit 2, label := slice b 16 32 }

/-- A template entry (09 Table 09-6). -/
def parseTemplate (b : Bytes) : Template :=
  let f := byteAt b 18
  { tenant := byteAt b 0, usage := BitVec.ofNat 8 (byteAt b 1), alg := BitVec.ofNat 16 (leAt b 2 2), first := leAt b 4 4,
    count := leAt b 8 4, recno := leAt b 12 4, size := leAt b 16 2, exp := f.testBit 0, secret := f.testBit 1,
    clear := f.testBit 2, cacheOnly := f.testBit 3 }

/-- A severity rule (12 Table 12-4). -/
def parseRule (b : Bytes) : SevRule :=
  { pat := BitVec.ofNat 16 (leAt b 0 2), mask := BitVec.ofNat 16 (leAt b 2 2), sev := byteAt b 4, action := byteAt b 5,
    window := leAt b 6 2 }

/-- What the sections of an image give every owner (16 Table 16-6). -/
def parseImage (b : Bytes) : Image :=
  let p := imgBody b 1 0
  let c := imgBody b 2 0
  let h := imgBody b 5 0
  let t := imgBody b 7 0
  let k := imgBody b 9 0
  let nn := leAt k 0 4
  let nt := leAt k 4 4
  let inst := leAt p 0 4
  { contract := BitVec.ofNat 16 (leAt b 6 2), seq := BitVec.ofNat 32 (leAt b 12 4),
    instNo := if inst.testBit 31 then some (BitVec.ofNat 26 inst) else none,
    mgmtCap := byteAt p 4, latchMin := byteAt p 5, dumpBase := BitVec.ofNat 64 (leAt p 8 8),
    dumpLen := BitVec.ofNat 64 (leAt p 16 8), residentSlots := leAt p 24 2, reservedSlots := leAt p 26 2,
    poolSlots := leAt p 28 2,
    classes := (records c 16 176 (leAt c 0 2)).map parseClass,
    plats := (records (imgBody b 3 0) 0 32 1024).map parsePlat,
    shares := (records (imgBody b 4 0) 0 24 1024).map parseShare,
    groups := (List.range 9).map (byteAt h), conts := byteAt h 9,
    tables := (List.range 7).map fun st => parseTable st (imgBody b 6 st),
    idmap := t.take 4096, tenants := (records t 4096 16 64).map parseTenant,
    windows := (records (imgBody b 8 0) 0 16 512).map fun w =>
      { base := BitVec.ofNat 64 (leAt w 0 8), limit := BitVec.ofNat 64 (leAt w 8 8) },
    nodes := (records k 16 48 nn).map parseNode,
    templates := (records k (16 + 48 * nn) 24 nt).map parseTemplate,
    residents := (records k (16 + 48 * nn + 24 * nt) 4 (leAt k 8 4)).map fun r =>
      (leAt r 0 4 / 1048576 % 64, BitVec.ofNat 20 (leAt r 0 4)),
    curves := records (imgBody b 10 0) 16 448 (leAt (imgBody b 10 0) 0 4),
    rules := (records (imgBody b 11 0) 8 8 (leAt (imgBody b 11 0) 0 4)).map parseRule,
    offsets := (records (imgBody b 12 0) 4 4 (leAt (imgBody b 12 0) 0 2)).map fun r => (byteAt r 0, signed16 (leAt r 2 2)),
    patches := ((imgDir b).filter fun x => x.typ = 13).map fun x => (x.inst, sectionBody b x),
    keyBody := k,
    ttBody := imgBody b 3 0 ++ imgBody b 4 0 ++ h ++ (List.range 7).flatMap fun st => imgBody b 6 st }

/-! ### Cause 0x08: the timetable set -/

/-- Whether a platform index is of kind unused. -/
def unusedPlat (m : Image) (p : Nat) : Bool := (m.plats.getD p PlatEntry.reset).kind == 0

/-- One platform entry: reserved bits 0, a kind of Table 02-4, borrowers in use (02 R90). -/
def platOk (m : Image) (b : Bytes) : Bool :=
  let p := parsePlat b
  let spare := fun n => leAt b n 2 / 1024 % 32 == 0
  decide (p.kind ≤ 2) && decide (byteAt b 6 < 4) && byteAt b 7 == 0 && zeroAt b 18 2 && zeroAt b 24 8 && spare 14 && spare 16 &&
    (p.bor1.toList ++ p.bor2.toList).all fun q => !unusedPlat m q

/-- One slot entry at a position of a station, among the entries of its tick and slot (02 R81, R90). -/
def entryOk (m : Image) (st pos : Nat) (group : List (BitVec 16)) (e : BitVec 16) : Bool :=
  !bitAt e 10 &&
    (if entryStandby e then
       !(st == 6 && decide (pos ≥ 3)) && !unusedPlat m (entryPlat e) &&
         (group.filter fun x => entryPlat x = entryPlat e && !entryStandby x).length == 1
     else !unusedPlat m (entryPlat e) || !bitAt e 15)

/-- A frame of a station: the entries of its ticks and slots (02 R83). -/
def frameOk (m : Image) (st : Nat) (f : List (BitVec 16)) : Bool :=
  (List.range 512).all fun i =>
    let g := (f.drop (i * positions st)).take (positions st)
    g.zipIdx.all fun x => entryOk m st x.2 g x.1

/-- A running order: 64 bytes whose reserved bits are 0, naming loaded frames, at most 8 of them (02 R85, R86). -/
def orderOk (t : StnTable) (o : List Nat) : Bool :=
  (o.all fun x => decide (x < 32 ∧ x < t.frames.length)) && decide ((o.foldl (fun l x => addNew x l) []).length ≤ 8)

/-- A station's timetable (02 R85, R86, R90; 16 Table 16-10). -/
def tableOk (m : Image) (st : Nat) (b : Bytes) : Bool :=
  let t := parseTable st b
  byteAt b 0 == st && decide (1 ≤ byteAt b 1 ∧ byteAt b 1 ≤ 32) && zeroAt b 3 13 && t.present == 2 ^ (m.conts + 1) - 1 &&
    t.orders.all (orderOk t) && (t.frames.all fun f => frameOk m st f) &&
    ((t.orders.getD 0 []).foldl (fun l x => addNew x l) []).all fun j => (t.frames.getD j []).all fun e => !bitAt e 11

/-- The set head (02 R90, R103; 16 Table 16-6). -/
def headOk (m : Image) (b : Bytes) : Bool :=
  decide (m.conts ≤ 6) && zeroAt b 10 6 && m.groups.all (fun g => decide (g ≤ m.conts)) &&
    !(m.groups.getD 4 0 != 0 && m.groups.getD 4 0 == m.groups.getD 5 0)

/-- Whether no two platforms in use carry one tenant and class (02 R90). -/
def platsDistinct (m : Image) : Bool :=
  let l := (m.plats.filter fun p => p.kind ≠ 0).map fun p => (p.tenant, p.cls)
  l.length == (l.foldl (fun a x => addNew x a) []).length

/-- The timetable set (02 R90). -/
def setOk (m : Image) (b : Bytes) : Bool :=
  headOk m (imgBody b 5 0) && (records (imgBody b 3 0) 0 32 1024).all (platOk m) && platsDistinct m &&
    (List.range 7).all fun st => tableOk m st (imgBody b 6 st)

/-! ### Cause 0x09: ranges and relations -/

/-- Block parameters (16 Table 16-7; 12 Table 12-3; 09 R381). -/
def paramsOk (m : Image) (b : Bytes) : Bool :=
  let inst := leAt b 0 4
  decide (inst % 2 ^ 31 < 2 ^ 26) && decide (8 ≤ m.mgmtCap ∧ m.mgmtCap ≤ 40) && decide (m.latchMin ≤ 5) && zeroAt b 6 2 &&
    zeroAt b 30 34 && m.dumpBase.toNat % 4096 == 0 && m.dumpLen.toNat % 4096 == 0 &&
    (m.dumpBase == 0 || decide (m.dumpLen.toNat ≥ 2097152)) && decide (m.poolSlots ≥ 256) &&
    decide (m.residentSlots + m.reservedSlots ≤ 15872) && decide (256 + m.residentSlots + m.reservedSlots + m.poolSlots ≤ 16384)

/-- Whether an opcode has the member `curve` (06 Table 06-3; 07 Table 07-3). -/
def hasCurve (op : Nat) : Bool := op == 0x0500 || op == 0x0600 || op == 0x0602 || op == 0x0606

/-- Whether an opcode has the member `modulus_bits` (06 Table 06-3; 07 Table 07-3). -/
def hasModulus (op : Nat) : Bool := (0x0502 ≤ op && op ≤ 0x0504) || (0x0603 ≤ op && op ≤ 0x0605) || op == 0x0607

/-- The members of a VS or SS step are in their ranges; one that the opcode does not have is 0. The hash that bounds a salt stands in
the descriptor, so the bound is that of the shortest hash (06 R262, Table 06-3; 07 R299, Table 07-3; log entry 116). -/
def membersOk (pubExp : Nat) (x : ClassStep) : Bool :=
  let sealed := x.opcode ≥ 0x0600
  (if hasCurve x.opcode then x.curve < 32 && x.curve != 7 else x.curve == 0) &&
    (if hasModulus x.opcode then
       decide ((if sealed then 2048 else 1024) ≤ x.modBits ∧ x.modBits ≤ (if sealed then 4096 else 8192)) && x.modBits % 64 == 0 &&
         (!sealed || pubExp == 0 || (pubExp % 2 == 1 && pubExp ≥ 3)) &&
         (sealed || pubExp != 0 || (2 ≤ x.expBits && x.expBits ≤ 256))
     else x.modBits == 0) &&
    (if x.opcode = 0x0503 ∨ x.opcode = 0x0604 then decide (x.saltLen + hashLen 1 + 2 ≤ ceilDiv (x.modBits - 1) 8) else x.saltLen == 0)

/-- A class entry (16 Table 16-8). -/
def classOk (b : Bytes) : Bool :=
  let c := parseClass b
  decide (c.num ≤ 1023) && decide (1 ≤ c.steps.length ∧ c.steps.length ≤ 8) && decide (byteAt b 3 < 2) && zeroAt b 4 12 &&
    (c.steps.all fun x =>
      let k := opKind x.opcode
      decide (k < 8) && membersOk c.pubExp x &&
        (x.station == 255 || (if k ≤ 3 then decide (x.station / 2 = k / 2 ∧ x.station ≤ 3) else x.station == k))) &&
    ((List.range c.steps.length).all fun i => decide (byteAt b (51 + 16 * i) < 4) && byteAt b (57 + 16 * i) == 0) &&
    zeroAt b (48 + 16 * c.steps.length) (128 - 16 * c.steps.length)

/-- A platform entry's ranges (02 Table 02-4). -/
def platRanges (m : Image) (p : PlatEntry) : Bool :=
  if p.kind = 0 then p.rate == 0 && p.burst == 0 && p.bound == 0
  else
    decide (p.tenant < 64) && decide (p.cls ≤ 1023) && decide (1 ≤ p.depth ∧ p.depth ≤ 4096) &&
      (m.classes.any fun c => c.num = p.cls) &&
      (if p.kind = 2 then p.rate == 0 && p.burst == 0 && p.bound == 0 else decide (p.burst ≥ 1))

/-- A station shares entry (16 Table 16-9). -/
def shareOk (i : Nat) (b : Bytes) : Bool := leAt b 0 2 == i && zeroAt b 20 4

/-- A tenant record (16 Table 16-6, 09 R376, 08 R337). -/
def tenantOk (b : Bytes) : Bool :=
  let t := parseTenant b
  decide (t.present ≤ 1) && zeroAt b 6 10 && t.shares.all (fun x => decide (x ≤ 120)) &&
    (t.present == 0 || decide (1 ≤ t.scheme ∧ t.scheme ≤ 3))

/-- An identity map byte: without a role the tenant is 0 (11 Table 11-1). -/
def identOk (x : Byte) : Bool := decide (64 ≤ x.toNat) || x == 0

/-- A window record (08 Table 08-3, R638). -/
def windowOk (w : Window) : Bool :=
  fieldNat w.base 2 10 == 0 && fieldNat w.limit 0 12 == 0 && decide (fieldNat w.base 12 52 ≤ fieldNat w.limit 12 52)

/-- A node entry: its parent comes before it, is of its tenant, and is one level up (09 R378, Table 09-6). -/
def nodeOk (m : Image) (i : Nat) (b : Bytes) : Bool :=
  let n := parseNode b
  decide (n.tenant < 64) && decide (2 ≤ n.depth ∧ n.depth ≤ 8) && decide (leAt b 8 4 < 524288) && zeroAt b 14 2 &&
    decide (byteAt b 13 < 8) && algDerivable n.alg.toNat && decide (1 ≤ n.usage.toNat ∧ n.usage.toNat ≤ 4) &&
    (if n.parent = 0xFFFFFFFF then n.depth == 2
     else
       decide (n.parent < i) &&
         (match m.nodes[n.parent]? with
          | some p => p.tenant == n.tenant && p.depth + 1 == n.depth && p.alg == 6 && p.usage == 4
          | none => false))

/-- A template's algorithm is one of Table 09-3, and its size goes with it: the modulus bits of an RSA key, the key bytes of an HMAC key,
else 0 (09 Tables 09-3, 09-5, R250; 06 R262; 07 R299). -/
def sizeOk (a size : Nat) : Bool :=
  if a = 0x200 then decide (2048 ≤ size ∧ size ≤ 4096) && size % 64 == 0
  else if a = 0x201 then decide (1024 ≤ size ∧ size ≤ 8192) && size % 64 == 0
  else if algHmac a then decide (16 ≤ size ∧ size ≤ (if a ≤ 0x21 then 64 else 128))
  else (algDerivable a || decide (0x100 ≤ a ∧ a < 0x120) || decide (0x140 ≤ a ∧ a < 0x160) || a == 0x300) && size == 0

/-- Ranges of numbers, each a first and a count, that do not overlap. -/
def rangesApart (l : List (Nat × Nat)) : Bool :=
  neighbours (fun x y => decide (x.1 + x.2 ≤ y.1)) (sortBy Prod.fst l)

/-- No handle, and no record number, is given twice (09 R378). -/
def handlesApart (m : Image) : Bool :=
  rangesApart (m.nodes.map (fun n => (n.tenant * 1048576 + n.handle.toNat, 1)) ++
    m.templates.map (fun t => (t.tenant * 1048576 + t.first, t.count))) &&
  rangesApart ((m.templates.filter fun t => t.recno ≠ 0xFFFFFFFF).map fun t => (t.recno, t.count))

/-- The shares of a memory fit it: hold chunks, VS and SS blocks, staging chunks, and the miss shares their partition (04 R199, R201;
06 R275; 07 R324; 08 R347; 09 R381; log entry 65). -/
def sharesFit (m : Image) : Bool :=
  let total := fun (f : ShareEntry → Nat) => (m.shares.map f).sum
  ((List.range 2).all fun st => decide (total (fun x => x.hold.getD st 0) ≤ 256)) &&
    decide (total ShareEntry.vs ≤ 992) && decide (total ShareEntry.ss ≤ 480) &&
    ((List.range 4).all fun st => decide (total (fun x => x.staging.getD st 0) ≤ 256)) &&
    decide (total ShareEntry.miss ≤ m.reservedSlots)

/-- A resident record entry: bits above the tenant are 0 (16 Table 16-6). -/
def residentOk (b : Bytes) : Bool := decide (leAt b 0 4 < 67108864) && (leAt b 0 4).testBit 19

/-- A template entry (09 Table 09-6, R378). -/
def templateOk (b : Bytes) : Bool :=
  let t := parseTemplate b
  decide (t.tenant < 64) && sizeOk t.alg.toNat t.size && decide (1 ≤ t.usage.toNat ∧ t.usage.toNat ≤ 4) &&
    decide (524288 ≤ t.first ∧ t.first + t.count ≤ 1048576) && decide (1 ≤ t.count ∧ t.count ≤ 524288) &&
    decide (byteAt b 18 < 16) && zeroAt b 19 5 && (t.cacheOnly == (t.recno == 0xFFFFFFFF)) &&
    (t.recno == 0xFFFFFFFF || decide (t.recno + t.count ≤ 1048576)) &&
    (!t.clear || (decide (1 ≤ t.alg.toNat ∧ t.alg.toNat ≤ 0x34) && t.alg != 6))

/-- A severity rule (12 Table 12-4). -/
def ruleOk (r : SevRule) : Bool :=
  decide (r.sev ≤ 5) &&
    (if r.sev = 3 then [2, 4, 5].contains r.action && decide (1 ≤ r.window ∧ r.window ≤ 1024)
     else r.action == 0 && r.window == 0)

/-- User calibration entries: known items, none twice (13 R515). -/
def offsetsOk (m : Image) (b : Bytes) : Bool :=
  (m.offsets.all fun x => calValid x.1) && decide (m.offsets.length ≤ 64) &&
    ((m.offsets.map Prod.fst).foldl (fun l x => addNew x l) []).length == m.offsets.length &&
    (records b 4 4 m.offsets.length).all fun r => byteAt r 1 == 0

/-- Every other stated range and relation (16 Table 16-12, cause 0x09). -/
def rangesOk (m : Image) (b : Bytes) : Bool :=
  let k := imgBody b 9 0
  let t := imgBody b 7 0
  m.seq != 0 && paramsOk m (imgBody b 1 0) && zeroAt (imgBody b 2 0) 2 14 &&
    (records (imgBody b 2 0) 16 176 m.classes.length).all classOk &&
    neighbours (fun x y => decide (x.num < y.num)) m.classes && m.plats.all (platRanges m) &&
    ((records (imgBody b 4 0) 0 24 1024).zipIdx.all fun x => shareOk x.2 x.1) &&
    (records t 4096 16 64).all tenantOk && m.idmap.all identOk &&
    ((List.range 4).all fun p => decide ((m.tenants.map fun x => x.shares.getD p 0).sum ≤ 120)) &&
    m.windows.all windowOk && zeroAt k 12 4 &&
    ((records k 16 48 m.nodes.length).zipIdx.all fun x => nodeOk m x.2 x.1) &&
    (records k (16 + 48 * m.nodes.length) 24 m.templates.length).all templateOk && decide (m.templates.length ≤ 4096) &&
    (records k (16 + 48 * m.nodes.length + 24 * m.templates.length) 4 m.residents.length).all residentOk && handlesApart m &&
    sharesFit m &&
    decide (m.curves.length ≤ 24) && m.rules.all ruleOk && decide (m.rules.length ≤ 512) && offsetsOk m (imgBody b 12 0) &&
    zeroAt (imgBody b 14 0) 48 16

/-! ### The checks in their order -/

/-- What an image is checked for. -/
inductive ImageUse where
  | start | amendment | handover
deriving DecidableEq, Repr

/-- Checks 0x02 to 0x06, then 0x07 to 0x09: the first that fails (16 R585, Table 16-12); 0 where none does. -/
def startCause (s : State) (b : Bytes) : Nat :=
  if !headerOk b then 2
  else if !contractOk b then 3
  else if !authorityOk s b then 4
  else if !signatureOk s b then 5
  else if !patchesOk s b then 6
  else if !sectionsOk b then 7
  else
    let m := parseImage b
    if !setOk m b then 8 else if !rangesOk m b then 9 else 0

/-- Sections that a handover may not change (16 R595). -/
def sameOutside (a b : Bytes) : Bool :=
  let rest := fun x => ((imgDir x).filter fun e => e.typ < 13).map fun e => (e.typ, e.inst, sectionBody x e)
  rest a == rest b

/-- The cause of Table 16-12 that refuses an image, 0 where none does. -/
def imageCause (s : State) (use : ImageUse) (b : Bytes) : Nat :=
  let c := startCause s b
  if c ≠ 0 ∨ use = .start then c
  else if leAt b 12 4 ≤ s.cfg.seq.toNat then 0x0A
  else if !imgHas b 14 0 || (imgBody b 14 0).take 48 != s.cfg.hash then 0x0B
  else if use = .handover ∧ ¬ sameOutside s.cfg.image b then 0x0C
  else 0

/-- An image area of NVM. -/
def imageArea (s : State) (b : Bool) : Bytes := if b then s.nvm.imageB else s.nvm.imageA

/-- The image that an area holds, as long as its header says (16 R580). -/
def imageIn (s : State) (b : Bool) : Bytes := let a := imageArea s b; a.take (leAt a 8 4)

/-- Digest of the timetable set (02 R108, 16 R584). -/
def timetableDigest (m : Image) : Bytes := sha384 m.ttBody

/-- Key-policy hash (16 R584). -/
def keyPolicyHash (m : Image) : Bytes := sha384 m.keyBody

/-- Patch bytes 0 to 63 + C of a processor in an image (16 R582). -/
def patchFor (m : Image) (p : Nat) : Bytes :=
  match m.patches.lookup p with
  | some b => b.take (64 + leAt b 12 4)
  | none => []

/-- Measurement of a processor: its ROM image and the patch in use (16 R582). -/
def measurement (s : State) (p : Fin 3) : Bytes := sha384 (Config.romImage p.val ++ s.procs[p].patch)

end Sys2Proof.Machine
end

