-- ==== Sys2Proof/Machine/Admission.lean ====
section
/-! DEFINITION. The admission engine: chains, fetch order, checks 0 to 6 (03 R123 to R149, R634, R635). -/
namespace Sys2Proof.Machine

/-! ### Chains -/

/-- Walk the held descriptors of a chain from ring index `i` (03 R131): the descriptors, and whether the chain ended on a
link of 0xFFFF_FFFF; none while its last descriptor is not held. -/
def formChain (r : Ring) : Nat → Nat → Option (List HeldDesc × Bool)
  | 0, _ => some ([], false)
  | fuel + 1, i =>
    match r.held.find? fun h => h.index.toNat = i with
    | none => none
    | some h =>
      let l := Desc.link h.bytes
      if l = lastLink then some ([h], true)
      else if l ≠ (i + 1) % r.entries then some ([h], false)
      else (formChain r fuel ((i + 1) % r.entries)).map fun p => (h :: p.1, p.2)

/-- The chain at the head of a ring. -/
def headChain (r : Ring) : Option (List HeldDesc × Bool) := if r.published = 0 then none else formChain r 8 r.sqHead.toNat

/-- The first descriptor of a ring's head chain, when it is held. -/
def headDesc (r : Ring) : Option HeldDesc := if r.published = 0 then none else r.held.find? fun h => h.index = r.sqHead

/-- Landed by DCLK cycle 160 of the tick (03 R635). -/
def landedInTime (now : Nat) (h : HeldDesc) : Bool := decide (h.landTick < now) || decide (h.landCycle ≤ 160)

/-- Platform of a tenant and class (02 R71). -/
def platformOf (s : State) (t cls : Nat) : Option Nat :=
  s.image.plats.findIdx? fun p => p.kind ≠ 0 && p.tenant = t && p.cls = cls

/-- Platform entry by index. -/
def State.plat (s : State) (p : Nat) : PlatEntry := s.image.plats.getD p PlatEntry.reset
/-- Bucket and counters of a platform. -/
def State.platStat (s : State) (p : Nat) : PlatStat := s.tt.plats.toList.getD p PlatStat.reset
/-- Update the bucket and counters of a platform. -/
def State.updPlat (s : State) (p : Nat) (f : PlatStat → PlatStat) : State :=
  s.updTt fun t => { t with plats := if h : p < 1024 then t.plats.set p (f t.plats[p]) else t.plats }
/-- Bucket level 1.0 in 16.24 fixed point. -/
def oneToken : Nat := 16777216

/-- Fetch group of a ring by the class of its head descriptor (03 R125): 1 in rate, 2 other through, 3 the rest. -/
def fetchGroup (s : State) (t cls : Nat) : Nat :=
  match platformOf s t cls with
  | none => 3
  | some p =>
    if (s.plat p).kind ≠ 1 then 3
    else
      let level := (s.tt.shown.toList.getD p PlatStat.reset).level
      if level ≥ oneToken * (1 + lookupD p 0 s.tt.platTaken) then 1 else 2

/-- Whether the admission engine runs: the block is ready (16 R588) and not locked down (12 R478). Of a quiesced block, the rings fetch up to
the next boundary (15 R552). -/
def engineRuns (s : State) : Bool := s.tt.started && !s.locked

/-- Descriptors that a chain may still reach from the head of a ring: the published ones up to the first held end of a chain, or the
eighth (03 R125, R131). -/
def chainCover (r : Ring) : List Nat :=
  let idx := (r.publishedIdx.take 8).map BitVec.toNat
  match idx.findIdx? fun i => (r.held.find? fun h => h.index.toNat = i).any fun h => Desc.link h.bytes == lastLink with
  | some n => idx.take (n + 1)
  | none => idx

/-- Whether a descriptor of ring `g` is on its way. -/
def readOut (s : State) (g i : Nat) : Bool :=
  s.fab.bursts.any fun b => match b.kind with
    | .desc t k j => 4 * t + k == g && j.toNat == i && !b.dead && !b.dropped
    | _ => false

/-- Whether the head chain of ring `g` is not whole, and every descriptor that it may reach is held or on its way: one whose last descriptor
is not published has none on its way, and is passed over (03 R124, R125). -/
def restOnWay (s : State) (g : Nat) (r : Ring) : Bool :=
  let held := fun (i : Nat) => r.held.any fun h => h.index.toNat = i
  ((chainCover r).any fun i => !held i) && (chainCover r).all fun i => held i || readOut s g i

/-- The inline items a chain names, in drain order: step, whether auxiliary, declared length. -/
def inlineItems (ds : List Desc) : List (Nat × Bool × Nat) :=
  ds.zipIdx.flatMap fun p =>
    (if Desc.src p.1 = 1 then [(p.2, false, Desc.srcLen p.1)] else []) ++
      (if Desc.aux p.1 = 2 then [(p.2, true, Desc.auxLen p.1)] else [])

/-- Whether a chain names inline items. -/
def namesInline (ds : List Desc) : Bool := !(inlineItems ds).isEmpty

/-- Whether a chain waits for the end of the DISCARD of its tenant's FIFO before it drains (03 R146). -/
def waitsDiscard (s : State) (g : Nat) (held : List HeldDesc) : Bool :=
  (s.page (tenantFin (g / 4))).fifoDrop && namesInline (held.map fun h => readWords h.bytes h.sym)

/-- Whether ring `g` may be considered in this tick: it fetches and has credit, its first descriptor landed in time, and
its chain is whole or its other descriptors are on their way (03 R124, R125, R635). A chain that kept its place is considered
once it is whole, from the boundary after its last descriptor landed; one that waits for the end of a DISCARD, when that has ended
(03 R146). -/
def ringEligible (s : State) (g : Nat) (r : Ring) : Bool :=
  r.fetching && !r.stopped && r.credit && !(r.waits && (s.page (tenantFin (g / 4))).fifoDrop) &&
    (match headDesc r, headChain r with
     | some h, some (held, _) =>
       landedInTime s.now h && (!r.kept || held.all fun x => decide (x.landTick < s.now))
     | some h, none => landedInTime s.now h && !r.kept && restOnWay s g r
     | none, _ => false)

/-- Key of the order of R126: group, chains its ring has given in this group, place in the rotation. A chain that kept
its place from an earlier tick comes first. A new head of an earlier group is taken at once (DESIGN CHOICE, log entry 101). -/
def fetchKey (s : State) (g : Nat) (r : Ring) : Nat :=
  match headDesc r with
  | none => 0
  | some h =>
    if r.kept ∨ r.waits then 0
    else
      let grp := fetchGroup s (g / 4) (Desc.cls h.bytes)
      1 + (grp * 17 + lookupD (grp * 256 + g) 0 s.tt.passes) * 256 + (g + 256 - s.now % 256) % 256

/-- The 256 rings with their numbers (03 R126). -/
def allRings (s : State) : List (Nat × Ring) :=
  (s.tenants.toList.zipIdx).flatMap fun p => p.1.rings.toList.zipIdx.map fun q => (4 * p.2 + q.2, q.1)

/-- The ring whose chain is taken next (03 R126). -/
def nextRing (s : State) : Option (Nat × Ring) :=
  (sortBy (fun p => fetchKey s p.1 p.2) ((allRings s).filter fun p => ringEligible s p.1 p.2)).head?

/-! ### Checks 1 and 2 -/

/-- Output length of a step, for a data-dependent one its bound (03 Table 03-10). -/
def outMax (s : State) (d : Desc) (c : ClassStep) : Nat :=
  let k := opKind (Desc.op d)
  if k = 0 then cipherOut d else if k = 2 then digestOut d else if k = 4 then vsOut d c else if k = 5 then ssOut s d c
  else if Desc.op d = 0x0701 ∨ Desc.op d = 0x0710 then Desc.dstMax d else 0

/-- Whether the output length is data-dependent. -/
def outDep (d : Desc) : Bool := Desc.op d == 0x0110 || Desc.op d == 0x0701

/-- Whether the destination maximum is an operand of its own, also without a host destination (05 R239, 09 Table 09-10,
10 R423). -/
def usesDstMax (d : Desc) : Bool := isShake (Desc.op d) || Desc.op d == 0x0701 || Desc.op d == 0x0710

/-- Flags and unused fields of descriptor `i` (03 Tables 03-8, 03-9). -/
def fieldsOk (d : Desc) (i : Nat) : Bool :=
  Desc.flag d 24 8 == 0 && Desc.flag d 12 4 == 0 && Desc.aux d != 3 && decide (Desc.src d ≤ 3) && Desc.modf d != 3 &&
    (Desc.modf d == 0 || isSha2 (Desc.op d)) && !(Desc.immed d && Desc.noint d) &&
    (i == 0 || (!Desc.immed d && !Desc.noint d)) &&
    (Desc.src d == 0 || Desc.srcAddr d == 0) && (!(Desc.src d == 3 || Desc.lenp d) || Desc.srcLen d == 0) &&
    (Desc.toHost d || Desc.dstAddr d == 0) && (Desc.toHost d || usesDstMax d || Desc.dstMax d == 0) &&
    (Desc.aux d == 1 || Desc.auxAddr d == 0) && (Desc.aux d != 0 || Desc.auxLen d == 0)

/-- One handle field (03 R634). -/
def handleOk (u : HandleUse) (h : Nat) : Bool :=
  match u with
  | .needed => decide (h < 2 ^ 20)
  | .unused => h == noHandle
  | .optional => decide (h < 2 ^ 20) || h == noHandle

/-- The key handle fields (03 R634). -/
def handlesOk (d : Desc) : Bool := handleOk (handleUse d).1 (Desc.keyA d) && handleOk (handleUse d).2 (Desc.keyB d)

/-- Check 2 of a KS step (09 Table 09-10, 10 R423). -/
def ksShape (d : Desc) : Bool :=
  let op := Desc.op d
  if op = 0x0700 then
    decide (Desc.opxF d 0 2 ≤ 1) && Desc.opxF d 2 5 == 0 && Desc.auxLen d == 0 &&
      (Desc.opxF d 0 2 == 1 || decide (16 ≤ Desc.srcLen d ∧ Desc.srcLen d ≤ 8192))
  else Desc.opx d == 0 && Desc.src d == 3 && Desc.aux d == 0 &&
    (op != 0x0710 || decide (1 ≤ Desc.dstMax d ∧ Desc.dstMax d ≤ 65536))

/-- The station's own part of check 2 (04 R184, 05 R237 to R240, 06 R263, 07 R300, 09 R393). -/
def stepShape (s : State) (d : Desc) (c : ClassStep) : Bool :=
  let k := opKind (Desc.op d)
  if k = 0 then cipherShape d c.callerIv else if k = 2 then digestShape d else if k = 4 then vsShape s d c
  else if k = 5 then ssShape s d c else ksShape d

/-- One round of the procedure of R139, for descriptor `i` of `n`. -/
def lengthOk (s : State) (cls : ClassDef) (ds : List Desc) (n i : Nat) : Bool :=
  let d := ds.getD i []
  let p := ds.getD (i - 1) []
  let q := ds.getD (i + 1) []
  let c := cls.steps.getD i ClassStep.reset
  let cp := cls.steps.getD (i - 1) ClassStep.reset
  decide (Desc.srcLen d ≤ c.maxLen) && !(Desc.feeds d && i + 1 == n) && !(Desc.lenp d && Desc.src d != 2) &&
    (Desc.src d != 2 ||
      (i != 0 && Desc.feeds p &&
        (if outDep p then isDigest (Desc.op d) && Desc.lenp d && Desc.srcLen d == 0
         else !Desc.lenp d && Desc.srcLen d == outMax s p cp))) &&
    !(decide (i + 1 < n) && Desc.feeds d && Desc.src q != 2) && !(Desc.feeds d && decide (outMax s d c > 65536)) &&
    !(Desc.toHost d && decide (Desc.dstMax d < outMax s d c))

/-- The first index below `n` at which a test fails. -/
def firstBad (n : Nat) (f : Nat → Bool) : Option Nat := (List.range n).find? fun i => !f i

/-- Check 1: the status's step, none where it passes (03 Table 03-11, R154). A descriptor beyond the class's last step has no step to
match: with an opcode of Table 03-10 it passes check 1, and the count test of check 2 refuses the chain (log entry 89). -/
def check1 (s : State) (t : Nat) (ds : List Desc) : Option Nat :=
  let num := Desc.cls (ds.getD 0 [])
  match s.image.classes.find? (fun c => c.num = num), platformOf s t num with
  | some c, some _ =>
    firstBad ds.length fun i =>
      let d := ds.getD i []
      Desc.cls d == num && (match c.steps[i]? with
        | some x => x.opcode == Desc.op d && opKind (Desc.op d) != 8
        | none => opKind (Desc.op d) != 8)
  | _, _ => some 0

/-- Check 2 (03 Table 03-11). -/
def check2 (s : State) (cls : ClassDef) (ds : List Desc) (linkOk : Bool) : Option Nat :=
  let n := ds.length
  if !linkOk then some (n - 1)
  else if n ≠ cls.steps.length then some (n - 1)
  else
    match firstBad n fun i =>
        let d := ds.getD i []
        fieldsOk d i && handlesOk d && stepShape s d (cls.steps.getD i ClassStep.reset) with
    | some i => some i
    | none => firstBad n (lengthOk s cls ds n)

/-! ### Checks 3 and 4 -/

/-- Check 3 (03 Table 03-11, 08 R350). -/
def check3 (s : State) (t : Tenant) (port : Nat) (ds : List Desc) : Option Nat :=
  firstBad ds.length fun i =>
    let d := ds.getD i []
    (Desc.src d != 0 || rangeOk s t port (Desc.srcAddr d) (Desc.srcLen d) true false) &&
      (!Desc.toHost d || rangeOk s t port (Desc.dstAddr d) (Desc.dstMax d) false true) &&
      (Desc.aux d != 1 || rangeOk s t port (Desc.auxAddr d) (Desc.auxLen d) (!auxReceives d) (auxReceives d))

/-- Whether the cache slots are free that the handles of a chain take: for keys that miss, in the platform's miss share, or for freight
and over rate in the pool, beside the copies there that others or this chain pin (09 R382; log entry 91). -/
def slotsFree (s : State) (pl : PlatEntry) (p t : Nat) (inRate : Bool) (hs : List Nat) : Bool :=
  let hs := hs.eraseDups
  let miss := fun h => ((resolve s pl t h).map KeyInfo.miss).getD false
  let need := ((hs.filter miss).map (missSize s t)).sum
  let kept := fun (c : CacheSlot) => c.part == .pool &&
    (!c.pins.isEmpty || (c.tenant = t && hs.contains c.handle.toNat && !miss c.handle.toNat))
  need == 0 || (if inRate then decide (missUsed s p + need ≤ missShare s p)
    else decide (slotsIn s kept + poolTaken s + need ≤ s.image.poolSlots))

/-- Check 4a: every handle of a step resolves, and the tenant's digest state key where the step uses it, and the slots are free that keys
to come take (09 R382, R405). -/
def check4a (s : State) (pl : PlatEntry) (p t : Nat) (inRate : Bool) (ds : List Desc) : Option Nat :=
  firstBad ds.length fun i =>
    let d := ds.getD i []
    ((usedHandles d).all fun h => (resolve s pl t h).isSome) && (!usesStateKey d || (sysKey? s .digestState t).isSome) &&
      slotsFree s pl p t inRate ((ds.take (i + 1)).flatMap usedHandles)

/-- Cipher key algorithms: key handle A or B of an opcode (04 R185). -/
def cipherAlgOk (d : Desc) (b : Bool) (a : Nat) : Bool :=
  let op := Desc.op d
  let pin := op = 0x0302 ∨ op = 0x0303
  let fmt := if b then Desc.fmt2 d else Desc.fmt1 d
  if pin ∧ !b ∧ Desc.dukpt d then (if fmt = 4 then decide (0x30 ≤ a ∧ a ≤ 0x32) else a == 0x34)
  else if pin then (if fmt = 4 then decide (0x1A ≤ a ∧ a ≤ 0x1C) else a == 0x18 || a == 0x19)
  else if Desc.dukpt d then (if op < 0x0200 then decide (0x30 ≤ a ∧ a ≤ 0x32) else a == 0x34)
  else if op = 0x010C ∨ op = 0x010D then a == 4 || a == 5
  else if op < 0x0200 ∨ op = 0x0300 ∨ op = 0x0301 then algAes a
  else if op = 0x0206 ∨ op = 0x0207 then a == 0x10 else a == 0x10 || a == 0x11

/-- Usage a cipher key needs (04 Table 04-4): derive is that of the base derivation key of a PIN step. -/
def cipherUsage (d : Desc) (b : Bool) : Nat :=
  let op := Desc.op d
  if op = 0x0302 ∨ op = 0x0303 then (if b then (if op = 0x0302 then 1 else 2) else if Desc.dukpt d then 4 else 2)
  else if cipherEncrypts d then 1 else 2

/-- Check 4b of one key of a cipher step (04 R185). -/
def cipherKeyOk (s : State) (t : Nat) (d : Desc) (b : Bool) (h : Nat) (k : KeyInfo) : Bool :=
  cipherAlgOk d b k.alg && (!usageEnforced s t || k.usage == cipherUsage d b) &&
    (b || !needsCounter d || hasCounter s t h)

/-- Check 4b of the key of a MOD step (05 R250, R251). -/
def digestKeyOk (s : State) (t : Nat) (d last : Desc) (k : KeyInfo) : Bool :=
  k.alg == 0x20 + Desc.op d % 256 && decide (16 ≤ k.value.length ∧ k.value.length ≤ digestBlock (Desc.op d % 256)) &&
    (!usageEnforced s t || k.usage == (if isDigest (Desc.op last) && Desc.dend last == 1 then 2 else 1))

/-- Check 4b of the key of a VS step (06 R264). -/
def vsKeyOk (d : Desc) (c : ClassStep) (k : KeyInfo) : Bool :=
  let op := Desc.op d
  !k.secret &&
    (if op = 0x0500 then k.alg == 0x140 + c.curve else if op = 0x0501 then k.alg == 0x147
     else k.alg == 0x201 && k.value.length == c.modBits / 8 + 32 && bitLen (ofBe (k.value.take (c.modBits / 8))) == c.modBits)

/-- Check 4b of key handle A of an SS step (07 R301, Table 07-4). -/
def ssKeyOk (s : State) (t : Nat) (d : Desc) (c : ClassStep) (pubExp : Nat) (k : KeyInfo) : Bool :=
  let op := Desc.op d
  k.secret &&
    (if op = 0x0600 ∨ op = 0x0602 then k.alg == 0x100 + c.curve else if op = 0x0601 then k.alg == 0x107
     else k.alg == 0x200 && k.value.length == 5 * c.modBits / 16 + 32 &&
       rsaPart c.modBits k.value 5 == (if pubExp = 0 then 65537 else pubExp)) &&
    (!usageEnforced s t || k.usage == (if op = 0x0602 then 4 else if op = 0x0605 then 3 else 1))

/-- Algorithms that Table 09-11 carries in a key block. -/
def keyBlockAlg (a : Nat) : Bool :=
  algAes a || [0x10, 0x11, 0x18, 0x19, 0x1A, 0x1B, 0x1C, 0x30, 0x31, 0x32, 0x34].contains a || algHmac a ||
    decide (0x100 ≤ a ∧ a ≤ 0x107) || a == 0x200

/-- Life-cycle states in which an occupied record may be replaced (09 R392): PROVISION and RETURN. -/
def mayReplace (s : State) : Bool := s.lc.state == 4 || s.lc.state == 6

/-- Whether a template accepts what a step produces for its receiving handle (07 R301, 09 R395). A generated pair
may go to a cache-only template (DESIGN CHOICE, log entry 106). -/
def receiverOk (s : State) (t : Nat) (d : Desc) (c : ClassStep) : Bool :=
  let op := Desc.op d
  let h := Desc.keyB d
  let replace := op == 0x0700 && Desc.opxF d 7 1 == 1
  isRecordHandle h &&
    (if replace then isOccupied s t h && mayReplace s else isVacant s t h) &&
    (match templateOf s t h with
     | none => false
     | some x =>
       let a := x.alg.toNat
       if op = 0x0700 then (if Desc.opxF d 0 2 = 0 then keyBlockAlg a else algPublic a)
       else if op = 0x0602 then a == 0x300 && x.cacheOnly
       else if op = 0x0605 then x.cacheOnly && algBytes a != 0
       else if op = 0x0606 then a == 0x100 + c.curve
       else a == 0x200 && x.size == c.modBits)

/-- Check 4b of the keys of a KS step (09 R395). An export of a key whose algorithm has no row of Table 09-11 is refused (log entry 14). -/
def ksKeyOk (s : State) (t : Nat) (d : Desc) (a b : Option KeyInfo) : Bool :=
  let op := Desc.op d
  let wraps := fun (k : KeyInfo) =>
    (algAes k.alg || k.alg == 0x10 || k.alg == 0x11) && (!usageEnforced s t || k.usage == 3)
  if op = 0x0700 then (match a with
    | some k => wraps k
    | none => true)
  else if op = 0x0701 then
    match a, b with
    | some k, some w =>
      wraps w && effectiveExport s t k && !k.interior && k.alg != 0x300 && keyBlockAlg k.alg &&
        decide (keyStrength s k.alg k.value.length (8 * (k.value.length - 32) * 2 / 5) ≤ keyStrength s w.alg w.value.length 0)
    | _, _ => false
  else if op = 0x0702 then (match a with
    | some k => algHasKcv k.alg && !k.interior
    | none => false)
  else true

/-- Check 4b of one step. -/
def stepKeysOk (s : State) (pl : PlatEntry) (t : Nat) (cls : ClassDef) (ds : List Desc) (i : Nat) : Bool :=
  let d := ds.getD i []
  let c := cls.steps.getD i ClassStep.reset
  let op := Desc.op d
  let k := opKind op
  let get := fun h => if h = noHandle then none else resolve s pl t h
  let ka := if (handleUse d).1 = .unused then none else get (Desc.keyA d)
  let kb := if (handleUse d).2 = .needed ∧ !receives d then get (Desc.keyB d) else none
  let opt := fun (f : KeyInfo → Bool) (x : Option KeyInfo) => match x with
    | some y => !y.interior && f y
    | none => true
  (if k = 0 then opt (cipherKeyOk s t d false (Desc.keyA d)) ka && opt (cipherKeyOk s t d true (Desc.keyB d)) kb
   else if k = 2 then opt (digestKeyOk s t d (ds.getLastD [])) ka
   else if k = 4 then opt (vsKeyOk d c) ka
   else if k = 5 then opt (ssKeyOk s t d c cls.pubExp) ka
   else ksKeyOk s t d ka kb) &&
    (!receives d || receiverOk s t d c)

/-- Check 4b. -/
def check4b (s : State) (pl : PlatEntry) (t : Nat) (cls : ClassDef) (ds : List Desc) : Option Nat :=
  firstBad ds.length (stepKeysOk s pl t cls ds)

/-! ### Check 5 -/

/-- Drain one inline item of a declared length (03 R145, Table 03-12): the bytes read with their check symbols, and the failing
status. -/
def drainItem (len : Nat) (p : TenantPage) : TenantPage × (Bytes × Bytes) × Option Nat :=
  match p.fifoItems with
  | [] => ({ p with emptyMid := true }, ([], []), some 0x15)
  | it :: rest =>
    if p.fifoDrop then ({ p with emptyMid := true }, ([], []), some 0x15)
    else ({ p with fifoItems := rest, fifoSym := p.fifoSym.drop 1 }, (it, p.fifoSym.headD []),
          if it.length < len then some 0x15 else if it.length > len then some 0x16 else none)

/-- What the drain of a chain leaves: the page, the bytes by step and field, the first failure. -/
structure Drained where
  page : TenantPage
  got : List ((Nat × Bool) × Bytes × Bytes)
  bad : Option (Nat × Nat)
deriving DecidableEq, Repr

/-- Drain every inline item of a chain (03 R145, R147). -/
def drainAll (ds : List Desc) (p : TenantPage) : Drained :=
  (inlineItems ds).foldl (fun acc it =>
    let (p', b, st) := drainItem it.2.2 acc.page
    { page := p', got := acc.got ++ [((it.1, it.2.1), b)],
      bad := match acc.bad, st with
        | some x, _ => some x
        | none, some c => some (it.1, c)
        | none, none => none }) { page := p, got := [], bad := none }

/-! ### Check 6 -/

/-- Station shares of a platform (16 Table 16-9). -/
def shareEntry (s : State) (p : Nat) : ShareEntry := (s.image.shares.find? fun x => x.plat = p).getD ShareEntry.reset

/-- VS blocks that a chain takes, the check regions of RSA signatures among them (06 R274, 07 R314). -/
def chainVs (s : State) (cls : ClassDef) (ds : List Desc) : Nat :=
  ((ds.zip cls.steps).map fun p =>
    (if opKind (Desc.op p.1) = 4 then vsRegion s p.1 p.2 else 0) + checkRegion p.1 p.2).sum
/-- SS blocks that a chain takes (07 R323). -/
def chainSs (s : State) (cls : ClassDef) (ds : List Desc) : Nat :=
  ((ds.zip cls.steps).map fun p => if opKind (Desc.op p.1) = 5 then ssRegion s p.1 p.2 else 0).sum
/-- Host operand bytes of a chain's VS steps (06 R272). -/
def chainVsHost (ds : List Desc) : Nat :=
  (ds.map fun d => if opKind (Desc.op d) = 4 then
      (if Desc.src d = 0 then Desc.srcLen d else 0) + (if Desc.aux d = 1 then Desc.auxLen d else 0) else 0).sum

/-- Whether `n` blocks are free: in a platform's share, or in the common pool of `total` blocks (06 R276, 07 R324). -/
def blocksFree (total n share used poolUsed shares : Nat) (inRate : Bool) : Bool :=
  n == 0 || (if inRate then decide (used + n ≤ share) else decide (poolUsed + shares + n ≤ total))

/-- The region conditions of check 6. -/
def regionsOk (s : State) (p t port vs ss host : Nat) (inRate : Bool) : Bool :=
  let vsUsed := ((s.reqs.filter fun r => r.plat = p && r.vsShared).map Request.vsBlocks).sum
  let vsPool := ((s.reqs.filter fun r => !r.vsShared).map Request.vsBlocks).sum
  let ssUsed := ((s.reqs.filter fun r => r.plat = p && r.ssShared).map Request.ssBlocks).sum
  let ssPool := ((s.reqs.filter fun r => !r.ssShared).map Request.ssBlocks).sum
  blocksFree 992 vs (shareEntry s p).vs vsUsed vsPool (s.image.shares.map ShareEntry.vs).sum inRate &&
    blocksFree 512 ss (shareEntry s p).ss ssUsed ssPool (s.image.shares.map ShareEntry.ss).sum inRate &&
    (host == 0 || decide (lookupD (t, port) 0 s.fab.vsUsed + host ≤ 80 * shareOf s (tenantFin t) port))

/-- How check 6 places a request (02 R72, R74): its rate class, none where it is refused. -/
def placeRate (s : State) (p : Nat) : Option RateClass :=
  let pl := s.plat p
  let st := s.platStat p
  if st.depth ≥ pl.depth then none
  else if pl.kind = 2 then some .freight
  else if st.level ≥ oneToken then some .inRate
  else if pl.ovr then some .overRate else none

/-! ### Admission -/

/-- Whether the contingency of a digest station's SHA-3 loss is in force, and its lane lost (02 R101, R637). -/
def sha3Moved (s : State) (st : Nat) : Bool :=
  (st == 2 || st == 3) && s.tt.active != 0 && s.image.groups.getD (st + 2) 0 == s.tt.active.toNat && !served s (8 * st + 1) 3

/-- Station that runs a step: the class step's, or 255 for any; SHA-3 work of a digest station whose SHA-3 contingency is in force
runs on the other one (02 R637). Under any other timetable, also the main one that a cut-over has put in force while the lane stays
lost, it is the class step's own station, where it waits under R105 (log entry 81). -/
def stationOf (s : State) (c : ClassStep) : Nat :=
  if 0x0410 ≤ c.opcode ∧ c.opcode ≤ 0x0415 ∧ sha3Moved s c.station then 5 - c.station else c.station

/-- The data of a step at admission: host areas wait for their bursts, inline items are in place. -/
def stepAt (s : State) (got : List ((Nat × Bool) × Bytes × Bytes)) (d : Desc) (c : ClassStep) (i : Nat) : StepState :=
  let hostSrc := if Desc.src d = 0 then Desc.srcLen d else 0
  let hostAux := if Desc.aux d = 1 ∧ !auxReceives d then Desc.auxLen d else 0
  { StepState.reset with
    station := stationOf s c,
    src := if Desc.src d = 1 then (lookupD (i, false) ([], []) got).1 else fillBytes hostSrc 0,
    aux := if Desc.aux d = 2 then (lookupD (i, true) ([], []) got).1 else fillBytes hostAux 0,
    srcSym := if Desc.src d = 1 then (lookupD (i, false) ([], []) got).2 else [],
    auxSym := if Desc.aux d = 2 then (lookupD (i, true) ([], []) got).2 else [],
    need := hostSrc + hostAux, landTick := s.now }

/-- Marks on the indices of a fetched chain lapse, or are acted on (03 R160, R163). -/
def takeMarks (t : Tenant) (k : RingNo) (idx : List (BitVec 16)) (rid : Nat) (acted : Bool) (s : State) : State :=
  let s := s.updRing t k fun r => { r with marks := r.marks.filter fun m => !idx.contains m }
  s.updPage t fun p =>
    let p := if acted ∧ p.abortMarks.any (fun m => m.1 = k.val && idx.head? == some m.2) then
        { p with abortReqs := p.abortReqs ++ [rid] } else p
    settleAbort { p with abortMarks := p.abortMarks.filter fun m => !(m.1 = k.val && idx.contains m.2) }

/-- A chain completes at admission with the status of a failing check (03 R134, R154). -/
def refuseChain (t : Tenant) (k : RingNo) (ds : List Desc) (index : BitVec 16) (status check step : Nat) (late : Bool)
    (s : State) : State :=
  let d := ds.getD 0 []
  let e : Ended :=
    { rid := s.nextRid, tenant := t.val, ring := k.val, index := index, descs := ds, status := BitVec.ofNat 8 status,
      auxOut := leBytes 1 step ++ leBytes 1 check ++ [0, 0, 0, 0] ++ leBytes 2 index.toNat, outLen := 0, stepLens := [], admitTick := s.now,
      admitWall := s.wall, due := s.now, admitted := false, plat := 0, rate := .freight, through := false, bound := 0,
      late := late, replayed := false, noint := Desc.noint d, immed := Desc.immed d }
  { s with ended := s.ended ++ [e], nextRid := s.nextRid + 1 }

/-- A chain that passes every check is queued on its platform (03 R134; 02 R72, R74; 07 R302), and the slots of the keys that it names
are pinned or taken (09 R382). One that the engine
still takes in the tick in which its tenant's reset or a quiesce begins is aborted like every admitted request (11 R439,
15 R552). -/
def queueChain (t : Tenant) (k : RingNo) (ds : List Desc) (index : BitVec 16) (cls : ClassDef) (p : Nat) (rate : RateClass)
    (got : List ((Nat × Bool) × Bytes × Bytes)) (late : Bool) (s : State) : State :=
  let pl := s.plat p
  let port := (s.ring t k).port.toNat
  let vs := chainVs s cls ds
  let ss := chainSs s cls ds
  let d0 := ds.getD 0 []
  let handles := (ds.flatMap usedHandles).eraseDups
  let misses := handles.filter fun h => ((resolve s pl t.val h).map KeyInfo.miss).getD false
  let r : Request :=
    { Request.reset with
      rid := s.nextRid, tenant := t.val, ring := k.val, index := index, descs := ds, cls := cls, plat := p, rate := rate,
      admitTick := s.now, admitWall := s.wall, bound := pl.bound, through := pl.kind == 1,
      steps := (ds.zip cls.steps).zipIdx.map fun x => stepAt s got x.1.1 x.1.2 x.2, readyTick := s.now + 1,
      vsBlocks := vs, ssBlocks := ss, vsShared := rate == .inRate, ssShared := rate == .inRate, late := late,
      misses := misses.map (BitVec.ofNat 20), noint := Desc.noint d0, immed := Desc.immed d0,
      stopAt := if (s.page t).resetBusy || s.lc.quiesced then some (s.now, 8) else none }
  let s := { s with reqs := s.reqs ++ [r], nextRid := s.nextRid + 1 }
  let s := s.updPlat p fun x =>
    { x with depth := x.depth + 1, level := if rate == .inRate then x.level - oneToken else x.level,
             overs := if rate == .overRate then satInc 0xFFFF x.overs else x.overs }
  let s := s.updVs fun v => { v with memUsed := v.memUsed + vs, memPeak := max v.memPeak (v.memUsed + vs) }
  let s := s.updSs fun v => { v with memUsed := v.memUsed + ss, memPeak := max v.memPeak (v.memUsed + ss) }
  let s := s.updFab fun f =>
    { f with vsUsed := assoc (t.val, port) (lookupD (t.val, port) 0 f.vsUsed + chainVsHost ds) f.vsUsed }
  let s := (handles.filter fun h => !misses.contains h).foldl (fun s h => pinSlot r.rid t.val h s) s
  let s := evictFor 0 s.ks.cache.length s
  ds.foldl (fun s d => if receives d then
    s.updKs fun c => { c with pendingH := addNew (t.val, BitVec.ofNat 20 (Desc.keyB d)) c.pendingH } else s) s

/-- Checks 0 to 6 on a taken chain, in their order (03 R133). -/
def admitChain (t : Tenant) (k : RingNo) (held : List HeldDesc) (linkOk : Bool) (s : State) : State :=
  let ds := held.map fun h => readWords h.bytes h.sym
  let idx := held.map HeldDesc.index
  let index := idx.headD 0
  let late := held.any HeldDesc.late
  let marked := (s.ring t k).marks.contains index
  let port := (s.ring t k).port.toNat
  let num := Desc.cls (ds.getD 0 [])
  let dr := drainAll ds (s.page t)
  let refuse := fun status check step (s : State) =>
    takeMarks t k idx s.nextRid marked (refuseChain t k ds index status check step late (s.updPage t fun _ => dr.page))
  if marked then refuse 0x20 0 0 s
  else
    match check1 s t.val ds, s.image.classes.find? (fun c => c.num = num), platformOf s t.val num with
    | none, some cls, some p =>
      let pl := s.plat p
      let inRate := pl.kind == 1 && decide ((s.platStat p).level ≥ oneToken)
      match check2 s cls ds linkOk with
      | some i => refuse 0x11 2 i s
      | none =>
        match check3 s t port ds with
        | some i => refuse 0x12 3 i s
        | none =>
          match check4a s pl p t.val inRate ds with
          | some i => refuse 0x14 4 i s
          | none =>
            match check4b s pl t.val cls ds with
            | some i => refuse 0x13 4 i s
            | none =>
              match dr.bad with
              | some (i, st) => refuse st 5 i s
              | none =>
                let ok6 := regionsOk s p t.val port (chainVs s cls ds) (chainSs s cls ds) (chainVsHost ds) inRate
                match (if ok6 then placeRate s p else none) with
                | none => refuse 0x1C 6 0 (s.updPlat p fun x => { x with overs := satInc 0xFFFF x.overs })
                | some rate =>
                  takeMarks t k idx s.nextRid false
                    (queueChain t k ds index cls p rate dr.got late (s.updPage t fun _ => dr.page))
    | bad, _, _ => refuse 0x10 1 (bad.getD 0) s

/-- A chain is taken from its ring: the head moves past it and the entry it will need is counted (03 R121, R125). -/
def takeChain (t : Tenant) (k : RingNo) (held : List HeldDesc) (s : State) : State :=
  s.updRing t k fun r =>
    { r with sqHead := BitVec.ofNat 16 ((r.sqHead.toNat + held.length) % r.entries), kept := false, waits := false,
             held := r.held.filter fun h => !(held.map HeldDesc.index).contains h.index, outstanding := r.outstanding + 1 }

/-- Count a chain of `n` descriptors toward the 16 of the tick and its ring's pass (03 R123, R126). -/
def countTaken (s : State) (g n cls : Nat) : State :=
  let grp := fetchGroup s (g / 4) cls
  s.updTt fun x =>
    { x with taken := x.taken + n, passes := assoc (grp * 256 + g) (lookupD (grp * 256 + g) 0 x.passes + 1) x.passes,
             platTaken := match platformOf s (g / 4) cls with
               | some p => assoc p (lookupD p 0 x.platTaken + 1) x.platTaken
               | none => x.platTaken }

/-- The head chain of a ring is taken and checked at once, or waits for the end of a DISCARD (03 R146; log entry 114). -/
def takeOrWait (g : Nat) (held : List HeldDesc) (linkOk : Bool) (s : State) : State :=
  let t := tenantFin (g / 4)
  let k := ringFin g
  if waitsDiscard s g held then s.updRing t k fun r => { r with waits := true }
  else admitChain t k held linkOk (takeChain t k held s)

/-- Take and check the next chain of the order of R126 (03 R123 to R126, R133, R635). A chain that has not landed whole keeps its place:
it counts as all the descriptors that it may reach, and no more when it is admitted (log entry 35). -/
def admitNext (s : State) : State :=
  match nextRing s with
  | none => s
  | some (g, r) =>
    let keep := fun (s : State) => s.updRing (tenantFin (g / 4)) (ringFin g) fun r => { r with kept := true }
    let cls := ((headDesc r).map fun h => Desc.cls h.bytes).getD 0
    match headChain r with
    | none =>
      let n := (chainCover r).length
      if s.tt.taken + n > 16 then s.updTt fun x => { x with taken := 16 } else keep (countTaken s g n cls)
    | some (held, linkOk) =>
      let n := held.length
      if r.kept ∨ r.waits then takeOrWait g held linkOk s
      else if s.tt.taken + n > 16 then s.updTt fun x => { x with taken := 16 }
      else if !(held.all (landedInTime s.now)) then keep (countTaken s g n cls)
      else takeOrWait g held linkOk (countTaken s g n cls)

/-- The chains whose DISCARD has not ended, or ended too late in the tick, are checked as their admission tick ends (03 R146; log entry
114). -/
def admitWaiting (s : State) : State :=
  ((allRings s).filter fun p => p.2.waits && !p.2.stopped).foldl (fun s p =>
    match headChain p.2 with
    | some (held, linkOk) =>
      admitChain (tenantFin (p.1 / 4)) (ringFin p.1) held linkOk (takeChain (tenantFin (p.1 / 4)) (ringFin p.1) held s)
    | none => s) s

/-- Chains that kept their place, and prove not to be wholly published, are passed over as if they had not been taken (03 R124, R635). -/
def dropKept (s : State) : State :=
  ((allRings s).filter fun p => p.2.kept && (headChain p.2).isNone && !restOnWay s p.1 p.2).foldl (fun s p =>
    s.updRing (tenantFin (p.1 / 4)) (ringFin p.1) fun r => { r with kept := false }) s

end Sys2Proof.Machine
end

