-- ==== Sys2Proof/Machine/KeyBlocks.lean ====
section
/-! DEFINITION. Key import, export and check value: the custody station's steps (09 R393 to R398). -/
namespace Sys2Proof.Machine

/-- Modes of use that permit a usage, in one row of 09 Table 09-11; `any` where every mode does. -/
def headerRow (hdr : Bytes) (alg usage : Nat) : Bool :=
  let use := (slice hdr 5 2)
  let al := slice hdr 7 1
  let mode := slice hdr 8 1
  let isMode := fun (t : String) => (ascii t).any fun b => mode == [b]
  let al? := fun (t : String) => (ascii t).any fun b => al == [b]
  let enc := fun (e d : String) => if usage = 1 then isMode e else if usage = 2 then isMode d else false
  if use = ascii "B0" then
    ((al? "A" && decide (0x30 ≤ alg ∧ alg ≤ 0x32)) || (al? "T" && alg == 0x34)) && usage == 4 && isMode "X"
  else if use = ascii "D0" then
    ((al? "A" && algAes alg) || (al? "T" && (alg == 0x10 || alg == 0x11))) && enc "EBN" "DBN"
  else if use = ascii "P0" then
    ((al? "A" && decide (0x1A ≤ alg ∧ alg ≤ 0x1C)) || (al? "T" && (alg == 0x18 || alg == 0x19))) && enc "EBN" "DBN"
  else if use = ascii "K0" then
    ((al? "A" && algAes alg) || (al? "T" && (alg == 0x10 || alg == 0x11)) || (al? "R" && alg == 0x200)) && usage == 3
  else if use = ascii "M1" then al? "T" && (alg == 0x10 || alg == 0x11) && enc "GC" "VC"
  else if use = ascii "M3" then al? "T" && alg == 0x10 && enc "GC" "VC"
  else if use = ascii "M6" then al? "A" && algAes alg && enc "GC" "VC"
  else if use = ascii "M7" then al? "H" && algHmac alg && enc "GC" "VC"
  else if use = ascii "S0" then
    ((al? "E" && decide (0x100 ≤ alg ∧ alg ≤ 0x107)) || (al? "R" && alg == 0x200)) && usage == 1 && isMode "SN"
  else false

/-- The header an export writes: version, usage, algorithm, mode, key version `00`, exportability, no optional blocks
(09 R398, Table 09-11). Where two rows carry an algorithm, the row of its general use is taken; a key whose usage no row
permits takes the header of its algorithm (log entry 15). -/
def exportHeader (kbpkAes : Bool) (alg usage : Nat) (exp : Bool) : Bytes :=
  let aes := decide (alg < 0x10) || decide (0x1A ≤ alg ∧ alg ≤ 0x1C) || decide (0x30 ≤ alg ∧ alg ≤ 0x32)
  let use := if 0x30 ≤ alg ∧ alg ≤ 0x34 then "B0" else if 0x18 ≤ alg ∧ alg ≤ 0x1C then "P0" else if algHmac alg then "M7"
    else if usage = 3 then "K0" else if algAsym alg then "S0" else "D0"
  let al := if algHmac alg then "H" else if alg = 0x200 then "R" else if algAsym alg then "E" else if aes then "A" else "T"
  let mode := if use = "B0" then "X" else if use = "K0" then "B" else if use = "S0" then "S"
    else if use = "M7" then (if usage = 2 then "V" else "G") else if usage = 2 then "D" else "E"
  ascii (if kbpkAes then "D" else "B") ++ ascii "0000" ++ ascii use ++ ascii al ++ ascii mode ++ ascii "00" ++
    ascii (if exp then "E" else "N") ++ ascii "0000"

/-- The key of a pair passes one signature and its verification (09 R397). -/
def keyPairOk (s : State) (alg size : Nat) (value pub : Bytes) : Bool :=
  let msg := fillBytes 32 0x5A
  if alg = 0x107 then (ed25519Recover pub).any fun x => ed25519Verify false msg (ed25519Sign false value msg) (pub ++ x)
  else if alg = 0x200 then
    let n := rsaModulus size value
    let m := ofBe msg % n
    powMod n (rsaPrivate size value m) (rsaPart size value 5) == m
  else
    let c := s.curve (alg - 0x100)
    let nB := (s.curveBytes (alg - 0x100)).2
    let sg := ecdsaSign c nB msg (ofBe value) 1
    ecdsaVerify c msg (ofBe (sg.take nB)) (ofBe (sg.drop nB)) (c.dec pub)

/-- A public key in the encoding of method P, validated against its template: its stored value (09 R397, Table 06-6). -/
def importPublic (s : State) (alg size : Nat) (b : Bytes) : Option Bytes :=
  if alg = 0x147 then
    if b.length = 32 then (ed25519Recover b).bind fun x => if ed25519Point (b ++ x) then some (b ++ x) else none
    else none
  else if alg = 0x201 then
    let n := ofBe (b.take (size / 8))
    let e := ofBe (b.drop (size / 8))
    if b.length = size / 8 + 32 ∧ n % 2 = 1 ∧ bitLen n = size ∧ e % 2 = 1 ∧ e > 1 then some b else none
  else
    let i := alg - 0x140
    let c := s.curve i
    if !s.curveReady i then none else
    let (x, y) := c.dec b
    if b.length = 1 + 2 * (s.curveBytes i).1 ∧ byteAt b 0 = 4 ∧ c.on x y ∧
        ((s.curveEntry i).h ≤ 1 ∨ (c.mul c.n (some (x, y))).isNone) then some b else none

/-- The key that a custody step reads from the cache: none where its handle no longer resolves (09 R393, R399). -/
def custodyKey (s : State) (r : Request) (h : Nat) : Option CacheSlot :=
  if invalidated s r.tenant h then none else (cachedFor s r.rid r.tenant h).map fun c => { c with value := readWords c.value c.sym }

/-- What an import yields: value, public key, and whether the header lets the key be exported; none where it fails
(09 R394, R396). A private key is still to be checked (09 R397). -/
def importKey (s : State) (r : Request) : Option (Bytes × Bytes × Bool) :=
  let d := r.desc
  match templateOf s r.tenant (Desc.keyB d) with
  | none => none
  | some x =>
    let a := x.alg.toNat
    if Desc.opxF d 0 2 = 1 then (importPublic s a x.size r.step.source).map fun v => (v, v, x.exp)
    else
      match custodyKey s r (Desc.keyA d) with
      | none => none
      | some k =>
        match keyBlockOpen (algAes k.alg.toNat) k.value r.step.source with
        | none => none
        | some (hdr, data) =>
          let exp := slice hdr 11 1 == ascii "E"
          if !headerRow hdr a x.usage.toNat then none
          else if algAsym a then
            match decodePrivate a data with
            | none => none
            | some (v, p) =>
              if v.length = templateBytes s a x.size ∧ (a ≠ 0x200 ∨ bitLen (rsaModulus x.size v) = x.size) then some (v, p, exp) else none
          else if data.length = templateBytes s a x.size then some (keyForm a data, [], exp) else none

/-- KCV of a cached key as its three bytes (09 R374). -/
def slotKcv (c : CacheSlot) : Bytes := beBytes 3 c.kcv.toNat

/-- A key block for export, and the KCV of the exported key (09 R398); no more than d bytes of it are written (log entry 73). -/
def exportKey (s : State) (r : Request) : StepResult :=
  let d := r.desc
  match custodyKey s r (Desc.keyA d), custodyKey s r (Desc.keyB d) with
  | some k, some w =>
    let a := k.alg.toNat
    let data := if algAsym a then encodePrivate a k.value k.pub else k.value
    let aes := algAes w.alg.toNat
    let hdr := exportHeader aes a k.usage.toNat k.exp
    { StepResult.done ((keyBlockSeal aes w.value hdr data (largestKey k) r.step.random).take (Desc.dstMax d)) with aux := slotKcv k }
  | _, _ => .fail 0x14

/-- KEY_CHECK_VALUE (09 R374, R393). -/
def checkValue (s : State) (r : Request) : StepResult :=
  match custodyKey s r (Desc.keyA r.desc) with
  | some k => { StepResult.done [] with aux := slotKcv k }
  | none => .fail 0x14

/-- An imported key that passes waits for its commit, or enters the receiving partition (09 R396). -/
def placeImport (r : Request) (v p : Bytes) (exp : Bool) (tick : Nat) (s : State) : State :=
  let h := Desc.keyB r.desc
  if (recordNo s r.tenant h).isNone then
    let a := ((templateOf s r.tenant h).map fun x => x.alg.toNat).getD 0
    settleStep r.rid { StepResult.done [] with aux := keyKcv a v p } tick (storeKey r v p exp false s)
  else (storeKey r v p exp false s).updReq r.rid fun r => { r with stage := .commit, finished := false }

/-- The stage of the check of an imported private key begins in a tick: its signature, which draws its values, or its verification (09
R397; log entry 69). -/
def Request.beginCheck (r : Request) (stage : ReqStage) (tick : Nat) : Request :=
  { r with stage := stage, finished := false, slots := 0, ticks := 0, pieceSlots := 0, readyTick := tick, reruns := 0, pairAt := none,
           redraw := stage == .keySign }

/-- An import that has run: it fails with `INPUT_RANGE`; a private key goes to its check, another key passes (09 R396, R397). -/
def finishImport (rid tick : Nat) (s : State) : State :=
  match s.req? rid with
  | none => s
  | some r =>
    match importKey s r with
    | none =>
      let noKey := Desc.opxF r.desc 0 2 = 0 ∧ (custodyKey s r (Desc.keyA r.desc)).isNone
      settleStep rid (.fail (if noKey then 0x14 else 0x17)) tick s
    | some (v, p, exp) =>
      match templateOf s r.tenant (Desc.keyB r.desc) with
      | none => s
      | some x =>
        if algAsym x.alg.toNat ∧ Desc.opxF r.desc 0 2 ≠ 1 then
          s.updReq rid fun r =>
            { r.beginCheck .keySign tick with
              imported := some { alg := x.alg.toNat, size := x.size, value := v, sym := symbolsOf v, pub := p, exp := exp } }
        else placeImport r v p exp tick s

/-- A slot schedule of the check of an imported private key has ended: its signature goes to VS; once it is verified the key passes, or
the import fails with `INPUT_RANGE` (09 R396, R397). -/
def finishKeyCheck (r : Request) (tick : Nat) (s : State) : State :=
  if r.stage = .keySign then s.updReq r.rid fun r => r.beginCheck .keyVerify tick
  else
    match r.imported with
    | none => s
    | some k =>
      let value := readWords k.value k.sym
      let done := fun (r : Request) => { r with stage := .running, imported := none }
      let s := s.updReq r.rid done
      if keyPairOk s k.alg k.size value k.pub then placeImport (done r) value k.pub k.exp tick s
      else settleStep r.rid (.fail 0x17) tick s

/-- A custody step that has run (09 R393, 10 R423). -/
def finishCustody (rid tick : Nat) (s : State) : State :=
  match s.req? rid with
  | none => s
  | some r =>
    let op := Desc.op r.desc
    if op = 0x0710 then settleStep rid (.done r.step.random) tick s
    else if op = 0x0702 then settleStep rid (checkValue s r) tick s
    else if op = 0x0701 then settleStep rid (exportKey s r) tick s
    else finishImport rid tick s

end Sys2Proof.Machine
end

