-- ==== Sys2Proof/Machine/ReadTests.lean ====
section
/-! DEFINITION. The tests of the stored words that a slot reads, and the words that a scrub corrects (01 R31, R32, R34; 12 R480; log
entry 75). -/
namespace Sys2Proof.Machine

/-- Strings with the check symbols of their words. -/
abbrev Stored := List (Bytes × Bytes)

/-- Whether a word of these strings cannot be corrected. -/
def anyLost (l : Stored) : Bool := l.any fun w => wordsLost w.1 w.2

/-- Whether a word of these strings can be corrected. -/
def anyMended (l : Stored) : Bool := l.any fun w => wordsMended w.1 w.2

/-! ### What a request holds -/

/-- The strings that a running step reads: its operands and the values drawn for it, the keys it copied, its shares of a key. -/
def Request.stored (r : Request) : Stored :=
  [(r.step.src, r.step.srcSym), (r.step.aux, r.step.auxSym), (r.step.drawn, r.step.drawnSym), (r.key, r.keySym),
   (r.stateKey, r.stateSym)] ++ r.units.flatMap fun u => [(u.share0, u.shareSym.1), (u.share1, u.shareSym.2)]

/-- The data of a step, its words corrected where the code corrects them (01 R31). -/
def StepState.mend (x : StepState) : StepState :=
  { x with src := x.source, srcSym := readSyms x.src x.srcSym, aux := x.auxiliary, auxSym := readSyms x.aux x.auxSym,
           drawn := x.random, drawnSym := readSyms x.drawn x.drawnSym, out := x.output, outSym := readSyms x.out x.outSym,
           key := x.newKey, keySym := (x.key.map fun k => readSyms k.1 x.keySym).getD [],
           pubSym := (x.key.map fun k => readSyms k.2 x.pubSym).getD [] }

/-- The shares of a hardened unit, their words corrected. -/
def SealedUnit.mend (u : SealedUnit) : SealedUnit :=
  { u with share0 := u.part0, share1 := u.part1,
           shareSym := (readSyms u.share0 u.shareSym.1, readSyms u.share1 u.shareSym.2) }

/-- What a request holds, its words corrected (01 R31, R32). -/
def Request.mend (r : Request) : Request :=
  { r with steps := r.steps.map StepState.mend, units := r.units.map SealedUnit.mend,
           key := r.keyCopy, keySym := readSyms r.key r.keySym, stateKey := r.sealKey, stateSym := readSyms r.stateKey r.stateSym,
           outq := r.outq.map fun o => { o with data := readWords o.data o.sym, sym := readSyms o.data o.sym } }

/-- A request that runs a piece in this slot reads its region: a corrected word is written back and reported, one that cannot be corrected
is reported and ends the request in the tick after (01 R31; 12 Table 12-7). -/
def testRegion (rid : Nat) (s : State) : State :=
  match s.req? rid with
  | none => s
  | some r =>
    let st := r.step.station
    if anyLost r.stored then failRequest rid 0x3F (srcStaging st 4) (s.now + 1) (faultReport (srcStaging st 4) 0 s)
    else if anyMended r.stored then faultReport (srcStaging st 3) 0 (s.updReq rid Request.mend)
    else s

/-! ### What an endpoint holds -/

/-- Source identity of a key-bus endpoint's checkers (01 Table 01-4: engine 7, lane 2). -/
def srcEndpoint (st checker : Nat) : BitVec 16 := sourceId st 7 2 checker

/-- The strings of a key register. -/
def KeyReg.stored (k : KeyReg) : Stored := (k.value, k.sym) :: k.brought.map fun b => (b.drawn, b.drawnSym)

/-- A key register, its words corrected. -/
def KeyReg.mend (k : KeyReg) : KeyReg :=
  { k with value := readWords k.value k.sym, sym := readSyms k.value k.sym,
           brought := k.brought.map fun b =>
             { b with drawn := readWords b.drawn b.drawnSym, drawnSym := readSyms b.drawn b.drawnSym } }

/-- A derived-key register, its words corrected. -/
def DerivedReg.mend (d : DerivedReg) : DerivedReg := { d with value := readWords d.value d.sym, sym := readSyms d.value d.sym }

/-- A request that runs a piece in this slot reads its key registers and its derived-key register at the endpoint of its station, tested
as its region is (01 R31; 04 R176). -/
def testRegisters (rid : Nat) (s : State) : State :=
  match s.req? rid with
  | none => s
  | some r =>
    let st := r.step.station
    let own := fun (d : DerivedReg) => d.rid = r.rid && d.step = r.cur
    let derived := ((s.stations.toList[st]?).map StationState.derived).getD []
    let read := (regsFor (activeBank s st) r).flatMap KeyReg.stored ++ (derived.filter own).map fun d => (d.value, d.sym)
    if anyLost read then failRequest rid 0x3F (srcEndpoint st 4) (s.now + 1) (faultReport (srcEndpoint st 4) 0 s)
    else if anyMended read then
      let mend := fun (x : StationState) =>
        { x with active := x.active.map fun k => if k.users.contains (r.rid, r.cur) then k.mend else k,
                 derived := x.derived.map fun d => if own d then d.mend else d }
      faultReport (srcEndpoint st 3) 0 { s with stations := s.stations.mapIdx fun i x => if i = st then mend x else x }
    else s

/-! ### The key cache -/

/-- A cache slot, its words corrected. -/
def CacheSlot.mend (c : CacheSlot) : CacheSlot := { c with value := readWords c.value c.sym, sym := readSyms c.value c.sym }

/-- The cached copies of a handle, their words corrected. -/
def mendSlot (t h : Nat) (s : State) : State :=
  s.updKs fun k => { k with cache := k.cache.map fun c => if c.tenant = t ∧ c.handle.toNat = h then c.mend else c }

/-- A read of a cache slot found a word that cannot be corrected: it is reported, and the slot's outcome is due in the tick after (12 R480). -/
def loseSlot (t h : Nat) (s : State) : State :=
  let due := (s.now + 1, srcCache 4, 0, WordOwner.slot (tenantFin t) (BitVec.ofNat 20 h))
  faultReport (srcCache 4) 0 (s.updFlt fun f => { f with wordsDue := f.wordsDue ++ [due] })

/-- A transfer has read the cache slot of a key register: a corrected word is written back and reported; at one that cannot be corrected the
transfer brings no key (01 R31; 12 R480). -/
def testTransfer (dest : Fin 7) (k : KeyReg) (s : State) : State :=
  let same := fun (x : KeyReg) => x.tenant = k.tenant && x.handle == k.handle
  if wordsLost k.value k.sym then
    loseSlot k.tenant k.handle.toNat (s.updStn dest fun x => { x with loading := x.loading.filter fun y => !same y })
  else if wordsMended k.value k.sym then
    let s := s.updStn dest fun x => { x with loading := x.loading.map fun y => if same y then y.mend else y }
    faultReport (srcCache 3) 0 (mendSlot k.tenant k.handle.toNat s)
  else s

/-- Key registers that a station has loaded in this tick, for requests that are still there. -/
def loadedNow (dest : Fin 7) (s : State) : List KeyReg :=
  s.stations[dest].loading.filter fun k => k.users.any fun u => (s.req? u.1).isSome

/-- The cache slots that the transfers to a station have read are tested. -/
def testTransfers (dest : Fin 7) (s : State) : State := (loadedNow dest s).foldl (fun s k => testTransfer dest k s) s

/-- A custody step that runs a piece reads its keys in the cache. The piece that reads a word that cannot be corrected is discarded, and its
step finds the slot as its outcome leaves it (01 R31; 12 R480). -/
def testCustody (rid : Nat) (s : State) : State :=
  match s.req? rid with
  | none => s
  | some r =>
    if r.kind ≠ 6 then s
    else
      let read := (usedHandles r.desc).filterMap fun h => (cachedFor s rid r.tenant h).map fun c => (h, c.value, c.sym)
      let bad := read.filter fun k => wordsLost k.2.1 k.2.2
      let fixed := read.filter fun k => wordsMended k.2.1 k.2.2
      let s := if bad.isEmpty then s else s.updReq rid (discardPiece false)
      let s := bad.foldl (fun s k => loseSlot r.tenant k.1 s) s
      fixed.foldl (fun s k => faultReport (srcCache 3) 0 (mendSlot r.tenant k.1 s)) s

/-! ### A slot -/

/-- Requests that run a piece in this slot. -/
def runningNow (s : State) : List Nat := s.tt.running.filterMap fun x => x.2.2.1

/-- The stored words that the pieces of a slot read are tested (01 R31). -/
def readTests (s : State) : State := (runningNow s).foldl (fun s rid => testCustody rid (testRegisters rid (testRegion rid s))) s

/-! ### Scrubbing -/

/-- The scrubber corrects the words that an owner holds (01 R32). What the banks and the words of no one hold stands in State as data. -/
def mendOwner (owner : WordOwner) (s : State) : State :=
  match owner with
  | .request rid => s.updReq rid Request.mend
  | .slot t h => mendSlot t.val h.toNat s
  | .system n t =>
    s.updKs fun k =>
      { k with system := k.system.map fun x => if x.node = n ∧ x.tenant = t.toNat then systemKey n x.tenant (readWords x.value x.sym) else x }
  | .activeBank | .inactiveBank | .nobody => s

end Sys2Proof.Machine
end

