-- ==== Sys2Proof/Machine/Tick.lean ====
section
/-! DEFINITION. The tick boundary (02 R62 to R77, R100, R105; 03 R117, R125; 04 R173; 08 R338; 10 R424; 12 R473). -/
namespace Sys2Proof.Machine

/-! ### Steps that ended in the tick -/

/-- What a cipher or digest step works on at its last piece. -/
def stepInput (s : State) (r : Request) : StepInput :=
  let bank := activeBank s r.step.station
  let reg := drawnIn bank r
  { desc := r.desc, src := r.step.source, aux := r.step.auxiliary,
    keyA := if r.kind = 0 then keyIn bank r (Desc.keyA r.desc) else r.keyCopy,
    keyB := if r.kind = 0 then keyIn bank r (Desc.keyB r.desc) else r.sealKey,
    tenant := r.tenant, fixed := s.fixedField r.tenant, counter := (reg.bind Brought.ctr).getD 0,
    drawn := (reg.map fun b => readWords b.drawn b.drawnSym).getD [], derived := derivedIn s r }

/-- A cipher step that ended: decrypted AEAD output goes to the hold (04 R198). -/
def finishCipher (r : Request) (tick : Nat) (s : State) : State :=
  let res := runCipher (stepInput s r)
  if isAeadDec (Desc.op r.desc) ∧ res.status = 0 then
    s.updReq r.rid fun r =>
      { r.updStep r.cur (fun x => x.keep res.out x.key) with
        stage := .release, finished := false, readyTick := tick }
  else settleStep r.rid res tick s

/-- What a unit of the pair has for an SS step (07 R311). -/
def unitResult (s : State) (r : Request) (u : Nat) : SealedResult :=
  runSs s r.desc r.cstep (classExp r) r.step.source r.step.auxiliary r.step.random (r.units.getD u SealedUnit.reset)

/-- The operand check that a chained source of an SS step has still to meet (07 R309; log entry 96). -/
def chainedBad (s : State) (r : Request) : Option Nat :=
  if Desc.src r.desc ≠ 2 then none
  else
    let u := r.units.getD 0 SealedUnit.reset
    ssOperand s r.desc r.cstep r.step.source (joinKey s r.desc r.cstep u.part0 u.part1)

/-- An SS step that ended: the pair compares its results; those of an RSA signature go to their check on VS, the others to their release
(07 R311 to R313, R316). -/
def finishSealed (r : Request) (tick : Nat) (s : State) : State :=
  match chainedBad s r with
  | some code => settleStep r.rid (.fail code) tick s
  | none =>
  if unitResult s r 0 ≠ unitResult s r 1 then
    ssDisagree (srcPair s 5 r.piecePos 6) (faultReport (srcPair s 5 r.piecePos 6) 0 s) r.rid
  else
  let res := unitResult s r 0
  s.updReq r.rid fun r =>
    let r := r.updStep r.cur fun x => x.keep res.out res.key
    if isRsaSign (Desc.op r.desc) then
      { r with stage := .crtCheck, signSrc := srcPair s 5 r.piecePos 7,
               check := crtForm s r.desc r.cstep r.step.source r.step.random res.out (r.units.getD 0 SealedUnit.reset), reruns := 0, pairAt := none, slots := 0, ticks := 0, pieceSlots := 0, finished := false, readyTick := tick }
    else { r with stage := .release, finished := false, readyTick := tick }

/-- Whether the pieces a request ran in the tick are discarded at its end: its station restarts, the block locks down, or
SS is to enter hold (12 R476, R478; 07 R326). -/
def piecesLost (s : State) (r : Request) : Bool :=
  stopDue s r.runsOn (s.now + 1) || stopDue s 7 (s.now + 1) || (r.kind == 5 && s.pwr.caution && !s.ss.hold)

/-- Settle one request whose step ended in the tick. A step on SS waits while a caution has begun and SS has not yet
entered hold: its pieces of this tick are to be discarded (07 R326). -/
def finishOne (tick : Nat) (s : State) (rid : Nat) : State :=
  match s.req? rid with
  | none => s
  | some r =>
    if !r.finished || piecesLost s r then s
    else if r.stage = .keySign ∨ r.stage = .keyVerify then finishKeyCheck r tick s
    else if r.stage ≠ .running then s
    else if r.kind = 0 then finishCipher r tick s
    else if r.kind = 2 then settleStep rid (runDigest (stepInput s r)) tick s
    else if r.kind = 4 then settleStep rid (runVs s r.desc r.cstep r.step.source r.step.auxiliary r.keyCopy) tick s
    else if r.kind = 5 then finishSealed r tick s
    else finishCustody rid tick s

/-- The output of a piece of an unfinished step goes to the write bobbins (02 R69, 08 R345). -/
def streamOne (tick : Nat) (s : State) (rid : Nat) : State :=
  match s.req? rid with
  | none => s
  | some r =>
    if r.finished || r.stage != .running || r.pieceTick != s.now || r.pieceSlots == 0 || streamedLen r == 0 || piecesLost s r then s
    else
      let res := runCipher (stepInput s r)
      s.updReq rid fun r => r.stream res.out res.ivOut tick

/-- A resume step whose blob opened in its first piece, run in this tick, is counted (05 R246, Table 05-7). -/
def countOpened (s : State) (rid : Nat) : State :=
  match s.req? rid with
  | none => s
  | some r =>
    if r.stage = .running ∧ r.pieceTick = s.now ∧ r.pieceSlots > 0 ∧ r.slots = r.pieceSlots ∧ blobOpens r ∧ !piecesLost s r then
      s.updDs ⟨r.step.station % 2, Nat.mod_lt _ (by decide)⟩ fun c => { c with resumes := satInc 0xFFFF c.resumes }
    else s

/-- Settle the steps of the tick, oldest request first: pieces of unfinished steps, then steps that ended. -/
def finishSteps (s : State) : State :=
  let ids := s.reqs.map Request.rid
  ids.foldl (finishOne (s.now + 1)) (ids.foldl (streamOne (s.now + 1)) (ids.foldl countOpened s))

/-- Whether a key-bus transfer, or a custody step's own reading of the cache, may still be to come for a request: a step of a
cipher station, or a save step, takes its keys in every piece; one on SS that runs again has its key (04 R174; 05 R249; 07 R295;
09 R382). -/
def transferLeft (r : Request) : Bool :=
  let d := r.desc
  let here := r.stage == .running && !(usedHandles d).isEmpty &&
    (r.kind == 0 || r.kind == 6 || (if r.kind = 5 then r.units.isEmpty else r.slots == 0) || (r.kind == 2 && Desc.dend d == 2))
  here || (r.descs.drop (r.cur + 1)).any fun d => !(usedHandles d).isEmpty

/-- Requests whose last key-bus transfer has been made let go of their slots (09 R382). -/
def releasePins (s : State) : State :=
  (s.reqs.filter fun r => !transferLeft r).foldl (fun s r => unpinCarried r.rid s) s

/-- The slots of level work of a request that the tick has run count; a level half way goes on at any position (02 R67, R69, R94). -/
def settleLevels (r : Request) : Request :=
  let x := levelsNow r.missRun r.missHalf r.missLog
  { r with missRun := x.1, missHalf := x.2.length, missLog := [] }

/-- As `settleLevels`, for the rotation of the storage key (09 R402). -/
def settleRotation (k : Custody) : Custody :=
  let x := levelsNow k.rotLevels k.rotHalf k.rotLog
  { k with rotLevels := x.1, rotHalf := x.2.length, rotLog := [] }

/-- The level work of a tick is settled; that of a tick at whose end KS restarts is lost (12 R476). -/
def closeLevels (s : State) : State :=
  if stopDue s 6 (s.now + 1) then (s.mapReqs fun r => { r with missLog := [] }).updKs fun k => { k with rotLog := [] }
  else (s.mapReqs settleLevels).updKs settleRotation

/-- Input that has landed by the boundary counts as present in the tick that begins, and a step that has ended gives its staging chunks
back (02 R68; 08 R344, R348). -/
def closeRegions (s : State) : State :=
  s.mapReqs fun r => { r with steps := r.steps.mapIdx fun i x =>
    { x with present := x.landed, region := if i < r.cur ∨ r.stage = .draining then 0 else x.region } }

/-! ### Waits -/

/-- Whether a platform owns an entry in this tick, on positions that run the step, which no lane serves (02 R105). -/
def ownsUnserved (s : State) (r : Request) : Bool :=
  (List.range 7).any fun st => (List.range (positions st)).any fun pos =>
    opRunsAt r st pos && !posServed s st pos &&
      (List.range 8).any fun j => entryPlat (entryAt s st s.now j pos) == r.plat

/-- Stations that may run the step a request is at: its own, or those of its kind for a step of any station that no key transfer or
piece has fixed yet (02 R105; log entry 81). -/
def runners (r : Request) : List Nat :=
  if r.stage = .crtCheck then [4]
  else if r.step.station = 255 then (if r.kind ≤ 3 then [r.kind / 2 * 2, r.kind / 2 * 2 + 1] else [r.kind])
  else [r.step.station]

/-- The counted wait of a step at the end of a tick (02 R105, 07 R327). A tick in which the step began a piece counts for nothing, its
piece discarded or not. -/
def countWait (s : State) (r : Request) : Request :=
  if r.pieceTick = s.now ∨ !isDue s r ∨ (r.kind = 5 ∧ s.ss.hold) then r
  else if ownsUnserved s r || (runners r).any (isRestarting s) || (isRestarting s 6 && (runners r).all fun st => !keysReady s r st) then
    { r with wait := r.wait + 1 }
  else r

/-- A run of a VS step or of a curve load that did not mismatch ends the count of its mismatched runs (06 R257). -/
def goodRun (s : State) (r : Request) : Request :=
  if r.kind = 4 ∧ r.pieceTick = s.now ∧ r.pieceSlots > 0 then { r with reruns := 0 } else r

/-- As `goodRun`, for the curve load being checked; one that has mismatched three times in a row is lost. -/
def goodLoad (s : State) (v : Verify) : Verify :=
  match v.loads with
  | [] => v
  | l :: rest => if l.tick = s.now ∧ l.here > 0 ∧ l.reruns < 3 then { v with loads := { l with reruns := 0 } :: rest } else v

/-! ### Retirements -/

/-- Loss case of an engine, in the order of the set head (02 Table 02-7). -/
def lossCase (key : Nat) : Nat :=
  if key = 0 then 0 else if key = 8 then 1 else if key = 16 then 2 else if key = 24 then 3 else if key = 17 then 4
  else if key = 25 then 5 else if key = 32 then 6 else if key = 40 then 7 else 8

/-- A lane retired in the tick: the lowest-numbered lane in reserve takes its position at the second boundary, the place
of a siding that was itself to take over among them; without one a contingency switch falls due there, and the surviving unit of a broken pair joins the reserve (12 R473, 02 R100,
R101). -/
def replaceLane (tick : Nat) (s : State) (x : Nat × Nat × BitVec 16 × Nat) : State :=
  let (key, lane, src, role) := x
  let s := assertBlk 2 s
  let taking := s.flt.takeovers.find? fun t => t.engine = key && t.lane = lane
  let pos := if role ≥ 8 then (taking.map Takeover.pos).getD 8 else role
  let s := s.updFlt fun f => { f with takeovers := f.takeovers.filter fun t => !(t.engine = key && t.lane = lane) }
  if pos ≥ 8 then s
  else
    let roles := s.roles key
    let free := fun l => inReserve (roles.getD l 0) && !s.flt.takeovers.any fun t => t.engine = key && t.lane = l
    match (List.range roles.length).find? free with
    | some l =>
      (setRole key l 9 s).updFlt fun f =>
        { f with takeovers := f.takeovers ++ [{ engine := key, pos := pos, lane := l, tick := tick + 1 }] }
    | none =>
      let s := if key = 32 ∨ key = 40 then
          (List.range roles.length).foldl (fun s l => if (roles.getD l 0).toNat = pos then setRole key l 8 s else s) s
        else s
      s.updFlt fun f =>
        { f with switches := f.switches ++ [{ engine := key, case := lossCase key, source := src, tick := tick + 1 }] }

/-- The retirements of the tick that ends, in ascending engine and lane (12 R473). Of two losses
that no one contingency covers the lowest engine so comes first (02 R105; DESIGN CHOICE, log entry 100). -/
def settleRetirements (s : State) : State :=
  let l := sortBy (fun x => x.1 * 16 + x.2.1) s.flt.retiring
  (l.foldl (replaceLane (s.now + 1)) s).updFlt fun f => { f with retiring := [] }

/-- The power manager gates the sidings that have stood idle for the tick that ends; an injection has ended with its tick (01 R60, R61; 12
Table 12-21; log entry 58). -/
def gateSidings (f : Faults) : Faults :=
  let gate := fun (key : Nat) (x : BitVec 4 × Nat) =>
    if (x.1 = 9 ∨ x.1 = 10) ∧ ¬ f.takeovers.any (fun t => t.engine = key && t.lane = x.2) then
      (if f.busySidings.contains (key, x.2) then 9 else 8)
    else x.1
  { f with roles := f.roles.map (fun e => (e.1, e.2.zipIdx.map (gate e.1))), busySidings := [],
           injResult := if f.injResult = 1 then f.injNext else f.injResult }

/-- FAULT_ESCALATE is asserted in the tick that begins at the opening boundary of a window (11 Table 11-9). -/
def openTimers (s : State) : State := if s.flt.timers.any (fun t => t.opens = s.now) then assertBlk 1 s else s

/-! ### The new tick -/

/-- Buckets refill, and the values that TRH_TT_PLAT_STAT shows are sampled (02 R72, R111). -/
def refill (s : State) : State :=
  if !s.tt.started then s
  else
    s.updTt fun t =>
      let plats := Vector.ofFn fun (i : Fin 1024) =>
        let p := s.image.plats.getD i.val PlatEntry.reset
        if p.kind = 1 then { t.plats[i] with level := min (p.burst * oneToken) (t.plats[i].level + p.rate) } else t.plats[i]
      { t with plats := plats, shown := plats }

/-- The key-bus banks swap, and the bank that was active is zeroised (04 R173). -/
def swapBanks (s : State) : State :=
  { s with stations := s.stations.map fun x => { x with active := x.loading, loading := [] } }

/-- Invalidations take force: copies that no transfer waits for are zeroised, and counters cease (09 R399, 04 R193). A
receiving handle whose request has ended leaves the pending state (07 R302, R318). Copies and counters of descendants
stay (DESIGN CHOICE, log entry 108). -/
def settleHandles (s : State) : State :=
  s.updKs fun k =>
    let inv := k.invalid ++ k.invalNext
    let busy := fun (p : Nat × BitVec 20) =>
      (s.reqs.any fun r => r.tenant = p.1 && r.descs.any fun d => receives d && BitVec.ofNat 20 (Desc.keyB d) == p.2) ||
        k.commits.any (fun c => c.record.tenant = p.1 && c.record.handle == p.2) ||
        ((s.page (tenantFin p.1)).ke.session.any fun x => x.handle == p.2)
    { k with invalid := inv, invalNext := [], pendingH := k.pendingH.filter busy,
             cache := k.cache.filter fun c => !(c.pins.isEmpty && (c.old || inv.contains (c.tenant, c.handle))),
             ivs := k.ivs.filter fun v => !inv.contains (v.tenant, v.handle) }

/-- Curve entries that an unload named enter RETIRING (06 R290). -/
def retireCurves (s : State) : State :=
  s.updVs fun v =>
    { v with unload := [],
             curves := v.unload.foldl (fun e i => if h : i < 32 then
                 (if e[i].state = 2 then e.set i { e[i] with state := 3 } else e) else e) v.curves }

/-- Fetching follows ENABLE at the boundary; a ring that stops discards what it holds (03 R117, R125; 11 R439). -/
def settleRing (on : Bool) (r : Ring) : Ring :=
  let f := r.enable && on
  if f then { r with fetching := true } else { r with fetching := false, held := [], kept := false, waits := false }

/-- Indices to be read for a ring at a boundary: from the head up to the first held end of a chain, the eighth, or the
last published one, without those held or on their way (03 R125). The link of a descriptor is known once it is held, so that the first
reads of a chain may go past its end (log entry 35). -/
def readsFor (s : State) (g : Nat) (r : Ring) : List Nat :=
  (chainCover r).filter fun i => !(r.held.any fun h => h.index.toNat = i) && !readOut s g i

/-- Descriptor reads of the boundary (03 R125). -/
def issueDescReads (s : State) : State :=
  if !engineRuns s then s
  else
    let s := dropKept s
    ((allRings s).filter fun p => p.2.fetching && !p.2.stopped && p.2.credit).foldl (fun s p =>
      (readsFor s p.1 p.2).foldl (fun s i =>
        issueBurst p.2.port.toNat false (p.2.rqBase.toNat + 64 * i) 64 (ringIdent (p.1 / 4) (p.1 % 4))
          (.desc (p.1 / 4) (p.1 % 4) (BitVec.ofNat 16 i)) [] [] s) s) s

/-- Decryption steps that are not ready at the boundary for want of hold chunks are counted, at each such boundary (04 Table 04-16; log
entry 82). -/
def countHoldWaits (s : State) : State :=
  s.reqs.foldl (fun s r =>
    let st := r.step.station % 255
    if isDue s r ∧ r.kind = 0 ∧ r.slots = 0 ∧ holdNeed r > 0 ∧ r.step.hold = 0 ∧ payloadIn s r ∧ keysReady s r st ∧ (holdSplit s r st).isNone then
      s.updCs ⟨st % 2, Nat.mod_lt _ (by decide)⟩ fun c => { c with holdWait := satInc 0xFFFF c.holdWait }
    else s) s

/-- The management lock's lease counts down each tick (11 R452). -/
def countLease (m : Mgmt) : Mgmt := if m.held then { m with remain := m.remain - 1 } else m

/-- Level of TRH_ALIVE: bit 1 of TRH_TICK while it toggles, else the level it has (12 R472). -/
def aliveLevel (s : State) : Bool := if s.flt.toggling then bitAt s.tick 1 else s.flt.alive

/-- What the registers of the always-on domain show live is sampled: the host inputs, and once a period VBAT (14 Tables 14-8, 14-9, 14-13;
log entry 24). -/
def sampleDomain (period : Bool) (n : Nat) (a : Aon) : Aon :=
  let x := Config.inputSample n
  let v := if period then Config.cellSample n else a.vbat
  { a with alarm := x.extractLsb' 0 6, railF := x.extractLsb' 6 6 &&& ~~~ x.extractLsb' 0 6, vbat := v,
           cellLow := if period then decide (v.toNat < 2300) else a.cellLow }

/-- A new tick begins: counters, banks, budgets and the sequencer (02 R62, R67; 04 R173; 08 R338). -/
def beginTick (s : State) : State :=
  let warned := s.pwr.caution && s.pwr.began == s.now
  let s := { s with wall := s.wall + tickUnits s, tick := s.tick + 1 }
  let s := (s.updPwr (powerBoundary (Config.supplySample s.drawn) (decide (recoveryLevel s ≤ (Config.supplyLowest s.drawn).toNat)) warned)).updAon fun a =>
    sampleDomain (s.pos = 0) s.drawn { a with rtc := a.rtc + Config.clockStep (calValue s 0x20) s.drawn }
  let s := s.draw 1
  let s := s.updMgmt countLease
  let s := refill s
  let s := swapBanks s
  let s := s.updKs fun k => { k with ivs := k.ivs.map fun v => { v with shown := (v.c, v.mark) } }
  let s := s.updFab fun f => { f with rdUsed := [], wrUsed := [], rdTurn := [], wrTurn := [], vsUsed := [], mgRd := 0, mgWr := 0 }
  let s := s.updTt fun t => { t with slot := 0, taken := 0, passes := [], platTaken := [], busDone := [], parts := [], running := [] }
  let s := s.updFlt fun f => { f with alive := aliveLevel s, inPlace := if s.pos = 0 then [] else f.inPlace }
  { s with tenants := s.tenants.map fun p => { p with rings := p.rings.map (settleRing (takesWork s && !p.resetBusy)) } }

/-- The steps of SS, and the waybill, that restart in the slot that starts draw their values ahead of every other consumer (01 R57; 07
R308). -/
def redrawStarting (s : State) : State :=
  let t := runStation s 5
  let starts := fun (r : Request) => r.redraw && (t.req? r.rid).all fun x => !x.redraw || x.stage == .draining
  let s := ((s.reqs.filter starts).map Request.rid).foldl (fun s rid => redraw rid s) s
  if t.ss.waybills.head?.any fun w => !w.redraw then redrawWaybill s else s

/-- What the stations run in a slot (02 R76), in the order in which the draws of the slot are served: steps of SS that restart, padding
of `KEY_EXPORT`, then key generation, then `RANDOM` (01 R57). -/
def runSlot (s : State) : State :=
  let s := [0, 1, 2, 3, 4].foldl runStation (s.updTt fun t => { t with running := [] })
  let s := redrawStarting s
  let s := s.updTt fun t => { t with ivAhead := ivAhead t.slot s }
  runPositions 6 [3] (runStation (runPositions 6 [0, 1, 2] s) 5)

/-- One slot starts (02 R76). The payload reads of a tick are issued at its slot 5, when the admission checks of the
tick have ended (03 R635, 08 R339; log entry 21). -/
def slotStart (bad : List (Nat × Nat)) (s : State) : State :=
  if !s.tt.started ∨ s.tt.slot ≥ 8 ∨ s.locked ∨ cutDue s then s
  else
    let s := if s.tt.slot = 0 then settleCaution (settleHold s) else s
    let s := if s.tt.slot = 5 then issueReads s else s
    let s := bad.foldl mismatchAt (readTests (runSlot s))
    s.updTt fun t => { t with slot := t.slot + 1 }

end Sys2Proof.Machine
end

