-- ==== Sys2Proof/Machine/CutOps.lean ====
section
/-! DEFINITION. Resident keys of an image, amendments, handovers and the cut-over (16 R591 to R597, Table 16-14). -/
namespace Sys2Proof.Machine

/-! ### Resident keys and their counters -/

/-- Resident nodes of the image in force whose invalidation is not in force (09 R378, R400, R405). -/
def residentNodes (s : State) : List CacheSlot :=
  (s.image.nodes.zipIdx.filter fun p => p.1.resident && !nodeInvalid s 8 p.2).map fun p => nodeSlot s p.2 p.1 .resident 0 s.now

/-- Resident records of the image in force that the store holds (09 R405). -/
def residentRecords (s : State) : List StoreRec := s.image.residents.filterMap fun p => recordOf s p.1 p.2.toNat

/-- The resident partition that the image in force asks for: nodes, and the records whose hash verifies. -/
def residentSlots (s : State) : List CacheSlot :=
  residentNodes s ++ ((residentRecords s).filter (recordGood s)).map fun r => recordSlot r .resident s.now

/-- CRC-16 of an entry of the mark table: over bytes 0 to 5 and 8 to 15 (16 R579). -/
def markCrc (t : Nat) (h : BitVec 20) (base : Nat) : Nat :=
  crc16 (leBytes 1 t ++ [0] ++ leBytes 3 h.toNat ++ [0] ++ leBytes 8 base)

/-- Whether an entry of the mark table verifies (16 R579). -/
def Mark.ok (m : Mark) : Bool := m.crc == markCrc m.tenant m.handle m.base

/-- An entry of the mark table (16 R579). -/
def newMark (t : Nat) (h : BitVec 20) (base : Nat) : Mark := { tenant := t, handle := h, base := base, crc := markCrc t h base }

/-- Base of a key in the IV mark area: that of copy 0, or of copy 1 where copy 0 has none that verifies (16 R579). -/
def markBase (s : State) (t : Nat) (h : BitVec 20) : Nat :=
  (((s.nvm.marks0 ++ s.nvm.marks1).find? fun m => m.tenant = t && m.handle == h && m.ok).map Mark.base).getD 0

/-- Write a key's base in the IV mark area, in copy 0 and copy 1 (16 R579). -/
def putMark (t : Nat) (h : BitVec 20) (base : Nat) (n : Nvm) : Nvm :=
  let put := fun (l : List Mark) => l.filter (fun m => !(m.tenant = t && m.handle == h)) ++ [newMark t h base]
  { n with marks0 := put n.marks0, marks1 := put n.marks1 }

/-- Whether a cached key has an invocation counter (04 R188). -/
def slotCounts (s : State) (c : CacheSlot) : Bool := countsIv s c.tenant c.alg.toNat c.usage.toNat

/-- The counter of a key made resident: C at the stored mark, and the mark one step further (04 R191, R193; 16 R579). -/
def newCounter (s : State) (c : CacheSlot) : IvCtr :=
  let m := 1048576 * (markBase s c.tenant c.handle + s.nvm.epoch)
  { tenant := c.tenant, handle := c.handle, c := m, mark := m + 1048576, shown := (m, m + 1048576) }

/-- A key made resident by an amendment receives its counter and its mark (04 R193). -/
def addCounter (s : State) (c : CacheSlot) : State :=
  if (ivOf s c.tenant c.handle.toNat).isSome then s
  else
    (s.updKs fun k => { k with ivs := k.ivs ++ [newCounter s c] }).updNvm
      (putMark c.tenant c.handle (markBase s c.tenant c.handle + 1))

/-- The state as it reads with the other bank of every owner in force. -/
def otherBank (s : State) : State := s.updCfg fun c => { c with bank := !c.bank }

/-- Invalidations that the labels of the set in force end are lifted (09 R400). -/
def liftInvalid (s : State) : State :=
  let lifted := fun (p : Nat × BitVec 20) =>
    !isRecordHandle p.2.toNat && (match nodeOf s p.1 p.2.toNat with
      | some (i, n) => !nodeListed s i n
      | none => false)
  s.updKs fun k => { k with invalid := k.invalid.filter fun p => !lifted p }

/-- Counters for the keys that the set being prepared makes resident, as it resolves them (04 R193; 09 R400; 16 R591). -/
def prepareCounters (s : State) : State :=
  let next := liftInvalid (otherBank s)
  if !rootHere s then s else ((residentSlots next).filter (slotCounts next)).foldl addCounter s

/-- Counters of keys that the set in force does not make resident cease (04 R193). -/
def dropCounters (s : State) : State :=
  if !rootHere s then s
  else
    let res := residentSlots s
    s.updKs fun k => { k with ivs := k.ivs.filter fun v => res.any fun c => c.tenant = v.tenant && c.handle == v.handle && slotCounts s c }

/-- A value that a cut-over replaces: kept for the requests that pin it, else zeroised (09 R400). -/
def retireSlot (c : CacheSlot) : List CacheSlot := if c.pins.isEmpty then [] else [{ c with old := true }]

/-- What a cut-over makes of a cached key: a node whose label or attributes change is retired, the others keep their
value; the resident partition is that of the new set (09 R400). A record handle that the new set's templates leave out resolves no more
(09 R389). -/
def carrySlot (s : State) (c : CacheSlot) : List CacheSlot :=
  let part := fun (res : Bool) => if res then Partition.resident else if c.part == .resident then .pool else c.part
  if c.old then [c]
  else if isRecordHandle c.handle.toNat then
    if (templateOf s c.tenant c.handle.toNat).isNone then retireSlot c
    else [{ c with part := part (s.image.residents.contains (c.tenant, c.handle)) }]
  else
    match nodeOf s c.tenant c.handle.toNat with
    | none => retireSlot c
    | some (i, n) =>
      let x := nodeSlot s i n c.part c.plat c.avail
      if x.value = c.value ∧ x.alg = c.alg ∧ x.usage = c.usage ∧ x.exp = c.exp ∧ x.secret = c.secret then
        [{ c with part := part n.resident }]
      else retireSlot c

/-- Values, in the set in force, of the nodes that requests in progress have missed and that are still to be derived (09 R400). -/
def missedNodes (s : State) : List CacheSlot :=
  s.reqs.flatMap fun r => r.misses.filterMap fun h =>
    if isRecordHandle h.toNat then none
    else (nodeOf s r.tenant h.toNat).map fun p =>
      { nodeSlot s p.1 p.2 (if r.rate = .inRate then .miss else .pool) r.plat s.now with pins := [r.rid] }

/-- The keys at a cut-over, read in the new set: invalidations that the new labels end are lifted, old values are retired, those that a
request has missed and not yet received are kept for it, new residents are there, and every one of them that counts has a counter, one
whose record was committed or whose node came back since the preparation too (09 R400; 04 R193). -/
def switchKeys (missed : List CacheSlot) (s : State) : State :=
  let s := liftInvalid s
  if !rootHere s then s
  else
    let kept := (missed.flatMap (carrySlot s)).filter CacheSlot.old
    let s := s.updKs fun k => { k with cache := k.cache.flatMap (carrySlot s) ++ kept }
    let res := residentSlots s
    let miss := res.filter fun c => (cached s c.tenant c.handle.toNat).isNone
    let s := dropCounters (s.updKs fun k => { k with cache := k.cache ++ miss })
    evictFor 0 s.ks.cache.length ((res.filter (slotCounts s)).foldl addCounter s)

/-! ### Requests 0x0207 and 0x0208 -/

/-- The request code of the amendment under way. -/
def cutCode (s : State) : Nat := if s.cfg.handover then 0x0208 else 0x0207

/-- The reply that ends the amendment request; none where the Registrar has lost it (16 R596). -/
def answerCutover (status : Nat) (params : Bytes) (s : State) : State :=
  match s.cfg.coSeq with
  | none => s
  | some q => reply none (cutCode s) q.toNat status params (s.updCfg fun c => { c with coSeq := none })

/-- The amendment ends without a switch: patches in standby banks are dropped, and so are the counters of keys that it would have made
resident (04 R193; 16 R591, R592). -/
def endCutover (state : BitVec 4) (cause : Nat) (s : State) : State :=
  let s := (dropCounters s).mapProcs fun p => { p with newPatch := none }
  s.updCfg fun c => { c with coState := state, coCause := BitVec.ofNat 8 cause, armed := 0, target := 0, bankBad := [] }

/-- An amendment is refused with a cause (16 R591). -/
def refuseAmendment (cause : Nat) (s : State) : State := answerCutover 2 (leBytes 1 cause) (endCutover 6 cause s)

/-- Whether an amendment or handover is under way. -/
def amending (s : State) : Bool := decide (1 ≤ s.cfg.coState.toNat ∧ s.cfg.coState.toNat ≤ 4)

/-- Write an image into an area of NVM. -/
def putImage (area : Bool) (b : Bytes) (n : Nvm) : Nvm :=
  let b := b.take 4194304
  if area then { n with imageB := b } else { n with imageA := b }

/-- The area not in force is erased before an image is read into it, once the NVM may be erased (13 R506; 16 R591, step 2). -/
def eraseImage (s : State) : State := if s.pwr.nvmLow then s else s.updNvm (putImage (!s.cfg.area) [])

/-- Request 0x0207 or 0x0208 is taken: the area not in force is erased, and the Registrar begins to read the image (16 R591, R595). -/
def startAmendment (handover : Bool) (m : Msg) (s : State) : State :=
  let addr := leAt m.params 0 8
  let len := leAt m.params 8 4
  if amending s then answer m 0x83 s
  else if m.payload ≠ 0 ∨ m.paylen ≠ 0 ∨ ¬ allZero (m.params.drop 12) then answer m 0x82 s
  else if !inWindows s m.tenant addr len true false then answer m 0x84 s
  else
    (startRead 2 addr len (eraseImage (answer m 1 s))).updCfg fun c =>
      { c with coState := 1, coCause := 0, attempts := 0, armed := 0, target := 0, handover := handover, coLen := len,
               coSeq := some (BitVec.ofNat 16 m.seq) }

/-- An NVM program or erase fails, or its read-back does (16 Table 16-20). -/
def nvmFailed (s : State) : State := s.updNvm fun n => { n with errors := satInc 0xFFFF n.errors }

/-- The image has been read into the area not in force and is checked (16 R591, steps 2 and 3). -/
def loadAmendment (b : Bytes) (good : Bool) (s : State) : State :=
  let s := s.updNvm (putImage (!s.cfg.area) b)
  if !good then refuseAmendment 0x0E (nvmFailed s)
  else
    let c := imageCause s (if s.cfg.handover then .handover else .amendment) b
    if c ≠ 0 then refuseAmendment c s
    else s.updCfg fun x => { x with coState := 2, newImage := b, newHash := sha384 b }

/-- Every owner's inactive bank takes the new image. -/
def loadBanks (m : Image) (s : State) : State :=
  s.updCfg fun c => if c.bank then { c with bank0 := some m } else { c with bank1 := some m }

/-- The new code of each processor whose patch changes goes into its standby bank (16 R596). -/
def loadPatches (m : Image) (s : State) : State :=
  let f := fun (i : Fin 3) =>
    let p := s.procs[i]
    let q := patchFor m i.val
    if q = p.patch then p else { p with newPatch := some q }
  { s with procs := Vector.ofFn f }

/-- Armed bit of every owner whose inactive bank holds the new set (16 R592, Table 16-19). -/
def armedBits (c : Config) : BitVec 8 :=
  BitVec.ofNat 8 (((List.range 8).filter fun i => !c.bankBad.contains i).map fun i => 2 ^ i).sum

/-- First period boundary at least 4,096 ticks after a tick (16 R592). -/
def firstTarget (now : Nat) : Nat := 4096 * ceilDiv (now + 4096) 4096

/-- Preparation ends: banks, nodes, counters and curves are there, and the image pointer is written (16 R591, steps 4 and
5; R595). -/
def prepareAmendment (good : Bool) (s : State) : State :=
  let m := parseImage s.cfg.newImage
  let old := s.image.curves
  let s := loadPatches m (loadBanks m s)
  let s := if s.cfg.handover then s else submitNewCurves old m.curves (prepareCounters s)
  if !good then refuseAmendment 0x0E (nvmFailed s)
  else
    let ptr := s.nvm.imgPtr
    let s := s.updNvm (writeImgPtr { area := !s.cfg.area, seq := ptr.seq + 1, imgSeq := m.seq, length := s.cfg.newImage.length })
    s.updCfg fun c => { c with coState := 3, oldPtr := ptr, target := firstTarget s.now, armed := armedBits c }

/-! ### The cut-over -/

/-- Processors halted for a cut-over resume on their old bank; nothing of theirs is cleared (16 R592, R596). -/
def resumeOld (s : State) : State := s.mapProcs fun p => { p with halted := false }

/-- The image pointer names the old area again (16 R592). -/
def restorePointer (s : State) : State :=
  (s.updNvm fun n => writeImgPtr { s.cfg.oldPtr with seq := n.imgPtr.seq + 1 } n).updCfg fun c => { c with ptrWaits := false }

/-- An attempt is cancelled: the next boundary is tried, and after the eighth the image pointer names the old area again
(16 R592), once the NVM may be written (13 R506). -/
def cancelCutover (s : State) : State :=
  let s := assertBlk 13 (resumeOld s)
  if s.cfg.attempts ≥ 8 then
    let s := if s.pwr.nvmLow then s.updCfg fun c => { c with ptrWaits := true } else restorePointer s
    answerCutover 3 (leBytes 1 0x0D) (endCutover 6 0x0D s)
  else s.updCfg fun c => { c with coState := 3, target := c.target + 4096, armed := armedBits c }

/-- An uncorrectable word in the inactive bank of an owner: it is disarmed until its bank is reloaded, and an armed
attempt is cancelled (12 Table 12-7; 16 R592, Table 16-14). -/
def bankUncorr (owner : Nat) (s : State) : State :=
  if !decide (2 ≤ s.cfg.coState.toNat ∧ s.cfg.coState.toNat ≤ 4) then s
  else
    let s := s.updCfg fun c => { c with bankBad := addNew owner c.bankBad }
    if s.cfg.coState = 4 then cancelCutover s else s.updCfg fun c => { c with armed := if c.coState = 3 then armedBits c else c.armed }

/-- Whether every owner and every processor to be handed over is armed (16 R592, R596). -/
def allArmed (s : State) : Bool := s.cfg.bankBad.isEmpty && s.procs.toList.all fun p => p.newPatch.isNone || p.halted

/-- At p − 256 the attempt is counted, and armed or cancelled (16 R592). -/
def armCheck (s : State) : State :=
  let s := s.updCfg fun c => { c with attempts := c.attempts + 1 }
  if s.now + 256 = s.cfg.target ∧ allArmed s then assertBlk 11 (s.updCfg fun c => { c with coState := 4 })
  else cancelCutover s

/-- Buckets and counts at a cut-over: levels are limited to the new b, counts restart where the entry changes
(02 R73, R111). -/
def switchPlats (old new : Image) (t : Timetable) : Timetable :=
  let f := fun (i : Fin 1024) =>
    let x := t.plats[i]
    let p := new.plats.getD i.val PlatEntry.reset
    let x := { x with level := min x.level (p.burst * oneToken) }
    if p = old.plats.getD i.val PlatEntry.reset then x else { x with miss := 0, overs := 0 }
  let plats := Vector.ofFn f
  { t with plats := plats, shown := plats }

/-- Enabled rings that leave the windows of their tenant stop (03 R127). -/
def stopOutside (s : State) : State :=
  (allRings s).foldl (fun s p =>
    if p.2.enable && !p.2.stopped && !ringInWindows s (tenantFin (p.1 / 4)) p.2 then stopRing (p.1 / 4) (p.1 % 4) 5 false s else s) s

/-- The management lock at a cut-over: released where the holder is no HOST_ADMIN in the new map, or is a processor that
is handed over (11 R453). -/
def switchLock (s : State) : State :=
  let m := s.mgmt
  let lost := if m.src then (List.finRange 3).any fun p => procIdent p == m.holder && s.procs[p].halted
    else s.roleOf m.holder ≠ 3
  if m.held && lost then s.updMgmt freeLock else s

/-- Halted processors restart on their standby bank (16 R596). -/
def switchProcs (s : State) : State :=
  let go := fun (p : Proc) =>
    match p.newPatch with
    | some q => { p with bank := !p.bank, patch := q, newPatch := none, halted := false, resuming := some s.now }
    | none => p
  s.mapProcs go

/-- Contingency switches that fall due at this boundary: the new set's index of each loss case (02 R104). -/
def dueCases (s : State) : List SwitchDue := s.flt.switches.filter fun x => decide (x.tick ≤ s.now)

/-- The switch at p: every owner and every halted processor (16 R593, R596). A new set starts in its main timetable; a handover installs
none (02 R102). A contingency due at p comes into force in
the new set (02 R104). -/
def switchOwners (s : State) : State :=
  let old := s.image
  let missed := missedNodes s
  let handReg := (s.procs[(2 : Fin 3)]).halted && (s.procs[(2 : Fin 3)]).newPatch.isSome
  let s := otherBank s
  let s := s.updCfg fun c =>
    { c with image := c.newImage, hash := c.newHash, seq := s.image.seq, area := s.nvm.imgPtr.area, coState := 5, armed := 0,
             target := 0 }
  let s := s.updTt fun t =>
    let t := switchPlats old s.image t
    if s.cfg.handover then t else { t with active := 0, causeV := false, cause := 0 }
  let s := s.updPwr fun p => { p with oldLevels := some (s.now, old.offsets) }
  let s := (switchLock s).updAon fun a => { a with talarm := calValue s 0x19 }
  let s := switchProcs (stopOutside (retireOldCurves s.image.curves (switchKeys missed s)))
  let s := if handReg then clearOutboxes s else answerCutover 0 [] s
  assertBlk 12 s

end Sys2Proof.Machine
end

