-- ==== Sys2Proof/Machine/FaultOps.lean ====
section
/-! DEFINITION. Shunts, contingencies, uncorrectable words, station restarts, lockdown, proofs and injection
(02 R101 to R104, R637; 12 R467 to R487, R492). -/
namespace Sys2Proof.Machine

/-! ### Shunts and contingencies -/

/-- A siding takes over a position (12 R473). -/
def takeOver (s : State) (t : Takeover) : State :=
  let s := if inReserve ((s.roles t.engine).getD t.lane 11) then setRole t.engine t.lane (BitVec.ofNat 4 t.pos) s else s
  s.updFlt fun f => { f with takeovers := f.takeovers.filter (· ≠ t) }

/-- The shunts of an engine that are due (12 R473). -/
def takeOvers (key : Nat) (s : State) : State :=
  (s.flt.takeovers.filter fun t => t.engine = key && decide (t.tick ≤ s.now)).foldl takeOver s

/-- Positions of an engine that are wholly served, in ascending order of their lowest lane (02 R101). -/
def servedOrder (s : State) (key : Nat) : List Nat :=
  (s.roles key).foldl (fun l r => if r.toNat < 8 ∧ served s key r.toNat then addNew r.toNat l else l) []

/-- The remaining lanes or pairs of an engine are mapped to positions 0 to c − 1 in ascending order (02 R101). -/
def remap (key : Nat) (s : State) : State :=
  let order := servedOrder s key
  let roles := (s.roles key).map fun r => match order.findIdx? (· = r.toNat) with
    | some i => BitVec.ofNat 4 i
    | none => r
  s.updFlt fun f => { f with roles := assoc key roles f.roles }

/-- SHA-3 work of a digest station moves to the other one with its context and staged input (02 R637). -/
def moveSha3 (st : Nat) (s : State) : State :=
  let go := fun (r : Request) =>
    let hit := fun (i : Nat) (x : StepState) => x.station = st && sha3Step (r.descs.getD i [])
    { r with steps := r.steps.mapIdx (fun i x => if hit i x then { x with station := 5 - st } else x),
             moved := r.moved || (r.steps.zipIdx.any fun p => hit p.2 p.1) }
  s.mapReqs go

/-- A contingency switch (02 R101, R103, R104): the engine's lanes are mapped anew, and the contingency of the loss case in
the set in force takes effect, unless there is none or one is in force already. -/
def switchContingency (x : SwitchDue) (s : State) : State :=
  let s := takeOvers x.engine (s.updFlt fun f => { f with switches := f.switches.erase x })
  let s := if x.engine = 17 ∨ x.engine = 25 then s else remap x.engine s
  let idx := s.image.groups.getD x.case 0
  if idx = 0 ∨ (s.tt.active ≠ 0 ∧ s.tt.active.toNat ≠ idx) then s
  else
    let s := if s.tt.active ≠ 0 then s
      else assertBlk 4 (s.updTt fun t => { t with active := BitVec.ofNat 3 idx, causeV := true, cause := x.source })
    if x.case = 4 then moveSha3 2 s else if x.case = 5 then moveSha3 3 s else s

/-! ### Uncorrectable words -/

/-- Drop a key cache slot. -/
def dropSlot (t : Nat) (h : BitVec 20) (s : State) : State :=
  s.updKs fun k => { k with cache := k.cache.filter fun c => !(c.tenant = t && c.handle == h) }

/-- A derived copy is dropped: the requests that pinned it wait for it to be derived again (12 Table 12-7). -/
def dropCopy (c : CacheSlot) (s : State) : State :=
  (dropSlot c.tenant c.handle s).mapReqs fun r => if c.pins.contains r.rid then { r with misses := addNew c.handle r.misses } else r

/-- A receiving slot is zeroised and its handle is vacant: requests that wait for the key find none (12 Table 12-7). -/
def dropReceived (due : Nat) (c : CacheSlot) (s : State) : State :=
  c.pins.foldl (fun s rid => failRequest rid 0x14 0 due s) (dropSlot c.tenant c.handle s)

/-- Memory group of Table 15-9 in which a source's words lie (01 Table 01-4): staging or operand memory, section store, key cache. -/
def groupOf (c : BitVec 16) : Option Nat :=
  if srcEngine c = 7 ∧ srcLane c = 1 ∧ srcStation c < 6 then some (8 + srcStation c)
  else if srcEngine c = 7 ∧ srcLane c = 0 ∧ srcStation c < 7 then some (16 + srcStation c)
  else if srcKey c = 49 then some 14 else none

/-- The scrubber writes a 16-byte word with zeros (12 Table 12-7). -/
def zeroWord (c detail : BitVec 16) (d : Debug) : Debug :=
  match groupOf c with
  | none => d
  | some g => { d with words := assoc (g, 2 * detail.toNat) 0 (assoc (g, 2 * detail.toNat + 1) 0 d.words) }

/-- The outcome of an uncorrectable word for its owner, in the tick after the read (12 R480, Table 12-7). -/
def ownerOutcome (c detail : BitVec 16) (owner : WordOwner) (s : State) : State :=
  match owner with
  | .slot t h =>
    match cached s t.val h.toNat with
    | none => s
    | some x =>
      if x.part == .pool || x.part == .miss then dropCopy x s
      else if x.part == .receiving then dropReceived s.now x s
      else (dropSlot t.val h s).updKs fun k => { k with lost := addNew (t.val, h) k.lost }
  | .system n t => s.updKs fun k => { k with system := k.system.filter fun x => !(x.node == n && x.tenant = t.toNat) }
  | .nobody => s.updDbg (zeroWord c detail)
  | .request _ | .activeBank | .inactiveBank => s

/-- An uncorrectable word has been read: its owner's outcome is due in the tick after (12 R480, Table 12-7). A request that ends then is
ended at once, a restart falls due at the boundary, and a bank that is to be switched to is disarmed before it. -/
def uncorrOutcome (c detail : BitVec 16) (owner : WordOwner) (s : State) : State :=
  match owner with
  | .request rid => failRequest rid 0x3F c (s.now + 1) s
  | .activeBank => takeAction (promoteAction c 4) c s
  | .inactiveBank => bankUncorr (srcStation c) s
  | .slot .. | .system .. | .nobody =>
    s.updFlt fun f => { f with wordsDue := f.wordsDue ++ [(s.now + 1, c, detail, owner)] }

/-- The outcomes of uncorrectable words that are due (12 R480). -/
def settleWords (s : State) : State :=
  let s' := s.updFlt fun f => { f with wordsDue := f.wordsDue.filter fun w => !decide (w.1 ≤ s.now) }
  (s.flt.wordsDue.filter fun w => decide (w.1 ≤ s.now)).foldl (fun s w => ownerOutcome w.2.1 w.2.2.1 w.2.2.2 s) s'

/-- Detail field of a record: the word address of CORR and UNCORR, the return time of LATE, else 0 (12 Table 12-5). -/
def detailOf (c detail : BitVec 16) : BitVec 16 := if [3, 4, 22].contains (srcChecker c) then detail else 0

/-- A source identity with another checker of its lane. -/
def withChecker (c : BitVec 16) (code : Nat) : BitVec 16 := BitVec.ofNat 16 (c.toNat / 64 * 64 + code)

/-! ### Escalation -/

/-- Whether a control processor is at work: not restarting, halted or between banks (01 R47; 15 R566; 16 R597). -/
def procWorks (s : State) (p : Fin 3) : Bool :=
  let x := s.procs[p]
  let dbg := if p = 0 then s.dbg.haltCus else if p = 1 then s.dbg.haltSup else s.dbg.haltReg
  x.restart.isNone && !x.halted && x.resuming.isNone && !dbg

/-- A window expires: its action is taken, with the tick of its report noted for a dump (12 R467, R490). -/
def expireWindow (t : EscTimer) (s : State) : State :=
  let s := closeWindow t.source s
  let s := takeAction t.action t.source (markRecords t.source (t.opens - 1) (fun x => { x with action := true }) s)
  if t.action = 4 ∨ t.action = 5 then s.updFlt fun f => { f with reportTicks := assoc t.source (t.opens - 1) f.reportTicks } else s

/-- The windows that are still open at the boundary that ends their last tick expire (12 R467). -/
def expireWindows (s : State) : State := (s.flt.timers.filter fun t => decide (t.expires ≤ s.now + 1)).foldl (fun s t => expireWindow t s) s

/-! ### Station restart and lockdown -/

/-- The curve load in progress on VS ends with result 0x0C and is submitted again, behind those that wait; the time of the load that is
now first counts from here (12 Table 12-6; 06 R288). -/
def requeueCurve (s : State) : State :=
  match s.vs.loads with
  | [] => s
  | l :: rest =>
    if !l.begun then s
    else
      let next := match rest ++ [{ l with begun := false, cycles := 0, here := 0, reruns := 0 }] with
        | [] => []
        | x :: more => { x with startTick := s.now } :: more
      (noteLoad (recordIndex l.record) lateCode s).updVs fun v => { v with loads := next }

/-- What a restart of KS does to the cache: derived and received keys go, the resident partition is reloaded
(12 Table 12-6, 07 R318). -/
def restartCache (due : Nat) (s : State) : State :=
  let gone := s.ks.cache.filter fun c => c.part == .pool || c.part == .miss
  let recv := s.ks.cache.filter fun c => c.part == .receiving
  recv.foldl (fun s c => dropReceived due c s) (gone.foldl (fun s c => dropCopy c s) s)

/-- The key-entry unit loses the components of an open session: they must all be entered again (12 R476, 09 R390). -/
def dropComponents (p : TenantPage) : TenantPage :=
  { p with ke := { p.ke with data := Vector.replicate 8 0, dataSym := fillBytes 12 0, wIdent := none, wMixed := false,
                             session := p.ke.session.map fun x => { x with comps := [], compSym := [], idents := [] } } }

/-- What else a restart rebuilds at its station (12 Table 12-6). -/
def restartExtras (st due : Nat) (s : State) : State :=
  if st = 4 then requeueCurve s
  else if st = 5 then restartWaybills (fun _ => true) s
  else if st = 6 then (restartCache due s).mapPages dropComponents else s

/-- The memory that a restart of a station zeroises, by its group of Table 15-9: staging or operand memory, the sealed operand memory, the
key cache. -/
def stationGroup (st : Nat) : Nat := if st ≤ 5 then 8 + st else 14

/-- A section store that a BIST has left zero is loaded again from the set in force, and what a debug access wrote there is gone (12 R476,
step 4). -/
def reloadStore (st : Nat) (s : State) : State :=
  let g := 16 + st
  let s := if s.dbg.zeroed.contains g then
      let table := (parseImage s.cfg.image).tables.getD st StnTable.reset
      let load := fun (m : Image) => { m with tables := m.tables.set st table }
      s.updCfg fun c => { c with bank0 := if c.bank then c.bank0 else c.bank0.map load,
                                 bank1 := if c.bank then c.bank1.map load else c.bank1 }
    else s
  s.updDbg (forgetWord [g])

/-- Report tick of the cause of a restart or lockdown that falls due at a boundary: that of the window whose action it is, else the tick
that the boundary ends (12 R467, Table 12-12). -/
def causeTick (c : BitVec 16) (due : Nat) (s : State) : Nat := lookupD c (due - 1) s.flt.reportTicks

/-- A station stops and restarts (12 R476): the requests that hold state there end with `INTERNAL` in this tick, its
memories and banks are zeroised, and its section store is loaded again. -/
def restartStation (st : Fin 7) (tick : Nat) (c : BitVec 16) (s : State) : State :=
  let rids := (s.reqs.filter (holdsState s st.val)).map Request.rid
  let s := rids.foldl (fun s rid => failRequest rid 0x3F c tick s) s
  let s := s.updStn st fun _ => { StationState.reset with restart := some c, started := s.now }
  let s := (reloadStore st.val s).updDbg (zeroWords [stationGroup st.val])
  let s := restartExtras st.val tick (supersede (fun x => srcStation x = st.val) s)
  assertBlk 3 (s.updFlt fun f =>
    { f with due := f.due.filter (fun d => !(d.1 = st.val && decide (d.2.1 ≤ s.now))), restarts := f.restarts + 1,
             dumpDue := f.dumpDue ++ [(st.val, c, causeTick c tick s)], dumpState := 1,
             reportTicks := f.reportTicks.filter fun p => p.1 ≠ c })

/-- A ring stops where it stands. -/
def stopFetching (p : TenantPage) : TenantPage :=
  { p with rings := p.rings.map (settleRing false) }

/-- Whether the Supervisor is itself what failed: its checkers report on lane 1 of the control processors (12 R488; 01 Table 01-4). -/
def supFailed (c : BitVec 16) : Bool := srcKey c == 60 && srcLane c == 1

/-- The dump of a lockdown is owed, unless the Supervisor is itself what failed (12 R488). -/
def oweDump (c : BitVec 16) (tick : Nat) (f : Faults) : Faults :=
  if supFailed c then { f with dumpDue := [] } else { f with dumpDue := f.dumpDue ++ [(7, c, tick)], dumpState := 1 }

/-- Lockdown (12 R478): every station stops, nothing is fetched, admitted or completed, and the memories are zeroised. Where
the Supervisor is itself the failed part, no dump is owed (12 R488). -/
def lockDown (tick : Nat) (c : BitVec 16) (s : State) : State :=
  let s := supersede (fun _ => true) s
  let noHold := fun (x : CipherStation) => { x with holdUsed := 0 }
  let s := { s with reqs := [], ended := [], stations := s.stations.map clearBanks, cs := s.cs.map noHold }
  let s := (s.mapPages stopFetching).updKs fun k => { k with cache := [], system := [], commits := [], pendingH := [] }
  let s := (s.updVs fun v => { v with memUsed := 0, loads := [] }).updSs fun v => { v with memUsed := 0, waybills := [] }
  let dead := fun (b : Burst) => { b with dropped := true }
  let empty := fun (p : PlatStat) => { p with depth := 0 }
  let s := (s.updFab fun f => { f with bursts := f.bursts.map dead }).updTt fun t => { t with plats := t.plats.map empty }
  let s := s.updDbg (zeroWords [8, 9, 10, 11, 12, 13, 14, 26])
  s.updFlt fun f => oweDump c (causeTick c tick s) { f with lockdown := true, toggling := false, due := [] }

/-! ### Proofs and injection -/

/-- Whether the Supervisor's firmware does more than write and hand out dumps: it is at work, and the block is not in lockdown (12 R479). -/
def supWorks (s : State) : Bool := procWorks s 1 && !s.flt.lockdown

/-- The checkers of a station that a restart proves: those of its lanes in service or in reserve, and of its other parts (12 R476, step
5). -/
def stationCheckers (s : State) (st : Nat) : List (BitVec 16) :=
  ((List.range 8).flatMap fun e => engineCheckers (8 * st + e)).filter fun c => (s.roles (srcKey c)).getD (srcLane c) 0 != 11

/-- A checker has been proven: the rotation completes with the last one (12 R482, Table 12-22). -/
def proven (c : BitVec 16) (s : State) : State :=
  let s := (proofReport c s).updFlt fun f => { f with proven := addNew c f.proven }
  if allCheckers.all fun x => s.flt.proven.contains x then
    s.updFlt fun f => { f with proven := [], rotations := satInc 0xFFFF f.rotations, overdue := false, ageBase := s.now }
  else s

/-- A siding at work in this tick, for a proof or an injection, in the role of Table 12-21 that shows it: powered or under injection. It
is gated again once it has stood idle for a tick (01 R60; 12 R475, R484; log entry 58). -/
def useSiding (key lane : Nat) (role : BitVec 4) (s : State) : State :=
  (setRole key lane role s).updFlt fun f => { f with busySidings := addNew (key, lane) f.busySidings }

/-- A siding at rest is powered for its proof, which is an injection on it (12 R475, R484, Tables 12-9, 12-21). -/
def powerSiding (c : BitVec 16) (s : State) : State :=
  let r := (s.roles (srcKey c)).getD (srcLane c) 15
  if r = 8 ∨ r = 9 then useSiding (srcKey c) (srcLane c) 10 s else s

/-- A proof has failed: the checker's report path is reported, and a siding is retired (12 R483). -/
def proofFailed (c : BitVec 16) (s : State) : State :=
  let s := s.updFlt fun f => { f with proofFail := satInc 0xFFFF f.proofFail }
  let p := withChecker c (srcChecker c % 32 + 32)
  let siding := inReserve ((s.roles (srcKey c)).getD (srcLane c) 15)
  let s := faultReport p 0 s
  if siding then retireLane (srcKey c) (srcLane c) p s else s

/-- Whether a lane is a siding without traffic that no shunt has chosen (12 R475, Table 12-10). -/
def freeSiding (s : State) (key lane : Nat) : Bool :=
  inReserve ((s.roles key).getD lane 15) && !s.flt.takeovers.any fun t => t.engine = key && t.lane = lane

/-- A planned shunt (12 R475): the siding serves the lane's position, and the lane becomes the siding. -/
def plannedShunt (key lane siding : Nat) (s : State) : State :=
  let r := (s.roles key).getD lane 15
  if r.toNat < 8 ∧ (s.roles key).getD siding 15 = 9 ∧ freeSiding s key siding then
    setRole key lane 8 (setRole key siding r s)
  else s

/-- Whether an injection is allowed (12 R486, Table 12-10); the rights bit INJECT is that of 15 Table 15-8. -/
def mayInject (s : State) (sup act : Bool) (c : BitVec 16) : Bool :=
  let st := s.lc.state.toNat
  if st = 1 ∨ st = 2 ∨ st = 6 then true
  else if st = 5 then
    (if sup then !act && isLaneSource c && freeSiding s (srcKey c) (srcLane c) else bitAt s.dbg.rights 0)
  else false

/-- An injection on a free siding puts it under injection until the tick ends, or until a shunt selects it (01 R61; 12 R484, Table
12-21; log entry 58). -/
def injectSiding (c : BitVec 16) (s : State) : State :=
  if isLaneSource c && freeSiding s (srcKey c) (srcLane c) then useSiding (srcKey c) (srcLane c) 10 s else s

/-- The report that an injection into a checker makes, by its MODE: one check symbol inverted is corrected, two are not correctable, an
inverted compare input is the checker's own error, and a forced report pair is a path failure. None where the target's lane has no such
checker, or the target only tests symbols (12 R460, Tables 12-1, 12-23; DEDUCED, log entry 122). -/
def injectReport (mode : Nat) (c : BitVec 16) : Option (BitVec 16) :=
  let has := fun (n : Nat) => (checkersOf (srcKey c) (srcLane c)).contains n
  if mode = 0 then (if has 3 then some (withChecker c 3) else none)
  else if mode = 1 then (if has 4 then some (withChecker c 4) else none)
  else if mode = 2 then (if [3, 4].contains (srcChecker c) then none else some c)
  else some (withChecker c (srcChecker c + 32))

/-- Whether the report of an injection is the one expected of its target: the target's own, or its path's where the pair is forced (12
Table 12-23). -/
def injectExpected (mode : Nat) (c : BitVec 16) : Bool := mode == 3 || injectReport mode c == some c

/-- A write of TRH_FLT_INJECT (12 R486, Table 12-23): the injection is in progress until the tick ends. A target that does not exist
gives no report. -/
def writeInject (sup : Bool) (v : BitVec 64) (s : State) : State :=
  let c := v.extractLsb' 0 16
  let act := bitAt v 62
  let mode := fieldNat v 32 2
  if !bitAt v 63 then s
  else if !mayInject s sup act c then s.updFlt fun f => { f with injRefused := true }
  else
    let real := decide (srcChecker c < 32) && reportable c
    let s := s.updFlt fun f =>
      { f with injRefused := false, injSource := c, injResult := 1, injNext := if real && injectExpected mode c then 2 else 3 }
    if !real then s
    else
      let s := injectSiding c s
      match injectReport mode c with
      | none => s
      | some rep => if act then reportAs true rep 0 s else proofReport rep s

/-! ### Registers -/

/-- TRH_FLT_STATUS (12 Table 12-15). -/
def readFltStatus (s : State) : BitVec 64 :=
  let restarting := (s.stations.toList.zipIdx.filter fun p => p.1.restart.isSome).map fun p => 2 ^ p.2
  placeB s.flt.lockdown 31 ||| placeB s.flt.toggling 30 ||| place restarting.sum 23 ||| place (min 256 s.flt.queue.length) 8 |||
    place s.flt.qdrop 0

/-- TRH_FLT_FIRST (12 Table 12-16). -/
def readFltFirst (s : State) : BitVec 64 :=
  let f := s.flt
  placeB f.fValid 63 ||| placeB f.fOvf 62 ||| place f.fSev.toNat 16 ||| place f.fSource.toNat 0

/-- A write of TRH_FLT_FIRST: VALID clears the latch, OVF and LATER, and re-arms the latch (12 R470). -/
def writeFltFirst (v : BitVec 64) (s : State) : State :=
  if bitAt v 63 then
    s.updFlt fun f => { f with fValid := false, fOvf := false, fSev := 0, fSource := 0, fTick := 0, later := 0, latchAt := none }
  else s

/-- TRH_FLT_COUNT (12 Table 12-17). -/
def readFltCount (s : State) : BitVec 64 := place s.flt.later 32 ||| place s.flt.total 0

/-- TRH_FLT_SEV (12 Table 12-18). -/
def readFltSev (s : State) : BitVec 64 :=
  let c := s.mgmt.sevSel
  let cl := severityOf s c
  place cl.sev 29 ||| place (vendorMin (srcChecker c)) 26 ||| place cl.action 23 ||| placeB cl.promoted 22 |||
    place cl.window 10 ||| place (lookupD c 0 s.flt.counts) 0

/-- Windows open in this tick, the first to expire first. -/
def openWindows (s : State) : List EscTimer := sortBy EscTimer.expires (s.flt.timers.filter fun t => decide (t.opens ≤ s.now))

/-- TRH_FLT_ESC (12 Table 12-20). -/
def readFltEsc (s : State) : BitVec 64 :=
  let open_ := place ((openWindows s).map fun t => 2 ^ t.idx).sum 0
  match openWindows s with
  | [] => open_
  | t :: _ => place t.source.toNat 48 ||| place (t.expires - s.now) 32 ||| open_

/-- Whether a lane is a noise source that is retired (10 R413). -/
def sourceRetired (s : State) (key lane : Nat) : Bool := key == 50 && (s.en.sources.toList[lane]?).any fun x => x.state == 2

/-- Role of a lane of an engine as TRH_FLT_LANEMAP shows it (12 Table 12-21). -/
def shownRole (s : State) (key lane : Nat) : Nat :=
  if laneCount key ≠ 0 then ((s.roles key)[lane]?.map BitVec.toNat).getD 15
  else if lane < plainLanes key then (if sourceRetired s key lane then 11 else 0) else 15

/-- TRH_FLT_LANEMAP of an engine (12 Table 12-21). -/
def laneMap (s : State) (key : Nat) : BitVec 64 :=
  (List.range 12).foldl (fun v i => v ||| place (shownRole s key i) (4 * i)) (place (spareCount s key) 48)

/-- TRH_FLT_PROOF (12 Table 12-22). -/
def readFltProof (s : State) : BitVec 64 :=
  place s.flt.proofFail 48 ||| place s.flt.rotations 32 ||| placeB s.flt.overdue 31 |||
    place (min 0x7FFFFFFF ((s.now - s.flt.ageBase) / 4096)) 0

/-- TRH_FLT_INJ_STAT (12 Table 12-23). -/
def readFltInj (s : State) : BitVec 64 :=
  place s.flt.injResult.toNat 30 ||| placeB s.flt.injRefused 29 ||| place s.flt.injSource.toNat 0

/-- TRH_FLT_DUMP (12 Table 12-24). -/
def readFltDump (s : State) : BitVec 64 :=
  place s.flt.dumpState.toNat 62 ||| placeB s.flt.dumpHost 61 ||| placeB s.flt.dumpSlot 60 ||| place (s.nvm.dumpSeq % 4294967296) 0

end Sys2Proof.Machine
end

