-- ==== Sys2Proof/Machine/CustodyOps.lean ====
section
/-! DEFINITION. Key entry, invalidation, record writes, misses and the rotation of the storage key (09 R383 to R407; 13
R501, R503; 16 R576, R579). -/
namespace Sys2Proof.Machine

/-! ### Stored form -/

/-- Digest of a copied block: index entries and records in record order (09 R402), each entry right before its
record (DESIGN CHOICE, log entry 110). -/
def blockDigest (s : State) (a : StoreArea) (j : Nat) : Bytes :=
  sha384 ((sortBy StoreRec.recno (a.recs.filter fun r => r.recno / 4096 = j)).flatMap fun r => indexEntry r ++ recordBytes s r)

/-- Bytes of the heap of a key-store area (16 R575, R576). -/
def heapBytes (s : State) : Nat :=
  let dens := 67108864 * 2 ^ s.nvm.sizeN
  (7 * dens / 8 - 16777216) / 2 - 0x910000

/-- The area into which a rotation copies (09 R402). -/
def State.otherStore (s : State) : StoreArea := if s.nvm.ksArea then s.nvm.storeA else s.nvm.storeB

/-! ### Key entry -/

/-- OP of a TN_KE_CTRL value (09 Table 09-18). -/
def keOp (v : BitVec 64) : Nat := fieldNat v 28 4
/-- HANDLE of a TN_KE_CTRL value. -/
def keHandle (v : BitVec 64) : Nat := fieldNat v 0 20

/-- Whether a record written through key entry, or a tomb, is being committed for a tenant. -/
def keCommitting (s : State) (t : Tenant) : Bool := s.ks.commits.any fun c => c.ke && c.record.tenant = t.val

/-- TN_KE_STAT.STATE follows what the unit does (09 Table 09-20; 13 R501). -/
def showKe (t : Tenant) (s : State) : State :=
  let busy := keCommitting s t
  s.updKe t fun e =>
    { e with state := if e.job.isSome || busy || !e.heldOps.isEmpty then 2 else if e.session.isSome then 1 else 0 }

/-- A result is posted; the tenant's error source is asserted from 4 upward (09 R391). -/
def keResult (t : Tenant) (code : Nat) (s : State) : State :=
  let s := s.updKe t fun e => { e with result := BitVec.ofNat 4 code }
  if code ≥ 4 then assertTn t srcError s else s

/-- The data registers and the component being written are zeroised (09 Table 09-19). -/
def clearEntry (e : KeyEntry) : KeyEntry :=
  { e with data := Vector.replicate 8 0, dataSym := fillBytes 12 0, wIdent := none, wMixed := false }

/-- A session ends other than by commit: its data is zeroised and its handle is vacant again (09 R391). -/
def endSession (t : Tenant) (s : State) : State :=
  match (s.page t).ke.session with
  | none => s
  | some x => unpend t.val x.handle.toNat (s.updKe t fun e => { clearEntry e with session := none })

/-- START (09 R391, R392). -/
def startSession (t : Tenant) (v : BitVec 64) (s : State) : State :=
  let h := keHandle v
  let n := fieldNat v 26 2
  let rep := bitAt v 25
  if (s.page t).ke.session.isSome || keCommitting s t then keResult t 7 s
  else if !rootHere s then keResult t 12 s
  else if (n = 2 ∨ n = 3) ∧ (templateOf s t.val h).any Template.clear ∧
      (if rep then isOccupied s t.val h && mayReplace s else isVacant s t.val h) then
    let x : KeSession := { KeSession.reset with ncomp := n, replace := rep, handle := BitVec.ofNat 20 h, lastTick := s.now }
    (s.updKe t fun e => { e with session := some x, handle := x.handle }).updKs fun k =>
      { k with pendingH := addNew (t.val, x.handle) k.pendingH }
  else keResult t 5 s

/-- The value bytes of a component: what the data registers held, brought to the template's length. A longer HMAC key has
bytes that no register gives: they are free values (log entry 31). -/
def componentBytes (s : State) (j : KeJob) (n : Nat) : Bytes :=
  let d := j.data.take n
  d ++ drawnBytes s.drawn (n - d.length)

/-- COMPONENT: the identity rules, then the comparison of the component's KCV (09 R391). -/
def submitComponent (t : Tenant) (j : KeJob) (s : State) : State :=
  match (s.page t).ke.session with
  | none => keResult t 7 s
  | some x =>
    match templateOf s t.val x.handle.toNat with
    | none => keResult t 5 s
    | some p =>
      let n := templateBytes s p.alg.toNat p.size
      let c := componentBytes s j n
      if x.comps.length ≥ x.ncomp then keResult t 5 s
      else if j.mixed || x.idents.contains j.ident then keResult t 6 s
      else if kcvBits (keyKcv p.alg.toNat (keyForm p.alg.toNat c) []) = j.kcv then
        keResult t 1 ((s.updKe t fun e =>
          { e with session := some { x with comps := x.comps ++ [c], compSym := x.compSym ++ [symbolsOf c], idents := x.idents ++ [j.ident] } }).draw (n - 64))
      else keResult t 4 (s.draw (n - 64))

/-- The accepted components, as their words deliver them (01 R31). -/
def KeSession.components (x : KeSession) : List Bytes := x.comps.mapIdx fun i c => readWords c (x.compSym.getD i [])

/-- FINISH: the components are combined and compared, and the record is to be committed (09 R391); a cache-only template's
key enters the receiving partition. -/
def finishSession (t : Tenant) (j : KeJob) (s : State) : State :=
  match (s.page t).ke.session with
  | none => keResult t 7 s
  | some x =>
    let h := x.handle.toNat
    match templateOf s t.val h with
    | none => keResult t 5 s
    | some p =>
      let n := templateBytes s p.alg.toNat p.size
      let v := keyForm p.alg.toNat (x.components.foldl xorBytes (fillBytes n 0))
      if x.comps.length < x.ncomp then keResult t 5 s
      else if kcvBits (keyKcv p.alg.toNat v []) ≠ j.kcv then
        keResult t 4 (s.updKe t fun e => { clearEntry e with session := some { x with comps := [], compSym := [], idents := [] } })
      else
        let s := s.updKe t fun e => { clearEntry e with session := none }
        let r := newRecord s p h v [] p.exp
        if (recordNo s t.val h).isNone then keResult t 2 (receiveSlot (recordSlot r .receiving (s.now + 1)) s)
        else s.updKs fun k => { k with commits := k.commits ++ [{ Commit.reset with record := r, ke := true, replace := x.replace }] }

/-- The key that a handle of a cache-only template holds in the receiving partition, which only an invalidation or a reset ends (09 Table
09-7). -/
def receivedKey (s : State) (t h : Nat) : Option CacheSlot :=
  if (recordNo s t h).isSome then none else (cached s t h).filter fun c => c.part == .receiving

/-- Whether INVALIDATE may name a handle: an occupied record, a received key or a configured node that resolves, neither pending nor in
an open session (09 R399, Table 09-7; log entry 94). -/
def mayInvalidate (s : State) (t : Tenant) (h : Nat) : Bool :=
  let p := (t.val, BitVec.ofNat 20 h)
  !s.ks.pendingH.contains p && !s.ks.invalid.contains p && !s.ks.invalNext.contains p &&
    (if isRecordHandle h then (recordOf s t.val h).isSome || (receivedKey s t.val h).isSome
     else match nodeOf s t.val h with
       | some (i, _) => !nodeInvalid s 8 i
       | none => false)

/-- A node enters the invalidation list (09 R399). -/
def listNode (t : Tenant) (h : Nat) (s : State) : State :=
  match nodeOf s t.val h with
  | some (i, n) => keResult t 3 (s.updStore fun a => { a with inval := addNew (i, labelDigest n) a.inval })
  | none => keResult t 3 s

/-- The list entry of an invalidation waits its turn: behind an operation under way, or as the operation under way. -/
def waitForList (j : KeJob) (e : KeyEntry) : KeyEntry :=
  if e.job.isSome then { e with heldOps := e.heldOps ++ [j] } else { e with job := some j }

/-- INVALIDATE (09 R399): the handle stops resolving at the next boundary, and a tomb or a list entry is written; a received key leaves
nothing to write. The entry waits while the NVM takes no program, and while the Custody processor restarts (13 R506; 01 R47).
A tomb has no value and the attributes of the record it ends (DESIGN CHOICE, log entry 109). -/
def invalidateHandle (t : Tenant) (j : KeJob) (s : State) : State :=
  let h := keHandle j.value
  if !rootHere s then keResult t 12 s
  else if !mayInvalidate s t h then keResult t 5 s
  else if !isRecordHandle h ∧ s.store.inval.length ≥ 65536 then keResult t 11 s
  else
    let s := s.updKe t fun e => { e with handle := BitVec.ofNat 20 h }
    let s := s.updKs fun k =>
      { k with inval := satInc 0xFFFF k.inval, invalNext := addNew (t.val, BitVec.ofNat 20 h) k.invalNext }
    if isRecordHandle h then
      match recordOf s t.val h with
      | some r =>
        s.updKs fun k =>
          { k with commits := k.commits ++ [{ Commit.reset with record := { r with tomb := true, value := [], pub := [] }, ke := true }] }
      | none => keResult t 3 s
    else if s.pwr.nvmLow || !procWorks s 0 then s.updKe t (waitForList { j with op := 6 })
    else listNode t h s

/-- Perform an operation. The internal operation 6 is the list entry of an invalidation made while the NVM took no
program or the Custody processor was restarting. -/
def performKe (t : Tenant) (j : KeJob) (s : State) : State :=
  if j.op = 1 then startSession t j.value s
  else if j.op = 2 then submitComponent t j s
  else if j.op = 3 then finishSession t j s
  else if j.op = 5 then invalidateHandle t j s
  else if j.op = 6 then listNode t (keHandle j.value) s
  else s

/-- CANCEL (09 R391). -/
def cancelSession (t : Tenant) (s : State) : State :=
  if (s.page t).ke.session.isNone then keResult t 7 s
  else
    let s := s.updKe t fun e => { e with job := e.job.filter fun j => j.op ≠ 2 ∧ j.op ≠ 3 }
    keResult t 9 (endSession t s)

/-- Whether KS can work on key entry now (12 R476, R478). -/
def keWorks (s : State) : Bool := !isRestarting s 6 && !s.locked

/-- The operation a write of TN_KE_CTRL asks for, with the registers as they stand (09 R391). -/
def keJobOf (i : Ident) (t : Tenant) (v : BitVec 64) (s : State) : KeJob :=
  let e := (s.page t).ke
  { op := keOp v, value := v, kcv := e.kcv, data := readWords (wordsToBytes e.data) e.dataSym, ident := i,
    mixed := e.wMixed || e.wIdent.any (· ≠ i), tick := s.now }

/-- A session sees an accepted write (09 R391). -/
def touchSession (now : Nat) (e : KeyEntry) : KeyEntry := { e with session := e.session.map fun x => { x with lastTick := now } }

/-- A write of TN_KE_CTRL (09 R391, R399; 13 R501). An operation waits while a caution holds it, and behind one that waits
or runs. -/
def writeKeCtrl (i : Ident) (t : Tenant) (v : BitVec 64) (s : State) : State :=
  let j := keJobOf i t v s
  if j.op = 0 ∨ j.op > 5 then s
  else
    let s := s.updKe t fun e => touchSession s.now (clearEntry e)
    let e := (s.page t).ke
    let wait := s.pwr.keHeld || !e.heldOps.isEmpty || !keWorks s
    let s :=
      if j.op = 4 then cancelSession t s
      else if wait || (j.op ≠ 5 && (e.job.isSome || keCommitting s t)) then
        s.updKe t fun e => { e with heldOps := e.heldOps ++ [j] }
      else if j.op = 1 ∨ j.op = 5 then performKe t j s
      else s.updKe t fun e => { e with job := some j }
    showKe t s

/-- The first operation that waits is started once nothing holds it: under a caution, only one written before its boundary (13 R501,
R503). -/
def startNextKe (t : Tenant) (s : State) : State :=
  let e := (s.page t).ke
  match e.heldOps with
  | [] => s
  | j :: rest =>
    if (s.pwr.keHeld && decide (s.pwr.heldSince < j.tick)) || e.job.isSome || keCommitting s t then s
    else s.updKe t fun e => { e with job := some { j with tick := s.now }, heldOps := rest }

/-- The operation under way ends: its result is posted, and the next one starts (09 R391). -/
def postKeResult (t : Tenant) (s : State) : State :=
  let s := startNextKe t s
  match (s.page t).ke.job with
  | none => s
  | some j =>
    if !keWorks s || (j.op = 6 && (s.pwr.nvmLow || !procWorks s 0)) then s
    else showKe t (startNextKe t (performKe t j (s.updKe t fun e => { e with job := none })))

/-- Ticks after which a session without an accepted write ends (09 R391). -/
def sessionLimit : Nat := 268435456

/-- A session has seen no accepted write for too long (09 R391). -/
def timeoutSession (t : Tenant) (s : State) : State :=
  match (s.page t).ke.session with
  | none => s
  | some x =>
    let e := (s.page t).ke
    if s.now ≥ x.lastTick + sessionLimit ∧ e.job.isNone ∧ e.heldOps.isEmpty then showKe t (keResult t 8 (endSession t s)) else s

/-- A write of TN_KE_KCV (09 Table 09-19). -/
def writeKeKcv (i : Ident) (t : Tenant) (v : BitVec 32) (s : State) : State :=
  s.updKe t fun e => touchSession s.now { e with kcv := v.extractLsb' 0 24, wMixed := e.wMixed || e.wIdent.any (· ≠ i) }

/-- A write of TN_KE_DATAn: its word takes its check symbols here (01 R27; 09 R391, Table 09-19). -/
def writeKeData (i : Ident) (t : Tenant) (n : Fin 8) (v : BitVec 64) (s : State) : State :=
  s.updKe t fun e =>
    touchSession s.now
      { e with data := e.data.set n v, dataSym := symbolsOf (wordsToBytes (e.data.set n v)), wIdent := some (e.wIdent.getD i), wMixed := e.wMixed || e.wIdent.any (· ≠ i) }

/-- TN_KE_STAT (09 Table 09-20). -/
def readKeStat (t : Tenant) (s : State) : BitVec 64 :=
  let e := (s.page t).ke
  place e.state.toNat 28 ||| place e.result.toNat 24 ||| place ((e.session.map fun x => x.comps.length).getD 0) 22 |||
    place e.handle.toNat 0

/-! ### Record writes -/

/-- Copies of a key that a new record supersedes: requests whose transfer is still to come lose an invalidated key, the
others keep the value they pin (09 R392, R399). -/
def supersedeCopies (t : Nat) (h : BitVec 20) (s : State) : State :=
  let mine := fun (c : CacheSlot) => c.tenant = t && c.handle == h
  let late := s.reqs.filter fun r =>
    (s.ks.cache.any fun c => mine c && c.pins.contains r.rid) && !r.carried.contains h && s.ks.invalid.contains (t, h)
  let s := late.foldl (fun s r => failRequest r.rid 0x14 0 s.now s) s
  s.updKs fun k =>
    { k with invalid := k.invalid.filter fun p => p ≠ (t, h),
             cache := k.cache.flatMap fun c => if mine c then retireSlot c else [c] }

/-- A committed record becomes resident where the configuration lists it, and a generated pair stays in the cache (07 R322,
09 R377). -/
def cacheCommitted (c : Commit) (r : StoreRec) (s : State) : State :=
  let p := (r.tenant, r.handle)
  if s.image.residents.contains p then
    let x := recordSlot r .resident (s.now + 1)
    let s := cachePut x s
    if slotCounts s x then addCounter s x else s
  else if c.cached then cachePut (recordSlot r .pool (s.now + 1)) s else s

/-- Who waits for a commit hears of its success: key entry, or the request, whose auxiliary field an import fills with the
KCV (07 R322, 09 R391, R393, R396, R399). -/
def answerCommit (c : Commit) (r : StoreRec) (s : State) : State :=
  let t := tenantFin r.tenant
  let s := if c.ke then
      keResult t (if r.tomb then 3 else 2) (if r.tomb then s else unpend r.tenant r.handle.toNat s)
    else s
  match c.rid with
  | none => s
  | some rid =>
    s.updReq rid fun q =>
      let aux := if Desc.op q.desc = 0x0700 then beBytes 3 r.kcv.toNat else []
      { q with stage := .running }.done { StepResult.done q.step.output with aux := aux } s.now

/-- The record of a write as it is sealed: the next sequence, the generation in force, a drawn IV (09 R386). -/
def sealed (c : Commit) (s : State) : StoreRec :=
  hashed s { c.record with seq := s.ks.seq + 1, gen := s.ks.gen, iv := drawnBytes s.drawn 12 }

/-- A record that stands in the store is counted and reported (09 R387); during a rotation a record of a copied block
is written to the new area too (09 R403). -/
def countCommit (c : Commit) (r : StoreRec) (s : State) : State :=
  let sq := r.seq
  let s := if s.ks.rot ≠ 0 ∧ r.recno / 4096 < s.ks.rotBlock then copyRewrapped r s else s
  let s := (s.updKs fun k => { k with seq := sq, commits := k.commits.drop 1 }).updAon fun a => { a with storeCounter := sq }
  let s := if r.tomb then s else cacheCommitted c r (supersedeCopies r.tenant r.handle s)
  let s := answerCommit c r s
  if c.ke then showKe (tenantFin r.tenant) (startNextKe (tenantFin r.tenant) s) else s

/-- A record write has been read back: it is indexed, counted and reported (09 R387). -/
def commitRecord (c : Commit) (s : State) : State :=
  countCommit c (sealed c s) (((s.updEn (takeBuf 12)).draw 12).updStore fun a => a.put (sealed c s))

/-- The shadow of a replacement has been verified: it stands in the heap, and both copies of the journal are written; the old record
stays in force (09 R392). -/
def openJournal (c : Commit) (s : State) : State :=
  let r := sealed c s
  let old := ((s.store.recs.find? fun x => x.recno = r.recno).map StoreRec.off).getD 0
  let j : Journal := { recno := r.recno, oldOff := old, newOff := s.store.heapUsed / 64, seq := r.seq }
  (((s.updEn (takeBuf 12)).draw 12).updStore fun a => a.append r).updNvm (Nvm.setJournal (some j))

/-- The index entry of a journalled replacement is written and the journal cleared; the write is counted and reported
(09 R387, R392). -/
def closeJournal (c : Commit) (s : State) : State :=
  match s.nvm.journal.bind s.store.shadow with
  | none => s
  | some r => countCommit c r ((s.updStore fun a => a.index r).updNvm (Nvm.setJournal none))

/-- A record write has failed for good: result 10, or the status for the request (09 R387; 16 R576). -/
def dropCommitAs (status : Nat) (source : BitVec 16) (c : Commit) (s : State) : State :=
  let r := c.record
  let t := tenantFin r.tenant
  let s := s.updKs fun k => { k with commits := k.commits.drop 1 }
  let s := if c.ke then
      let s := keResult t 10 (if r.tomb then s else unpend r.tenant r.handle.toNat s)
      showKe t (startNextKe t s)
    else s
  match c.rid with
  | none => s
  | some rid => failRequest rid status source s.now s

/-- A record write has failed for good: result 10, or `INTERNAL` for the request (09 R387; 16 R576). -/
def failCommit (c : Commit) (s : State) : State := (dropCommitAs 0x3F (freeReport s.drawn) c s).draw 1

/-- The IV of the record write at the head is refused: its request ends with `NO_ENTROPY` (10 R426, Table 10-2; log entry 118). -/
def refuseCommit (s : State) : State :=
  match s.ks.commits with
  | [] => s
  | c :: _ => dropCommitAs 0x30 0 c (s.updEn fun e => { e with noentIv := satInc 0xFFFF e.noentIv })

/-- Whether the write at the head only closes its journal, and draws nothing (09 R392). -/
def closesJournal (s : State) : Bool :=
  match s.ks.commits with
  | [] => true
  | c :: _ => c.replace && (s.nvm.journal.bind s.store.shadow).isSome

/-- The record write at the head of the queue ends an attempt (09 R387): one whose read-back fails is appended again, at
most three times, and one that finds no room in the heap fails (16 R576). A replacement takes two writes, the second of which closes
its journal (09 R392). -/
def endCommit (good : Bool) (s : State) : State :=
  match s.ks.commits with
  | [] => s
  | c :: rest =>
    if c.replace && (s.nvm.journal.bind s.store.shadow).isSome then (if good then closeJournal c s else nvmFailed s)
    else if s.store.heapUsed + recordSize c.record > heapBytes s then failCommit c s
    else if good then (if c.replace then openJournal c s else commitRecord c s)
    else
      let s := (nvmFailed s).updStore fun a => { a with heapUsed := a.heapUsed + recordSize c.record }
      if c.tries ≥ 3 then failCommit c s
      else s.updKs fun k => { k with commits := { c with tries := c.tries + 1 } :: rest }

/-! ### Misses -/

/-- A missed key is no longer to come: the slots taken for it are free for it, and the levels that were run for it are used up. -/
def settleMiss (rid levels : Nat) (h : BitVec 20) (s : State) : State :=
  s.updReq rid fun r => { r with misses := r.misses.filter (· ≠ h), missRun := r.missRun - levels }

/-- A key comes into the cache for a request that missed it, in the slots that its admission took: it is pinned; where the pool has lost
them since, it is still awaited (09 R382). `nodes` levels of the tree count as derived on a miss. -/
def bringKey (rid levels nodes : Nat) (c : CacheSlot) (s : State) : State :=
  let s := cachePut { c with pins := [rid], lastUse := s.ks.useSeq } (settleMiss rid levels c.handle s)
  let s := s.updKs fun k => { k with miss := satAdd 0xFFFF k.miss nodes, useSeq := k.useSeq + 1 }
  if s.ks.cache.any fun x => x.tenant = c.tenant && x.handle == c.handle && x.pins.contains rid then s
  else s.updReq rid fun r => { r with misses := r.misses ++ [c.handle] }

/-- The first tick in which a key that misses have brought can be carried: its levels ended in an earlier tick, so that it is there in this
tick where the tick has run no slot yet (02 R68, R69). -/
def missAvail (s : State) : Nat := if s.tt.slot = 0 then s.now else s.now + 1

/-- The value that a cut-over replaced and that a request's missed key still has: it can be carried from the next tick on
(09 R400). -/
def bringOld (rid levels : Nat) (h : BitVec 20) (s : State) : State :=
  (settleMiss rid levels h s).updKs fun k =>
    { k with miss := satAdd 0xFFFF k.miss levels,
             cache := k.cache.map fun c => if c.old && c.handle == h && c.pins.contains rid then { c with avail := missAvail s } else c }

/-- Whether a cut-over has kept the replaced value of a node for a request that missed it (09 R400). -/
def keptOld (s : State) (r : Request) (h : BitVec 20) : Bool :=
  s.ks.cache.any fun c => c.old && c.tenant = r.tenant && c.handle == h && c.pins.contains r.rid

/-- A missed node of a through platform's request has been derived: into the platform's miss share, or the pool for a request over
rate (09 R382, R383). -/
def deriveMiss (r : Request) (s : State) (h : BitVec 20) : State :=
  if keptOld s r h then bringOld r.rid 1 h s
  else match nodeOf s r.tenant h.toNat with
  | none => s
  | some (i, n) => bringKey r.rid 1 1 (nodeSlot s i n (if r.rate = .inRate then .miss else .pool) r.plat (missAvail s)) s

/-- A key missed by a freight request: a node with every missing level above it, or a record of the store, which has been unwrapped and
whose hash is checked (09 R384). -/
def loadMiss (r : Request) (s : State) (h : BitVec 20) : State :=
  let n := missLevels s r h
  if keptOld s r h then bringOld r.rid n h s
  else if isRecordHandle h.toNat then
    match recordOf s r.tenant h.toNat with
    | none => s
    | some x =>
      if recordGood s x then bringKey r.rid n 0 { recordSlot x .pool (missAvail s) with tenant := r.tenant, handle := h } s
      else failRequest r.rid 0x3F (srcCache 28) s.now (faultReport (srcCache 28) 0 s)
  else
    match nodeOf s r.tenant h.toNat with
    | none => s
    | some (i, x) => bringKey r.rid n n (nodeSlot s i x .pool r.plat (missAvail s)) s

/-- The missed keys of a request whose levels its platform's, or idle, derivation entries have all run by the start of the tick (02 R69, R94; 09 R383, R384). -/
def dueMisses (s : State) (r : Request) : List (BitVec 20) := coveredMisses (missLevels s r) r.missRun r.misses

/-! ### Rotation and marks -/

/-- Whether the Custody processor can write the NVM now (13 R506; 12 R479). -/
def custodyWrites (s : State) : Bool := procWorks s 0 && !s.pwr.nvmLow && !s.locked && s.nvm.present

/-- A rotation starts: the other area is empty, and the running hash is 48 bytes of zero (09 R402). -/
def startRotation (seq : Nat) (s : State) : State :=
  let s := (s.updOtherStore fun _ => StoreArea.reset).updNvm fun n => { n with rotCkpt := none, rotTo := !n.ksArea }
  loadSystem <| s.updKs fun k =>
    { k with rot := 1, ckpt := 0, rotBlock := 0, rotLevels := 0, rotHalf := 0, rotLog := [], rotHash := fillBytes 48 0, rotSeq := some (BitVec.ofNat 16 seq) }

/-- A block is copied under the next generation, hashed and checkpointed; one whose checkpoint or copy does not read back is written
again, without its checkpoint (09 R402). -/
def copyBlock (good : Bool) (s : State) : State :=
  let j := s.ks.rotBlock
  let s := (liveIn s j).foldl (fun s r => copyRewrapped r s) s
  let s := s.updKs fun k => { k with rotLevels := 0 }
  if !good then nvmFailed s
  else
    let h := sha384 (s.ks.rotHash ++ blockDigest s s.otherStore j)
    let s := s.updNvm fun n => { n with rotCkpt := some (j, h, s.ks.seq) }
    s.updKs fun k => { k with rotHash := h, ckpt := j, rotBlock := j + 1, rot := if j ≥ 255 then 2 else 1 }

/-- Whether a record of the new area unwraps, verifies and agrees with the old one: value, sequence, check value, attributes (09 R402). -/
def copyAgrees (s : State) (old new : StoreRec) : Bool :=
  indexGood new && !new.tomb && recordGood s new &&
    { new with off := old.off, crc := old.crc, gen := old.gen, iv := old.iv, hash := old.hash } == old

/-- Whether every live record stands in the new area as in the old one (09 R402). -/
def rotationVerified (s : State) : Bool :=
  (s.store.recs.filter fun r => !r.tomb && indexGood r).all fun r =>
    s.otherStore.recs.any fun x => x.recno = r.recno && copyAgrees s r x

/-- The pointer record that a flip writes: the other area, the next generation, the sequence raised by 1 (09 R404). -/
def nextPointer (s : State) : KsPtr := ksPtr (s.nvm.ksPtrSeq + 1) (!s.nvm.ksArea) (s.ks.gen + 1) s.ks.seq

/-- Copy 0 of the pointer is written; the invalidation list stands in the new area before it (09 R399, R404). -/
def writePointer0 (s : State) : State :=
  let list := s.store.inval
  (s.updOtherStore fun a => { a with inval := list }).updNvm (putKsPtr false (nextPointer s))

/-- Both copies of the pointer name the new area and generation (09 R404). -/
def flipPointer (s : State) : State :=
  let p := nextPointer s
  let s := (writePointer0 s).updNvm fun n =>
    { putKsPtr true p n with ksPtrSeq := p.seq, ksArea := p.area, ksGen := p.gen, ksSeq := p.sseq, rotCkpt := none }
  let q := s.ks.rotSeq
  let s := loadSystem <| s.updKs fun k =>
    { k with area := s.nvm.ksArea, gen := s.nvm.ksGen, rot := 0, ckpt := 0, rotBlock := 0, rotLevels := 0, rotHalf := 0, rotLog := [],
             rotHash := [], rotSeq := none }
  let s := assertBlk 15 s
  match q with
  | none => s
  | some n => reply none 0x0203 n.toNat 0 [] s

/-- The Custody processor moves a mark one step on once the counter is within 2^19 of it (04 R191; 16 R579). -/
def advanceMark (v : IvCtr) (s : State) : State :=
  if v.c + 524288 < v.mark then s
  else
    (updIv v.tenant v.handle.toNat (fun x => { x with mark := x.mark + 1048576 }) s).updNvm
      (putMark v.tenant v.handle (markBase s v.tenant v.handle + 1))

/-- Registers of the custody station (09 Tables 09-13 to 09-17). -/
def readKsStatus (s : State) : BitVec 64 :=
  let k := s.ks
  place k.root.toNat 30 ||| place k.rot.toNat 28 ||| placeB k.area 27 ||| place (if k.rot = 0 then 0 else k.ckpt) 16 |||
    placeB s.nvm.journal.isSome 0

/-- TRH_KS_CACHE (09 Table 09-16). -/
def readKsCache (s : State) : BitVec 64 :=
  place s.image.residentSlots 48 ||| place s.image.reservedSlots 32 ||| place (slotsIn s fun c => c.part == .pool) 16 |||
    place s.image.poolSlots 0

/-- TRH_KS_EVENTS (09 Table 09-17). -/
def readKsEvents (s : State) : BitVec 64 :=
  place s.ks.miss 48 ||| place s.ks.evict 32 ||| place s.ks.inval 16 ||| place s.ks.impFail 0

end Sys2Proof.Machine
end

