-- ==== Sys2Proof/Machine/StartOps.lean ====
section
/-! DEFINITION. Resets and start-up: root and resident keys, the stages of Table 16-13 (09 R365 to R371, R388, R402, R404,
R405; 15 R541 to R545; 16 R574, R586 to R590; 18 R624, R625). -/
namespace Sys2Proof.Machine

/-! ### Resets -/

/-- Rails as a reset leaves them: TARGET at the factory floor for 1.25 GHz, from its least value on (13 R496, Table 13-12). -/
def floorRails (s : State) : Vector Rail 8 :=
  let t := max 600 (min 780 (5 * ceilDiv (calFactory s 0x38).toNat 5))
  .replicate 8 { Rail.reset with target := t, goal := t }

/-- Reset of the NVM's view: the device keeps what it holds. -/
def keepNvm (n : Nvm) : Nvm := { n with present := false, sizeN := 0, errors := 0 }

/-- The main domain enters reset (18 R624, R625): everything but the always-on domain, the fuse rows and the attached NVM
takes its reset value. An OTP program under way is cut (18 R620). The life-cycle state as sensed stays known to the
always-on domain's responses. -/
def resetMain (s : State) : State :=
  let s := burnPart s
  { State.reset with pending := s.pending, drawn := s.drawn, aon := s.aon, otp := s.otp, nvm := keepNvm s.nvm,
                     pwr := { Power.reset with rails := floorRails s },
                     lc := { LifeCycle.reset with state := s.lc.state } }

/-- SCRAP holds the main domain in reset while the register port goes on answering (15 R542). -/
def resetScrap (s : State) : State :=
  { State.reset with pending := s.pending, drawn := s.drawn, aon := s.aon, otp := s.otp, nvm := keepNvm s.nvm,
                     pwr := { Power.reset with rails := floorRails s },
                     lc := s.lc, mainUp := s.mainUp }

/-! ### Root and store -/

/-- The store as a reroot leaves it: empty, with g = 1 and both copies of the pointer written (09 R404, R405). -/
def emptyStore (n : Nvm) : Nvm :=
  let p := ksPtr (n.ksPtrSeq + 1) n.ksArea 1 0
  { putKsPtr true p (putKsPtr false p (n.setJournal none)) with
    storeA := StoreArea.reset, storeB := StoreArea.reset, ksGen := 1, ksSeq := 0, ksPtrSeq := n.ksPtrSeq + 1, rotCkpt := none }

/-- Resident keys enter the cache; a record that fails its hash is reported and stays out until it can be loaded
(09 R384, R405). -/
def loadResidents (s : State) : State :=
  let bad := (residentRecords s).filter fun r => !recordGood s r
  let s := s.updKs fun k => { k with cache := k.cache.filter (fun c => c.part != .resident) ++ residentSlots s }
  bad.foldl (fun s r =>
    faultReport (srcCache 28) 0 (s.updKs fun k => { k with lost := addNew (r.tenant, r.handle) k.lost })) s

/-- Counters for the resident keys that have none (04 R188, R191). -/
def startCounters (s : State) : State :=
  let due := s.ks.cache.filter fun c => c.part == .resident && slotCounts s c && (ivOf s c.tenant c.handle.toNat).isNone
  s.updKs fun k => { k with ivs := k.ivs ++ due.map (newCounter s) }

/-- Counters for the keys that a reroot in service makes resident: their marks are written one by one (04 R188, R193; 16 R579). -/
def serviceCounters (s : State) : State :=
  (s.ks.cache.filter fun c => c.part == .resident && slotCounts s c).foldl addCounter s

/-- A reroot: a new BBK from the DRBG, the store counter at 0, an empty store, and every node derived anew (09 R405; 14
R530). -/
def reroot (s : State) : State :=
  let bbk := drawnBytes s.drawn 32
  let s := (s.updEn (takeBuf 32)).draw 32
  let s := s.updAon fun a => { a with bbk := some bbk, storeCounter := 0, rootClr := false }
  let s := s.updNvm emptyStore
  let s := s.updKs fun k =>
    { k with kr := some (deriveRoot bbk s.fds), root := 1, rot := 0, ckpt := 0, rotBlock := 0, rotLevels := 0, rotHalf := 0, rotLog := [],
             rotHash := [], rotSeq := none,
             gen := 1, seq := 0, cache := [], lost := [], pendingH := [], invalNext := [], invalid := [], commits := [] }
  let s := loadResidents (loadSystem s)
  s.updKs fun k =>
    { k with ivs := k.ivs.filter fun v => k.cache.any fun c => c.tenant = v.tenant && c.handle == v.handle && slotCounts s c }

/-- Highest store sequence in the active area (09 R388). -/
def storeHigh (s : State) : Nat := (s.store.recs.filter indexGood).foldl (fun m r => max m r.seq.toNat) 0

/-- The root state that a start finds (09 R405, R388; 14 R530; 15 R545): 1 READY, 2 ROOT_LOST, 3 STALE. -/
def rootState (s : State) : BitVec 2 :=
  if s.lc.state = 6 ∨ s.aon.aonLost ∨ s.aon.rootClr ∨ s.aon.bbk.isNone then 2
  else if storeHigh s < s.aon.storeCounter.toNat then 3 else 1

/-- Whether this start reroots without a request: in PROVISION (15 R544), and in TEST, whose test root is made the same way
(log entry 29). -/
def rerootsAtStart (s : State) : Bool := s.lc.state == 4 || s.lc.state == 2

/-- K_R at every start that has a BBK, K_F, and the system keys (09 R365, R366, R405). SEQ comes from the index of
the active area (DESIGN CHOICE, log entry 111). -/
def loadRoots (s : State) : State :=
  let root := rootState s
  loadSystem <| s.updKs fun k =>
    { k with root := root, kf := some (deriveFusedRoot s.fds), kr := s.aon.bbk.map fun b => deriveRoot b s.fds,
             area := s.nvm.ksArea, gen := s.nvm.ksGen, seq := BitVec.ofNat 64 (storeHigh s) }

/-- An open replacement journal rolls forward (09 R392). -/
def rollJournal (s : State) : State :=
  match s.nvm.journal.bind s.store.shadow with
  | none => s
  | some r => (s.updStore fun a => a.index r).updNvm (Nvm.setJournal none)

/-- An index entry whose CRC fails is treated as vacant, and a NOTE is recorded at start; the spec gives it no source (09 R385; log
entry 92). -/
def noteIndex (s : State) : State :=
  (s.store.recs.filter fun r => !indexGood r).foldl (fun s _ =>
    (logReport false (freeReport s.drawn) 0 { sev := 1, action := 0, window := 0, promoted := false } s).draw 1) s

/-- A rotation that a reset cut resumes at the block after its last checkpoint, once the records of copied blocks that were
written since have been copied again; one whose new area is in force has made its flip (09 R404). -/
def resumeRotation (s : State) : State :=
  match s.nvm.rotCkpt with
  | none => s
  | some (j, h, sq) =>
    if s.nvm.rotTo = s.nvm.ksArea then s.updNvm fun n => { n with rotCkpt := none } else
    let later := s.store.recs.filter fun r => decide (r.recno / 4096 ≤ j) && decide (r.seq.toNat > sq.toNat)
    let s := later.foldl (fun s r => copyRewrapped r s) s
    loadSystem <| s.updKs fun k => { k with rot := if j ≥ 255 then 2 else 1, ckpt := j, rotBlock := j + 1, rotHash := h }

/-- The epoch record moves forward, and with it every mark (16 R579). -/
def writeEpoch (s : State) : State := s.updNvm fun n => putEpoch (n.epoch + 1) n

/-- Whether the reroot of this start has its draw: until then the stage has not ended. It is
made only while the buffer holds 32 KiB (10 R421). -/
def rerootReady (s : State) : Bool := decide (s.en.fill ≥ 32768)

/-- Whether stage 4 of this start has to reroot (15 R544). -/
def needsReroot (s : State) : Bool := rerootsAtStart s && rootState (s.updNvm takePointer) != 1

/-- Stage 4 (16 Table 16-13): pointer, journal, marker, roots, store, reroot, residents, counters, epoch, an interrupted rotation. -/
def loadRoot (s : State) : State :=
  let s := noteIndex (loadRoots (readMarker (rollJournal (s.updNvm takePointer))))
  let s := if rerootsAtStart s && s.ks.root != 1 then reroot s else if s.ks.root = 1 then loadResidents s else s
  let s := writeEpoch (startCounters s)
  if s.ks.root = 1 then resumeRotation s else s

/-! ### Stages -/

/-- A start that keeps the rings closed (15 R543; 16 R574, R585, R590): the Custody processor still reads the marker and
derives K_F, and where the part has a root and an NVM it takes its root state (14 R530; 09 R366, R405). -/
def closeStart (cause : Nat) (s : State) : State :=
  let s := s.updCfg fun c => { c with stage := stageUnconfigured, unconf := true, cause := BitVec.ofNat 8 cause, bank0 := none }
  let s := readMarker s
  let s := if s.nvm.present && !ringless s then loadRoots (s.updNvm takePointer)
    else loadSystem <| s.updKs fun k =>
      { k with kf := some (deriveFusedRoot s.fds), root := if ringless s then 0 else if rootState s = 2 then 2 else 0 }
  if !s.nvm.present then noteLoss s
  else if s.pwr.nvmLow then s.updCfg fun c => { c with logWaits := true } else verifyLog s

/-- What follows fuse sense and NVM bring-up (15 R542, R543; 16 R574). -/
def stageOne (s : State) : State :=
  if s.lc.state = lcScrap then s
  else if ringless s then closeStart 0 s
  else if !s.nvm.present then closeStart 1 s
  else s.updCfg fun c => { c with stage := 2, area := s.nvm.imgPtr.area }

/-- Cold start: the main domain is released, fuses are sensed, and an interrupted transition is rolled forward before the
start goes on (15 R541, R548, R555; 16 R574; 18 R624). `size` is the density code that SFDP gives; codes above 4 lie outside
Table 16-1. -/
def release (size : Option Nat) (s : State) : State :=
  let s := { s with mainUp := true }
  let s := s.updAon fun a => { a with zeroise := false, resp := 0, mirrorBad := false }
  let s := s.updNvm fun n =>
    { takeBoot n with
      present := (size.map fun c => decide (c ≤ 4)).getD false, sizeN := (size.map fun c => if c ≤ 4 then c else 0).getD 0 }
  let s := senseAtStart s
  if s.lc.burning = 0 then stageOne s else s

/-- Stage 2 ends: the image of the area is in bank 0 of every owner (16 R586). -/
def readImage (good : Bool) (s : State) : State :=
  let b := if good then imageIn s s.cfg.area else []
  s.updCfg fun c => { c with stage := 3, image := b, bank0 := some (parseImage b) }

/-- The image is accepted: its hash, sequence and identity map are in force, patches and curves are loaded (16 R582, R584,
R586, R588). -/
def acceptImage (s : State) : State :=
  let b := s.cfg.image
  let s := s.updCfg fun c => { c with stage := 4, seq := s.image.seq, hash := sha384 b, mapOn := true, unconf := false }
  let m := s.image
  let s := { s with procs := Vector.ofFn fun (i : Fin 3) => { s.procs[i] with patch := patchFor m i.val } }
  submitImageCurves s

/-- Stage 3 (16 R585, R589): a refused image leads to the other area, and two refused images to a closed start whose cause is
that of the area in force. -/
def checkImage (s : State) : State :=
  let c := startCause s s.cfg.image
  if c = 0 then acceptImage s
  else if s.cfg.fallback then closeStart s.cfg.cause.toNat (s.updCfg fun x => { x with area := s.nvm.imgPtr.area, fallback := false })
  else
    s.updCfg fun x => { x with stage := 2, fallback := true, cause := BitVec.ofNat 8 c, area := !x.area, bank0 := none }

/-- Lanes that fail their known-answer tests are retired, and their positions are mapped before the first tick (01 R38; 16
R587). -/
def settleFailures (s : State) : State :=
  let s := settleRetirements s
  let s := s.flt.takeovers.foldl takeOver s
  s.flt.switches.foldl (fun s x => switchContingency x s) s

/-- Stage 5 (16 Table 16-13): known-answer tests, and the tamper log verified and mirrored. A lane that fails is reported, and retired
whatever the severity of its report (01 R38). The proofs of this stage make no records of their own (log entry 30). -/
def runTests (failed : List (Nat × Nat)) (s : State) : State :=
  let s := failed.foldl (fun s x =>
    let c := sourceId (x.1 / 8) (x.1 % 8) x.2 8
    if isLaneSource c then retireLane x.1 x.2 c (faultReport c 0 s) else s) s
  (verifyLog (settleFailures s)).updCfg fun c => { c with stage := 6 }

/-- The rings open at a period boundary: the timetable starts with full buckets, and recorded doorbells take effect (02 R65,
R73; 03 R122; 12 R472; 16 R586). -/
def openRings (s : State) : State :=
  let s := s.updTt fun t =>
    let plats := Vector.ofFn fun (i : Fin 1024) =>
      let p := s.image.plats.getD i.val PlatEntry.reset
      { t.plats[i] with level := if p.kind = 1 then p.burst * oneToken else 0 }
    { t with started := true, plats := plats, shown := plats, slot := 0 }
  let s := s.updFlt fun f => { f with toggling := true, alive := bitAt s.tick 1 }
  let s := s.updCfg fun c => { c with stage := 7, ready := s.tick }
  let s := s.mapPages fun p => { p with rings := p.rings.map (settleRing (takesWork s)) }
  issueWrites (issueDescReads s)

end Sys2Proof.Machine
end

