-- ==== Sys2Proof/Machine/CustodyFamily.lean ====
section
/-! DEFINITION. Meanings of the key custody commands (04 R191; 09 R383 to R405). -/
namespace Sys2Proof.Machine

/-- A TN_KE_CTRL value with an OP. -/
def withOp (op : Nat) (v : BitVec 64) : BitVec 64 := (v &&& 0x0FFFFFFF) ||| place op 28

/-- A key's mark is written (04 R191). -/
def execIvMarkWrite (t : Tenant) (handle : Handle) (s : State) : Host.Outcome State Fault Refusal :=
  match ivOf s t.val handle.toNat with
  | none => ok s
  | some v => if custodyWrites s then ok (advanceMark v s) else ok s

/-- Missed nodes of a through platform's request whose 2 slots the platform's derivation entries have run, in the tick after its admission
or later, come into the cache (09 R383). -/
def execMissDerivation (rid : Nat) (s : State) : Host.Outcome State Fault Refusal :=
  match s.req? rid with
  | none => ok s
  | some r =>
    if r.rate = .freight ∨ s.now ≤ r.admitTick ∨ ¬ keWorks s ∨ !rootHere s then ok s
    else ok ((dueMisses s r).foldl (deriveMiss r) s)

/-- Keys missed by a freight request, which idle derivation entries have derived or unwrapped, come into the cache (09 R384). -/
def execFreightKeyLoad (rid : Nat) (s : State) : Host.Outcome State Fault Refusal :=
  match s.req? rid with
  | none => ok s
  | some r =>
    if r.rate ≠ .freight ∨ s.now ≤ r.admitTick ∨ ¬ keWorks s ∨ !rootHere s ∨
        (¬ procWorks s 0 ∧ r.misses.any fun h => isRecordHandle h.toNat) then ok s
    else ok ((dueMisses s r).foldl (loadMiss r) s)

/-- TN_KE_CTRL START (09 R391, R392). -/
def execStart (ident : Ident) (t : Tenant) (v : BitVec 64) (s : State) : Host.Outcome State Fault Refusal :=
  ok (pageWrite ident t 0x300 (writeKeCtrl ident t (withOp 1 v)) s)

/-- TN_KE_CTRL COMPONENT (09 R391). -/
def execComponent (ident : Ident) (t : Tenant) (v : BitVec 64) (s : State) : Host.Outcome State Fault Refusal :=
  ok (pageWrite ident t 0x300 (writeKeCtrl ident t (withOp 2 v)) s)

/-- TN_KE_CTRL FINISH (09 R391). -/
def execFinish (ident : Ident) (t : Tenant) (v : BitVec 64) (s : State) : Host.Outcome State Fault Refusal :=
  ok (pageWrite ident t 0x300 (writeKeCtrl ident t (withOp 3 v)) s)

/-- TN_KE_CTRL CANCEL (09 R391). -/
def execCancel (ident : Ident) (t : Tenant) (v : BitVec 64) (s : State) : Host.Outcome State Fault Refusal :=
  ok (pageWrite ident t 0x300 (writeKeCtrl ident t (withOp 4 v)) s)

/-- TN_KE_CTRL INVALIDATE (09 R399). -/
def execInvalidate (ident : Ident) (t : Tenant) (v : BitVec 64) (s : State) : Host.Outcome State Fault Refusal :=
  ok (pageWrite ident t 0x300 (writeKeCtrl ident t (withOp 5 v)) s)

/-- The key-entry unit posts the result of the operation under way (09 R391; 13 R503). -/
def execKeCompareResult (t : Tenant) (s : State) : Host.Outcome State Fault Refusal := ok (postKeResult t s)

/-- A key-entry session ends for want of an accepted write (09 R391). -/
def execKeSessionTimeout (t : Tenant) (s : State) : Host.Outcome State Fault Refusal := ok (timeoutSession t s)

/-- A record write ends an attempt (09 R387). The draw of its IV waits while the buffer holds less than 32 KiB; refused, it ends the write
(10 R421, R426). -/
def execKeyStoreCommit (good : Bool) (s : State) : Host.Outcome State Fault Refusal :=
  if !(custodyWrites s && keWorks s && rootHere s) then ok s
  else if closesJournal s || drawsNow 12 s.en then ok (endCommit good s)
  else if s.en.state = 3 then ok (refuseCommit s) else ok s

/-- Request 0x0203 (09 R402): refused with 0x83 while a rotation runs and with 0x85 while the root is not READY. -/
def execStorageKeyRotation (s : State) : Host.Outcome State Fault Refusal :=
  ok (onRequest 0x0203 (fun m s =>
    if m.payload ≠ 0 ∨ m.paylen ≠ 0 ∨ ¬ allZero m.params then answer m 0x82 s
    else if s.ks.rot ≠ 0 then answer m 0x83 s
    else if !rootHere s then answer m 0x85 s
    else startRotation m.seq (answer m 1 s)) s)

/-- A block of 4,096 records is copied once idle derivation entries have wrapped its records anew; whether it reads back is a free value
(09 R402; log entry 98). -/
def execRotationBlockCopy (s : State) : Host.Outcome State Fault Refusal :=
  if s.ks.rot = 1 ∧ s.ks.rotBlock ≤ 255 ∧ s.ks.rotLevels ≥ rotNeed s ∧ rootHere s ∧ custodyWrites s ∧ keWorks s then
    ok (copyBlock (Config.readsBack s.drawn) (s.draw 1))
  else ok s

/-- The new area has been verified, and the next copy of the pointer is written: copy 0, and once it stands copy 1, which ends the flip; a
reset may come between them (09 R402, R404; log entry 43). -/
def execPointerFlip (s : State) : Host.Outcome State Fault Refusal :=
  if s.ks.rot = 2 ∧ rootHere s ∧ custodyWrites s ∧ keWorks s ∧ rotationVerified s then
    ok (if s.nvm.ksPtr0 = nextPointer s then flipPointer s else writePointer0 s)
  else ok s

/-- Request 0x0204 (09 R405): only from ROOT_LOST or STALE, not in RETURN (15 R545), and refused while the entropy service is
EXHAUSTED (10 Table 10-2). It waits for its draw and for the NVM. -/
def execReroot (s : State) : Host.Outcome State Fault Refusal :=
  let refused := s.ks.root.toNat < 2 || s.lc.state == 6 || s.en.state == 3
  if !refused && (!rerootReady s || !custodyWrites s) && (nextMessage s).any (fun m => m.code == 0x0204) then ok s
  else
    ok (onRequest 0x0204 (fun m s =>
      if m.payload ≠ 0 ∨ m.paylen ≠ 0 ∨ ¬ allZero m.params then answer m 0x82 s
      else if refused then answer m 0x85 s
      else answer m 0 (assertBlk 15 (serviceCounters (reroot s)))) s)

end Sys2Proof.Machine
end

