-- ==== Sys2Proof/Machine/CutFamily.lean ====
section
/-! DEFINITION. Meanings of the amendment, install, handover and cut-over commands (16 R590 to R597; 12 R480; 09 R405). -/
namespace Sys2Proof.Machine

/-- Request 0x0207 of a configured block: an amendment (16 R591). -/
def execConfigurationAmendment (s : State) : Host.Outcome State Fault Refusal :=
  if s.cfg.stage = stageUnconfigured ∧ ¬ ringless s then ok s else ok (onRequest 0x0207 (startAmendment false) s)

/-- Request 0x0208: a firmware handover (16 R595). -/
def execFirmwareHandover (s : State) : Host.Outcome State Fault Refusal := ok (onRequest 0x0208 (startAmendment true) s)

/-- The image of the request has been transferred, written and read back, or the transfer has failed and is tried again
(08 R359; 16 R591). -/
def execAmendmentImageLoaded (payload : Option Bytes) (good : Bool) (s : State) : Host.Outcome State Fault Refusal :=
  if s.cfg.coState ≠ 1 ∨ s.locked then ok s
  else match payload with
    | none => ok (transferFailed s)
    | some b => if b.length ≠ s.cfg.coLen ∨ s.pwr.nvmLow then ok s else ok (loadAmendment b good s)

/-- Preparation ends: banks, keys and curves are in place, and the image pointer is written (16 R591). -/
def execAmendmentPrepared (good : Bool) (s : State) : Host.Outcome State Fault Refusal :=
  if s.cfg.coState ≠ 2 ∨ s.locked ∨ s.pwr.nvmLow then ok s else ok (prepareAmendment good s)

/-- Whether the fields of a 0x0207 that must be 0 are 0 (16 R590, R591). -/
def installFields (m : Msg) : Bool := m.payload == 0 && m.paylen == 0 && allZero (m.params.drop 12)

/-- The image goes into area A, the pointer is written, and the main domain makes a cold start (16 R590). -/
def installImage (b : Bytes) (good : Bool) (m : Msg) (s : State) : State :=
  if !installFields m then answer m 0x82 s
  else
    let s := s.updNvm (putImage false b)
    if !good then reply m.box m.code m.seq 2 (leBytes 1 0x0E) (nvmFailed s)
    else
      resetMain (s.updNvm fun n =>
        writeImgPtr { area := false, seq := n.imgPtr.seq + 1, imgSeq := BitVec.ofNat 32 (leAt b 12 4), length := b.length } n)

/-- Whether a management read has bursts to issue or under way (08 R342). -/
def mgmtReading (s : State) : Bool :=
  (s.fab.mgmt.any fun x => !x.write) || s.fab.bursts.any fun b => isMgmt b && !b.write && !b.dead

/-- The Registrar starts to move the image of a 0x0207 (08 R342; 11 R449; 16 R590). -/
def startInstall (m : Msg) (s : State) : State :=
  startRead 2 (leAt m.params 0 8) (leAt m.params 8 4) (s.updCfg fun c => { c with instBegun := true })

/-- Request 0x0207 of an unconfigured block: its image is moved by a management transfer, and installed (16 R590). A failed transfer is
tried again. -/
def execConfigInstall (payload : Option Bytes) (good : Bool) (s : State) : Host.Outcome State Fault Refusal :=
  match nextMessage s with
  | none => ok s
  | some m =>
    if m.code ≠ 0x0207 ∨ s.cfg.stage ≠ stageUnconfigured ∨ ringless s then ok s
    else if !s.cfg.instBegun ∧ rightBox m ∧ installFields m then ok (startInstall m s)
    else if s.cfg.instBegun ∧ mgmtReading s then ok s
    else
      let ended := s.updCfg fun c => { c with instBegun := false }
      match payload with
      | none => ok (transferFailed ended)
      | some b =>
        if b.length ≠ leAt m.params 8 4 ∨ s.pwr.nvmLow then ok s else ok (onRequest 0x0207 (installImage b good) ended)

/-- An inactive bank has been reloaded and read back: its owner may rearm (12 Table 12-7; 16 Table 16-14). -/
def execInactiveBankReload (owner : Fin 8) (good : Bool) (s : State) : Host.Outcome State Fault Refusal :=
  if !good || !s.cfg.bankBad.contains owner.val || !procWorks s 1 then ok s
  else
    ok (s.updCfg fun c =>
      let c := { c with bankBad := c.bankBad.filter (· ≠ owner.val) }
      { c with armed := if c.coState = 3 then armedBits c else c.armed })

/-- A processor with a changed patch has halted with its record for the boundary being tried (16 R596). -/
def execHandoverHalt (p : Fin 3) (s : State) : Host.Outcome State Fault Refusal :=
  if s.cfg.coState = 3 ∧ s.now + 256 = s.cfg.target ∧ s.procs[p].newPatch.isSome ∧ procWorks s p ∧ ¬ s.locked then
    ok (s.updProc p fun x => { x with halted := true })
  else ok s

/-- At p − 256 every owner and processor is tested (16 R592). A boundary whose test is late is not armed. -/
def execCutoverArmCheck (s : State) : Host.Outcome State Fault Refusal :=
  if s.cfg.coState = 3 ∧ s.cfg.target ≤ s.now + 256 ∧ ¬ s.locked then ok (armCheck s) else ok s

/-- Whether a contingency switch falls due for a lost position: the set in force has a contingency for the case, and no other is in force
(02 R101, R104, R105). -/
def switchesNow (s : State) (x : SwitchDue) : Bool :=
  let idx := s.image.groups.getD x.case 0
  idx != 0 && (s.tt.active == 0 || s.tt.active.toNat == idx)

/-- At p every owner switches (16 R593), unless a contingency switch that falls due there has no place in the new set, which cancels
the attempt (02 R104). The bursts of the tick follow under the windows in force (08 R351). -/
def execCutoverSwitch (s : State) : Host.Outcome State Fault Refusal :=
  if !cutDue s then ok s
  else
    let cases := dueCases s
    let groups := (s.nextImage?.map Image.groups).getD []
    let s := if cases.any fun x => switchesNow s x && groups.getD x.case 0 == 0 then cancelCutover s
      else cases.foldl (fun s x => switchContingency x s) (switchOwners s)
    ok (issueWrites (issueDescReads s))

/-- A processor handed over resumes within 128 ticks, or is reported (16 R596, R597). -/
def execHandoverResume (p : Fin 3) (good : Bool) (s : State) : Host.Outcome State Fault Refusal :=
  match s.procs[p].resuming with
  | none => ok s
  | some t =>
    let late := decide (s.now > t + 128)
    if !good && !late then ok s
    else
      let s := if late then faultReport (sourceId 7 4 p.val 21) 0 s else s
      if good then ok (assertBlk 5 (s.updProc p fun x => { x with resuming := none })) else ok s

/-- The Custody processor reloads or derives again a cache slot that an uncorrectable word took, and with it the system keys that are
missing (12 Table 12-7; log entry 95). -/
def execCacheSlotReload (t : Tenant) (handle : Handle) (s : State) : Host.Outcome State Fault Refusal :=
  if !procWorks s 0 || isRestarting s 6 || s.locked then ok s
  else
  let s := loadSystem s
  if !s.ks.lost.contains (t.val, handle) || !rootHere s then ok s
  else
    let back := fun (c : CacheSlot) (s : State) =>
      (cachePut c s).updKs fun k => { k with lost := k.lost.filter fun p => p ≠ (t.val, handle) }
    if isRecordHandle handle.toNat then
      match recordOf s t.val handle.toNat with
      | some r => if recordGood s r then ok (back (recordSlot r .resident (s.now + 1)) s) else ok (faultReport (srcCache 28) 0 s)
      | none => ok (s.updKs fun k => { k with lost := k.lost.filter fun p => p ≠ (t.val, handle) })
    else
      match nodeOf s t.val handle.toNat with
      | some (i, n) => ok (back (nodeSlot s i n .resident 0 (s.now + 1)) s)
      | none => ok (s.updKs fun k => { k with lost := k.lost.filter fun p => p ≠ (t.val, handle) })

end Sys2Proof.Machine
end

