-- ==== Sys2Proof/Machine/DumpOps.lean ====
section
/-! DEFINITION. Dumps (12 R488 to R491, Tables 12-12 and 12-13). The layout inside sections 2, 3, 4, 6 and 7 is the
model's (log entry 28). -/
namespace Sys2Proof.Machine

/-- A section: type, length, value padded to 8 bytes (12 Table 12-13). -/
def dumpSection (typ : Nat) (v : Bytes) : Bytes :=
  leBytes 2 typ ++ [0, 0] ++ leBytes 4 v.length ++ v ++ fillBytes ((8 - v.length % 8) % 8) 0

/-- A register as 8 bytes. -/
def regBytes (v : BitVec 64) : Bytes := leBytes 8 v.toNat

/-- A fault record (12 Table 12-5). -/
def faultBytes (r : FaultRec) : Bytes :=
  let flags := [r.proof, r.acked, r.action, r.superseded, r.promoted]
  let bits := (flags.zipIdx.map fun p => if p.1 then 2 ^ p.2 else 0).sum
  leBytes 8 r.tick ++ leBytes 2 r.source.toNat ++ leBytes 1 r.severity ++ leBytes 1 bits ++ leBytes 2 (min 0xFFFF r.count) ++
    leBytes 2 r.detail.toNat

/-- A timer: source, remaining ticks, action; zeros when it is free. -/
def timerBytes (s : State) (i : Nat) : Bytes :=
  match s.flt.timers.find? fun t => t.idx = i with
  | some t => leBytes 2 t.source.toNat ++ leBytes 4 (t.expires - s.now) ++ leBytes 2 t.action
  | none => fillBytes 8 0

/-- Staging chunks that the steps of a cipher or digest station take (08 R348). -/
def stagingUsed (s : State) (st : Nat) : Nat :=
  (s.reqs.map fun r => ((r.steps.filter fun x => x.station = st).map StepState.region).sum).sum

/-- Regions in use at a station: staging and hold chunks, operand blocks, cache slots. -/
def regionsUsed (s : State) (st : Nat) : Nat :=
  if st = 0 then s.cs[(0 : Fin 2)].holdUsed + stagingUsed s 0 else if st = 1 then s.cs[(1 : Fin 2)].holdUsed + stagingUsed s 1
  else if st = 2 ∨ st = 3 then stagingUsed s st
  else if st = 4 then s.vs.memUsed else if st = 5 then s.ss.memUsed
  else if st = 6 then slotsIn s (fun _ => true) + s.ks.system.length else 0

/-- A station: restart state, lane map of each engine, regions in use. -/
def stationBytes (s : State) (st : Nat) : Bytes :=
  let on := ((s.stations.toList[st]?).map fun x => x.restart.isSome).getD false
  leBytes 8 (if on then 1 else 0) ++ ((List.range 8).flatMap fun e => regBytes (laneMap s (8 * st + e))) ++ leBytes 8 (regionsUsed s st)

/-- The timetable's position (12 Table 12-13, type 0x0004). -/
def positionBytes (s : State) : Bytes :=
  leBytes 8 s.now ++ leBytes 8 (if s.cfg.bank then 1 else 0) ++ leBytes 8 s.tt.active.toNat ++
    leBytes 8 (if s.pwr.dclkLow then 1 else 0) ++ leBytes 8 (if s.cfg.coState = 4 then s.cfg.target else 0)

/-- A ring pair (12 Table 12-13, type 0x0005). -/
def ringBytes (r : Ring) : Bytes :=
  leBytes 2 r.sqHead.toNat ++ leBytes 2 r.sqTail.toNat ++ leBytes 2 r.cqHead.toNat ++ leBytes 2 r.cqTail.toNat ++
    leBytes 4 (readRingCfg r).toNat ++ leBytes 4 (readRingStat r).toNat

/-- Code of a partition, in the order of 09 Table 09-7, in which the system partition is 0. -/
def partCode : Partition → Nat
  | .resident => 1
  | .receiving => 2
  | .miss => 3
  | .pool => 4

/-- A key cache slot without its key (12 R489; Table 12-13, type 0x0006). -/
def slotBytes (c : CacheSlot) : Bytes :=
  leBytes 1 c.tenant ++ leBytes 4 c.handle.toNat ++ leBytes 1 (partCode c.part) ++ leBytes 1 (slotsFor c.value.length) ++
    leBytes 1 (if c.pins.isEmpty then 0 else 1)

/-- A slot of the system partition without its key: a system node has no handle, and is never evicted (09 R371; log entry 95). -/
def systemBytes (x : SystemKey) : Bytes := leBytes 1 x.tenant ++ leBytes 4 0xFFFFFFFF ++ leBytes 1 0 ++ leBytes 1 1 ++ leBytes 1 0

/-- TRH_PWR_STN of a rail. -/
def railBytes (s : State) (i : Nat) : Bytes := regBytes (readPwrStn (s.updMgmt fun m => { m with stnSel := BitVec.ofNat 3 i }))

/-- The sections of a dump (12 Table 12-13). -/
def dumpSections (s : State) : Bytes :=
  let f := s.flt
  dumpSection 1 ((f.queue ++ f.recent.filter fun x => decide (x.tick + 4096 > s.now)).flatMap faultBytes) ++
  dumpSection 2 (regBytes (readFltFirst s) ++ regBytes f.fTick ++ regBytes (readFltCount s) ++ regBytes (readFltEsc s) ++
    (List.range 16).flatMap (timerBytes s)) ++
  dumpSection 3 ((List.range 7).flatMap (stationBytes s)) ++
  dumpSection 4 (positionBytes s) ++
  dumpSection 5 ((allRings s).flatMap fun p => ringBytes p.2) ++
  dumpSection 6 (s.ks.system.flatMap systemBytes ++ s.ks.cache.flatMap slotBytes) ++
  dumpSection 7 (regBytes (readPwrStatus s) ++ regBytes (readPwrVcore s) ++ regBytes (readPwrCaution s) ++
    (List.range 8).flatMap (railBytes s)) ++
  dumpSection 255 []

/-- A dump: its header with the digest, and its sections (12 R490, Table 12-12). -/
def dumpBytes (s : State) (st tick seq : Nat) : Bytes :=
  let body := dumpSections s
  let head := [0x54, 0x52, 0x48, 0x58, 1] ++ leBytes 1 (if st = 7 then 2 else 1) ++ leBytes 1 st ++ [0] ++ leBytes 8 seq ++
    leBytes 8 tick ++ leBytes 4 (64 + body.length) ++ leBytes 2 8 ++ leBytes 2 0x0100
  head ++ sha256 (head ++ body) ++ body

/-- Sequence of a stored dump. -/
def dumpSeqOf (b : Bytes) : Nat := leAt b 8 8

/-- Whether slot 1 is the one to be written: the older, an empty one first (12 R488). -/
def olderSlot (n : Nvm) : Bool :=
  match n.dump0, n.dump1 with
  | none, _ => false
  | some _, none => true
  | some a, some b => decide (dumpSeqOf b < dumpSeqOf a)

/-- A stored dump by the selector of request 0x0209: slot 0 or 1, or the newer (12 R491). -/
def dumpIn (n : Nvm) (sel : Nat) : Option Bytes :=
  if sel = 0 then n.dump0 else if sel = 1 then n.dump1 else if olderSlot n then n.dump0 else (n.dump1.or n.dump0)

/-- The Supervisor has written the dump that is owed first; where a window is configured its host copy leaves by a management transfer
(12 R488; 08 R342), and HOST is set once that copy is written. -/
def writeDump (st tick : Nat) (s : State) : State :=
  let slot := olderSlot s.nvm
  let b := dumpBytes s st tick (s.nvm.dumpSeq + 1)
  let s := if s.image.dumpBase != 0 then startWrite 1 s.image.dumpBase.toNat b s else s
  let s := s.updNvm fun n =>
    if slot then { n with dump1 := some b, dumpSeq := n.dumpSeq + 1 } else { n with dump0 := some b, dumpSeq := n.dumpSeq + 1 }
  s.updFlt fun f => { f with dumpDue := f.dumpDue.drop 1, dumpState := if f.dumpDue.length > 1 then 1 else 2, dumpSlot := slot,
                             dumpHost := false, hostBad := false }

end Sys2Proof.Machine
end

