-- ==== Sys2Proof/Machine/DebugOps.lean ====
section
/-! DEFINITION. Debug challenges, passes and access (15 R559 to R566). -/
namespace Sys2Proof.Machine

/-- The Registrar draws a challenge for a tenant, which replaces the one it holds (15 R559). -/
def drawChallenge (m : Msg) (s : State) : State :=
  let c := drawnBytes s.drawn 32
  let s := (s.updEn (takeBuf 32)).draw 32
  reply m.box m.code m.seq 0 c (s.updPage m.tenant fun p => { p with challenge := some c })

/-- The checks of a debug pass in their order: 0 where it passes (15 Table 15-7). -/
def passCheck (s : State) (t : Tenant) (held : Option Bytes) (len : Nat) (b : Bytes) : Nat :=
  if len ≠ 256 ∨ slice b 0 4 ≠ ascii "TRHB" ∨ byteAt b 4 ≠ 1 ∨ byteAt b 7 ≠ 0 ∨ leAt b 12 4 ≠ 0 ∨ leAt b 8 4 ≥ 8 ∨
      byteAt b 6 &&& 0xCF ≠ 0 then 2
  else
    match sealedHash s 1 with
    | none => 3
    | some h =>
      if sha384 (4 :: slice b 64 96) ≠ h then 4
      else if slice b 16 16 ≠ s.uid then 5
      else if byteAt b 5 ≠ t.val then 6
      else if held ≠ some (slice b 32 32) then 7
      else if !(byteAt b 6).testBit s.lc.state.toNat then 8
      else if !verifyP384 s (slice b 64 96) (b.take 160) (slice b 160 96) then 9
      else 0

/-- A pass that is refused is counted (15 Table 15-16). -/
def refusePass (code : Nat) (s : State) : State :=
  s.updDbg fun d => { d with last := BitVec.ofNat 8 code, refused := satInc 255 d.refused }

/-- A presentation consumes the challenge, and a pass that passes puts its rights in force (15 R559, R561, R562). -/
def presentPass (m : Msg) (b : Bytes) (s : State) : State :=
  let held := (s.page m.tenant).challenge
  let s := s.updPage m.tenant fun p => { p with challenge := none }
  let count := s.updDbg fun d => { d with refused := satInc 255 d.refused }
  if s.lc.state ≠ 4 ∧ s.lc.state ≠ 5 then answer m 0x85 count
  else if ¬ allZero m.params then answer m 0x82 count
  else if m.paylen = 256 ∧ !inWindows s m.tenant m.payload 256 true false then answer m 0x84 count
  else
    let s := if m.paylen = 256 then startRead 2 m.payload 256 s else s
    let c := passCheck s m.tenant held m.paylen b
    if c ≠ 0 then answer m c (refusePass c s)
    else
      answer m 0 (s.updDbg fun d =>
        { d with rights := BitVec.ofNat 32 (leAt b 8 4), tenant := BitVec.ofNat 6 m.tenant.val, last := 0 })

/-! ### Halts -/

/-- Processor of a CORE field: 1 Supervisor, 2 Registrar, 3 Custody (15 Table 15-17). -/
def mayHalt (s : State) (core : Nat) : Bool :=
  let st := s.lc.state.toNat
  if core = 3 then st == 1 || st == 2
  else if core = 1 ∨ core = 2 then st == 1 || st == 2 || st == 6 || ((st == 4 || st == 5) && bitAt s.dbg.rights core)
  else false

/-- Set the halt bit of a processor. -/
def setHalt (core : Nat) (on : Bool) (d : Debug) : Debug :=
  if core = 1 then { d with haltSup := on } else if core = 2 then { d with haltReg := on } else { d with haltCus := on }

/-- Whether a processor of a CORE field is halted. -/
def coreHalted (d : Debug) (core : Nat) : Bool := if core = 1 then d.haltSup else if core = 2 then d.haltReg else d.haltCus

/-- Memory group of a processor of a CORE field, 0 to 2. -/
def coreGroup (core : Nat) : Nat := core - 1

/-- The processor runs: what a debug access has shown of its memory is no longer known. -/
def forgetGroup (g : Nat) (d : Debug) : Debug := { d with words := d.words.filter fun w => w.1.1 ≠ g, zeroed := d.zeroed.filter (· ≠ g) }

/-- Processor index of a CORE field: Custody 0, Supervisor 1, Registrar 2. -/
def coreProc (core : Nat) : Fin 3 := if core = 1 then 1 else if core = 2 then 2 else 0

/-- A write of TRH_DBG_CORE (15 R566, Table 15-17). Halting one that restarts ends nothing of that restart. -/
def writeDbgCore (v : BitVec 32) (s : State) : State :=
  let core := fieldNat v 30 2
  let op := fieldNat v 28 2
  if !mayHalt s core then s
  else if op = 1 then s.updDbg (setHalt core true)
  else if op = 2 ∧ coreHalted s.dbg core then
    (s.updDbg (forgetGroup (coreGroup core))).updProc (coreProc core) fun p => { p with stepsDone := p.stepsDone + 1 }
  else if op = 3 then s.updDbg fun d => forgetGroup (coreGroup core) (setHalt core false d)
  else s

/-- TRH_DBG_CORE (15 Table 15-17). -/
def readDbgCore (s : State) : BitVec 64 := placeB s.dbg.haltCus 2 ||| placeB s.dbg.haltReg 1 ||| placeB s.dbg.haltSup 0

/-! ### Memory groups -/

/-- Whether a code is a group of Table 15-9. -/
def isGroup (g : Nat) : Bool := decide (g ≤ 2) || decide (8 ≤ g ∧ g ≤ 14) || decide (16 ≤ g ∧ g ≤ 22) || decide (24 ≤ g ∧ g ≤ 27)
/-- Whether a group is secret (15 Table 15-9). -/
def groupSecret (g : Nat) : Bool := g == 2 || g == 13 || g == 14 || g == 26 || g == 27

/-- Whether any ring is enabled. -/
def anyRing (s : State) : Bool := s.tenants.toList.any fun p => p.rings.toList.any Ring.enable

/-- Whether a group can be reached: directly, or by BIST (15 R564, R565, Table 15-9). -/
def mayReach (s : State) (bist : Bool) (g : Nat) : Bool :=
  let st := s.lc.state.toNat
  let mode := if st = 1 ∨ st = 2 then bist || !groupSecret g
    else if st = 6 then !groupSecret g
    else if st = 4 ∨ st = 5 then !bist && ((g == 0 && bitAt s.dbg.rights 1) || (g == 1 && bitAt s.dbg.rights 2))
    else false
  isGroup g && mode && (decide (g > 2) || coreHalted s.dbg (g + 1)) && !(decide (8 ≤ g ∧ g ≤ 25) && anyRing s)

/-- A word of a group, by its address: what is known of it, or a free value (log entry 33). -/
def groupWord (s : State) (g a : Nat) : BitVec 64 :=
  match s.dbg.words.lookup (g, a) with
  | some w => w
  | none => if s.dbg.zeroed.contains g then 0 else Config.groupWord g a s.drawn

/-- Zeros in place of every byte. -/
def zeroBytes (b : Bytes) : Bytes := b.map fun _ => 0

/-- Staged operands of the requests of a station are zero (15 R565). -/
def clearStaging (st : Nat) (s : State) : State :=
  let one := fun (x : StepState) =>
    if x.station = st then { x with src := zeroBytes x.src, aux := zeroBytes x.aux, out := zeroBytes x.out } else x
  let all := fun (r : Request) => { r with steps := r.steps.map one }
  s.mapReqs all

/-- The section store of a station is zero in both banks (15 R565). -/
def clearStore (st : Nat) (s : State) : State :=
  let wipe := fun (m : Image) => { m with tables := m.tables.set st StnTable.reset }
  s.updCfg fun c => { c with bank0 := c.bank0.map wipe, bank1 := c.bank1.map wipe }

/-- The key cache is zero: keys held for life are lost until they are loaded again (15 R565, 12 Table 12-7). -/
def clearCache (s : State) : State :=
  let res := (s.ks.cache.filter fun c => c.part == .resident).map fun c => (c.tenant, c.handle)
  s.updKs fun k => { k with cache := [], system := [], lost := res.foldl (fun l p => addNew p l) k.lost }

/-- What a BIST leaves of a group: zeros (15 R565). -/
def zeroGroup (g : Nat) (s : State) : State :=
  let s := s.updDbg fun d => { forgetGroup g d with zeroed := addNew g d.zeroed }
  if 8 ≤ g ∧ g ≤ 12 then clearStaging (g - 8) s
  else if g = 13 then clearStaging 5 s
  else if g = 14 then clearCache s
  else if 16 ≤ g ∧ g ≤ 22 then clearStore (g - 16) s
  else if g = 24 then s.mapPages fun p => fifoFlush p
  else if g = 25 then s.updFlt fun f => { f with queue := [] }
  else if g = 26 then
    ({ s with stations := s.stations.map clearBanks }).mapPages dropComponents
  else if g = 27 then s.updEn clearDrbg
  else s

/-- The word address of a TRH_DBG_ACCESS value (15 Table 15-18). -/
def accessWord (v : BitVec 64) : Nat := fieldNat v 3 29

/-- A write of TRH_DBG_ACCESS (15 R565, Tables 15-18, 15-19); `pass` is what the pattern test of a BIST finds. -/
def writeDbgAccess (pass : Bool) (v : BitVec 64) (s : State) : State :=
  let op := fieldNat v 61 2
  let g := fieldNat v 48 6
  let a := accessWord v
  if !bitAt v 63 then s
  else
    if op = 3 ∨ !mayReach s (op == 2) g then s.updDbg fun d => { d with result := 3 }
    else
      let s := s.updDbg fun d => { d with target := BitVec.ofNat 6 g }
      if op = 0 then
        let w := groupWord s g a
        (s.updDbg fun d => { d with result := 2, data := w, words := assoc (g, a) w d.words }).draw 1
      else if op = 1 then s.updDbg fun d => { d with result := 2, words := assoc (g, a) d.data d.words }
      else (zeroGroup g s).updDbg fun d => { d with result := 2, bist := if pass then 1 else 2 }

/-- TRH_DBG_STATUS (15 Table 15-16). -/
def readDbgStatus (s : State) : BitVec 64 :=
  let d := s.dbg
  place d.rights.toNat 32 ||| placeB (d.rights != 0) 31 ||| place d.tenant.toNat 16 ||| place d.last.toNat 8 ||| place d.refused 0

/-- TRH_DBG_ASTAT (15 Table 15-19). -/
def readDbgAstat (s : State) : BitVec 64 :=
  place s.dbg.result.toNat 30 ||| place s.dbg.bist.toNat 28 ||| place s.dbg.target.toNat 0

end Sys2Proof.Machine
end

