-- ==== Sys2Proof/Machine/WaybillOps.lean ====
section
/-! DEFINITION. Waybills: their claims, their encoding and their signature (15 R567 to R570; 02 R108; 16 R582). -/
namespace Sys2Proof.Machine

/-! ### CBOR in the deterministic encoding of RFC 8949 -/

/-- Head of a data item: major type and argument in the shortest form. -/
def cborHead (major n : Nat) : Bytes :=
  if n < 24 then leBytes 1 (32 * major + n)
  else if n < 256 then leBytes 1 (32 * major + 24) ++ beBytes 1 n
  else if n < 65536 then leBytes 1 (32 * major + 25) ++ beBytes 2 n
  else if n < 4294967296 then leBytes 1 (32 * major + 26) ++ beBytes 4 n
  else leBytes 1 (32 * major + 27) ++ beBytes 8 n

/-- An unsigned integer. -/
def cborUint (n : Nat) : Bytes := cborHead 0 n
/-- A byte string. -/
def cborBstr (b : Bytes) : Bytes := cborHead 2 b.length ++ b
/-- An array of encoded items. -/
def cborArr (l : List Bytes) : Bytes := cborHead 4 l.length ++ l.flatten
/-- A map with integer keys. -/
def cborMap (l : List (Nat × Bytes)) : Bytes := cborHead 5 l.length ++ l.flatMap fun p => cborUint p.1 ++ p.2
/-- A truth value. -/
def cborBool (b : Bool) : Bytes := if b then [0xF5] else [0xF4]

/-! ### Claims -/

/-- The claims map (15 Table 15-10): all values as they stand now, `t` for a tenant waybill. The
contract level is the part's, 1.0 (00 R8, 17 Table 17-5). -/
def claims (s : State) (t : Option Nat) (nonce : Bytes) : Bytes :=
  let audit := match t with
    | none => []
    | some n =>
      let p := s.page (tenantFin n)
      [(10, cborArr [cborUint n, cborUint p.auditCount.toNat, cborBstr p.auditHead, cborUint p.auditThrough.toNat])]
  cborMap ([
    (1, cborBstr s.uid),
    (2, cborUint s.lc.state.toNat),
    (3, cborArr [cborUint 1, cborUint 0]),
    (4, cborArr ((List.finRange 3).map fun p => cborBstr (measurement s p))),
    (5, cborBstr (fitTo 48 s.cfg.hash)),
    (6, cborBstr (sha384 s.image.ttBody)),
    (7, cborBstr (sha384 s.image.keyBody)),
    (8, cborArr [cborUint s.aon.count.toNat, cborBstr s.aon.head, cborUint (cellLosses s), cborBool s.aon.mirrorBad]),
    (9, cborArr [cborUint s.flt.total, cborUint s.flt.retired, cborUint s.tt.active.toNat, cborUint s.flt.restarts,
                 if s.flt.fValid then cborUint s.flt.fSource.toNat else [0xF6]])] ++
    audit ++ [
    (11, cborBstr nonce),
    (12, cborUint s.now),
    (13, cborUint s.ks.root.toNat),
    (14, cborUint s.dbg.rights.toNat)])

/-- Protected header: {1: -35}, ES384 (15 R568). -/
def protectedHeader : Bytes := [0xA1, 0x01, 0x38, 0x22]

/-- Public key of the device identity key, `04` ‖ x ‖ y (15 R568). -/
def deviceIdPublic (s : State) : Bytes :=
  let c := s.curve 1
  match c.mul (deviceIdKey (sysKey s .deviceId 0xFF)) c.g with
  | some (x, y) => 4 :: (beBytes 48 x ++ beBytes 48 y)
  | none => 4 :: fillBytes 96 0

/-- The Sig_structure that the signature covers (15 R568). -/
def sigStructure (payload : Bytes) : Bytes :=
  cborArr [cborHead 3 10 ++ ascii "Signature1", cborBstr protectedHeader, cborBstr [], cborBstr payload]

/-- Signature of a payload with the values drawn for it: k from the first nb + 64 bits (15 R569, 07 Table 07-7). -/
def waybillSignature (s : State) (payload drawn : Bytes) : Bytes :=
  let c := s.curve 1
  let k := ofBe (drawn.take 56) % (c.n - 1) + 1
  ecdsaSign c 48 (sha384 (sigStructure payload)) (deviceIdKey (sysKey s .deviceId 0xFF)) k

/-- The waybill: COSE_Sign1 under tag 18 (15 R568, Table 15-11). -/
def waybillBytes (s : State) (w : WaybillJob) : Bytes :=
  let kid := (sha256 (deviceIdPublic s)).take 8
  [0xD2] ++ cborArr [cborBstr protectedHeader, cborMap [(4, cborBstr kid)], cborBstr w.payload,
    cborBstr (waybillSignature s w.payload w.drawn)]

/-! ### Requests -/

/-- Random bytes that the signature draws: 448 bits shared and 832 for each unit (07 Table 07-7 for P-384). -/
def waybillDraw : Nat := 264

/-- Whether the request at the front with this code waits for its draws of `n` bytes (10 R421). -/
def drawWaits (s : State) (code n : Nat) : Bool :=
  s.en.state != 3 && !drawsNow n s.en && (nextMessage s).any fun m => m.code == code

/-- Whether a waybill request waits: for its draws, or for the tick boundary at which its claims are sampled (15 R570). -/
def waybillWaits (s : State) (code n : Nat) : Bool := s.tt.slot != 0 || drawWaits s code n

/-- A waybill request (15 R567, R569). -/
def requestWaybill (t : Option Nat) (m : Msg) (s : State) : State :=
  let n := byteAt m.params 0
  if s.lc.state = 1 ∨ s.lc.state = 7 then answer m 0x85 s
  else if n < 8 ∨ n > 32 then answer m 2 s
  else if ¬ allZero (slice m.params 1 3) ∨ ¬ allZero (m.params.drop (4 + n)) then answer m 0x82 s
  else if m.paylen < 1024 then answer m 4 s
  else if !payloadOk s m.tenant m.payload m.paylen false true then answer m 0x84 s
  else if s.en.state = 3 then answer m 3 s
  else
    let w : WaybillJob :=
      { WaybillJob.reset with tenant := t, req := m.bytes, payload := claims s t (slice m.params 4 n), lastTick := s.now,
                              drawn := drawnBytes s.drawn waybillDraw }
    let s := (s.updEn (takeBuf waybillDraw)).draw waybillDraw
    (answer m 1 s).updSs fun v => { v with waybills := v.waybills ++ [w] }

/-- Whether the signature at the head has been made: in the slots of the timetable, which SS runs only outside a hold, with the device
identity key of the system partition (09 Table 09-7; 15 R569). -/
def waybillReady (s : State) (w : WaybillJob) : Bool :=
  !s.ss.hold && !isRestarting s 5 && !s.locked && (sysKey? s .deviceId 0xFF).isSome && (!s.tt.started || decide (w.slots ≥ waybillSlots))

/-- The waybill is written to the payload area, by a management transfer, and the request is answered with its length (15 R567; 11
R449). -/
def answerWaybill (w : WaybillJob) (s : State) : State :=
  let b := waybillBytes s w
  let len := b.length
  let s := (startWrite 2 (leAt w.req 8 8) b s).updSs fun v => { v with waybills := v.waybills.drop 1 }
  reply (w.tenant.map tenantFin) (leAt w.req 0 2) (leAt w.req 2 2) 0 (leBytes 4 len) s

end Sys2Proof.Machine
end

