-- ==== Sys2Proof/Machine/DebugFamily.lean ====
section
/-! DEFINITION. Meanings of the debug, waybill and dump retrieval commands (12 R491; 15 R559 to R570). -/
namespace Sys2Proof.Machine

/-- Request 0x0102 (15 R559): a refused draw, of the priority of IVs, is counted and receives 0x03; one that the buffer cannot serve yet waits. -/
def execDebugChallenge (s : State) : Host.Outcome State Fault Refusal :=
  if drawWaits s 0x0102 32 then ok s
  else
    ok (onRequest 0x0102 (fun m s =>
      if m.payload ≠ 0 ∨ m.paylen ≠ 0 ∨ ¬ allZero m.params then answer m 0x82 s
      else if s.en.fill < 32 then answer m 3 (s.updEn fun e => { e with noentIv := satInc 0xFFFF e.noentIv })
      else drawChallenge m s) s)

/-- Request 0x0103 (15 R560 to R562). -/
def execDebugPass (payload : Bytes) (s : State) : Host.Outcome State Fault Refusal :=
  ok (onRequest 0x0103 (fun m s => presentPass m payload s) s)

/-- Request 0x0101 (15 R567). -/
def execTenantWaybill (s : State) : Host.Outcome State Fault Refusal :=
  if waybillWaits s 0x0101 waybillDraw then ok s
  else ok (onRequest 0x0101 (fun m s => requestWaybill (some m.tenant.val) m s) s)

/-- Request 0x0205 (15 R567). -/
def execBlockWaybill (s : State) : Host.Outcome State Fault Refusal :=
  if waybillWaits s 0x0205 waybillDraw then ok s
  else ok (onRequest 0x0205 (fun m s => requestWaybill none m s) s)

/-- The signature of the oldest waybill is made, and the Registrar writes the waybill to its payload area (15 R569; 08
R359). -/
def execWaybillSigned (good : Bool) (s : State) : Host.Outcome State Fault Refusal :=
  match s.ss.waybills with
  | [] => ok s
  | w :: _ =>
    if !waybillReady s w || !procWorks s 2 then ok s
    else if good then ok (answerWaybill w s) else ok (transferFailed s)

/-- Request 0x0209 (12 R491): a failed transfer leaves the request to be tried again (08 R359). -/
def execDumpRetrieval (good : Bool) (s : State) : Host.Outcome State Fault Refusal :=
  let act := fun (m : Msg) (s : State) =>
    let sel := byteAt m.params 0
    if (sel > 1 ∧ sel ≠ 0xFF) ∨ ¬ allZero (m.params.drop 1) then answer m 0x82 s
    else
      match dumpIn s.nvm sel with
      | none => answer m 2 s
      | some b =>
        if m.paylen < b.length ∨ !payloadOk s m.tenant m.payload m.paylen false true then answer m 0x84 s
        else answer m 0 (startWrite 2 m.payload b s)
  let next := (nextMessage s).any fun m => m.code == 0x0209 && rightBox m && !m.busy
  if !good && next then ok (transferFailed s) else ok (onRequest 0x0209 act s)

/-- A write of TRH_DBG_CORE with OP halt (15 R566). -/
def execDbgHalt (ident : Ident) (v : BitVec 32) (s : State) : Host.Outcome State Fault Refusal :=
  ok (supWrite ident 0x10120 (writeDbgCore ((v &&& 0xCFFFFFFF#32) ||| 0x10000000#32)) s)

/-- A write of TRH_DBG_CORE with OP step (15 R566). -/
def execDbgStep (ident : Ident) (v : BitVec 32) (s : State) : Host.Outcome State Fault Refusal :=
  ok (supWrite ident 0x10120 (writeDbgCore ((v &&& 0xCFFFFFFF#32) ||| 0x20000000#32)) s)

/-- A write of TRH_DBG_CORE with OP resume (15 R566). -/
def execDbgResume (ident : Ident) (v : BitVec 32) (s : State) : Host.Outcome State Fault Refusal :=
  ok (supWrite ident 0x10120 (writeDbgCore (v ||| 0x30000000#32)) s)

/-- A TRH_DBG_ACCESS value with GO and an OP (15 Table 15-18). -/
def withAccess (op : Nat) (v : BitVec 64) : BitVec 64 := (v &&& 0x1FFFFFFFFFFFFFFF) ||| 0x8000000000000000 ||| place op 61

/-- A write of TRH_DBG_ACCESS that reads a word (15 R565). -/
def execDbgRead (ident : Ident) (v : BitVec 64) (s : State) : Host.Outcome State Fault Refusal :=
  ok (supWrite ident 0x10128 (writeDbgAccess true (withAccess 0 v)) s)

/-- A write of TRH_DBG_ACCESS that writes a word (15 R565). -/
def execDbgWrite (ident : Ident) (v : BitVec 64) (s : State) : Host.Outcome State Fault Refusal :=
  ok (supWrite ident 0x10128 (writeDbgAccess true (withAccess 1 v)) s)

/-- A write of TRH_DBG_ACCESS that runs a BIST (15 R565). -/
def execBist (ident : Ident) (v : BitVec 64) (pass : Bool) (s : State) : Host.Outcome State Fault Refusal :=
  ok (supWrite ident 0x10128 (writeDbgAccess pass (withAccess 2 v)) s)

end Sys2Proof.Machine
end

