-- ==== Sys2Proof/Machine/EntropyFamily.lean ====
section
/-! DEFINITION. Meanings of the entropy commands (10). -/
namespace Sys2Proof.Machine

/-- A source fails a health test in the tick: one of its start-up test, or of the tests that follow it. It is retired, its delay line is
discarded, and the failure is reported under its RCT or APT checker (10 R410 to R413; 12 R464). A retired source runs no test, and a
cause of the other phase, or outside Table 10-10, is none of its tests: no effect. -/
def execSourceHealthFailure (n : Fin 4) (cause : BitVec 8) (s : State) : Host.Outcome State Fault Refusal :=
  let x := s.en.sources[n]
  if x.state = 2 ∨ cause = 0 ∨ cause.toNat > 4 ∨ ¬ (cause.toNat ≤ 2 ↔ x.taken < 1024) then ok s
  else ok (failSource n cause s)

/-- A source joins: once the 1,024 samples of its start-up test have passed, or after a retest at the tick boundary after 2,048 samples
(10 R411, R424). A rejoin after a retest is counted. -/
def execSourceRejoin (n : Fin 4) (s : State) : Host.Outcome State Fault Refusal :=
  let x := s.en.sources[n]
  if x.state = 1 ∧ (if x.retest then 2048 ≤ x.taken ∧ s.tt.slot = 0 else 1024 ≤ x.taken) then
    let y := { x with state := 0, retest := false,
                      rejoins := if x.retest then x.rejoins + 1 else x.rejoins }
    ok (s.updEn fun e => { e with sources := e.sources.set n y })
  else ok s

/-- 4,096 periods after its retirement the Supervisor retests a source; one that restarts does so when it resumes (10 R424; 01 R47). -/
def execSourceRetestTimer (n : Fin 4) (s : State) : Host.Outcome State Fault Refusal :=
  if s.en.sources[n].retired + 16777216 ≤ s.now ∧ procWorks s 1 then ok (startRetest n s) else ok s

/-- A write of TRH_EN_CTRL.RETEST (10 R424, Table 10-6). -/
def execRetest (ident : Ident) (v : BitVec 32) (s : State) : Host.Outcome State Fault Refusal :=
  ok (mgmtWrite ident 0xA04 (writeEnCtrl v) s)

/-- A conditioned block of 256 bits, the SHA-256 of 4,096 raw bits, enters the seed pool while at least two sources are healthy; what finds
the pool full is zeroised (10 R415, R416). The peaks seen since the last block are noted (10 Table 10-10). -/
def execConditionedBlock (runs : Vector (Fin 256) 4) (apts : Vector (Fin 1024) 4) (s : State) :
    Host.Outcome State Fault Refusal :=
  if healthyCount s.en < 2 ∨ s.en.raw.length < 4096 then ok s
  else
    let peak := fun (x : Source) (m : Fin 256 × Fin 1024) =>
      { x with runPeak := max x.runPeak m.1.val, aptPeak := max x.aptPeak m.2.val }
    ok (s.updEn fun e => { e with seed := (e.seed ++ sha256 (bitsToBytes (e.raw.take 4096))).take 256, raw := e.raw.drop 4096,
                                  sources := Vector.zipWith peak e.sources (Vector.zip runs apts) })

/-- The DRBG is instantiated from 512 pool bits, 384 of entropy input and 128 of nonce, with the device unique identity as its
personalisation string (10 R417, R427). -/
def execDrbgInstantiate (s : State) : Host.Outcome State Fault Refusal :=
  if !s.en.inst && !s.en.stuck && s.en.pool ≥ 512 then
    let (k, v) := drbgInstantiate (s.en.seed.take 64) s.uid
    ok (s.updEn fun e => { e with inst := true, reseeded := true, calls := 0, seed := e.seed.drop 64, key := k, vec := v })
  else ok s

/-- The core reseeds from 384 pool bits when the counter is at its limit, or out of DEGRADED or EXHAUSTED once two
sources are healthy (10 R417, R418, R425). -/
def execDrbgReseed (s : State) : Host.Outcome State Fault Refusal :=
  let e := s.en
  if e.inst && !e.stuck && e.pool ≥ 384 &&
      (e.calls == callLimit || ((e.state == 2 || e.state == 3) && decide (healthyCount e ≥ 2))) then
    let (k, v) := drbgReseed (e.seed.take 48) e.key e.vec
    ok (s.updEn fun e => { e with reseeded := e.state != 1, calls := 0, seed := e.seed.drop 48, key := k, vec := v,
                                  reseeds := satInc 0xFFFFFFFF e.reseeds })
  else ok s

/-- A generate call refills the internal buffer while it is not full, once a tick, with what the core's 1,280 bytes of the tick hold beyond those that
`RANDOM` pieces take. A mismatch of the core's two copies, in that call or in the one that serves `RANDOM`, is reported and discards the
call, and three in a row put the service in EXHAUSTED until block reset (10 R417 to R420; 01 R35, Table 01-4). -/
def execDrbgGenerate (mismatch : Bool) (s : State) : Host.Outcome State Fault Refusal :=
  let e := s.en
  let refills := !e.callsTick && decide (e.calls < callLimit) && decide (e.fill < bufCap)
  if !e.inst || e.stuck || !(refills || (mismatch && e.direct != 0)) then ok s
  else if mismatch then
    ok (faultReport (sourceId 6 2 5 0) 0 (s.updEn coreMismatch))
  else
    ok (s.updEn fun e =>
      let n := min (bufCap - e.fill) (1280 - e.direct)
      { coreCall e with callsTick := true, fill := e.fill + n, credit := n })

/-- A write of TRH_EN_BUF.LOW_CLR (10 Table 10-8). -/
def execLowClr (ident : Ident) (v : BitVec 64) (s : State) : Host.Outcome State Fault Refusal :=
  ok (mgmtWrite ident 0xA10 (writeEnBuf v) s)

end Sys2Proof.Machine
end

