-- ==== Sys2Proof/Machine/FabricFamily.lean ====
section
/-! DEFINITION. Meanings of the fabric's returns (08 R344, R345, R353 to R360; 03 R125, R635). A return that answers no
outstanding burst has no effect in the spec: the host may not make one (18 R609), and the model stops on it. -/
namespace Sys2Proof.Machine

/-- A read bobbin that a return has freed issues on: input waits only for a spent budget (08 R333, R339). -/
def refillReads (s : State) : State := if s.tt.slot > 5 ∧ ¬ cutDue s then issueReads s else s

/-- As `refillReads`, for the write bobbins. -/
def refillWrites (s : State) : State := if cutDue s then s else issueWrites s

/-- Whether the limit of a burst's return may have passed in the tick that runs: a burst that was issued in a tick falls due in the tick
that holds the end of the limit (08 R355). -/
def overdue (s : State) (b : Burst) : Bool := decide (b.wall + 5 * returnLimit < s.wall + tickUnits s)

/-- Descriptor read data lands (03 R125, R635). -/
def execDescriptorDataLanded (port : Fin 4) (tag : Fin 256) (data : Bytes) (ns : Nat) (cycle : Cycle) (s : State) :
    Host.Outcome State Fault Refusal :=
  match burstOf s port.val false tag.val with
  | none => .fault .unsolicitedResponse
  | some b => ok (readReturn b data false ns cycle.val s)

/-- Read data returns, or an error response to a read (08 R344, R353, R356). -/
def execReadBurstReturn (port : Fin 4) (tag : Fin 256) (data : Bytes) (err : Bool) (flight : Flight) (s : State) :
    Host.Outcome State Fault Refusal :=
  match burstOf s port.val false tag.val with
  | none => .fault .unsolicitedResponse
  | some b => ok (refillReads (readReturn b data err flight.ns flight.cycle.val s))

/-- A write response returns (08 R345, R353, R356). -/
def execWriteResponse (port : Fin 4) (tag : Fin 256) (err : Bool) (flight : Flight) (s : State) :
    Host.Outcome State Fault Refusal :=
  match burstOf s port.val true tag.val with
  | none => .fault .unsolicitedResponse
  | some b => ok (refillWrites (writeReturn b err flight.ns flight.cycle.val s))

/-- A burst has had no return for 4,096 ns (08 R355). No burst, one that has timed out before, or one whose limit has not passed: no
effect. -/
def execBurstTimeout (port : Fin 4) (write : Bool) (tag : Fin 256) (s : State) : Host.Outcome State Fault Refusal :=
  match burstOf s port.val write tag.val with
  | none => ok s
  | some b => if b.dead || !overdue s b then ok s else ok (burstTimeout b s)

end Sys2Proof.Machine
end

