-- ==== Sys2Proof/Machine/FaultFamily.lean ====
section
/-! DEFINITION. Meanings of the fault, restart, proof and dump commands (01 R32, R46; 02 R101; 12). -/
namespace Sys2Proof.Machine

/-- What a mismatch of the duplicated entropy logic discards: the conditioned block in progress, or a call of the DRBG core (10 R416, R419). -/
def dupOutcome (c : BitVec 16) (e : Entropy) : Entropy :=
  if c = sourceId 6 2 4 0 then { e with raw := [] } else if c = sourceId 6 2 5 0 then coreMismatch e else e

/-- A checker reports an error (12 R462). Without a listed source, or while the main domain is in reset, there is no such
report. An uncorrectable word has its outcome of Table 12-7 whatever the severity (12 R480). An invalid state code also enters the
tamper path, as source 0x14 with the reporting source (01 R40; 14 Table 14-1). -/
def execFaultReport (source : Sys2Proof.Source) (detail : BitVec 16) (owner : WordOwner) (cycle : Cycle) (s : State) :
    Host.Outcome State Fault Refusal :=
  if !s.mainUp || s.lc.state == lcScrap || !reportable source then ok s
  else
    let s := if srcChecker source = 4 then uncorrOutcome source detail owner s else s.updEn (dupOutcome source)
    let t := reportAtCycle cycle.val source (detailOf source detail) s
    ok (if srcChecker source = 17 then tamperAlarm 0x14 false (source.setWidth 32) t else t)

/-- The sidings of an engine whose second boundary has come serve their positions (12 R473). -/
def execSidingTakeover (eng : Fin 64) (s : State) : Host.Outcome State Fault Refusal := ok (takeOvers eng.val s)

/-- The first contingency switch that is due (02 R101); one that falls due with an armed cut-over is the cut-over's
(02 R104). -/
def execContingencySwitch (s : State) : Host.Outcome State Fault Refusal :=
  if cutDue s then ok s
  else match dueCases s with
    | [] => ok s
    | x :: _ => ok (switchContingency x s)

/-- An open window reaches the end of its last tick unacknowledged: the action is taken at the boundary that ends this tick
(12 R467). One that no command has ended then expires with the boundary itself (log entry 66). -/
def execEscalationExpiry (source : Sys2Proof.Source) (s : State) : Host.Outcome State Fault Refusal :=
  match s.flt.timers.find? fun t => t.source = source && decide (t.expires ≤ s.now + 1) with
  | none => ok s
  | some t => ok (expireWindow t s)

/-- The Supervisor writes TRH_FLT_ACK: the source's open window closes (12 R467). -/
def execFaultAck (v : BitVec 32) (s : State) : Host.Outcome State Fault Refusal :=
  let c := v.extractLsb' 0 16
  if !supWorks s then ok s
  else
    match s.flt.timers.find? fun t => t.source = c && decide (t.opens ≤ s.now ∧ s.now < t.expires) with
    | none => ok s
    | some t => ok (markRecords c (t.opens - 1) (fun x => { x with acked := true }) (closeWindow c s))

/-- A station whose restart is due stops and restarts (12 R476); a lockdown that is due supersedes it (12 R487). -/
def execStationRestart (st : Fin 7) (s : State) : Host.Outcome State Fault Refusal :=
  match s.flt.due.find? fun d => d.1 = st.val && decide (d.2.1 ≤ s.now) with
  | none => ok s
  | some d => if s.locked then ok s else ok (restartStation st d.2.1 d.2.2 s)

/-- A restarted station rejoins at a tick boundary, every checker of it proven (12 R476, R633; log entry 123). -/
def execStationRejoin (st : Fin 7) (s : State) : Host.Outcome State Fault Refusal :=
  if s.stations[st].restart.isSome && s.tt.slot == 0 && !s.locked then
    ok ((stationCheckers s st.val).foldl (fun s c => proven c s) (s.updStn st fun x => { x with restart := none, rejoined := s.now }))
  else ok s

/-- A lockdown that is due is carried out (12 R478). -/
def execLockdown (s : State) : Host.Outcome State Fault Refusal :=
  match s.flt.due.find? fun d => d.1 = 7 && decide (d.2.1 ≤ s.now) with
  | none => ok s
  | some d => if s.flt.lockdown then ok s else ok (lockDown d.2.1 d.2.2 s)

/-- The Supervisor writes the dump that is owed first (12 R488); it writes none where it is itself the failed part. -/
def execDumpWrite (good : Bool) (s : State) : Host.Outcome State Fault Refusal :=
  match s.flt.dumpDue with
  | [] => ok s
  | (st, _, tick) :: _ =>
    if !procWorks s 1 || s.pwr.nvmLow || !s.nvm.present then ok s
    else if good then ok (writeDump st tick s)
    else ok ((nvmFailed s).updFlt fun f => { f with dumpDue := f.dumpDue.drop 1, dumpState := 3 })

/-- A control processor's pair mismatches: it restarts from its checkpoint (01 R46; 11 Table 11-9). A halted processor has no
checkpoints (15 R566). -/
def execLockstepMismatch (p : Fin 3) (s : State) : Host.Outcome State Fault Refusal :=
  if !s.mainUp || !procWorks s p then ok s
  else
    let s := s.updProc p fun x => { x with restart := some s.now }
    ok (assertBlk 5 (faultReport (sourceId 7 4 p.val 20) 0 s))

/-- A restarted processor resumes: within 64 ticks from its checkpoint, else CPSTALL is reported and it has lost what it
held (01 R46; 11 R446, R453; 12 Table 12-1). -/
def execControlProcessorResume (p : Fin 3) (s : State) : Host.Outcome State Fault Refusal :=
  match s.procs[p].restart with
  | none => ok s
  | some t =>
    let s := s.updProc p fun x => { x with restart := none }
    if s.now ≤ t + 64 then ok s
    else
      let s := faultReport (sourceId 7 4 p.val 21) 0 s
      let s := s.updMgmt fun m => if m.held && m.src && m.holder == procIdent p then freeLock m else m
      ok (if p = 2 then clearOutboxes s else s)

/-- The scrubber reads a stored word and tests it: it corrects what its owner holds and reports that, or it reports that it cannot and
leaves the word in place (01 R31 to R34; 12 R480; log entry 75). -/
def execScrub (source : Sys2Proof.Source) (word : Bytes) (detail : BitVec 16) (owner : WordOwner) (s : State) :
    Host.Outcome State Fault Refusal :=
  let live := s.mainUp && s.lc.state != lcScrap && reportable source
  match testWord word with
  | .clean => ok s
  | .corrected _ => if live then ok (faultReport (withChecker source 3) detail (mendOwner owner s)) else ok s
  | .uncorrectable =>
    if live then
      let c := withChecker source 4
      ok (faultReport c detail (uncorrOutcome c detail owner s))
    else ok s

/-- A checker is proven on a known error, or its proof fails (12 R482, R483). -/
def execCheckerProof (source : Sys2Proof.Source) (good : Bool) (s : State) : Host.Outcome State Fault Refusal :=
  if !s.mainUp || s.lc.state == lcScrap || !reportable source || decide (32 ≤ srcChecker source) then ok s
  else if s.flt.lockdown && isLaneSource source then ok s
  else
    let s := powerSiding source s
    if good then ok (proven source s) else ok (proofFailed source s)

/-- The Supervisor moves an active lane to a powered siding at a tick boundary (12 R475). -/
def execPlannedShunt (eng : Fin 64) (lane siding : Fin 16) (s : State) : Host.Outcome State Fault Refusal :=
  if supWorks s && s.tt.slot == 0 && lane != siding then ok (plannedShunt eng.val lane.val siding.val s) else ok s

/-- A write of TRH_FLT_INJECT, by the Supervisor with its own identity or on the register port (12 R486, R492). -/
def execFaultInjection (ident : Ident) (v : BitVec 64) (s : State) : Host.Outcome State Fault Refusal :=
  if ident = procIdent 1 then (if s.mainUp && supWorks s then ok (writeInject true v s) else ok s)
  else ok (supWrite ident 0x10050 (writeInject false v) s)

/-- A write of TRH_FLT_FIRST.VALID (12 R470). -/
def execFirstErrorClear (ident : Ident) (v : BitVec 64) (s : State) : Host.Outcome State Fault Refusal :=
  ok (supWrite ident 0x10008 (writeFltFirst v) s)

/-- The Supervisor takes the oldest fault record, once the tick whose reports it gathers has ended (12 R471). -/
def execFaultRecordTake (s : State) : Host.Outcome State Fault Refusal :=
  match s.flt.queue with
  | r :: l => if supWorks s ∧ r.tick < s.now then ok (s.updFlt fun f => { f with queue := l }) else ok s
  | [] => ok s

end Sys2Proof.Machine
end

