-- ==== Sys2Proof/Machine/LifeFamily.lean ====
section
/-! DEFINITION. Meanings of the life-cycle commands (15 R550 to R558; 18 R620). -/
namespace Sys2Proof.Machine

/-- Request 0x0206 with OP 1, or with an OP that is neither 1 nor 2, which is malformed (15 R550, R551, R554). -/
def execLifeCycleTransition (s : State) : Host.Outcome State Fault Refusal :=
  match nextMessage s with
  | none => ok s
  | some m =>
    if byteAt m.params 0 = 2 then ok s
    else
      ok (onRequest 0x0206 (fun m s =>
        let t := byteAt m.params 1
        if byteAt m.params 0 ≠ 1 ∨ m.payload ≠ 0 ∨ m.paylen ≠ 0 ∨ ¬ allZero (m.params.drop 3) then answer m 0x82 s
        else
          let c := transitionCheck s t (byteAt m.params 2)
          if c ≠ 0 then answer m c s else startTransition m.seq t (answer m 1 s)) s)

/-- Request 0x0206 with OP 2: the hash of an authority key is burnt (15 R557, Table 15-4). -/
def execAuthoritySeal (payload : Bytes) (s : State) : Host.Outcome State Fault Refusal :=
  match nextMessage s with
  | none => ok s
  | some m =>
    if byteAt m.params 0 ≠ 2 then ok s
    else
      ok (onRequest 0x0206 (fun m s =>
        let kind := byteAt m.params 1
        let key := payload.take 97
        if s.lc.state ≠ 4 then answer m 0x85 s
        else if s.lc.phase = 3 then answer m 7 s
        else if (kind ≠ 1 ∧ kind ≠ 2) ∨ m.paylen ≠ 97 ∨ ¬ allZero (m.params.drop 2) then answer m 0x82 s
        else if !payloadOk s m.tenant m.payload 97 true false then answer m 0x84 s
        else
          let s := startRead 2 m.payload 97 s
          match freeSet s kind with
          | none => answer m 4 s
          | some k =>
            if (sealedHash s kind).isSome then answer m 4 s
            else if !validP384 s key then answer m 8 s
            else
              s.updLc fun l => { l with sealJob := some (kind, 0, sha384 key), sealSet := k, burning := 3,
                                        seq := some (BitVec.ofNat 16 m.seq) }) s)

/-- A cold start that waited for a roll-forward goes on (15 R555). -/
def goOn (s : State) : State := if s.cfg.stage = 0 ∧ s.lc.burning = 0 then stageOne s else s

/-- The host's OTP controller acknowledges the program under way, with or without error (18 R620): the row takes its
bits, or without all of them a part. In lockdown the Custody processor has stopped, and the transition ends at the next
start (15 R556). A target row waits for commits under way, a commit row for the wipe (15 R551, R552). A start that was
rolling a transition forward goes on once it has ended (15 R555). -/
def execOtpProgramComplete (err : Bool) (s : State) : Host.Outcome State Fault Refusal :=
  match programNow s with
  | none => ok s
  | some (r, d) =>
    let l := s.lc
    if !s.mainUp || (l.burning == 1 && l.quiesced && !s.ks.commits.isEmpty) || (l.burning == 2 && !l.wiped) then ok s
    else
      let s := if err then burnPart s else burnRow r d s
      if s.locked then ok (s.updLc fun l => { l with burning := 0 })
      else if l.burning = 1 then ok (goOn (targetBurnt err s))
      else if l.burning = 2 then ok (goOn (commitBurnt err s))
      else ok (authorityBurnt err s)

end Sys2Proof.Machine
end

