-- ==== Sys2Proof/Machine/MailboxFamily.lean ====
section
/-! DEFINITION. Meanings of the mailbox and lock commands (11 R441 to R454). -/
namespace Sys2Proof.Machine

/-- Offset of SEND of a mailbox. -/
def sendAt : Box → Nat
  | some t => pageOff t 0x540
  | none => 0xB80

/-- Offset of ACK of a mailbox. -/
def ackAt : Box → Nat
  | some t => pageOff t 0x5C8
  | none => 0xB88

/-- A write of TN_MBO_SEND or TRH_MB_SEND (11 R441). -/
def execSend (ident : Ident) (box : Option Tenant) (v : BitVec 32) (s : State) : Host.Outcome State Fault Refusal :=
  ok (gateWrite ident (sendAt box) (regionOf (sendAt box)) false (sendMessage box ident v) s)

/-- A write of TN_MBI_ACK or TRH_MB_IN_ACK (11 R443). -/
def execAck (ident : Ident) (box : Option Tenant) (v : BitVec 32) (s : State) : Host.Outcome State Fault Refusal :=
  ok (gateWrite ident (ackAt box) (regionOf (ackAt box)) false (ackMessage box v) s)

/-- The Registrar delivers the first waiting reply whose mailbox is EMPTY: the mailbox becomes FULL with its stamp and
MBOX_IN or MB_IN is asserted (11 R443, Table 11-5). A final reply answers the request. -/
def execMailboxDelivery (s : State) : Host.Outcome State Fault Refusal :=
  let p := s.procs[(2 : Fin 3)]
  match s.mgmt.replies.find? fun r => !(s.mbi r.box).full with
  | none => ok s
  | some r =>
    if p.restart.isSome || p.halted || p.resuming.isSome || s.dbg.haltReg then ok s
    else
      let tenant := match r.tenant with
        | some t => t
        | none => if s.mgmt.src then 0 else (s.tenantOf s.mgmt.holder).val
      let stamp := place (s.now % 4294967296) 32 ||| place 0xF02 16 ||| place 4 8 ||| place tenant 0
      let s := s.updMgmt fun m => { m with replies := m.replies.erase r }
      let s := s.updMbi r.box fun _ => { full := true, data := bytesToWords r.bytes, stamp := stamp }
      let s := if r.final then s.updMbo r.box fun m => { m with unanswered := false } else s
      ok (notifyIn r.box s)

/-- A message with an unknown code is answered with 0x80, one through the wrong mailbox with 0x81; while an earlier
request is unanswered with 0x83, and where the block's condition refuses every request with 0x85 (11 R444, R448,
R449; 12 R479; 15 R543; 16 R590). -/
def execUnknownRequestCode (s : State) : Host.Outcome State Fault Refusal :=
  match nextMessage s with
  | none => ok s
  | some m =>
    if rightBox m then ok s
    else
      let status := if conditionRefuses s m then 0x85 else if (tenantCodes ++ mgmtCodes).contains m.code then 0x81 else 0x80
      if m.busy then ok (answerBusy m (takeMessage m s)) else ok (refuse m status s)

/-- A read of TRH_MGMT_LOCK: an acquisition, a renewal or a report; a foreign read acquires nothing (11 R435, R450). -/
def readLock (ident : Ident) (s : State) : State :=
  match verdict s ident .mgmt false true with
  | .shut => s.respond 0
  | .foreign => (foreignAccess ident 0xB00 false s).respond 0
  | _ => let x := acquireLock false ident s.mgmt
         { s with mgmt := x.1 }.respond x.2

/-- A read of TRH_MGMT_LOCK (11 R450). -/
def execLockAcquire (ident : Ident) (s : State) : Host.Outcome State Fault Refusal := ok (readLock ident s)

/-- A write of TRH_MGMT_LOCK (11 R451). -/
def execLockRelease (ident : Ident) (v : BitVec 32) (s : State) : Host.Outcome State Fault Refusal :=
  ok (gateWrite ident 0xB00 .mgmt true (fun s => s.updMgmt (releaseLock ident v)) s)

/-- Control processor p acquires the lock with SRC = 1 and receives the OUTCOME with the holder, or releases the lock it holds; a release by another is ignored (11 R450, R451). -/
def lockProcessor (p : Fin 3) (release : Bool) (s : State) : State :=
  let i := procIdent p
  let m := s.mgmt
  if release then (if m.held && m.src && m.holder == i then s.updMgmt freeLock else s)
  else
    let (got, word) := acquireLock true i m
    (s.updMgmt fun _ => got).updProc p fun x => { x with lockAns := word }

/-- The arbiter serves one requester: the register port, 0, or a control processor, 1 to 3, where it asks in this cycle (11 R454). -/
def serveLock (p : Fin 3) (ask : LockAsk) (n : Nat) (s : State) : State :=
  if n = 0 then (ask.port.map fun i => readLock i s).getD s
  else
    let q : Fin 3 := ⟨(n - 1) % 3, Nat.mod_lt _ (by decide)⟩
    if q = p then lockProcessor q ask.release s
    else if q ∈ ask.others then lockProcessor q false s else s

/-- The order in which the arbiter serves what asks in one DCLK cycle: from requester TRH_TICK mod 4, ascending (11 R454). -/
def lockOrder (tick : Nat) : List Nat := (List.range 4).map fun n => (tick + n) % 4

/-- A control processor asks for the lock, or releases it, through the arbiter, which serves all that ask in the same cycle: the first
in its order that finds the lock free holds it, and each other learns the holder (11 R450, R451, R454). -/
def execProcessorLockRequest (p : Fin 3) (ask : LockAsk) (s : State) : Host.Outcome State Fault Refusal :=
  ok ((lockOrder s.now).foldl (fun s n => serveLock p ask n s) s)

/-- The lease count has reached 0: the lock is freed, EXPIRED counts and LOCK_EXPIRED is asserted (11 R452). -/
def execLeaseExpiry (s : State) : Host.Outcome State Fault Refusal :=
  if s.mgmt.held && s.mgmt.remain == 0 then
    ok (assertBlk 17 (s.updMgmt fun m => { freeLock m with expired := satInc 0xFFFF m.expired }))
  else ok s

end Sys2Proof.Machine
end

