-- ==== Sys2Proof/Machine/PowerFamily.lean ====
section
/-! DEFINITION. Meanings of the power and clock commands (13). -/
namespace Sys2Proof.Machine

/-- VDD_CORE crosses the warning level at a cycle of the tick (13 R501, R504). A reading at or above the level, or a
main domain in reset, crosses nothing. -/
def execSupplyWarningCrossing (cycle : Cycle) (mv : BitVec 16) (s : State) : Host.Outcome State Fault Refusal :=
  if !s.mainUp || decide (warnLevel s ≤ mv.toNat) then ok s
  else ok (assertBlk 8 (faultReport srcSupply 0 (s.updPwr (crossWarning s.now cycle.val))))

/-- SS enters hold at the first boundary after the warning (07 R326). A hold that no command has begun then begins with the tick's first
slot (log entry 56). -/
def execSsHoldEnter (s : State) : Host.Outcome State Fault Refusal := ok (settleHold s)

/-- The power manager declares normal operation at the first boundary at which the count has reached 64 and every rail is in range (13
R502, R503). A declaration that no command has made then is made with the tick's first slot (log entry 56). -/
def execCautionRecoveryDeclaration (s : State) : Host.Outcome State Fault Refusal := ok (settleCaution s)

/-- VDD_IO_NVM falls below 1.65 V (13 R506). -/
def execNvmSupplyLow (s : State) : Host.Outcome State Fault Refusal := ok (s.updPwr fun p => { p with nvmLow := true })

/-- The Supervisor sets a rail's target, once per period; it moves there by at most 5 mV in a tick, the first step in this one unless the boundary has moved it. Under a
caution the Supervisor changes none; a target that would need more than 0.78 V is held there and reported (13 R496, R502, R513). -/
def execRegulatorTargetUpdate (st : Fin 8) (fmon : Nat) (s : State) : Host.Outcome State Fault Refusal :=
  let r := s.pwr.rails[st]
  if !s.mainUp || !procWorks s 1 || s.pwr.caution || r.setTick.any (fun n => n / 4096 == s.now / 4096) then ok s
  else
    let want := targetSought s st fmon
    let s := s.updRail st fun r =>
      let r := { r with goal := min 780 want, setTick := some s.now }
      if r.moved then r else stepTarget r
    if want > 780 then ok (faultReport (srcRegulator st.val) 0 s) else ok s

/-- One sensor's report when it rises above the warning threshold (13 R509). -/
def warnSensor (before : Vector Rail 8) (s : State) (i : Fin 8) : State :=
  if s.pwr.rails[i].warm && !before[i].warm then
    assertBlk 9 (faultReport (srcThermal i.val) 0 (s.updPwr fun p => { p with twarn := true }))
  else s

/-- Whether something that is done once every `n` ticks is due (13 R508, R512). -/
def cadenceDue (s : State) (n : Nat) (last : Option Nat) : Bool := last.all fun t => decide (t + n ≤ s.now)

/-- Ticks between two samples of the temperature sensors (13 R508). -/
def sampleTicks : Nat := 64

/-- Ticks between two aging measurements: 3,433,228 periods (13 R512). -/
def agingTicks : Nat := 3433228 * 4096

/-- The sensors are sampled, once every 64 ticks: readings, warnings, and the alarm of the tamper path (13 R508 to R510). -/
def execTemperatureSample (temps : Vector Int 8) (s : State) : Host.Outcome State Fault Refusal :=
  if !s.mainUp || !cadenceDue s sampleTicks s.pwr.tempTick then ok s
  else
    let s := s.updPwr fun p => { p with tempTick := some s.now }
    let before := s.pwr.rails
    let s := (List.finRange 8).foldl (fun (s : State) i => s.updRail i (sampleRail s i temps[i])) s
    let s := (List.finRange 8).foldl (warnSensor before) s
    let s := if s.pwr.twarn && !(s.pwr.rails.toList.any Rail.warm) then
        assertBlk 9 (s.updPwr fun p => { p with twarn := false })
      else s
    match temps.toList.find? fun t => decide (t > 4 * alarmTemp s) with
    | some t => ok (tamperAlarm 0x13 false (BitVec.ofInt 32 t) s)
    | none => ok s

/-- The Supervisor measures the aging oscillators, once after every start and then every 3,433,228 periods, and sets each margin at 2 mV
for 0.1% of slowing against the factory baseline, rounded up to 5 mV (13 R512). -/
def execAgingMeasurement (shift : Vector Nat 8) (s : State) : Host.Outcome State Fault Refusal :=
  if !s.mainUp || !procWorks s 1 || !cadenceDue s agingTicks s.pwr.ageTick then ok s
  else
    let rails := Vector.ofFn fun (i : Fin 8) =>
      let slow := slowdown s i.val shift[i]
      { s.pwr.rails[i] with age := min 255 slow, margin := min 255 (5 * ceilDiv (2 * slow) 5) }
    ok (s.updPwr fun p => { p with rails := rails, ageTick := some s.now })

/-- A write of TRH_PWR_CTRL.MIN_CLR (13 Table 13-8). -/
def execMinClr (ident : Ident) (v : BitVec 32) (s : State) : Host.Outcome State Fault Refusal :=
  ok (mgmtWrite ident 0xC04 (writePwrCtrl v) s)

/-- A write of TRH_PWR_CTRL.TMAX_CLR (13 Table 13-8). -/
def execTmaxClr (ident : Ident) (v : BitVec 32) (s : State) : Host.Outcome State Fault Refusal :=
  ok (mgmtWrite ident 0xC04 (writePwrCtrl v) s)

end Sys2Proof.Machine
end

