-- ==== Sys2Proof/Machine/Boundary.lean ====
section
/-! DEFINITION. The tick boundary: what the tick that ends settles, and what the tick that begins finds (02 R62). -/
namespace Sys2Proof.Machine

/-- A tick ends: waiting chains are admitted, steps and levels that ended settle, and lanes that retired are replaced (02 R62). -/
def closeTick (s : State) : State :=
  let s := if engineRuns s then admitWaiting s else s
  let s := { s with reqs := s.reqs.map fun r => goodRun s (countWait s r) }.updVs (goodLoad s)
  let s := s.updTt fun t => { t with holdFreed := [] }
  let s := closeLevels (closeRegions (releasePins (finishSteps s)))
  (settleRetirements (expireWindows (sampleTick (tickUnits s) s))).updFlt gateSidings

/-- What the engines settle at the beginning of a tick before bursts are issued: timers, handles, curves and the entropy state. -/
def openTick (s : State) : State :=
  let s := entropyBoundary (retireCurves (settleHandles (openTimers (settleWords s))))
  countHoldWaits (s.updSs fun v => { v with noent := s.en.state == 3 })

/-- The tick boundary (02 R62). Where no timetable runs, management reads are issued there (08 R342; 16 R590). At an armed cut-over the bursts of the tick wait for the switch, whose windows apply to
them (08 R351; 16 R593). -/
def tickBoundary (s : State) : State :=
  let s := openTick (beginTick (closeTick s))
  if cutDue s then s
  else
    let s := issueWrites (issueDescReads s)
    if s.tt.started then s else issueMgmt false s

end Sys2Proof.Machine
end

