-- ==== Sys2Proof/Machine/StationFamily.lean ====
section
/-! DEFINITION. Meanings of the commands by which the timetable, the admission engine and the stations run
(02, 03, 04, 06, 07). -/
namespace Sys2Proof.Machine

/-! ### Ticks and slots -/

/-- The tick boundary (02 R62). No tick passes while the main domain is in reset, in SCRAP too (15 R542, 18 R624). -/
def execTickBoundary (s : State) : Host.Outcome State Fault Refusal :=
  if !s.mainUp || s.lc.state == lcScrap then ok s else ok (markOverdue (tickBoundary s))

/-- A slot starts (02 R76); `bad` names the pieces on which a pair disagrees. -/
def execSlotStart (bad : List (Nat × Nat)) (s : State) : Host.Outcome State Fault Refusal := ok (slotStart bad s)

/-- A key-bus entry of the slot that runs carries keys to a station (02 R80); each entry runs once. The slots that it reads are tested (01
R31). -/
def execKeyBusTransfer (slot : Fin 8) (dest : Fin 6) (s : State) : Host.Outcome State Fault Refusal :=
  if !s.tt.started || s.locked || isRestarting s 6 || slot.val + 1 != s.tt.slot ||
      s.tt.busDone.contains (slot.val, dest.val) then ok s
  else
    let s := s.updTt fun t => { t with busDone := t.busDone ++ [(slot.val, dest.val)] }
    ok (testTransfers ⟨dest.val, by omega⟩ (keyBusEntry slot.val dest s))

/-! ### Admission, completion, abort -/

/-- The next chain of the order of R126 is taken and checked, in the first 200 cycles of the tick (03 R123, R126, R133,
R635). -/
def execChainAdmission (cycle : Cycle) (s : State) : Host.Outcome State Fault Refusal :=
  if engineRuns s ∧ ¬ cutDue s ∧ cycle.val < 200 then ok (admitNext s) else ok s

/-- The completion writer writes the oldest entry that is due (03 R153); in lockdown it writes none (12 R478). -/
def execCompletionWrite (s : State) : Host.Outcome State Fault Refusal :=
  if s.locked then ok s else ok (writeNextEntry s)

/-- The commit that a stopped request waits for is dropped; one that has opened the journal of a replacement goes on (03 R160; 07 R302; 09
R392; log entry 115). -/
def dropCommit (rid : Nat) (s : State) : State :=
  s.updKs fun k => { k with commits := k.commits.filter fun c => c.rid != some rid || (c.replace && s.nvm.journal.isSome) }

/-- A request stops at the slot boundary at which its abort acts, and its entry is due in the tick after (03 R160). One
whose last piece has ended completes normally (03 R161). -/
def execAbortStop (rid : Nat) (s : State) : Host.Outcome State Fault Refusal :=
  match s.req? rid with
  | none => ok s
  | some r =>
    match r.stopAt with
    | none => ok s
    | some (t, b) =>
      if s.now < t ∨ (s.now = t ∧ s.tt.slot < b) then ok s
      else if pastAbort (abortedByReset s r) r then ok (s.updReq rid fun r => { r with stopAt := none })
      else ok (failRequest rid 0x20 0 (t + 1) (if r.stage = .commit then dropCommit rid s else s))

/-- A step whose counted wait exceeds 4,096 ticks ends its request with `INTERNAL` (02 R105). -/
def execStepWaitTimeout (rid : Nat) (s : State) : Host.Outcome State Fault Refusal :=
  match s.req? rid with
  | none => ok s
  | some r =>
    if r.wait ≤ 4096 then ok s
    else ok ((failRequest rid 0x3F (freeReport s.drawn) s.now s).draw 1)

/-! ### The validation tick -/

/-- Value of a key as the input checkers know it: cached, or as the store or the tree gives it. -/
def keyValue (s : State) (rid : Nat) (pl : PlatEntry) (t h : Nat) : Bytes :=
  ((cachedFor s rid t h).map fun c => readWords c.value c.sym).getD (((resolve s pl t h).map KeyInfo.value).getD [])

/-- Draw the random values of an SS step in its validation tick (07 R308). -/
def drawSealed (rid i n : Nat) (s : State) : State :=
  ((s.updEn (takeBuf n)).updReq rid fun r =>
    r.updStep i (StepState.takeDrawn (drawnBytes s.drawn n))).draw n

/-- Check of one step: its draws, then the tables of checks (06 R278, 07 R309). -/
def validateStep (rid i : Nat) (s : State) : State × Option Nat :=
  match s.req? rid with
  | none => (s, none)
  | some r =>
    let d := r.descs.getD i []
    let c := r.cls.steps.getD i ClassStep.reset
    let x := r.steps.getD i StepState.reset
    let key := if Desc.hasA d then keyValue s rid (s.plat r.plat) r.tenant (Desc.keyA d) else []
    let k := opKind (Desc.op d)
    if k = 4 then (s, vsValidate s d c r.cls.pubExp x.source x.auxiliary key)
    else if k = 5 then
      let n := ceilDiv (ssDrawBits s d c) 8
      if s.en.state = 3 then (s, some 0x30) else (drawSealed rid i n s, ssValidate s d c x.source key)
    else (s, none)

/-- The validation tick: every VS and SS step of the chain is checked, in chain order; the first that fails ends the
request with its status, in the next tick (06 R277 to R280, 07 R308 to R310). -/
def validate (rid : Nat) (s : State) : State :=
  match s.req? rid with
  | none => s
  | some r =>
    let go := fun (acc : State × Option (Nat × Nat)) (i : Nat) =>
      match acc.2 with
      | some _ => acc
      | none => let (s, e) := validateStep rid i acc.1; (s, e.map fun c => (i, c))
    match (List.range r.steps.length).foldl go (s, none) with
    | (s, none) =>
      s.updReq rid fun r =>
        { r with validated := true,
                 readyTick := if r.kind = 4 ∨ r.kind = 5 then max r.readyTick (s.now + 1) else r.readyTick }
    | (s, some (i, code)) => failStep rid i code 0 (s.now + 1) (countStep { r with cur := i } code s)

/-- The validation tick of a request; an abort that acts in it goes first, and one that an earlier step has ended is not validated any more
(02 R70; 03 R142; 06 R277, R281). -/
def execValidationTick (rid : Nat) (s : State) : Host.Outcome State Fault Refusal :=
  match s.req? rid with
  | none => ok s
  | some r =>
    if r.validated || r.stage == .draining || !hasChecked r || decide (s.now ≠ validTick s r) || !operandsIn s r || stopped s r 8 then ok s
    else ok (validate rid s)

/-! ### Releases -/

/-- What has been released goes to the write bobbins in the tick of its release, and a request with nothing left to write
completes in it; at an armed cut-over it waits for the switch (04 Table 04-6; 07 Table 07-9; 08 R345; 16 R593). -/
def writeReleased (s : State) : State := if cutDue s then s else issueWrites s

/-- Held AEAD output is released (04 R202): it goes to the write bobbins, the chain buffer, or both. -/
def execHoldRelease (rid : Nat) (s : State) : Host.Outcome State Fault Refusal :=
  match s.req? rid with
  | none => ok s
  | some r =>
    if r.stage != .release || r.kind != 0 || decide (s.now < r.readyTick) then ok s
    else
      let s := s.updReq rid fun r => { r with stage := .running }.done (.done r.step.output) s.now
      ok (writeReleased s)

/-- The check of an RSA signature on VS has ended: a passed result is released, a failed one is reported and ends its
request (07 R313 to R316). -/
def execRsaCrtCheck (rid : Nat) (s : State) : Host.Outcome State Fault Refusal :=
  match s.req? rid with
  | none => ok s
  | some r =>
    if r.stage != .crtCheck || !r.finished || decide (s.now ≤ r.pieceTick) || isRestarting s 4 then ok s
    else if crtCheck r.check then
      ok (s.updReq rid fun r => { r with stage := .release, readyTick := s.now, finished := false })
    else
      let src := r.signSrc
      let s := s.updSs fun v => { v with crtFail := satInc 0xFFFF v.crtFail }
      ok (failRequest rid 0x3F src s.now (faultReport src 0 s))

/-- Where a released key of OAEP has the length its template gives (07 R319). -/
def oaepKeyOk (s : State) (r : Request) (v : Bytes) : Bool :=
  match templateOf s r.tenant (Desc.keyB r.desc) with
  | some x => v.length == templateBytes s x.alg.toNat x.size
  | none => false

/-- A released result that enters the key cache only: Z, or a key recovered by OAEP (07 R318, R319, Table 07-1). -/
def releaseKey (r : Request) (s : State) : State :=
  match r.step.newKey with
  | none => failRequest r.rid 0x17 0 s.now (countStep r 0x17 s)
  | some (v, _) =>
    if Desc.op r.desc = 0x0605 ∧ !oaepKeyOk s r v then failRequest r.rid 0x17 0 s.now (countStep r 0x17 s)
    else
      let a := ((templateOf s r.tenant (Desc.keyB r.desc)).map fun x => x.alg.toNat).getD 0
      let v := if Desc.op r.desc = 0x0605 then keyForm a v else v
      let aux := if Desc.op r.desc = 0x0605 ∧ (algAes a ∨ a = 0x10 ∨ a = 0x11) then keyKcv a v [] else []
      (receiveKey r v s).updReq r.rid fun r => r.done { StepResult.done [] with aux := aux } s.now

/-- A generated key pair: its public key goes out, its record is committed, or it is placed in the cache at once for a
cache-only template (07 R320 to R322). -/
def releasePair (r : Request) (s : State) : State :=
  match r.step.newKey with
  | none => s
  | some (v, p) =>
    let exp := ((templateOf s r.tenant (Desc.keyB r.desc)).map Template.exp).getD false
    let s := storeKey r v p exp true s
    if (recordNo s r.tenant (Desc.keyB r.desc)).isNone then
      s.updReq r.rid fun r => r.done (.done r.step.output) s.now
    else s.updReq r.rid fun r => { r with stage := .commit }

/-- A matched and checked SS result is released (07 R316). -/
def execSsResultRelease (rid : Nat) (s : State) : Host.Outcome State Fault Refusal :=
  match s.req? rid with
  | none => ok s
  | some r =>
    if r.stage != .release || r.kind != 5 || decide (s.now < r.readyTick) then ok s
    else
      let op := Desc.op r.desc
      let s := s.updReq rid fun r => { r with stage := .running }
      if op = 0x0602 ∨ op = 0x0605 then ok (writeReleased (releaseKey { r with stage := .running } s))
      else if op = 0x0606 ∨ op = 0x0607 then ok (writeReleased (releasePair { r with stage := .running } s))
      else ok (writeReleased (s.updReq rid fun r => r.done (.done r.step.output) s.now))

/-! ### Registers that clear -/

/-- A write of TRH_CS_HOLDn: PEAK_CLR sets PEAK to USED (04 R225). -/
def clearHoldPeak (n : Fin 2) (v : BitVec 32) (s : State) : State :=
  if bitAt v 31 then s.updCs n fun c => { c with holdPeak := c.holdUsed } else s

/-- A write of TRH_CS_HOLDn.PEAK_CLR (04 Table 04-12). -/
def execHoldPeakClr (ident : Ident) (n : Fin 2) (v : BitVec 32) (s : State) : Host.Outcome State Fault Refusal :=
  ok (mgmtWrite ident (0x400 + 4 * n.val) (clearHoldPeak n v) s)

/-- A write of TRH_VS_MEM: PEAK_CLR sets PEAK to USED (06 R291). -/
def clearVsPeak (v : BitVec 32) (s : State) : State :=
  if bitAt v 31 then s.updVs fun x => { x with memPeak := x.memUsed } else s

/-- A write of TRH_VS_MEM.PEAK_CLR (06 Table 06-12). -/
def execVsMemPeakClr (ident : Ident) (v : BitVec 32) (s : State) : Host.Outcome State Fault Refusal :=
  ok (mgmtWrite ident 0x600 (clearVsPeak v) s)

/-- A write of TRH_SS_MEM: PEAK_CLR sets PEAK to USED (07 R330). -/
def clearSsPeak (v : BitVec 32) (s : State) : State :=
  if bitAt v 31 then s.updSs fun x => { x with memPeak := x.memUsed } else s

/-- A write of TRH_SS_MEM.PEAK_CLR (07 Table 07-11). -/
def execSsMemPeakClr (ident : Ident) (v : BitVec 32) (s : State) : Host.Outcome State Fault Refusal :=
  ok (mgmtWrite ident 0x700 (clearSsPeak v) s)

/-- MISS and OVER of a platform restart at 0, in the counts and in their sample (02 Table 02-16; 17 R602). -/
def clearPlat (p : Nat) (s : State) : State :=
  let zero := fun (x : PlatStat) => { x with miss := 0, overs := 0 }
  (s.updPlat p zero).updTt fun t => { t with shown := if h : p < 1024 then t.shown.set p (zero t.shown[p]) else t.shown }

/-- A write of TRH_TT_PLAT_SEL: the platform is selected, and CLR clears its MISS and OVER (02 Table 02-16). -/
def writePlatSel (v : BitVec 32) (s : State) : State :=
  let p := fieldNat v 0 10
  let s := s.updMgmt fun m => { m with platSel := v.extractLsb' 0 10 }
  if bitAt v 31 then clearPlat p s else s

/-- A write of TRH_TT_PLAT_SEL.CLR (02 R110). -/
def execPlatformCountClear (ident : Ident) (v : BitVec 32) (s : State) : Host.Outcome State Fault Refusal :=
  ok (mgmtWrite ident 0x110 (writePlatSel v) s)

end Sys2Proof.Machine
end

