-- ==== Sys2Proof/Machine/TenantFamily.lean ====
section
/-! DEFINITION. Tenant reset (11 R438 to R440, Table 11-4). -/
namespace Sys2Proof.Machine

/-- Both mailboxes of a page are cleared: the outbound one without a notice (11 R439, R446). -/
def clearMailboxes (p : TenantPage) : TenantPage :=
  { p with mbo := { p.mbo with full := false }, mbi := { p.mbi with full := false } }

/-- What a tenant reset changes in the page at once (11 R439). -/
def beginPageReset (p : TenantPage) : TenantPage :=
  clearMailboxes (fifoFlush { p with resetBusy := true, intEnable := 0 })

/-- Whether key entry has a session open, or an operation that waits (11 R439). -/
def keEngaged (e : KeyEntry) : Bool := e.session.isSome || !e.heldOps.isEmpty

/-- An open session ends with result 9, and the operations that wait are discarded, but for the list entry of an invalidation that was
accepted (11 R439; 09 R399). -/
def resetKeyEntry (t : Tenant) (s : State) : State :=
  if keEngaged (s.page t).ke then
    let s := endSession t s
    let s := s.updKe t fun e => { e with heldOps := e.heldOps.filter fun j => j.op = 6, job := e.job.filter fun j => j.op ≠ 2 ∧ j.op ≠ 3 }
    showKe t (keResult t 9 (s.updPage t fun p => { p with keNine := true }))
  else s

/-- The lock is released where an identity of the tenant holds it (11 R439). -/
def dropTenantLock (s : State) (t : Tenant) (m : Mgmt) : Mgmt :=
  if m.held && !m.src && s.tenantOf m.holder == t then freeLock m else m

/-- A tenant reset starts; one that runs is not started again (11 R438, R439). -/
def startTenantReset (t : Tenant) (cyc : Cycle) (s : State) : State :=
  if (s.page t).resetBusy then s
  else
    let s := s.updPage t beginPageReset
    let s := resetKeyEntry t s
    let s := s.updMgmt (dropTenantLock s t)
    markStops (stopBoundary s cyc) (fun r => r.tenant = t.val) s

/-- A write of TN_RESET (11 Table 11-20). -/
def writeTnReset (t : Tenant) (v : BitVec 32) (cyc : Cycle) (s : State) : State :=
  if bitAt v 0 then startTenantReset t cyc s else s

/-- A write of TRH_TN_RESET: the tenant written is kept, and its reset starts (11 Table 11-20). -/
def writeMgmtReset (v : BitVec 32) (cyc : Cycle) (s : State) : State :=
  startTenantReset (tenantFin (fieldNat v 0 6)) cyc (s.updMgmt fun m => { m with tnReset := v.extractLsb' 0 6 })

/-- A write of TN_RESET or TRH_TN_RESET that starts a tenant reset (11 R438). -/
def execTenantReset (ident : Ident) (own : Option Tenant) (v : BitVec 32) (cyc : Cycle) (s : State) :
    Host.Outcome State Fault Refusal :=
  match own with
  | some t => ok (pageWrite ident t 0x604 (writeTnReset t (v ||| 1) cyc) s)
  | none => ok (mgmtWrite ident 0xB10 (writeMgmtReset v cyc) s)

/-- Whether everything that a tenant reset waits for has ended: the entries of its requests are written, its commits have
ended and its rings have stopped fetching (11 R440). -/
def resetSettled (s : State) (t : Tenant) : Bool :=
  !(s.reqs.any fun r => r.tenant = t.val) && !(s.ended.any fun e => e.tenant = t.val) &&
    !(s.ks.commits.any fun c => c.record.tenant = t.val) && (s.page t).rings.toList.all fun r => !r.fetching

/-- The page after a tenant reset (11 Table 11-4). -/
def resetPage (p : TenantPage) : TenantPage :=
  { TenantPage.reset with
    auditHead := p.auditHead, auditCount := p.auditCount, auditThrough := p.auditThrough, auditPend := p.auditPend,
    snapHead := p.snapHead, snapCount := p.snapCount, snapThrough := p.snapThrough, challenge := p.challenge,
    mbo := { TenantPage.reset.mbo with unanswered := p.mbo.unanswered },
    ke := { p.ke with state := 0, result := if p.keNine then 9 else p.ke.result, session := none } }

/-- At the first boundary after the last of a tenant reset's entries, the page takes its values of Table 11-4 and BUSY
clears (11 R440). -/
def execTenantResetDone (t : Tenant) (s : State) : Host.Outcome State Fault Refusal :=
  if (s.page t).resetBusy && s.tt.slot == 0 && resetSettled s t then
    ok (assertBlk 22 (s.updPage t resetPage))
  else ok s

end Sys2Proof.Machine
end

