-- ==== Sys2Proof/Machine/RegisterOps.lean ====
section
/-! DEFINITION. The registers of the block: where each stands, how it may be accessed, what it reads and what a write does
(00 R13 to R19; 17 R599 to R606, Tables 17-3, 17-4). -/
namespace Sys2Proof.Machine

/-- Registers of the management page and of the Supervisor and debug page (17 Table 17-3). -/
inductive MReg where
  /-- `TRH_ID` -/
  | id
  /-- `TRH_TICK` -/
  | tick
  /-- `TRH_TT_STATUS` -/
  | ttStatus
  /-- `TRH_TT_PLAT_SEL` -/
  | platSel
  /-- `TRH_TT_PLAT_STAT` -/
  | platStat
  /-- `TRH_CS_HOLDn` -/
  | csHold (n : Fin 2)
  /-- `TRH_CS_IV_INST` -/
  | ivInst
  /-- `TRH_CS_IVCTR_SEL` -/
  | ivctrSel
  /-- `TRH_CS_IVCTR` -/
  | ivctr
  /-- `TRH_CS_IVMARK` -/
  | ivmark
  /-- `TRH_CS_EVENTSn` -/
  | csEvents (n : Fin 2)
  /-- `TRH_DS_EVENTSn` -/
  | dsEvents (n : Fin 2)
  /-- `TRH_VS_MEM` -/
  | vsMem
  /-- `TRH_VS_CURVE_SEL` -/
  | curveSel
  /-- `TRH_VS_CURVE_STAT` -/
  | curveStat
  /-- `TRH_VS_LOADSTAT` -/
  | loadStat
  /-- `TRH_VS_EVENTS` -/
  | vsEvents
  /-- `TRH_SS_MEM` -/
  | ssMem
  /-- `TRH_SS_STATUS` -/
  | ssStatus
  /-- `TRH_SS_EVENTS` -/
  | ssEvents
  /-- `TRH_FAB_CFG` -/
  | fabCfg
  /-- `TRH_FAB_SHARE_SEL` -/
  | shareSel
  /-- `TRH_FAB_SHARE` -/
  | fabShare
  /-- `TRH_FAB_PORTp` -/
  | fabPort (n : Fin 4)
  /-- `TRH_FAB_EVMAPn` -/
  | evMap (n : Fin 16)
  /-- `TRH_FAB_EVOVR` -/
  | evOvr
  /-- `TRH_KS_STATUS` -/
  | ksStatus
  /-- `TRH_KS_GEN` -/
  | ksGen
  /-- `TRH_KS_SEQ` -/
  | ksSeq
  /-- `TRH_KS_CACHE` -/
  | ksCache
  /-- `TRH_KS_EVENTS` -/
  | ksEvents
  /-- `TRH_EN_STATUS` -/
  | enStatus
  /-- `TRH_EN_CTRL` -/
  | enCtrl
  /-- `TRH_EN_RESEED` -/
  | enReseed
  /-- `TRH_EN_BUF` -/
  | enBuf
  /-- `TRH_EN_EVENTS` -/
  | enEvents
  /-- `TRH_EN_SRCs` -/
  | enSrc (n : Fin 4)
  /-- `TRH_MGMT_LOCK` -/
  | mgmtLock
  /-- `TRH_MGMT_LEASE` -/
  | lease
  /-- `TRH_MGMT_LOCKSTAT` -/
  | lockStat
  /-- `TRH_TN_RESET` -/
  | mgmtReset
  /-- `TRH_TN_FOREIGN` -/
  | foreign
  /-- `TRH_INT_BLK_STATUS` -/
  | blkStatus
  /-- `TRH_INT_BLK_ENABLE` -/
  | blkEnable
  /-- `TRH_INT_BLK_ROUTEi` -/
  | route (n : Fin 4)
  /-- `TRH_MB_OUT_DATAn` -/
  | mbOutData (n : Fin 8)
  /-- `TRH_MB_SEND` -/
  | mbSend
  /-- `TRH_MB_OUT_STAT` -/
  | mbOutStat
  /-- `TRH_MB_IN_ACK` -/
  | mbInAck
  /-- `TRH_MB_IN_STAT` -/
  | mbInStat
  /-- `TRH_MB_IN_STAMP` -/
  | mbInStamp
  /-- `TRH_MB_IN_DATAn` -/
  | mbInData (n : Fin 8)
  /-- `TRH_PWR_STATUS` -/
  | pwrStatus
  /-- `TRH_PWR_CTRL` -/
  | pwrCtrl
  /-- `TRH_PWR_VCORE` -/
  | pwrVcore
  /-- `TRH_PWR_CAUTION` -/
  | pwrCaution
  /-- `TRH_PWR_STN_SEL` -/
  | stnSel
  /-- `TRH_PWR_STN` -/
  | pwrStn
  /-- `TRH_PWR_CAL_SEL` -/
  | calSel
  /-- `TRH_PWR_CAL` -/
  | pwrCal
  /-- `TRH_TMP_STATUS` -/
  | tmpStatus
  /-- `TRH_TMP_INPUTS` -/
  | tmpInputs
  /-- `TRH_TMP_FIRST` -/
  | tmpFirst
  /-- `TRH_TMP_FIRST_TIME` -/
  | tmpFirstTime
  /-- `TRH_TMP_COUNT` -/
  | tmpCount
  /-- `TRH_TMP_HEADn` -/
  | tmpHead (n : Fin 4)
  /-- `TRH_TMP_RTC` -/
  | tmpRtc
  /-- `TRH_TMP_CELL` -/
  | tmpCell
  /-- `TRH_CFG_STATUS` -/
  | cfgStatus
  /-- `TRH_CFG_SEQ` -/
  | cfgSeq
  /-- `TRH_CFG_READY` -/
  | cfgReady
  /-- `TRH_CFG_CUTOVER` -/
  | cfgCutover
  /-- `TRH_CFG_NVM` -/
  | cfgNvm
  /-- `TRH_FLT_STATUS` -/
  | fltStatus
  /-- `TRH_FLT_FIRST` -/
  | fltFirst
  /-- `TRH_FLT_FIRST_TICK` -/
  | fltFirstTick
  /-- `TRH_FLT_COUNT` -/
  | fltCount
  /-- `TRH_FLT_SEV_SEL` -/
  | sevSel
  /-- `TRH_FLT_SEV` -/
  | fltSev
  /-- `TRH_FLT_ACK` -/
  | fltAck
  /-- `TRH_FLT_ESC` -/
  | fltEsc
  /-- `TRH_FLT_LANE_SEL` -/
  | laneSel
  /-- `TRH_FLT_LANEMAP` -/
  | laneMap
  /-- `TRH_FLT_PROOF` -/
  | fltProof
  /-- `TRH_FLT_INJECT` -/
  | fltInject
  /-- `TRH_FLT_INJ_STAT` -/
  | injStat
  /-- `TRH_FLT_DUMP` -/
  | fltDump
  /-- `TRH_LC_STATUS` -/
  | lcStatus
  /-- `TRH_LC_SLOTS` -/
  | lcSlots
  /-- `TRH_LC_UID0` -/
  | uid0
  /-- `TRH_LC_UID1` -/
  | uid1
  /-- `TRH_DBG_STATUS` -/
  | dbgStatus
  /-- `TRH_DBG_CORE` -/
  | dbgCore
  /-- `TRH_DBG_ACCESS` -/
  | dbgAccess
  /-- `TRH_DBG_DATA` -/
  | dbgData
  /-- `TRH_DBG_ASTAT` -/
  | dbgAstat
deriving DecidableEq, Repr

/-- Registers of a tenant page (17 Table 17-4). -/
inductive PReg where
  /-- `TN_RQ_BASE_k` -/
  | rqBase (k : RingNo)
  /-- `TN_CQ_BASE_k` -/
  | cqBase (k : RingNo)
  /-- `TN_RING_CFG_k` -/
  | ringCfg (k : RingNo)
  /-- `TN_RING_STAT_k` -/
  | ringStat (k : RingNo)
  /-- `TN_SQ_TAIL_k` -/
  | sqTail (k : RingNo)
  /-- `TN_SQ_HEAD_k` -/
  | sqHead (k : RingNo)
  /-- `TN_CQ_TAIL_k` -/
  | cqTail (k : RingNo)
  /-- `TN_CQ_HEAD_k` -/
  | cqHead (k : RingNo)
  /-- `TN_COAL_k` -/
  | coal (k : RingNo)
  /-- `TN_AUDIT_HEADn` -/
  | auditHead (n : Fin 4)
  /-- `TN_AUDIT_COUNT` -/
  | auditCount
  /-- `TN_AUDIT_THROUGH` -/
  | auditThrough
  /-- `TN_AUDIT_SNAP` -/
  | auditSnap
  /-- `TN_ABORT` -/
  | abort
  /-- `TN_ABORT_STAT` -/
  | abortStat
  /-- `TN_FIFO_CTRL` -/
  | fifoCtrl
  /-- `TN_FIFO_STAT` -/
  | fifoStat
  /-- `TN_WIN_BASE_n` -/
  | winBase (n : Fin 8)
  /-- `TN_WIN_LIMIT_n` -/
  | winLimit (n : Fin 8)
  /-- `TN_FAB_SHARE` -/
  | tnShare
  /-- `TN_FAB_STAT` -/
  | fabStat
  /-- `TN_KE_CTRL` -/
  | keCtrl
  /-- `TN_KE_KCV` -/
  | keKcv
  /-- `TN_KE_STAT` -/
  | keStat
  /-- `TN_KE_DATAn` -/
  | keData (n : Fin 8)
  /-- `TN_INT_STATUS` -/
  | intStatus
  /-- `TN_INT_ENABLE` -/
  | intEnable
  /-- `TN_MBO_DATAn` -/
  | mboData (n : Fin 8)
  /-- `TN_MBO_SEND` -/
  | mboSend
  /-- `TN_MBO_STAT` -/
  | mboStat
  /-- `TN_MBI_DATAn` -/
  | mbiData (n : Fin 8)
  /-- `TN_MBI_STAMP` -/
  | mbiStamp
  /-- `TN_MBI_ACK` -/
  | mbiAck
  /-- `TN_MBI_STAT` -/
  | mbiStat
  /-- `TN_ID` -/
  | tnId
  /-- `TN_RESET` -/
  | tnReset
  /-- `TN_FAULTS` -/
  | tnFaults
  /-- `TN_BLOCK_ID` -/
  | blockId
deriving DecidableEq, Repr

/-- Offsets of `n` registers of one kind (17 Tables 17-3, 17-4). -/
def rowOf {α : Type} (n base stride : Nat) (f : Fin n → α) : List (Nat × α) :=
  (List.finRange n).map fun i => (base + stride * i.val, f i)

/-- Offsets of the management page (17 Table 17-3). -/
def mgmtTable : List (Nat × MReg) :=
  List.flatten [
    [(0x0, .id), (0x100, .tick), (0x108, .ttStatus), (0x110, .platSel), (0x118, .platStat)],
    rowOf 2 0x400 0x4 MReg.csHold,
    [(0x408, .ivInst), (0x410, .ivctrSel), (0x418, .ivctr), (0x420, .ivmark)],
    rowOf 2 0x428 0x8 MReg.csEvents,
    rowOf 2 0x500 0x8 MReg.dsEvents,
    [(0x600, .vsMem), (0x604, .curveSel), (0x608, .curveStat), (0x60C, .loadStat), (0x610, .vsEvents), (0x700, .ssMem),
   (0x704, .ssStatus), (0x708, .ssEvents), (0x800, .fabCfg), (0x804, .shareSel), (0x808, .fabShare)],
    rowOf 4 0x810 0x8 MReg.fabPort,
    rowOf 16 0x840 0x4 MReg.evMap,
    [(0x880, .evOvr), (0x900, .ksStatus), (0x904, .ksGen), (0x908, .ksSeq), (0x910, .ksCache), (0x918, .ksEvents),
   (0xA00, .enStatus), (0xA04, .enCtrl), (0xA08, .enReseed), (0xA10, .enBuf), (0xA18, .enEvents)],
    rowOf 4 0xA20 0x8 MReg.enSrc,
    [(0xB00, .mgmtLock), (0xB04, .lease), (0xB08, .lockStat), (0xB10, .mgmtReset), (0xB18, .foreign),
   (0xB20, .blkStatus), (0xB28, .blkEnable)],
    rowOf 4 0xB30 0x4 MReg.route,
    rowOf 8 0xB40 0x8 MReg.mbOutData,
    [(0xB80, .mbSend), (0xB84, .mbOutStat), (0xB88, .mbInAck), (0xB8C, .mbInStat), (0xB90, .mbInStamp)],
    rowOf 8 0xBC0 0x8 MReg.mbInData,
    [(0xC00, .pwrStatus), (0xC04, .pwrCtrl), (0xC08, .pwrVcore), (0xC10, .pwrCaution), (0xC18, .stnSel),
   (0xC20, .pwrStn), (0xC28, .calSel), (0xC30, .pwrCal), (0xD00, .tmpStatus), (0xD04, .tmpInputs),
   (0xD08, .tmpFirst), (0xD10, .tmpFirstTime), (0xD18, .tmpCount)],
    rowOf 4 0xD20 0x8 MReg.tmpHead,
    [(0xD40, .tmpRtc), (0xD48, .tmpCell), (0xE00, .cfgStatus), (0xE04, .cfgSeq), (0xE08, .cfgReady),
   (0xE10, .cfgCutover), (0xE18, .cfgNvm)]]

/-- Offsets of the Supervisor and debug page (17 Table 17-3). -/
def supTable : List (Nat × MReg) :=
  List.flatten [
    [(0x10000, .fltStatus), (0x10008, .fltFirst), (0x10010, .fltFirstTick), (0x10018, .fltCount), (0x10020, .sevSel),
   (0x10024, .fltSev), (0x10028, .fltAck), (0x10030, .fltEsc), (0x10038, .laneSel), (0x10040, .laneMap),
   (0x10048, .fltProof), (0x10050, .fltInject), (0x10058, .injStat), (0x10060, .fltDump), (0x10100, .lcStatus),
   (0x10104, .lcSlots), (0x10108, .uid0), (0x10110, .uid1), (0x10118, .dbgStatus), (0x10120, .dbgCore),
   (0x10128, .dbgAccess), (0x10130, .dbgData), (0x10138, .dbgAstat)]]

/-- Offsets within a tenant page (17 Table 17-4). -/
def pageTable : List (Nat × PReg) :=
  List.flatten [
    rowOf 4 0x0 0x40 PReg.rqBase,
    rowOf 4 0x8 0x40 PReg.cqBase,
    rowOf 4 0x10 0x40 PReg.ringCfg,
    rowOf 4 0x14 0x40 PReg.ringStat,
    rowOf 4 0x18 0x40 PReg.sqTail,
    rowOf 4 0x1C 0x40 PReg.sqHead,
    rowOf 4 0x20 0x40 PReg.cqTail,
    rowOf 4 0x24 0x40 PReg.cqHead,
    rowOf 4 0x28 0x40 PReg.coal,
    rowOf 4 0x100 0x8 PReg.auditHead,
    [(0x120, .auditCount), (0x128, .auditThrough), (0x130, .auditSnap), (0x140, .abort), (0x144, .abortStat),
   (0x180, .fifoCtrl), (0x184, .fifoStat)],
    rowOf 8 0x200 0x10 PReg.winBase,
    rowOf 8 0x208 0x10 PReg.winLimit,
    [(0x280, .tnShare), (0x284, .fabStat), (0x300, .keCtrl), (0x304, .keKcv), (0x308, .keStat)],
    rowOf 8 0x340 0x8 PReg.keData,
    [(0x400, .intStatus), (0x404, .intEnable)],
    rowOf 8 0x500 0x8 PReg.mboData,
    [(0x540, .mboSend), (0x544, .mboStat)],
    rowOf 8 0x580 0x8 PReg.mbiData,
    [(0x5C0, .mbiStamp), (0x5C8, .mbiAck), (0x5CC, .mbiStat), (0x600, .tnId), (0x604, .tnReset), (0x608, .tnFaults),
   (0x610, .blockId)]]

/-- A register 64 bits wide (17 Table 17-3). -/
def MReg.wide (r : MReg) : Bool :=
  match r with
  | .id | .tick | .platStat | .ivctr | .ivmark | .csEvents _ | .dsEvents _ | .vsEvents | .ssEvents | .fabPort _
  | .ksSeq | .ksCache | .ksEvents | .enReseed | .enBuf | .enEvents | .enSrc _ | .lockStat | .foreign | .blkStatus
  | .blkEnable | .mbOutData _ | .mbInStamp | .mbInData _ | .pwrCaution | .pwrStn | .pwrCal | .tmpFirst | .tmpFirstTime
  | .tmpCount | .tmpHead _ | .tmpRtc | .cfgReady | .cfgCutover | .fltFirst | .fltFirstTick | .fltCount | .fltEsc
  | .laneMap | .fltProof | .fltInject | .fltDump | .uid0 | .uid1 | .dbgStatus | .dbgAccess | .dbgData => true
  | _ => false

/-- A register 64 bits wide (17 Table 17-4). -/
def PReg.wide (r : PReg) : Bool :=
  match r with
  | .rqBase _ | .cqBase _ | .auditHead _ | .auditCount | .auditThrough | .winBase _ | .winLimit _ | .keData _
  | .mboData _ | .mbiData _ | .mbiStamp | .blockId => true
  | _ => false

/-- A 64-bit register with a field of type W1C, WO or WS: it acts on an access of its full width only (00 R16). -/
def MReg.whole (r : MReg) : Bool :=
  match r with
  | .enBuf | .blkStatus | .tmpFirst | .fltFirst | .fltInject | .dbgAccess => true
  | _ => false

/-- A 64-bit register with a field of type W1C, WO or WS: it acts on an access of its full width only (00 R16). -/
def PReg.whole (r : PReg) : Bool :=
  match r with
  | .keData _ => true
  | _ => false

/-- The value of a 32-bit write. -/
def low32 (v : BitVec 64) : BitVec 32 := v.extractLsb' 0 32

/-- `TRH_ID` (17 Table 17-5). -/
def trhId : BitVec 64 := 0x5440480041000100#64

/-! ### Values -/

/-- TRH_TT_STATUS (02 Table 02-15). -/
def readTtStatus (s : State) : BitVec 64 :=
  place s.tt.cause.toNat 16 ||| placeB s.tt.causeV 11 ||| placeB s.cfg.bank 8 ||| place s.tt.active.toNat 0

/-- TRH_TT_PLAT_STAT: the selected platform as sampled at the latest boundary (02 R111, Table 02-17). -/
def readPlatStat (s : State) : BitVec 64 :=
  let p := s.tt.shown.toList.getD s.mgmt.platSel.toNat PlatStat.reset
  place p.miss 48 ||| place p.overs 32 ||| place (p.level / oneToken % 65536) 16 ||| place p.depth 0

/-- TRH_CS_IV_INST (04 Table 04-13). -/
def readIvInst (s : State) : BitVec 64 :=
  match s.image.instNo with
  | some i => i.zeroExtend 64
  | none => place (fieldNat (s.otpRow 0) 0 26) 0

/-- The counter of the selected key, while it has one (04 Table 04-14). -/
def shownIv (s : State) : Option IvCtr :=
  let t := s.mgmt.ivTenant.toNat
  let h := s.mgmt.ivHandle.toNat
  if hasCounter s t h then ivOf s t h else none

/-- TRH_CS_IVCTR_SEL (04 Table 04-14). -/
def readIvSel (s : State) : BitVec 64 :=
  placeB (shownIv s).isSome 31 ||| place s.mgmt.ivTenant.toNat 20 ||| place s.mgmt.ivHandle.toNat 0

/-- TRH_CS_HOLDn (04 Table 04-12). -/
def readHold (c : CipherStation) : BitVec 64 := place c.holdPeak 16 ||| place c.holdUsed 0

/-- TRH_CS_EVENTSn (04 Table 04-16). -/
def readCsEvents (c : CipherStation) : BitVec 64 :=
  place c.tagMis 48 ||| place c.pinFmt 32 ||| place c.holdWait 16 ||| place c.macNeg 0

/-- TRH_DS_EVENTSn (05 Table 05-7). -/
def readDsEvents (d : DigestStation) : BitVec 64 :=
  place d.cmpNeg 48 ||| place d.blobBad 32 ||| place d.saves 16 ||| place d.resumes 0

/-- TRH_VS_MEM and TRH_SS_MEM (06 Table 06-12, 07 Table 07-11). -/
def readMem (used peak : Nat) : BitVec 64 := place peak 16 ||| place used 0

/-- TRH_VS_EVENTS (06 Table 06-16). -/
def readVsEvents (v : Verify) : BitVec 64 :=
  place v.verNeg 48 ||| place v.range 32 ||| place v.curve 16 ||| place v.pairMis 0

/-- Pairs of SS that serve logical positions: 2 after a pair is lost, else 3; no other value is reported (07 Table 07-12). -/
def servingPairs (s : State) : Nat :=
  max 2 ((List.range 8).filter fun p => decide (((s.roles 40).filter fun r => r.toNat = p).length ≥ 2)).length

/-- TRH_SS_STATUS (07 Table 07-12). -/
def readSsStatus (s : State) : BitVec 64 :=
  placeB s.ss.hold 31 ||| placeB s.ss.noent 30 ||| place (spareCount s 40) 5 ||| place (servingPairs s) 0

/-- TRH_SS_EVENTS (07 Table 07-13). -/
def readSsEvents (v : Sealed) : BitVec 64 :=
  place v.rerun 48 ||| place v.crtFail 32 ||| place v.noentCnt 16 ||| place v.refuse 0

/-- TRH_FAB_SHARE and TN_FAB_SHARE (08 Table 08-7). -/
def readShares (s : State) (t : Tenant) : BitVec 64 :=
  place (shareOf s t 3) 24 ||| place (shareOf s t 2) 16 ||| place (shareOf s t 1) 8 ||| place (shareOf s t 0) 0

/-- Declared share of a port (08 R343). -/
def declaredShare (s : State) (p : Nat) : Nat := 136 + ((List.finRange 64).map fun t => shareOf s t p).sum

/-- TRH_FAB_PORTp (08 Table 08-8). -/
def readPort (s : State) (p : Fin 4) : BitVec 64 :=
  let x := s.fab.ports[p]
  place x.late 48 ||| place x.err 32 ||| place x.timeout 24 ||| place x.peak 16 ||| place (declaredShare s p.val % 512) 0

/-- TRH_MGMT_LOCKSTAT (11 Table 11-23). -/
def readLockStat (m : Mgmt) : BitVec 64 :=
  place m.denied 48 ||| place m.expired 32 ||| placeB m.held 31 ||| placeB m.src 30 ||| place m.holder.toNat 16 |||
    place m.remain 0

/-- TRH_TN_RESET (11 Table 11-20). -/
def readMgmtReset (s : State) : BitVec 64 :=
  placeB (s.page (tenantFin s.mgmt.tnReset.toNat)).resetBusy 31 ||| place s.mgmt.tnReset.toNat 0

/-- TRH_TN_FOREIGN (11 Table 11-24). -/
def readForeign (m : Mgmt) : BitVec 64 :=
  place m.fgnOffset.toNat 40 ||| placeB m.fgnWrite 39 ||| placeB m.fgnTenV 38 ||| place m.fgnTenant.toNat 32 |||
    place m.fgnIdent.toNat 16 ||| place m.fgnCount 0

/-- TRH_CFG_STATUS (16 Table 16-17). -/
def readCfgStatus (c : Config) : BitVec 64 :=
  place c.stage.toNat 28 ||| place c.cause.toNat 16 ||| placeB c.fallback 2 ||| placeB c.area 1 ||| placeB c.unconf 0

/-- TRH_CFG_CUTOVER (16 Table 16-19). -/
def readCutover (s : State) : BitVec 64 :=
  let c := s.cfg
  let halts := ((List.finRange 3).map fun i => if s.procs[i].halted then 2 ^ i.val else 0).sum
  place c.coState.toNat 60 ||| place c.attempts 56 ||| place c.coCause.toNat 48 ||| place c.armed.toNat 40 ||| place halts 37 |||
    place (c.target % 4294967296) 0

/-- TRH_CFG_NVM (16 Table 16-20). -/
def readCfgNvm (n : Nvm) : BitVec 64 := placeB n.present 31 ||| place n.sizeN 28 ||| place n.errors 0

/-- TN_ID as an identity reads it (11 R437, Table 11-19). -/
def readTnId (s : State) (i : Ident) (t : Tenant) : BitVec 64 :=
  place (s.roleOf i) 30 ||| place i.toNat 12 ||| place t.val 0

/-- Value of a register of the management page or of the Supervisor and debug page: fields of type WO read 0 (00 Table 00-4).
TRH_MGMT_LOCK is read by `acquireLock`. -/
def readM (s : State) (r : MReg) : BitVec 64 :=
  match r with
  | .id => trhId
  | .tick => s.tick
  | .ttStatus => readTtStatus s
  | .platSel => place s.mgmt.platSel.toNat 0
  | .platStat => readPlatStat s
  | .csHold n => readHold s.cs[n]
  | .ivInst => readIvInst s
  | .ivctrSel => readIvSel s
  | .ivctr => place (((shownIv s).map fun v => v.shown.1).getD 0) 0
  | .ivmark => place (((shownIv s).map fun v => v.shown.2).getD 0) 0
  | .csEvents n => readCsEvents s.cs[n]
  | .dsEvents n => readDsEvents s.ds[n]
  | .vsMem => readMem s.vs.memUsed s.vs.memPeak
  | .curveSel => place s.mgmt.curveSel.toNat 0
  | .curveStat => readCurveStat s
  | .loadStat => readLoadStat s
  | .vsEvents => readVsEvents s.vs
  | .ssMem => readMem s.ss.memUsed s.ss.memPeak
  | .ssStatus => readSsStatus s
  | .ssEvents => readSsEvents s.ss
  | .fabCfg => place (s.image.mgmtCap % 256) 0
  | .shareSel => place s.mgmt.shareSel.toNat 0
  | .fabShare => readShares s (tenantFin s.mgmt.shareSel.toNat)
  | .fabPort n => readPort s n
  | .evMap n => s.fab.evMap[n].zeroExtend 64
  | .evOvr => s.fab.evOvr.zeroExtend 64
  | .ksStatus => readKsStatus s
  | .ksGen => s.ks.gen.zeroExtend 64
  | .ksSeq => s.ks.seq
  | .ksCache => readKsCache s
  | .ksEvents => readKsEvents s
  | .enStatus => readEnStatus s
  | .enCtrl => 0
  | .enReseed => readEnReseed s
  | .enBuf => readEnBuf s
  | .enEvents => readEnEvents s
  | .enSrc n => readEnSrc n s
  | .mgmtLock => 0
  | .lease => place s.mgmt.lease.toNat 0
  | .lockStat => readLockStat s.mgmt
  | .mgmtReset => readMgmtReset s
  | .foreign => readForeign s.mgmt
  | .blkStatus => s.mgmt.intStatus
  | .blkEnable => s.mgmt.intEnable
  | .route n => s.mgmt.route[n].zeroExtend 64
  | .mbOutData n => s.mgmt.mbo.data[n]
  | .mbSend => 0
  | .mbOutStat => readMboStat none s
  | .mbInAck => 0
  | .mbInStat => readMbiStat none s
  | .mbInStamp => readMbiStamp none s
  | .mbInData n => readMbiData none n s
  | .pwrStatus => readPwrStatus s
  | .pwrCtrl => 0
  | .pwrVcore => readPwrVcore s
  | .pwrCaution => readPwrCaution s
  | .stnSel => place s.mgmt.stnSel.toNat 0
  | .pwrStn => readPwrStn s
  | .calSel => place s.mgmt.calSel.toNat 0
  | .pwrCal => readPwrCal s
  | .tmpStatus => readTmpStatus s
  | .tmpInputs => readTmpInputs s
  | .tmpFirst => readTmpFirst s
  | .tmpFirstTime => s.aon.first.time
  | .tmpCount => s.aon.count
  | .tmpHead n => place (leAt s.aon.head (8 * n.val) 8) 0
  | .tmpRtc => s.aon.rtc
  | .tmpCell => readTmpCell s
  | .cfgStatus => readCfgStatus s.cfg
  | .cfgSeq => s.cfg.seq.zeroExtend 64
  | .cfgReady => s.cfg.ready
  | .cfgCutover => readCutover s
  | .cfgNvm => readCfgNvm s.nvm
  | .fltStatus => readFltStatus s
  | .fltFirst => readFltFirst s
  | .fltFirstTick => s.flt.fTick
  | .fltCount => readFltCount s
  | .sevSel => place s.mgmt.sevSel.toNat 0
  | .fltSev => readFltSev s
  | .fltAck => 0
  | .fltEsc => readFltEsc s
  | .laneSel => place s.mgmt.laneSel.toNat 0
  | .laneMap => laneMap s s.mgmt.laneSel.toNat
  | .fltProof => readFltProof s
  | .fltInject => 0
  | .injStat => readFltInj s
  | .fltDump => readFltDump s
  | .lcStatus => readLcStatus s
  | .lcSlots => readLcSlots s
  | .uid0 => s.otpRow 0
  | .uid1 => s.otpRow 1
  | .dbgStatus => readDbgStatus s
  | .dbgCore => readDbgCore s
  | .dbgAccess => 0
  | .dbgData => s.dbg.data
  | .dbgAstat => readDbgAstat s

/-- Value of a register of page `t` as identity `i` reads it: fields of type WO and WS read 0 (00 Table 00-4). -/
def readP (s : State) (i : Ident) (t : Tenant) (r : PReg) : BitVec 64 :=
  let p := s.page t
  match r with
  | .rqBase k => (s.ring t k).rqBase
  | .cqBase k => (s.ring t k).cqBase
  | .ringCfg k => readRingCfg (s.ring t k)
  | .ringStat k => readRingStat (s.ring t k)
  | .sqTail k => (s.ring t k).sqTail.zeroExtend 64
  | .sqHead k => (s.ring t k).sqHead.zeroExtend 64
  | .cqTail k => readCqTail (s.ring t k)
  | .cqHead k => (s.ring t k).cqHead.zeroExtend 64
  | .coal k => readCoal (s.ring t k)
  | .auditHead n => place (leAt p.snapHead (8 * n.val) 8) 0
  | .auditCount => p.snapCount
  | .auditThrough => p.snapThrough
  | .auditSnap => 0
  | .abort => 0
  | .abortStat => readAbortStat p
  | .fifoCtrl => place p.fifoLevel.toNat 0
  | .fifoStat => readFifoStat p
  | .winBase n => (windowOf s t n.val).base
  | .winLimit n => (windowOf s t n.val).limit
  | .tnShare => readShares s t
  | .fabStat => place p.fabLate 16 ||| place p.fabErr 0
  | .keCtrl => 0
  | .keKcv => place p.ke.kcv.toNat 0
  | .keStat => readKeStat t s
  | .keData _ => 0
  | .intStatus => p.intStatus.zeroExtend 64
  | .intEnable => p.intEnable.zeroExtend 64
  | .mboData n => p.mbo.data[n]
  | .mboSend => 0
  | .mboStat => readMboStat (some t) s
  | .mbiData n => readMbiData (some t) n s
  | .mbiStamp => readMbiStamp (some t) s
  | .mbiAck => 0
  | .mbiStat => readMbiStat (some t) s
  | .tnId => readTnId s i t
  | .tnReset => placeB p.resetBusy 31
  | .tnFaults => place p.foreign 0
  | .blockId => trhId

/-! ### Writes -/

/-- Writable bits of TRH_FAB_EVMAPn (08 Table 08-9). -/
def evMapBits : BitVec 32 := 0x8FFF0000#32

/-- A write of TRH_CS_IVCTR_SEL (04 Table 04-14). -/
def writeIvSel (v : BitVec 64) (m : Mgmt) : Mgmt := { m with ivTenant := v.extractLsb' 20 6, ivHandle := v.extractLsb' 0 20 }

/-- A write of TRH_INT_BLK_STATUS: W1C (11 Table 11-24). -/
def writeBlkStatus (v : BitVec 64) (m : Mgmt) : Mgmt := { m with intStatus := m.intStatus &&& ~~~ v }

/-- A write of TN_INT_STATUS: W1C (11 Table 11-12). -/
def writeIntStatus (v : BitVec 64) (p : TenantPage) : TenantPage :=
  { p with intStatus := p.intStatus &&& ~~~ v.extractLsb' 0 4 }

/-- A write of a register of the management page or of the Supervisor and debug page that the port lets through; `cyc` is its
DCLK cycle, and `pass` what the pattern test finds where it starts a BIST. Writes of RO fields are ignored. TRH_FLT_ACK is
written by the Supervisor alone (12 R492). -/
def writeM (i : Ident) (cyc : Cycle) (pass : Bool) (r : MReg) (v : BitVec 64) (s : State) : State :=
  match r with
  | .platSel => writePlatSel (low32 v) s
  | .csHold n => clearHoldPeak n (low32 v) s
  | .ivctrSel => s.updMgmt (writeIvSel v)
  | .vsMem => clearVsPeak (low32 v) s
  | .curveSel => s.updMgmt fun m => { m with curveSel := v.extractLsb' 0 5 }
  | .ssMem => clearSsPeak (low32 v) s
  | .shareSel => s.updMgmt fun m => { m with shareSel := v.extractLsb' 0 6 }
  | .evMap n => s.updFab fun f => { f with evMap := f.evMap.set n (low32 v &&& evMapBits) }
  | .evOvr => s.updFab fun f => { f with evOvr := f.evOvr &&& ~~~ v.extractLsb' 0 16 }
  | .enCtrl => writeEnCtrl (low32 v) s
  | .enBuf => writeEnBuf v s
  | .mgmtLock => s.updMgmt (releaseLock i (low32 v))
  | .lease => s.updMgmt fun m => { m with lease := v.extractLsb' 0 16 }
  | .mgmtReset => writeMgmtReset (low32 v) cyc s
  | .blkStatus => s.updMgmt (writeBlkStatus v)
  | .blkEnable => s.updMgmt fun m => { m with intEnable := v }
  | .route n => s.updMgmt fun m => { m with route := m.route.set n (low32 v) }
  | .mbOutData n => writeMboData none n v s
  | .mbSend => sendMessage none i (low32 v) s
  | .mbOutStat => writeMboStat none (low32 v) s
  | .mbInAck => ackMessage none (low32 v) s
  | .pwrCtrl => writePwrCtrl (low32 v) s
  | .stnSel => s.updMgmt fun m => { m with stnSel := v.extractLsb' 0 3 }
  | .calSel => s.updMgmt fun m => { m with calSel := v.extractLsb' 0 8 }
  | .tmpFirst => writeTmpFirst v s
  | .fltFirst => writeFltFirst v s
  | .sevSel => s.updMgmt fun m => { m with sevSel := v.extractLsb' 0 16 }
  | .laneSel => s.updMgmt fun m => { m with laneSel := v.extractLsb' 0 6 }
  | .fltInject => writeInject false v s
  | .dbgCore => writeDbgCore (low32 v) s
  | .dbgAccess => writeDbgAccess pass v s
  | .dbgData => s.updDbg fun d => { d with data := v }
  | _ => s

/-- A write of a register of page `t` that the port lets through. Writes of RO fields are ignored. -/
def writeP (i : Ident) (cyc : Cycle) (t : Tenant) (r : PReg) (v : BitVec 64) (s : State) : State :=
  match r with
  | .rqBase k => writeRqBase t k v s
  | .cqBase k => writeCqBase t k v s
  | .ringCfg k => writeRingCfg t k (low32 v) s
  | .ringStat k => writeRingStat t k (low32 v) s
  | .sqTail k => doorbell t k (low32 v) s
  | .cqHead k => writeCqHead t k (low32 v) s
  | .coal k => writeCoal t k (low32 v) s
  | .auditSnap => auditSnap t (low32 v) s
  | .abort => abortWrite t (low32 v) cyc s
  | .fifoCtrl => writeFifoCtrl t (low32 v) s
  | .fifoStat => writeFifoStat t (low32 v) s
  | .keCtrl => writeKeCtrl i t v s
  | .keKcv => writeKeKcv i t (low32 v) s
  | .keData n => writeKeData i t n v s
  | .intStatus => s.updPage t (writeIntStatus v)
  | .intEnable => s.updPage t fun p => { p with intEnable := v.extractLsb' 0 4 }
  | .mboData n => writeMboData (some t) n v s
  | .mboSend => sendMessage (some t) i (low32 v) s
  | .mboStat => writeMboStat (some t) (low32 v) s
  | .mbiAck => ackMessage (some t) (low32 v) s
  | .tnReset => writeTnReset t (low32 v) cyc s
  | _ => s

/-! ### Any register -/

/-- A register where it stands. -/
inductive Place where
  | mgmt (r : MReg)
  | page (t : Tenant) (r : PReg)
deriving DecidableEq, Repr

/-- The register that an offset of a region lists (17 Tables 17-3, 17-4). -/
def regAt (rg : Region) (off : Nat) : Option Place :=
  match rg with
  | .mgmt => (mgmtTable.lookup off).map .mgmt
  | .sup => (supTable.lookup off).map .mgmt
  | .page t _ => (pageTable.lookup (off % 0x1000)).map (.page t)
  | .fifo _ | .unassigned => none

/-- Whether a register is 64 bits wide. -/
def Place.wide : Place → Bool
  | .mgmt r => r.wide
  | .page _ r => r.wide

/-- Whether a 64-bit register acts on an access of its full width only (00 R16). -/
def Place.whole : Place → Bool
  | .mgmt r => r.whole
  | .page _ r => r.whole

/-- What an access reaches: a register whole, one half of a 64-bit register, or nothing (00 R15, 17 R601). -/
inductive Target where
  | full (p : Place)
  | half (p : Place) (high : Bool)
  | reserved
deriving DecidableEq, Repr

/-- Target of a 32-bit access. -/
def target32 (rg : Region) (off : Nat) : Target :=
  match regAt rg off with
  | some p => if p.wide then .half p false else .full p
  | none =>
    match (if off % 8 = 4 then regAt rg (off - 4) else none) with
    | some p => if p.wide then .half p true else .reserved
    | none => .reserved

/-- Targets of an access, in ascending offset: a 64-bit access at an offset that holds 32-bit registers is two 32-bit ones
(17 R601); one that meets no register is one reserved access (00 R18). -/
def targets (rg : Region) (off : Nat) (w : Width) : List Target :=
  match w with
  | .w8 | .w16 => [.reserved]
  | .w32 => [target32 rg off]
  | .w64 =>
    match regAt rg off with
    | some p => if p.wide then [.full p] else [.full p, target32 rg (off + 4)]
    | none => if (regAt rg (off + 4)).isSome then [.reserved, target32 rg (off + 4)] else [.reserved]

/-- Bytes of an access width. -/
def Width.bytes : Width → Nat
  | .w8 => 1
  | .w16 => 2
  | .w32 => 4
  | .w64 => 8

/-- Whether the port refuses an access by its width or its offset (17 R600). -/
def refusedAccess (off : Nat) (w : Width) : Bool := decide (Width.bytes w < 4) || off % Width.bytes w != 0

/-- A read of a register: TRH_MGMT_LOCK acquires (11 R450), every other read changes nothing. -/
def readPlace (i : Ident) (p : Place) (s : State) : State × BitVec 64 :=
  match p with
  | .mgmt .mgmtLock =>
    let x := acquireLock false i s.mgmt
    ({ s with mgmt := x.1 }, x.2)
  | .mgmt r => (s, readM s r)
  | .page t r => (s, readP s i t r)

/-- The half of a word that an access of 32 bits reads. -/
def halfOf (v : BitVec 64) (high : Bool) : BitVec 64 := (v.extractLsb' (if high then 32 else 0) 32).zeroExtend 64

/-- A word with one half replaced. -/
def withHalf (old : BitVec 64) (high : Bool) (v : BitVec 64) : BitVec 64 :=
  if high then (old &&& 0xFFFFFFFF#64) ||| (v <<< 32) else (old &&& ~~~ 0xFFFFFFFF#64) ||| (v &&& 0xFFFFFFFF#64)

/-- Read one target (00 R15, R16, R18). -/
def readTarget (i : Ident) (x : Target) (s : State) : State × BitVec 64 :=
  match x with
  | .full p => readPlace i p s
  | .half p high =>
    if p.whole then (s, 0)
    else
      let y := readPlace i p s
      (y.1, halfOf y.2 high)
  | .reserved => (reservedAccess s, 0)

/-- Read the targets of an access: the second gives the upper half of the value. -/
def readTargets (i : Ident) (l : List Target) (s : State) : State × BitVec 64 :=
  match l with
  | [] => (s, 0)
  | [x] => readTarget i x s
  | x :: y :: _ =>
    let a := readTarget i x s
    let b := readTarget i y a.1
    (b.1, a.2 ||| (b.2 <<< 32))

/-- Registers that answer while the port is shut: TRH_ID and TRH_LC_STATUS, and until stage 3 ends TRH_CFG_STATUS (15 R542,
16 R588). -/
def answersShut (s : State) (p : Place) : Bool :=
  match p with
  | .mgmt .id | .mgmt .lcStatus => true
  | .mgmt .cfgStatus => s.lc.state != lcScrap
  | _ => false

/-- The value of a read while the port is shut: no record is made and nothing changes (16 R588). -/
def shutValue (i : Ident) (x : Target) (s : State) : BitVec 64 :=
  match x with
  | .full p => if answersShut s p then (readPlace i p s).2 else 0
  | .half p high => if answersShut s p then halfOf (readPlace i p s).2 high else 0
  | .reserved => 0

/-- The value of an access while the port is shut. -/
def shutRead (i : Ident) (l : List Target) (s : State) : BitVec 64 :=
  match l with
  | [] => 0
  | [x] => shutValue i x s
  | x :: y :: _ => shutValue i x s ||| (shutValue i y s <<< 32)

/-- A read access of the port (00 R18; 11 R434 to R436; 15 R542; 16 R588; 17 R599 to R601). -/
def portRead (i : Ident) (off : Nat) (w : Width) (s : State) : State :=
  let rg := regionOf off
  let l := if refusedAccess off w then [Target.reserved] else targets rg off w
  match verdict s i rg false false with
  | .shut => s.respond (if s.mainUp then shutRead i l s else 0)
  | .foreign => if refusedAccess off w then (reservedAccess s).respond 0 else (foreignAccess i off false s).respond 0
  | _ =>
    let x := readTargets i l s
    x.1.respond x.2

/-- Write one register where the port lets the write through: the lock rules of 11 R455, 12 R492 and 15 R571, and the rule of a
running tenant reset (11 R439), apply to each register. -/
def writePlace (i : Ident) (cyc : Cycle) (pass : Bool) (rg : Region) (p : Place) (v : BitVec 64) (s : State) : State :=
  match verdict s i rg true (p == .mgmt .mgmtLock) with
  | .denied => deniedWrite s
  | .go =>
    match p with
    | .mgmt r => writeM i cyc pass r v s
    | .page t r => writeP i cyc t r v s
  | _ => s

/-- Write one target: half of a register that acts on its full width only ignores the write (00 R15, R16, R18). -/
def writeTarget (i : Ident) (cyc : Cycle) (pass : Bool) (rg : Region) (x : Target) (v : BitVec 64) (s : State) : State :=
  match x with
  | .full p => writePlace i cyc pass rg p v s
  | .half p high =>
    if p.whole then s else writePlace i cyc pass rg p (withHalf (readPlace i p s).2 high v) s
  | .reserved => reservedAccess s

/-- Write the targets of an access: the second takes the upper half of the value. -/
def writeTargets (i : Ident) (cyc : Cycle) (pass : Bool) (rg : Region) (l : List Target) (v : BitVec 64) (s : State) : State :=
  match l with
  | [] => s
  | [x] => writeTarget i cyc pass rg x v s
  | x :: y :: _ =>
    writeTarget i cyc pass rg y (halfOf v true) (writeTarget i cyc pass rg x (halfOf v false) s)

/-- A write to a FIFO window: a register of Table 03-13 at 64 bits, else a reserved access (03 R151, R152). -/
def fifoPort (i : Ident) (t : Tenant) (off : Nat) (w : Width) (v : BitVec 64) (s : State) : State :=
  let o := off % 0x1000
  let add := fun (b : Bytes) (last : Bool) => gateWrite i off (.fifo t) false (fun s => s.updPage t (fifoWrite b last)) s
  if w ≠ .w64 then (reservedAccess s).respond 0
  else if o = 0 then add (leBytes 8 v.toNat) false
  else if 0x100 ≤ o ∧ o < 0x140 then add (leBytes ((o - 0x100) / 8 + 1) v.toNat) true
  else (reservedAccess s).respond 0

/-- A write access of the port (00 R18; 11 R434 to R436; 15 R542; 16 R588; 17 R599 to R601). -/
def portWrite (i : Ident) (cyc : Cycle) (pass : Bool) (off : Nat) (w : Width) (v : BitVec 64) (s : State) : State :=
  let rg := regionOf off
  match verdict s i rg true true with
  | .shut => s.respond 0
  | x =>
    if refusedAccess off w then (reservedAccess s).respond 0
    else if x = .foreign then (foreignAccess i off true s).respond 0
    else match rg with
      | .fifo t => fifoPort i t off w v s
      | _ => (writeTargets i cyc pass rg (targets rg off w) v s).respond 0

end Sys2Proof.Machine
end

