-- ==== Sys2Proof/Machine/RegisterFamily.lean ====
section
/-! DEFINITION. Meanings of the register accesses without a row of their own (00 R19; 11 R436). -/
namespace Sys2Proof.Machine

/-- A write of any register, by its offset and width (00 R14 to R19; 17 R599 to R603). `cyc` is its DCLK cycle; `pass` is what
the pattern test finds where the write starts a BIST. -/
def execRegisterWrite (ident : Ident) (a : BitVec 24) (w : Width) (v : BitVec 64) (cyc : Cycle) (pass : Bool) (s : State) :
    Host.Outcome State Fault Refusal :=
  ok (portWrite ident cyc pass a.toNat w v s)

/-- A read of any register, by its offset and width (00 R14 to R19; 11 R436; 17 R599 to R602). -/
def execRegisterRead (ident : Ident) (a : BitVec 24) (w : Width) (s : State) : Host.Outcome State Fault Refusal :=
  ok (portRead ident a.toNat w s)

end Sys2Proof.Machine
end

