-- ==== Sys2Proof/Machine/RingFamily.lean ====
section
/-! DEFINITION. Meanings of the ring, FIFO, abort and audit commands that are register writes (03). -/
namespace Sys2Proof.Machine

/-- Offset of a ring pair register in the tenant page (03 R128). -/
def ringAt (k : RingNo) (o : Nat) : Nat := 0x40 * k.val + o

/-- A write of TN_RING_CFG_k that sets ENABLE (03 R116). -/
def execRingEnable (ident : Ident) (t : Tenant) (k : RingNo) (v : BitVec 32) (s : State) :
    Host.Outcome State Fault Refusal :=
  ok (pageWrite ident t (ringAt k 0x10) (writeRingCfg t k (v ||| 0x80000000#32)) s)

/-- A write of TN_RING_CFG_k that clears ENABLE (03 R117). -/
def execRingDisable (ident : Ident) (t : Tenant) (k : RingNo) (v : BitVec 32) (s : State) :
    Host.Outcome State Fault Refusal :=
  ok (pageWrite ident t (ringAt k 0x10) (writeRingCfg t k (v &&& 0x7FFFFFFF#32)) s)

/-- A write of TN_SQ_TAIL_k (03 R118, R119). -/
def execDoorbell (ident : Ident) (t : Tenant) (k : RingNo) (v : BitVec 32) (s : State) :
    Host.Outcome State Fault Refusal :=
  ok (pageWrite ident t (ringAt k 0x18) (doorbell t k v) s)

/-- A write of TN_CQ_HEAD_k (03 R119, R121). -/
def execCompletionHeadWrite (ident : Ident) (t : Tenant) (k : RingNo) (v : BitVec 32) (s : State) :
    Host.Outcome State Fault Refusal :=
  ok (pageWrite ident t (ringAt k 0x24) (writeCqHead t k v) s)

/-- A write of TN_FIFO_DATA: 8 bytes (03 R144). -/
def execFifoData (ident : Ident) (t : Tenant) (v : BitVec 64) (s : State) : Host.Outcome State Fault Refusal :=
  ok (gateWrite ident (fifoOff t 0) (.fifo t) false (fun s => s.updPage t (fifoWrite (leBytes 8 v.toNat) false)) s)

/-- A write of TN_FIFO_LAST_n: its n low-order bytes, and the item ends (03 R144). `n` is one less than the count. -/
def execFifoLast (ident : Ident) (t : Tenant) (n : Fin 8) (v : BitVec 64) (s : State) :
    Host.Outcome State Fault Refusal :=
  ok (gateWrite ident (fifoOff t (0x100 + 8 * n.val)) (.fifo t) false
    (fun s => s.updPage t (fifoWrite (leBytes (n.val + 1) v.toNat) true)) s)

/-- A write of TN_FIFO_CTRL with FLUSH (03 R149). -/
def execFlush (ident : Ident) (t : Tenant) (v : BitVec 32) (s : State) : Host.Outcome State Fault Refusal :=
  ok (pageWrite ident t 0x180 (writeFifoCtrl t (v ||| 0x80000000#32)) s)

/-- A write of TN_ABORT (03 R159, R163). -/
def execAbort (ident : Ident) (t : Tenant) (v : BitVec 32) (cyc : Cycle) (s : State) :
    Host.Outcome State Fault Refusal :=
  ok (pageWrite ident t 0x140 (abortWrite t v cyc) s)

/-- A write of TN_AUDIT_SNAP (03 R168). -/
def execAuditSnap (ident : Ident) (t : Tenant) (v : BitVec 32) (s : State) : Host.Outcome State Fault Refusal :=
  ok (pageWrite ident t 0x130 (auditSnap t v) s)

/-- The audit head is extended for the oldest completion tick that has ended and is not yet in it (03 R165, R167). -/
def execAuditExtend (t : Tenant) (s : State) : Host.Outcome State Fault Refusal :=
  match (sortBy AuditRec.tick (s.page t).auditPend).head? with
  | some r => if r.tick < s.now then ok (s.updPage t fun p => auditExtend p r.tick) else ok s
  | none => ok s

/-- At a boundary the age of the oldest pending entry has reached TIME: COMPLETION is asserted and the pending count
cleared (03 R157). -/
def execCoalesceTimerExpiry (t : Tenant) (k : RingNo) (s : State) : Host.Outcome State Fault Refusal :=
  let r := s.ring t k
  match r.oldest with
  | some o =>
    if r.coalTime ≠ 0 ∧ s.now ≥ o + r.coalTime.toNat then
      ok (assertTn t srcCompletion (s.updRing t k fun r => { r with pend := 0, oldest := none }))
    else ok s
  | none => ok s

end Sys2Proof.Machine
end

