-- ==== Sys2Proof/Machine/StartFamily.lean ====
section
/-! DEFINITION. Meanings of the reset and start-up commands (13 R505, R506; 14 R527; 16 R586 to R590; 18 R624, R625). -/
namespace Sys2Proof.Machine

/-- The always-on rail rises: the domain leaves reset with its validity marker invalid (14 R530; 18 R624). -/
def execAonPowerUp (s : State) : Host.Outcome State Fault Refusal :=
  if s.aon.up then ok s
  else ok (s.updAon fun a => { Aon.reset with up := true, marker := false, onCell := a.onCell })

/-- The main domain is released and makes a cold start (16 R586; 18 R624). It is released only on main power, with the
always-on domain up. -/
def execMainResetRelease (nvm : Option (Fin 8)) (s : State) : Host.Outcome State Fault Refusal :=
  if s.mainUp || !s.aon.up || s.aon.onCell then ok s else ok (release (nvm.map Fin.val) s)

/-- Stage 2 ends (16 R586). -/
def execImageRead (good : Bool) (s : State) : Host.Outcome State Fault Refusal :=
  if s.cfg.stage = 2 then ok (readImage good s) else ok s

/-- Stage 3 ends (16 R585, R589). -/
def execSignatureAndPatchCheck (s : State) : Host.Outcome State Fault Refusal :=
  if s.cfg.stage = 3 then ok (checkImage s) else ok s

/-- Stage 4 ends (09 R405; 14 R530; 15 R544; 16 R579). A start that reroots waits for the draw, and one whose NVM may not be
written for its supply (13 R506). -/
def execRootAndResidentKeyLoad (s : State) : Host.Outcome State Fault Refusal :=
  if s.cfg.stage = 4 ∧ s.pwr.nvmLow = false then
    (if needsReroot (readMarker s) && !rerootReady s then ok s else ok ((loadRoot s).updCfg fun c => { c with stage := 5 }))
  else ok s

/-- Stage 5 ends, the curve checks of the image before it (01 R38; 14 R538; 16 R586). It writes the mirror, and so waits while NVM_LOW
is 1 (13 R506). -/
def execKnownAnswerTests (failed : List (Fin 64 × Fin 16)) (s : State) : Host.Outcome State Fault Refusal :=
  if s.cfg.stage = 5 ∧ s.vs.loads.isEmpty ∧ s.pwr.nvmLow = false then ok (runTests (failed.map fun x => (x.1.val, x.2.val)) s) else ok s

/-- The rings open at the first period boundary after stage 5 (16 R586). -/
def execRingsOpen (s : State) : Host.Outcome State Fault Refusal :=
  if s.cfg.stage = 6 ∧ s.pos = 0 ∧ ¬ s.locked then ok (openRings s) else ok s

/-- The main domain enters reset on TRH_RST_N low, or is held there in SCRAP (15 R542; 18 R624, R625). -/
def execMainDomainReset (scrap : Bool) (s : State) : Host.Outcome State Fault Refusal :=
  if scrap then (if s.lc.state = lcScrap then ok (resetScrap s) else ok s) else ok (resetMain s)

/-- VDD_CORE crosses the reset level: the main domain resets at once, and the always-on domain draws from VBAT; it samples on while
it switches, for less than a unit of its clock (13 R505; 14 R527). -/
def execVddCoreResetCrossing (s : State) : Host.Outcome State Fault Refusal :=
  ok ((resetMain s).updAon fun a => { a with onCell := true, window := some a.rtc })

/-- Main power returns: the always-on domain samples continuously again (14 R527). -/
def execMainPowerReturn (s : State) : Host.Outcome State Fault Refusal :=
  ok (s.updAon fun a => { a with onCell := false, window := none })

/-- The always-on rail falls, which it does only without main power: the domain loses what it holds (18 R624). -/
def execAlwaysOnReset (s : State) : Host.Outcome State Fault Refusal :=
  if s.aon.up && s.aon.onCell then ok (s.updAon fun _ => { Aon.reset with up := false, onCell := true, marker := false }) else ok s

/-- VDD_IO_NVM is back: NVM_LOW clears, and the program and erase commands that waited for it are made: the old image pointer, the mirror of
a closed start, a wipe (13 R506; 15 R553). -/
def execNvmSupplyRestored (s : State) : Host.Outcome State Fault Refusal :=
  let s := s.updPwr fun p => { p with nvmLow := false }
  let s := if s.cfg.ptrWaits then restorePointer s else s
  let s := if s.cfg.logWaits then verifyLog (s.updCfg fun c => { c with logWaits := false }) else s
  if s.lc.phase = 2 ∧ s.lc.burning = 2 ∧ ¬ s.lc.wiped then ok (eraseAreas s.lc.next.toNat s) else ok s

end Sys2Proof.Machine
end

