-- ==== Sys2Proof/Machine/TamperFamily.lean ====
section
/-! DEFINITION. Meanings of the tamper commands (14 R519 to R540). -/
namespace Sys2Proof.Machine

/-- The reading of an alarm: that of the always-on sensor after its factory trim (13 R511, Table 13-5, item 0x1A). -/
def alarmReading (s : State) (src : BitVec 8) (detail : BitVec 32) : BitVec 32 :=
  if src = 0x13 then detail + BitVec.ofInt 32 (calFactory s 0x1A) else detail

/-- Whether a reading is an alarm of its source: below -50 C, or on the cell above the retained TALARM; VBAT below or above its limits
(13 R511; 14 Table 14-1). -/
def alarmHolds (s : State) (src : BitVec 8) (reading : BitVec 32) : Bool :=
  if src = 0x13 then decide (reading.toInt < -200) || (s.aon.onCell && decide (4 * s.aon.talarm < reading.toInt))
  else if src = 0x16 then decide (reading.toNat < 2300)
  else if src = 0x17 then decide (reading.toNat < 2100)
  else if src = 0x18 then decide (3900 < reading.toNat) else true

/-- The state in which a sample is taken: the real-time clock has run on, where no tick counts the time. -/
def atSample (s : State) : State := if s.mainUp then s else advanceClock s

/-- A tamper source alarms on two consecutive bad samples, and its response is carried out (14 R523, R526, R527). A reading within the
limits of its source is no alarm. -/
def execTamperAlarm (src : BitVec 8) (rail : Bool) (detail : BitVec 32) (s : State) : Host.Outcome State Fault Refusal :=
  let x := alarmReading s src detail
  if s.aon.alarmed.contains src || !sourceWatched (atSample s) src.toNat || !alarmHolds s src x then ok s
  else
    let s := (atSample s).updAon fun a => if src = 0x13 then { a with reading := x.toInt } else a
    ok (tamperAlarm src rail x s)

/-- A source that has read good for 64 consecutive samples re-arms (14 R533). -/
def execTamperSourceRearm (src : BitVec 8) (s : State) : Host.Outcome State Fault Refusal :=
  if s.aon.alarmed.contains src then
    ok (s.updAon fun a =>
      markInput src.toNat false false
        { a with alarmed := a.alarmed.filter (· ≠ src), cellLow := a.cellLow && src != 0x16 })
  else ok s

/-- On the cell a sampling window opens; it ends 62.5 us of the real-time clock later (14 R527). -/
def execBackupWindowOpen (s : State) : Host.Outcome State Fault Refusal :=
  if s.aon.up && s.aon.onCell then
    let s := advanceClock s
    ok (s.updAon fun a => { a with window := some (a.rtc + windowUnits) })
  else ok s

/-- The Custody processor mirrors the pending entries; they leave the buffer when the copy has been read back, outside
lockdown (14 R536). -/
def execTamperLogMirror (verifies : Bool) (s : State) : Host.Outcome State Fault Refusal :=
  let idle := s.aon.pendLog.isEmpty && s.aon.summary.isNone
  let cus := s.procs[(0 : Fin 3)]
  if !s.mainUp || s.locked || s.pwr.nvmLow || !s.nvm.present || idle || cus.restart.isSome || cus.halted || cus.resuming.isSome || s.dbg.haltCus || !s.aon.marker then
    ok s
  else if verifies then ok (mirrorPending s)
  else ok (s.updNvm fun n => { n with errors := satInc 0xFFFF n.errors })

/-- A write of TRH_TMP_FIRST.VALID (14 R539). -/
def execTamperFirstClear (ident : Ident) (v : BitVec 64) (s : State) : Host.Outcome State Fault Refusal :=
  ok (mgmtWrite ident 0xD08 (writeTmpFirst v) s)

end Sys2Proof.Machine
end

