-- ==== Sys2Proof/Machine/Dispatch.lean ====
section
/-! DEFINITION. One arm per command: a direct call of its meaning, or a rejection by name. -/
namespace Sys2Proof.Machine

/-- The meaning of a command on everything but the queue. -/
def exec (i : Instr) (s : State) : Host.Outcome State Fault Refusal :=
  match i with
  | .aonPowerUp => Sys2Proof.Machine.execAonPowerUp s
  | .mainResetRelease nvm => Sys2Proof.Machine.execMainResetRelease nvm s
  | .imageRead good => Sys2Proof.Machine.execImageRead good s
  | .signatureAndPatchCheck => Sys2Proof.Machine.execSignatureAndPatchCheck s
  | .rootAndResidentKeyLoad => Sys2Proof.Machine.execRootAndResidentKeyLoad s
  | .knownAnswerTests failed => Sys2Proof.Machine.execKnownAnswerTests failed s
  | .ringsOpen => Sys2Proof.Machine.execRingsOpen s
  | .mainDomainReset scrap => Sys2Proof.Machine.execMainDomainReset scrap s
  | .vddCoreResetCrossing => Sys2Proof.Machine.execVddCoreResetCrossing s
  | .supplyWarningCrossing cycle mv => Sys2Proof.Machine.execSupplyWarningCrossing cycle mv s
  | .ssHoldEnter => Sys2Proof.Machine.execSsHoldEnter s
  | .cautionRecoveryDeclaration => Sys2Proof.Machine.execCautionRecoveryDeclaration s
  | .nvmSupplyLow => Sys2Proof.Machine.execNvmSupplyLow s
  | .regulatorTargetUpdate st fmon => Sys2Proof.Machine.execRegulatorTargetUpdate st fmon s
  | .temperatureSample temps => Sys2Proof.Machine.execTemperatureSample temps s
  | .agingMeasurement shift => Sys2Proof.Machine.execAgingMeasurement shift s
  | .tamperAlarm src rail detail => Sys2Proof.Machine.execTamperAlarm src rail detail s
  | .tamperSourceRearm src => Sys2Proof.Machine.execTamperSourceRearm src s
  | .backupWindowOpen => Sys2Proof.Machine.execBackupWindowOpen s
  | .tamperLogMirror verifies => Sys2Proof.Machine.execTamperLogMirror verifies s
  | .tickBoundary => Sys2Proof.Machine.execTickBoundary s
  | .descriptorDataLanded port tag data ns cycle => Sys2Proof.Machine.execDescriptorDataLanded port tag data ns cycle s
  | .chainAdmission cycle => Sys2Proof.Machine.execChainAdmission cycle s
  | .validationTick rid => Sys2Proof.Machine.execValidationTick rid s
  | .slotStart bad => Sys2Proof.Machine.execSlotStart bad s
  | .keyBusTransfer slot dest => Sys2Proof.Machine.execKeyBusTransfer slot dest s
  | .ivMarkWrite t handle => Sys2Proof.Machine.execIvMarkWrite t handle s
  | .missDerivation rid => Sys2Proof.Machine.execMissDerivation rid s
  | .freightKeyLoad rid => Sys2Proof.Machine.execFreightKeyLoad rid s
  | .holdRelease rid => Sys2Proof.Machine.execHoldRelease rid s
  | .rsaCrtCheck rid => Sys2Proof.Machine.execRsaCrtCheck rid s
  | .ssResultRelease rid => Sys2Proof.Machine.execSsResultRelease rid s
  | .stepWaitTimeout rid => Sys2Proof.Machine.execStepWaitTimeout rid s
  | .abortStop rid => Sys2Proof.Machine.execAbortStop rid s
  | .completionWrite => Sys2Proof.Machine.execCompletionWrite s
  | .coalesceTimerExpiry t k => Sys2Proof.Machine.execCoalesceTimerExpiry t k s
  | .auditExtend t => Sys2Proof.Machine.execAuditExtend t s
  | .readBurstReturn port tag data err flight => Sys2Proof.Machine.execReadBurstReturn port tag data err flight s
  | .writeResponse port tag err flight => Sys2Proof.Machine.execWriteResponse port tag err flight s
  | .burstTimeout port write tag => Sys2Proof.Machine.execBurstTimeout port write tag s
  | .faultReport source detail owner cycle => Sys2Proof.Machine.execFaultReport source detail owner cycle s
  | .sidingTakeover eng => Sys2Proof.Machine.execSidingTakeover eng s
  | .contingencySwitch => Sys2Proof.Machine.execContingencySwitch s
  | .escalationExpiry source => Sys2Proof.Machine.execEscalationExpiry source s
  | .faultAck v => Sys2Proof.Machine.execFaultAck v s
  | .stationRestart st => Sys2Proof.Machine.execStationRestart st s
  | .stationRejoin st => Sys2Proof.Machine.execStationRejoin st s
  | .lockdown => Sys2Proof.Machine.execLockdown s
  | .dumpWrite good => Sys2Proof.Machine.execDumpWrite good s
  | .lockstepMismatch p => Sys2Proof.Machine.execLockstepMismatch p s
  | .controlProcessorResume p => Sys2Proof.Machine.execControlProcessorResume p s
  | .scrub source word detail owner => Sys2Proof.Machine.execScrub source word detail owner s
  | .checkerProof source good => Sys2Proof.Machine.execCheckerProof source good s
  | .plannedShunt eng lane siding => Sys2Proof.Machine.execPlannedShunt eng lane siding s
  | .faultInjection ident v => Sys2Proof.Machine.execFaultInjection ident v s
  | .firstErrorClear ident v => Sys2Proof.Machine.execFirstErrorClear ident v s
  | .faultRecordTake => Sys2Proof.Machine.execFaultRecordTake s
  | .sourceHealthFailure n cause => Sys2Proof.Machine.execSourceHealthFailure n cause s
  | .sourceRejoin n => Sys2Proof.Machine.execSourceRejoin n s
  | .sourceRetestTimer n => Sys2Proof.Machine.execSourceRetestTimer n s
  | .retest ident v => Sys2Proof.Machine.execRetest ident v s
  | .conditionedBlock runs apts => Sys2Proof.Machine.execConditionedBlock runs apts s
  | .drbgInstantiate => Sys2Proof.Machine.execDrbgInstantiate s
  | .drbgReseed => Sys2Proof.Machine.execDrbgReseed s
  | .drbgGenerate mismatch => Sys2Proof.Machine.execDrbgGenerate mismatch s
  | .ringEnable ident t k v => Sys2Proof.Machine.execRingEnable ident t k v s
  | .ringDisable ident t k v => Sys2Proof.Machine.execRingDisable ident t k v s
  | .doorbell ident t k v => Sys2Proof.Machine.execDoorbell ident t k v s
  | .completionHeadWrite ident t k v => Sys2Proof.Machine.execCompletionHeadWrite ident t k v s
  | .fifoData ident t v => Sys2Proof.Machine.execFifoData ident t v s
  | .fifoLast ident t n v => Sys2Proof.Machine.execFifoLast ident t n v s
  | .flush ident t v => Sys2Proof.Machine.execFlush ident t v s
  | .abort ident t v cyc => Sys2Proof.Machine.execAbort ident t v cyc s
  | .auditSnap ident t v => Sys2Proof.Machine.execAuditSnap ident t v s
  | .platformCountClear ident v => Sys2Proof.Machine.execPlatformCountClear ident v s
  | .holdPeakClr ident n v => Sys2Proof.Machine.execHoldPeakClr ident n v s
  | .vsMemPeakClr ident v => Sys2Proof.Machine.execVsMemPeakClr ident v s
  | .ssMemPeakClr ident v => Sys2Proof.Machine.execSsMemPeakClr ident v s
  | .lowClr ident v => Sys2Proof.Machine.execLowClr ident v s
  | .minClr ident v => Sys2Proof.Machine.execMinClr ident v s
  | .tmaxClr ident v => Sys2Proof.Machine.execTmaxClr ident v s
  | .tamperFirstClear ident v => Sys2Proof.Machine.execTamperFirstClear ident v s
  | .start ident t v => Sys2Proof.Machine.execStart ident t v s
  | .component ident t v => Sys2Proof.Machine.execComponent ident t v s
  | .finish ident t v => Sys2Proof.Machine.execFinish ident t v s
  | .cancel ident t v => Sys2Proof.Machine.execCancel ident t v s
  | .invalidate ident t v => Sys2Proof.Machine.execInvalidate ident t v s
  | .keCompareResult t => Sys2Proof.Machine.execKeCompareResult t s
  | .keSessionTimeout t => Sys2Proof.Machine.execKeSessionTimeout t s
  | .keyStoreCommit good => Sys2Proof.Machine.execKeyStoreCommit good s
  | .send ident box v => Sys2Proof.Machine.execSend ident box v s
  | .ack ident box v => Sys2Proof.Machine.execAck ident box v s
  | .mailboxDelivery => Sys2Proof.Machine.execMailboxDelivery s
  | .unknownRequestCode => Sys2Proof.Machine.execUnknownRequestCode s
  | .tenantWaybill => Sys2Proof.Machine.execTenantWaybill s
  | .debugChallenge => Sys2Proof.Machine.execDebugChallenge s
  | .debugPass payload => Sys2Proof.Machine.execDebugPass payload s
  | .curveLoad payload => Sys2Proof.Machine.execCurveLoad payload s
  | .curveLoadComplete timeout => Sys2Proof.Machine.execCurveLoadComplete timeout s
  | .curveUnload => Sys2Proof.Machine.execCurveUnload s
  | .curveRetired ix => Sys2Proof.Machine.execCurveRetired ix s
  | .storageKeyRotation => Sys2Proof.Machine.execStorageKeyRotation s
  | .rotationBlockCopy => Sys2Proof.Machine.execRotationBlockCopy s
  | .pointerFlip => Sys2Proof.Machine.execPointerFlip s
  | .reroot => Sys2Proof.Machine.execReroot s
  | .blockWaybill => Sys2Proof.Machine.execBlockWaybill s
  | .waybillSigned good => Sys2Proof.Machine.execWaybillSigned good s
  | .lifeCycleTransition => Sys2Proof.Machine.execLifeCycleTransition s
  | .authoritySeal payload => Sys2Proof.Machine.execAuthoritySeal payload s
  | .otpProgramComplete err => Sys2Proof.Machine.execOtpProgramComplete err s
  | .configurationAmendment => Sys2Proof.Machine.execConfigurationAmendment s
  | .amendmentImageLoaded payload good => Sys2Proof.Machine.execAmendmentImageLoaded payload good s
  | .configInstall payload good => Sys2Proof.Machine.execConfigInstall payload good s
  | .firmwareHandover => Sys2Proof.Machine.execFirmwareHandover s
  | .dumpRetrieval good => Sys2Proof.Machine.execDumpRetrieval good s
  | .cutoverArmCheck => Sys2Proof.Machine.execCutoverArmCheck s
  | .cutoverSwitch => Sys2Proof.Machine.execCutoverSwitch s
  | .handoverHalt p => Sys2Proof.Machine.execHandoverHalt p s
  | .handoverResume p good => Sys2Proof.Machine.execHandoverResume p good s
  | .tenantReset ident own v cyc => Sys2Proof.Machine.execTenantReset ident own v cyc s
  | .tenantResetDone t => Sys2Proof.Machine.execTenantResetDone t s
  | .lockAcquire ident => Sys2Proof.Machine.execLockAcquire ident s
  | .lockRelease ident v => Sys2Proof.Machine.execLockRelease ident v s
  | .processorLockRequest p ask => Sys2Proof.Machine.execProcessorLockRequest p ask s
  | .leaseExpiry => Sys2Proof.Machine.execLeaseExpiry s
  | .dbgHalt ident v => Sys2Proof.Machine.execDbgHalt ident v s
  | .dbgStep ident v => Sys2Proof.Machine.execDbgStep ident v s
  | .dbgResume ident v => Sys2Proof.Machine.execDbgResume ident v s
  | .dbgRead ident v => Sys2Proof.Machine.execDbgRead ident v s
  | .dbgWrite ident v => Sys2Proof.Machine.execDbgWrite ident v s
  | .bist ident v pass => Sys2Proof.Machine.execBist ident v pass s
  | .registerWrite ident a w v cyc pass => Sys2Proof.Machine.execRegisterWrite ident a w v cyc pass s
  | .mainPowerReturn => Sys2Proof.Machine.execMainPowerReturn s
  | .alwaysOnReset => Sys2Proof.Machine.execAlwaysOnReset s
  | .nvmSupplyRestored => Sys2Proof.Machine.execNvmSupplyRestored s
  | .registerRead ident a w => Sys2Proof.Machine.execRegisterRead ident a w s
  | .amendmentPrepared good => Sys2Proof.Machine.execAmendmentPrepared good s
  | .inactiveBankReload owner good => Sys2Proof.Machine.execInactiveBankReload owner good s
  | .cacheSlotReload t handle => Sys2Proof.Machine.execCacheSlotReload t handle s

end Sys2Proof.Machine
end

