-- ==== Sys2Proof/Safety.lean ====
section
/-! DEFINITION. What counts as a safe state and a safe run, in the terms the statements use. -/
namespace Sys2Proof.Machine

/-- The parts of the state that only a few named operations change: the statements over every command speak of these. -/
structure Fixed where
  /-- the queue of waiting commands -/
  pending : List Instr
  /-- TRH_TICK -/
  tick : BitVec 64
  /-- elapsed time -/
  wall : Nat
  /-- the main domain is out of reset -/
  mainUp : Bool
  /-- fuse rows -/
  otp : Vector (BitVec 64) 128
  /-- TRH_CFG_STATUS.STAGE -/
  stage : BitVec 4
  /-- TRH_CFG_CUTOVER.STATE -/
  coState : BitVec 4
  /-- slots of the tick that have run -/
  slot : Nat
  /-- the timetable has started -/
  started : Bool
  /-- TRH_LC.STATE -/
  lcState : BitVec 4
  /-- the block is in lockdown -/
  lockdown : Bool
  /-- the battery-backed key -/
  bbk : Option Bytes
  /-- the management lock: held, by a processor, by which identity -/
  lock : Bool × Bool × Ident

/-- Those parts of a state. -/
def State.fixed (s : State) : Fixed :=
  { pending := s.pending, tick := s.tick, wall := s.wall, mainUp := s.mainUp, otp := s.otp, stage := s.cfg.stage,
    coState := s.cfg.coState, slot := s.tt.slot, started := s.tt.started, lcState := s.lc.state,
    lockdown := s.flt.lockdown, bbk := s.aon.bbk, lock := (s.mgmt.held, s.mgmt.src, s.mgmt.holder) }

/-- The codes that the spec says are never reported: TRH_CFG_STATUS.STAGE 9 to 15 and TRH_CFG_CUTOVER.STATE 7 to 15
(16 Tables 16-17, 16-19), and the position in the tick stays within its 8 slots and its end (02 R63). -/
def State.codesLegal (s : State) : Prop :=
  s.cfg.stage.toNat ≤ 8 ∧ s.cfg.coState.toNat ≤ 6 ∧ s.tt.slot ≤ 8

/-- Bits burnt in OTP stay burnt (18 R620). -/
def otpKept (s t : State) : Prop :=
  ∀ (row : Fin 128) (bit : Nat), (s.otp[row]).getLsbD bit = true → (t.otp[row]).getLsbD bit = true

/-- The queue has lost its front command and no other (log entry 1). -/
def queueAdvanced (s t : State) : Prop := t.pending = s.pending.drop 1

/-- A run of steps in which the block never stops. -/
def runsOn : Nat → State → Prop
  | 0, _ => True
  | n + 1, s => ∃ t, step s = .next t ∧ runsOn n t

/-- The register port is open: the main domain runs, the state is not SCRAP, and stage 3 of a start has ended
(15 R542, 16 R588). -/
abbrev State.portOpen (s : State) : Prop := s.mainUp = true ∧ s.lc.state ≠ lcScrap ∧ 4 ≤ s.cfg.stage.toNat

/-- A write of identity `i` reaches a register of tenant `t`'s page or FIFO window: USER and OFFICER of the tenant write the
page's common part, OFFICER alone the rest, and none while a reset of the tenant runs (11 Table 11-3, R439). -/
abbrev State.mayWrite (s : State) (i : Ident) (t : Tenant) (officer : Bool) : Prop :=
  s.portOpen ∧ s.tenantOf i = t ∧ (s.roleOf i = 2 ∨ (s.roleOf i = 1 ∧ officer = false)) ∧ (s.page t).resetBusy = false

/-- A write of identity `i` reaches a register of the management or the Supervisor page: a HOST_ADMIN identity that holds the
management lock (11 Table 11-3, R455). -/
abbrev State.mayManage (s : State) (i : Ident) : Prop :=
  s.portOpen ∧ s.roleOf i = 3 ∧ s.mgmt.held = true ∧ s.mgmt.src = false ∧ s.mgmt.holder = i

/-- The Registrar takes message `m` next, it carries request `code` through its own mailbox, and nothing refuses it before the
request itself is looked at (11 R444, R448, R449). -/
abbrev State.requestIs (s : State) (code : Nat) (m : Msg) : Prop :=
  nextMessage s = some m ∧ m.code = code ∧ rightBox m = true ∧ m.busy = false ∧ conditionRefuses s m = false ∧
    (m.box.isSome = true → m.role = 2) ∧ reqHeaderOk m = true

/-- The last reply that waits is the answer with a status to request `code` of mailbox `b` (11 Table 11-6). -/
def State.answered (s : State) (b : Box) (code seq status : Nat) : Prop :=
  ∃ r, s.mgmt.replies.getLast? = some r ∧ r.tenant = b.map Fin.val ∧ r.bytes.take 5 = (replyBytes code seq status []).take 5

/-- A report of a source in this tick is among the records of the last 4,096 ticks, at its severity or a greater one (12 R462, R471,
R490). -/
def State.reported (s : State) (c : BitVec 16) : Prop :=
  ∃ r ∈ s.flt.recent, r.source = c ∧ r.tick = s.now ∧ (severityOf s c).sev ≤ r.severity

/-- A key register without the values of C that it brings. -/
def KeyReg.noCtr (k : KeyReg) : KeyReg :=
  let clear := fun (b : Brought) => { b with ctr := none }
  { k with brought := k.brought.map clear }

/-- `t` differs from `s` by no more than reports to the fault collector can make: its records and responses, the interrupt
sources of the block, and what a retirement discards: pieces of requests, of curve loads and waybills, and slots of the rotation (02
R100; 12 R462). -/
def State.reportsOnly (s t : State) : Prop :=
  t = { s with flt := t.flt, mgmt := { s.mgmt with intStatus := t.mgmt.intStatus }, reqs := t.reqs, en := t.en,
               vs := { s.vs with loads := t.vs.loads }, ss := { s.ss with waybills := t.ss.waybills },
               ks := { s.ks with rotLog := t.ks.rotLog } }

/-- `t` differs from `s` by no more than the end of a request and a report of it change: the requests and the entries owed, the memories,
hold chunks, derived keys, pins and receiving handles that it gives back, its station's counters, and what a report changes (03 R142;
12 R462). -/
def State.endsOnly (s t : State) : Prop :=
  t = { s with flt := t.flt, mgmt := { s.mgmt with intStatus := t.mgmt.intStatus }, reqs := t.reqs, ended := t.ended, en := t.en,
               vs := t.vs, ss := t.ss, cs := t.cs, tt := { s.tt with holdFreed := t.tt.holdFreed }, stations := t.stations,
               ks := { s.ks with cache := t.ks.cache, pendingH := t.ks.pendingH, evict := t.ks.evict, rotLog := t.ks.rotLog } }

/-- The step of request `r` has given its output, and `q` is the request after it: the bytes that have not streamed go to the write
bobbins and, chained, to the next step, which is ready from a tick on; after the last step the request drains with `DONE`
(03 R135, R137; 08 R345). -/
abbrev Request.gaveOut (r q : Request) (out : Bytes) (tick : Nat) : Prop :=
  (r.descs.length ≤ r.cur + 1 → q.stage = .draining ∧ q.final = 0) ∧
  (r.cur + 1 < r.descs.length → q.cur = r.cur + 1 ∧ q.stage = .running ∧ q.readyTick = tick ∧
    (Desc.feeds r.desc = true → r.cur + 1 < r.steps.length → (q.steps.getD (r.cur + 1) StepState.reset).src = out)) ∧
  (Desc.toHost r.desc = true → r.step.streamed < out.length → ∃ o ∈ q.outq, o.data = out.drop r.step.streamed ∧
    o.addr = BitVec.ofNat 64 (Desc.dstAddr r.desc + r.step.streamed) ∧ o.ready = tick ∧ o.step = r.cur ∧ o.aux = false)

end Sys2Proof.Machine
end

