-- ==== Sys2Proof/Certificates/Slice0/Obligations.lean ====
section
/-! DEFINITION. The statements for the provers. -/
open Sys2Proof Sys2Proof.Machine

/-! ### The queue and the whole block -/

/-- A step runs the command at the front of the queue on the state with the rest of the queue (log entry 1). -/
def Obligations.StepRunsFrontCommand : Prop :=
  ∀ (c : Instr) (rest : List Instr) (s : State), s.pending = c :: rest → step s = exec c { s with pending := rest }

/-- On an empty queue the block idles: the model's choice (log entry 1). -/
def Obligations.EmptyQueueIdles : Prop := ∀ s : State, s.pending = [] → step s = .next s

/-- From any state, a step takes its command from the queue and leaves the others in their order. -/
def Obligations.EveryStepAdvancesQueue : Prop := ∀ s t : State, step s = .next t → queueAdvanced s t

/-- From any state, no step clears a burnt fuse (18 R620). -/
def Obligations.EveryStepKeepsFuses : Prop := ∀ s t : State, step s = .next t → otpKept s t

/-- From any state whose codes are legal, a step leaves them legal: no start-up stage, cut-over state or slot that the spec never
reports comes about (16 Tables 16-17, 16-19; 02 R63). -/
def Obligations.EveryStepKeepsCodes : Prop := ∀ s t : State, s.codesLegal → step s = .next t → t.codesLegal

/-- After reset the codes are legal. -/
def Obligations.ResetCodesLegal : Prop := State.reset.codesLegal

/-- No command is ever refused, and a step stops only on a fabric response that answers no outstanding burst, which the host may
not make (18 R609). -/
def Obligations.StopsOnlyOnUnsolicited : Prop :=
  ∀ (c : Instr) (s : State),
    (∃ t, exec c s = .next t) ∨
      (exec c s = .fault .unsolicitedResponse ∧
        ((∃ p g d n y, c = .descriptorDataLanded p g d n y ∧ burstOf s p.val false g.val = none) ∨
         (∃ p g d e f, c = .readBurstReturn p g d e f ∧ burstOf s p.val false g.val = none) ∨
         (∃ p g e f, c = .writeResponse p g e f ∧ burstOf s p.val true g.val = none)))

/-- Reset leaves the main domain in reset with TRH_TICK 0, nothing waiting, no request, no lock, no lockdown, every ring
disabled and every tenant interrupt source clear (18 R624, R625; 11 R458). -/
def Obligations.ResetLeavesNothingRunning : Prop :=
  State.reset.mainUp = false ∧ State.reset.tick = 0 ∧ State.reset.pending = [] ∧ State.reset.reqs = [] ∧
    State.reset.ended = [] ∧ State.reset.fab.bursts = [] ∧ State.reset.mgmt.held = false ∧
    State.reset.flt.lockdown = false ∧ State.reset.tt.started = false ∧ State.reset.cfg.stage = 0 ∧
    ∀ (t : Tenant) (k : RingNo), (State.reset.ring t k).enable = false ∧ (State.reset.page t).intStatus = 0

/-! ### Resets and starts -/

/-- The always-on rail: on its rise the domain leaves reset with its marker invalid and no BBK; on its fall without main power it
loses both; main power's return ends its draw from the cell, on which alone a sampling window opens, to 62.5 us on by the real-time clock, which
runs on by a free amount (18 R624; 14 R527, R530; log entry 27). -/
def Obligations.AlwaysOnDomainSupplies : Prop :=
  (∀ s : State, s.aon.up = false → ∃ t, exec .aonPowerUp s = .next t ∧ t = { s with aon := t.aon } ∧
      t.aon.up = true ∧ t.aon.marker = false ∧ t.aon.bbk = none ∧ t.aon.count = 0) ∧
  (∀ s : State, s.aon.up = true → s.aon.onCell = true → ∃ t, exec .alwaysOnReset s = .next t ∧ t = { s with aon := t.aon } ∧
      t.aon.up = false ∧ t.aon.marker = false ∧ t.aon.bbk = none ∧ t.aon.count = 0 ∧ t.aon.storeCounter = 0) ∧
  (∀ s : State, exec .mainPowerReturn s = .next { s with aon := { s.aon with onCell := false, window := none } }) ∧
  (∀ s : State, s.aon.up = true → s.aon.onCell = true →
      ∃ t, exec .backupWindowOpen s = .next t ∧ windowOpen t.aon = true ∧ sensorSupply t.aon = true ∧
        t = { s with aon := { s.aon with rtc := t.aon.rtc, window := some (t.aon.rtc + windowUnits) }, drawn := s.drawn + 1 })

/-- The main domain enters reset: requests, tick and registers are gone at once, the always-on domain, the store and burnt fuses
stay; when VDD_CORE fell, the always-on domain draws from the cell. In SCRAP the domain is held in reset while the port answers
(18 R624; 13 R505; 14 R527; 15 R542). -/
def Obligations.MainDomainEntersReset : Prop :=
  (∀ s : State, ∃ t, exec (.mainDomainReset false) s = .next t ∧ t.mainUp = false ∧ t.tick = 0 ∧ t.reqs = [] ∧ t.ended = [] ∧
      t.tt = State.reset.tt ∧ t.mgmt = State.reset.mgmt ∧ t.tenants = State.reset.tenants ∧ t.ks = State.reset.ks ∧
      t.aon = s.aon ∧ t.nvm.storeA = s.nvm.storeA ∧ t.nvm.storeB = s.nvm.storeB ∧ otpKept s t ∧ t.pending = s.pending) ∧
  (∀ s : State, ∃ t, exec .vddCoreResetCrossing s = .next t ∧ t.mainUp = false ∧ t.tick = 0 ∧ t.reqs = [] ∧ t.ended = [] ∧
      t.aon = { s.aon with onCell := true, window := some s.aon.rtc } ∧ t.nvm.storeA = s.nvm.storeA ∧ otpKept s t) ∧
  (∀ s : State, s.lc.state = lcScrap → ∃ t, exec (.mainDomainReset true) s = .next t ∧ t.reqs = [] ∧ t.ks = State.reset.ks ∧
      t.mainUp = s.mainUp ∧ t.lc = s.lc ∧ t.aon = s.aon ∧ t.otp = s.otp)

/-- On main power the main domain is released: a cold start senses the fuses, and without a pending transition it starts in the committed
state, the log's RESP flags cleared, and at TEST its log begun, once. With an NVM of a listed size and a state that opens the rings, it
goes on to read the image of the area that the pointer names; a pending transition starts in the committed state with its commit row to
burn, and stays pending where its wipe finds no NVM (16 R574, R586; 18 R624; 15 R541, R548, R555; log entry 99). -/
def Obligations.MainReleaseSensesFuses : Prop :=
  (∀ (s : State) (nvm : Option (Fin 8)), s.mainUp = false → s.aon.up = true → s.aon.onCell = false → (fuseSense s).2 = none →
    ∃ t, exec (.mainResetRelease nvm) s = .next t ∧ t.mainUp = true ∧ t.lc.state = BitVec.ofNat 4 (fuseSense s).1 ∧
      t.tick = s.tick ∧ t.tenants = s.tenants ∧ t.reqs = s.reqs ∧
      ((fuseSense s).1 = 2 → t.aon.begun = true) ∧ ((fuseSense s).1 ≠ 2 → t.aon.begun = s.aon.begun)) ∧
  (∀ (s : State) (n : Fin 8) (x : Nat), s.mainUp = false → s.aon.up = true → s.aon.onCell = false → fuseSense s = (x, none) →
    n.val ≤ 4 → (x = 2 ∧ s.aon.begun = true) ∨ x = 4 ∨ x = 5 ∨ x = 6 → exec (.mainResetRelease (some n)) s = .next { s with
      mainUp := true, aon := { s.aon with zeroise := false, resp := 0, mirrorBad := false },
      nvm := { takeBoot s.nvm with present := true, sizeN := n.val }, lc := { LifeCycle.reset with state := BitVec.ofNat 4 x },
      cfg := { s.cfg with stage := 2, area := (takeBoot s.nvm).imgPtr.area } }) ∧
  (∀ (s : State) (nvm : Option (Fin 8)) (x y k : Nat), s.mainUp = false → s.aon.up = true → s.aon.onCell = false →
    fuseSense s = (x, some (y, k)) → s.otpRow (slotRow y k + 1) &&& targetCode y = 0 →
    (wipes y = true → ∃ n : Fin 8, nvm = some n ∧ n.val ≤ 4) →
    ∃ t, exec (.mainResetRelease nvm) s = .next t ∧ t.mainUp = true ∧ t.lc.state = BitVec.ofNat 4 x ∧ t.lc.next = BitVec.ofNat 4 y ∧
      t.lc.slot = k ∧ t.lc.burning = 2 ∧ t.cfg = s.cfg ∧ (wipes y = true → t.aon.bbk = none ∧ t.ks.kr = none)) ∧
  (∀ (s : State) (x y k : Nat), s.mainUp = false → s.aon.up = true → s.aon.onCell = false → fuseSense s = (x, some (y, k)) →
    wipes y = true → ∃ t, exec (.mainResetRelease none) s = .next t ∧ t.mainUp = true ∧ t.lc.state = BitVec.ofNat 4 x ∧
      t.lc.next = BitVec.ofNat 4 y ∧ t.lc.burning = 0 ∧ otpKept s t ∧ t.nvm.storeA = s.nvm.storeA ∧ t.aon.bbk = none)

/-- The stages of a start follow each other: the image is read, checked and put in force with its identity map, the keys are loaded, the
tests run, and the rings open at a period boundary; but for what each stage is for, tick, fuses, life cycle, lock and lockdown stay. The
stages that write the NVM wait while its supply is low. K_F and, from a BBK, K_R are derived at every start. A refused image leads to the
other area, and two refused images to an unconfigured block (09 R365, R366; 13 R506; 16 R586, R588, R589). -/
def Obligations.StartStagesFollow : Prop :=
  (∀ (s : State) (good : Bool), s.cfg.stage = 2 → ∃ t, exec (.imageRead good) s = .next t ∧ t = { s with cfg := t.cfg } ∧
      t.cfg.stage = 3 ∧ t.cfg.image = (if good then imageIn s s.cfg.area else [])) ∧
  (∀ s : State, s.cfg.stage = 3 → ∃ t, exec .signatureAndPatchCheck s = .next t ∧
      (startCause s s.cfg.image = 0 → t.fixed = { s.fixed with stage := 4 } ∧
        t.cfg = { s.cfg with stage := 4, seq := s.image.seq, hash := sha384 s.cfg.image, mapOn := true, unconf := false }) ∧
      (startCause s s.cfg.image ≠ 0 → s.cfg.fallback = false → t = { s with cfg := { s.cfg with
        stage := 2, fallback := true, area := !s.cfg.area, bank0 := none, cause := t.cfg.cause } }) ∧
      (startCause s s.cfg.image ≠ 0 → s.cfg.fallback = true → t.cfg.stage = 8)) ∧
  (∀ s : State, s.cfg.stage = 4 → s.pwr.nvmLow = false → needsReroot (readMarker s) = false ∨ rerootReady s = true → ∃ t, exec .rootAndResidentKeyLoad s = .next t ∧
      t.fixed = { s.fixed with stage := 5, otp := t.otp, bbk := t.aon.bbk } ∧ otpKept s t ∧
      t.ks.kf = some (deriveFusedRoot t.fds) ∧ t.ks.kr = t.aon.bbk.map (fun b => deriveRoot b t.fds)) ∧
  (∀ (s : State) (failed : List (Fin 64 × Fin 16)), s.cfg.stage = 5 → s.vs.loads = [] → s.pwr.nvmLow = false →
      ∃ t, exec (.knownAnswerTests failed) s = .next t ∧ t.fixed = { s.fixed with stage := 6 }) ∧
  (∀ (s : State) (failed : List (Fin 64 × Fin 16)), s.pwr.nvmLow = true →
      (s.cfg.stage = 4 → exec .rootAndResidentKeyLoad s = .next s) ∧ (s.cfg.stage = 5 → exec (.knownAnswerTests failed) s = .next s)) ∧
  (∀ s : State, s.cfg.stage = 6 → s.pos = 0 → s.locked = false → ∃ t, exec .ringsOpen s = .next t ∧
      t.fixed = { s.fixed with stage := 7, started := true, slot := 0 })

/-- VDD_IO_NVM falls and rises: NVM_LOW follows it, and what waited is made when it rises: the image pointer of an ended amendment, the mirror
of a closed start, a wipe, whose request ends with 6 where an area does not read back as erased (13 R506; 15 R553 to R555; 16 R592). -/
def Obligations.NvmSupplyFollows : Prop :=
  (∀ s : State, exec .nvmSupplyLow s = .next { s with pwr := { s.pwr with nvmLow := true } }) ∧
  (∀ s : State, s.lc.phase ≠ 2 ∨ s.lc.burning ≠ 2 ∨ s.lc.wiped = true →
      (s.cfg.ptrWaits = false → s.cfg.logWaits = false →
        exec .nvmSupplyRestored s = .next { s with pwr := { s.pwr with nvmLow := false } }) ∧
      (s.cfg.ptrWaits = true → s.cfg.logWaits = false → exec .nvmSupplyRestored s =
        .next { s with pwr := { s.pwr with nvmLow := false }, cfg := { s.cfg with ptrWaits := false },
                       nvm := writeImgPtr { s.cfg.oldPtr with seq := s.nvm.imgPtr.seq + 1 } s.nvm }) ∧
      (s.cfg.ptrWaits = false → s.cfg.logWaits = true → exec .nvmSupplyRestored s =
        .next (verifyLog { s with pwr := { s.pwr with nvmLow := false }, cfg := { s.cfg with logWaits := false } }))) ∧
  (∀ s : State, s.cfg.ptrWaits = false → s.cfg.logWaits = false → s.lc.phase = 2 → s.lc.burning = 2 → s.lc.wiped = false → ∃ t, exec .nvmSupplyRestored s = .next t ∧
      t = { s with pwr := { s.pwr with nvmLow := false }, nvm := t.nvm, drawn := t.drawn, lc := t.lc, mgmt := t.mgmt } ∧
      (if s.nvm.present = true ∧ (rollingForward s = true ∨ Config.erasesBack s.drawn = true) then
        t.lc = { s.lc with wiped := true } ∧ t.nvm.storeA = StoreArea.reset ∧ t.nvm.storeB = StoreArea.reset ∧ t.nvm.pstore = [] ∧
          t.nvm.marks0 = [] ∧ t.nvm.marks1 = []
      else t.lc = { s.lc with burning := 0, seq := none } ∧ t.nvm = s.nvm ∧
        ∀ q, s.lc.seq = some q → t.answered none 0x0206 q.toNat 6))

/-! ### Supplies, rails and sensors -/

/-- A crossing of the warning level begins caution: the clock is at 1.0 GHz from the eighth cycle after it, the recovery count
restarts, the crossing is counted, a SUPPLY record is made and source 8 asserted. SS enters hold at a later boundary, where only
the pieces it ran in the tick that ended are lost. Once the count is at 64 with the rails in range, normal operation is declared
and the length of the caution noted (13 R501 to R504; 07 R326, R327). -/
def Obligations.CautionAndRecovery : Prop :=
  (∀ (s : State) (cycle : Cycle) (mv : BitVec 16), s.mainUp = true → (mv.toNat : Int) < warnLevel s → ∃ t,
      exec (.supplyWarningCrossing cycle mv) s = .next t ∧ State.reportsOnly { s with pwr := t.pwr } t ∧
      t.reported srcSupply ∧ t.mgmt.intStatus.getLsbD 8 = true ∧
      t.pwr = { s.pwr with caution := true, dclkLow := true, recover := 0, began := s.now, count := min 0xFFFF (s.pwr.count + 1),
                           fast := t.pwr.fast, nextFast := t.pwr.nextFast } ∧
      (s.pwr.dclkLow = true → t.pwr.fast = s.pwr.fast ∧ t.pwr.nextFast = s.pwr.nextFast) ∧
      (s.pwr.dclkLow = false → s.pwr.fast = 320 → s.pwr.decl ≠ some s.now →
        t.pwr.fast = min 320 (cycle.val + 8) ∧ t.pwr.nextFast = cycle.val + 8 - 320)) ∧
  (∀ s : State, s.pwr.caution = true → s.pwr.began < s.now → s.ss.hold = false → ∃ t, exec .ssHoldEnter s = .next t ∧
      t = { s with ss := t.ss, reqs := t.reqs, en := t.en, drawn := t.drawn } ∧ t.ss.hold = true ∧
      t.reqs = s.reqs.map (fun r => if r.kind = 5 ∧ (r.stage = .running ∨ r.stage = .keySign) ∧ r.pieceTick + 1 = s.now ∧ 0 < r.pieceSlots then
        { r with slots := 0, ticks := 0, pieceSlots := 0, finished := false, held := true } else r)) ∧
  (∀ s : State, s.pwr.caution = true → 64 ≤ s.pwr.recover → railsHold s.pwr = true → ∃ t,
      exec .cautionRecoveryDeclaration s = .next t ∧ t.fixed = s.fixed ∧ t.reported srcSupply ∧ t.ss.hold = false ∧
      t.mgmt.intStatus.getLsbD 8 = true ∧
      t.pwr = { s.pwr with caution := false, dclkLow := false, recover := 0, keHeld := false, fast := 312, nextFast := 320,
                           decl := some s.now, last := min 0xFFFFFF (s.now - s.pwr.began),
                           longest := max s.pwr.longest (min 0xFFFFFF (s.now - s.pwr.began)) })

/-- Outside a caution the Supervisor sets each rail's target once per period; it moves by at most 5 mV a tick toward the one sought, and
is held at 780 mV with a record; under a caution no target is set. A measurement of aging, which is due after a start and then every
3,433,228 periods, sets every station's margin at 2 mV for each 0.1% of slowing against its baseline, rounded up to 5 mV (13 R496, R502, R512,
R513; log entry 127). -/
def Obligations.RailsFollowTargets : Prop :=
  (∀ (s : State) (st : Fin 8) (fmon : Nat), s.mainUp = true → procWorks s 1 = true → s.pwr.caution = false →
      s.pwr.rails[st].setTick.all (fun n => n / 4096 ≠ s.now / 4096) = true →
      ∃ t, exec (.regulatorTargetUpdate st fmon) s = .next t ∧ State.reportsOnly { s with pwr := t.pwr } t ∧
        t.pwr = { s.pwr with rails := t.pwr.rails } ∧ (∀ i : Fin 8, i ≠ st → t.pwr.rails[i] = s.pwr.rails[i]) ∧
        t.pwr.rails[st] = { s.pwr.rails[st] with setTick := some s.now, goal := min 780 (targetSought s st fmon),
                                                 target := t.pwr.rails[st].target, moved := t.pwr.rails[st].moved } ∧
        (s.pwr.rails[st].moved = true → t.pwr.rails[st].target = s.pwr.rails[st].target) ∧
        t.pwr.rails[st].target ≤ s.pwr.rails[st].target + 5 ∧ s.pwr.rails[st].target ≤ t.pwr.rails[st].target + 5 ∧
        (s.pwr.rails[st].moved = false → s.pwr.rails[st].target ≤ targetSought s st fmon + 5 → targetSought s st fmon ≤ s.pwr.rails[st].target + 5 →
          targetSought s st fmon ≤ 780 → t.pwr.rails[st].target = targetSought s st fmon) ∧
        (780 < targetSought s st fmon → t.reported (srcRegulator st.val)) ∧
        (targetSought s st fmon ≤ 780 → t.flt = s.flt)) ∧
  (∀ (s : State) (st : Fin 8) (fmon : Nat), s.pwr.caution = true → exec (.regulatorTargetUpdate st fmon) s = .next s) ∧
  (∀ (s : State) (count : Vector Nat 8), s.mainUp = true → procWorks s 1 = true →
      (s.pwr.ageTick.all (fun k => k + 3433228 * 4096 ≤ s.now) = true → ∃ t, exec (.agingMeasurement count) s = .next t ∧
        t = { s with pwr := { s.pwr with rails := t.pwr.rails, ageTick := some s.now } } ∧
        ∀ i : Fin 8, t.pwr.rails[i] = { s.pwr.rails[i] with
          age := min 255 (slowdown s i.val count[i]), margin := min 255 (5 * ((2 * slowdown s i.val count[i] + 4) / 5)) }) ∧
      (s.pwr.ageTick.all (fun k => k + 3433228 * 4096 ≤ s.now) = false → exec (.agingMeasurement count) s = .next s))

/-- A temperature sample, once every 64 ticks, is each sensor's reading with its user offset; the highest since reset is held; a sensor
that rises above the warning threshold is reported under its THERMAL checker, TWARN set and source 9 asserted; and a reading above the
alarm threshold alarms source 0x13, while the targets stay (13 R508 to R510; 14 Table 14-1). -/
def Obligations.TemperatureSampled : Prop :=
  ∀ (s : State) (temps : Vector Int 8), s.mainUp = true → s.pwr.tempTick.all (fun k => k + 64 ≤ s.now) = true → ∃ t,
    exec (.temperatureSample temps) s = .next t ∧
    (∀ i : Fin 8, t.pwr.rails[i] =
      { s.pwr.rails[i] with
        temp := temps[i] + calOffset s (16 + i.val), seen := true,
        tmax := if s.pwr.rails[i].seen then max s.pwr.rails[i].tmax (temps[i] + calOffset s (16 + i.val))
          else temps[i] + calOffset s (16 + i.val),
        warm := decide (temps[i] + calOffset s (16 + i.val) > 4 * warnTemp s) ||
          (s.pwr.rails[i].warm && decide (temps[i] + calOffset s (16 + i.val) > 4 * warnTemp s - 20)) }) ∧
    t.pwr = { s.pwr with rails := t.pwr.rails, twarn := t.pwr.twarn, tempTick := some s.now } ∧
    (∀ i : Fin 8, s.pwr.rails[i].warm = false → temps[i] + calOffset s (16 + i.val) > 4 * warnTemp s →
      t.reported (srcThermal i.val) ∧ t.pwr.twarn = true ∧ t.mgmt.intStatus.getLsbD 9 = true) ∧
    ((∀ i : Fin 8, temps[i] ≤ 4 * alarmTemp s) → t.aon = s.aon ∧ t.fixed = s.fixed) ∧
    ((∃ i : Fin 8, temps[i] > 4 * alarmTemp s) → s.aon.up = true → s.aon.onCell = false →
      (0x13 : BitVec 8) ∈ t.aon.alarmed)

/-- The lock holder's writes that clear a held extreme or count do only that: the minimum of VDD_CORE, the highest temperatures,
the buffer's low mark, the peaks of the hold, of VS and of SS, each brought to its present value (13 Table 13-8; 10 Table 10-8;
04 R225; 06 R291; 07 R330). -/
def Obligations.ExtremesClear : Prop :=
  ∀ (s : State) (i : Ident), s.mayManage i →
    (∀ v : BitVec 32, ∃ t, exec (.minClr i v) s = .next t ∧ exec (.tmaxClr i v) s = .next t ∧
      t = { s with rsp := 0, pwr := { s.pwr with vMin := if v.getLsbD 31 then s.pwr.vNow else s.pwr.vMin,
                                                 rails := t.pwr.rails } } ∧
      ∀ n : Fin 8, t.pwr.rails[n] =
        { s.pwr.rails[n] with tmax := if v.getLsbD 30 then s.pwr.rails[n].temp else s.pwr.rails[n].tmax }) ∧
    (∀ v : BitVec 64, exec (.lowClr i v) s =
      .next { s with rsp := 0, en := { s.en with low := if v.getLsbD 63 then s.en.fill else s.en.low } }) ∧
    (∀ (n : Fin 2) (v : BitVec 32), exec (.holdPeakClr i n v) s =
      .next { s with rsp := 0, cs := s.cs.set n { s.cs[n] with
        holdPeak := if v.getLsbD 31 then s.cs[n].holdUsed else s.cs[n].holdPeak } }) ∧
    (∀ v : BitVec 32, exec (.vsMemPeakClr i v) s =
      .next { s with rsp := 0, vs := { s.vs with memPeak := if v.getLsbD 31 then s.vs.memUsed else s.vs.memPeak } }) ∧
    (∀ v : BitVec 32, exec (.ssMemPeakClr i v) s =
      .next { s with rsp := 0, ss := { s.ss with memPeak := if v.getLsbD 31 then s.ss.memUsed else s.ss.memPeak } }) ∧
    (∀ v : BitVec 32, ∃ t, exec (.platformCountClear i v) s = .next t ∧
      t = { s with rsp := 0, mgmt := { s.mgmt with platSel := v.extractLsb' 0 10 },
                   tt := { s.tt with plats := t.tt.plats, shown := t.tt.shown } } ∧
      ∀ p : Fin 1024,
        t.tt.plats[p] = (if v.getLsbD 31 ∧ p.val = v.toNat % 1024 then { s.tt.plats[p] with miss := 0, overs := 0 } else s.tt.plats[p]) ∧
        t.tt.shown[p] = (if v.getLsbD 31 ∧ p.val = v.toNat % 1024 then { s.tt.shown[p] with miss := 0, overs := 0 } else s.tt.shown[p]))

/-! ### Tamper -/

/-- A watched source that is not in alarm and reads beyond its limits enters it: it is logged, latched and, in FIELD say, an ERASE source
clears BBK and the roots, sets ROOT_CLR and TRH_ZEROISE, which the pad shows on main power, and leaves nothing in the key cache, the key
banks, the key-entry sessions, the seed pool and the DRBG, with a lockdown due while the main domain runs; a LOG source does none of this.
One in alarm, not watched or within its limits does nothing (13 R511; 14 R519, R522 to R525, R532, R535, R536). -/
def Obligations.TamperAlarmResponse : Prop :=
  (∀ (s : State) (src : BitVec 8) (rail : Bool) (detail : BitVec 32),
    tamperSource src.toNat = true → src ∉ s.aon.alarmed → sourceWatched (atSample s) src.toNat = true →
    alarmHolds s src (alarmReading s src detail) = true → ∃ t,
      exec (.tamperAlarm src rail detail) s = .next t ∧ t.aon.alarmed = s.aon.alarmed ++ [src] ∧ t.aon.first.valid = true ∧
      (s.aon.first.valid = false → t.aon.first.source = src ∧ t.aon.first.ovf = false) ∧
      (s.aon.first.valid = true → t.aon.first = { s.aon.first with ovf := true }) ∧
      (s.aon.pendLog.length < 31 → t.aon.count = s.aon.count + 1 ∧ t.aon.pendLog.length = s.aon.pendLog.length + 1) ∧
      (31 ≤ s.aon.pendLog.length → t.aon.pendLog = s.aon.pendLog ∧ t.aon.count = s.aon.count ∧ t.aon.summary.isSome = true) ∧
      (tamperResponse s src.toNat (alarmReading s src detail) = 1 → t = { s with aon := t.aon, mgmt := t.mgmt, drawn := t.drawn } ∧
        t.aon.bbk = s.aon.bbk) ∧
      (tamperResponse s src.toNat (alarmReading s src detail) = 2 → t = { s with aon := t.aon, mgmt := t.mgmt, drawn := t.drawn, flt := t.flt } ∧
        t.aon.bbk = s.aon.bbk ∧ (s.mainUp = true → (7, s.now + 1, srcTamper) ∈ t.flt.due)) ∧
      (tamperResponse s src.toNat (alarmReading s src detail) = 3 →
        t.fixed = { s.fixed with bbk := none } ∧ t.aon.rootClr = true ∧ t.aon.zeroise = true ∧ zeroisePad t.aon = (!s.aon.onCell) ∧ t.ks.kr = none ∧ t.ks.kf = none ∧
        t.ks.cache = [] ∧ t.en.seed = [] ∧ t.en.fill = 0 ∧ t.en.inst = false ∧ t.en.key = [] ∧ t.en.vec = [] ∧ t.nvm = s.nvm ∧
        (∀ n : Fin 7, t.stations[n].loading = [] ∧ t.stations[n].active = []) ∧
        (∀ p : Tenant, (t.page p).ke.session = none ∧ (t.page p).rings = (s.page p).rings) ∧
        (s.mainUp = true → (7, s.now + 1, srcTamper) ∈ t.flt.due))) ∧
  (∀ (s : State) (src : BitVec 8) (rail : Bool) (detail : BitVec 32),
    src ∈ s.aon.alarmed ∨ sourceWatched (atSample s) src.toNat = false ∨ alarmHolds s src (alarmReading s src detail) = false → exec (.tamperAlarm src rail detail) s = .next s)

/-- A re-armed source leaves the alarm, and nothing else of the log changes; a log mirrored to the half being filled is pending no more
once it has been read back, and a failed write only counts; the first-source latch clears on the lock holder's write of 1 to VALID (14
R533, R536, R539). -/
def Obligations.TamperLogKeeping : Prop :=
  (∀ (s : State) (src : BitVec 8), src ∈ s.aon.alarmed → ∃ t, exec (.tamperSourceRearm src) s = .next t ∧
      t = { s with aon := { s.aon with alarmed := t.aon.alarmed, cellLow := t.aon.cellLow, railF := t.aon.railF,
                                       alarm := t.aon.alarm } } ∧
      t.aon.alarmed = s.aon.alarmed.filter (· ≠ src)) ∧
  (∀ s : State, s.mainUp = true → s.locked = false → s.pwr.nvmLow = false → procWorks s 0 = true → s.aon.marker = true →
      s.nvm.present = true → (mirrorHalf (s.aon.lk.getD []) s.nvm).isSome = true → s.aon.pendLog ≠ [] ∨ s.aon.summary ≠ none →
      (∃ t, exec (.tamperLogMirror true) s = .next t ∧
        t = { s with aon := { s.aon with pendLog := [], summary := none, head := t.aon.head, count := t.aon.count }, nvm := t.nvm } ∧
        (s.aon.summary = none → t.aon.head = s.aon.head ∧ t.aon.count = s.aon.count)) ∧
      exec (.tamperLogMirror false) s = .next { s with nvm := { s.nvm with errors := min 0xFFFF (s.nvm.errors + 1) } }) ∧
  (∀ (s : State) (i : Ident) (v : BitVec 64), s.mayManage i → exec (.tamperFirstClear i v) s =
      .next { s with rsp := 0, aon := { s.aon with first := if v.getLsbD 63 then TmpFirst.reset else s.aon.first } })

/-! ### Ticks, slots and requests -/

/-- Outside reset and SCRAP a tick boundary counts TRH_TICK and elapsed time on, swaps every station's key banks, zeroising the one
that becomes the loading bank, counts the lease down, puts the clock decided for the tick in force and opens the tick's budgets and
slots anew. In reset and in SCRAP no tick passes (02 R62, R63; 04 R173; 08 R338; 11 R452; 13 R499; 15 R542; 18 R624). -/
def Obligations.TickBoundaryCounts : Prop :=
  (∀ s : State, s.mainUp = true → s.lc.state ≠ lcScrap → ∃ t, exec .tickBoundary s = .next t ∧
      t.fixed = { s.fixed with tick := s.tick + 1, wall := s.wall + (4 * s.pwr.fast + 5 * (320 - s.pwr.fast)), slot := 0 } ∧
      (∀ n : Fin 7, t.stations[n] =
        { s.stations[n] with active := s.stations[n].loading, loading := [], derived := t.stations[n].derived }) ∧
      t.mgmt.remain = (if s.mgmt.held then s.mgmt.remain - 1 else s.mgmt.remain) ∧
      t.pwr.fast = s.pwr.nextFast ∧ t.tt.taken = 0 ∧ t.tt.passes = [] ∧ t.tt.busDone = [] ∧ t.tt.parts = [] ∧ t.tt.running = [] ∧
      t.fab.rdUsed = [] ∧ t.fab.vsUsed = [] ∧ (s.tt.started = true → t.fab.mgRd = 0)) ∧
  (∀ s : State, s.mainUp = false ∨ s.lc.state = lcScrap → exec .tickBoundary s = .next s)

/-- A slot of a started timetable runs and is passed, up to the eighth of the tick; outside a caution, with no request admitted, no
internal step and no management transfer waiting and no rotation of the storage key under way, nothing runs in it but proofs in place of a
lane (02 R63, R76; 12 R485; log entry 57). -/
def Obligations.SlotRuns : Prop :=
  (∀ (s : State) (bad : List (Nat × Nat)), s.tt.started = true → s.tt.slot < 8 → s.locked = false → cutDue s = false →
      ∃ t, exec (.slotStart bad) s = .next t ∧ t.fixed = { s.fixed with slot := s.tt.slot + 1 } ∧
        (s.pwr.caution = false → s.reqs = [] → s.vs.loads = [] → s.ss.waybills = [] → s.ks.rot ≠ 1 → s.fab.mgmt = [] ∨ s.tt.slot ≠ 5 →
          t = { s with tt := { s.tt with slot := s.tt.slot + 1, running := [], ivAhead := 0 },
                       flt := { s.flt with inPlace := t.flt.inPlace } } ∧
          (∀ x ∈ s.flt.inPlace, x ∈ t.flt.inPlace) ∧
          ∀ x ∈ t.flt.inPlace, x ∈ s.flt.inPlace ∨
            (posServed s x.1 x.2 = true ∧ spareCount s (engineOf x.1 x.2) = 0))) ∧
  (∀ (s : State) (bad : List (Nat × Nat)), s.tt.started = false ∨ 8 ≤ s.tt.slot ∨ s.locked = true ∨ cutDue s = true →
      exec (.slotStart bad) s = .next s)

/-- The step that an entry's platform runs on a position is one of the platform's that can run there: the one whose piece is on the
position, or else the oldest in rate, or else the oldest over rate, or else the oldest of freight (02 R76). -/
def Obligations.SlotServesInOrder : Prop :=
  ∀ (s : State) (st pos p : Nat),
    (∀ r, pickOf s st pos p = some r → r ∈ s.reqs ∧ r.plat = p ∧ canRun s st pos r = true ∧
      (∀ q ∈ s.reqs, q.plat = p → canRun s st pos q = true → q.pieceTick = s.now → 0 < q.pieceSlots →
        r.pieceTick = s.now ∧ 0 < r.pieceSlots) ∧
      (¬ (r.pieceTick = s.now ∧ 0 < r.pieceSlots) → ∀ q ∈ s.reqs, q.plat = p → canRun s st pos q = true →
        (q.rate = .inRate → r.rate = .inRate) ∧ (q.rate = .overRate → r.rate ≠ .freight)) ∧
      (¬ (r.pieceTick = s.now ∧ 0 < r.pieceSlots) →
        s.reqs.find? (fun q => decide (q.plat = p) && canRun s st pos q && decide (q.rate = r.rate)) = some r)) ∧
    (pickOf s st pos p = none → ∀ q ∈ s.reqs, q.plat = p → canRun s st pos q = false)

/-- A key-bus entry of the slot that runs is used once; it fills no bank but the loading bank of its destination, and no key of a
transfer is active in the tick it is carried in. Where its owner's first step is due with its keys in the cache and they fit, each
of them, its words free of errors, is then in the loading bank with its value, for that step (01 R31; 02 R80; 04 R173, R174; 07 R296). -/
def Obligations.KeyBusFillsLoadingBank : Prop :=
  (∀ (s : State) (slot : Fin 8) (dest : Fin 6), s.tt.started = true → s.locked = false → isRestarting s 6 = false →
      slot.val + 1 = s.tt.slot → (slot.val, dest.val) ∉ s.tt.busDone → ∃ t, exec (.keyBusTransfer slot dest) s = .next t ∧
        t.fixed = s.fixed ∧ t.tt.busDone = s.tt.busDone ++ [(slot.val, dest.val)] ∧ t.nvm = s.nvm ∧ t.tenants = s.tenants ∧
        (∀ n : Fin 7, t.stations[n] =
          { s.stations[n] with loading := t.stations[n].loading, derived := t.stations[n].derived }) ∧
        (∀ n : Fin 7, n.val ≠ dest.val →
          t.stations[n].loading.map KeyReg.noCtr = s.stations[n].loading.map KeyReg.noCtr) ∧
        ∀ (n : Fin 7) (r v : Request) (l : List Request), n.val = dest.val →
          carryOrder s slot.val dest.val (entryPlat (entryAt s 6 s.now slot.val (4 + dest.val))) = r :: l →
          s.req? r.rid = some r → carryView r = some v → s.stations[n].loading = [] → (drawFor dest.val v s).2 = none →
          (∀ h ∈ carriedHandles v.desc, invalidated s v.tenant h = false ∧ ∃ x, carryKey s v.rid v.tenant h = some x ∧
            (dest.val = 4 → x.2.2.1 = false) ∧ wordsLost x.2.2.2.1 x.2.2.2.2 = false ∧ wordsMended x.2.2.2.1 x.2.2.2.2 = false) →
          ((carriedHandles v.desc).map fun h => ((carryKey s v.rid v.tenant h).map fun x => x.2.2.2.1.length).getD 0).sum ≤ 1280 →
          ((carriedHandles v.desc).map fun h =>
            regsOf dest.val (((carryKey s v.rid v.tenant h).map fun x => x.2.2.2.1.length).getD 0)).sum ≤ bankRegs dest.val →
          ∀ h ∈ carriedHandles v.desc, ∃ k ∈ t.stations[n].loading, (v.rid, v.cur) ∈ k.users ∧ k.tenant = v.tenant ∧
            k.handle = BitVec.ofNat 32 h ∧ (carryKey s v.rid v.tenant h).map (fun x => x.2.2.2.1) = some k.value) ∧
  (∀ (s : State) (slot : Fin 8) (dest : Fin 6), (slot.val, dest.val) ∈ s.tt.busDone →
      exec (.keyBusTransfer slot dest) s = .next s)

/-- In the first 200 cycles of a tick the engine takes the next chain: it is queued as a request of this tick that can run from the next
one, or it is completed at once with a failing status, or nothing is taken; and a whole chain in time, within the 16 descriptors of the
tick, is taken. A chain that names inline items while its page discards waits at its head instead. One that passes every check is queued
on its platform, and the head of its ring moves past it. Later in the tick, or where the engine does not run, none is (03 R123 to R126,
R133, R134, R146, R635). -/
def Obligations.AdmissionTakesOneChain : Prop :=
  (∀ (s : State) (c : Cycle), engineRuns s = true → cutDue s = false → c.val < 200 → ∃ t, exec (.chainAdmission c) s = .next t ∧
      t = { s with tt := t.tt, tenants := t.tenants, reqs := t.reqs, ended := t.ended, nextRid := t.nextRid, vs := t.vs, ss := t.ss,
                   fab := t.fab, ks := t.ks } ∧ t.fixed = s.fixed ∧
      ((t.reqs = s.reqs ∧ t.ended = s.ended ∧ t.nextRid = s.nextRid) ∨
       (∃ r, t.reqs = s.reqs ++ [r] ∧ t.ended = s.ended ∧ t.nextRid = s.nextRid + 1 ∧ r.rid = s.nextRid ∧ r.admitTick = s.now ∧
         r.readyTick = s.now + 1 ∧ r.cur = 0) ∨
       (∃ e, t.ended = s.ended ++ [e] ∧ t.reqs = s.reqs ∧ t.nextRid = s.nextRid + 1 ∧ e.rid = s.nextRid ∧ e.admitted = false ∧
         e.due = s.now ∧ 0x10 ≤ e.status.toNat)) ∧
      (∀ g r held linkOk, nextRing s = some (g, r) → headChain r = some (held, linkOk) →
        r.kept = true ∨ r.waits = true ∨ (s.tt.taken + held.length ≤ 16 ∧ held.all (landedInTime s.now) = true) →
        (waitsDiscard s g held = false → t.nextRid = s.nextRid + 1) ∧
        (waitsDiscard s g held = true → t.reqs = s.reqs ∧ t.ended = s.ended ∧
          (t.ring (tenantFin (g / 4)) (ringFin g)).waits = true ∧
          (t.ring (tenantFin (g / 4)) (ringFin g)).sqHead = (s.ring (tenantFin (g / 4)) (ringFin g)).sqHead)) ∧
      (∀ g r held linkOk n k ds cls p rate u, nextRing s = some (g, r) → headChain r = some (held, linkOk) →
        waitsDiscard s g held = false →
        r.kept = true ∨ r.waits = true ∨ (s.tt.taken + held.length ≤ 16 ∧ held.all (landedInTime s.now) = true) →
        n = tenantFin (g / 4) → k = ringFin g → ds = held.map (fun h => readWords h.bytes h.sym) →
        u = takeChain n k held (if r.kept ∨ r.waits then s else
          countTaken s g held.length (((headDesc r).map fun h => Desc.cls h.bytes).getD 0)) →
        (held.map HeldDesc.index).headD 0 ∉ (u.ring n k).marks →
        check1 u n.val ds = none → u.image.classes.find? (fun x => x.num = Desc.cls (ds.getD 0 [])) = some cls →
        platformOf u n.val (Desc.cls (ds.getD 0 [])) = some p → check2 u cls ds linkOk = none →
        check3 u n (u.ring n k).port.toNat ds = none →
        check4a u (u.plat p) p n.val ((u.plat p).kind == 1 && decide ((u.platStat p).level ≥ oneToken)) ds = none →
        check4b u (u.plat p) n.val cls ds = none → (drainAll ds (u.page n)).bad = none →
        regionsOk u p n.val (u.ring n k).port.toNat (chainVs u cls ds) (chainSs u cls ds) (chainVsHost ds)
          ((u.plat p).kind == 1 && decide ((u.platStat p).level ≥ oneToken)) = true →
        placeRate u p = some rate →
        ∃ q, t.reqs = s.reqs ++ [q] ∧ t.ended = s.ended ∧ q.rid = s.nextRid ∧ q.tenant = n.val ∧ q.ring = k.val ∧
          q.index = (held.map HeldDesc.index).headD 0 ∧ q.descs = ds ∧ q.cls = cls ∧ q.plat = p ∧ q.rate = rate ∧ q.cur = 0 ∧
          q.admitTick = s.now ∧ q.readyTick = s.now + 1 ∧
          (t.ring n k).sqHead = BitVec.ofNat 16 (((s.ring n k).sqHead.toNat + held.length) % (s.ring n k).entries) ∧
          (t.ring n k).outstanding = (s.ring n k).outstanding + 1 ∧
          ∀ i : Fin 1024, i.val = p → t.tt.plats[i].depth = s.tt.plats[i].depth + 1)) ∧
  (∀ (s : State) (c : Cycle), engineRuns s = false ∨ 200 ≤ c.val → exec (.chainAdmission c) s = .next s)

/-- In its validation tick, the one after its admission or the first in which its late operands are there, a request with VS or SS steps
is validated, or it ends with the status of the first check that fails, at once or once the output of the steps before is written. Where
every check passes, the values of each SS step are drawn and nothing else changes. A request that has ended is not validated
(02 R70; 06 R277 to R280; 07 R308 to R310; log entry 55). -/
def Obligations.ValidationDecides : Prop :=
  (∀ (s : State) (rid : Nat) (r : Request), s.req? rid = some r → r.stage = .draining → exec (.validationTick rid) s = .next s) ∧
  ∀ (s : State) (rid : Nat) (r : Request), s.req? rid = some r → r.validated = false → r.stage ≠ .draining → hasChecked r = true →
    s.now = validTick s r → operandsIn s r = true → stopped s r 8 = false → ∃ t, exec (.validationTick rid) s = .next t ∧ t.fixed = s.fixed ∧
      t.tenants = s.tenants ∧ t.nvm = s.nvm ∧
      (∀ n : Fin 7, t.stations[n] = { s.stations[n] with derived := t.stations[n].derived }) ∧
      ((∃ q, t.req? rid = some q ∧ q.validated = true) ∨
       (∃ e ∈ t.ended, e.rid = rid ∧ e.due = s.now + 1 ∧ t.req? rid = none) ∨
       (∃ q, t.req? rid = some q ∧ q.validated = false ∧ q.stage = .draining ∧ 0x10 ≤ q.final.toNat)) ∧
      (∀ i code, i < r.steps.length → (∀ j, j < i → (validateStep rid j s).2 = none) → (validateStep rid i s).2 = some code →
        (∃ e ∈ t.ended, e.rid = rid ∧ e.status = BitVec.ofNat 8 code ∧ e.due = s.now + 1 ∧ t.req? rid = none) ∨
        (∃ q, t.req? rid = some q ∧ q.stage = .draining ∧ q.final = BitVec.ofNat 8 code)) ∧
      ((∀ i, i < r.steps.length → (validateStep rid i s).2 = none) →
        t = { s with en := t.en, drawn := t.drawn, reqs := t.reqs } ∧ ∃ q, t.req? rid = some q ∧
          q = { r with validated := true, steps := q.steps,
                       readyTick := if r.kind = 4 ∨ r.kind = 5 then max r.readyTick (s.now + 1) else r.readyTick } ∧
          q.steps.length = r.steps.length ∧
          ∀ i, i < r.steps.length →
            q.steps.getD i StepState.reset =
              { r.steps.getD i StepState.reset with drawn := (q.steps.getD i StepState.reset).drawn,
                                                    drawnSym := (q.steps.getD i StepState.reset).drawnSym } ∧
            (opKind (Desc.op (r.descs.getD i [])) = 5 → (q.steps.getD i StepState.reset).drawn.length =
              ceilDiv (ssDrawBits s (r.descs.getD i []) (r.cls.steps.getD i ClassStep.reset)) 8))

/-- A stopped request is aborted with `ABORTED`, its entry due in the tick after, unless its last piece has ended: then it completes
normally. A step whose counted wait has passed 4,096 ticks ends its request with `INTERNAL`. A request that ends leaves the station
memories and registers it held (02 R105; 03 R142, R160, R161; 04 R175). -/
def Obligations.RequestsStop : Prop :=
  (∀ (s : State) (rid : Nat) (r : Request) (k b : Nat), s.req? rid = some r → r.stopAt = some (k, b) →
      (k < s.now ∨ (k = s.now ∧ b ≤ s.tt.slot)) →
      (pastAbort (abortedByReset s r) r = false → ∃ t e, exec (.abortStop rid) s = .next t ∧
        t = { s with reqs := s.reqs.filter (fun x => x.rid ≠ rid), ended := s.ended ++ [e], vs := t.vs, ss := t.ss, cs := t.cs,
                     tt := { s.tt with holdFreed := t.tt.holdFreed }, ks := t.ks, stations := t.stations } ∧
        e.rid = rid ∧ e.status = 0x20 ∧ e.due = k + 1 ∧ e.index = r.index ∧
        t.vs.memUsed = s.vs.memUsed - r.vsBlocks ∧ t.ss.memUsed = s.ss.memUsed - r.ssBlocks ∧
        ∀ n : Fin 7, t.stations[n] = { s.stations[n] with derived := s.stations[n].derived.filter (fun d => d.rid ≠ rid) }) ∧
      (pastAbort (abortedByReset s r) r = true → exec (.abortStop rid) s =
        .next { s with reqs := s.reqs.map (fun x => if x.rid = rid then { x with stopAt := none } else x) })) ∧
  (∀ (s : State) (rid : Nat) (r : Request), s.req? rid = some r → 4096 < r.wait → ∃ t e, exec (.stepWaitTimeout rid) s = .next t ∧
      t = { s with reqs := s.reqs.filter (fun x => x.rid ≠ rid), ended := s.ended ++ [e], vs := t.vs, ss := t.ss, cs := t.cs,
                   tt := { s.tt with holdFreed := t.tt.holdFreed }, ks := t.ks, stations := t.stations, drawn := s.drawn + 1 } ∧
      e.rid = rid ∧ e.status = 0x3F ∧ e.due = s.now ∧
      ∀ n : Fin 7, t.stations[n] = { s.stations[n] with derived := s.stations[n].derived.filter (fun d => d.rid ≠ rid) }) ∧
  (∀ (s : State) (rid : Nat) (r : Request), s.req? rid = some r → r.wait ≤ 4096 → exec (.stepWaitTimeout rid) s = .next s)

/-- A released result of a hold or of SS waits no longer: its output goes out from the byte after those that have streamed, feeds the next
step where the chain says so, and the next step runs, or the request drains with `DONE`. A key that is received enters the key cache, one
recovered that has not its template's length fails with 0x17, and a generated pair with a record begins its commit. A signature that
passes its check waits for its release, and one that fails ends its request with `INTERNAL`, reported under the pair that signed and
counted (04 R202; 07 R313 to R316, R318, R321, R322). -/
def Obligations.ReleasesFollowChecks : Prop :=
  (∀ (s : State) (rid : Nat) (r : Request), s.req? rid = some r → r.stage = .release → r.kind = 0 → r.readyTick ≤ s.now →
      ∃ u q, exec (.holdRelease rid) s = .next (writeReleased u) ∧ u = { s with reqs := u.reqs } ∧ u.req? rid = some q ∧
        (∀ n, n ≠ rid → u.req? n = s.req? n) ∧ Request.gaveOut r q (r.step.output) s.now) ∧
  (∀ (s : State) (rid : Nat) (r : Request), s.req? rid = some r → r.stage = .release → r.kind = 5 → r.readyTick ≤ s.now →
      (Desc.op r.desc ≠ 0x0602 → Desc.op r.desc ≠ 0x0605 → Desc.op r.desc ≠ 0x0606 → Desc.op r.desc ≠ 0x0607 →
        ∃ u q, exec (.ssResultRelease rid) s = .next (writeReleased u) ∧ u = { s with reqs := u.reqs } ∧ u.req? rid = some q ∧
          (∀ n, n ≠ rid → u.req? n = s.req? n) ∧ Request.gaveOut r q r.step.output s.now) ∧
      (Desc.op r.desc = 0x0602 ∨ Desc.op r.desc = 0x0605 →
        r.step.newKey = none ∨ (Desc.op r.desc = 0x0605 ∧ ∃ v p, r.step.newKey = some (v, p) ∧ oaepKeyOk s r v = false) →
        ∃ u, exec (.ssResultRelease rid) s = .next (writeReleased u) ∧ State.endsOnly s u ∧
          ((∃ e ∈ u.ended, e.rid = rid ∧ e.status = 0x17 ∧ e.due = s.now) ∨
           (∃ q, u.req? rid = some q ∧ q.stage = .draining ∧ q.final = 0x17))) ∧
      (∀ v p x, r.step.newKey = some (v, p) → templateOf s r.tenant (Desc.keyB r.desc) = some x →
        ∀ w, w = (x.tenant, BitVec.ofNat 20 (Desc.keyB r.desc)) →
        (Desc.op r.desc = 0x0602 ∨ (Desc.op r.desc = 0x0605 ∧ oaepKeyOk s r v = true) → ∃ u q,
          exec (.ssResultRelease rid) s = .next (writeReleased u) ∧
          u = { s with reqs := u.reqs,
                       ks := { s.ks with cache := u.ks.cache, invalid := s.ks.invalid.filter (fun p => p ≠ w) } } ∧
          u.req? rid = some q ∧ (∀ n, n ≠ rid → u.req? n = s.req? n) ∧ Request.gaveOut r q [] s.now ∧
          ∃ y ∈ u.ks.cache, y.part = .receiving ∧ y.tenant = x.tenant ∧ y.handle = BitVec.ofNat 20 (Desc.keyB r.desc) ∧
            y.value = if Desc.op r.desc = 0x0602 then v else keyForm x.alg.toNat v) ∧
        (Desc.op r.desc = 0x0606 ∨ Desc.op r.desc = 0x0607 →
          (recordNo s r.tenant (Desc.keyB r.desc) = none → ∃ u q, exec (.ssResultRelease rid) s = .next (writeReleased u) ∧
            u = { s with reqs := u.reqs,
                         ks := { s.ks with cache := u.ks.cache, invalid := s.ks.invalid.filter (fun p => p ≠ w) } } ∧
            u.req? rid = some q ∧ (∀ n, n ≠ rid → u.req? n = s.req? n) ∧ Request.gaveOut r q r.step.output s.now ∧
            ∃ y ∈ u.ks.cache, y.part = .receiving ∧ y.tenant = x.tenant ∧ y.handle = BitVec.ofNat 20 (Desc.keyB r.desc) ∧ y.value = v) ∧
          (recordNo s r.tenant (Desc.keyB r.desc) ≠ none → ∃ u c, exec (.ssResultRelease rid) s = .next (writeReleased u) ∧
            u = { s with ks := { s.ks with commits := s.ks.commits ++ [c] },
                         reqs := s.reqs.map (fun q => if q.rid = rid then { q with stage := .commit } else q) } ∧
            c.rid = some rid ∧ c.record.value = v ∧ c.record.pub = p ∧ c.record.handle = BitVec.ofNat 20 (Desc.keyB r.desc))))) ∧
  (∀ (s : State) (rid : Nat) (r : Request), s.req? rid = some r → r.stage = .crtCheck → r.finished = true → r.pieceTick < s.now →
      isRestarting s 4 = false →
      (crtCheck r.check = true → exec (.rsaCrtCheck rid) s =
        .next { s with reqs := s.reqs.map (fun x => if x.rid = rid then
          { x with stage := .release, readyTick := s.now, finished := false } else x) }) ∧
      (crtCheck r.check = false → ∃ t, exec (.rsaCrtCheck rid) s = .next t ∧
        State.endsOnly s t ∧ t.req? rid = none ∧ t.reported r.signSrc ∧ t.ss.crtFail = min 0xFFFF (s.ss.crtFail + 1) ∧
        ∃ e ∈ t.ended, e.rid = rid ∧ e.status = 0x3F ∧ e.due = s.now))

/-- The completion writer writes the oldest entry that is due, 32 bytes at the tail of its completion ring with the tag, status, length
and ticks of the request, and counts the completion for the audit head; the phase turns as the tail wraps; a ring that has lost an entry
gets none, and an entry outside the windows in force is not issued: its ring stops, that entry lost (03 R153, R154, R156, R164; 08 R351;
log entry 86). -/
def Obligations.CompletionIsWritten : Prop :=
  ∀ (s : State) (e : Ended) (n : Tenant) (k : RingNo) (r : Ring) (addr : Nat), s.locked = false →
    s.ended.find? (fun x => x.due ≤ s.now) = some e → n = tenantFin e.tenant → k = ringFin e.ring → r = s.ring n k →
    addr = r.cqBase.toNat + 32 * r.cqTail.toNat →
    ∃ t, exec .completionWrite s = .next t ∧ t.fixed = s.fixed ∧ t.reqs = s.reqs ∧ t.nvm = s.nvm ∧
      t.ended = s.ended.filter (fun x => x.rid ≠ e.rid) ∧
      (∃ a : AuditRec, (t.page n).auditPend = (s.page n).auditPend ++ [a] ∧ a.tick = s.now ∧
        a.ring = e.ring ∧ a.digest = auditDigest e.descs e.status (entryFlags s e) e.admitTick (s.now + 1 - e.admitTick)) ∧
      (t.ring n k).outstanding = r.outstanding - 1 ∧
      (r.lost = true → t.fab = s.fab) ∧
      (r.lost = false → inWindows s n addr 32 false true = false → t.fab = s.fab ∧ (t.ring n k).lost = true ∧
        (t.ring n k).stopped = true ∧ (t.ring n k).cfgErr = 5 ∧ (t.ring n k).cqTail = r.cqTail) ∧
      (r.lost = false → inWindows s n addr 32 false true = true → ∃ b : Burst,
        t.fab = { s.fab with bursts := s.fab.bursts ++ [b] } ∧
        b.write = true ∧ b.len = 32 ∧ b.addr = BitVec.ofNat 64 addr ∧ b.data = entryBytes s e r.phase ∧
        (t.ring n k).cqTail = BitVec.ofNat 16 ((r.cqTail.toNat + 1) % r.entries) ∧
        (t.ring n k).phase = if (r.cqTail.toNat + 1) % r.entries = 0 then !r.phase else r.phase)

/-- A coalescing timer that has run out asserts COMPLETION and clears what was pending. The audit head is extended once for the
oldest ended completion tick, whose records leave; a snapshot copies head, count and through-tick, and only they are readable
(03 R157, R164, R165, R167, R168). -/
def Obligations.CoalescingAndAudit : Prop :=
  (∀ (s : State) (n : Tenant) (k : RingNo) (o : Nat), (s.ring n k).oldest = some o → (s.ring n k).coalTime ≠ 0 →
      o + (s.ring n k).coalTime.toNat ≤ s.now → ∃ t, exec (.coalesceTimerExpiry n k) s = .next t ∧
        t = { s with tenants := t.tenants } ∧ (∀ m : Tenant, m ≠ n → t.page m = s.page m) ∧
        t.page n = { s.page n with rings := (t.page n).rings, intStatus := (s.page n).intStatus ||| 1 } ∧
        (∀ j : RingNo, t.ring n j = if j = k then { s.ring n j with pend := 0, oldest := none } else s.ring n j)) ∧
  (∀ (s : State) (n : Tenant) (a : AuditRec), a ∈ (s.page n).auditPend → a.tick < s.now →
      (∀ b ∈ (s.page n).auditPend, a.tick ≤ b.tick) → ∃ t, exec (.auditExtend n) s = .next t ∧ t = { s with tenants := t.tenants } ∧
        (∀ m : Tenant, m ≠ n → t.page m = s.page m) ∧
        t.page n = { s.page n with auditHead := (t.page n).auditHead, auditCount := (t.page n).auditCount,
                                   auditThrough := BitVec.ofNat 64 a.tick,
                                   auditPend := (s.page n).auditPend.filter (fun b => b.tick ≠ a.tick) } ∧
        (t.page n).auditCount = (s.page n).auditCount +
          BitVec.ofNat 64 ((s.page n).auditPend.filter (fun b => b.tick = a.tick)).length ∧
        ((s.page n).auditPend = [a] →
          (t.page n).auditHead = sha256 ((s.page n).auditHead ++ leBytes 8 a.tick ++ a.digest))) ∧
  (∀ (s : State) (i : Ident) (n : Tenant) (v : BitVec 32), s.mayWrite i n false → ∃ t, exec (.auditSnap i n v) s = .next t ∧
      t = { s with rsp := 0, tenants := t.tenants } ∧ (∀ m : Tenant, m ≠ n → t.page m = s.page m) ∧
      t.page n = if v.getLsbD 0 then { s.page n with snapHead := (s.page n).auditHead, snapCount := (s.page n).auditCount,
                                                     snapThrough := (s.page n).auditThrough } else s.page n)

/-! ### The fabric -/

/-- A return answers the burst with its tag, which is outstanding no longer, and frees its bobbin for what waits. It is timed in its
port's peak: one later than 120 ns is counted on its port and reported, one later than 4,096 ns counts as timed out, and what comes from a
burst that has timed out is discarded, and so is what nobody waits for any more. Input data fills its step's region and counts as landed,
a descriptor is held by its ring while the ring fetches, and the response to an entry is an event of its ring pair. An error is counted
and reported under the port's FABERR checker. A burst times out once 4,096 ns have passed (08 R344, R353, R355 to R357, R359, R360; 03
R125; 18 R609). -/
def Obligations.ReturnsAnswerBursts : Prop :=
  (∀ (s : State) (p : Fin 4) (g : Fin 256) (d : Bytes) (err : Bool) (ns : Nat) (c : Cycle) (b : Burst) (e : Nat),
      burstOf s p.val false g.val = some b → e = (if isMgmt b then 3 else p.val) →
      (∃ u, exec (.readBurstReturn p g d err ⟨ns, c⟩) s = .next (refillReads u) ∧ (s.tt.slot ≤ 5 → refillReads u = u) ∧ u.fixed = s.fixed ∧
        u.fab.bursts = s.fab.bursts.filter (fun x => !(x.port = p.val && x.write == false && x.tag = g.val)) ∧
        u.fab.ports[p].peak = max s.fab.ports[p].peak (min 255 ns) ∧
        (b.dead = true → ns ≤ 120 → u = { s with fab := { s.fab with bursts := u.fab.bursts, ports := u.fab.ports } }) ∧
        (b.dead = false → err = true ∨ 4096 < ns → u.reported (srcPort e 23)) ∧
        (120 < ns → u.reported (srcPort p.val 22) ∧ u.fab.ports[p].late = min 0xFFFF (s.fab.ports[p].late + 1)) ∧
        (∀ rid i off r, b.dead = false → b.dropped = false → err = false → ns ≤ 4096 → b.kind = .input rid i off → s.req? rid = some r →
          ∃ q, u.req? rid = some q ∧ (q.steps.getD i StepState.reset).landed =
              (if i < r.steps.length then (r.steps.getD i StepState.reset).landed + b.len else 0) ∧
            (ns ≤ 120 → u = { s with fab := u.fab, reqs := u.reqs } ∧ q = { r with steps := q.steps } ∧
              (i < r.steps.length → off < (hostAreas (r.descs.getD i []) 0).1 → (q.steps.getD i StepState.reset).src =
                (r.steps.getD i StepState.reset).src.take off ++ fitTo b.len d ++
                  (r.steps.getD i StepState.reset).src.drop (off + b.len))))) ∧
      (∃ t, exec (.descriptorDataLanded p g d ns c) s = .next t ∧ t.fixed = s.fixed ∧
        t.fab.bursts = s.fab.bursts.filter (fun x => !(x.port = p.val && x.write == false && x.tag = g.val)) ∧
        (ns ≤ 120 → t = { s with fab := t.fab, tenants := t.tenants, reqs := t.reqs }) ∧
        (∀ n k i, b.dead = false → b.dropped = false → ns ≤ 4096 → b.kind = .desc n k i → (s.ring (tenantFin n) (ringFin k)).fetching = true →
          (∀ h ∈ (s.ring (tenantFin n) (ringFin k)).held, h.index ≠ i) →
          ∃ h : HeldDesc, (t.ring (tenantFin n) (ringFin k)).held = (s.ring (tenantFin n) (ringFin k)).held ++ [h] ∧ h.index = i ∧
            h.bytes = fitTo 64 d ∧ h.landTick = s.now ∧ h.late = decide (120 < ns)))) ∧
  (∀ (s : State) (p : Fin 4) (g : Fin 256) (err : Bool) (ns : Nat) (c : Cycle) (b : Burst) (e : Nat),
      burstOf s p.val true g.val = some b → e = (if isMgmt b then 3 else p.val) →
      ∃ u, exec (.writeResponse p g err ⟨ns, c⟩) s = .next (refillWrites u) ∧ (cutDue s = true → refillWrites u = u) ∧ u.fixed = s.fixed ∧
        u.fab.bursts = s.fab.bursts.filter (fun x => !(x.port = p.val && x.write == true && x.tag = g.val)) ∧
        u.fab.ports[p].peak = max s.fab.ports[p].peak (min 255 ns) ∧
        (b.dead = true → ns ≤ 120 → u = { s with fab := { s.fab with bursts := u.fab.bursts, ports := u.fab.ports } }) ∧
        (b.dead = false → err = true ∨ 4096 < ns → u.reported (srcPort e 23)) ∧
        (120 < ns → u.reported (srcPort p.val 22) ∧ u.fab.ports[p].late = min 0xFFFF (s.fab.ports[p].late + 1)) ∧
        (b.dead = false → b.dropped = true → err = false → ns ≤ 120 → u = { s with fab := { s.fab with bursts := u.fab.bursts, ports := u.fab.ports } }) ∧
        (∀ n k i, b.dead = false → b.dropped = false → err = false → ns ≤ 120 → b.kind = .completion n k i → u = { s with fab := u.fab } ∧
          ∀ l : Fin 16, (s.fab.evMap[l]).getLsbD 31 = true → fieldNat (s.fab.evMap[l]) 26 2 = 2 → fieldNat (s.fab.evMap[l]) 16 6 = n →
            (s.fab.evMap[l]).getLsbD (22 + k) = true → (∀ a, s.fab.evStart[l] = some a → a + 80 ≤ 320 * s.now + c.val) →
            u.fab.evStart[l] = some (320 * s.now + c.val))) ∧
  (∀ (s : State) (p : Fin 4) (w : Bool) (g : Fin 256) (b : Burst) (e : Fin 4), burstOf s p.val w g.val = some b → b.dead = false →
      e = (if isMgmt b then 3 else p) →
      (overdue s b = true → ∃ t, exec (.burstTimeout p w g) s = .next t ∧ t.fixed = s.fixed ∧ t.reported (srcPort e.val 23) ∧
        t.fab.bursts = s.fab.bursts.map (fun x => if x.port = p.val ∧ x.write = w ∧ x.tag = g.val then { x with dead := true } else x) ∧
        t.fab.ports[p].timeout = min 0xFF (s.fab.ports[p].timeout + 1) ∧
        t.fab.ports[e].err = min 0xFFFF (s.fab.ports[e].err + 1)) ∧
      (overdue s b = false → exec (.burstTimeout p w g) s = .next s))

/-! ### Faults -/

/-- A report that reaches the collector is recorded at its effective severity, and takes that severity's response: NOTE and below none;
ESCALATE opens a window at the boundary that ends the tick; CONTAIN retires the lane or noise source; FATAL-STATION and FATAL-BLOCK fall
due at that boundary. The first-error latch takes the first report at or above its minimum. A report of checker 17 also raises tamper
alarm 0x14. A report of an uncorrectable word of a request ends it with `INTERNAL`, one of an active bank restarts its station, one of an
inactive bank of a prepared set disarms it, and the outcome of a key slot, a word of the system partition or one of no owner is due in the
tick after. An identity of no checker, or any in reset or SCRAP, reports nothing (01 R40; 12 R461 to R463, R467, R470, R476, R478, R480). -/
def Obligations.ReportsTakeTheirResponse : Prop :=
  (∀ (s : State) (c detail : BitVec 16) (owner : WordOwner) (cycle : Cycle), s.mainUp = true → s.lc.state ≠ lcScrap →
      reportable c = true → srcChecker c ≠ 4 → ∃ t, exec (.faultReport c detail owner cycle) s =
          .next (if srcChecker c = 17 then tamperAlarm 0x14 false (c.setWidth 32) t else t) ∧
        State.reportsOnly s t ∧ t.reported c ∧
        ((severityOf s c).sev ≤ 1 → t.flt.due = s.flt.due ∧ t.flt.timers = s.flt.timers ∧ t.flt.roles = s.flt.roles ∧ t.reqs = s.reqs) ∧
        ((severityOf s c).sev = 3 → s.flt.cycleAt ≠ some (320 * s.now + cycle.val) → s.flt.timers.length < 16 → (∀ w ∈ s.flt.timers, w.source ≠ c) →
          ∃ w, t.flt.timers = s.flt.timers ++ [w] ∧ w.source = c ∧ w.opens = s.now + 1 ∧
            w.expires = s.now + 1 + (severityOf s c).window ∧ w.action = (severityOf s c).action) ∧
        ((severityOf s c).sev = 2 → isLaneSource c = true → s.flt.cycleAt ≠ some (320 * s.now + cycle.val) →
          ∀ r, (t.roles (srcKey c))[srcLane c]? = some r → r = 11) ∧
        ((severityOf s c).sev = 2 → isNoiseSource c = true → ∀ n : Fin 4, n.val = srcLane c → t.en.sources[n].state = 2) ∧
        ((severityOf s c).sev = 4 → (srcStation c, s.now + 1, c) ∈ t.flt.due) ∧
        ((severityOf s c).sev = 5 → (7, s.now + 1, c) ∈ t.flt.due) ∧
        (s.flt.fValid = false → s.image.latchMin ≤ (severityOf s c).sev →
          t.flt.fValid = true ∧ t.flt.fSource = c ∧ t.flt.fTick = s.tick)) ∧
  (∀ (s : State) (c detail : BitVec 16) (rid : Nat) (r : Request) (cycle : Cycle), s.mainUp = true → s.lc.state ≠ lcScrap →
      reportable c = true → srcChecker c = 4 → s.req? rid = some r → ∃ t,
        exec (.faultReport c detail (.request rid) cycle) s = .next t ∧ State.endsOnly s t ∧ t.req? rid = none ∧ t.reported c ∧
        ∃ e ∈ t.ended, e.rid = rid ∧ e.status = 0x3F ∧ e.due = s.now + 1) ∧
  (∀ (s : State) (c detail : BitVec 16) (owner : WordOwner) (cycle : Cycle), s.mainUp = true → s.lc.state ≠ lcScrap →
      reportable c = true → srcChecker c = 4 → ∃ t, exec (.faultReport c detail owner cycle) s = .next t ∧ t.reported c ∧
        ((∀ rid, owner ≠ .request rid) → owner ≠ .inactiveBank → State.reportsOnly s t) ∧
        (owner = .inactiveBank → 2 ≤ s.cfg.coState.toNat → s.cfg.coState.toNat ≤ 3 →
          State.reportsOnly { s with cfg := { s.cfg with bankBad := t.cfg.bankBad, armed := t.cfg.armed } } t ∧
          srcStation c ∈ t.cfg.bankBad) ∧
        (owner = .activeBank → (srcStation c, s.now + 1, c) ∈ t.flt.due) ∧
        ((∃ n h, owner = .slot n h) ∨ (∃ n m, owner = .system n m) ∨ owner = .nobody →
          (s.now + 1, c, detail, owner) ∈ t.flt.wordsDue)) ∧
  (∀ (s : State) (c detail : BitVec 16) (owner : WordOwner) (cycle : Cycle),
      s.mainUp = false ∨ s.lc.state = lcScrap ∨ reportable c = false → exec (.faultReport c detail owner cycle) s = .next s)

/-- A clean word leaves nothing; a corrected one is corrected where it is held and reported under CORR of its lane, one that cannot be
corrected under UNCORR (01 R32 to R34). Outside lockdown a proof of a checker makes its record with PROOF and no response, and counts it
proven, a completed rotation beginning anew; a failed proof is counted and its report path reported (12 R482, R483). -/
def Obligations.ScrubsAndProofs : Prop :=
  (∀ (s : State) (c detail : BitVec 16) (w : Bytes) (owner : WordOwner), s.mainUp = true → s.lc.state ≠ lcScrap →
      reportable c = true →
      (testWord w = .clean → exec (.scrub c w detail owner) s = .next s) ∧
      (∀ w', testWord w = .corrected w' → ∃ t, exec (.scrub c w detail owner) s = .next t ∧ State.reportsOnly (mendOwner owner s) t ∧
        t.reported (withChecker c 3)) ∧
      (testWord w = .uncorrectable → ∃ t, exec (.scrub c w detail owner) s = .next t ∧
        t.fixed = { s.fixed with coState := t.cfg.coState } ∧ (owner ≠ .inactiveBank → t.cfg = s.cfg) ∧
        t.reported (withChecker c 4))) ∧
  (∀ (s : State) (c : BitVec 16), s.mainUp = true → s.lc.state ≠ lcScrap → reportable c = true → srcChecker c < 32 →
      s.flt.lockdown = false ∨ isLaneSource c = false →
      (∃ t, exec (.checkerProof c true) s = .next t ∧ t = { s with flt := t.flt } ∧
        (∃ r ∈ t.flt.recent, r.source = c ∧ r.tick = s.now ∧ r.proof = true) ∧
        t.flt.due = s.flt.due ∧ t.flt.timers = s.flt.timers ∧ t.flt.fValid = s.flt.fValid ∧ t.flt.total = s.flt.total ∧
        (c ∈ t.flt.proven ∨ (t.flt.proven = [] ∧ t.flt.rotations = min 0xFFFF (s.flt.rotations + 1) ∧ t.flt.overdue = false))) ∧
      (∃ t, exec (.checkerProof c false) s = .next t ∧ State.reportsOnly s t ∧ t.reported (withChecker c (srcChecker c + 32)) ∧
        t.flt.proofFail = min 0xFFFF (s.flt.proofFail + 1)))

/-- A word as it is stored tests clean; an error in one symbol is corrected; an error in two symbols is detected and not corrected (01
R26, R31, Table 01-2). -/
def Obligations.SymbolCodeCorrects : Prop :=
  (∀ d : Bytes, d.length = 16 → testWord (encodeWord d) = .clean) ∧
  (∀ (d : Bytes) (i : Nat) (e : Byte), d.length = 16 → i < 19 → e ≠ 0 →
      testWord ((encodeWord d).modify i (· ^^^ e)) = .corrected (encodeWord d)) ∧
  (∀ (d : Bytes) (i j : Nat) (e f : Byte), d.length = 16 → i < j → j < 19 → e ≠ 0 → f ≠ 0 →
      testWord (((encodeWord d).modify i (· ^^^ e)).modify j (· ^^^ f)) = .uncorrectable)

/-- The lock holder's injection is refused where the state, the rights and the target do not allow it; else it is in progress until the
tick ends, and the target reports as MODE has it, with PROOF, or there is no such checker and no record; a free siding that is the target
is under injection. Where it is for a proof only, nothing else follows. A write of 1 to VALID empties the first-error latch (01 R61; 12
R470, R486, Tables 12-10, 12-23; log entries 58 and 122). -/
def Obligations.InjectionsAndLatch : Prop :=
  ∀ (s : State) (i : Ident) (v : BitVec 64) (c : BitVec 16), s.mayManage i → c = v.extractLsb' 0 16 →
    (i ≠ procIdent 1 → v.getLsbD 63 = true →
      (mayInject s false (v.getLsbD 62) c = false →
        exec (.faultInjection i v) s = .next { s with rsp := 0, flt := { s.flt with injRefused := true } }) ∧
      (mayInject s false (v.getLsbD 62) c = true → ∃ t, exec (.faultInjection i v) s = .next t ∧
        State.reportsOnly { s with rsp := 0 } t ∧ t.flt.injRefused = false ∧ t.flt.injSource = c ∧
        (srcChecker c < 32 → reportable c = true →
          t.flt.injResult = 1 ∧ t.flt.injNext = (if injectExpected (fieldNat v 32 2) c then 2 else 3) ∧
          (∀ rep, injectReport (fieldNat v 32 2) c = some rep → ∃ r ∈ t.flt.recent, r.source = rep ∧ r.tick = s.now ∧ r.proof = true) ∧
          (injectReport (fieldNat v 32 2) c = none → t.flt.recent = s.flt.recent) ∧
          (v.getLsbD 62 = false → t.flt.due = s.flt.due ∧ t.flt.timers = s.flt.timers ∧
            ((isLaneSource c && freeSiding s (srcKey c) (srcLane c)) = false → t.flt.roles = s.flt.roles) ∧
            ((isLaneSource c && freeSiding s (srcKey c) (srcLane c)) = true → (t.roles (srcKey c)).getD (srcLane c) 15 = 10))) ∧
        (reportable c = false ∨ 32 ≤ srcChecker c →
          t.flt.injResult = 1 ∧ t.flt.injNext = 3 ∧ t.flt.recent = s.flt.recent))) ∧
    (i ≠ procIdent 1 → v.getLsbD 63 = false → exec (.faultInjection i v) s = .next { s with rsp := 0 }) ∧
    (v.getLsbD 63 = true → exec (.firstErrorClear i v) s =
      .next { s with rsp := 0, flt := { s.flt with fValid := false, fOvf := false, fSev := 0, fSource := 0, fTick := 0, later := 0,
                                                   latchAt := none } }) ∧
    (v.getLsbD 63 = false → exec (.firstErrorClear i v) s = .next { s with rsp := 0 })

/-- An open window that the Supervisor acknowledges closes without action; one that reaches its boundary closes and its action is
taken: a station's restart or a lockdown falls due at the boundary that ends the tick. The Supervisor takes the oldest
record once the tick that it belongs to has ended (12 R467, R471). -/
def Obligations.EscalationWindows : Prop :=
  (∀ (s : State) (v : BitVec 32) (w : EscTimer), supWorks s = true → w ∈ s.flt.timers → w.source = v.extractLsb' 0 16 →
      w.opens ≤ s.now → s.now < w.expires → ∃ t, exec (.faultAck v) s = .next t ∧
        t = { s with flt := { s.flt with timers := t.flt.timers, queue := t.flt.queue, recent := t.flt.recent } } ∧
        t.flt.timers = s.flt.timers.filter (fun x => x.source ≠ v.extractLsb' 0 16)) ∧
  (∀ (s : State) (c : BitVec 16) (w : EscTimer), s.flt.timers.find? (fun x => x.source = c && decide (x.expires ≤ s.now + 1)) = some w →
      ∃ t, exec (.escalationExpiry c) s = .next t ∧ State.reportsOnly s t ∧
        t.flt.timers = s.flt.timers.filter (fun x => x.source ≠ c) ∧
        (w.action = 4 → t.flt.due = s.flt.due ++ [(srcStation c, s.now + 1, c)]) ∧
        (w.action = 5 → t.flt.due = s.flt.due ++ [(7, s.now + 1, c)])) ∧
  (∀ (s : State) (r : FaultRec) (l : List FaultRec), supWorks s = true → s.flt.queue = r :: l →
      (r.tick < s.now → exec .faultRecordTake s = .next { s with flt := { s.flt with queue := l } }) ∧
      (s.now ≤ r.tick → exec .faultRecordTake s = .next s))

/-- A siding whose boundary has come serves its position. A contingency of the set in force is entered once, with its cause, and
source 4 asserted. At a tick boundary the Supervisor may move a lane to a free powered siding: the siding takes the lane's position,
and the lane is at rest (02 R101, R103; 12 R473, R475). -/
def Obligations.LanesAreReplaced : Prop :=
  (∀ (s : State) (eng : Fin 64), ∃ t, exec (.sidingTakeover eng) s = .next t ∧
      t = { s with flt := { s.flt with takeovers := t.flt.takeovers, roles := t.flt.roles } } ∧
      (∀ x ∈ t.flt.takeovers, x ∈ s.flt.takeovers ∧ ¬ (x.engine = eng.val ∧ x.tick ≤ s.now)) ∧
      (∀ x, s.flt.takeovers.filter (fun y => y.engine = eng.val && decide (y.tick ≤ s.now)) = [x] →
        inReserve ((s.roles eng.val).getD x.lane 11) = true → (t.roles eng.val)[x.lane]? = some (BitVec.ofNat 4 x.pos))) ∧
  (∀ (s : State) (x : SwitchDue) (l : List SwitchDue), cutDue s = false → dueCases s = x :: l → ∃ t,
      exec .contingencySwitch s = .next t ∧ t.fixed = s.fixed ∧ t.flt.switches = s.flt.switches.erase x ∧
      (s.image.groups.getD x.case 0 = 0 → t.tt = s.tt) ∧
      (s.image.groups.getD x.case 0 ≠ 0 → s.tt.active = 0 →
        t.tt = { s.tt with active := BitVec.ofNat 3 (s.image.groups.getD x.case 0), causeV := true, cause := x.source } ∧
        t.mgmt.intStatus.getLsbD 4 = true) ∧
      (s.tt.active ≠ 0 → t.tt = s.tt)) ∧
  (∀ (s : State) (eng : Fin 64) (lane siding : Fin 16), supWorks s = true → s.tt.slot = 0 → lane ≠ siding →
      ((s.roles eng.val).getD lane.val 15).toNat < 8 → (s.roles eng.val).getD siding.val 15 = 9 →
      freeSiding s eng.val siding.val = true → ∃ t, exec (.plannedShunt eng lane siding) s = .next t ∧
        t = { s with flt := { s.flt with roles := t.flt.roles } } ∧
        (t.roles eng.val).getD siding.val 15 = (s.roles eng.val).getD lane.val 15 ∧ (t.roles eng.val).getD lane.val 15 = 8 ∧
        (∀ n, n ≠ lane.val → n ≠ siding.val → (t.roles eng.val).getD n 15 = (s.roles eng.val).getD n 15))

/-- A station whose restart is due stops: every request that holds state there ends with `INTERNAL`, and its key banks are empty; it
rejoins at a tick boundary, each checker that it has in service or in reserve proven. A lockdown that is due ends every request and entry,
empties the key cache and the banks, stops every ring, and leaves the NVM (12 R476, R478). -/
def Obligations.StationsStopAndRejoin : Prop :=
  (∀ (s : State) (st : Fin 7) (d : Nat × Nat × BitVec 16), s.locked = false →
      s.flt.due.find? (fun x => x.1 = st.val && decide (x.2.1 ≤ s.now)) = some d → ∃ t, exec (.stationRestart st) s = .next t ∧
        t.fixed = s.fixed ∧
        t.stations[st] = { active := [], loading := [], derived := [], restart := some d.2.2, started := s.now, rejoined := 0 } ∧
        (∀ n : Fin 7, n ≠ st → t.stations[n] = { s.stations[n] with derived := t.stations[n].derived }) ∧
        t.mgmt.intStatus.getLsbD 3 = true ∧ t.flt.restarts = s.flt.restarts + 1 ∧ t.flt.dumpState = 1 ∧
        (∀ r ∈ s.reqs, holdsState s st.val r = true →
          (∀ q ∈ t.reqs, q.rid ≠ r.rid) ∧ ∃ e ∈ t.ended, e.rid = r.rid ∧ e.status = 0x3F)) ∧
  (∀ (s : State) (st : Fin 7), s.stations[st].restart.isSome = true → s.tt.slot = 0 → s.locked = false →
      ∃ t, exec (.stationRejoin st) s = .next t ∧ t = { s with
          stations := s.stations.set st { s.stations[st] with restart := none, rejoined := s.now }, flt := t.flt } ∧
        t.flt.due = s.flt.due ∧ t.flt.timers = s.flt.timers ∧ t.flt.roles = s.flt.roles ∧
        ∀ c ∈ stationCheckers s st.val, ∃ r ∈ t.flt.recent, r.source = c ∧ r.tick = s.now ∧ r.proof = true) ∧
  (∀ (s : State) (d : Nat × Nat × BitVec 16), s.flt.lockdown = false →
      s.flt.due.find? (fun x => x.1 = 7 && decide (x.2.1 ≤ s.now)) = some d → ∃ t, exec .lockdown s = .next t ∧
        t.fixed = { s.fixed with lockdown := true } ∧ t.reqs = [] ∧ t.ended = [] ∧ t.ks.cache = [] ∧ t.ks.system = [] ∧
        t.ks.commits = [] ∧ t.ks.kr = s.ks.kr ∧ t.nvm = s.nvm ∧ t.aon = s.aon ∧ t.flt.toggling = false ∧
        (∀ n : Fin 7, t.stations[n].active = [] ∧ t.stations[n].loading = []) ∧
        (∀ (n : Tenant) (k : RingNo), (t.ring n k).fetching = false ∧ (t.ring n k).enable = (s.ring n k).enable) ∧
        ∀ b ∈ t.fab.bursts, b.dropped = true)

/-- The dump owed first is written to the older slot of NVM with the next sequence number, and to the host dump window where there is
one, or its write fails and is counted. A control processor whose pair disagrees restarts from its checkpoint, reported under LOCKSTEP
with source 5; it resumes within 64 ticks, or CPSTALL is reported and a lock that it held is free (01 R46; 08 R342; 12 R488). -/
def Obligations.ProcessorsAndDumps : Prop :=
  (∀ (s : State) (d : Nat × BitVec 16 × Nat) (l : List (Nat × BitVec 16 × Nat)), s.flt.dumpDue = d :: l → procWorks s 1 = true →
      s.pwr.nvmLow = false → s.nvm.present = true →
      (∃ t, exec (.dumpWrite true) s = .next t ∧
        t = { s with nvm := t.nvm, flt := t.flt, fab := { s.fab with mgmt := t.fab.mgmt } } ∧ t.flt.dumpDue = l ∧
        (s.image.dumpBase = 0 → t.fab = s.fab) ∧
        (s.image.dumpBase ≠ 0 → ∃ x : MgmtXfer, t.fab.mgmt = s.fab.mgmt ++ [x] ∧ x.proc = 1 ∧ x.write = true ∧
          x.addr = s.image.dumpBase ∧ x.data = dumpBytes s d.1 d.2.2 (s.nvm.dumpSeq + 1)) ∧
        t.flt = { s.flt with dumpDue := l, dumpState := if l = [] then 2 else 1, dumpSlot := olderSlot s.nvm, dumpHost := false,
                             hostBad := false } ∧
        t.nvm = (if olderSlot s.nvm then
          { s.nvm with dump1 := some (dumpBytes s d.1 d.2.2 (s.nvm.dumpSeq + 1)), dumpSeq := s.nvm.dumpSeq + 1 } else
          { s.nvm with dump0 := some (dumpBytes s d.1 d.2.2 (s.nvm.dumpSeq + 1)), dumpSeq := s.nvm.dumpSeq + 1 })) ∧
      exec (.dumpWrite false) s = .next { s with nvm := { s.nvm with errors := min 0xFFFF (s.nvm.errors + 1) },
                                                 flt := { s.flt with dumpDue := l, dumpState := 3 } }) ∧
  (∀ (s : State) (good : Bool), s.flt.dumpDue = [] ∨ procWorks s 1 = false ∨ s.pwr.nvmLow = true ∨ s.nvm.present = false →
      exec (.dumpWrite good) s = .next s) ∧
  (∀ (s : State) (p : Fin 3), s.mainUp = true → procWorks s p = true → ∃ t, exec (.lockstepMismatch p) s = .next t ∧
      State.reportsOnly { s with procs := t.procs } t ∧ t.procs[p] = { s.procs[p] with restart := some s.now } ∧
      (∀ q : Fin 3, q ≠ p → t.procs[q] = s.procs[q]) ∧ t.reported (sourceId 7 4 p.val 20) ∧ t.mgmt.intStatus.getLsbD 5 = true) ∧
  (∀ (s : State) (p : Fin 3) (k : Nat), s.procs[p].restart = some k →
      (s.now ≤ k + 64 → exec (.controlProcessorResume p) s =
        .next { s with procs := s.procs.set p { s.procs[p] with restart := none } }) ∧
      (k + 64 < s.now → ∃ t, exec (.controlProcessorResume p) s = .next t ∧ t.procs[p].restart = none ∧
        (p ≠ 2 → State.reportsOnly { s with
            procs := s.procs.set p { s.procs[p] with restart := none }
            mgmt := { s.mgmt with held := t.mgmt.held, src := t.mgmt.src, holder := t.mgmt.holder, remain := t.mgmt.remain } } t) ∧
        t.reported (sourceId 7 4 p.val 21) ∧
        (s.mgmt.held = true → s.mgmt.src = true → s.mgmt.holder = procIdent p → t.mgmt.held = false) ∧
        (s.mgmt.src = false → t.mgmt.held = s.mgmt.held ∧ t.mgmt.holder = s.mgmt.holder)))

/-! ### Entropy -/

/-- A source that fails a test of the phase it is in is retired with its cause and an empty delay line, counted, and reported under RCT or
APT; a cause of the other phase is none of its tests. A retest, which starts the source afresh, is started by the holder's write or 4,096
periods after the retirement, for a source that has rejoined fewer than three times; one under test joins after 1,024 samples, or after a
retest of 2,048 at a boundary, and only a rejoin after a retest is counted (10 R410 to R413, R424; 12 R464). -/
def Obligations.NoiseSourcesRetireAndRejoin : Prop :=
  (∀ (s : State) (n : Fin 4) (cause : BitVec 8), s.en.sources[n].state ≠ 2 → 1 ≤ cause.toNat → cause.toNat ≤ 4 →
      ((cause.toNat ≤ 2 ↔ s.en.sources[n].taken < 1024) → ∃ t, exec (.sourceHealthFailure n cause) s = .next t ∧ State.reportsOnly s t ∧
        t.reported (sourceId 6 2 n.val (if cause = 1 ∨ cause = 3 then 9 else 10)) ∧ t.en.sources[n].state = 2 ∧
        t.en.sources[n].cause = cause ∧ t.en.sources[n].line = [] ∧ t.en.sources[n].out = [] ∧ t.en.sources[n].retired = s.now ∧
        t.en.sources[n].fails = min 0xFFFF (s.en.sources[n].fails + 1) ∧ t.en.retire = min 0xFFFF (s.en.retire + 1) ∧
        (∀ m : Fin 4, m ≠ n → t.en.sources[m] = s.en.sources[m])) ∧
      (¬ (cause.toNat ≤ 2 ↔ s.en.sources[n].taken < 1024) → exec (.sourceHealthFailure n cause) s = .next s)) ∧
  (∀ (s : State) (n : Fin 4), s.en.sources[n].state = 1 →
      (if s.en.sources[n].retest then 2048 ≤ s.en.sources[n].taken ∧ s.tt.slot = 0 else 1024 ≤ s.en.sources[n].taken) →
      exec (.sourceRejoin n) s =
        .next { s with en := { s.en with sources := s.en.sources.set n { s.en.sources[n] with
          state := 0, retest := false,
          rejoins := if s.en.sources[n].retest then s.en.sources[n].rejoins + 1 else s.en.sources[n].rejoins } } }) ∧
  (∀ (s : State) (n : Fin 4), s.en.sources[n].state = 2 → s.en.sources[n].rejoins ≠ 3 → s.en.sources[n].retired + 4096 * 4096 ≤ s.now →
      procWorks s 1 = true →
      exec (.sourceRetestTimer n) s = .next { s with
        en := { s.en with
          sources := s.en.sources.set n { s.en.sources[n].restart with state := 1, retest := true } } }) ∧
  (∀ (s : State) (i : Ident) (v : BitVec 32), s.mayManage i → ∃ t, exec (.retest i v) s = .next t ∧
      t = { s with rsp := 0, en := { s.en with sources := t.en.sources } } ∧
      ∀ n : Fin 4, t.en.sources[n] = if v.getLsbD n.val = true ∧ s.en.sources[n].state = 2 ∧ s.en.sources[n].rejoins ≠ 3 then
        { s.en.sources[n].restart with state := 1, retest := true } else s.en.sources[n])

/-- A conditioned block is the SHA-256 of 4,096 raw bits and enters the seed pool, which holds 2,048, while two sources are healthy; with
fewer, none forms. Instantiation takes 512 of the bits with the device unique identity as its personalisation string, a reseed 384, and
both restart the reseed counter; a generate call counts, leaves a new Key and V and fills the buffer, at most by 1,280 bytes and to
64 KiB; a mismatch discards the call and is reported, and the third in a row exhausts the service (01 R35; 10 R415 to R420). -/
def Obligations.SeedPoolAndGenerator : Prop :=
  (∀ (s : State) (runs : Vector (Fin 256) 4) (apts : Vector (Fin 1024) 4),
      (2 ≤ healthyCount s.en → 4096 ≤ s.en.raw.length → ∃ t, exec (.conditionedBlock runs apts) s = .next t ∧
        t = { s with en := { s.en with seed := (s.en.seed ++ sha256 (bitsToBytes (s.en.raw.take 4096))).take 256,
                                       raw := s.en.raw.drop 4096, sources := t.en.sources } } ∧
        ∀ n : Fin 4, t.en.sources[n] = { s.en.sources[n] with runPeak := max s.en.sources[n].runPeak runs[n].val,
                                                              aptPeak := max s.en.sources[n].aptPeak apts[n].val }) ∧
      (healthyCount s.en < 2 → exec (.conditionedBlock runs apts) s = .next s)) ∧
  (∀ s : State, s.en.inst = false → s.en.stuck = false → 512 ≤ s.en.pool → exec .drbgInstantiate s =
      .next { s with en := { s.en with
        inst := true, reseeded := true, calls := 0, seed := s.en.seed.drop 64,
        key := (drbgInstantiate (s.en.seed.take 64) s.uid).1, vec := (drbgInstantiate (s.en.seed.take 64) s.uid).2 } }) ∧
  (∀ s : State, s.en.inst = true → s.en.stuck = false → 384 ≤ s.en.pool →
      s.en.calls = 1048576 ∨ ((s.en.state = 2 ∨ s.en.state = 3) ∧ 2 ≤ healthyCount s.en) → ∃ t, exec .drbgReseed s = .next t ∧
        t = { s with en := { s.en with calls := 0, seed := s.en.seed.drop 48, reseeds := min 0xFFFFFFFF (s.en.reseeds + 1),
                                       reseeded := t.en.reseeded, key := (drbgReseed (s.en.seed.take 48) s.en.key s.en.vec).1,
                                       vec := (drbgReseed (s.en.seed.take 48) s.en.key s.en.vec).2 } } ∧
        (s.en.state ≠ 1 → t.en.reseeded = true)) ∧
  (∀ s : State, s.en.inst = true → s.en.stuck = false → s.en.callsTick = false → s.en.calls < 1048576 → s.en.fill < 65536 →
      exec (.drbgGenerate false) s = .next { s with en := { s.en with
        mism := 0, calls := s.en.calls + 1, callsTick := true, fill := min 65536 (s.en.fill + (1280 - s.en.direct)),
        credit := min (65536 - s.en.fill) (1280 - s.en.direct),
        key := (drbgGenerate 1280 s.en.key s.en.vec).1, vec := (drbgGenerate 1280 s.en.key s.en.vec).2 } } ∧
      ∃ t, exec (.drbgGenerate true) s = .next t ∧ t.en = { s.en with
          mism := s.en.mism + 1, stuck := decide (3 ≤ s.en.mism + 1) } ∧
        State.reportsOnly { s with en := t.en } t ∧ t.reported (sourceId 6 2 5 0))

/-! ### Rings, FIFO, aborts -/

/-- A write that sets ENABLE of an idle ring tests its configuration: SIZE, then its windows. Where both pass, ENABLE, PHASE and the
four pointers take their values in the same write, and what reads of before still bring is not taken; where one fails, ENABLE stays 0
and CFG_ERR reports the cause. While requests are outstanding CFG_ERR reports 6 and the pointers stay. Clearing ENABLE keeps the
pointers (03 R115 to R117, R125). -/
def Obligations.RingsOpenAndClose : Prop :=
  ∀ (s : State) (i : Ident) (n : Tenant) (k : RingNo) (v : BitVec 32) (r : Ring), s.mayWrite i n false →
    r = { s.ring n k with size := v.extractLsb' 0 4, port := v.extractLsb' 24 2 } →
    ((s.ring n k).enable = false → (s.ring n k).outstanding = 0 → ∃ t, exec (.ringEnable i n k v) s = .next t ∧
      t = { s with rsp := 0, tenants := t.tenants, dbg := t.dbg, fab := { s.fab with bursts := t.fab.bursts } } ∧
      (∀ m : Tenant, m ≠ n → t.page m = s.page m) ∧
      (∀ j : RingNo, j ≠ k → t.ring n j = s.ring n j) ∧
      t.page n = { s.page n with rings := (t.page n).rings, abortMarks := (t.page n).abortMarks,
                                 abortResult := (t.page n).abortResult } ∧
      (r.size.toNat < 6 → t.ring n k = { r with cfgErr := 1 }) ∧
      (6 ≤ r.size.toNat → ringInWindows s n r = false → t.ring n k = { r with cfgErr := 2 }) ∧
      (6 ≤ r.size.toNat → ringInWindows s n r = true →
        t.ring n k = { r with enable := true, cfgErr := 0, sqHead := 0, sqTail := 0, cqHead := 0, cqTail := 0, phase := true,
                              held := [], marks := [], kept := false, stopped := false, lost := false, fetching := false } ∧
        ∀ b ∈ t.fab.bursts, ∀ x, b.kind = .desc n.val k.val x → b.dropped = true)) ∧
    ((s.ring n k).enable = false → (s.ring n k).outstanding ≠ 0 → ∃ t, exec (.ringEnable i n k v) s = .next t ∧
      t = { s with rsp := 0, tenants := t.tenants } ∧ (∀ m : Tenant, m ≠ n → t.page m = s.page m) ∧
      t.page n = { s.page n with rings := (t.page n).rings } ∧
      ∀ j : RingNo, t.ring n j = if j = k then { s.ring n k with cfgErr := 6 } else s.ring n j) ∧
    ((s.ring n k).enable = true → exec (.ringEnable i n k v) s = .next { s with rsp := 0 }) ∧
    (∃ t, exec (.ringDisable i n k v) s = .next t ∧
      t = { s with rsp := 0, tenants := t.tenants } ∧ (∀ m : Tenant, m ≠ n → t.page m = s.page m) ∧
      t.page n = { s.page n with rings := (t.page n).rings } ∧
      ∀ j : RingNo, t.ring n j = if j ≠ k then s.ring n j else
        if (s.ring n k).enable = false ∧ (s.ring n k).outstanding = 0 then r else { s.ring n k with enable := false })

/-- A doorbell or a completion-head write sets its index where the ring is enabled and the index is below the ring's size; an index
that is not sets IDX_ERR whether ENABLE is 0 or 1, and moves nothing. While the rings stay closed, or the block is quiesced,
doorbells are ignored (03 R118, R119; 15 R543, R552). -/
def Obligations.RingIndicesMove : Prop :=
  ∀ (s : State) (i : Ident) (n : Tenant) (k : RingNo) (v : BitVec 32), s.mayWrite i n false →
    (hushed s = true → exec (.doorbell i n k v) s = .next { s with rsp := 0 }) ∧
    (hushed s = false → ∃ t, exec (.doorbell i n k v) s = .next t ∧ t = { s with rsp := 0, tenants := t.tenants } ∧
      (∀ m : Tenant, m ≠ n → t.page m = s.page m) ∧ t.page n = { s.page n with rings := (t.page n).rings } ∧
      ∀ j : RingNo, t.ring n j = if j ≠ k then s.ring n j else
        if (s.ring n k).entries ≤ v.toNat % 65536 then { s.ring n k with idxErr := true } else
        if (s.ring n k).enable = true then { s.ring n k with sqTail := v.extractLsb' 0 16 } else s.ring n k) ∧
    (∃ t, exec (.completionHeadWrite i n k v) s = .next t ∧ t = { s with rsp := 0, tenants := t.tenants } ∧
      (∀ m : Tenant, m ≠ n → t.page m = s.page m) ∧ t.page n = { s.page n with rings := (t.page n).rings } ∧
      ∀ j : RingNo, t.ring n j = if j ≠ k then s.ring n j else
        if (s.ring n k).entries ≤ v.toNat % 65536 then { s.ring n k with idxErr := true } else
        if (s.ring n k).enable = true then { s.ring n k with cqHead := v.extractLsb' 0 16 } else s.ring n k)

/-- A FIFO data write adds 8 bytes to the item being written, and the last write of an item adds its own count and ends it, in the order
written, each wide word with its check symbols as it is formed; a write that finds no free wide word sets OVERFLOW and drops its item,
which is then discarded up to its last write; FLUSH empties all. Where the fill rises to LEVEL, LEVEL_HIT is set and COMPLETION asserted
(01 R27; 03 R144, R148 to R150). -/
def Obligations.FifoTakesItems : Prop :=
  ∀ (s : State) (i : Ident) (n : Tenant) (v : BitVec 64) (p : TenantPage), s.mayWrite i n false → p = s.page n →
    (p.fifoDrop = false → p.fifoPart.length % 64 ≠ 0 ∨ p.fill < 32 →
      (∃ t, exec (.fifoData i n v) s = .next t ∧ t = { s with rsp := 0, tenants := t.tenants } ∧
        (∀ m : Tenant, m ≠ n → t.page m = s.page m) ∧
        t.page n = { p with fifoPart := p.fifoPart ++ leBytes 8 v.toNat, levelHit := (t.page n).levelHit,
                            fifoPartSym := formedSym p.fifoPart p.fifoPartSym (leBytes 8 v.toNat) false,
                            intStatus := (t.page n).intStatus } ∧
        (1 ≤ p.fifoLevel.toNat → p.fifoLevel.toNat ≤ 32 → p.fill + 1 = p.fifoLevel.toNat → (t.page n).fill = p.fifoLevel.toNat →
          (t.page n).levelHit = true ∧ (t.page n).intStatus = p.intStatus ||| 1) ∧
        (p.fill + 1 ≠ p.fifoLevel.toNat ∨ (t.page n).fill ≠ p.fifoLevel.toNat →
          (t.page n).levelHit = p.levelHit ∧ (t.page n).intStatus = p.intStatus)) ∧
      ∀ c : Fin 8, ∃ t, exec (.fifoLast i n c v) s = .next t ∧ t = { s with rsp := 0, tenants := t.tenants } ∧
        (∀ m : Tenant, m ≠ n → t.page m = s.page m) ∧
        t.page n = { p with fifoItems := p.fifoItems ++ [p.fifoPart ++ leBytes (c.val + 1) v.toNat], fifoPart := [],
                            fifoPartSym := [],
                            fifoSym := p.fifoSym ++ [formedSym p.fifoPart p.fifoPartSym (leBytes (c.val + 1) v.toNat) true],
                            levelHit := (t.page n).levelHit, intStatus := (t.page n).intStatus }) ∧
    (p.fifoDrop = false → p.fifoPart.length % 64 = 0 → 32 ≤ p.fill →
      (∃ t, exec (.fifoData i n v) s = .next t ∧ t.page n = { p with overflow := true, fifoPart := [], fifoPartSym := [], fifoDrop := true }) ∧
      ∀ c : Fin 8, ∃ t, exec (.fifoLast i n c v) s = .next t ∧ t.page n = { p with overflow := true, fifoPart := [], fifoPartSym := [] }) ∧
    (p.fifoDrop = true → exec (.fifoData i n v) s = .next { s with rsp := 0 } ∧
      ∀ c : Fin 8, ∃ t, exec (.fifoLast i n c v) s = .next t ∧ t = { s with rsp := 0, tenants := t.tenants } ∧
        t.page n = { p with fifoDrop := false }) ∧
    (∀ w : BitVec 32, ∃ t, exec (.flush i n w) s = .next t ∧ t = { s with rsp := 0, tenants := t.tenants } ∧
      (∀ m : Tenant, m ≠ n → t.page m = s.page m) ∧
      t.page n = { p with fifoItems := [], fifoSym := [], fifoPart := [], fifoPartSym := [], fifoDrop := false, fifoLevel := w.extractLsb' 0 6 })

/-- An abort names one index of a ring pair or all: the published descriptors named are marked, and every admitted request named
stops at the boundary of its write, unless its last piece has ended or it stops already; an abort that finds nothing says so, and one
under way takes no other. No other request is touched (03 R159 to R161, R163). -/
def Obligations.AbortNamesRequests : Prop :=
  ∀ (s : State) (i : Ident) (n : Tenant) (v : BitVec 32) (c : Cycle) (k : RingNo) (named : Request → Prop), s.mayWrite i n false →
    k = ringFin (fieldNat v 16 2) →
    (∀ r, named r ↔ r.tenant = n.val ∧ r.ring = k.val ∧ (v.getLsbD 31 = true ∨ r.index = v.extractLsb' 0 16)) →
    ((s.page n).abortResult = 1 → exec (.abort i n v c) s = .next { s with rsp := 0 }) ∧
    ((s.page n).abortResult ≠ 1 → (∀ r ∈ s.reqs, ¬ named r) →
      (∀ e ∈ s.ended, e.admitted = true → e.tenant = n.val → e.ring = k.val → v.getLsbD 31 = false ∧ e.index ≠ v.extractLsb' 0 16) →
      (∀ j ∈ (s.ring n k).publishedIdx, v.getLsbD 31 = false ∧ j ≠ v.extractLsb' 0 16) →
      ∃ t, exec (.abort i n v c) s = .next t ∧ t = { s with rsp := 0, tenants := t.tenants } ∧
        (∀ m : Tenant, m ≠ n → t.page m = s.page m) ∧ t.page n = { s.page n with abortResult := 2, abortCount := 0 }) ∧
    ((s.page n).abortResult ≠ 1 → (∀ r ∈ s.reqs, ¬ named r) →
      (∃ e ∈ s.ended, e.admitted = true ∧ e.tenant = n.val ∧ e.ring = k.val ∧ (v.getLsbD 31 = true ∨ e.index = v.extractLsb' 0 16)) ∨
        (∃ j ∈ (s.ring n k).publishedIdx, v.getLsbD 31 = true ∨ j = v.extractLsb' 0 16) →
      ∃ t, exec (.abort i n v c) s = .next t ∧ t = { s with rsp := 0, tenants := t.tenants } ∧
        (∀ m : Tenant, m ≠ n → t.page m = s.page m) ∧ (t.page n).abortResult = 1 ∧ (t.page n).abortCount = 0 ∧
        (∀ j ∈ (s.ring n k).publishedIdx, v.getLsbD 31 = true ∨ j = v.extractLsb' 0 16 → j ∈ (t.ring n k).marks) ∧
        (∀ e ∈ s.ended, e.admitted = true → e.tenant = n.val → e.ring = k.val →
          v.getLsbD 31 = true ∨ e.index = v.extractLsb' 0 16 → e.rid ∈ (t.page n).abortReqs)) ∧
    (∀ x ∈ s.reqs, (s.page n).abortResult ≠ 1 → named x → ∃ t, exec (.abort i n v c) s = .next t ∧
        t = { s with rsp := 0, tenants := t.tenants, reqs := t.reqs } ∧ (∀ m : Tenant, m ≠ n → t.page m = s.page m) ∧
        (t.page n).abortResult = 1 ∧ (t.page n).abortCount = 0 ∧ x.rid ∈ (t.page n).abortReqs ∧
        (∀ j ∈ (s.ring n k).publishedIdx, v.getLsbD 31 = true ∨ j = v.extractLsb' 0 16 → j ∈ (t.ring n k).marks) ∧
        (pastAbort (abortedByReset s x) x = false → x.stopAt = none → { x with stopAt := some (stopBoundary s c) } ∈ t.reqs) ∧
        (pastAbort (abortedByReset s x) x = true ∨ x.stopAt.isSome = true → x ∈ t.reqs) ∧ (∀ r ∈ s.reqs, ¬ named r → r ∈ t.reqs))

/-! ### Key custody -/

/-- Key entry of an OFFICER: START opens a session where the root is READY, none is open and its operands allow it; COMPONENT and
FINISH hand the data registers, which are zeroised, to the unit, whose result the comparison ends: a component of a new identity with
the right KCV is kept, result 1, a wrong KCV is result 4, and the same identity 6; FINISH with all components and the right KCV queues
the record's commit, and a wrong one empties the session. CANCEL ends it with 9, and 2^28 ticks without an accepted write with 8; both
leave its handle vacant (09 R391, R392; 13 R501). -/
def Obligations.KeyEntrySessions : Prop :=
  (∀ (s : State) (i : Ident) (n : Tenant) (v : BitVec 64), s.mayWrite i n true → keWorks s = true → s.pwr.keHeld = false →
      (s.page n).ke.heldOps = [] → (s.page n).ke.job = none → keCommitting s n = false →
      ((s.page n).ke.session = none → rootHere s = true → fieldNat v 26 2 = 2 ∨ fieldNat v 26 2 = 3 →
        (templateOf s n.val (keHandle v)).any Template.clear = true →
        (v.getLsbD 25 = false → isVacant s n.val (keHandle v) = true) →
        (v.getLsbD 25 = true → isOccupied s n.val (keHandle v) = true ∧ mayReplace s = true) → ∃ t,
          exec (.start i n v) s = .next t ∧ t = { s with rsp := 0, tenants := t.tenants, ks := t.ks } ∧
          (∀ m : Tenant, m ≠ n → t.page m = s.page m) ∧ t.page n = { s.page n with ke := (t.page n).ke } ∧
          (t.page n).ke.session = some { ncomp := fieldNat v 26 2, replace := v.getLsbD 25, comps := [], compSym := [], idents := [],
                                         handle := BitVec.ofNat 20 (keHandle v), lastTick := s.now } ∧
          (t.page n).ke.state = 1 ∧ (n.val, BitVec.ofNat 20 (keHandle v)) ∈ t.ks.pendingH) ∧
      ((s.page n).ke.session.isSome = true → ∃ t, exec (.start i n v) s = .next t ∧ (t.page n).ke.result = 7 ∧ t.ks = s.ks) ∧
      (∃ t, exec (.component i n v) s = .next t ∧ t = { s with rsp := 0, tenants := t.tenants } ∧
        (∀ m : Tenant, m ≠ n → t.page m = s.page m) ∧ t.page n = { s.page n with ke := (t.page n).ke } ∧
        (t.page n).ke.job = some (keJobOf i n (withOp 2 v) s) ∧ (t.page n).ke.data = Vector.replicate 8 0 ∧ (t.page n).ke.state = 2) ∧
      (∃ t, exec (.finish i n v) s = .next t ∧ t = { s with rsp := 0, tenants := t.tenants } ∧
        (∀ m : Tenant, m ≠ n → t.page m = s.page m) ∧ t.page n = { s.page n with ke := (t.page n).ke } ∧
        (t.page n).ke.job = some (keJobOf i n (withOp 3 v) s) ∧ (t.page n).ke.data = Vector.replicate 8 0 ∧ (t.page n).ke.state = 2)) ∧
  (∀ (s : State) (i : Ident) (n : Tenant) (v : BitVec 64) (x : KeSession), s.mayWrite i n true → (s.page n).ke.session = some x →
      ∃ t, exec (.cancel i n v) s = .next t ∧ t = { s with rsp := 0, tenants := t.tenants, ks := t.ks } ∧
        (∀ m : Tenant, m ≠ n → t.page m = s.page m) ∧ (t.page n).ke.session = none ∧ (t.page n).ke.result = 9 ∧
        t.ks = { s.ks with pendingH := s.ks.pendingH.filter fun p => ¬ p = (n.val, x.handle) }) ∧
  (∀ (s : State) (n : Tenant) (x : KeSession), (s.page n).ke.session = some x → (s.page n).ke.job = none →
      (s.page n).ke.heldOps = [] → x.lastTick + 268435456 ≤ s.now → ∃ t, exec (.keSessionTimeout n) s = .next t ∧
        t = { s with tenants := t.tenants, ks := t.ks } ∧ (∀ m : Tenant, m ≠ n → t.page m = s.page m) ∧
        (t.page n).ke.session = none ∧ (t.page n).ke.result = 8 ∧
        t.ks = { s.ks with pendingH := s.ks.pendingH.filter fun p => ¬ p = (n.val, x.handle) }) ∧
  (∀ (s : State) (n : Tenant) (x : KeSession) (j : KeJob) (p : Template), (s.page n).ke.session = some x →
      (s.page n).ke.job = some j → (s.page n).ke.heldOps = [] → keWorks s = true → templateOf s n.val x.handle.toNat = some p →
      (j.op = 2 → x.comps.length < x.ncomp → templateBytes s p.alg.toNat p.size ≤ 64 → ∃ t,
        exec (.keCompareResult n) s = .next t ∧ t = { s with tenants := t.tenants } ∧ (∀ m : Tenant, m ≠ n → t.page m = s.page m) ∧
        (t.page n).ke.job = none ∧
        (j.mixed = true ∨ j.ident ∈ x.idents → (t.page n).ke.session = some x ∧ (t.page n).ke.result = 6) ∧
        (j.mixed = false → j.ident ∉ x.idents →
          kcvBits (keyKcv p.alg.toNat (keyForm p.alg.toNat (componentBytes s j (templateBytes s p.alg.toNat p.size))) []) = j.kcv →
          (t.page n).ke.result = 1 ∧ (t.page n).ke.session =
            some { x with comps := x.comps ++ [componentBytes s j (templateBytes s p.alg.toNat p.size)],
                          compSym := x.compSym ++ [symbolsOf (componentBytes s j (templateBytes s p.alg.toNat p.size))],
                          idents := x.idents ++ [j.ident] }) ∧
        (j.mixed = false → j.ident ∉ x.idents →
          kcvBits (keyKcv p.alg.toNat (keyForm p.alg.toNat (componentBytes s j (templateBytes s p.alg.toNat p.size))) []) ≠ j.kcv →
          (t.page n).ke.result = 4 ∧ (t.page n).ke.session = some x)) ∧
      (∀ value : Bytes, j.op = 3 → x.ncomp ≤ x.comps.length →
        value = keyForm p.alg.toNat (x.components.foldl xorBytes (fillBytes (templateBytes s p.alg.toNat p.size) 0)) →
        (kcvBits (keyKcv p.alg.toNat value []) = j.kcv → (recordNo s n.val x.handle.toNat).isSome = true → ∃ t c,
          exec (.keCompareResult n) s = .next t ∧ t = { s with tenants := t.tenants, ks := { s.ks with commits := s.ks.commits ++ [c] } } ∧
          (t.page n).ke.session = none ∧ c.ke = true ∧ c.rid = none ∧ c.record.value = value ∧ c.record.handle = x.handle) ∧
        (kcvBits (keyKcv p.alg.toNat value []) ≠ j.kcv → ∃ t, exec (.keCompareResult n) s = .next t ∧
          t = { s with tenants := t.tenants } ∧ (t.page n).ke.result = 4 ∧
          (t.page n).ke.session = some { x with comps := [], compSym := [], idents := [] })))

/-- INVALIDATE of a handle that may be named takes it from the next boundary on and counts it: a record's tomb is queued for its
commit, a received key leaves nothing to write, and a node enters the list at once, result 3; the entry waits while the NVM takes no
program or the Custody processor restarts. One that may not be named gets 5, one for which the list has no room 11, and without the
root it is 12; nothing changes in custody then (09 R399, Table 09-7; 13 R506; 01 R47; log entry 94). -/
def Obligations.InvalidationTakesHandles : Prop :=
  ∀ (s : State) (i : Ident) (n : Tenant) (v : BitVec 64) (h : Nat), s.mayWrite i n true → keWorks s = true → s.pwr.keHeld = false →
    (s.page n).ke.heldOps = [] → h = keHandle v →
    (rootHere s = false → ∃ t, exec (.invalidate i n v) s = .next t ∧
      t = { s with rsp := 0, tenants := t.tenants } ∧ (t.page n).ke.result = 12) ∧
    (rootHere s = true → mayInvalidate s n h = false → ∃ t, exec (.invalidate i n v) s = .next t ∧
      t = { s with rsp := 0, tenants := t.tenants } ∧ (t.page n).ke.result = 5) ∧
    (rootHere s = true → mayInvalidate s n h = true → isRecordHandle h = false → 65536 ≤ s.store.inval.length →
      ∃ t, exec (.invalidate i n v) s = .next t ∧ t = { s with rsp := 0, tenants := t.tenants } ∧ (t.page n).ke.result = 11) ∧
    (rootHere s = true → mayInvalidate s n h = true → isRecordHandle h = true ∨ s.store.inval.length < 65536 →
      ∃ t, exec (.invalidate i n v) s = .next t ∧
      t = { s with rsp := 0, tenants := t.tenants, ks := t.ks, nvm := t.nvm } ∧ (∀ m : Tenant, m ≠ n → t.page m = s.page m) ∧
      (n.val, BitVec.ofNat 20 h) ∈ t.ks.invalNext ∧ t.ks.inval = min 0xFFFF (s.ks.inval + 1) ∧
      t.ks = { s.ks with invalNext := t.ks.invalNext, inval := t.ks.inval, commits := t.ks.commits } ∧
      (∀ r, isRecordHandle h = true → recordOf s n.val h = some r → t.nvm = s.nvm ∧
        ∃ c, t.ks.commits = s.ks.commits ++ [c] ∧ c.ke = true ∧ c.record = { r with tomb := true, value := [], pub := [] }) ∧
      (isRecordHandle h = true → recordOf s n.val h = none →
        t.nvm = s.nvm ∧ t.ks.commits = s.ks.commits ∧ (t.page n).ke.result = 3) ∧
      (∀ x nd, isRecordHandle h = false → s.pwr.nvmLow = false → procWorks s 0 = true → nodeOf s n.val h = some (x, nd) →
        t.ks.commits = s.ks.commits ∧ (x, labelDigest nd) ∈ t.store.inval ∧ (t.page n).ke.result = 3) ∧
      (isRecordHandle h = false → s.pwr.nvmLow = true ∨ procWorks s 0 = false →
        t.nvm = s.nvm ∧ t.ks.commits = s.ks.commits ∧ ∃ j, j.op = 6 ∧ keHandle j.value = h ∧
          ((t.page n).ke.job = some j ∨ j ∈ (t.page n).ke.heldOps)))

/-- A record write that is read back good stands in the store with the next sequence and the generation in force, its sequence noted in
the always-on domain, and the write leaves the queue, key entry hearing 2 or for a tomb 3; a failed one is tried again, up to three times,
and then fails with result 10 (09 R387, R391, R399). A replacement first leaves the old record in force and its verified shadow in the
journal, and its next write puts the shadow in the store and clears the journal (09 R392). A mark within 2^19 of its counter moves 2^20
on, in NVM too (04 R191). A write whose IV is refused, the service EXHAUSTED and the buffer too low, ends with result 10, or its request with
`NO_ENTROPY` (10 R426; the result is the model's choice, log entry 118). -/
def Obligations.RecordWritesEnd : Prop :=
  (∀ (s : State) (c : Commit) (l : List Commit), custodyWrites s = true → keWorks s = true → rootHere s = true →
      (s.en.state = 3 ∧ 12 ≤ s.en.fill) ∨ 32768 ≤ s.en.fill → s.ks.commits = c :: l → c.replace = false → s.store.heapUsed + recordSize c.record ≤ heapBytes s →
      (∃ t, exec (.keyStoreCommit true) s = .next t ∧ t.fixed = s.fixed ∧ t.ks.commits = l ∧ t.ks.seq = s.ks.seq + 1 ∧
        t.aon = { s.aon with storeCounter := s.ks.seq + 1 } ∧ t.en.fill + 12 ≤ s.en.fill ∧
        (∃ r ∈ t.store.recs, indexGood r = true ∧
          r = { c.record with seq := s.ks.seq + 1, gen := s.ks.gen, iv := r.iv, off := r.off, hash := r.hash, crc := r.crc }) ∧
        (∀ r ∈ s.store.recs, r.recno ≠ c.record.recno → r ∈ t.store.recs) ∧
        (c.ke = true → (t.page (tenantFin c.record.tenant)).ke.result = if c.record.tomb then 3 else 2)) ∧
      (c.tries < 3 → ∃ t, exec (.keyStoreCommit false) s = .next t ∧
        t = { s with nvm := t.nvm, ks := { s.ks with commits := { c with tries := c.tries + 1 } :: l } } ∧
        t.nvm.errors = min 0xFFFF (s.nvm.errors + 1) ∧ t.store.recs = s.store.recs) ∧
      (3 ≤ c.tries → c.ke = true → c.rid = none → ∃ t, exec (.keyStoreCommit false) s = .next t ∧ t.fixed = s.fixed ∧
        t.ks.commits = l ∧ t.ks.seq = s.ks.seq ∧ t.store.recs = s.store.recs ∧
        (t.page (tenantFin c.record.tenant)).ke.result = 10)) ∧
  (∀ (s : State) (c : Commit) (l : List Commit) (good : Bool), custodyWrites s = true → keWorks s = true → rootHere s = true →
      s.en.state = 3 → s.en.fill < 12 → s.ks.commits = c :: l → c.replace = false → ∃ t, exec (.keyStoreCommit good) s = .next t ∧
        t.fixed = s.fixed ∧ t.nvm = s.nvm ∧ t.ks.commits = l ∧ t.ks.seq = s.ks.seq ∧
        t.en = { s.en with noentIv := min 0xFFFF (s.en.noentIv + 1) } ∧
        (c.ke = true → (t.page (tenantFin c.record.tenant)).ke.result = 10) ∧
        (∀ rid r, c.rid = some rid → s.req? rid = some r →
          (∃ e ∈ t.ended, e.rid = rid ∧ e.status = 0x30 ∧ e.due = s.now) ∨
          (∃ q, t.req? rid = some q ∧ q.stage = .draining ∧ q.final = 0x30))) ∧
  (∀ (s : State) (c : Commit) (l : List Commit), custodyWrites s = true → keWorks s = true → rootHere s = true →
      s.ks.commits = c :: l → c.replace = true →
      (s.nvm.journal = none → (s.en.state = 3 ∧ 12 ≤ s.en.fill) ∨ 32768 ≤ s.en.fill → s.store.heapUsed + recordSize c.record ≤ heapBytes s →
        ∃ t r j, exec (.keyStoreCommit true) s = .next t ∧ t.nvm.journal0 = some j ∧ t.nvm.journal1 = some j ∧
          j.recno = c.record.recno ∧ j.newOff = s.store.heapUsed / 64 ∧ j.seq = s.ks.seq + 1 ∧ r ∈ t.store.shadows ∧
          r = { c.record with seq := s.ks.seq + 1, gen := s.ks.gen, iv := r.iv, hash := r.hash, off := s.store.heapUsed / 64 } ∧
          t.store.recs = s.store.recs ∧ t = { s with en := t.en, drawn := t.drawn, nvm := t.nvm }) ∧
      (∀ j r, s.nvm.journal = some j → s.store.shadow j = some r →
        (∃ t, exec (.keyStoreCommit true) s = .next t ∧ t.fixed = s.fixed ∧ t.ks.commits = l ∧ t.nvm.journal = none ∧
          t.ks.seq = r.seq ∧ t.aon = { s.aon with storeCounter := r.seq } ∧ { r with crc := indexCrc r } ∈ t.store.recs ∧
          (∀ x ∈ s.store.recs, x.recno ≠ r.recno → x ∈ t.store.recs)) ∧
        (exec (.keyStoreCommit false) s =
          .next { s with nvm := { s.nvm with errors := min 0xFFFF (s.nvm.errors + 1) } }))) ∧
  (∀ (s : State) (n : Tenant) (h : Handle) (v : IvCtr), custodyWrites s = true → ivOf s n.val h.toNat = some v →
      (v.mark ≤ v.c + 524288 → v.tenant = n.val → ∃ t, exec (.ivMarkWrite n h) s = .next t ∧
        t = { s with ks := { s.ks with ivs := t.ks.ivs }, nvm := { s.nvm with marks0 := t.nvm.marks0, marks1 := t.nvm.marks1 } } ∧
        ivOf t n.val h.toNat = some { v with mark := v.mark + 1048576 } ∧ markBase t n.val v.handle = markBase s n.val v.handle + 1) ∧
      (v.c + 524288 < v.mark → exec (.ivMarkWrite n h) s = .next s))

/-- Keys that a request missed come into the cache pinned for it, derived for a through platform, or for freight derived or read
from the store, from the tick after its admission, once derivation entries have run their levels; what is not due stays awaited, and
only the pool can lack room, so that a due key is still awaited. A slot that an uncorrectable word took is made again, and with it the
system partition (09 R382 to R384, Table 09-7; 12 Table 12-7; log entry 95). -/
def Obligations.MissesComeIn : Prop :=
  (∀ (s : State) (rid : Nat) (r : Request), s.req? rid = some r → r.admitTick < s.now → keWorks s = true → rootHere s = true →
      (r.rate ≠ .freight → ∃ t q, exec (.missDerivation rid) s = .next t ∧ t = { s with ks := t.ks, reqs := t.reqs } ∧
        t.req? rid = some q ∧ q = { r with misses := q.misses, missRun := q.missRun } ∧ (∀ h ∈ q.misses, h ∈ r.misses) ∧
        (∀ h ∈ r.misses, h ∉ dueMisses s r → h ∈ q.misses) ∧
        (∀ h ∈ r.misses, h ∉ q.misses → ∃ c ∈ t.ks.cache, c.tenant = r.tenant ∧ c.handle = h ∧ rid ∈ c.pins) ∧
        (r.rate = .inRate → ∀ h ∈ dueMisses s r, (nodeOf s r.tenant h.toNat).isSome = true → h ∉ q.misses)) ∧
      (r.rate = .freight → procWorks s 0 = true →
        (∀ h ∈ r.misses, ∀ x, recordOf s r.tenant h.toNat = some x → recordGood s x = true) → ∃ t q,
          exec (.freightKeyLoad rid) s = .next t ∧ t = { s with ks := t.ks, reqs := t.reqs } ∧ t.req? rid = some q ∧
          q = { r with misses := q.misses, missRun := q.missRun } ∧ (∀ h ∈ q.misses, h ∈ r.misses) ∧
          (∀ h ∈ r.misses, h ∉ dueMisses s r → h ∈ q.misses) ∧
          (∀ h ∈ r.misses, h ∉ q.misses → ∃ c ∈ t.ks.cache, c.tenant = r.tenant ∧ c.handle = h ∧ rid ∈ c.pins))) ∧
  (∀ (s : State) (n : Tenant) (h : Handle), (n.val, h) ∈ s.ks.lost → rootHere s = true → procWorks s 0 = true →
      isRestarting s 6 = false → s.locked = false →
      (∀ x, recordOf s n.val h.toNat = some x → recordGood (loadSystem s) x = true) → ∃ t,
        exec (.cacheSlotReload n h) s = .next t ∧ t = { s with ks := t.ks } ∧
        t.ks = { s.ks with cache := t.ks.cache, lost := s.ks.lost.filter (· ≠ (n.val, h)), system := systemKeys s.ks } ∧
        (∀ x, isRecordHandle h.toNat = true → recordOf s n.val h.toNat = some x → recordSlot x .resident (s.now + 1) ∈ t.ks.cache) ∧
        (∀ x nd, isRecordHandle h.toNat = false → nodeOf s n.val h.toNat = some (x, nd) →
          nodeSlot (loadSystem s) x nd .resident 0 (s.now + 1) ∈ t.ks.cache))

/-- The storage-key rotation: request 0x0203 starts it with the other area empty, while the root is READY and none runs; each block copied
is wrapped under the next generation into the other area only, and checkpointed, once derivation entries have run its wraps; one that does
not read back, which is a free value, is done again. Once all stand there, the pointer's copies are written one after the other: after
both the old area is no longer in force, and the request is answered. Request 0x0204 reroots a lost or stale root: a new BBK, an empty
store of generation 1, READY (09 R402, R404, R405; log entries 43, 93 and 98). -/
def Obligations.StorageKeyRotates : Prop :=
  (∀ (s : State) (m : Msg), s.requestIs 0x0203 m → m.payload = 0 → m.paylen = 0 → allZero m.params = true →
      (s.ks.rot = 0 → rootHere s = true → ∃ t, exec .storageKeyRotation s = .next t ∧
        t = { s with mgmt := t.mgmt, ks := t.ks, nvm := t.nvm } ∧ t.answered m.box 0x0203 m.seq 1 ∧ t.ks.rot = 1 ∧
        t.ks.rotBlock = 0 ∧ t.ks.rotSeq = some (BitVec.ofNat 16 m.seq) ∧ t.store = s.store ∧ t.otherStore = StoreArea.reset ∧
        t.nvm.rotCkpt = none) ∧
      (s.ks.rot ≠ 0 → ∃ t, exec .storageKeyRotation s = .next t ∧ t = { s with mgmt := t.mgmt } ∧ t.answered m.box 0x0203 m.seq 0x83) ∧
      (s.ks.rot = 0 → rootHere s = false → ∃ t, exec .storageKeyRotation s = .next t ∧ t = { s with mgmt := t.mgmt } ∧
        t.answered m.box 0x0203 m.seq 0x85)) ∧
  (∀ s : State, s.ks.rot = 1 → s.ks.rotBlock ≤ 255 → rotNeed s ≤ s.ks.rotLevels → rootHere s = true → custodyWrites s = true →
      keWorks s = true →
      ∃ t, exec .rotationBlockCopy s = .next t ∧ t = { s with ks := t.ks, nvm := t.nvm, en := t.en, drawn := t.drawn } ∧
        t.store = s.store ∧
        t.ks = (if Config.readsBack s.drawn = true then
          { s.ks with rotHash := t.ks.rotHash, rotLevels := 0, ckpt := s.ks.rotBlock, rotBlock := s.ks.rotBlock + 1,
                      rot := if s.ks.rotBlock = 255 then 2 else 1 } else { s.ks with rotLevels := 0 }) ∧
        t.nvm.rotCkpt = (if Config.readsBack s.drawn = true then some (s.ks.rotBlock, t.ks.rotHash, s.ks.seq) else s.nvm.rotCkpt) ∧
        t.nvm.errors = (if Config.readsBack s.drawn = true then s.nvm.errors else min 0xFFFF (s.nvm.errors + 1)) ∧
        (∀ x ∈ s.store.recs, x.recno / 4096 = s.ks.rotBlock → x.tomb = false → indexGood x = true →
          ∃ y ∈ t.otherStore.recs, y.recno = x.recno) ∧
        (∀ y ∈ t.otherStore.recs, y ∈ s.otherStore.recs ∨ ∃ x ∈ s.store.recs, x.recno / 4096 = s.ks.rotBlock ∧ x.tomb = false ∧
          y = { x with gen := s.ks.gen + 1, iv := y.iv, off := y.off, hash := y.hash, crc := y.crc })) ∧
  (∀ (s : State) (q : BitVec 16), s.ks.rot = 2 → rootHere s = true → s.ks.rotSeq = some q → custodyWrites s = true →
      keWorks s = true → rotationVerified s = true →
      (s.nvm.ksPtr0 = nextPointer s → ∃ t, exec .pointerFlip s = .next t ∧
        t = { s with ks := t.ks, nvm := t.nvm, mgmt := t.mgmt } ∧ t.answered none 0x0203 q.toNat 0 ∧
        t.mgmt.intStatus.getLsbD 15 = true ∧ t.store = { s.otherStore with inval := s.store.inval } ∧
        t.otherStore = s.store ∧ t.ks.rot = 0 ∧ t.ks.gen = s.ks.gen + 1 ∧ t.ks.area = !s.nvm.ksArea ∧
        t.nvm.ksPtr0 = nextPointer s ∧ t.nvm.ksPtr1 = nextPointer s) ∧
      (s.nvm.ksPtr0 ≠ nextPointer s → ∃ t, exec .pointerFlip s = .next t ∧ t = { s with nvm := t.nvm } ∧ t.store = s.store ∧
        t.otherStore = { s.otherStore with inval := s.store.inval } ∧ t.nvm.ksPtr0 = nextPointer s ∧ t.nvm.ksPtr1 = s.nvm.ksPtr1)) ∧
  (∀ (s : State) (m : Msg), s.requestIs 0x0204 m → m.payload = 0 → m.paylen = 0 → allZero m.params = true →
      (2 ≤ s.ks.root.toNat → s.lc.state ≠ 6 → s.en.state ≠ 3 → rerootReady s = true → custodyWrites s = true → ∃ t b,
        exec .reroot s = .next t ∧ t.fixed = { s.fixed with bbk := some b } ∧ b.length = 32 ∧ t.answered m.box 0x0204 m.seq 0 ∧
        t.ks.root = 1 ∧ t.ks.gen = 1 ∧ t.ks.seq = 0 ∧ t.store = StoreArea.reset ∧ t.otherStore = StoreArea.reset ∧
        t.aon.rootClr = false ∧ t.aon.storeCounter = 0 ∧ t.mgmt.intStatus.getLsbD 15 = true) ∧
      (s.ks.root.toNat < 2 ∨ s.lc.state = 6 ∨ s.en.state = 3 → ∃ t, exec .reroot s = .next t ∧ t = { s with mgmt := t.mgmt } ∧
        t.answered m.box 0x0204 m.seq 0x85))

/-! ### Mailboxes, the management lock, tenant resets -/

/-- A SEND fills an empty outbound mailbox with the sender's stamp, and sets REFUSED on a full one (a tenant's is ignored while the rings
stay closed or the block is quiesced); an ACK empties an inbound one. A reply that waits is delivered when its mailbox is empty, with the
Registrar's stamp; the final one answers the request. An unknown request gets 0x80, one through the wrong mailbox 0x81. No other mailbox
changes (11 R441 to R444, R448, R449; 15 R543, R552). -/
def Obligations.MailboxesCarryMessages : Prop :=
  (∀ (s : State) (b : Box) (i : Ident) (v : BitVec 32), (∀ n, b = some n → s.mayWrite i n true) → (b = none → s.mayManage i) →
      v.getLsbD 0 = true →
      (b.isSome = true → hushed s = false) → ∃ t, exec (.send i b v) s = .next t ∧
        t = { s with rsp := 0, tenants := t.tenants, mgmt := t.mgmt } ∧ (∀ c, t.mbi c = s.mbi c) ∧
        (∀ c, t.mbo c = if c ≠ b then s.mbo c else if (s.mbo b).full = true then { s.mbo b with refused := true } else
          { s.mbo b with full := true, stampTenant := BitVec.ofNat 8 (s.tenantOf i).val, stampRole := BitVec.ofNat 8 (s.roleOf i),
                         stampIdent := i, stampTick := s.tick.truncate 32, sendTick := s.now })) ∧
  (∀ (s : State) (n : Tenant) (i : Ident) (v : BitVec 32), s.mayWrite i n true → hushed s = true →
      exec (.send i (some n) v) s = .next { s with rsp := 0 }) ∧
  (∀ (s : State) (b : Box) (i : Ident) (v : BitVec 32), (∀ n, b = some n → s.mayWrite i n true) → (b = none → s.mayManage i) →
      v.getLsbD 0 = true → ∃ t, exec (.ack i b v) s = .next t ∧ t = { s with rsp := 0, tenants := t.tenants, mgmt := t.mgmt } ∧
        (∀ c, t.mbo c = s.mbo c) ∧ (∀ c, t.mbi c = if c = b then { s.mbi b with full := false } else s.mbi c)) ∧
  (∀ (s : State) (r : Reply), procWorks s 2 = true → s.mgmt.replies.find? (fun r => !(s.mbi r.box).full) = some r → ∃ t,
      exec .mailboxDelivery s = .next t ∧ t = { s with tenants := t.tenants, mgmt := t.mgmt } ∧
      t.mgmt.replies = s.mgmt.replies.erase r ∧ (t.mbi r.box).full = true ∧ (t.mbi r.box).data = bytesToWords r.bytes ∧
      (∀ c, c ≠ r.box → t.mbi c = s.mbi c ∧ t.mbo c = s.mbo c) ∧
      t.mbo r.box = { s.mbo r.box with unanswered := (s.mbo r.box).unanswered && !r.final }) ∧
  (∀ (s : State) (m : Msg), nextMessage s = some m → rightBox m = false → m.busy = false → conditionRefuses s m = false → ∃ t,
      exec .unknownRequestCode s = .next t ∧ t = { s with tenants := t.tenants, mgmt := t.mgmt } ∧
      t.answered m.box m.code m.seq (if m.code ∈ tenantCodes ++ mgmtCodes then 0x81 else 0x80) ∧
      t.mbo m.box = { s.mbo m.box with full := false, emptied := true, unanswered := true })

/-- A read of TRH_MGMT_LOCK by a HOST_ADMIN acquires a free lock or renews its own, with the lease restarted, and else reports the holder;
a control processor acquires in the same way and receives the same answer. Only the holder's write of its identity, or the processor
itself, frees the lock, and so does the lease that reaches 0, counted and asserted. Of those that ask for a free lock in one cycle, the
port and the processors, the first from requester TRH_TICK mod 4 on holds it, and every other, the port or a processor, is told who (11
R450 to R452, R454). -/
def Obligations.LockIsHeldByOne : Prop :=
  (∀ (s : State) (i : Ident), s.portOpen → s.roleOf i = 3 →
      (s.mgmt.held = false ∨ (s.mgmt.src = false ∧ s.mgmt.holder = i) → ∃ w, exec (.lockAcquire i) s =
        .next { s with rsp := w, mgmt := { s.mgmt with held := true, src := false, holder := i, remain := max 256 s.mgmt.lease.toNat } } ∧
        w.extractLsb' 30 2 = 1#2 ∧ w.extractLsb' 0 12 = i) ∧
      (s.mgmt.held = true → s.mgmt.src = true ∨ s.mgmt.holder ≠ i → ∃ w, exec (.lockAcquire i) s = .next { s with rsp := w } ∧
        w.extractLsb' 30 2 = 2#2 ∧ w.extractLsb' 0 12 = s.mgmt.holder ∧ w.getLsbD 12 = s.mgmt.src) ∧
      (∀ v : BitVec 32, exec (.lockRelease i v) s = .next
        (if s.mgmt.held = true ∧ s.mgmt.src = false ∧ s.mgmt.holder = i ∧ v.extractLsb' 0 12 = i then
          { s with rsp := 0, mgmt := { s.mgmt with held := false, src := false, holder := 0, remain := 0 } } else { s with rsp := 0 }))) ∧
  (∀ (s : State) (p : Fin 3),
      (∃ w, exec (.processorLockRequest p ⟨false, [], none⟩) s = .next
        (if s.mgmt.held = false ∨ (s.mgmt.src = true ∧ s.mgmt.holder = procIdent p) then
          { s with mgmt := { s.mgmt with held := true, src := true, holder := procIdent p, remain := max 256 s.mgmt.lease.toNat },
                   procs := s.procs.set p { s.procs[p] with lockAns := w } }
        else { s with procs := s.procs.set p { s.procs[p] with lockAns := w } }) ∧
        (s.mgmt.held = false ∨ (s.mgmt.src = true ∧ s.mgmt.holder = procIdent p) →
          w.extractLsb' 30 2 = 1#2 ∧ w.extractLsb' 0 12 = procIdent p ∧ w.getLsbD 12 = true) ∧
        (s.mgmt.held = true → s.mgmt.src = false ∨ s.mgmt.holder ≠ procIdent p →
          w.extractLsb' 30 2 = 2#2 ∧ w.extractLsb' 0 12 = s.mgmt.holder ∧ w.getLsbD 12 = s.mgmt.src)) ∧
      exec (.processorLockRequest p ⟨true, [], none⟩) s = .next
        (if s.mgmt.held = true ∧ s.mgmt.src = true ∧ s.mgmt.holder = procIdent p then
          { s with mgmt := { s.mgmt with held := false, src := false, holder := 0, remain := 0 } } else s)) ∧
  (∀ (s : State) (p : Fin 3) (others : List (Fin 3)) (n : Nat), s.mgmt.held = false →
      (lockOrder s.now).find? (fun n => n ∈ (p :: others).map fun q => q.val + 1) = some n →
      ∃ t, exec (.processorLockRequest p ⟨false, others, none⟩) s = .next t ∧ t = { s with procs := t.procs, mgmt :=
        { s.mgmt with held := true, src := true, holder := BitVec.ofNat 12 (0xEFF + n), remain := max 256 s.mgmt.lease.toNat } } ∧
        (∀ q : Fin 3, q ∉ p :: others → t.procs[q] = s.procs[q]) ∧
        ∀ q ∈ p :: others, t.procs[q] = { s.procs[q] with lockAns := t.procs[q].lockAns } ∧
          (t.procs[q].lockAns).extractLsb' 30 2 = (if q.val + 1 = n then 1#2 else 2#2) ∧
          (t.procs[q].lockAns).extractLsb' 0 12 = t.mgmt.holder ∧ (t.procs[q].lockAns).getLsbD 12 = true) ∧
  (∀ (s : State) (p : Fin 3) (others : List (Fin 3)) (i : Ident) (n : Nat), s.portOpen → s.roleOf i = 3 → s.mgmt.held = false →
      (lockOrder s.now).find? (fun n => n ∈ 0 :: (p :: others).map fun q => q.val + 1) = some n →
      ∃ w t, exec (.processorLockRequest p ⟨false, others, some i⟩) s = .next t ∧ t = { s with rsp := w, procs := t.procs, mgmt := { s.mgmt with
          held := true, src := n ≠ 0, holder := if n = 0 then i else BitVec.ofNat 12 (0xEFF + n), remain := max 256 s.mgmt.lease.toNat } } ∧
        w.extractLsb' 30 2 = (if n = 0 then 1#2 else 2#2) ∧ w.extractLsb' 0 12 = t.mgmt.holder ∧ w.getLsbD 12 = t.mgmt.src ∧
        (∀ q : Fin 3, q ∉ p :: others → t.procs[q] = s.procs[q]) ∧
        ∀ q ∈ p :: others, t.procs[q] = { s.procs[q] with lockAns := t.procs[q].lockAns } ∧
          (t.procs[q].lockAns).extractLsb' 30 2 = (if q.val + 1 = n then 1#2 else 2#2) ∧
          (t.procs[q].lockAns).extractLsb' 0 12 = t.mgmt.holder ∧ (t.procs[q].lockAns).getLsbD 12 = t.mgmt.src) ∧
  (∀ s : State, s.mgmt.held = true → s.mgmt.remain = 0 → ∃ w, exec .leaseExpiry s = .next
      { s with mgmt := { s.mgmt with held := false, src := false, holder := 0, remain := 0,
                                     expired := min 0xFFFF (s.mgmt.expired + 1), intStatus := s.mgmt.intStatus ||| w } } ∧
      w.getLsbD 17 = true)

/-- A tenant reset, started by an OFFICER or by the lock holder, sets BUSY, empties the FIFO and both mailboxes, disables the page's
interrupts, ends key entry, frees a lock that the tenant holds, and stops the tenant's requests at the next slot boundary; nothing of
another tenant changes. A start while the tenant's reset runs is ignored. Once all has ended, the page takes its reset values but for
the audit chain, and BUSY clears (11 R438 to R440). -/
def Obligations.TenantResetClearsPage : Prop :=
  (∀ (s : State) (i : Ident) (own : Option Tenant) (n : Tenant) (v : BitVec 32) (c : Cycle), (s.page n).resetBusy = false →
      (own = some n ∧ s.mayWrite i n true) ∨ (own = none ∧ s.mayManage i ∧ n = tenantFin (v.toNat % 64)) → ∃ t,
        exec (.tenantReset i own v c) s = .next t ∧
        t = { s with rsp := 0, tenants := t.tenants, mgmt := t.mgmt, reqs := t.reqs, ks := t.ks } ∧
        (∀ m : Tenant, m ≠ n → t.page m = s.page m) ∧ (t.page n).resetBusy = true ∧ (t.page n).intEnable = 0 ∧
        (t.page n).fifoItems = [] ∧ (t.page n).fifoPart = [] ∧ (t.page n).fifoPartSym = [] ∧ (t.page n).mbo.full = false ∧ (t.page n).mbi.full = false ∧
        (t.page n).ke.session = none ∧ (t.page n).rings = (s.page n).rings ∧ (t.page n).auditHead = (s.page n).auditHead ∧
        (s.mgmt.held = true → s.mgmt.src = false → s.tenantOf s.mgmt.holder = n → t.mgmt.held = false) ∧
        t.reqs = s.reqs.map (fun r => if r.tenant = n.val ∧ pastAbort true r = false ∧ r.stopAt = none then
          { r with stopAt := some (stopBoundary s c) } else r)) ∧
  (∀ (s : State) (i : Ident) (n : Tenant) (v : BitVec 32) (c : Cycle), (s.page n).resetBusy = true →
      (s.mayManage i → n = tenantFin (v.toNat % 64) → exec (.tenantReset i none v c) s =
        .next { s with rsp := 0, mgmt := { s.mgmt with tnReset := v.extractLsb' 0 6 } }) ∧
      (s.roleOf i = 2 → s.tenantOf i = n → s.portOpen → exec (.tenantReset i (some n) v c) s = .next { s with rsp := 0 })) ∧
  (∀ (s : State) (n : Tenant), (s.page n).resetBusy = true → s.tt.slot = 0 → resetSettled s n = true → ∃ t,
      exec (.tenantResetDone n) s = .next t ∧ t = { s with tenants := t.tenants, mgmt := t.mgmt } ∧
      (∀ m : Tenant, m ≠ n → t.page m = s.page m) ∧ t.mgmt.intStatus.getLsbD 22 = true ∧ (t.page n).resetBusy = false ∧
      (∀ k : RingNo, t.ring n k = Ring.reset) ∧ (t.page n).intStatus = 0 ∧ (t.page n).intEnable = 0 ∧
      (t.page n).mbo.full = false ∧ (t.page n).mbi.full = false ∧ (t.page n).auditHead = (s.page n).auditHead ∧
      (t.page n).auditCount = (s.page n).auditCount ∧ (t.page n).challenge = (s.page n).challenge)

/-! ### Curves -/

/-- Request 0x0201 reads its record once: a header or entry that fails ends it with `CURVE_PARAMS`, and else it is queued for its checks
and its entry is CHECKING. The load at the head ends with its entry READY, or EMPTY with a failing status, or, after 20 ms or a third
mismatch of its pair in a row, with `INTERNAL`. Request 0x0202 puts a READY entry of 8 to 31 on the way to RETIRING; a RETIRING entry that
no request holds becomes EMPTY at a tick boundary (06 R257, R286 to R288, R290; the parameter of 0x0202 and the third mismatch are the model's
choice, log entries 32 and 80). -/
def Obligations.CurvesLoadAndRetire : Prop :=
  (∀ (s : State) (m : Msg) (b : Bytes), s.requestIs 0x0201 m → m.paylen = 448 → allZero m.params = true →
      inWindows s m.tenant m.payload 448 true false = true →
      (arrivalCheck s (fitTo 448 b) = 0 → ∃ t x, exec (.curveLoad b) s = .next t ∧
        t = { s with mgmt := t.mgmt, vs := t.vs, fab := { s.fab with mgmt := t.fab.mgmt } } ∧
        t.answered m.box 0x0201 m.seq 1 ∧ t.vs.loads = s.vs.loads ++ [x] ∧ x.record = fitTo 448 b ∧
        x.seq = some (BitVec.ofNat 16 m.seq) ∧ t.curveEntry (recordIndex (fitTo 448 b)) = checkingEntry (fitTo 448 b) 2) ∧
      (arrivalCheck s (fitTo 448 b) ≠ 0 → ∃ t, exec (.curveLoad b) s = .next t ∧
        t = { s with mgmt := t.mgmt, vs := t.vs, fab := { s.fab with mgmt := t.fab.mgmt } } ∧
        t.answered m.box 0x0201 m.seq 0x19 ∧ t.vs.loads = s.vs.loads ∧ t.vs.curves = s.vs.curves)) ∧
  (∀ (s : State) (x : CurveLoad) (l : List CurveLoad) (late : Bool) (code : Nat), s.vs.loads[nextLoad s]? = some x →
      l = s.vs.loads.eraseIdx (nextLoad s) → recordIndex x.record < 32 → loadBegun s x = true →
      code = (if x.startTick + 78125 ≤ s.now ∨ 3 ≤ x.reruns then 0x0C else curveChecks x.record) →
      (late = true → x.startTick + 78125 ≤ s.now ∨ 3 ≤ x.reruns) → ∃ t, exec (.curveLoadComplete late) s = .next t ∧
        t = { s with mgmt := t.mgmt, vs := t.vs, drawn := t.drawn } ∧ t.vs.loads = l ∧
        t.vs.lastResult = BitVec.ofNat 8 code ∧ t.mgmt.intStatus.getLsbD 14 = true ∧
        (∀ j : Fin 32, j.val ≠ recordIndex x.record → t.vs.curves[j] = s.vs.curves[j]) ∧
        (code = 1 → t.curveEntry (recordIndex x.record) =
          { state := 2, origin := x.origin, h := recordH x.record, fbits := recordFbits x.record, record := x.record,
            recordSym := symbolsOf x.record }) ∧
        (code ≠ 1 → (s.curveEntry (recordIndex x.record)).state = 1 → t.curveEntry (recordIndex x.record) = CurveEntry.reset) ∧
        (∀ q, x.seq = some q →
          t.answered none 0x0201 q.toNat (if code = 1 then 0 else if code = 0x0C then 0x3F else 0x19))) ∧
  (∀ (s : State) (m : Msg), s.requestIs 0x0202 m → m.payload = 0 → m.paylen = 0 → 8 ≤ byteAt m.params 0 → byteAt m.params 0 < 32 →
      allZero (m.params.drop 1) = true →
      ((s.curveEntry (byteAt m.params 0)).state = 2 → ∃ t, exec .curveUnload s = .next t ∧
        t = { s with mgmt := t.mgmt, vs := { s.vs with unload := t.vs.unload } } ∧ t.answered m.box 0x0202 m.seq 0 ∧
        byteAt m.params 0 ∈ t.vs.unload) ∧
      ((s.curveEntry (byteAt m.params 0)).state ≠ 2 → ∃ t, exec .curveUnload s = .next t ∧ t = { s with mgmt := t.mgmt } ∧
        t.answered m.box 0x0202 m.seq 2)) ∧
  (∀ (s : State) (x : CurveLoad), s.vs.loads[nextLoad s]? = some x → s.now < x.startTick + 78125 → x.reruns < 3 →
      exec (.curveLoadComplete true) s = .next s) ∧
  (∀ (s : State) (ix : Fin 32), s.vs.curves[ix].state = 3 →
      (s.tt.slot = 0 → (∀ r ∈ s.reqs, holdsCurve r ix.val = false) → ∃ t, exec (.curveRetired ix) s = .next t ∧
        t = { s with mgmt := t.mgmt, vs := { s.vs with curves := s.vs.curves.set ix CurveEntry.reset } } ∧
        t.mgmt.intStatus.getLsbD 14 = true) ∧
      (s.tt.slot ≠ 0 ∨ (∃ r ∈ s.reqs, holdsCurve r ix.val = true) → exec (.curveRetired ix) s = .next s))

/-! ### Debug and waybills -/

/-- A core that the state or the rights let the holder halt is halted, steps while it is, and resumes; one that they do not lets
nothing happen (15 R566). A group that the state and the rights reach is read, written or run through BIST: a word keeps what was read
or written, and a BIST leaves zeros; a group that they do not reach gets result 3 (15 R564, R565). What an unknown word reads as is a
free value, and that it stays is the model's (log entry 33). -/
def Obligations.DebugReachesGroups : Prop :=
  (∀ (s : State) (i : Ident) (v : BitVec 32), s.mayManage i → mayHalt s (fieldNat v 30 2) = true →
      (∃ t, exec (.dbgHalt i v) s = .next t ∧ t = { s with rsp := 0, dbg := t.dbg } ∧ coreHalted t.dbg (fieldNat v 30 2) = true ∧
        ∀ c, 1 ≤ c → c ≤ 3 → c ≠ fieldNat v 30 2 → coreHalted t.dbg c = coreHalted s.dbg c) ∧
      (coreHalted s.dbg (fieldNat v 30 2) = true → ∃ t, exec (.dbgStep i v) s = .next t ∧
        t = { s with rsp := 0, dbg := t.dbg, procs := t.procs } ∧
        t.procs[coreProc (fieldNat v 30 2)].stepsDone = s.procs[coreProc (fieldNat v 30 2)].stepsDone + 1 ∧
        ∀ c, coreHalted t.dbg c = coreHalted s.dbg c) ∧
      (∃ t, exec (.dbgResume i v) s = .next t ∧ t = { s with rsp := 0, dbg := t.dbg } ∧
        coreHalted t.dbg (fieldNat v 30 2) = false ∧
        ∀ c, 1 ≤ c → c ≤ 3 → c ≠ fieldNat v 30 2 → coreHalted t.dbg c = coreHalted s.dbg c)) ∧
  (∀ (s : State) (i : Ident) (v : BitVec 32), s.mayManage i → mayHalt s (fieldNat v 30 2) = false →
      exec (.dbgHalt i v) s = .next { s with rsp := 0 } ∧ exec (.dbgStep i v) s = .next { s with rsp := 0 } ∧
      exec (.dbgResume i v) s = .next { s with rsp := 0 }) ∧
  (∀ (s : State) (i : Ident) (v : BitVec 64), s.mayManage i →
      (mayReach s false (fieldNat v 48 6) = true →
        (∃ t, exec (.dbgRead i v) s = .next t ∧ t = { s with rsp := 0, dbg := t.dbg, drawn := t.drawn } ∧ t.dbg.result = 2 ∧
          t.dbg.words.lookup (fieldNat v 48 6, accessWord v) = some t.dbg.data ∧
          ∀ w, s.dbg.words.lookup (fieldNat v 48 6, accessWord v) = some w → t.dbg.data = w) ∧
        (∃ t, exec (.dbgWrite i v) s = .next t ∧ t = { s with rsp := 0, dbg := t.dbg } ∧ t.dbg.result = 2 ∧
          t.dbg.words.lookup (fieldNat v 48 6, accessWord v) = some s.dbg.data)) ∧
      (mayReach s false (fieldNat v 48 6) = false →
        exec (.dbgRead i v) s = .next { s with rsp := 0, dbg := { s.dbg with result := 3 } } ∧
        exec (.dbgWrite i v) s = .next { s with rsp := 0, dbg := { s.dbg with result := 3 } }) ∧
      (∀ pass : Bool, mayReach s true (fieldNat v 48 6) = true → ∃ t, exec (.bist i v pass) s = .next t ∧ t.fixed = s.fixed ∧
        t.nvm = s.nvm ∧ t.dbg.result = 2 ∧ t.dbg.bist = (if pass then 1 else 2) ∧ fieldNat v 48 6 ∈ t.dbg.zeroed ∧
        (fieldNat v 48 6 = 14 → t.ks.cache = []) ∧ (fieldNat v 48 6 = 24 → ∀ n : Tenant, (t.page n).fifoItems = []) ∧
        (fieldNat v 48 6 = 25 → t.flt.queue = []) ∧ (fieldNat v 48 6 = 27 → t.en.fill = 0 ∧ t.en.seed = [])))

/-- A challenge of 32 drawn bytes replaces the one a tenant holds; its draw waits while the buffer is below 32 KiB, and a refused one is
counted and answered with 3. A presentation consumes it, and the pass that meets every check puts its rights in force for its tenant, while one that
fails is answered with the first check's code, counted, and changes no right (10 R421, R426; 15 R559 to R562). A dump that is there and
fits its buffer is answered with 0, a slot without one with 2 (12 R491). -/
def Obligations.ChallengesAndPasses : Prop :=
  (∀ (s : State) (m : Msg), s.requestIs 0x0102 m → m.payload = 0 → m.paylen = 0 → allZero m.params = true →
      (s.en.state = 3 ∧ 32 ≤ s.en.fill) ∨ (s.en.state ≠ 3 ∧ 32768 ≤ s.en.fill) → ∃ t c,
      exec .debugChallenge s = .next t ∧ t = { s with tenants := t.tenants, mgmt := t.mgmt, en := t.en, drawn := s.drawn + 32 } ∧
        (t.page m.tenant).challenge = some c ∧ c.length = 32 ∧ t.en.fill = s.en.fill - 32 ∧
        (∃ r, t.mgmt.replies.getLast? = some r ∧ r.tenant = m.box.map Fin.val ∧ r.bytes = replyBytes 0x0102 m.seq 0 c) ∧
        ∀ n : Tenant, n ≠ m.tenant → (t.page n).challenge = (s.page n).challenge) ∧
  (∀ (s : State) (m : Msg), s.requestIs 0x0102 m → m.payload = 0 → m.paylen = 0 → allZero m.params = true →
      (s.en.state = 3 → s.en.fill < 32 → ∃ t, exec .debugChallenge s = .next t ∧
        t = { s with tenants := t.tenants, mgmt := t.mgmt, en := { s.en with noentIv := min 0xFFFF (s.en.noentIv + 1) } } ∧
        (∀ n : Tenant, (t.page n).challenge = (s.page n).challenge) ∧ t.answered m.box 0x0102 m.seq 3) ∧
      (s.en.state ≠ 3 → s.en.fill < 32768 → exec .debugChallenge s = .next s)) ∧
  (∀ (s : State) (m : Msg) (b : Bytes), s.requestIs 0x0103 m → s.lc.state = 4 ∨ s.lc.state = 5 → allZero m.params = true →
      m.paylen ≠ 256 ∨ inWindows s m.tenant m.payload 256 true false = true → ∃ t, exec (.debugPass b) s = .next t ∧
        t = { s with tenants := t.tenants, mgmt := t.mgmt, dbg := t.dbg, fab := { s.fab with mgmt := t.fab.mgmt } } ∧
        (t.page m.tenant).challenge = none ∧
        t.answered m.box 0x0103 m.seq (passCheck s m.tenant (s.page m.tenant).challenge m.paylen b) ∧
        (passCheck s m.tenant (s.page m.tenant).challenge m.paylen b = 0 →
          t.dbg = { s.dbg with rights := BitVec.ofNat 32 (leAt b 8 4), tenant := BitVec.ofNat 6 m.tenant.val, last := 0 }) ∧
        (passCheck s m.tenant (s.page m.tenant).challenge m.paylen b ≠ 0 →
          t.dbg = { s.dbg with last := BitVec.ofNat 8 (passCheck s m.tenant (s.page m.tenant).challenge m.paylen b),
                               refused := min 255 (s.dbg.refused + 1) })) ∧
  (∀ (s : State) (m : Msg), s.requestIs 0x0209 m → byteAt m.params 0 = 0 ∨ byteAt m.params 0 = 1 ∨ byteAt m.params 0 = 0xFF →
      allZero (m.params.drop 1) = true →
      (∀ d, dumpIn s.nvm (byteAt m.params 0) = some d → d.length ≤ m.paylen →
        payloadOk s m.tenant m.payload m.paylen false true = true → ∃ t, exec (.dumpRetrieval true) s = .next t ∧
          t = { s with mgmt := t.mgmt, fab := { s.fab with mgmt := t.fab.mgmt } } ∧ t.answered m.box 0x0209 m.seq 0) ∧
      (dumpIn s.nvm (byteAt m.params 0) = none → ∃ t, exec (.dumpRetrieval true) s = .next t ∧ t = { s with mgmt := t.mgmt } ∧
        t.answered m.box 0x0209 m.seq 2))

/-- A waybill request that passes its checks samples its claims at once and waits for its signature; the tenant's waybill carries its
tenant. Once the signature is made and written, the request is answered with 0, and no other state changes (15 R567, R569). -/
def Obligations.WaybillsAreIssued : Prop :=
  (∀ (s : State) (m : Msg) (code : Nat), s.requestIs code m → code = 0x0101 ∨ code = 0x0205 → s.lc.state ≠ 1 → s.lc.state ≠ 7 →
      8 ≤ byteAt m.params 0 → byteAt m.params 0 ≤ 32 → allZero (slice m.params 1 3) = true →
      allZero (m.params.drop (4 + byteAt m.params 0)) = true → 1024 ≤ m.paylen →
      payloadOk s m.tenant m.payload m.paylen false true = true → s.en.state ≠ 3 → 32768 ≤ s.en.fill → s.tt.slot = 0 → ∃ t w,
        exec (if code = 0x0101 then .tenantWaybill else .blockWaybill) s = .next t ∧
        t = { s with tenants := t.tenants, mgmt := t.mgmt, en := t.en, ss := { s.ss with waybills := s.ss.waybills ++ [w] },
                     drawn := s.drawn + 264 } ∧
        t.answered m.box code m.seq 1 ∧ t.en.fill = s.en.fill - 264 ∧
        w.tenant = (if code = 0x0101 then some m.tenant.val else none) ∧
        w.payload = claims s w.tenant (slice m.params 4 (byteAt m.params 0)) ∧ w.req = m.bytes ∧ w.drawn.length = 264) ∧
  (∀ (s : State) (w : WaybillJob) (l : List WaybillJob), s.ss.waybills = w :: l → waybillReady s w = true → procWorks s 2 = true →
      ∃ t, exec (.waybillSigned true) s = .next t ∧
        t = { s with mgmt := t.mgmt, ss := { s.ss with waybills := l }, fab := { s.fab with mgmt := t.fab.mgmt } } ∧
        t.answered (w.tenant.map tenantFin) (leAt w.req 0 2) (leAt w.req 2 2) 0) ∧
  (∀ (s : State) (w : WaybillJob) (l : List WaybillJob), s.ss.waybills = w :: l → waybillReady s w = false →
      exec (.waybillSigned true) s = .next s)

/-! ### Life cycle -/

/-- A transition that passes its checks is answered with 1 and its target row is burnt next, the block quiesced where the transition
wipes, each request then stopping at the next boundary; one that fails a check is answered with that check's code and nothing moves. In
PROVISION the hash of an authority's key is taken for burning, where the key is a point of its curve. The acknowledged program burns its
row's bits and no others: then the commit row follows the target row, and the request is answered after the commit row, the state itself
staying until the next cold start; a failed program, or an area that does not read back as erased,
ends the request with 6. The transition to TEST begins the tamper log, once (14 R535; 15 R550, R551, R552, R554, R557; 18 R620). -/
def Obligations.TransitionsBurnTheirRows : Prop :=
  (∀ (s : State) (m : Msg) (x : Nat), s.requestIs 0x0206 m → byteAt m.params 0 = 1 → x = byteAt m.params 1 → m.payload = 0 →
      m.paylen = 0 → allZero (m.params.drop 3) = true →
      (transitionCheck s x (byteAt m.params 2) = 0 → ∃ t, exec .lifeCycleTransition s = .next t ∧
        t = { s with mgmt := t.mgmt, lc := t.lc, reqs := t.reqs } ∧ t.answered m.box 0x0206 m.seq 1 ∧ t.lc.burning = 1 ∧
        t.lc.next = BitVec.ofNat 4 x ∧ t.lc.state = s.lc.state ∧ some t.lc.slot = freeSlot s x ∧
        t.lc.quiesced = (s.lc.quiesced || wipes x) ∧ (wipes x = false → t.reqs = s.reqs) ∧
        (wipes x = true → ∀ r ∈ t.reqs, pastAbort true r = true ∨ r.stopAt ≠ none)) ∧
      (transitionCheck s x (byteAt m.params 2) ≠ 0 → ∃ t, exec .lifeCycleTransition s = .next t ∧ t = { s with mgmt := t.mgmt } ∧
        t.answered m.box 0x0206 m.seq (transitionCheck s x (byteAt m.params 2)))) ∧
  (∀ (s : State) (m : Msg) (b : Bytes) (k : Nat), s.requestIs 0x0206 m → byteAt m.params 0 = 2 → s.lc.state = 4 →
      byteAt m.params 1 = 1 ∨ byteAt m.params 1 = 2 → m.paylen = 97 → allZero (m.params.drop 2) = true →
      payloadOk s m.tenant m.payload 97 true false = true →
      freeSet s (byteAt m.params 1) = some k → sealedHash s (byteAt m.params 1) = none → s.lc.phase ≠ 3 → ∃ t,
        exec (.authoritySeal b) s = .next t ∧ t = { s with mgmt := t.mgmt, lc := t.lc, fab := { s.fab with mgmt := t.fab.mgmt } } ∧
        (validP384 s (b.take 97) = true → t.mgmt.replies = s.mgmt.replies ∧
          t.lc = { s.lc with sealJob := some (byteAt m.params 1, 0, sha384 (b.take 97)), sealSet := k, burning := 3,
                             seq := some (BitVec.ofNat 16 m.seq) }) ∧
        (validP384 s (b.take 97) = false → t.lc = s.lc ∧ t.answered m.box 0x0206 m.seq 8)) ∧
  (∀ (s : State) (r : Fin 128) (d : BitVec 64), programNow s = some (r.val, d) → s.mainUp = true → s.cfg.stage ≠ 0 →
      s.locked = false → (s.lc.burning = 1 → s.lc.quiesced = true → s.ks.commits = []) → (s.lc.burning = 2 → s.lc.wiped = true) →
      (∃ t, exec (.otpProgramComplete false) s = .next t ∧ t.otp = s.otp.set r (s.otp[r] ||| d) ∧
        t.lc.state = s.lc.state ∧
        (s.lc.burning = 1 → (wipes s.lc.next.toNat = true → t.aon.bbk = none ∧ t.lc.phase = 2 ∧
            (t.lc.burning = 2 ∨ t.lc.burning = 0 ∧ ∀ q, s.lc.seq = some q → t.answered none 0x0206 q.toNat 6)) ∧
          (wipes s.lc.next.toNat = false → t.lc.burning = 2 ∧ t = { s with otp := t.otp, lc := t.lc })) ∧
        (s.lc.burning = 2 → t = { s with otp := t.otp, lc := t.lc, mgmt := t.mgmt, aon := t.aon } ∧ t.lc.burning = 0 ∧ t.lc.phase = 3 ∧
          (s.lc.next ≠ 2 ∨ s.aon.begun = true → t.aon = s.aon) ∧ (s.lc.next = 2 → s.aon.begun = false → t.aon.begun = true ∧
            (s.aon.marker = true → t.aon.count = 0 ∧ t.aon.head = fillBytes 32 0 ∧ t.aon.pendLog = [])) ∧
          ∀ q, s.lc.seq = some q → t.answered none 0x0206 q.toNat 0) ∧
        (∀ kind n h, s.lc.burning = 3 → s.lc.sealJob = some (kind, n, h) →
          t = { s with otp := t.otp, lc := t.lc, mgmt := t.mgmt } ∧
          (n ≠ 6 → t.lc = { s.lc with sealJob := some (kind, n + 1, h) }) ∧
          (n = 6 → t.lc.burning = 0 ∧ t.lc.sealJob = none ∧ ∀ q, s.lc.seq = some q → t.answered none 0x0206 q.toNat 0))) ∧
      (∃ t, exec (.otpProgramComplete true) s = .next t ∧ otpKept s t ∧ (∀ i : Fin 128, i ≠ r → t.otp[i] = s.otp[i]) ∧
        t = { s with otp := t.otp, lc := t.lc, mgmt := t.mgmt, drawn := s.drawn + 1 } ∧ t.lc.burning = 0 ∧ t.lc.state = s.lc.state ∧
        ∀ q, s.lc.seq = some q → t.answered none 0x0206 q.toNat 6))

/-! ### Amendments and the cut-over -/

/-- Request 0x0207 or 0x0208 begins an amendment or a handover unless one is under way, answered with 1 and 0x83, and the area
not in force is erased; the image read into it is checked and taken, or refused with its cause; preparation writes the pointer in the
boot block and sets the first period boundary at least 4,096 ticks on; an unconfigured block instead takes its image into area A and starts anew; a reloaded bank lets its
owner arm again (16 R578, R590 to R592, R595; 12 Table 12-7). -/
def Obligations.AmendmentsArePrepared : Prop :=
  (∀ (s : State) (m : Msg) (hand : Bool), s.requestIs (if hand then 0x0208 else 0x0207) m →
      s.cfg.stage ≠ stageUnconfigured →
      (amending s = true → ∃ t, exec (if hand then .firmwareHandover else .configurationAmendment) s = .next t ∧
        t = { s with mgmt := t.mgmt } ∧ t.answered m.box (if hand then 0x0208 else 0x0207) m.seq 0x83) ∧
      (amending s = false → m.payload = 0 → m.paylen = 0 → allZero (m.params.drop 12) = true →
        inWindows s m.tenant (leAt m.params 0 8) (leAt m.params 8 4) true false = true → ∃ t,
          exec (if hand then .firmwareHandover else .configurationAmendment) s = .next t ∧
          t = { s with mgmt := t.mgmt, cfg := t.cfg, fab := { s.fab with mgmt := t.fab.mgmt }, nvm := t.nvm } ∧
          t.nvm = (if s.pwr.nvmLow then s.nvm else putImage (!s.cfg.area) [] s.nvm) ∧ t.answered m.box (if hand then 0x0208 else 0x0207) m.seq 1 ∧
          t.cfg = { s.cfg with coState := 1, coCause := 0, attempts := 0, armed := 0, target := 0, handover := hand,
                               coLen := leAt m.params 8 4, coSeq := some (BitVec.ofNat 16 m.seq) })) ∧
  (∀ (s : State) (b : Bytes) (cause : Nat), s.cfg.coState = 1 → s.locked = false → b.length = s.cfg.coLen → s.pwr.nvmLow = false →
      cause = imageCause s (if s.cfg.handover then .handover else .amendment) b →
      (∃ t, exec (.amendmentImageLoaded (some b) true) s = .next t ∧ imageArea t (!s.cfg.area) = b.take 4194304 ∧
        imageArea t s.cfg.area = imageArea s s.cfg.area ∧
        (cause = 0 → t = { s with nvm := t.nvm, cfg := { s.cfg with coState := 2, newImage := b, newHash := sha384 b } }) ∧
        (cause ≠ 0 → t.fixed = { s.fixed with coState := 6 } ∧ t.cfg.coCause = BitVec.ofNat 8 cause ∧
          ∀ q, s.cfg.coSeq = some q → t.answered none (cutCode s) q.toNat 2)) ∧
      (∃ t, exec (.amendmentImageLoaded (some b) false) s = .next t ∧ t.fixed = { s.fixed with coState := 6 } ∧
        t.cfg.coCause = 0x0E ∧ t.nvm.errors = min 0xFFFF (s.nvm.errors + 1))) ∧
  (∀ s : State, s.cfg.coState = 2 → s.locked = false → s.pwr.nvmLow = false → ∃ t, exec (.amendmentPrepared true) s = .next t ∧
      t.fixed = { s.fixed with coState := 3 } ∧ t.image = s.image ∧ s.now + 4096 ≤ t.cfg.target ∧ t.cfg.target < s.now + 8192 ∧
      t.cfg.target % 4096 = 0 ∧ t.nextImage? = some (parseImage s.cfg.newImage) ∧ t.nvm.imgPtr.area = !s.cfg.area ∧
      t.nvm.imgPtr.length = s.cfg.newImage.length ∧ t.cfg.oldPtr = s.nvm.imgPtr ∧
      (t.nvm.boot[1]).getLast? = some (imgPtrRecord t.nvm.imgPtr)) ∧
  (∀ (s : State) (m : Msg) (b : Bytes), s.requestIs 0x0207 m → s.cfg.stage = stageUnconfigured → ringless s = false →
      b.length = leAt m.params 8 4 → s.pwr.nvmLow = false → m.payload = 0 → m.paylen = 0 → allZero (m.params.drop 12) = true →
      (s.cfg.instBegun = false → exec (.configInstall (some b) true) s = .next (startInstall m s)) ∧
      (s.cfg.instBegun = true → mgmtReading s = true → exec (.configInstall (some b) true) s = .next s) ∧
      (s.cfg.instBegun = true → mgmtReading s = false → ∃ t, exec (.configInstall (some b) true) s = .next t ∧ t.nvm.imageA = b.take 4194304 ∧ t.nvm.imgPtr.area = false ∧
        t.nvm.imgPtr.length = b.length ∧ t.mainUp = false ∧ t.reqs = [] ∧ t.aon = s.aon ∧ otpKept s t)) ∧
  (∀ (s : State) (o : Fin 8), o.val ∈ s.cfg.bankBad → procWorks s 1 = true → ∃ t, exec (.inactiveBankReload o true) s = .next t ∧
      t = { s with cfg := { s.cfg with bankBad := s.cfg.bankBad.filter (· ≠ o.val), armed := t.cfg.armed } } ∧
      (s.cfg.coState = 3 → t.cfg.armed.getLsbD o.val = true))

/-- 256 ticks before its boundary the attempt is counted: with every owner and processor ready it is armed, and else the next boundary is
tried, until the eighth attempt ends the amendment with the old image's pointer, which waits where the NVM may not be written. At the
boundary every owner switches together to the new set. A processor to be handed over halts for the attempt, and resumes on its other bank
(13 R506; 16 R592, R593, R596, R597). -/
def Obligations.CutoverSwitchesAtBoundary : Prop :=
  (∀ s : State, s.cfg.coState = 3 → s.now + 256 = s.cfg.target → s.locked = false →
      (allArmed s = true → ∃ t, exec .cutoverArmCheck s = .next t ∧ t = { s with cfg := t.cfg, mgmt := t.mgmt } ∧
        t.cfg = { s.cfg with coState := 4, attempts := s.cfg.attempts + 1 } ∧ t.mgmt.intStatus.getLsbD 11 = true) ∧
      (allArmed s = false → s.cfg.attempts < 7 → ∃ t, exec .cutoverArmCheck s = .next t ∧
        t = { s with cfg := t.cfg, mgmt := t.mgmt, procs := t.procs } ∧
        t.cfg = { s.cfg with attempts := s.cfg.attempts + 1, target := s.cfg.target + 4096, armed := t.cfg.armed } ∧
        t.mgmt.intStatus.getLsbD 13 = true ∧ ∀ p : Fin 3, t.procs[p] = { s.procs[p] with halted := false }) ∧
      (allArmed s = false → 7 ≤ s.cfg.attempts → ∃ t, exec .cutoverArmCheck s = .next t ∧ t.fixed = { s.fixed with coState := 6 } ∧
        t.cfg.coCause = 0x0D ∧
        (s.pwr.nvmLow = false → t.nvm = writeImgPtr { s.cfg.oldPtr with seq := s.nvm.imgPtr.seq + 1 } s.nvm) ∧
        (s.pwr.nvmLow = true → t.nvm = s.nvm ∧ t.cfg.ptrWaits = true) ∧
        t.image = s.image ∧ ∀ q, s.cfg.coSeq = some q → t.answered none (cutCode s) q.toNat 3)) ∧
  (∀ (s : State) (m : Image), cutDue s = true → dueCases s = [] → s.nextImage? = some m → ∃ t, exec .cutoverSwitch s = .next t ∧
      t.fixed = { s.fixed with coState := 5, lock := (t.mgmt.held, t.mgmt.src, t.mgmt.holder) } ∧ t.image = m ∧
      t.cfg.bank = !s.cfg.bank ∧ t.cfg.seq = m.seq ∧ t.cfg.image = s.cfg.newImage ∧ t.cfg.armed = 0 ∧
      (s.cfg.handover = false → t.tt.active = 0 ∧ t.tt.causeV = false) ∧ (s.cfg.handover = true → t.tt.active = s.tt.active) ∧
      t.mgmt.intStatus.getLsbD 12 = true ∧ (∀ p : Fin 1024, (t.tt.plats[p]).level ≤ (s.tt.plats[p]).level) ∧
      (s.mgmt.src = false → s.mgmt.held = true → t.mgmt.held = true → t.roleOf t.mgmt.holder = 3)) ∧
  (∀ (s : State) (p : Fin 3), s.cfg.coState = 3 → s.now + 256 = s.cfg.target → s.procs[p].newPatch.isSome = true →
      procWorks s p = true → s.locked = false →
      exec (.handoverHalt p) s = .next { s with procs := s.procs.set p { s.procs[p] with halted := true } }) ∧
  (∀ (s : State) (p : Fin 3) (k : Nat), s.procs[p].resuming = some k →
      (s.now ≤ k + 128 → (∃ w, exec (.handoverResume p true) s = .next { s with
          procs := s.procs.set p { s.procs[p] with resuming := none }, mgmt := { s.mgmt with intStatus := s.mgmt.intStatus ||| w } } ∧
          w.getLsbD 5 = true) ∧ exec (.handoverResume p false) s = .next s) ∧
      (k + 128 < s.now → s.mainUp = true → s.lc.state ≠ lcScrap → ∃ t, exec (.handoverResume p true) s = .next t ∧
        t.reported (sourceId 7 4 p.val 21) ∧ t.procs[p].resuming = none ∧ t.fixed = s.fixed))

/-! ### The register port -/

/-- Where the port lets an access of its own width through, a read answers with its register's value and changes nothing, and a write acts
on its register alone: TRH_MGMT_LEASE and the interrupt enables take the value, the interrupt status loses the bits written with 1. The
access of a foreign identity, be it a read or a write, is answered with 0, recorded, counted for its tenant and reported, with REG_FOREIGN
asserted; one of a width that no register has is reported; without the lock a write counts DENIED. While the port is shut a write does
nothing, and TRH_ID still answers (00 R14 to R18; 11 R435, R436, R455 to R458; 15 R542; 16 R588; 17 R599, R600). -/
def Obligations.RegisterPortAnswers : Prop :=
  (∀ (s : State) (i : Ident) (a : BitVec 24) (w : Width) (r : MReg), s.portOpen → s.roleOf i = 3 →
      (a.toNat < 0x10000 ∧ mgmtTable.lookup a.toNat = some r) ∨
        (0x10000 ≤ a.toNat ∧ a.toNat < 0x20000 ∧ supTable.lookup a.toNat = some r) →
      r ≠ .mgmtLock → w = (if r.wide then .w64 else .w32) → a.toNat % Width.bytes w = 0 →
      exec (.registerRead i a w) s = .next { s with rsp := readM s r } ∧
      (∀ (v : BitVec 64) (c : Cycle) (pass : Bool), isHolder s i = true →
        exec (.registerWrite i a w v c pass) s = .next { writeM i c pass r v s with rsp := 0 }) ∧
      (∀ (v : BitVec 64) (c : Cycle) (pass : Bool), isHolder s i = false → exec (.registerWrite i a w v c pass) s =
        .next { s with rsp := 0, mgmt := { s.mgmt with denied := min 0xFFFF (s.mgmt.denied + 1) } })) ∧
  (∀ (s : State) (i : Ident) (n : Tenant) (o : Nat) (a : BitVec 24) (w : Width) (r : PReg), s.mayWrite i n true → o < 0x600 →
      a.toNat = pageOff n o → pageTable.lookup o = some r → w = (if r.wide then .w64 else .w32) → a.toNat % Width.bytes w = 0 →
      exec (.registerRead i a w) s = .next { s with rsp := readP s i n r } ∧
      ∀ (v : BitVec 64) (c : Cycle) (pass : Bool),
        exec (.registerWrite i a w v c pass) s = .next { writeP i c n r v s with rsp := 0 }) ∧
  (∀ (s : State) (i : Ident) (v : BitVec 64) (c : Cycle) (pass : Bool), s.mayManage i →
      exec (.registerWrite i 0xB04 .w32 v c pass) s = .next { s with rsp := 0, mgmt := { s.mgmt with lease := v.extractLsb' 0 16 } } ∧
      exec (.registerWrite i 0xB20 .w64 v c pass) s =
        .next { s with rsp := 0, mgmt := { s.mgmt with intStatus := s.mgmt.intStatus &&& ~~~ v } } ∧
      exec (.registerWrite i 0xB28 .w64 v c pass) s = .next { s with rsp := 0, mgmt := { s.mgmt with intEnable := v } }) ∧
  (∀ (s : State) (i : Ident) (a : BitVec 24) (w : Width) (v : BitVec 64) (c : Cycle) (pass : Bool), s.portOpen →
      (∀ wr : Bool, permitted s i (regionOf a.toNat) wr = false → 4 ≤ Width.bytes w → a.toNat % Width.bytes w = 0 → ∃ t,
        (if wr then exec (.registerWrite i a w v c pass) s else exec (.registerRead i a w) s) = .next t ∧
        t = { s with rsp := 0, flt := t.flt, mgmt := t.mgmt, tenants := t.tenants, reqs := t.reqs, en := t.en } ∧
        t.reported (sourceId 7 3 4 24) ∧ t.mgmt.intStatus.getLsbD 16 = true ∧
        t.mgmt = { s.mgmt with
          fgnIdent := i, fgnOffset := a, fgnWrite := wr, fgnTenV := decide (s.roleOf i ≠ 0),
          fgnTenant := if s.roleOf i ≠ 0 then BitVec.ofNat 6 (s.tenantOf i).val else 0,
          fgnCount := min 0xFFFF (s.mgmt.fgnCount + 1), intStatus := t.mgmt.intStatus } ∧
        (∀ n : Tenant, t.page n = if s.roleOf i ≠ 0 ∧ n = s.tenantOf i then
          { s.page n with foreign := min 0xFFFF ((s.page n).foreign + 1) } else s.page n)) ∧
      (Width.bytes w < 4 → ∃ t, exec (.registerWrite i a w v c pass) s = .next t ∧ State.reportsOnly { s with rsp := 0 } t ∧
        t.reported (sourceId 7 3 4 25))) ∧
  (∀ (s : State) (i : Ident) (a : BitVec 24) (w : Width) (v : BitVec 64) (c : Cycle) (pass : Bool),
      s.mainUp = false ∨ s.lc.state = lcScrap ∨ s.cfg.stage.toNat < 4 →
      exec (.registerWrite i a w v c pass) s = .next { s with rsp := 0 } ∧
      (s.mainUp = true → exec (.registerRead i 0 .w64) s = .next { s with rsp := 0x5440480041000100 }))
end

