-- ==== Sys2Proof/Laws/Boot.lean ====
section
/-! SUPPORT. What a write of the boot block can do: it changes the sectors of its record alone, and leaves the record in copy 1 as the
newest slot (16 R578). -/
namespace Sys2Proof.Machine

/-- Erasing a sector that is nearly full changes the boot block alone. -/
theorem bootTrim_frame (i : Fin 8) (n : Nvm) : bootTrim i n = { n with boot := (bootTrim i n).boot } := by
  unfold bootTrim; split <;> rfl

/-- Writing one copy of a record changes the boot block alone. -/
theorem bootPut_frame (k : Fin 4) (c : Bool) (b : Bytes) (n : Nvm) : bootPut k c b n = { n with boot := (bootPut k c b n).boot } := by
  unfold bootPut; rw [bootTrim_frame]; rfl

/-- Writing a record changes the boot block alone. -/
theorem bootWrite_frame (k : Fin 4) (b : Bytes) (n : Nvm) : bootWrite k b n = { n with boot := (bootWrite k b n).boot } := by
  unfold bootWrite; rw [bootPut_frame, bootPut_frame k false]

/-- A new image pointer is in force, and of the NVM only the boot block changes with it. -/
theorem writeImgPtr_frame (p : ImagePtr) (n : Nvm) :
    writeImgPtr p n = { n with imgPtr := p, boot := (writeImgPtr p n).boot } := by
  unfold writeImgPtr; rw [bootWrite_frame]

/-- A new epoch is in force, and of the NVM only the boot block changes with it. -/
theorem putEpoch_frame (e : Nat) (n : Nvm) : putEpoch e n = { n with epoch := e, boot := (putEpoch e n).boot } := by
  unfold putEpoch; rw [bootWrite_frame]

/-- Both copies of the journal hold what is written, and of the rest of the NVM only the boot block changes. -/
theorem setJournal_frame (j : Option Journal) (n : Nvm) :
    n.setJournal j = { n with journal0 := j, journal1 := j, boot := (n.setJournal j).boot } := by
  unfold Nvm.setJournal; rw [bootWrite_frame]

/-- The copy written after the other one holds the record in its newest slot. -/
theorem bootWrite_newest (k : Fin 4) (b : Bytes) (n : Nvm) :
    ((bootWrite k b n).boot[bootSector k true]).getLast? = some b := by
  have h : bootSector k true ≠ bootSector k false := by intro h; have := Fin.val_eq_of_eq h; simp [bootSector] at this
  have h' : (bootSector k false).val ≠ (bootSector k true).val := fun e => h (Fin.ext e.symm)
  unfold bootWrite bootPut
  generalize bootTrim _ (bootAppend (bootSector k false) b n) = m
  unfold bootTrim bootAppend
  split <;> simp [h']

end Sys2Proof.Machine
end

