-- ==== Sys2Proof/Laws/State.lean ====
section
/-! SUPPORT. Small facts about the updates of the state, and the parts of it that few operations change. -/
namespace Sys2Proof.Machine

/-! `State.updPage` changes the field `tenants` alone. -/

@[simp] theorem State.updPage_pending (s : State) (t : Tenant) (f : TenantPage → TenantPage) : (s.updPage t f).pending = s.pending := rfl
@[simp] theorem State.updPage_drawn (s : State) (t : Tenant) (f : TenantPage → TenantPage) : (s.updPage t f).drawn = s.drawn := rfl
@[simp] theorem State.updPage_tick (s : State) (t : Tenant) (f : TenantPage → TenantPage) : (s.updPage t f).tick = s.tick := rfl
@[simp] theorem State.updPage_wall (s : State) (t : Tenant) (f : TenantPage → TenantPage) : (s.updPage t f).wall = s.wall := rfl
@[simp] theorem State.updPage_mainUp (s : State) (t : Tenant) (f : TenantPage → TenantPage) : (s.updPage t f).mainUp = s.mainUp := rfl
@[simp] theorem State.updPage_rsp (s : State) (t : Tenant) (f : TenantPage → TenantPage) : (s.updPage t f).rsp = s.rsp := rfl
@[simp] theorem State.updPage_tenants (s : State) (t : Tenant) (f : TenantPage → TenantPage) : (s.updPage t f).tenants = s.tenants.set t (f s.tenants[t]) := rfl
@[simp] theorem State.updPage_mgmt (s : State) (t : Tenant) (f : TenantPage → TenantPage) : (s.updPage t f).mgmt = s.mgmt := rfl
@[simp] theorem State.updPage_tt (s : State) (t : Tenant) (f : TenantPage → TenantPage) : (s.updPage t f).tt = s.tt := rfl
@[simp] theorem State.updPage_reqs (s : State) (t : Tenant) (f : TenantPage → TenantPage) : (s.updPage t f).reqs = s.reqs := rfl
@[simp] theorem State.updPage_ended (s : State) (t : Tenant) (f : TenantPage → TenantPage) : (s.updPage t f).ended = s.ended := rfl
@[simp] theorem State.updPage_nextRid (s : State) (t : Tenant) (f : TenantPage → TenantPage) : (s.updPage t f).nextRid = s.nextRid := rfl
@[simp] theorem State.updPage_fab (s : State) (t : Tenant) (f : TenantPage → TenantPage) : (s.updPage t f).fab = s.fab := rfl
@[simp] theorem State.updPage_cs (s : State) (t : Tenant) (f : TenantPage → TenantPage) : (s.updPage t f).cs = s.cs := rfl
@[simp] theorem State.updPage_ds (s : State) (t : Tenant) (f : TenantPage → TenantPage) : (s.updPage t f).ds = s.ds := rfl
@[simp] theorem State.updPage_vs (s : State) (t : Tenant) (f : TenantPage → TenantPage) : (s.updPage t f).vs = s.vs := rfl
@[simp] theorem State.updPage_ss (s : State) (t : Tenant) (f : TenantPage → TenantPage) : (s.updPage t f).ss = s.ss := rfl
@[simp] theorem State.updPage_ks (s : State) (t : Tenant) (f : TenantPage → TenantPage) : (s.updPage t f).ks = s.ks := rfl
@[simp] theorem State.updPage_en (s : State) (t : Tenant) (f : TenantPage → TenantPage) : (s.updPage t f).en = s.en := rfl
@[simp] theorem State.updPage_stations (s : State) (t : Tenant) (f : TenantPage → TenantPage) : (s.updPage t f).stations = s.stations := rfl
@[simp] theorem State.updPage_pwr (s : State) (t : Tenant) (f : TenantPage → TenantPage) : (s.updPage t f).pwr = s.pwr := rfl
@[simp] theorem State.updPage_aon (s : State) (t : Tenant) (f : TenantPage → TenantPage) : (s.updPage t f).aon = s.aon := rfl
@[simp] theorem State.updPage_otp (s : State) (t : Tenant) (f : TenantPage → TenantPage) : (s.updPage t f).otp = s.otp := rfl
@[simp] theorem State.updPage_nvm (s : State) (t : Tenant) (f : TenantPage → TenantPage) : (s.updPage t f).nvm = s.nvm := rfl
@[simp] theorem State.updPage_lc (s : State) (t : Tenant) (f : TenantPage → TenantPage) : (s.updPage t f).lc = s.lc := rfl
@[simp] theorem State.updPage_dbg (s : State) (t : Tenant) (f : TenantPage → TenantPage) : (s.updPage t f).dbg = s.dbg := rfl
@[simp] theorem State.updPage_procs (s : State) (t : Tenant) (f : TenantPage → TenantPage) : (s.updPage t f).procs = s.procs := rfl
@[simp] theorem State.updPage_cfg (s : State) (t : Tenant) (f : TenantPage → TenantPage) : (s.updPage t f).cfg = s.cfg := rfl
@[simp] theorem State.updPage_flt (s : State) (t : Tenant) (f : TenantPage → TenantPage) : (s.updPage t f).flt = s.flt := rfl

/-! `State.updMgmt` changes the field `mgmt` alone. -/

@[simp] theorem State.updMgmt_pending (s : State) (f : Mgmt → Mgmt) : (s.updMgmt f).pending = s.pending := rfl
@[simp] theorem State.updMgmt_drawn (s : State) (f : Mgmt → Mgmt) : (s.updMgmt f).drawn = s.drawn := rfl
@[simp] theorem State.updMgmt_tick (s : State) (f : Mgmt → Mgmt) : (s.updMgmt f).tick = s.tick := rfl
@[simp] theorem State.updMgmt_wall (s : State) (f : Mgmt → Mgmt) : (s.updMgmt f).wall = s.wall := rfl
@[simp] theorem State.updMgmt_mainUp (s : State) (f : Mgmt → Mgmt) : (s.updMgmt f).mainUp = s.mainUp := rfl
@[simp] theorem State.updMgmt_rsp (s : State) (f : Mgmt → Mgmt) : (s.updMgmt f).rsp = s.rsp := rfl
@[simp] theorem State.updMgmt_tenants (s : State) (f : Mgmt → Mgmt) : (s.updMgmt f).tenants = s.tenants := rfl
@[simp] theorem State.updMgmt_mgmt (s : State) (f : Mgmt → Mgmt) : (s.updMgmt f).mgmt = f s.mgmt := rfl
@[simp] theorem State.updMgmt_tt (s : State) (f : Mgmt → Mgmt) : (s.updMgmt f).tt = s.tt := rfl
@[simp] theorem State.updMgmt_reqs (s : State) (f : Mgmt → Mgmt) : (s.updMgmt f).reqs = s.reqs := rfl
@[simp] theorem State.updMgmt_ended (s : State) (f : Mgmt → Mgmt) : (s.updMgmt f).ended = s.ended := rfl
@[simp] theorem State.updMgmt_nextRid (s : State) (f : Mgmt → Mgmt) : (s.updMgmt f).nextRid = s.nextRid := rfl
@[simp] theorem State.updMgmt_fab (s : State) (f : Mgmt → Mgmt) : (s.updMgmt f).fab = s.fab := rfl
@[simp] theorem State.updMgmt_cs (s : State) (f : Mgmt → Mgmt) : (s.updMgmt f).cs = s.cs := rfl
@[simp] theorem State.updMgmt_ds (s : State) (f : Mgmt → Mgmt) : (s.updMgmt f).ds = s.ds := rfl
@[simp] theorem State.updMgmt_vs (s : State) (f : Mgmt → Mgmt) : (s.updMgmt f).vs = s.vs := rfl
@[simp] theorem State.updMgmt_ss (s : State) (f : Mgmt → Mgmt) : (s.updMgmt f).ss = s.ss := rfl
@[simp] theorem State.updMgmt_ks (s : State) (f : Mgmt → Mgmt) : (s.updMgmt f).ks = s.ks := rfl
@[simp] theorem State.updMgmt_en (s : State) (f : Mgmt → Mgmt) : (s.updMgmt f).en = s.en := rfl
@[simp] theorem State.updMgmt_stations (s : State) (f : Mgmt → Mgmt) : (s.updMgmt f).stations = s.stations := rfl
@[simp] theorem State.updMgmt_pwr (s : State) (f : Mgmt → Mgmt) : (s.updMgmt f).pwr = s.pwr := rfl
@[simp] theorem State.updMgmt_aon (s : State) (f : Mgmt → Mgmt) : (s.updMgmt f).aon = s.aon := rfl
@[simp] theorem State.updMgmt_otp (s : State) (f : Mgmt → Mgmt) : (s.updMgmt f).otp = s.otp := rfl
@[simp] theorem State.updMgmt_nvm (s : State) (f : Mgmt → Mgmt) : (s.updMgmt f).nvm = s.nvm := rfl
@[simp] theorem State.updMgmt_lc (s : State) (f : Mgmt → Mgmt) : (s.updMgmt f).lc = s.lc := rfl
@[simp] theorem State.updMgmt_dbg (s : State) (f : Mgmt → Mgmt) : (s.updMgmt f).dbg = s.dbg := rfl
@[simp] theorem State.updMgmt_procs (s : State) (f : Mgmt → Mgmt) : (s.updMgmt f).procs = s.procs := rfl
@[simp] theorem State.updMgmt_cfg (s : State) (f : Mgmt → Mgmt) : (s.updMgmt f).cfg = s.cfg := rfl
@[simp] theorem State.updMgmt_flt (s : State) (f : Mgmt → Mgmt) : (s.updMgmt f).flt = s.flt := rfl

/-! `State.updTt` changes the field `tt` alone. -/

@[simp] theorem State.updTt_pending (s : State) (f : Timetable → Timetable) : (s.updTt f).pending = s.pending := rfl
@[simp] theorem State.updTt_drawn (s : State) (f : Timetable → Timetable) : (s.updTt f).drawn = s.drawn := rfl
@[simp] theorem State.updTt_tick (s : State) (f : Timetable → Timetable) : (s.updTt f).tick = s.tick := rfl
@[simp] theorem State.updTt_wall (s : State) (f : Timetable → Timetable) : (s.updTt f).wall = s.wall := rfl
@[simp] theorem State.updTt_mainUp (s : State) (f : Timetable → Timetable) : (s.updTt f).mainUp = s.mainUp := rfl
@[simp] theorem State.updTt_rsp (s : State) (f : Timetable → Timetable) : (s.updTt f).rsp = s.rsp := rfl
@[simp] theorem State.updTt_tenants (s : State) (f : Timetable → Timetable) : (s.updTt f).tenants = s.tenants := rfl
@[simp] theorem State.updTt_mgmt (s : State) (f : Timetable → Timetable) : (s.updTt f).mgmt = s.mgmt := rfl
@[simp] theorem State.updTt_tt (s : State) (f : Timetable → Timetable) : (s.updTt f).tt = f s.tt := rfl
@[simp] theorem State.updTt_reqs (s : State) (f : Timetable → Timetable) : (s.updTt f).reqs = s.reqs := rfl
@[simp] theorem State.updTt_ended (s : State) (f : Timetable → Timetable) : (s.updTt f).ended = s.ended := rfl
@[simp] theorem State.updTt_nextRid (s : State) (f : Timetable → Timetable) : (s.updTt f).nextRid = s.nextRid := rfl
@[simp] theorem State.updTt_fab (s : State) (f : Timetable → Timetable) : (s.updTt f).fab = s.fab := rfl
@[simp] theorem State.updTt_cs (s : State) (f : Timetable → Timetable) : (s.updTt f).cs = s.cs := rfl
@[simp] theorem State.updTt_ds (s : State) (f : Timetable → Timetable) : (s.updTt f).ds = s.ds := rfl
@[simp] theorem State.updTt_vs (s : State) (f : Timetable → Timetable) : (s.updTt f).vs = s.vs := rfl
@[simp] theorem State.updTt_ss (s : State) (f : Timetable → Timetable) : (s.updTt f).ss = s.ss := rfl
@[simp] theorem State.updTt_ks (s : State) (f : Timetable → Timetable) : (s.updTt f).ks = s.ks := rfl
@[simp] theorem State.updTt_en (s : State) (f : Timetable → Timetable) : (s.updTt f).en = s.en := rfl
@[simp] theorem State.updTt_stations (s : State) (f : Timetable → Timetable) : (s.updTt f).stations = s.stations := rfl
@[simp] theorem State.updTt_pwr (s : State) (f : Timetable → Timetable) : (s.updTt f).pwr = s.pwr := rfl
@[simp] theorem State.updTt_aon (s : State) (f : Timetable → Timetable) : (s.updTt f).aon = s.aon := rfl
@[simp] theorem State.updTt_otp (s : State) (f : Timetable → Timetable) : (s.updTt f).otp = s.otp := rfl
@[simp] theorem State.updTt_nvm (s : State) (f : Timetable → Timetable) : (s.updTt f).nvm = s.nvm := rfl
@[simp] theorem State.updTt_lc (s : State) (f : Timetable → Timetable) : (s.updTt f).lc = s.lc := rfl
@[simp] theorem State.updTt_dbg (s : State) (f : Timetable → Timetable) : (s.updTt f).dbg = s.dbg := rfl
@[simp] theorem State.updTt_procs (s : State) (f : Timetable → Timetable) : (s.updTt f).procs = s.procs := rfl
@[simp] theorem State.updTt_cfg (s : State) (f : Timetable → Timetable) : (s.updTt f).cfg = s.cfg := rfl
@[simp] theorem State.updTt_flt (s : State) (f : Timetable → Timetable) : (s.updTt f).flt = s.flt := rfl

/-! `State.updFab` changes the field `fab` alone. -/

@[simp] theorem State.updFab_pending (s : State) (f : Fabric → Fabric) : (s.updFab f).pending = s.pending := rfl
@[simp] theorem State.updFab_drawn (s : State) (f : Fabric → Fabric) : (s.updFab f).drawn = s.drawn := rfl
@[simp] theorem State.updFab_tick (s : State) (f : Fabric → Fabric) : (s.updFab f).tick = s.tick := rfl
@[simp] theorem State.updFab_wall (s : State) (f : Fabric → Fabric) : (s.updFab f).wall = s.wall := rfl
@[simp] theorem State.updFab_mainUp (s : State) (f : Fabric → Fabric) : (s.updFab f).mainUp = s.mainUp := rfl
@[simp] theorem State.updFab_rsp (s : State) (f : Fabric → Fabric) : (s.updFab f).rsp = s.rsp := rfl
@[simp] theorem State.updFab_tenants (s : State) (f : Fabric → Fabric) : (s.updFab f).tenants = s.tenants := rfl
@[simp] theorem State.updFab_mgmt (s : State) (f : Fabric → Fabric) : (s.updFab f).mgmt = s.mgmt := rfl
@[simp] theorem State.updFab_tt (s : State) (f : Fabric → Fabric) : (s.updFab f).tt = s.tt := rfl
@[simp] theorem State.updFab_reqs (s : State) (f : Fabric → Fabric) : (s.updFab f).reqs = s.reqs := rfl
@[simp] theorem State.updFab_ended (s : State) (f : Fabric → Fabric) : (s.updFab f).ended = s.ended := rfl
@[simp] theorem State.updFab_nextRid (s : State) (f : Fabric → Fabric) : (s.updFab f).nextRid = s.nextRid := rfl
@[simp] theorem State.updFab_fab (s : State) (f : Fabric → Fabric) : (s.updFab f).fab = f s.fab := rfl
@[simp] theorem State.updFab_cs (s : State) (f : Fabric → Fabric) : (s.updFab f).cs = s.cs := rfl
@[simp] theorem State.updFab_ds (s : State) (f : Fabric → Fabric) : (s.updFab f).ds = s.ds := rfl
@[simp] theorem State.updFab_vs (s : State) (f : Fabric → Fabric) : (s.updFab f).vs = s.vs := rfl
@[simp] theorem State.updFab_ss (s : State) (f : Fabric → Fabric) : (s.updFab f).ss = s.ss := rfl
@[simp] theorem State.updFab_ks (s : State) (f : Fabric → Fabric) : (s.updFab f).ks = s.ks := rfl
@[simp] theorem State.updFab_en (s : State) (f : Fabric → Fabric) : (s.updFab f).en = s.en := rfl
@[simp] theorem State.updFab_stations (s : State) (f : Fabric → Fabric) : (s.updFab f).stations = s.stations := rfl
@[simp] theorem State.updFab_pwr (s : State) (f : Fabric → Fabric) : (s.updFab f).pwr = s.pwr := rfl
@[simp] theorem State.updFab_aon (s : State) (f : Fabric → Fabric) : (s.updFab f).aon = s.aon := rfl
@[simp] theorem State.updFab_otp (s : State) (f : Fabric → Fabric) : (s.updFab f).otp = s.otp := rfl
@[simp] theorem State.updFab_nvm (s : State) (f : Fabric → Fabric) : (s.updFab f).nvm = s.nvm := rfl
@[simp] theorem State.updFab_lc (s : State) (f : Fabric → Fabric) : (s.updFab f).lc = s.lc := rfl
@[simp] theorem State.updFab_dbg (s : State) (f : Fabric → Fabric) : (s.updFab f).dbg = s.dbg := rfl
@[simp] theorem State.updFab_procs (s : State) (f : Fabric → Fabric) : (s.updFab f).procs = s.procs := rfl
@[simp] theorem State.updFab_cfg (s : State) (f : Fabric → Fabric) : (s.updFab f).cfg = s.cfg := rfl
@[simp] theorem State.updFab_flt (s : State) (f : Fabric → Fabric) : (s.updFab f).flt = s.flt := rfl

/-! `State.updVs` changes the field `vs` alone. -/

@[simp] theorem State.updVs_pending (s : State) (f : Verify → Verify) : (s.updVs f).pending = s.pending := rfl
@[simp] theorem State.updVs_drawn (s : State) (f : Verify → Verify) : (s.updVs f).drawn = s.drawn := rfl
@[simp] theorem State.updVs_tick (s : State) (f : Verify → Verify) : (s.updVs f).tick = s.tick := rfl
@[simp] theorem State.updVs_wall (s : State) (f : Verify → Verify) : (s.updVs f).wall = s.wall := rfl
@[simp] theorem State.updVs_mainUp (s : State) (f : Verify → Verify) : (s.updVs f).mainUp = s.mainUp := rfl
@[simp] theorem State.updVs_rsp (s : State) (f : Verify → Verify) : (s.updVs f).rsp = s.rsp := rfl
@[simp] theorem State.updVs_tenants (s : State) (f : Verify → Verify) : (s.updVs f).tenants = s.tenants := rfl
@[simp] theorem State.updVs_mgmt (s : State) (f : Verify → Verify) : (s.updVs f).mgmt = s.mgmt := rfl
@[simp] theorem State.updVs_tt (s : State) (f : Verify → Verify) : (s.updVs f).tt = s.tt := rfl
@[simp] theorem State.updVs_reqs (s : State) (f : Verify → Verify) : (s.updVs f).reqs = s.reqs := rfl
@[simp] theorem State.updVs_ended (s : State) (f : Verify → Verify) : (s.updVs f).ended = s.ended := rfl
@[simp] theorem State.updVs_nextRid (s : State) (f : Verify → Verify) : (s.updVs f).nextRid = s.nextRid := rfl
@[simp] theorem State.updVs_fab (s : State) (f : Verify → Verify) : (s.updVs f).fab = s.fab := rfl
@[simp] theorem State.updVs_cs (s : State) (f : Verify → Verify) : (s.updVs f).cs = s.cs := rfl
@[simp] theorem State.updVs_ds (s : State) (f : Verify → Verify) : (s.updVs f).ds = s.ds := rfl
@[simp] theorem State.updVs_vs (s : State) (f : Verify → Verify) : (s.updVs f).vs = f s.vs := rfl
@[simp] theorem State.updVs_ss (s : State) (f : Verify → Verify) : (s.updVs f).ss = s.ss := rfl
@[simp] theorem State.updVs_ks (s : State) (f : Verify → Verify) : (s.updVs f).ks = s.ks := rfl
@[simp] theorem State.updVs_en (s : State) (f : Verify → Verify) : (s.updVs f).en = s.en := rfl
@[simp] theorem State.updVs_stations (s : State) (f : Verify → Verify) : (s.updVs f).stations = s.stations := rfl
@[simp] theorem State.updVs_pwr (s : State) (f : Verify → Verify) : (s.updVs f).pwr = s.pwr := rfl
@[simp] theorem State.updVs_aon (s : State) (f : Verify → Verify) : (s.updVs f).aon = s.aon := rfl
@[simp] theorem State.updVs_otp (s : State) (f : Verify → Verify) : (s.updVs f).otp = s.otp := rfl
@[simp] theorem State.updVs_nvm (s : State) (f : Verify → Verify) : (s.updVs f).nvm = s.nvm := rfl
@[simp] theorem State.updVs_lc (s : State) (f : Verify → Verify) : (s.updVs f).lc = s.lc := rfl
@[simp] theorem State.updVs_dbg (s : State) (f : Verify → Verify) : (s.updVs f).dbg = s.dbg := rfl
@[simp] theorem State.updVs_procs (s : State) (f : Verify → Verify) : (s.updVs f).procs = s.procs := rfl
@[simp] theorem State.updVs_cfg (s : State) (f : Verify → Verify) : (s.updVs f).cfg = s.cfg := rfl
@[simp] theorem State.updVs_flt (s : State) (f : Verify → Verify) : (s.updVs f).flt = s.flt := rfl

/-! `State.updSs` changes the field `ss` alone. -/

@[simp] theorem State.updSs_pending (s : State) (f : Sealed → Sealed) : (s.updSs f).pending = s.pending := rfl
@[simp] theorem State.updSs_drawn (s : State) (f : Sealed → Sealed) : (s.updSs f).drawn = s.drawn := rfl
@[simp] theorem State.updSs_tick (s : State) (f : Sealed → Sealed) : (s.updSs f).tick = s.tick := rfl
@[simp] theorem State.updSs_wall (s : State) (f : Sealed → Sealed) : (s.updSs f).wall = s.wall := rfl
@[simp] theorem State.updSs_mainUp (s : State) (f : Sealed → Sealed) : (s.updSs f).mainUp = s.mainUp := rfl
@[simp] theorem State.updSs_rsp (s : State) (f : Sealed → Sealed) : (s.updSs f).rsp = s.rsp := rfl
@[simp] theorem State.updSs_tenants (s : State) (f : Sealed → Sealed) : (s.updSs f).tenants = s.tenants := rfl
@[simp] theorem State.updSs_mgmt (s : State) (f : Sealed → Sealed) : (s.updSs f).mgmt = s.mgmt := rfl
@[simp] theorem State.updSs_tt (s : State) (f : Sealed → Sealed) : (s.updSs f).tt = s.tt := rfl
@[simp] theorem State.updSs_reqs (s : State) (f : Sealed → Sealed) : (s.updSs f).reqs = s.reqs := rfl
@[simp] theorem State.updSs_ended (s : State) (f : Sealed → Sealed) : (s.updSs f).ended = s.ended := rfl
@[simp] theorem State.updSs_nextRid (s : State) (f : Sealed → Sealed) : (s.updSs f).nextRid = s.nextRid := rfl
@[simp] theorem State.updSs_fab (s : State) (f : Sealed → Sealed) : (s.updSs f).fab = s.fab := rfl
@[simp] theorem State.updSs_cs (s : State) (f : Sealed → Sealed) : (s.updSs f).cs = s.cs := rfl
@[simp] theorem State.updSs_ds (s : State) (f : Sealed → Sealed) : (s.updSs f).ds = s.ds := rfl
@[simp] theorem State.updSs_vs (s : State) (f : Sealed → Sealed) : (s.updSs f).vs = s.vs := rfl
@[simp] theorem State.updSs_ss (s : State) (f : Sealed → Sealed) : (s.updSs f).ss = f s.ss := rfl
@[simp] theorem State.updSs_ks (s : State) (f : Sealed → Sealed) : (s.updSs f).ks = s.ks := rfl
@[simp] theorem State.updSs_en (s : State) (f : Sealed → Sealed) : (s.updSs f).en = s.en := rfl
@[simp] theorem State.updSs_stations (s : State) (f : Sealed → Sealed) : (s.updSs f).stations = s.stations := rfl
@[simp] theorem State.updSs_pwr (s : State) (f : Sealed → Sealed) : (s.updSs f).pwr = s.pwr := rfl
@[simp] theorem State.updSs_aon (s : State) (f : Sealed → Sealed) : (s.updSs f).aon = s.aon := rfl
@[simp] theorem State.updSs_otp (s : State) (f : Sealed → Sealed) : (s.updSs f).otp = s.otp := rfl
@[simp] theorem State.updSs_nvm (s : State) (f : Sealed → Sealed) : (s.updSs f).nvm = s.nvm := rfl
@[simp] theorem State.updSs_lc (s : State) (f : Sealed → Sealed) : (s.updSs f).lc = s.lc := rfl
@[simp] theorem State.updSs_dbg (s : State) (f : Sealed → Sealed) : (s.updSs f).dbg = s.dbg := rfl
@[simp] theorem State.updSs_procs (s : State) (f : Sealed → Sealed) : (s.updSs f).procs = s.procs := rfl
@[simp] theorem State.updSs_cfg (s : State) (f : Sealed → Sealed) : (s.updSs f).cfg = s.cfg := rfl
@[simp] theorem State.updSs_flt (s : State) (f : Sealed → Sealed) : (s.updSs f).flt = s.flt := rfl

/-! `State.updKs` changes the field `ks` alone. -/

@[simp] theorem State.updKs_pending (s : State) (f : Custody → Custody) : (s.updKs f).pending = s.pending := rfl
@[simp] theorem State.updKs_drawn (s : State) (f : Custody → Custody) : (s.updKs f).drawn = s.drawn := rfl
@[simp] theorem State.updKs_tick (s : State) (f : Custody → Custody) : (s.updKs f).tick = s.tick := rfl
@[simp] theorem State.updKs_wall (s : State) (f : Custody → Custody) : (s.updKs f).wall = s.wall := rfl
@[simp] theorem State.updKs_mainUp (s : State) (f : Custody → Custody) : (s.updKs f).mainUp = s.mainUp := rfl
@[simp] theorem State.updKs_rsp (s : State) (f : Custody → Custody) : (s.updKs f).rsp = s.rsp := rfl
@[simp] theorem State.updKs_tenants (s : State) (f : Custody → Custody) : (s.updKs f).tenants = s.tenants := rfl
@[simp] theorem State.updKs_mgmt (s : State) (f : Custody → Custody) : (s.updKs f).mgmt = s.mgmt := rfl
@[simp] theorem State.updKs_tt (s : State) (f : Custody → Custody) : (s.updKs f).tt = s.tt := rfl
@[simp] theorem State.updKs_reqs (s : State) (f : Custody → Custody) : (s.updKs f).reqs = s.reqs := rfl
@[simp] theorem State.updKs_ended (s : State) (f : Custody → Custody) : (s.updKs f).ended = s.ended := rfl
@[simp] theorem State.updKs_nextRid (s : State) (f : Custody → Custody) : (s.updKs f).nextRid = s.nextRid := rfl
@[simp] theorem State.updKs_fab (s : State) (f : Custody → Custody) : (s.updKs f).fab = s.fab := rfl
@[simp] theorem State.updKs_cs (s : State) (f : Custody → Custody) : (s.updKs f).cs = s.cs := rfl
@[simp] theorem State.updKs_ds (s : State) (f : Custody → Custody) : (s.updKs f).ds = s.ds := rfl
@[simp] theorem State.updKs_vs (s : State) (f : Custody → Custody) : (s.updKs f).vs = s.vs := rfl
@[simp] theorem State.updKs_ss (s : State) (f : Custody → Custody) : (s.updKs f).ss = s.ss := rfl
@[simp] theorem State.updKs_ks (s : State) (f : Custody → Custody) : (s.updKs f).ks = f s.ks := rfl
@[simp] theorem State.updKs_en (s : State) (f : Custody → Custody) : (s.updKs f).en = s.en := rfl
@[simp] theorem State.updKs_stations (s : State) (f : Custody → Custody) : (s.updKs f).stations = s.stations := rfl
@[simp] theorem State.updKs_pwr (s : State) (f : Custody → Custody) : (s.updKs f).pwr = s.pwr := rfl
@[simp] theorem State.updKs_aon (s : State) (f : Custody → Custody) : (s.updKs f).aon = s.aon := rfl
@[simp] theorem State.updKs_otp (s : State) (f : Custody → Custody) : (s.updKs f).otp = s.otp := rfl
@[simp] theorem State.updKs_nvm (s : State) (f : Custody → Custody) : (s.updKs f).nvm = s.nvm := rfl
@[simp] theorem State.updKs_lc (s : State) (f : Custody → Custody) : (s.updKs f).lc = s.lc := rfl
@[simp] theorem State.updKs_dbg (s : State) (f : Custody → Custody) : (s.updKs f).dbg = s.dbg := rfl
@[simp] theorem State.updKs_procs (s : State) (f : Custody → Custody) : (s.updKs f).procs = s.procs := rfl
@[simp] theorem State.updKs_cfg (s : State) (f : Custody → Custody) : (s.updKs f).cfg = s.cfg := rfl
@[simp] theorem State.updKs_flt (s : State) (f : Custody → Custody) : (s.updKs f).flt = s.flt := rfl

/-! `State.updEn` changes the field `en` alone. -/

@[simp] theorem State.updEn_pending (s : State) (f : Entropy → Entropy) : (s.updEn f).pending = s.pending := rfl
@[simp] theorem State.updEn_drawn (s : State) (f : Entropy → Entropy) : (s.updEn f).drawn = s.drawn := rfl
@[simp] theorem State.updEn_tick (s : State) (f : Entropy → Entropy) : (s.updEn f).tick = s.tick := rfl
@[simp] theorem State.updEn_wall (s : State) (f : Entropy → Entropy) : (s.updEn f).wall = s.wall := rfl
@[simp] theorem State.updEn_mainUp (s : State) (f : Entropy → Entropy) : (s.updEn f).mainUp = s.mainUp := rfl
@[simp] theorem State.updEn_rsp (s : State) (f : Entropy → Entropy) : (s.updEn f).rsp = s.rsp := rfl
@[simp] theorem State.updEn_tenants (s : State) (f : Entropy → Entropy) : (s.updEn f).tenants = s.tenants := rfl
@[simp] theorem State.updEn_mgmt (s : State) (f : Entropy → Entropy) : (s.updEn f).mgmt = s.mgmt := rfl
@[simp] theorem State.updEn_tt (s : State) (f : Entropy → Entropy) : (s.updEn f).tt = s.tt := rfl
@[simp] theorem State.updEn_reqs (s : State) (f : Entropy → Entropy) : (s.updEn f).reqs = s.reqs := rfl
@[simp] theorem State.updEn_ended (s : State) (f : Entropy → Entropy) : (s.updEn f).ended = s.ended := rfl
@[simp] theorem State.updEn_nextRid (s : State) (f : Entropy → Entropy) : (s.updEn f).nextRid = s.nextRid := rfl
@[simp] theorem State.updEn_fab (s : State) (f : Entropy → Entropy) : (s.updEn f).fab = s.fab := rfl
@[simp] theorem State.updEn_cs (s : State) (f : Entropy → Entropy) : (s.updEn f).cs = s.cs := rfl
@[simp] theorem State.updEn_ds (s : State) (f : Entropy → Entropy) : (s.updEn f).ds = s.ds := rfl
@[simp] theorem State.updEn_vs (s : State) (f : Entropy → Entropy) : (s.updEn f).vs = s.vs := rfl
@[simp] theorem State.updEn_ss (s : State) (f : Entropy → Entropy) : (s.updEn f).ss = s.ss := rfl
@[simp] theorem State.updEn_ks (s : State) (f : Entropy → Entropy) : (s.updEn f).ks = s.ks := rfl
@[simp] theorem State.updEn_en (s : State) (f : Entropy → Entropy) : (s.updEn f).en = f s.en := rfl
@[simp] theorem State.updEn_stations (s : State) (f : Entropy → Entropy) : (s.updEn f).stations = s.stations := rfl
@[simp] theorem State.updEn_pwr (s : State) (f : Entropy → Entropy) : (s.updEn f).pwr = s.pwr := rfl
@[simp] theorem State.updEn_aon (s : State) (f : Entropy → Entropy) : (s.updEn f).aon = s.aon := rfl
@[simp] theorem State.updEn_otp (s : State) (f : Entropy → Entropy) : (s.updEn f).otp = s.otp := rfl
@[simp] theorem State.updEn_nvm (s : State) (f : Entropy → Entropy) : (s.updEn f).nvm = s.nvm := rfl
@[simp] theorem State.updEn_lc (s : State) (f : Entropy → Entropy) : (s.updEn f).lc = s.lc := rfl
@[simp] theorem State.updEn_dbg (s : State) (f : Entropy → Entropy) : (s.updEn f).dbg = s.dbg := rfl
@[simp] theorem State.updEn_procs (s : State) (f : Entropy → Entropy) : (s.updEn f).procs = s.procs := rfl
@[simp] theorem State.updEn_cfg (s : State) (f : Entropy → Entropy) : (s.updEn f).cfg = s.cfg := rfl
@[simp] theorem State.updEn_flt (s : State) (f : Entropy → Entropy) : (s.updEn f).flt = s.flt := rfl

/-! `State.updPwr` changes the field `pwr` alone. -/

@[simp] theorem State.updPwr_pending (s : State) (f : Power → Power) : (s.updPwr f).pending = s.pending := rfl
@[simp] theorem State.updPwr_drawn (s : State) (f : Power → Power) : (s.updPwr f).drawn = s.drawn := rfl
@[simp] theorem State.updPwr_tick (s : State) (f : Power → Power) : (s.updPwr f).tick = s.tick := rfl
@[simp] theorem State.updPwr_wall (s : State) (f : Power → Power) : (s.updPwr f).wall = s.wall := rfl
@[simp] theorem State.updPwr_mainUp (s : State) (f : Power → Power) : (s.updPwr f).mainUp = s.mainUp := rfl
@[simp] theorem State.updPwr_rsp (s : State) (f : Power → Power) : (s.updPwr f).rsp = s.rsp := rfl
@[simp] theorem State.updPwr_tenants (s : State) (f : Power → Power) : (s.updPwr f).tenants = s.tenants := rfl
@[simp] theorem State.updPwr_mgmt (s : State) (f : Power → Power) : (s.updPwr f).mgmt = s.mgmt := rfl
@[simp] theorem State.updPwr_tt (s : State) (f : Power → Power) : (s.updPwr f).tt = s.tt := rfl
@[simp] theorem State.updPwr_reqs (s : State) (f : Power → Power) : (s.updPwr f).reqs = s.reqs := rfl
@[simp] theorem State.updPwr_ended (s : State) (f : Power → Power) : (s.updPwr f).ended = s.ended := rfl
@[simp] theorem State.updPwr_nextRid (s : State) (f : Power → Power) : (s.updPwr f).nextRid = s.nextRid := rfl
@[simp] theorem State.updPwr_fab (s : State) (f : Power → Power) : (s.updPwr f).fab = s.fab := rfl
@[simp] theorem State.updPwr_cs (s : State) (f : Power → Power) : (s.updPwr f).cs = s.cs := rfl
@[simp] theorem State.updPwr_ds (s : State) (f : Power → Power) : (s.updPwr f).ds = s.ds := rfl
@[simp] theorem State.updPwr_vs (s : State) (f : Power → Power) : (s.updPwr f).vs = s.vs := rfl
@[simp] theorem State.updPwr_ss (s : State) (f : Power → Power) : (s.updPwr f).ss = s.ss := rfl
@[simp] theorem State.updPwr_ks (s : State) (f : Power → Power) : (s.updPwr f).ks = s.ks := rfl
@[simp] theorem State.updPwr_en (s : State) (f : Power → Power) : (s.updPwr f).en = s.en := rfl
@[simp] theorem State.updPwr_stations (s : State) (f : Power → Power) : (s.updPwr f).stations = s.stations := rfl
@[simp] theorem State.updPwr_pwr (s : State) (f : Power → Power) : (s.updPwr f).pwr = f s.pwr := rfl
@[simp] theorem State.updPwr_aon (s : State) (f : Power → Power) : (s.updPwr f).aon = s.aon := rfl
@[simp] theorem State.updPwr_otp (s : State) (f : Power → Power) : (s.updPwr f).otp = s.otp := rfl
@[simp] theorem State.updPwr_nvm (s : State) (f : Power → Power) : (s.updPwr f).nvm = s.nvm := rfl
@[simp] theorem State.updPwr_lc (s : State) (f : Power → Power) : (s.updPwr f).lc = s.lc := rfl
@[simp] theorem State.updPwr_dbg (s : State) (f : Power → Power) : (s.updPwr f).dbg = s.dbg := rfl
@[simp] theorem State.updPwr_procs (s : State) (f : Power → Power) : (s.updPwr f).procs = s.procs := rfl
@[simp] theorem State.updPwr_cfg (s : State) (f : Power → Power) : (s.updPwr f).cfg = s.cfg := rfl
@[simp] theorem State.updPwr_flt (s : State) (f : Power → Power) : (s.updPwr f).flt = s.flt := rfl

/-! `State.updAon` changes the field `aon` alone. -/

@[simp] theorem State.updAon_pending (s : State) (f : Aon → Aon) : (s.updAon f).pending = s.pending := rfl
@[simp] theorem State.updAon_drawn (s : State) (f : Aon → Aon) : (s.updAon f).drawn = s.drawn := rfl
@[simp] theorem State.updAon_tick (s : State) (f : Aon → Aon) : (s.updAon f).tick = s.tick := rfl
@[simp] theorem State.updAon_wall (s : State) (f : Aon → Aon) : (s.updAon f).wall = s.wall := rfl
@[simp] theorem State.updAon_mainUp (s : State) (f : Aon → Aon) : (s.updAon f).mainUp = s.mainUp := rfl
@[simp] theorem State.updAon_rsp (s : State) (f : Aon → Aon) : (s.updAon f).rsp = s.rsp := rfl
@[simp] theorem State.updAon_tenants (s : State) (f : Aon → Aon) : (s.updAon f).tenants = s.tenants := rfl
@[simp] theorem State.updAon_mgmt (s : State) (f : Aon → Aon) : (s.updAon f).mgmt = s.mgmt := rfl
@[simp] theorem State.updAon_tt (s : State) (f : Aon → Aon) : (s.updAon f).tt = s.tt := rfl
@[simp] theorem State.updAon_reqs (s : State) (f : Aon → Aon) : (s.updAon f).reqs = s.reqs := rfl
@[simp] theorem State.updAon_ended (s : State) (f : Aon → Aon) : (s.updAon f).ended = s.ended := rfl
@[simp] theorem State.updAon_nextRid (s : State) (f : Aon → Aon) : (s.updAon f).nextRid = s.nextRid := rfl
@[simp] theorem State.updAon_fab (s : State) (f : Aon → Aon) : (s.updAon f).fab = s.fab := rfl
@[simp] theorem State.updAon_cs (s : State) (f : Aon → Aon) : (s.updAon f).cs = s.cs := rfl
@[simp] theorem State.updAon_ds (s : State) (f : Aon → Aon) : (s.updAon f).ds = s.ds := rfl
@[simp] theorem State.updAon_vs (s : State) (f : Aon → Aon) : (s.updAon f).vs = s.vs := rfl
@[simp] theorem State.updAon_ss (s : State) (f : Aon → Aon) : (s.updAon f).ss = s.ss := rfl
@[simp] theorem State.updAon_ks (s : State) (f : Aon → Aon) : (s.updAon f).ks = s.ks := rfl
@[simp] theorem State.updAon_en (s : State) (f : Aon → Aon) : (s.updAon f).en = s.en := rfl
@[simp] theorem State.updAon_stations (s : State) (f : Aon → Aon) : (s.updAon f).stations = s.stations := rfl
@[simp] theorem State.updAon_pwr (s : State) (f : Aon → Aon) : (s.updAon f).pwr = s.pwr := rfl
@[simp] theorem State.updAon_aon (s : State) (f : Aon → Aon) : (s.updAon f).aon = f s.aon := rfl
@[simp] theorem State.updAon_otp (s : State) (f : Aon → Aon) : (s.updAon f).otp = s.otp := rfl
@[simp] theorem State.updAon_nvm (s : State) (f : Aon → Aon) : (s.updAon f).nvm = s.nvm := rfl
@[simp] theorem State.updAon_lc (s : State) (f : Aon → Aon) : (s.updAon f).lc = s.lc := rfl
@[simp] theorem State.updAon_dbg (s : State) (f : Aon → Aon) : (s.updAon f).dbg = s.dbg := rfl
@[simp] theorem State.updAon_procs (s : State) (f : Aon → Aon) : (s.updAon f).procs = s.procs := rfl
@[simp] theorem State.updAon_cfg (s : State) (f : Aon → Aon) : (s.updAon f).cfg = s.cfg := rfl
@[simp] theorem State.updAon_flt (s : State) (f : Aon → Aon) : (s.updAon f).flt = s.flt := rfl

/-! `State.updNvm` changes the field `nvm` alone. -/

@[simp] theorem State.updNvm_pending (s : State) (f : Nvm → Nvm) : (s.updNvm f).pending = s.pending := rfl
@[simp] theorem State.updNvm_drawn (s : State) (f : Nvm → Nvm) : (s.updNvm f).drawn = s.drawn := rfl
@[simp] theorem State.updNvm_tick (s : State) (f : Nvm → Nvm) : (s.updNvm f).tick = s.tick := rfl
@[simp] theorem State.updNvm_wall (s : State) (f : Nvm → Nvm) : (s.updNvm f).wall = s.wall := rfl
@[simp] theorem State.updNvm_mainUp (s : State) (f : Nvm → Nvm) : (s.updNvm f).mainUp = s.mainUp := rfl
@[simp] theorem State.updNvm_rsp (s : State) (f : Nvm → Nvm) : (s.updNvm f).rsp = s.rsp := rfl
@[simp] theorem State.updNvm_tenants (s : State) (f : Nvm → Nvm) : (s.updNvm f).tenants = s.tenants := rfl
@[simp] theorem State.updNvm_mgmt (s : State) (f : Nvm → Nvm) : (s.updNvm f).mgmt = s.mgmt := rfl
@[simp] theorem State.updNvm_tt (s : State) (f : Nvm → Nvm) : (s.updNvm f).tt = s.tt := rfl
@[simp] theorem State.updNvm_reqs (s : State) (f : Nvm → Nvm) : (s.updNvm f).reqs = s.reqs := rfl
@[simp] theorem State.updNvm_ended (s : State) (f : Nvm → Nvm) : (s.updNvm f).ended = s.ended := rfl
@[simp] theorem State.updNvm_nextRid (s : State) (f : Nvm → Nvm) : (s.updNvm f).nextRid = s.nextRid := rfl
@[simp] theorem State.updNvm_fab (s : State) (f : Nvm → Nvm) : (s.updNvm f).fab = s.fab := rfl
@[simp] theorem State.updNvm_cs (s : State) (f : Nvm → Nvm) : (s.updNvm f).cs = s.cs := rfl
@[simp] theorem State.updNvm_ds (s : State) (f : Nvm → Nvm) : (s.updNvm f).ds = s.ds := rfl
@[simp] theorem State.updNvm_vs (s : State) (f : Nvm → Nvm) : (s.updNvm f).vs = s.vs := rfl
@[simp] theorem State.updNvm_ss (s : State) (f : Nvm → Nvm) : (s.updNvm f).ss = s.ss := rfl
@[simp] theorem State.updNvm_ks (s : State) (f : Nvm → Nvm) : (s.updNvm f).ks = s.ks := rfl
@[simp] theorem State.updNvm_en (s : State) (f : Nvm → Nvm) : (s.updNvm f).en = s.en := rfl
@[simp] theorem State.updNvm_stations (s : State) (f : Nvm → Nvm) : (s.updNvm f).stations = s.stations := rfl
@[simp] theorem State.updNvm_pwr (s : State) (f : Nvm → Nvm) : (s.updNvm f).pwr = s.pwr := rfl
@[simp] theorem State.updNvm_aon (s : State) (f : Nvm → Nvm) : (s.updNvm f).aon = s.aon := rfl
@[simp] theorem State.updNvm_otp (s : State) (f : Nvm → Nvm) : (s.updNvm f).otp = s.otp := rfl
@[simp] theorem State.updNvm_nvm (s : State) (f : Nvm → Nvm) : (s.updNvm f).nvm = f s.nvm := rfl
@[simp] theorem State.updNvm_lc (s : State) (f : Nvm → Nvm) : (s.updNvm f).lc = s.lc := rfl
@[simp] theorem State.updNvm_dbg (s : State) (f : Nvm → Nvm) : (s.updNvm f).dbg = s.dbg := rfl
@[simp] theorem State.updNvm_procs (s : State) (f : Nvm → Nvm) : (s.updNvm f).procs = s.procs := rfl
@[simp] theorem State.updNvm_cfg (s : State) (f : Nvm → Nvm) : (s.updNvm f).cfg = s.cfg := rfl
@[simp] theorem State.updNvm_flt (s : State) (f : Nvm → Nvm) : (s.updNvm f).flt = s.flt := rfl

/-! `State.updLc` changes the field `lc` alone. -/

@[simp] theorem State.updLc_pending (s : State) (f : LifeCycle → LifeCycle) : (s.updLc f).pending = s.pending := rfl
@[simp] theorem State.updLc_drawn (s : State) (f : LifeCycle → LifeCycle) : (s.updLc f).drawn = s.drawn := rfl
@[simp] theorem State.updLc_tick (s : State) (f : LifeCycle → LifeCycle) : (s.updLc f).tick = s.tick := rfl
@[simp] theorem State.updLc_wall (s : State) (f : LifeCycle → LifeCycle) : (s.updLc f).wall = s.wall := rfl
@[simp] theorem State.updLc_mainUp (s : State) (f : LifeCycle → LifeCycle) : (s.updLc f).mainUp = s.mainUp := rfl
@[simp] theorem State.updLc_rsp (s : State) (f : LifeCycle → LifeCycle) : (s.updLc f).rsp = s.rsp := rfl
@[simp] theorem State.updLc_tenants (s : State) (f : LifeCycle → LifeCycle) : (s.updLc f).tenants = s.tenants := rfl
@[simp] theorem State.updLc_mgmt (s : State) (f : LifeCycle → LifeCycle) : (s.updLc f).mgmt = s.mgmt := rfl
@[simp] theorem State.updLc_tt (s : State) (f : LifeCycle → LifeCycle) : (s.updLc f).tt = s.tt := rfl
@[simp] theorem State.updLc_reqs (s : State) (f : LifeCycle → LifeCycle) : (s.updLc f).reqs = s.reqs := rfl
@[simp] theorem State.updLc_ended (s : State) (f : LifeCycle → LifeCycle) : (s.updLc f).ended = s.ended := rfl
@[simp] theorem State.updLc_nextRid (s : State) (f : LifeCycle → LifeCycle) : (s.updLc f).nextRid = s.nextRid := rfl
@[simp] theorem State.updLc_fab (s : State) (f : LifeCycle → LifeCycle) : (s.updLc f).fab = s.fab := rfl
@[simp] theorem State.updLc_cs (s : State) (f : LifeCycle → LifeCycle) : (s.updLc f).cs = s.cs := rfl
@[simp] theorem State.updLc_ds (s : State) (f : LifeCycle → LifeCycle) : (s.updLc f).ds = s.ds := rfl
@[simp] theorem State.updLc_vs (s : State) (f : LifeCycle → LifeCycle) : (s.updLc f).vs = s.vs := rfl
@[simp] theorem State.updLc_ss (s : State) (f : LifeCycle → LifeCycle) : (s.updLc f).ss = s.ss := rfl
@[simp] theorem State.updLc_ks (s : State) (f : LifeCycle → LifeCycle) : (s.updLc f).ks = s.ks := rfl
@[simp] theorem State.updLc_en (s : State) (f : LifeCycle → LifeCycle) : (s.updLc f).en = s.en := rfl
@[simp] theorem State.updLc_stations (s : State) (f : LifeCycle → LifeCycle) : (s.updLc f).stations = s.stations := rfl
@[simp] theorem State.updLc_pwr (s : State) (f : LifeCycle → LifeCycle) : (s.updLc f).pwr = s.pwr := rfl
@[simp] theorem State.updLc_aon (s : State) (f : LifeCycle → LifeCycle) : (s.updLc f).aon = s.aon := rfl
@[simp] theorem State.updLc_otp (s : State) (f : LifeCycle → LifeCycle) : (s.updLc f).otp = s.otp := rfl
@[simp] theorem State.updLc_nvm (s : State) (f : LifeCycle → LifeCycle) : (s.updLc f).nvm = s.nvm := rfl
@[simp] theorem State.updLc_lc (s : State) (f : LifeCycle → LifeCycle) : (s.updLc f).lc = f s.lc := rfl
@[simp] theorem State.updLc_dbg (s : State) (f : LifeCycle → LifeCycle) : (s.updLc f).dbg = s.dbg := rfl
@[simp] theorem State.updLc_procs (s : State) (f : LifeCycle → LifeCycle) : (s.updLc f).procs = s.procs := rfl
@[simp] theorem State.updLc_cfg (s : State) (f : LifeCycle → LifeCycle) : (s.updLc f).cfg = s.cfg := rfl
@[simp] theorem State.updLc_flt (s : State) (f : LifeCycle → LifeCycle) : (s.updLc f).flt = s.flt := rfl

/-! `State.updDbg` changes the field `dbg` alone. -/

@[simp] theorem State.updDbg_pending (s : State) (f : Debug → Debug) : (s.updDbg f).pending = s.pending := rfl
@[simp] theorem State.updDbg_drawn (s : State) (f : Debug → Debug) : (s.updDbg f).drawn = s.drawn := rfl
@[simp] theorem State.updDbg_tick (s : State) (f : Debug → Debug) : (s.updDbg f).tick = s.tick := rfl
@[simp] theorem State.updDbg_wall (s : State) (f : Debug → Debug) : (s.updDbg f).wall = s.wall := rfl
@[simp] theorem State.updDbg_mainUp (s : State) (f : Debug → Debug) : (s.updDbg f).mainUp = s.mainUp := rfl
@[simp] theorem State.updDbg_rsp (s : State) (f : Debug → Debug) : (s.updDbg f).rsp = s.rsp := rfl
@[simp] theorem State.updDbg_tenants (s : State) (f : Debug → Debug) : (s.updDbg f).tenants = s.tenants := rfl
@[simp] theorem State.updDbg_mgmt (s : State) (f : Debug → Debug) : (s.updDbg f).mgmt = s.mgmt := rfl
@[simp] theorem State.updDbg_tt (s : State) (f : Debug → Debug) : (s.updDbg f).tt = s.tt := rfl
@[simp] theorem State.updDbg_reqs (s : State) (f : Debug → Debug) : (s.updDbg f).reqs = s.reqs := rfl
@[simp] theorem State.updDbg_ended (s : State) (f : Debug → Debug) : (s.updDbg f).ended = s.ended := rfl
@[simp] theorem State.updDbg_nextRid (s : State) (f : Debug → Debug) : (s.updDbg f).nextRid = s.nextRid := rfl
@[simp] theorem State.updDbg_fab (s : State) (f : Debug → Debug) : (s.updDbg f).fab = s.fab := rfl
@[simp] theorem State.updDbg_cs (s : State) (f : Debug → Debug) : (s.updDbg f).cs = s.cs := rfl
@[simp] theorem State.updDbg_ds (s : State) (f : Debug → Debug) : (s.updDbg f).ds = s.ds := rfl
@[simp] theorem State.updDbg_vs (s : State) (f : Debug → Debug) : (s.updDbg f).vs = s.vs := rfl
@[simp] theorem State.updDbg_ss (s : State) (f : Debug → Debug) : (s.updDbg f).ss = s.ss := rfl
@[simp] theorem State.updDbg_ks (s : State) (f : Debug → Debug) : (s.updDbg f).ks = s.ks := rfl
@[simp] theorem State.updDbg_en (s : State) (f : Debug → Debug) : (s.updDbg f).en = s.en := rfl
@[simp] theorem State.updDbg_stations (s : State) (f : Debug → Debug) : (s.updDbg f).stations = s.stations := rfl
@[simp] theorem State.updDbg_pwr (s : State) (f : Debug → Debug) : (s.updDbg f).pwr = s.pwr := rfl
@[simp] theorem State.updDbg_aon (s : State) (f : Debug → Debug) : (s.updDbg f).aon = s.aon := rfl
@[simp] theorem State.updDbg_otp (s : State) (f : Debug → Debug) : (s.updDbg f).otp = s.otp := rfl
@[simp] theorem State.updDbg_nvm (s : State) (f : Debug → Debug) : (s.updDbg f).nvm = s.nvm := rfl
@[simp] theorem State.updDbg_lc (s : State) (f : Debug → Debug) : (s.updDbg f).lc = s.lc := rfl
@[simp] theorem State.updDbg_dbg (s : State) (f : Debug → Debug) : (s.updDbg f).dbg = f s.dbg := rfl
@[simp] theorem State.updDbg_procs (s : State) (f : Debug → Debug) : (s.updDbg f).procs = s.procs := rfl
@[simp] theorem State.updDbg_cfg (s : State) (f : Debug → Debug) : (s.updDbg f).cfg = s.cfg := rfl
@[simp] theorem State.updDbg_flt (s : State) (f : Debug → Debug) : (s.updDbg f).flt = s.flt := rfl

/-! `State.updCfg` changes the field `cfg` alone. -/

@[simp] theorem State.updCfg_pending (s : State) (f : Config → Config) : (s.updCfg f).pending = s.pending := rfl
@[simp] theorem State.updCfg_drawn (s : State) (f : Config → Config) : (s.updCfg f).drawn = s.drawn := rfl
@[simp] theorem State.updCfg_tick (s : State) (f : Config → Config) : (s.updCfg f).tick = s.tick := rfl
@[simp] theorem State.updCfg_wall (s : State) (f : Config → Config) : (s.updCfg f).wall = s.wall := rfl
@[simp] theorem State.updCfg_mainUp (s : State) (f : Config → Config) : (s.updCfg f).mainUp = s.mainUp := rfl
@[simp] theorem State.updCfg_rsp (s : State) (f : Config → Config) : (s.updCfg f).rsp = s.rsp := rfl
@[simp] theorem State.updCfg_tenants (s : State) (f : Config → Config) : (s.updCfg f).tenants = s.tenants := rfl
@[simp] theorem State.updCfg_mgmt (s : State) (f : Config → Config) : (s.updCfg f).mgmt = s.mgmt := rfl
@[simp] theorem State.updCfg_tt (s : State) (f : Config → Config) : (s.updCfg f).tt = s.tt := rfl
@[simp] theorem State.updCfg_reqs (s : State) (f : Config → Config) : (s.updCfg f).reqs = s.reqs := rfl
@[simp] theorem State.updCfg_ended (s : State) (f : Config → Config) : (s.updCfg f).ended = s.ended := rfl
@[simp] theorem State.updCfg_nextRid (s : State) (f : Config → Config) : (s.updCfg f).nextRid = s.nextRid := rfl
@[simp] theorem State.updCfg_fab (s : State) (f : Config → Config) : (s.updCfg f).fab = s.fab := rfl
@[simp] theorem State.updCfg_cs (s : State) (f : Config → Config) : (s.updCfg f).cs = s.cs := rfl
@[simp] theorem State.updCfg_ds (s : State) (f : Config → Config) : (s.updCfg f).ds = s.ds := rfl
@[simp] theorem State.updCfg_vs (s : State) (f : Config → Config) : (s.updCfg f).vs = s.vs := rfl
@[simp] theorem State.updCfg_ss (s : State) (f : Config → Config) : (s.updCfg f).ss = s.ss := rfl
@[simp] theorem State.updCfg_ks (s : State) (f : Config → Config) : (s.updCfg f).ks = s.ks := rfl
@[simp] theorem State.updCfg_en (s : State) (f : Config → Config) : (s.updCfg f).en = s.en := rfl
@[simp] theorem State.updCfg_stations (s : State) (f : Config → Config) : (s.updCfg f).stations = s.stations := rfl
@[simp] theorem State.updCfg_pwr (s : State) (f : Config → Config) : (s.updCfg f).pwr = s.pwr := rfl
@[simp] theorem State.updCfg_aon (s : State) (f : Config → Config) : (s.updCfg f).aon = s.aon := rfl
@[simp] theorem State.updCfg_otp (s : State) (f : Config → Config) : (s.updCfg f).otp = s.otp := rfl
@[simp] theorem State.updCfg_nvm (s : State) (f : Config → Config) : (s.updCfg f).nvm = s.nvm := rfl
@[simp] theorem State.updCfg_lc (s : State) (f : Config → Config) : (s.updCfg f).lc = s.lc := rfl
@[simp] theorem State.updCfg_dbg (s : State) (f : Config → Config) : (s.updCfg f).dbg = s.dbg := rfl
@[simp] theorem State.updCfg_procs (s : State) (f : Config → Config) : (s.updCfg f).procs = s.procs := rfl
@[simp] theorem State.updCfg_cfg (s : State) (f : Config → Config) : (s.updCfg f).cfg = f s.cfg := rfl
@[simp] theorem State.updCfg_flt (s : State) (f : Config → Config) : (s.updCfg f).flt = s.flt := rfl

/-! `State.updFlt` changes the field `flt` alone. -/

@[simp] theorem State.updFlt_pending (s : State) (f : Faults → Faults) : (s.updFlt f).pending = s.pending := rfl
@[simp] theorem State.updFlt_drawn (s : State) (f : Faults → Faults) : (s.updFlt f).drawn = s.drawn := rfl
@[simp] theorem State.updFlt_tick (s : State) (f : Faults → Faults) : (s.updFlt f).tick = s.tick := rfl
@[simp] theorem State.updFlt_wall (s : State) (f : Faults → Faults) : (s.updFlt f).wall = s.wall := rfl
@[simp] theorem State.updFlt_mainUp (s : State) (f : Faults → Faults) : (s.updFlt f).mainUp = s.mainUp := rfl
@[simp] theorem State.updFlt_rsp (s : State) (f : Faults → Faults) : (s.updFlt f).rsp = s.rsp := rfl
@[simp] theorem State.updFlt_tenants (s : State) (f : Faults → Faults) : (s.updFlt f).tenants = s.tenants := rfl
@[simp] theorem State.updFlt_mgmt (s : State) (f : Faults → Faults) : (s.updFlt f).mgmt = s.mgmt := rfl
@[simp] theorem State.updFlt_tt (s : State) (f : Faults → Faults) : (s.updFlt f).tt = s.tt := rfl
@[simp] theorem State.updFlt_reqs (s : State) (f : Faults → Faults) : (s.updFlt f).reqs = s.reqs := rfl
@[simp] theorem State.updFlt_ended (s : State) (f : Faults → Faults) : (s.updFlt f).ended = s.ended := rfl
@[simp] theorem State.updFlt_nextRid (s : State) (f : Faults → Faults) : (s.updFlt f).nextRid = s.nextRid := rfl
@[simp] theorem State.updFlt_fab (s : State) (f : Faults → Faults) : (s.updFlt f).fab = s.fab := rfl
@[simp] theorem State.updFlt_cs (s : State) (f : Faults → Faults) : (s.updFlt f).cs = s.cs := rfl
@[simp] theorem State.updFlt_ds (s : State) (f : Faults → Faults) : (s.updFlt f).ds = s.ds := rfl
@[simp] theorem State.updFlt_vs (s : State) (f : Faults → Faults) : (s.updFlt f).vs = s.vs := rfl
@[simp] theorem State.updFlt_ss (s : State) (f : Faults → Faults) : (s.updFlt f).ss = s.ss := rfl
@[simp] theorem State.updFlt_ks (s : State) (f : Faults → Faults) : (s.updFlt f).ks = s.ks := rfl
@[simp] theorem State.updFlt_en (s : State) (f : Faults → Faults) : (s.updFlt f).en = s.en := rfl
@[simp] theorem State.updFlt_stations (s : State) (f : Faults → Faults) : (s.updFlt f).stations = s.stations := rfl
@[simp] theorem State.updFlt_pwr (s : State) (f : Faults → Faults) : (s.updFlt f).pwr = s.pwr := rfl
@[simp] theorem State.updFlt_aon (s : State) (f : Faults → Faults) : (s.updFlt f).aon = s.aon := rfl
@[simp] theorem State.updFlt_otp (s : State) (f : Faults → Faults) : (s.updFlt f).otp = s.otp := rfl
@[simp] theorem State.updFlt_nvm (s : State) (f : Faults → Faults) : (s.updFlt f).nvm = s.nvm := rfl
@[simp] theorem State.updFlt_lc (s : State) (f : Faults → Faults) : (s.updFlt f).lc = s.lc := rfl
@[simp] theorem State.updFlt_dbg (s : State) (f : Faults → Faults) : (s.updFlt f).dbg = s.dbg := rfl
@[simp] theorem State.updFlt_procs (s : State) (f : Faults → Faults) : (s.updFlt f).procs = s.procs := rfl
@[simp] theorem State.updFlt_cfg (s : State) (f : Faults → Faults) : (s.updFlt f).cfg = s.cfg := rfl
@[simp] theorem State.updFlt_flt (s : State) (f : Faults → Faults) : (s.updFlt f).flt = f s.flt := rfl

/-! `State.updProc` changes the field `procs` alone. -/

@[simp] theorem State.updProc_pending (s : State) (p : Fin 3) (f : Proc → Proc) : (s.updProc p f).pending = s.pending := rfl
@[simp] theorem State.updProc_drawn (s : State) (p : Fin 3) (f : Proc → Proc) : (s.updProc p f).drawn = s.drawn := rfl
@[simp] theorem State.updProc_tick (s : State) (p : Fin 3) (f : Proc → Proc) : (s.updProc p f).tick = s.tick := rfl
@[simp] theorem State.updProc_wall (s : State) (p : Fin 3) (f : Proc → Proc) : (s.updProc p f).wall = s.wall := rfl
@[simp] theorem State.updProc_mainUp (s : State) (p : Fin 3) (f : Proc → Proc) : (s.updProc p f).mainUp = s.mainUp := rfl
@[simp] theorem State.updProc_rsp (s : State) (p : Fin 3) (f : Proc → Proc) : (s.updProc p f).rsp = s.rsp := rfl
@[simp] theorem State.updProc_tenants (s : State) (p : Fin 3) (f : Proc → Proc) : (s.updProc p f).tenants = s.tenants := rfl
@[simp] theorem State.updProc_mgmt (s : State) (p : Fin 3) (f : Proc → Proc) : (s.updProc p f).mgmt = s.mgmt := rfl
@[simp] theorem State.updProc_tt (s : State) (p : Fin 3) (f : Proc → Proc) : (s.updProc p f).tt = s.tt := rfl
@[simp] theorem State.updProc_reqs (s : State) (p : Fin 3) (f : Proc → Proc) : (s.updProc p f).reqs = s.reqs := rfl
@[simp] theorem State.updProc_ended (s : State) (p : Fin 3) (f : Proc → Proc) : (s.updProc p f).ended = s.ended := rfl
@[simp] theorem State.updProc_nextRid (s : State) (p : Fin 3) (f : Proc → Proc) : (s.updProc p f).nextRid = s.nextRid := rfl
@[simp] theorem State.updProc_fab (s : State) (p : Fin 3) (f : Proc → Proc) : (s.updProc p f).fab = s.fab := rfl
@[simp] theorem State.updProc_cs (s : State) (p : Fin 3) (f : Proc → Proc) : (s.updProc p f).cs = s.cs := rfl
@[simp] theorem State.updProc_ds (s : State) (p : Fin 3) (f : Proc → Proc) : (s.updProc p f).ds = s.ds := rfl
@[simp] theorem State.updProc_vs (s : State) (p : Fin 3) (f : Proc → Proc) : (s.updProc p f).vs = s.vs := rfl
@[simp] theorem State.updProc_ss (s : State) (p : Fin 3) (f : Proc → Proc) : (s.updProc p f).ss = s.ss := rfl
@[simp] theorem State.updProc_ks (s : State) (p : Fin 3) (f : Proc → Proc) : (s.updProc p f).ks = s.ks := rfl
@[simp] theorem State.updProc_en (s : State) (p : Fin 3) (f : Proc → Proc) : (s.updProc p f).en = s.en := rfl
@[simp] theorem State.updProc_stations (s : State) (p : Fin 3) (f : Proc → Proc) : (s.updProc p f).stations = s.stations := rfl
@[simp] theorem State.updProc_pwr (s : State) (p : Fin 3) (f : Proc → Proc) : (s.updProc p f).pwr = s.pwr := rfl
@[simp] theorem State.updProc_aon (s : State) (p : Fin 3) (f : Proc → Proc) : (s.updProc p f).aon = s.aon := rfl
@[simp] theorem State.updProc_otp (s : State) (p : Fin 3) (f : Proc → Proc) : (s.updProc p f).otp = s.otp := rfl
@[simp] theorem State.updProc_nvm (s : State) (p : Fin 3) (f : Proc → Proc) : (s.updProc p f).nvm = s.nvm := rfl
@[simp] theorem State.updProc_lc (s : State) (p : Fin 3) (f : Proc → Proc) : (s.updProc p f).lc = s.lc := rfl
@[simp] theorem State.updProc_dbg (s : State) (p : Fin 3) (f : Proc → Proc) : (s.updProc p f).dbg = s.dbg := rfl
@[simp] theorem State.updProc_procs (s : State) (p : Fin 3) (f : Proc → Proc) : (s.updProc p f).procs = s.procs.set p (f s.procs[p]) := rfl
@[simp] theorem State.updProc_cfg (s : State) (p : Fin 3) (f : Proc → Proc) : (s.updProc p f).cfg = s.cfg := rfl
@[simp] theorem State.updProc_flt (s : State) (p : Fin 3) (f : Proc → Proc) : (s.updProc p f).flt = s.flt := rfl

/-! `State.mapProcs` changes the field `procs` alone. -/

@[simp] theorem State.mapProcs_pending (s : State) (f : Proc → Proc) : (s.mapProcs f).pending = s.pending := rfl
@[simp] theorem State.mapProcs_drawn (s : State) (f : Proc → Proc) : (s.mapProcs f).drawn = s.drawn := rfl
@[simp] theorem State.mapProcs_tick (s : State) (f : Proc → Proc) : (s.mapProcs f).tick = s.tick := rfl
@[simp] theorem State.mapProcs_wall (s : State) (f : Proc → Proc) : (s.mapProcs f).wall = s.wall := rfl
@[simp] theorem State.mapProcs_mainUp (s : State) (f : Proc → Proc) : (s.mapProcs f).mainUp = s.mainUp := rfl
@[simp] theorem State.mapProcs_rsp (s : State) (f : Proc → Proc) : (s.mapProcs f).rsp = s.rsp := rfl
@[simp] theorem State.mapProcs_tenants (s : State) (f : Proc → Proc) : (s.mapProcs f).tenants = s.tenants := rfl
@[simp] theorem State.mapProcs_mgmt (s : State) (f : Proc → Proc) : (s.mapProcs f).mgmt = s.mgmt := rfl
@[simp] theorem State.mapProcs_tt (s : State) (f : Proc → Proc) : (s.mapProcs f).tt = s.tt := rfl
@[simp] theorem State.mapProcs_reqs (s : State) (f : Proc → Proc) : (s.mapProcs f).reqs = s.reqs := rfl
@[simp] theorem State.mapProcs_ended (s : State) (f : Proc → Proc) : (s.mapProcs f).ended = s.ended := rfl
@[simp] theorem State.mapProcs_nextRid (s : State) (f : Proc → Proc) : (s.mapProcs f).nextRid = s.nextRid := rfl
@[simp] theorem State.mapProcs_fab (s : State) (f : Proc → Proc) : (s.mapProcs f).fab = s.fab := rfl
@[simp] theorem State.mapProcs_cs (s : State) (f : Proc → Proc) : (s.mapProcs f).cs = s.cs := rfl
@[simp] theorem State.mapProcs_ds (s : State) (f : Proc → Proc) : (s.mapProcs f).ds = s.ds := rfl
@[simp] theorem State.mapProcs_vs (s : State) (f : Proc → Proc) : (s.mapProcs f).vs = s.vs := rfl
@[simp] theorem State.mapProcs_ss (s : State) (f : Proc → Proc) : (s.mapProcs f).ss = s.ss := rfl
@[simp] theorem State.mapProcs_ks (s : State) (f : Proc → Proc) : (s.mapProcs f).ks = s.ks := rfl
@[simp] theorem State.mapProcs_en (s : State) (f : Proc → Proc) : (s.mapProcs f).en = s.en := rfl
@[simp] theorem State.mapProcs_stations (s : State) (f : Proc → Proc) : (s.mapProcs f).stations = s.stations := rfl
@[simp] theorem State.mapProcs_pwr (s : State) (f : Proc → Proc) : (s.mapProcs f).pwr = s.pwr := rfl
@[simp] theorem State.mapProcs_aon (s : State) (f : Proc → Proc) : (s.mapProcs f).aon = s.aon := rfl
@[simp] theorem State.mapProcs_otp (s : State) (f : Proc → Proc) : (s.mapProcs f).otp = s.otp := rfl
@[simp] theorem State.mapProcs_nvm (s : State) (f : Proc → Proc) : (s.mapProcs f).nvm = s.nvm := rfl
@[simp] theorem State.mapProcs_lc (s : State) (f : Proc → Proc) : (s.mapProcs f).lc = s.lc := rfl
@[simp] theorem State.mapProcs_dbg (s : State) (f : Proc → Proc) : (s.mapProcs f).dbg = s.dbg := rfl
@[simp] theorem State.mapProcs_procs (s : State) (f : Proc → Proc) : (s.mapProcs f).procs = s.procs.map f := rfl
@[simp] theorem State.mapProcs_cfg (s : State) (f : Proc → Proc) : (s.mapProcs f).cfg = s.cfg := rfl
@[simp] theorem State.mapProcs_flt (s : State) (f : Proc → Proc) : (s.mapProcs f).flt = s.flt := rfl

/-! `State.mapPages` changes the field `tenants` alone. -/

@[simp] theorem State.mapPages_pending (s : State) (f : TenantPage → TenantPage) : (s.mapPages f).pending = s.pending := rfl
@[simp] theorem State.mapPages_drawn (s : State) (f : TenantPage → TenantPage) : (s.mapPages f).drawn = s.drawn := rfl
@[simp] theorem State.mapPages_tick (s : State) (f : TenantPage → TenantPage) : (s.mapPages f).tick = s.tick := rfl
@[simp] theorem State.mapPages_wall (s : State) (f : TenantPage → TenantPage) : (s.mapPages f).wall = s.wall := rfl
@[simp] theorem State.mapPages_mainUp (s : State) (f : TenantPage → TenantPage) : (s.mapPages f).mainUp = s.mainUp := rfl
@[simp] theorem State.mapPages_rsp (s : State) (f : TenantPage → TenantPage) : (s.mapPages f).rsp = s.rsp := rfl
@[simp] theorem State.mapPages_tenants (s : State) (f : TenantPage → TenantPage) : (s.mapPages f).tenants = s.tenants.map f := rfl
@[simp] theorem State.mapPages_mgmt (s : State) (f : TenantPage → TenantPage) : (s.mapPages f).mgmt = s.mgmt := rfl
@[simp] theorem State.mapPages_tt (s : State) (f : TenantPage → TenantPage) : (s.mapPages f).tt = s.tt := rfl
@[simp] theorem State.mapPages_reqs (s : State) (f : TenantPage → TenantPage) : (s.mapPages f).reqs = s.reqs := rfl
@[simp] theorem State.mapPages_ended (s : State) (f : TenantPage → TenantPage) : (s.mapPages f).ended = s.ended := rfl
@[simp] theorem State.mapPages_nextRid (s : State) (f : TenantPage → TenantPage) : (s.mapPages f).nextRid = s.nextRid := rfl
@[simp] theorem State.mapPages_fab (s : State) (f : TenantPage → TenantPage) : (s.mapPages f).fab = s.fab := rfl
@[simp] theorem State.mapPages_cs (s : State) (f : TenantPage → TenantPage) : (s.mapPages f).cs = s.cs := rfl
@[simp] theorem State.mapPages_ds (s : State) (f : TenantPage → TenantPage) : (s.mapPages f).ds = s.ds := rfl
@[simp] theorem State.mapPages_vs (s : State) (f : TenantPage → TenantPage) : (s.mapPages f).vs = s.vs := rfl
@[simp] theorem State.mapPages_ss (s : State) (f : TenantPage → TenantPage) : (s.mapPages f).ss = s.ss := rfl
@[simp] theorem State.mapPages_ks (s : State) (f : TenantPage → TenantPage) : (s.mapPages f).ks = s.ks := rfl
@[simp] theorem State.mapPages_en (s : State) (f : TenantPage → TenantPage) : (s.mapPages f).en = s.en := rfl
@[simp] theorem State.mapPages_stations (s : State) (f : TenantPage → TenantPage) : (s.mapPages f).stations = s.stations := rfl
@[simp] theorem State.mapPages_pwr (s : State) (f : TenantPage → TenantPage) : (s.mapPages f).pwr = s.pwr := rfl
@[simp] theorem State.mapPages_aon (s : State) (f : TenantPage → TenantPage) : (s.mapPages f).aon = s.aon := rfl
@[simp] theorem State.mapPages_otp (s : State) (f : TenantPage → TenantPage) : (s.mapPages f).otp = s.otp := rfl
@[simp] theorem State.mapPages_nvm (s : State) (f : TenantPage → TenantPage) : (s.mapPages f).nvm = s.nvm := rfl
@[simp] theorem State.mapPages_lc (s : State) (f : TenantPage → TenantPage) : (s.mapPages f).lc = s.lc := rfl
@[simp] theorem State.mapPages_dbg (s : State) (f : TenantPage → TenantPage) : (s.mapPages f).dbg = s.dbg := rfl
@[simp] theorem State.mapPages_procs (s : State) (f : TenantPage → TenantPage) : (s.mapPages f).procs = s.procs := rfl
@[simp] theorem State.mapPages_cfg (s : State) (f : TenantPage → TenantPage) : (s.mapPages f).cfg = s.cfg := rfl
@[simp] theorem State.mapPages_flt (s : State) (f : TenantPage → TenantPage) : (s.mapPages f).flt = s.flt := rfl

/-! `State.mapReqs` changes the field `reqs` alone. -/

@[simp] theorem State.mapReqs_pending (s : State) (f : Request → Request) : (s.mapReqs f).pending = s.pending := rfl
@[simp] theorem State.mapReqs_drawn (s : State) (f : Request → Request) : (s.mapReqs f).drawn = s.drawn := rfl
@[simp] theorem State.mapReqs_tick (s : State) (f : Request → Request) : (s.mapReqs f).tick = s.tick := rfl
@[simp] theorem State.mapReqs_wall (s : State) (f : Request → Request) : (s.mapReqs f).wall = s.wall := rfl
@[simp] theorem State.mapReqs_mainUp (s : State) (f : Request → Request) : (s.mapReqs f).mainUp = s.mainUp := rfl
@[simp] theorem State.mapReqs_rsp (s : State) (f : Request → Request) : (s.mapReqs f).rsp = s.rsp := rfl
@[simp] theorem State.mapReqs_tenants (s : State) (f : Request → Request) : (s.mapReqs f).tenants = s.tenants := rfl
@[simp] theorem State.mapReqs_mgmt (s : State) (f : Request → Request) : (s.mapReqs f).mgmt = s.mgmt := rfl
@[simp] theorem State.mapReqs_tt (s : State) (f : Request → Request) : (s.mapReqs f).tt = s.tt := rfl
@[simp] theorem State.mapReqs_reqs (s : State) (f : Request → Request) : (s.mapReqs f).reqs = s.reqs.map f := rfl
@[simp] theorem State.mapReqs_ended (s : State) (f : Request → Request) : (s.mapReqs f).ended = s.ended := rfl
@[simp] theorem State.mapReqs_nextRid (s : State) (f : Request → Request) : (s.mapReqs f).nextRid = s.nextRid := rfl
@[simp] theorem State.mapReqs_fab (s : State) (f : Request → Request) : (s.mapReqs f).fab = s.fab := rfl
@[simp] theorem State.mapReqs_cs (s : State) (f : Request → Request) : (s.mapReqs f).cs = s.cs := rfl
@[simp] theorem State.mapReqs_ds (s : State) (f : Request → Request) : (s.mapReqs f).ds = s.ds := rfl
@[simp] theorem State.mapReqs_vs (s : State) (f : Request → Request) : (s.mapReqs f).vs = s.vs := rfl
@[simp] theorem State.mapReqs_ss (s : State) (f : Request → Request) : (s.mapReqs f).ss = s.ss := rfl
@[simp] theorem State.mapReqs_ks (s : State) (f : Request → Request) : (s.mapReqs f).ks = s.ks := rfl
@[simp] theorem State.mapReqs_en (s : State) (f : Request → Request) : (s.mapReqs f).en = s.en := rfl
@[simp] theorem State.mapReqs_stations (s : State) (f : Request → Request) : (s.mapReqs f).stations = s.stations := rfl
@[simp] theorem State.mapReqs_pwr (s : State) (f : Request → Request) : (s.mapReqs f).pwr = s.pwr := rfl
@[simp] theorem State.mapReqs_aon (s : State) (f : Request → Request) : (s.mapReqs f).aon = s.aon := rfl
@[simp] theorem State.mapReqs_otp (s : State) (f : Request → Request) : (s.mapReqs f).otp = s.otp := rfl
@[simp] theorem State.mapReqs_nvm (s : State) (f : Request → Request) : (s.mapReqs f).nvm = s.nvm := rfl
@[simp] theorem State.mapReqs_lc (s : State) (f : Request → Request) : (s.mapReqs f).lc = s.lc := rfl
@[simp] theorem State.mapReqs_dbg (s : State) (f : Request → Request) : (s.mapReqs f).dbg = s.dbg := rfl
@[simp] theorem State.mapReqs_procs (s : State) (f : Request → Request) : (s.mapReqs f).procs = s.procs := rfl
@[simp] theorem State.mapReqs_cfg (s : State) (f : Request → Request) : (s.mapReqs f).cfg = s.cfg := rfl
@[simp] theorem State.mapReqs_flt (s : State) (f : Request → Request) : (s.mapReqs f).flt = s.flt := rfl

/-! `State.updStn` changes the field `stations` alone. -/

@[simp] theorem State.updStn_pending (s : State) (n : Fin 7) (f : StationState → StationState) : (s.updStn n f).pending = s.pending := rfl
@[simp] theorem State.updStn_drawn (s : State) (n : Fin 7) (f : StationState → StationState) : (s.updStn n f).drawn = s.drawn := rfl
@[simp] theorem State.updStn_tick (s : State) (n : Fin 7) (f : StationState → StationState) : (s.updStn n f).tick = s.tick := rfl
@[simp] theorem State.updStn_wall (s : State) (n : Fin 7) (f : StationState → StationState) : (s.updStn n f).wall = s.wall := rfl
@[simp] theorem State.updStn_mainUp (s : State) (n : Fin 7) (f : StationState → StationState) : (s.updStn n f).mainUp = s.mainUp := rfl
@[simp] theorem State.updStn_rsp (s : State) (n : Fin 7) (f : StationState → StationState) : (s.updStn n f).rsp = s.rsp := rfl
@[simp] theorem State.updStn_tenants (s : State) (n : Fin 7) (f : StationState → StationState) : (s.updStn n f).tenants = s.tenants := rfl
@[simp] theorem State.updStn_mgmt (s : State) (n : Fin 7) (f : StationState → StationState) : (s.updStn n f).mgmt = s.mgmt := rfl
@[simp] theorem State.updStn_tt (s : State) (n : Fin 7) (f : StationState → StationState) : (s.updStn n f).tt = s.tt := rfl
@[simp] theorem State.updStn_reqs (s : State) (n : Fin 7) (f : StationState → StationState) : (s.updStn n f).reqs = s.reqs := rfl
@[simp] theorem State.updStn_ended (s : State) (n : Fin 7) (f : StationState → StationState) : (s.updStn n f).ended = s.ended := rfl
@[simp] theorem State.updStn_nextRid (s : State) (n : Fin 7) (f : StationState → StationState) : (s.updStn n f).nextRid = s.nextRid := rfl
@[simp] theorem State.updStn_fab (s : State) (n : Fin 7) (f : StationState → StationState) : (s.updStn n f).fab = s.fab := rfl
@[simp] theorem State.updStn_cs (s : State) (n : Fin 7) (f : StationState → StationState) : (s.updStn n f).cs = s.cs := rfl
@[simp] theorem State.updStn_ds (s : State) (n : Fin 7) (f : StationState → StationState) : (s.updStn n f).ds = s.ds := rfl
@[simp] theorem State.updStn_vs (s : State) (n : Fin 7) (f : StationState → StationState) : (s.updStn n f).vs = s.vs := rfl
@[simp] theorem State.updStn_ss (s : State) (n : Fin 7) (f : StationState → StationState) : (s.updStn n f).ss = s.ss := rfl
@[simp] theorem State.updStn_ks (s : State) (n : Fin 7) (f : StationState → StationState) : (s.updStn n f).ks = s.ks := rfl
@[simp] theorem State.updStn_en (s : State) (n : Fin 7) (f : StationState → StationState) : (s.updStn n f).en = s.en := rfl
@[simp] theorem State.updStn_stations (s : State) (n : Fin 7) (f : StationState → StationState) : (s.updStn n f).stations = s.stations.set n (f s.stations[n]) := rfl
@[simp] theorem State.updStn_pwr (s : State) (n : Fin 7) (f : StationState → StationState) : (s.updStn n f).pwr = s.pwr := rfl
@[simp] theorem State.updStn_aon (s : State) (n : Fin 7) (f : StationState → StationState) : (s.updStn n f).aon = s.aon := rfl
@[simp] theorem State.updStn_otp (s : State) (n : Fin 7) (f : StationState → StationState) : (s.updStn n f).otp = s.otp := rfl
@[simp] theorem State.updStn_nvm (s : State) (n : Fin 7) (f : StationState → StationState) : (s.updStn n f).nvm = s.nvm := rfl
@[simp] theorem State.updStn_lc (s : State) (n : Fin 7) (f : StationState → StationState) : (s.updStn n f).lc = s.lc := rfl
@[simp] theorem State.updStn_dbg (s : State) (n : Fin 7) (f : StationState → StationState) : (s.updStn n f).dbg = s.dbg := rfl
@[simp] theorem State.updStn_procs (s : State) (n : Fin 7) (f : StationState → StationState) : (s.updStn n f).procs = s.procs := rfl
@[simp] theorem State.updStn_cfg (s : State) (n : Fin 7) (f : StationState → StationState) : (s.updStn n f).cfg = s.cfg := rfl
@[simp] theorem State.updStn_flt (s : State) (n : Fin 7) (f : StationState → StationState) : (s.updStn n f).flt = s.flt := rfl

/-! `State.updCs` changes the field `cs` alone. -/

@[simp] theorem State.updCs_pending (s : State) (n : Fin 2) (f : CipherStation → CipherStation) : (s.updCs n f).pending = s.pending := rfl
@[simp] theorem State.updCs_drawn (s : State) (n : Fin 2) (f : CipherStation → CipherStation) : (s.updCs n f).drawn = s.drawn := rfl
@[simp] theorem State.updCs_tick (s : State) (n : Fin 2) (f : CipherStation → CipherStation) : (s.updCs n f).tick = s.tick := rfl
@[simp] theorem State.updCs_wall (s : State) (n : Fin 2) (f : CipherStation → CipherStation) : (s.updCs n f).wall = s.wall := rfl
@[simp] theorem State.updCs_mainUp (s : State) (n : Fin 2) (f : CipherStation → CipherStation) : (s.updCs n f).mainUp = s.mainUp := rfl
@[simp] theorem State.updCs_rsp (s : State) (n : Fin 2) (f : CipherStation → CipherStation) : (s.updCs n f).rsp = s.rsp := rfl
@[simp] theorem State.updCs_tenants (s : State) (n : Fin 2) (f : CipherStation → CipherStation) : (s.updCs n f).tenants = s.tenants := rfl
@[simp] theorem State.updCs_mgmt (s : State) (n : Fin 2) (f : CipherStation → CipherStation) : (s.updCs n f).mgmt = s.mgmt := rfl
@[simp] theorem State.updCs_tt (s : State) (n : Fin 2) (f : CipherStation → CipherStation) : (s.updCs n f).tt = s.tt := rfl
@[simp] theorem State.updCs_reqs (s : State) (n : Fin 2) (f : CipherStation → CipherStation) : (s.updCs n f).reqs = s.reqs := rfl
@[simp] theorem State.updCs_ended (s : State) (n : Fin 2) (f : CipherStation → CipherStation) : (s.updCs n f).ended = s.ended := rfl
@[simp] theorem State.updCs_nextRid (s : State) (n : Fin 2) (f : CipherStation → CipherStation) : (s.updCs n f).nextRid = s.nextRid := rfl
@[simp] theorem State.updCs_fab (s : State) (n : Fin 2) (f : CipherStation → CipherStation) : (s.updCs n f).fab = s.fab := rfl
@[simp] theorem State.updCs_cs (s : State) (n : Fin 2) (f : CipherStation → CipherStation) : (s.updCs n f).cs = s.cs.set n (f s.cs[n]) := rfl
@[simp] theorem State.updCs_ds (s : State) (n : Fin 2) (f : CipherStation → CipherStation) : (s.updCs n f).ds = s.ds := rfl
@[simp] theorem State.updCs_vs (s : State) (n : Fin 2) (f : CipherStation → CipherStation) : (s.updCs n f).vs = s.vs := rfl
@[simp] theorem State.updCs_ss (s : State) (n : Fin 2) (f : CipherStation → CipherStation) : (s.updCs n f).ss = s.ss := rfl
@[simp] theorem State.updCs_ks (s : State) (n : Fin 2) (f : CipherStation → CipherStation) : (s.updCs n f).ks = s.ks := rfl
@[simp] theorem State.updCs_en (s : State) (n : Fin 2) (f : CipherStation → CipherStation) : (s.updCs n f).en = s.en := rfl
@[simp] theorem State.updCs_stations (s : State) (n : Fin 2) (f : CipherStation → CipherStation) : (s.updCs n f).stations = s.stations := rfl
@[simp] theorem State.updCs_pwr (s : State) (n : Fin 2) (f : CipherStation → CipherStation) : (s.updCs n f).pwr = s.pwr := rfl
@[simp] theorem State.updCs_aon (s : State) (n : Fin 2) (f : CipherStation → CipherStation) : (s.updCs n f).aon = s.aon := rfl
@[simp] theorem State.updCs_otp (s : State) (n : Fin 2) (f : CipherStation → CipherStation) : (s.updCs n f).otp = s.otp := rfl
@[simp] theorem State.updCs_nvm (s : State) (n : Fin 2) (f : CipherStation → CipherStation) : (s.updCs n f).nvm = s.nvm := rfl
@[simp] theorem State.updCs_lc (s : State) (n : Fin 2) (f : CipherStation → CipherStation) : (s.updCs n f).lc = s.lc := rfl
@[simp] theorem State.updCs_dbg (s : State) (n : Fin 2) (f : CipherStation → CipherStation) : (s.updCs n f).dbg = s.dbg := rfl
@[simp] theorem State.updCs_procs (s : State) (n : Fin 2) (f : CipherStation → CipherStation) : (s.updCs n f).procs = s.procs := rfl
@[simp] theorem State.updCs_cfg (s : State) (n : Fin 2) (f : CipherStation → CipherStation) : (s.updCs n f).cfg = s.cfg := rfl
@[simp] theorem State.updCs_flt (s : State) (n : Fin 2) (f : CipherStation → CipherStation) : (s.updCs n f).flt = s.flt := rfl

/-! `State.updDs` changes the field `ds` alone. -/

@[simp] theorem State.updDs_pending (s : State) (n : Fin 2) (f : DigestStation → DigestStation) : (s.updDs n f).pending = s.pending := rfl
@[simp] theorem State.updDs_drawn (s : State) (n : Fin 2) (f : DigestStation → DigestStation) : (s.updDs n f).drawn = s.drawn := rfl
@[simp] theorem State.updDs_tick (s : State) (n : Fin 2) (f : DigestStation → DigestStation) : (s.updDs n f).tick = s.tick := rfl
@[simp] theorem State.updDs_wall (s : State) (n : Fin 2) (f : DigestStation → DigestStation) : (s.updDs n f).wall = s.wall := rfl
@[simp] theorem State.updDs_mainUp (s : State) (n : Fin 2) (f : DigestStation → DigestStation) : (s.updDs n f).mainUp = s.mainUp := rfl
@[simp] theorem State.updDs_rsp (s : State) (n : Fin 2) (f : DigestStation → DigestStation) : (s.updDs n f).rsp = s.rsp := rfl
@[simp] theorem State.updDs_tenants (s : State) (n : Fin 2) (f : DigestStation → DigestStation) : (s.updDs n f).tenants = s.tenants := rfl
@[simp] theorem State.updDs_mgmt (s : State) (n : Fin 2) (f : DigestStation → DigestStation) : (s.updDs n f).mgmt = s.mgmt := rfl
@[simp] theorem State.updDs_tt (s : State) (n : Fin 2) (f : DigestStation → DigestStation) : (s.updDs n f).tt = s.tt := rfl
@[simp] theorem State.updDs_reqs (s : State) (n : Fin 2) (f : DigestStation → DigestStation) : (s.updDs n f).reqs = s.reqs := rfl
@[simp] theorem State.updDs_ended (s : State) (n : Fin 2) (f : DigestStation → DigestStation) : (s.updDs n f).ended = s.ended := rfl
@[simp] theorem State.updDs_nextRid (s : State) (n : Fin 2) (f : DigestStation → DigestStation) : (s.updDs n f).nextRid = s.nextRid := rfl
@[simp] theorem State.updDs_fab (s : State) (n : Fin 2) (f : DigestStation → DigestStation) : (s.updDs n f).fab = s.fab := rfl
@[simp] theorem State.updDs_cs (s : State) (n : Fin 2) (f : DigestStation → DigestStation) : (s.updDs n f).cs = s.cs := rfl
@[simp] theorem State.updDs_ds (s : State) (n : Fin 2) (f : DigestStation → DigestStation) : (s.updDs n f).ds = s.ds.set n (f s.ds[n]) := rfl
@[simp] theorem State.updDs_vs (s : State) (n : Fin 2) (f : DigestStation → DigestStation) : (s.updDs n f).vs = s.vs := rfl
@[simp] theorem State.updDs_ss (s : State) (n : Fin 2) (f : DigestStation → DigestStation) : (s.updDs n f).ss = s.ss := rfl
@[simp] theorem State.updDs_ks (s : State) (n : Fin 2) (f : DigestStation → DigestStation) : (s.updDs n f).ks = s.ks := rfl
@[simp] theorem State.updDs_en (s : State) (n : Fin 2) (f : DigestStation → DigestStation) : (s.updDs n f).en = s.en := rfl
@[simp] theorem State.updDs_stations (s : State) (n : Fin 2) (f : DigestStation → DigestStation) : (s.updDs n f).stations = s.stations := rfl
@[simp] theorem State.updDs_pwr (s : State) (n : Fin 2) (f : DigestStation → DigestStation) : (s.updDs n f).pwr = s.pwr := rfl
@[simp] theorem State.updDs_aon (s : State) (n : Fin 2) (f : DigestStation → DigestStation) : (s.updDs n f).aon = s.aon := rfl
@[simp] theorem State.updDs_otp (s : State) (n : Fin 2) (f : DigestStation → DigestStation) : (s.updDs n f).otp = s.otp := rfl
@[simp] theorem State.updDs_nvm (s : State) (n : Fin 2) (f : DigestStation → DigestStation) : (s.updDs n f).nvm = s.nvm := rfl
@[simp] theorem State.updDs_lc (s : State) (n : Fin 2) (f : DigestStation → DigestStation) : (s.updDs n f).lc = s.lc := rfl
@[simp] theorem State.updDs_dbg (s : State) (n : Fin 2) (f : DigestStation → DigestStation) : (s.updDs n f).dbg = s.dbg := rfl
@[simp] theorem State.updDs_procs (s : State) (n : Fin 2) (f : DigestStation → DigestStation) : (s.updDs n f).procs = s.procs := rfl
@[simp] theorem State.updDs_cfg (s : State) (n : Fin 2) (f : DigestStation → DigestStation) : (s.updDs n f).cfg = s.cfg := rfl
@[simp] theorem State.updDs_flt (s : State) (n : Fin 2) (f : DigestStation → DigestStation) : (s.updDs n f).flt = s.flt := rfl

/-! `State.updReq` changes the field `reqs` alone. -/

@[simp] theorem State.updReq_pending (s : State) (rid : Nat) (f : Request → Request) : (s.updReq rid f).pending = s.pending := rfl
@[simp] theorem State.updReq_drawn (s : State) (rid : Nat) (f : Request → Request) : (s.updReq rid f).drawn = s.drawn := rfl
@[simp] theorem State.updReq_tick (s : State) (rid : Nat) (f : Request → Request) : (s.updReq rid f).tick = s.tick := rfl
@[simp] theorem State.updReq_wall (s : State) (rid : Nat) (f : Request → Request) : (s.updReq rid f).wall = s.wall := rfl
@[simp] theorem State.updReq_mainUp (s : State) (rid : Nat) (f : Request → Request) : (s.updReq rid f).mainUp = s.mainUp := rfl
@[simp] theorem State.updReq_rsp (s : State) (rid : Nat) (f : Request → Request) : (s.updReq rid f).rsp = s.rsp := rfl
@[simp] theorem State.updReq_tenants (s : State) (rid : Nat) (f : Request → Request) : (s.updReq rid f).tenants = s.tenants := rfl
@[simp] theorem State.updReq_mgmt (s : State) (rid : Nat) (f : Request → Request) : (s.updReq rid f).mgmt = s.mgmt := rfl
@[simp] theorem State.updReq_tt (s : State) (rid : Nat) (f : Request → Request) : (s.updReq rid f).tt = s.tt := rfl
@[simp] theorem State.updReq_reqs (s : State) (rid : Nat) (f : Request → Request) : (s.updReq rid f).reqs = s.reqs.map fun r => if r.rid = rid then f r else r := rfl
@[simp] theorem State.updReq_ended (s : State) (rid : Nat) (f : Request → Request) : (s.updReq rid f).ended = s.ended := rfl
@[simp] theorem State.updReq_nextRid (s : State) (rid : Nat) (f : Request → Request) : (s.updReq rid f).nextRid = s.nextRid := rfl
@[simp] theorem State.updReq_fab (s : State) (rid : Nat) (f : Request → Request) : (s.updReq rid f).fab = s.fab := rfl
@[simp] theorem State.updReq_cs (s : State) (rid : Nat) (f : Request → Request) : (s.updReq rid f).cs = s.cs := rfl
@[simp] theorem State.updReq_ds (s : State) (rid : Nat) (f : Request → Request) : (s.updReq rid f).ds = s.ds := rfl
@[simp] theorem State.updReq_vs (s : State) (rid : Nat) (f : Request → Request) : (s.updReq rid f).vs = s.vs := rfl
@[simp] theorem State.updReq_ss (s : State) (rid : Nat) (f : Request → Request) : (s.updReq rid f).ss = s.ss := rfl
@[simp] theorem State.updReq_ks (s : State) (rid : Nat) (f : Request → Request) : (s.updReq rid f).ks = s.ks := rfl
@[simp] theorem State.updReq_en (s : State) (rid : Nat) (f : Request → Request) : (s.updReq rid f).en = s.en := rfl
@[simp] theorem State.updReq_stations (s : State) (rid : Nat) (f : Request → Request) : (s.updReq rid f).stations = s.stations := rfl
@[simp] theorem State.updReq_pwr (s : State) (rid : Nat) (f : Request → Request) : (s.updReq rid f).pwr = s.pwr := rfl
@[simp] theorem State.updReq_aon (s : State) (rid : Nat) (f : Request → Request) : (s.updReq rid f).aon = s.aon := rfl
@[simp] theorem State.updReq_otp (s : State) (rid : Nat) (f : Request → Request) : (s.updReq rid f).otp = s.otp := rfl
@[simp] theorem State.updReq_nvm (s : State) (rid : Nat) (f : Request → Request) : (s.updReq rid f).nvm = s.nvm := rfl
@[simp] theorem State.updReq_lc (s : State) (rid : Nat) (f : Request → Request) : (s.updReq rid f).lc = s.lc := rfl
@[simp] theorem State.updReq_dbg (s : State) (rid : Nat) (f : Request → Request) : (s.updReq rid f).dbg = s.dbg := rfl
@[simp] theorem State.updReq_procs (s : State) (rid : Nat) (f : Request → Request) : (s.updReq rid f).procs = s.procs := rfl
@[simp] theorem State.updReq_cfg (s : State) (rid : Nat) (f : Request → Request) : (s.updReq rid f).cfg = s.cfg := rfl
@[simp] theorem State.updReq_flt (s : State) (rid : Nat) (f : Request → Request) : (s.updReq rid f).flt = s.flt := rfl

/-! `State.burn` changes the field `otp` alone. -/

@[simp] theorem State.burn_pending (s : State) (row : Fin 128) (data : BitVec 64) : (s.burn row data).pending = s.pending := rfl
@[simp] theorem State.burn_drawn (s : State) (row : Fin 128) (data : BitVec 64) : (s.burn row data).drawn = s.drawn := rfl
@[simp] theorem State.burn_tick (s : State) (row : Fin 128) (data : BitVec 64) : (s.burn row data).tick = s.tick := rfl
@[simp] theorem State.burn_wall (s : State) (row : Fin 128) (data : BitVec 64) : (s.burn row data).wall = s.wall := rfl
@[simp] theorem State.burn_mainUp (s : State) (row : Fin 128) (data : BitVec 64) : (s.burn row data).mainUp = s.mainUp := rfl
@[simp] theorem State.burn_rsp (s : State) (row : Fin 128) (data : BitVec 64) : (s.burn row data).rsp = s.rsp := rfl
@[simp] theorem State.burn_tenants (s : State) (row : Fin 128) (data : BitVec 64) : (s.burn row data).tenants = s.tenants := rfl
@[simp] theorem State.burn_mgmt (s : State) (row : Fin 128) (data : BitVec 64) : (s.burn row data).mgmt = s.mgmt := rfl
@[simp] theorem State.burn_tt (s : State) (row : Fin 128) (data : BitVec 64) : (s.burn row data).tt = s.tt := rfl
@[simp] theorem State.burn_reqs (s : State) (row : Fin 128) (data : BitVec 64) : (s.burn row data).reqs = s.reqs := rfl
@[simp] theorem State.burn_ended (s : State) (row : Fin 128) (data : BitVec 64) : (s.burn row data).ended = s.ended := rfl
@[simp] theorem State.burn_nextRid (s : State) (row : Fin 128) (data : BitVec 64) : (s.burn row data).nextRid = s.nextRid := rfl
@[simp] theorem State.burn_fab (s : State) (row : Fin 128) (data : BitVec 64) : (s.burn row data).fab = s.fab := rfl
@[simp] theorem State.burn_cs (s : State) (row : Fin 128) (data : BitVec 64) : (s.burn row data).cs = s.cs := rfl
@[simp] theorem State.burn_ds (s : State) (row : Fin 128) (data : BitVec 64) : (s.burn row data).ds = s.ds := rfl
@[simp] theorem State.burn_vs (s : State) (row : Fin 128) (data : BitVec 64) : (s.burn row data).vs = s.vs := rfl
@[simp] theorem State.burn_ss (s : State) (row : Fin 128) (data : BitVec 64) : (s.burn row data).ss = s.ss := rfl
@[simp] theorem State.burn_ks (s : State) (row : Fin 128) (data : BitVec 64) : (s.burn row data).ks = s.ks := rfl
@[simp] theorem State.burn_en (s : State) (row : Fin 128) (data : BitVec 64) : (s.burn row data).en = s.en := rfl
@[simp] theorem State.burn_stations (s : State) (row : Fin 128) (data : BitVec 64) : (s.burn row data).stations = s.stations := rfl
@[simp] theorem State.burn_pwr (s : State) (row : Fin 128) (data : BitVec 64) : (s.burn row data).pwr = s.pwr := rfl
@[simp] theorem State.burn_aon (s : State) (row : Fin 128) (data : BitVec 64) : (s.burn row data).aon = s.aon := rfl
@[simp] theorem State.burn_otp (s : State) (row : Fin 128) (data : BitVec 64) : (s.burn row data).otp = s.otp.set row (s.otp[row] ||| data) := rfl
@[simp] theorem State.burn_nvm (s : State) (row : Fin 128) (data : BitVec 64) : (s.burn row data).nvm = s.nvm := rfl
@[simp] theorem State.burn_lc (s : State) (row : Fin 128) (data : BitVec 64) : (s.burn row data).lc = s.lc := rfl
@[simp] theorem State.burn_dbg (s : State) (row : Fin 128) (data : BitVec 64) : (s.burn row data).dbg = s.dbg := rfl
@[simp] theorem State.burn_procs (s : State) (row : Fin 128) (data : BitVec 64) : (s.burn row data).procs = s.procs := rfl
@[simp] theorem State.burn_cfg (s : State) (row : Fin 128) (data : BitVec 64) : (s.burn row data).cfg = s.cfg := rfl
@[simp] theorem State.burn_flt (s : State) (row : Fin 128) (data : BitVec 64) : (s.burn row data).flt = s.flt := rfl

/-! `State.respond` changes the field `rsp` alone. -/

@[simp] theorem State.respond_pending (s : State) (v : BitVec 64) : (s.respond v).pending = s.pending := rfl
@[simp] theorem State.respond_drawn (s : State) (v : BitVec 64) : (s.respond v).drawn = s.drawn := rfl
@[simp] theorem State.respond_tick (s : State) (v : BitVec 64) : (s.respond v).tick = s.tick := rfl
@[simp] theorem State.respond_wall (s : State) (v : BitVec 64) : (s.respond v).wall = s.wall := rfl
@[simp] theorem State.respond_mainUp (s : State) (v : BitVec 64) : (s.respond v).mainUp = s.mainUp := rfl
@[simp] theorem State.respond_rsp (s : State) (v : BitVec 64) : (s.respond v).rsp = v := rfl
@[simp] theorem State.respond_tenants (s : State) (v : BitVec 64) : (s.respond v).tenants = s.tenants := rfl
@[simp] theorem State.respond_mgmt (s : State) (v : BitVec 64) : (s.respond v).mgmt = s.mgmt := rfl
@[simp] theorem State.respond_tt (s : State) (v : BitVec 64) : (s.respond v).tt = s.tt := rfl
@[simp] theorem State.respond_reqs (s : State) (v : BitVec 64) : (s.respond v).reqs = s.reqs := rfl
@[simp] theorem State.respond_ended (s : State) (v : BitVec 64) : (s.respond v).ended = s.ended := rfl
@[simp] theorem State.respond_nextRid (s : State) (v : BitVec 64) : (s.respond v).nextRid = s.nextRid := rfl
@[simp] theorem State.respond_fab (s : State) (v : BitVec 64) : (s.respond v).fab = s.fab := rfl
@[simp] theorem State.respond_cs (s : State) (v : BitVec 64) : (s.respond v).cs = s.cs := rfl
@[simp] theorem State.respond_ds (s : State) (v : BitVec 64) : (s.respond v).ds = s.ds := rfl
@[simp] theorem State.respond_vs (s : State) (v : BitVec 64) : (s.respond v).vs = s.vs := rfl
@[simp] theorem State.respond_ss (s : State) (v : BitVec 64) : (s.respond v).ss = s.ss := rfl
@[simp] theorem State.respond_ks (s : State) (v : BitVec 64) : (s.respond v).ks = s.ks := rfl
@[simp] theorem State.respond_en (s : State) (v : BitVec 64) : (s.respond v).en = s.en := rfl
@[simp] theorem State.respond_stations (s : State) (v : BitVec 64) : (s.respond v).stations = s.stations := rfl
@[simp] theorem State.respond_pwr (s : State) (v : BitVec 64) : (s.respond v).pwr = s.pwr := rfl
@[simp] theorem State.respond_aon (s : State) (v : BitVec 64) : (s.respond v).aon = s.aon := rfl
@[simp] theorem State.respond_otp (s : State) (v : BitVec 64) : (s.respond v).otp = s.otp := rfl
@[simp] theorem State.respond_nvm (s : State) (v : BitVec 64) : (s.respond v).nvm = s.nvm := rfl
@[simp] theorem State.respond_lc (s : State) (v : BitVec 64) : (s.respond v).lc = s.lc := rfl
@[simp] theorem State.respond_dbg (s : State) (v : BitVec 64) : (s.respond v).dbg = s.dbg := rfl
@[simp] theorem State.respond_procs (s : State) (v : BitVec 64) : (s.respond v).procs = s.procs := rfl
@[simp] theorem State.respond_cfg (s : State) (v : BitVec 64) : (s.respond v).cfg = s.cfg := rfl
@[simp] theorem State.respond_flt (s : State) (v : BitVec 64) : (s.respond v).flt = s.flt := rfl

/-! `State.draw` changes the field `drawn` alone. -/

@[simp] theorem State.draw_pending (s : State) (n : Nat) : (s.draw n).pending = s.pending := rfl
@[simp] theorem State.draw_drawn (s : State) (n : Nat) : (s.draw n).drawn = s.drawn + n := rfl
@[simp] theorem State.draw_tick (s : State) (n : Nat) : (s.draw n).tick = s.tick := rfl
@[simp] theorem State.draw_wall (s : State) (n : Nat) : (s.draw n).wall = s.wall := rfl
@[simp] theorem State.draw_mainUp (s : State) (n : Nat) : (s.draw n).mainUp = s.mainUp := rfl
@[simp] theorem State.draw_rsp (s : State) (n : Nat) : (s.draw n).rsp = s.rsp := rfl
@[simp] theorem State.draw_tenants (s : State) (n : Nat) : (s.draw n).tenants = s.tenants := rfl
@[simp] theorem State.draw_mgmt (s : State) (n : Nat) : (s.draw n).mgmt = s.mgmt := rfl
@[simp] theorem State.draw_tt (s : State) (n : Nat) : (s.draw n).tt = s.tt := rfl
@[simp] theorem State.draw_reqs (s : State) (n : Nat) : (s.draw n).reqs = s.reqs := rfl
@[simp] theorem State.draw_ended (s : State) (n : Nat) : (s.draw n).ended = s.ended := rfl
@[simp] theorem State.draw_nextRid (s : State) (n : Nat) : (s.draw n).nextRid = s.nextRid := rfl
@[simp] theorem State.draw_fab (s : State) (n : Nat) : (s.draw n).fab = s.fab := rfl
@[simp] theorem State.draw_cs (s : State) (n : Nat) : (s.draw n).cs = s.cs := rfl
@[simp] theorem State.draw_ds (s : State) (n : Nat) : (s.draw n).ds = s.ds := rfl
@[simp] theorem State.draw_vs (s : State) (n : Nat) : (s.draw n).vs = s.vs := rfl
@[simp] theorem State.draw_ss (s : State) (n : Nat) : (s.draw n).ss = s.ss := rfl
@[simp] theorem State.draw_ks (s : State) (n : Nat) : (s.draw n).ks = s.ks := rfl
@[simp] theorem State.draw_en (s : State) (n : Nat) : (s.draw n).en = s.en := rfl
@[simp] theorem State.draw_stations (s : State) (n : Nat) : (s.draw n).stations = s.stations := rfl
@[simp] theorem State.draw_pwr (s : State) (n : Nat) : (s.draw n).pwr = s.pwr := rfl
@[simp] theorem State.draw_aon (s : State) (n : Nat) : (s.draw n).aon = s.aon := rfl
@[simp] theorem State.draw_otp (s : State) (n : Nat) : (s.draw n).otp = s.otp := rfl
@[simp] theorem State.draw_nvm (s : State) (n : Nat) : (s.draw n).nvm = s.nvm := rfl
@[simp] theorem State.draw_lc (s : State) (n : Nat) : (s.draw n).lc = s.lc := rfl
@[simp] theorem State.draw_dbg (s : State) (n : Nat) : (s.draw n).dbg = s.dbg := rfl
@[simp] theorem State.draw_procs (s : State) (n : Nat) : (s.draw n).procs = s.procs := rfl
@[simp] theorem State.draw_cfg (s : State) (n : Nat) : (s.draw n).cfg = s.cfg := rfl
@[simp] theorem State.draw_flt (s : State) (n : Nat) : (s.draw n).flt = s.flt := rfl

/-! ### What the updates leave of `State.fixed` -/

@[simp ↓] theorem State.updPage_fixed (s : State) (t : Tenant) (f : TenantPage → TenantPage) : (s.updPage t f).fixed = s.fixed := rfl
@[simp ↓] theorem State.updMgmt_fixed (s : State) (f : Mgmt → Mgmt) (h0 : (f s.mgmt).held = s.mgmt.held) (h1 : (f s.mgmt).src = s.mgmt.src) (h2 : (f s.mgmt).holder = s.mgmt.holder) :
    (s.updMgmt f).fixed = s.fixed := by simp [State.fixed, *]
@[simp ↓] theorem State.updTt_fixed (s : State) (f : Timetable → Timetable) (h0 : (f s.tt).slot = s.tt.slot) (h1 : (f s.tt).started = s.tt.started) :
    (s.updTt f).fixed = s.fixed := by simp [State.fixed, *]
@[simp ↓] theorem State.updFab_fixed (s : State) (f : Fabric → Fabric) : (s.updFab f).fixed = s.fixed := rfl
@[simp ↓] theorem State.updVs_fixed (s : State) (f : Verify → Verify) : (s.updVs f).fixed = s.fixed := rfl
@[simp ↓] theorem State.updSs_fixed (s : State) (f : Sealed → Sealed) : (s.updSs f).fixed = s.fixed := rfl
@[simp ↓] theorem State.updKs_fixed (s : State) (f : Custody → Custody) : (s.updKs f).fixed = s.fixed := rfl
@[simp ↓] theorem State.updEn_fixed (s : State) (f : Entropy → Entropy) : (s.updEn f).fixed = s.fixed := rfl
@[simp ↓] theorem State.updPwr_fixed (s : State) (f : Power → Power) : (s.updPwr f).fixed = s.fixed := rfl
@[simp ↓] theorem State.updAon_fixed (s : State) (f : Aon → Aon) (h0 : (f s.aon).bbk = s.aon.bbk) :
    (s.updAon f).fixed = s.fixed := by simp [State.fixed, *]
@[simp ↓] theorem State.updNvm_fixed (s : State) (f : Nvm → Nvm) : (s.updNvm f).fixed = s.fixed := rfl
@[simp ↓] theorem State.updLc_fixed (s : State) (f : LifeCycle → LifeCycle) (h0 : (f s.lc).state = s.lc.state) :
    (s.updLc f).fixed = s.fixed := by simp [State.fixed, *]
@[simp ↓] theorem State.updDbg_fixed (s : State) (f : Debug → Debug) : (s.updDbg f).fixed = s.fixed := rfl
@[simp ↓] theorem State.updCfg_fixed (s : State) (f : Config → Config) (h0 : (f s.cfg).stage = s.cfg.stage) (h1 : (f s.cfg).coState = s.cfg.coState) :
    (s.updCfg f).fixed = s.fixed := by simp [State.fixed, *]
@[simp ↓] theorem State.updFlt_fixed (s : State) (f : Faults → Faults) (h0 : (f s.flt).lockdown = s.flt.lockdown) :
    (s.updFlt f).fixed = s.fixed := by simp [State.fixed, *]
@[simp ↓] theorem State.updProc_fixed (s : State) (p : Fin 3) (f : Proc → Proc) : (s.updProc p f).fixed = s.fixed := rfl
@[simp ↓] theorem State.mapProcs_fixed (s : State) (f : Proc → Proc) : (s.mapProcs f).fixed = s.fixed := rfl
@[simp ↓] theorem State.mapPages_fixed (s : State) (f : TenantPage → TenantPage) : (s.mapPages f).fixed = s.fixed := rfl
@[simp ↓] theorem State.mapReqs_fixed (s : State) (f : Request → Request) : (s.mapReqs f).fixed = s.fixed := rfl
@[simp ↓] theorem State.updStn_fixed (s : State) (n : Fin 7) (f : StationState → StationState) : (s.updStn n f).fixed = s.fixed := rfl
@[simp ↓] theorem State.updCs_fixed (s : State) (n : Fin 2) (f : CipherStation → CipherStation) : (s.updCs n f).fixed = s.fixed := rfl
@[simp ↓] theorem State.updDs_fixed (s : State) (n : Fin 2) (f : DigestStation → DigestStation) : (s.updDs n f).fixed = s.fixed := rfl
@[simp ↓] theorem State.updReq_fixed (s : State) (rid : Nat) (f : Request → Request) : (s.updReq rid f).fixed = s.fixed := rfl
@[simp ↓] theorem State.respond_fixed (s : State) (v : BitVec 64) : (s.respond v).fixed = s.fixed := rfl
@[simp ↓] theorem State.draw_fixed (s : State) (n : Nat) : (s.draw n).fixed = s.fixed := rfl

@[simp ↓] theorem assertBlk_fixed (bit : Nat) (s : State) : (assertBlk bit s).fixed = s.fixed := rfl
@[simp ↓] theorem assertTn_fixed (t : Tenant) (bit : Nat) (s : State) : (assertTn t bit s).fixed = s.fixed := rfl
@[simp ↓] theorem State.updRing_fixed (s : State) (t : Tenant) (k : RingNo) (f : Ring → Ring) :
    (s.updRing t k f).fixed = s.fixed := rfl
@[simp ↓] theorem State.updKe_fixed (s : State) (t : Tenant) (f : KeyEntry → KeyEntry) : (s.updKe t f).fixed = s.fixed := rfl
/-- Burning bits changes the fuse rows alone. -/
@[simp ↓] theorem State.burn_fixed (s : State) (row : Fin 128) (data : BitVec 64) :
    (s.burn row data).fixed = { s.fixed with otp := s.otp.set row (s.otp[row] ||| data) } := rfl

/-- A fold of operations that each leave the fixed parts leaves them. -/
@[simp ↓] theorem foldl_fixed {α : Type} (f : State → α → State) (h : ∀ s x, (f s x).fixed = s.fixed) (l : List α) (s : State) :
    (l.foldl f s).fixed = s.fixed := by
  induction l generalizing s with
  | nil => rfl
  | cons x l ih => rw [List.foldl_cons, ih, h]

/-- A state written out. -/
@[simp ↓] theorem mk_fixed (pending drawn tick wall mainUp rsp tenants mgmt tt reqs ended nextRid fab cs ds vs ss ks en stations pwr aon otp nvm lc dbg procs cfg flt) :
    (State.mk pending drawn tick wall mainUp rsp tenants mgmt tt reqs ended nextRid fab cs ds vs ss ks en stations pwr aon otp nvm lc dbg procs cfg flt).fixed =
      { pending := pending, tick := tick, wall := wall, mainUp := mainUp, otp := otp, stage := cfg.stage,
        coState := cfg.coState, slot := tt.slot, started := tt.started, lcState := lc.state, lockdown := flt.lockdown,
        bbk := aon.bbk, lock := (mgmt.held, mgmt.src, mgmt.holder) } := rfl

/-- The fixed parts of a state, put together again. -/
@[simp] theorem fixed_eta (s : State) :
    ({ pending := s.pending, tick := s.tick, wall := s.wall, mainUp := s.mainUp, otp := s.otp, stage := s.cfg.stage,
       coState := s.cfg.coState, slot := s.tt.slot, started := s.tt.started, lcState := s.lc.state,
       lockdown := s.flt.lockdown, bbk := s.aon.bbk, lock := (s.mgmt.held, s.mgmt.src, s.mgmt.holder) } : Fixed) = s.fixed := rfl

/-- A choice between two states. -/
@[simp ↓] theorem ite_fixed {c : Prop} [Decidable c] (s t : State) :
    (if c then s else t).fixed = if c then s.fixed else t.fixed := by split <;> rfl

end Sys2Proof.Machine
end

