-- ==== Sys2Proof/Laws/Fixed/PkOps.lean ====
section
/-! SUPPORT. What the operations of PkOps.lean leave of `State.fixed`. -/
namespace Sys2Proof.Machine

@[simp ↓] theorem endCurveLoad_fixed (l : CurveLoad) (code : Nat) (s : State) : (endCurveLoad l code s).fixed = s.fixed := by
  simp [endCurveLoad]

end Sys2Proof.Machine
end

