-- ==== Sys2Proof/Laws/Fixed/Collector.lean ====
section
/-! SUPPORT. What the operations of Collector.lean leave of `State.fixed`. -/
namespace Sys2Proof.Machine

@[simp] theorem record_lockdown (r : FaultRec) (f : Faults) : (record r f).lockdown = f.lockdown := by
  unfold record; dsimp only; split <;> rfl
@[simp] theorem latch_lockdown (m v : Nat) (c : BitVec 16) (n : BitVec 64) (f : Faults) :
    (latch m v c n f).lockdown = f.lockdown := by
  unfold latch; (repeat' split) <;> rfl
@[simp] theorem countReport_lockdown (c : BitVec 16) (f : Faults) : (countReport c f).lockdown = f.lockdown := rfl
@[simp] theorem ite_lockdown {c : Prop} [Decidable c] (f g : Faults) :
    (if c then f else g).lockdown = if c then f.lockdown else g.lockdown := by split <;> rfl

@[simp ↓] theorem setRole_fixed (key lane : Nat) (r : BitVec 4) (s : State) : (setRole key lane r s).fixed = s.fixed := by
  simp [setRole]

@[simp ↓] theorem logReport_fixed (proof : Bool) (c detail : BitVec 16) (cl : SevClass) (s : State) : (logReport proof c detail cl s).fixed = s.fixed := by
  simp [logReport]

@[simp ↓] theorem markRecords_fixed (c : BitVec 16) (tick : Nat) (g : FaultRec → FaultRec) (s : State) : (markRecords c tick g s).fixed = s.fixed := by
  simp [markRecords]

@[simp ↓] theorem discardAt_fixed (station pos : Nat) (s : State) : (discardAt station pos s).fixed = s.fixed := by
  simp [discardAt]

@[simp ↓] theorem discardInternal_fixed (key pos : Nat) (s : State) : (discardInternal key pos s).fixed = s.fixed := by
  simp [discardInternal]

@[simp ↓] theorem retireLane_fixed (key lane : Nat) (c : BitVec 16) (s : State) : (retireLane key lane c s).fixed = s.fixed := by
  unfold retireLane
  split <;> simp

@[simp ↓] theorem retireSource_fixed (n : Fin 4) (cause : BitVec 8) (s : State) : (retireSource n cause s).fixed = s.fixed := by
  simp [retireSource]

@[simp ↓] theorem takeAction_fixed (action : Nat) (c : BitVec 16) (s : State) : (takeAction action c s).fixed = s.fixed := by
  simp [takeAction]

@[simp ↓] theorem openWindow_fixed (c : BitVec 16) (cl : SevClass) (s : State) : (openWindow c cl s).fixed = s.fixed := by
  simp [openWindow]

@[simp ↓] theorem reportAs_fixed (proof : Bool) (c detail : BitVec 16) (s : State) : (reportAs proof c detail s).fixed = s.fixed := by
  simp [reportAs]

@[simp ↓] theorem faultReport_fixed (c detail : BitVec 16) (s : State) : (faultReport c detail s).fixed = s.fixed := by
  simp [faultReport]

@[simp ↓] theorem restoreLanes_fixed (sel : Nat → Nat → Bool) (s : State) : (restoreLanes sel s).fixed = s.fixed := by
  simp [restoreLanes]

@[simp ↓] theorem closeWindow_fixed (c : BitVec 16) (s : State) : (closeWindow c s).fixed = s.fixed := by
  simp [closeWindow]

@[simp ↓] theorem supersede_fixed (sel : BitVec 16 → Bool) (s : State) : (supersede sel s).fixed = s.fixed := by
  simp [supersede]

@[simp ↓] theorem supersedeCycle_fixed (st : Nat) (s : State) : (supersedeCycle st s).fixed = s.fixed := by
  simp [supersedeCycle]

@[simp ↓] theorem openAtCycle_fixed (c : BitVec 16) (cl : SevClass) (s : State) : (openAtCycle c cl s).fixed = s.fixed := by
  simp [openAtCycle]

@[simp ↓] theorem respondTo_fixed (sev : Nat) (c : BitVec 16) (s : State) : (respondTo sev c s).fixed = s.fixed := by
  simp [respondTo]

@[simp ↓] theorem latchLowest_fixed (n : Nat) (fresh : Bool) (c : BitVec 16) (cl : SevClass) (s : State) : (latchLowest n fresh c cl s).fixed = s.fixed := by
  simp [latchLowest]

@[simp ↓] theorem reportAtCycle_fixed (cycle : Nat) (c detail : BitVec 16) (s : State) : (reportAtCycle cycle c detail s).fixed = s.fixed := by
  simp [reportAtCycle]

@[simp ↓] theorem proofReport_fixed (c : BitVec 16) (s : State) : (proofReport c s).fixed = s.fixed := by
  simp [proofReport]

@[simp ↓] theorem markOverdue_fixed (s : State) : (markOverdue s).fixed = s.fixed := by
  simp [markOverdue]

end Sys2Proof.Machine
end

