-- ==== Sys2Proof/Laws/Reports.lean ====
section
/-! SUPPORT. What a report to the fault collector changes, and that its record is kept. -/
namespace Sys2Proof.Machine

theorem reportsOnly_refl (s : State) : State.reportsOnly s s := rfl

theorem reportsOnly_trans {s t u : State} (h1 : State.reportsOnly s t) (h2 : State.reportsOnly t u) : State.reportsOnly s u := by
  unfold State.reportsOnly at *
  rw [h2, h1]

/-- A change of the collector, of the requests, of the entropy service or of the block's interrupt sources alone. -/
theorem reportsOnly_mk (s : State) (f : Faults) (n : BitVec 64) (r : List Request) (e : Entropy) :
    State.reportsOnly s { s with flt := f, mgmt := { s.mgmt with intStatus := n }, reqs := r, en := e } := rfl

theorem updFlt_only (s : State) (f : Faults → Faults) : State.reportsOnly s (s.updFlt f) := rfl
theorem updEn_only (s : State) (f : Entropy → Entropy) : State.reportsOnly s (s.updEn f) := rfl
theorem assertBlk_only (n : Nat) (s : State) : State.reportsOnly s (assertBlk n s) := rfl
theorem setRole_only (key lane : Nat) (r : BitVec 4) (s : State) : State.reportsOnly s (setRole key lane r s) := rfl
theorem markRecords_only (c : BitVec 16) (n : Nat) (g : FaultRec → FaultRec) (s : State) :
    State.reportsOnly s (markRecords c n g s) := rfl
theorem discardAt_only (st pos : Nat) (s : State) : State.reportsOnly s (discardAt st pos s) := rfl

theorem logReport_only (p : Bool) (c d : BitVec 16) (cl : SevClass) (s : State) : State.reportsOnly s (logReport p c d cl s) := by
  unfold logReport; dsimp only; split <;> rfl

theorem discardInternal_only (key pos : Nat) (s : State) : State.reportsOnly s (discardInternal key pos s) := by
  unfold discardInternal; (repeat' split) <;> rfl

theorem discardInternal_flt (key pos : Nat) (s : State) : (discardInternal key pos s).flt = s.flt := by
  unfold discardInternal; (repeat' split) <;> rfl

theorem retireLane_only (key lane : Nat) (c : BitVec 16) (s : State) : State.reportsOnly s (retireLane key lane c s) := by
  unfold retireLane; dsimp only
  split
  · rfl
  · split
    · rfl
    · exact reportsOnly_trans (by
        split
        · exact reportsOnly_trans (discardAt_only _ _ _) (discardInternal_only _ _ _)
        · exact reportsOnly_refl _) (reportsOnly_trans (setRole_only key lane 11 _) (updFlt_only _ _))

theorem retireSource_only (n : Fin 4) (c : BitVec 8) (s : State) : State.reportsOnly s (retireSource n c s) := by
  unfold retireSource; split <;> rfl

theorem takeAction_only (a : Nat) (c : BitVec 16) (s : State) : State.reportsOnly s (takeAction a c s) := by
  unfold takeAction
  split
  · split
    · exact retireSource_only _ _ _
    · exact retireLane_only _ _ _ _
  · split
    · rfl
    · split <;> rfl

theorem openWindow_only (c : BitVec 16) (cl : SevClass) (s : State) : State.reportsOnly s (openWindow c cl s) := by
  unfold openWindow; dsimp only
  split
  · rfl
  · split
    · rfl
    · exact reportsOnly_trans (reportsOnly_trans (reportsOnly_trans (markRecords_only _ _ _ _) (takeAction_only _ _ _))
        (logReport_only _ _ _ _ _)) (takeAction_only _ _ _)

theorem reportAs_only (p : Bool) (c d : BitVec 16) (s : State) : State.reportsOnly s (reportAs p c d s) := by
  unfold reportAs; dsimp only
  split
  · exact reportsOnly_trans (logReport_only _ _ _ _ _) (openWindow_only _ _ _)
  · split
    · exact reportsOnly_trans (logReport_only _ _ _ _ _) (takeAction_only _ _ _)
    · exact logReport_only _ _ _ _ _

/-- A report changes the collector, the interrupt sources, and what a retirement touches. -/
theorem faultReport_only (c d : BitVec 16) (s : State) : State.reportsOnly s (faultReport c d s) := reportAs_only _ _ _ _

theorem restoreLanes_only (sel : Nat → Nat → Bool) (s : State) : State.reportsOnly s (restoreLanes sel s) := by
  unfold restoreLanes; dsimp only
  refine reportsOnly_trans ?_ (updFlt_only _ _)
  generalize (s.flt.retiring.filter _) = l
  have : ∀ (l : List (Nat × Nat × BitVec 16 × Nat)) (u : State), State.reportsOnly u (l.foldl (fun s x =>
      setRole x.1 x.2.1 (BitVec.ofNat 4 x.2.2.2) (markRecords x.2.2.1 s.now (fun r => { r with action := false }) s)) u) := by
    intro l
    induction l with
    | nil => intro u; rfl
    | cons x l ih =>
      intro u
      exact reportsOnly_trans (t := setRole x.1 x.2.1 (BitVec.ofNat 4 x.2.2.2) (markRecords x.2.2.1 u.now _ u)) rfl (ih _)
  exact this _ _

theorem supersede_only (sel : BitVec 16 → Bool) (s : State) : State.reportsOnly s (supersede sel s) := by
  unfold supersede
  generalize (s.flt.timers.filter _) = l
  have : ∀ (l : List EscTimer) (u : State), State.reportsOnly u (l.foldl (fun s t =>
      markRecords t.source (t.opens - 1) (fun x => { x with superseded := true }) (closeWindow t.source s)) u) := by
    intro l
    induction l with
    | nil => intro u; rfl
    | cons x l ih =>
      intro u
      exact reportsOnly_trans (t := markRecords x.source (x.opens - 1) _ (closeWindow x.source u)) rfl (ih _)
  exact this _ _

theorem supersedeCycle_only (st : Nat) (s : State) : State.reportsOnly s (supersedeCycle st s) := by
  unfold supersedeCycle
  exact reportsOnly_trans (supersede_only _ _) (restoreLanes_only _ _)

theorem openAtCycle_only (c : BitVec 16) (cl : SevClass) (s : State) : State.reportsOnly s (openAtCycle c cl s) := by
  unfold openAtCycle; dsimp only
  split
  · rfl
  · exact reportsOnly_trans (reportsOnly_trans (restoreLanes_only _ _) (updFlt_only _ _)) (openWindow_only _ _ _)

theorem respondTo_only (sev : Nat) (c : BitVec 16) (s : State) : State.reportsOnly s (respondTo sev c s) := by
  unfold respondTo; dsimp only
  generalize (if sev = 5 then 7 else srcStation c) = st
  split
  · exact reportsOnly_trans (reportsOnly_trans (updFlt_only _ _) (supersedeCycle_only _ _)) (takeAction_only _ _ _)
  · split
    · rfl
    · split
      · exact takeAction_only _ _ _
      · exact reportsOnly_trans (takeAction_only _ _ _) (updFlt_only _ _)

theorem latchLowest_only (n : Nat) (b : Bool) (c : BitVec 16) (cl : SevClass) (s : State) :
    State.reportsOnly s (latchLowest n b c cl s) := by
  unfold latchLowest; (repeat' split) <;> rfl

/-- So does a report in a cycle of the tick. -/
theorem reportAtCycle_only (n : Nat) (c d : BitVec 16) (s : State) : State.reportsOnly s (reportAtCycle n c d s) := by
  unfold reportAtCycle; dsimp only
  generalize hu : (if s.flt.cycleAt = some (320 * s.now + n) then s else s.updFlt _) = u
  have h : State.reportsOnly s u := by rw [← hu]; split <;> rfl
  have h2 := reportsOnly_trans (reportsOnly_trans h (logReport_only false c d (severityOf u c) u))
    (latchLowest_only (320 * s.now + n) (!u.flt.fValid) c (severityOf u c) _)
  split
  · exact reportsOnly_trans h2 (openAtCycle_only _ _ _)
  · split
    · exact reportsOnly_trans h2 (respondTo_only _ _ _)
    · exact h2

/-! ### Records stay -/

/-- `t` keeps the tick, the image, and the sources, ticks and severities of the records of `s`. -/
def State.recordsKept (s t : State) : Prop :=
  (t.tick = s.tick ∧ t.image = s.image) ∧ ∀ r ∈ s.flt.recent, r.tick = s.now →
    ∃ q ∈ t.flt.recent, q.source = r.source ∧ q.tick = r.tick ∧ r.severity ≤ q.severity

theorem recordsKept_refl (s : State) : State.recordsKept s s := ⟨⟨rfl, rfl⟩, fun r h _ => ⟨r, h, rfl, rfl, Nat.le_refl _⟩⟩

theorem recordsKept_trans {s t u : State} (h1 : State.recordsKept s t) (h2 : State.recordsKept t u) : State.recordsKept s u := by
  refine ⟨⟨h2.1.1.trans h1.1.1, h2.1.2.trans h1.1.2⟩, fun r hr ht => ?_⟩
  obtain ⟨q, hq, h3, h4, h5⟩ := h1.2 r hr ht
  have : t.now = s.now := congrArg BitVec.toNat h1.1.1
  obtain ⟨w, hw, h6, h7, h8⟩ := h2.2 q hq (by rw [h4, ht, this])
  exact ⟨w, hw, h6.trans h3, h7.trans h4, Nat.le_trans h5 h8⟩

theorem recordsKept_of_recent {s t : State} (h1 : t.tick = s.tick) (h0 : t.image = s.image) (h2 : t.flt.recent = s.flt.recent) :
    State.recordsKept s t :=
  ⟨⟨h1, h0⟩, fun r hr _ => ⟨r, by rw [h2]; exact hr, rfl, rfl, Nat.le_refl _⟩⟩

theorem severityOf_image {s t : State} (h : t.image = s.image) (c : BitVec 16) : severityOf t c = severityOf s c := by
  unfold severityOf; rw [h]

theorem reported_of_kept {s t : State} {c : BitVec 16} (h : State.recordsKept s t) (hr : s.reported c) : t.reported c := by
  obtain ⟨r, h1, h2, h3, h4⟩ := hr
  obtain ⟨q, hq, h5, h6, h7⟩ := h.2 r h1 h3
  have : t.now = s.now := congrArg BitVec.toNat h.1.1
  exact ⟨q, hq, h5.trans h2, by rw [h6, h3, this], by rw [severityOf_image h.1.2]; exact Nat.le_trans h4 h7⟩

theorem reportsOnly_image {s t : State} (h : State.reportsOnly s t) : t.image = s.image := by rw [h]; rfl

theorem mem_addRecord (r : FaultRec) (l : List FaultRec) :
    (∀ x ∈ l, ∃ q ∈ addRecord r l, q.source = x.source ∧ q.tick = x.tick ∧ x.severity ≤ q.severity) ∧
      ∃ q ∈ addRecord r l, q.source = r.source ∧ q.tick = r.tick ∧ r.severity ≤ q.severity := by
  induction l with
  | nil => exact ⟨fun x h => (by cases h), ⟨r, by simp [addRecord], rfl, rfl, Nat.le_refl _⟩⟩
  | cons y l ih =>
    unfold addRecord
    split
    · rename_i h
      refine ⟨fun x hx => ?_, ⟨_, List.mem_cons_self, h.1, h.2, Nat.le_max_right _ _⟩⟩
      obtain rfl | hx := List.mem_cons.mp hx
      · exact ⟨_, List.mem_cons_self, rfl, rfl, Nat.le_max_left _ _⟩
      · exact ⟨x, List.mem_cons_of_mem _ hx, rfl, rfl, Nat.le_refl _⟩
    · refine ⟨fun x hx => ?_, ?_⟩
      · obtain rfl | hx := List.mem_cons.mp hx
        · exact ⟨x, List.mem_cons_self, rfl, rfl, Nat.le_refl _⟩
        · obtain ⟨q, hq, h⟩ := ih.1 x hx
          exact ⟨q, List.mem_cons_of_mem _ hq, h⟩
      · obtain ⟨q, hq, h⟩ := ih.2
        exact ⟨q, List.mem_cons_of_mem _ hq, h⟩

theorem record_recent (r : FaultRec) (f : Faults) :
    (record r f).recent = addRecord r (f.recent.filter fun x => x.tick + 4096 > r.tick) := by
  unfold record; dsimp only; split <;> rfl

theorem latch_recent (m v : Nat) (c : BitVec 16) (n : BitVec 64) (f : Faults) : (latch m v c n f).recent = f.recent := by
  unfold latch; split
  · rfl
  · split <;> rfl

theorem logReport_recent (p : Bool) (c d : BitVec 16) (cl : SevClass) (s : State) :
    ∃ r : FaultRec, r.tick = s.now ∧ r.source = c ∧ r.severity = cl.sev ∧
      (logReport p c d cl s).flt.recent = addRecord r (s.flt.recent.filter fun x => x.tick + 4096 > r.tick) ∧
      (logReport p c d cl s).tick = s.tick := by
  refine ⟨{ FaultRec.reset with tick := s.now, source := c, severity := cl.sev, proof := p, promoted := cl.promoted, count := 1,
                                action := cl.sev == 2 || cl.sev ≥ 4, detail := d }, rfl, rfl, rfl, ?_, ?_⟩
  rotate_left
  · unfold logReport; dsimp only; split <;> rfl
  · unfold logReport; dsimp only
    split <;> simp [State.updFlt, assertBlk, State.updMgmt, countReport, latch_recent, record_recent] <;> rfl

theorem logReport_kept (p : Bool) (c d : BitVec 16) (cl : SevClass) (s : State) : State.recordsKept s (logReport p c d cl s) := by
  obtain ⟨r, h1, h2, h3, h4, h5⟩ := logReport_recent p c d cl s
  refine ⟨⟨h5, reportsOnly_image (logReport_only p c d cl s)⟩, fun x hx ht => ?_⟩
  rw [h4]
  exact (mem_addRecord r (s.flt.recent.filter fun x => x.tick + 4096 > r.tick)).1 x
    (List.mem_filter.mpr ⟨hx, by simp [ht, h1]⟩)

theorem logReport_reported (p : Bool) (c d : BitVec 16) (s : State) : (logReport p c d (severityOf s c) s).reported c := by
  obtain ⟨r, h1, h2, h3, h4, h5⟩ := logReport_recent p c d (severityOf s c) s
  obtain ⟨q, hq, ha, hb, hc⟩ := (mem_addRecord r (s.flt.recent.filter fun x => x.tick + 4096 > r.tick)).2
  refine ⟨q, by rw [h4]; exact hq, ha.trans h2, ?_, ?_⟩
  · rw [hb, h1]; exact (congrArg BitVec.toNat h5).symm
  · rw [severityOf_image (reportsOnly_image (logReport_only p c d (severityOf s c) s)), ← h3]; exact hc

theorem takeAction_records (a : Nat) (c : BitVec 16) (s : State) : State.recordsKept s (takeAction a c s) := by
  apply recordsKept_of_recent
  · rw [takeAction_only]
  · exact reportsOnly_image (takeAction_only a c s)
  · unfold takeAction retireSource retireLane setRole
    dsimp only
    (repeat' split) <;> first | rfl | (simp only [State.updFlt, discardInternal_flt]; rfl)

theorem markRecords_records (c : BitVec 16) (n : Nat) (g : FaultRec → FaultRec)
    (hg : ∀ r, (g r).source = r.source ∧ (g r).tick = r.tick ∧ (g r).severity = r.severity) (s : State) :
    State.recordsKept s (markRecords c n g s) := by
  refine ⟨⟨rfl, rfl⟩, fun r hr _ => ?_⟩
  refine ⟨_, List.mem_map.mpr ⟨r, hr, rfl⟩, ?_⟩
  split
  · exact ⟨(hg r).1, (hg r).2.1, Nat.le_of_eq (hg r).2.2.symm⟩
  · exact ⟨rfl, rfl, Nat.le_refl _⟩

theorem openWindow_records (c : BitVec 16) (cl : SevClass) (s : State) : State.recordsKept s (openWindow c cl s) := by
  unfold openWindow; dsimp only
  split
  · exact recordsKept_refl s
  · split
    · exact recordsKept_of_recent rfl rfl rfl
    · exact recordsKept_trans (recordsKept_trans (recordsKept_trans (markRecords_records c s.now (fun x => { x with action := true }) (fun _ => ⟨rfl, rfl, rfl⟩) s)
        (takeAction_records _ _ _)) (logReport_kept _ _ _ _ _)) (takeAction_records _ _ _)

theorem reportAs_records (p : Bool) (c d : BitVec 16) (s : State) : State.recordsKept s (reportAs p c d s) := by
  unfold reportAs; dsimp only
  split
  · exact recordsKept_trans (logReport_kept _ _ _ _ _) (openWindow_records _ _ _)
  · split
    · exact recordsKept_trans (logReport_kept _ _ _ _ _) (takeAction_records _ _ _)
    · exact logReport_kept _ _ _ _ _

/-- A report keeps the records of the tick. -/
theorem faultReport_records (c d : BitVec 16) (s : State) : State.recordsKept s (faultReport c d s) := reportAs_records _ _ _ _

/-- A report is among the records of the tick. -/
theorem faultReport_reported (c d : BitVec 16) (s : State) : (faultReport c d s).reported c := by
  unfold faultReport reportAs; dsimp only
  split
  · exact reported_of_kept (openWindow_records _ _ _) (logReport_reported _ _ _ _)
  · split
    · exact reported_of_kept (takeAction_records _ _ _) (logReport_reported _ _ _ _)
    · exact logReport_reported _ _ _ _

theorem assertBlk_bit (n : Nat) (h : n < 64) (s : State) : (assertBlk n s).mgmt.intStatus.getLsbD n = true := by
  have : (1#64 <<< n).getLsbD n = true := by simp [h]
  simp [assertBlk, State.updMgmt, this]

end Sys2Proof.Machine
end

