-- ==== Sys2Proof/Laws/Ends.lean ====
section
/-! SUPPORT. What the end of a request changes. -/
namespace Sys2Proof.Machine

/-- `t` differs from `s` in what the end of a request with an identifier changes: the request is gone, an entry is owed, and the
memories, hold chunks and handles it held are given back. -/
def State.endedOnly (s t : State) (rid : Nat) (e : Ended) : Prop :=
  t = { s with reqs := s.reqs.filter (fun x => x.rid ≠ rid), ended := s.ended ++ [e], vs := t.vs, ss := t.ss, cs := t.cs,
               tt := { s.tt with holdFreed := t.tt.holdFreed }, ks := t.ks, stations := t.stations }

theorem filter_updated (l : List Request) (rid : Nat) (f : Request → Request) (hf : ∀ r, (f r).rid = r.rid) :
    (l.map fun r => if r.rid = rid then f r else r).filter (fun x => x.rid ≠ rid) = l.filter fun x => x.rid ≠ rid := by
  induction l with
  | nil => rfl
  | cons x l ih =>
    by_cases h : x.rid = rid
    · simp [h, hf] at ih ⊢
      exact ih
    · simp [h] at ih ⊢
      exact ih

theorem foldl_ks {α : Type} (f : State → α → State) (hf : ∀ s d, ∃ k, f s d = { s with ks := k }) (l : List α) (s : State) :
    ∃ k, l.foldl f s = { s with ks := k } := by
  induction l generalizing s with
  | nil => exact ⟨s.ks, rfl⟩
  | cons x l ih =>
    obtain ⟨k, hk⟩ := hf s x
    obtain ⟨k', hk'⟩ := ih (f s x)
    exact ⟨k', by rw [List.foldl_cons, hk', hk]⟩

theorem evictFor_ks (n fuel : Nat) (s : State) : ∃ k, evictFor n fuel s = { s with ks := k } := by
  induction fuel generalizing s with
  | zero => exact ⟨s.ks, rfl⟩
  | succ m ih =>
    unfold evictFor
    split
    · exact ⟨s.ks, rfl⟩
    · split
      · exact ⟨s.ks, rfl⟩
      · obtain ⟨k, h⟩ := ih _
        exact ⟨k, h⟩

theorem cachePut_ks (c : CacheSlot) (s : State) : ∃ k, cachePut c s = { s with ks := k } := by
  unfold cachePut
  dsimp only
  generalize hu : (s.updKs _) = u
  have h : ∃ k, u = { s with ks := k } := ⟨u.ks, by rw [← hu]; rfl⟩
  obtain ⟨k0, rfl⟩ := h
  split
  · obtain ⟨k1, h1⟩ := evictFor_ks (slotsFor c.value.length) k0.cache.length { s with ks := k0 }
    dsimp only at h1 ⊢
    rw [h1]
    split <;> exact ⟨_, rfl⟩
  · exact ⟨_, rfl⟩

theorem unpin_ks (rid : Nat) (s : State) : ∃ k, unpin rid s = { s with ks := k } := by
  unfold unpin
  dsimp only
  generalize List.filter _ s.ks.cache = l
  obtain ⟨k, h⟩ := foldl_ks (fun s (c : CacheSlot) =>
    if c.part == .miss ∧ ¬ c.old ∧ c.pins = [rid] then cachePut { c with part := .pool, pins := [] } s else s)
    (fun s c => by
      split
      · exact cachePut_ks _ _
      · exact ⟨s.ks, rfl⟩) l
    (s.updKs fun k => { k with cache := k.cache.map fun c => { c with pins := c.pins.filter (· ≠ rid) } })
  rw [h]
  exact ⟨_, rfl⟩

/-- What giving a step's hold chunks back changes: the chunks of its station, the note of the boundary, and that step's record of them. -/
theorem freeHold_only (r : Request) (s : State) (i : Nat) : ∃ c n q, freeHold r s i =
    { s with cs := c, tt := { s.tt with holdFreed := n }, reqs := q } ∧
      q.filter (fun x => x.rid ≠ r.rid) = s.reqs.filter fun x => x.rid ≠ r.rid := by
  unfold freeHold
  dsimp only
  split
  · exact ⟨s.cs, s.tt.holdFreed, s.reqs, rfl, rfl⟩
  · exact ⟨_, _, _, rfl, filter_updated _ _ _ fun _ => rfl⟩

theorem foldl_freeHold_only (r : Request) (l : List Nat) (s : State) : ∃ c n q, l.foldl (freeHold r) s =
    { s with cs := c, tt := { s.tt with holdFreed := n }, reqs := q } ∧
      q.filter (fun x => x.rid ≠ r.rid) = s.reqs.filter fun x => x.rid ≠ r.rid := by
  induction l generalizing s with
  | nil => exact ⟨s.cs, s.tt.holdFreed, s.reqs, rfl, rfl⟩
  | cons i l ih =>
    obtain ⟨c, n, q, h, hq⟩ := freeHold_only r s i
    obtain ⟨c', n', q', h', hq'⟩ := ih (freeHold r s i)
    refine ⟨c', n', q', ?_, ?_⟩
    · rw [List.foldl_cons, h', h]
    · rw [hq', h]; exact hq

/-- A request that ends: what changes, and what its regions give back. -/
theorem closeRequest_only (r : Request) (status : Nat) (aux : Bytes) (due : Nat) (s : State) :
    State.endedOnly s (closeRequest r status aux due s) r.rid (endedOf r status aux due) ∧
      (closeRequest r status aux due s).vs = { s.vs with memUsed := s.vs.memUsed - r.vsBlocks } ∧
      (closeRequest r status aux due s).ss = { s.ss with memUsed := s.ss.memUsed - r.ssBlocks } := by
  unfold closeRequest
  dsimp only
  obtain ⟨c, n, q, h1, h2⟩ : ∃ c n q, freeRegions r s = { dropDerived (fun d => d.rid = r.rid) s with
      vs := { s.vs with memUsed := s.vs.memUsed - r.vsBlocks }, ss := { s.ss with memUsed := s.ss.memUsed - r.ssBlocks },
      cs := c, tt := { s.tt with holdFreed := n }, reqs := q } ∧
        q.filter (fun x => x.rid ≠ r.rid) = s.reqs.filter fun x => x.rid ≠ r.rid := by
    obtain ⟨c, n, q, h, hq⟩ := foldl_freeHold_only r (List.range r.steps.length)
      (dropDerived (fun d => d.rid = r.rid) ((s.updVs fun v => { v with memUsed := v.memUsed - r.vsBlocks }).updSs
        fun v => { v with memUsed := v.memUsed - r.ssBlocks }))
    exact ⟨c, n, q, h, hq⟩
  rw [h1]
  have h3 : ∀ u : State, ∃ k, (if status = 0 then u else
      r.descs.foldl (fun s d => if receives d then unpend r.tenant (Desc.keyB d) s else s) u) = { u with ks := k } := by
    intro u
    split
    · exact ⟨u.ks, rfl⟩
    · refine foldl_ks _ (fun s d => ?_) _ _
      split
      · exact ⟨_, rfl⟩
      · exact ⟨s.ks, rfl⟩
  obtain ⟨k, h3⟩ := h3 { dropDerived (fun d => d.rid = r.rid) s with
      vs := { s.vs with memUsed := s.vs.memUsed - r.vsBlocks }, ss := { s.ss with memUsed := s.ss.memUsed - r.ssBlocks },
      cs := c, tt := { s.tt with holdFreed := n }, reqs := s.reqs.filter (fun x => x.rid ≠ r.rid),
      ended := s.ended ++ [endedOf r status aux due] }
  dsimp only at h2 ⊢
  rw [h2]
  obtain ⟨k', h4⟩ := unpin_ks r.rid { dropDerived (fun d => d.rid = r.rid) s with
      vs := { s.vs with memUsed := s.vs.memUsed - r.vsBlocks }, ss := { s.ss with memUsed := s.ss.memUsed - r.ssBlocks },
      cs := c, tt := { s.tt with holdFreed := n }, reqs := s.reqs.filter (fun x => x.rid ≠ r.rid),
      ended := s.ended ++ [endedOf r status aux due], ks := k }
  unfold dropDerived at h3 h4 ⊢
  dsimp only at h3 h4 ⊢
  rw [h3, h4]
  exact ⟨rfl, rfl, rfl⟩

theorem req_rid {s : State} {rid : Nat} {r : Request} (h : s.req? rid = some r) : r.rid = rid := by
  have := List.find?_some h
  simpa using this

/-- A request that fails with nothing left to write, or with a status that cuts its output, ends at once, in the tick that is due. -/
theorem failRequest_only {s : State} {rid : Nat} {r : Request} (h : s.req? rid = some r) (status : Nat) (source : BitVec 16)
    (due : Nat) (hc : (leftOver r).isEmpty = true ∨ cutsOutput status = true) :
    State.endedOnly s (failRequest rid status source due s) rid (endedOf r status (failAux r source) due) ∧
      (failRequest rid status source due s).vs = { s.vs with memUsed := s.vs.memUsed - r.vsBlocks } ∧
      (failRequest rid status source due s).ss = { s.ss with memUsed := s.ss.memUsed - r.ssBlocks } := by
  have hr := req_rid h
  unfold failRequest
  rw [h]
  dsimp only
  rw [if_pos hc, ← hr]
  exact closeRequest_only r status _ due s

/-- Any other request that fails drains the output of the steps that it has completed (03 R143). -/
theorem failRequest_drains {s : State} {rid : Nat} {r : Request} (h : s.req? rid = some r) (status : Nat) (source : BitVec 16)
    (due : Nat) (hc : ¬ ((leftOver r).isEmpty = true ∨ cutsOutput status = true)) :
    failRequest rid status source due s =
      dropDerived (fun d => d.rid = rid) (s.updReq rid fun r => r.failDraining status source) := by
  unfold failRequest
  rw [h]
  dsimp only
  rw [if_neg hc]

end Sys2Proof.Machine
end

