-- ==== Sys2Proof/Laws/Fixed/Gate.lean ====
section
/-! SUPPORT. What the operations of Gate.lean leave of `State.fixed`. -/
namespace Sys2Proof.Machine

@[simp ↓] theorem foreignAccess_fixed (i : Ident) (off : Nat) (wr : Bool) (s : State) : (foreignAccess i off wr s).fixed = s.fixed := by
  simp [foreignAccess]

@[simp ↓] theorem reservedAccess_fixed (s : State) : (reservedAccess s).fixed = s.fixed := by
  simp [reservedAccess]

@[simp ↓] theorem deniedWrite_fixed (s : State) : (deniedWrite s).fixed = s.fixed := by
  simp [deniedWrite]

@[simp ↓] theorem gateWrite_fixed (i : Ident) (off : Nat) (rg : Region) (lock : Bool) (eff : State → State) (s : State)
    (h : (eff s).fixed = s.fixed) : (gateWrite i off rg lock eff s).fixed = s.fixed := by
  unfold gateWrite
  split <;> simp [h]

@[simp ↓] theorem gateRead_fixed (i : Ident) (off : Nat) (rg : Region) (keeps : Bool) (val : State → BitVec 64) (s : State) : (gateRead i off rg keeps val s).fixed = s.fixed := by
  unfold gateRead
  split <;> simp

@[simp ↓] theorem mgmtWrite_fixed (i : Ident) (off : Nat) (eff : State → State) (s : State)
    (h : (eff s).fixed = s.fixed) : (mgmtWrite i off eff s).fixed = s.fixed := by
  simp [mgmtWrite, h]

@[simp ↓] theorem supWrite_fixed (i : Ident) (off : Nat) (eff : State → State) (s : State)
    (h : (eff s).fixed = s.fixed) : (supWrite i off eff s).fixed = s.fixed := by
  simp [supWrite, h]

@[simp ↓] theorem pageWrite_fixed (i : Ident) (t : Tenant) (o : Nat) (eff : State → State) (s : State)
    (h : (eff s).fixed = s.fixed) : (pageWrite i t o eff s).fixed = s.fixed := by
  simp [pageWrite, h]

end Sys2Proof.Machine
end

