-- ==== Sys2Proof/Laws/Fixed/EntropyOps.lean ====
section
/-! SUPPORT. What the operations of EntropyOps.lean leave of `State.fixed`. -/
namespace Sys2Proof.Machine

@[simp ↓] theorem failSource_fixed (n : Fin 4) (cause : BitVec 8) (s : State) : (failSource n cause s).fixed = s.fixed := by
  simp [failSource]

@[simp ↓] theorem sampleTick_fixed (units : Nat) (s : State) : (sampleTick units s).fixed = s.fixed := by
  simp [sampleTick]

@[simp ↓] theorem entropyBoundary_fixed (s : State) : (entropyBoundary s).fixed = s.fixed := by
  simp [entropyBoundary]

@[simp ↓] theorem startRetest_fixed (n : Fin 4) (s : State) : (startRetest n s).fixed = s.fixed := by
  simp [startRetest]

@[simp ↓] theorem writeEnCtrl_fixed (v : BitVec 32) (s : State) : (writeEnCtrl v s).fixed = s.fixed := by
  simp [writeEnCtrl]

@[simp ↓] theorem writeEnBuf_fixed (v : BitVec 64) (s : State) : (writeEnBuf v s).fixed = s.fixed := by
  simp [writeEnBuf]

end Sys2Proof.Machine
end

