-- ==== Sys2Proof/Laws/Fixed/KeyOps.lean ====
section
/-! SUPPORT. What the operations of KeyOps.lean leave of `State.fixed`. -/
namespace Sys2Proof.Machine

@[simp ↓] theorem loadSystem_fixed (s : State) : (loadSystem s).fixed = s.fixed := rfl

@[simp ↓] theorem evictFor_fixed (need fuel : Nat) (s : State) : (evictFor need fuel s).fixed = s.fixed := by
  induction fuel generalizing s with
  | zero => rfl
  | succ n ih =>
    unfold evictFor
    (repeat' split) <;> simp [ih]

@[simp ↓] theorem State.updStore_fixed (s : State) (f : StoreArea → StoreArea) : (State.updStore s f).fixed = s.fixed := by
  simp [State.updStore]

@[simp ↓] theorem State.updOtherStore_fixed (s : State) (f : StoreArea → StoreArea) : (State.updOtherStore s f).fixed = s.fixed := by
  simp [State.updOtherStore]

@[simp ↓] theorem copyRewrapped_fixed (r : StoreRec) (s : State) : (copyRewrapped r s).fixed = s.fixed := by
  simp [copyRewrapped]

@[simp ↓] theorem cachePut_fixed (c : CacheSlot) (s : State) : (cachePut c s).fixed = s.fixed := by
  simp [cachePut]

@[simp ↓] theorem pinSlot_fixed (rid t h : Nat) (s : State) : (pinSlot rid t h s).fixed = s.fixed := by
  simp [pinSlot]

@[simp ↓] theorem unpin_fixed (rid : Nat) (s : State) : (unpin rid s).fixed = s.fixed := by
  simp [unpin]

@[simp ↓] theorem unpinCarried_fixed (rid : Nat) (s : State) : (unpinCarried rid s).fixed = s.fixed := by
  simp [unpinCarried]

@[simp ↓] theorem receiveSlot_fixed (c : CacheSlot) (s : State) : (receiveSlot c s).fixed = s.fixed := by
  simp [receiveSlot]

@[simp ↓] theorem unpend_fixed (t h : Nat) (s : State) : (unpend t h s).fixed = s.fixed := by
  simp [unpend]

@[simp ↓] theorem updIv_fixed (t h : Nat) (f : IvCtr → IvCtr) (s : State) : (updIv t h f s).fixed = s.fixed := by
  simp [updIv]

end Sys2Proof.Machine
end

