-- ==== Sys2Proof/Laws/Fixed/Mailbox.lean ====
section
/-! SUPPORT. What the operations of Mailbox.lean leave of `State.fixed`. -/
namespace Sys2Proof.Machine

@[simp ↓] theorem State.updMbo_fixed (s : State) (b : Box) (f : MboxOut → MboxOut) : (State.updMbo s b f).fixed = s.fixed := by
  unfold State.updMbo
  split <;> simp

@[simp ↓] theorem State.updMbi_fixed (s : State) (b : Box) (f : MboxIn → MboxIn) : (State.updMbi s b f).fixed = s.fixed := by
  unfold State.updMbi
  split <;> simp

@[simp ↓] theorem notifyOut_fixed (b : Box) (s : State) : (notifyOut b s).fixed = s.fixed := by
  unfold notifyOut
  split <;> simp

@[simp ↓] theorem notifyIn_fixed (b : Box) (s : State) : (notifyIn b s).fixed = s.fixed := by
  unfold notifyIn
  split <;> simp

@[simp ↓] theorem sendMessage_fixed (b : Box) (i : Ident) (v : BitVec 32) (s : State) : (sendMessage b i v s).fixed = s.fixed := by
  simp [sendMessage]

@[simp ↓] theorem ackMessage_fixed (b : Box) (v : BitVec 32) (s : State) : (ackMessage b v s).fixed = s.fixed := by
  simp [ackMessage]

@[simp ↓] theorem writeMboData_fixed (b : Box) (n : Fin 8) (v : BitVec 64) (s : State) : (writeMboData b n v s).fixed = s.fixed := by
  simp [writeMboData]

@[simp ↓] theorem writeMboStat_fixed (b : Box) (v : BitVec 32) (s : State) : (writeMboStat b v s).fixed = s.fixed := by
  simp [writeMboStat]

@[simp ↓] theorem takeMessage_fixed (m : Msg) (s : State) : (takeMessage m s).fixed = s.fixed := by
  simp [takeMessage]

@[simp ↓] theorem reply_fixed (b : Box) (code seq status : Nat) (params : Bytes) (s : State) : (reply b code seq status params s).fixed = s.fixed := by
  simp [reply]

@[simp ↓] theorem answer_fixed (m : Msg) (status : Nat) (s : State) : (answer m status s).fixed = s.fixed := by
  simp [answer]

@[simp ↓] theorem answerBusy_fixed (m : Msg) (s : State) : (answerBusy m s).fixed = s.fixed := by
  simp [answerBusy]

@[simp ↓] theorem refuse_fixed (m : Msg) (status : Nat) (s : State) : (refuse m status s).fixed = s.fixed := by
  simp [refuse]

@[simp ↓] theorem onRequest_fixed (code : Nat) (act : Msg → State → State) (s : State)
    (h : ∀ m s, (act m s).fixed = s.fixed) : (onRequest code act s).fixed = s.fixed := by
  unfold onRequest
  dsimp only
  (repeat' split) <;> simp [h]

@[simp ↓] theorem abortBox_fixed (s : State) (b : Box) : (abortBox s b).fixed = s.fixed := by
  simp [abortBox]

@[simp ↓] theorem loseRequests_fixed (s : State) : (loseRequests s).fixed = s.fixed := by
  unfold loseRequests
  dsimp only
  rw [State.updLc_fixed, State.updCfg_fixed, State.updSs_fixed, State.updKs_fixed, State.updVs_fixed, State.updMgmt_fixed] <;> rfl

@[simp ↓] theorem clearOutboxes_fixed (s : State) : (clearOutboxes s).fixed = s.fixed := by
  simp [clearOutboxes]

end Sys2Proof.Machine
end

