-- ==== Sys2Proof/Laws/Fixed/RingOps.lean ====
section
/-! SUPPORT. What the operations of RingOps.lean leave of `State.fixed`. -/
namespace Sys2Proof.Machine

@[simp ↓] theorem writeRingCfg_fixed (t : Tenant) (k : RingNo) (v : BitVec 32) (s : State) : (writeRingCfg t k v s).fixed = s.fixed := by
  simp [writeRingCfg]

@[simp ↓] theorem writeRqBase_fixed (t : Tenant) (k : RingNo) (v : BitVec 64) (s : State) : (writeRqBase t k v s).fixed = s.fixed := by
  simp [writeRqBase]

@[simp ↓] theorem writeCqBase_fixed (t : Tenant) (k : RingNo) (v : BitVec 64) (s : State) : (writeCqBase t k v s).fixed = s.fixed := by
  simp [writeCqBase]

@[simp ↓] theorem doorbell_fixed (t : Tenant) (k : RingNo) (v : BitVec 32) (s : State) : (doorbell t k v s).fixed = s.fixed := by
  simp [doorbell]

@[simp ↓] theorem writeCqHead_fixed (t : Tenant) (k : RingNo) (v : BitVec 32) (s : State) : (writeCqHead t k v s).fixed = s.fixed := by
  simp [writeCqHead]

@[simp ↓] theorem writeCoal_fixed (t : Tenant) (k : RingNo) (v : BitVec 32) (s : State) : (writeCoal t k v s).fixed = s.fixed := by
  simp [writeCoal]

@[simp ↓] theorem writeRingStat_fixed (t : Tenant) (k : RingNo) (v : BitVec 32) (s : State) : (writeRingStat t k v s).fixed = s.fixed := by
  simp [writeRingStat]

@[simp ↓] theorem writeFifoCtrl_fixed (t : Tenant) (v : BitVec 32) (s : State) : (writeFifoCtrl t v s).fixed = s.fixed := by
  simp [writeFifoCtrl]

@[simp ↓] theorem writeFifoStat_fixed (t : Tenant) (v : BitVec 32) (s : State) : (writeFifoStat t v s).fixed = s.fixed := by
  simp [writeFifoStat]

@[simp ↓] theorem markStops_fixed (stop : Nat × Nat) (sel : Request → Bool) (s : State) : (markStops stop sel s).fixed = s.fixed := by
  simp [markStops]

@[simp ↓] theorem abortWrite_fixed (t : Tenant) (v : BitVec 32) (cyc : Cycle) (s : State) : (abortWrite t v cyc s).fixed = s.fixed := by
  simp [abortWrite]

@[simp ↓] theorem auditSnap_fixed (t : Tenant) (v : BitVec 32) (s : State) : (auditSnap t v s).fixed = s.fixed := by
  simp [auditSnap]

end Sys2Proof.Machine
end

