-- ==== Sys2Proof/Laws/Fixed/Requests.lean ====
section
/-! SUPPORT. What the operations of Requests.lean leave of `State.fixed`. -/
namespace Sys2Proof.Machine

@[simp ↓] theorem freeHold_fixed (r : Request) (s : State) (i : Nat) : (freeHold r s i).fixed = s.fixed := by
  simp [freeHold]

@[simp ↓] theorem dropDerived_fixed (sel : DerivedReg → Bool) (s : State) : (dropDerived sel s).fixed = s.fixed := rfl

@[simp ↓] theorem freeRegions_fixed (r : Request) (s : State) : (freeRegions r s).fixed = s.fixed := by
  simp [freeRegions]

@[simp ↓] theorem closeRequest_fixed (r : Request) (status : Nat) (aux : Bytes) (due : Nat) (s : State) : (closeRequest r status aux due s).fixed = s.fixed := by
  simp [closeRequest]

@[simp ↓] theorem failRequest_fixed (rid status : Nat) (source : BitVec 16) (due : Nat) (s : State) : (failRequest rid status source due s).fixed = s.fixed := by
  unfold failRequest
  split <;> simp

@[simp ↓] theorem failStep_fixed (rid step status : Nat) (source : BitVec 16) (due : Nat) (s : State) : (failStep rid step status source due s).fixed = s.fixed := by
  unfold failStep
  split <;> simp

@[simp ↓] theorem failEnded_fixed (e : Ended) (step status : Nat) (source : BitVec 16) (due : Nat) (s : State) : (failEnded e step status source due s).fixed = s.fixed := by
  unfold failEnded
  dsimp only
  rw [foldl_fixed]
  · rfl
  · intro s d; split <;> simp

@[simp ↓] theorem closeDrained_fixed (rid due : Nat) (s : State) : (closeDrained rid due s).fixed = s.fixed := by
  unfold closeDrained
  split <;> simp

@[simp ↓] theorem countStep_fixed (r : Request) (status : Nat) (s : State) : (countStep r status s).fixed = s.fixed := by
  simp [countStep]

@[simp ↓] theorem settleStep_fixed (rid : Nat) (res : StepResult) (tick : Nat) (s : State) : (settleStep rid res tick s).fixed = s.fixed := by
  unfold settleStep
  split <;> simp

@[simp ↓] theorem storeKey_fixed (r : Request) (value pub : Bytes) (exp alsoCache : Bool) (s : State) : (storeKey r value pub exp alsoCache s).fixed = s.fixed := by
  unfold storeKey
  dsimp only
  split <;> simp

@[simp ↓] theorem receiveKey_fixed (r : Request) (value : Bytes) (s : State) : (receiveKey r value s).fixed = s.fixed := by
  unfold receiveKey
  dsimp only
  split <;> simp

end Sys2Proof.Machine
end

