-- ==== Sys2Proof/Laws/Fixed/Admission.lean ====
section
/-! SUPPORT. What the operations of Admission.lean leave of `State.fixed`. -/
namespace Sys2Proof.Machine

@[simp ↓] theorem State.updPlat_fixed (s : State) (p : Nat) (f : PlatStat → PlatStat) : (State.updPlat s p f).fixed = s.fixed := by
  simp [State.updPlat]

@[simp ↓] theorem takeMarks_fixed (t : Tenant) (k : RingNo) (idx : List (BitVec 16)) (rid : Nat) (acted : Bool) (s : State) : (takeMarks t k idx rid acted s).fixed = s.fixed := by
  simp [takeMarks]

@[simp ↓] theorem refuseChain_fixed (t : Tenant) (k : RingNo) (ds : List Desc) (index : BitVec 16) (status check step : Nat) (late : Bool) (s : State) : (refuseChain t k ds index status check step late s).fixed = s.fixed := by
  simp [refuseChain]

@[simp ↓] theorem queueChain_fixed (t : Tenant) (k : RingNo) (ds : List Desc) (index : BitVec 16) (cls : ClassDef) (p : Nat) (rate : RateClass) (got : List ((Nat × Bool) × Bytes × Bytes)) (late : Bool) (s : State) : (queueChain t k ds index cls p rate got late s).fixed = s.fixed := by
  simp [queueChain]

@[simp ↓] theorem admitChain_fixed (t : Tenant) (k : RingNo) (held : List HeldDesc) (linkOk : Bool) (s : State) : (admitChain t k held linkOk s).fixed = s.fixed := by
  unfold admitChain
  dsimp only
  (repeat' split) <;> simp [*]

@[simp ↓] theorem takeChain_fixed (t : Tenant) (k : RingNo) (held : List HeldDesc) (s : State) : (takeChain t k held s).fixed = s.fixed := by
  simp [takeChain]

@[simp ↓] theorem countTaken_fixed (s : State) (g n cls : Nat) : (countTaken s g n cls).fixed = s.fixed := by
  simp [countTaken]

@[simp ↓] theorem takeOrWait_fixed (g : Nat) (held : List HeldDesc) (linkOk : Bool) (s : State) : (takeOrWait g held linkOk s).fixed = s.fixed := by
  simp [takeOrWait]

@[simp ↓] theorem admitNext_fixed (s : State) : (admitNext s).fixed = s.fixed := by
  unfold admitNext
  (repeat' split) <;> simp [*]

@[simp ↓] theorem admitWaiting_fixed (s : State) : (admitWaiting s).fixed = s.fixed := by
  unfold admitWaiting
  refine foldl_fixed _ (fun s p => ?_) _ s
  split <;> simp

@[simp ↓] theorem dropKept_fixed (s : State) : (dropKept s).fixed = s.fixed := by
  unfold dropKept
  exact foldl_fixed _ (fun s p => by simp) _ s

end Sys2Proof.Machine
end

