-- ==== Sys2Proof/Laws/Fixed/Slots.lean ====
section
/-! SUPPORT. What the operations of Slots.lean leave of `State.fixed`. -/
namespace Sys2Proof.Machine

@[simp ↓] theorem noteRun_fixed (st pos : Nat) (rid : Option Nat) (own : Bool) (s : State) : (noteRun st pos rid own s).fixed = s.fixed := by
  simp [noteRun]

@[simp ↓] theorem takeDerived_fixed (st : Nat) (r : Request) (s : State) : (takeDerived st r s).fixed = s.fixed := by
  simp [takeDerived]

@[simp ↓] theorem takeHold_fixed (st : Nat) (r : Request) (s : State) : (takeHold st r s).fixed = s.fixed := by
  simp [takeHold]

@[simp ↓] theorem advancePiece_fixed (st pos lane rid : Nat) (own shadow replayed : Bool) (s : State) : (advancePiece st pos lane rid own shadow replayed s).fixed = s.fixed := by
  unfold advancePiece
  split <;> simp

@[simp ↓] theorem randomSlot_fixed (st pos lane rid : Nat) (own : Bool) (s : State) : (randomSlot st pos lane rid own s).fixed = s.fixed := by
  unfold randomSlot
  split <;> simp

@[simp ↓] theorem waitingSlot_fixed (st pos lane rid n ahead : Nat) (own shadow replayed : Bool) (s : State) : (waitingSlot st pos lane rid n ahead own shadow replayed s).fixed = s.fixed := by
  simp [waitingSlot]

@[simp ↓] theorem redraw_fixed (rid : Nat) (s : State) : (redraw rid s).fixed = s.fixed := by
  unfold redraw
  split <;> simp

@[simp ↓] theorem runStep_fixed (st pos lane rid : Nat) (own shadow replayed : Bool) (s : State) : (runStep st pos lane rid own shadow replayed s).fixed = s.fixed := by
  unfold runStep
  dsimp only
  (repeat' split) <;> simp [*]

@[simp ↓] theorem runLoad_fixed (pos lane : Nat) (shadow : Bool) (s : State) : (runLoad pos lane shadow s).fixed = s.fixed := by
  simp [runLoad]

@[simp ↓] theorem redrawWaybill_fixed (s : State) : (redrawWaybill s).fixed = s.fixed := by
  unfold redrawWaybill
  split <;> simp

@[simp ↓] theorem runWaybill_fixed (pos lane : Nat) (shadow : Bool) (s : State) : (runWaybill pos lane shadow s).fixed = s.fixed := by
  unfold runWaybill
  dsimp only
  (repeat' split) <;> simp [*]

@[simp ↓] theorem runInternal_fixed (st pos lane : Nat) (shadow : Bool) (s : State) : (runInternal st pos lane shadow s).fixed = s.fixed := by
  simp [runInternal]

@[simp ↓] theorem runDerivation_fixed (pos lane rid : Nat) (own shadow : Bool) (s : State) : (runDerivation pos lane rid own shadow s).fixed = s.fixed := by
  simp [runDerivation]

@[simp ↓] theorem runRotation_fixed (pos lane : Nat) (s : State) : (runRotation pos lane s).fixed = s.fixed := by
  simp [runRotation]

theorem runPick_fixed (st pos lane : Nat) (shadow replayed : Bool) (x : Pick) (acc : State × Bool) :
    (runPick st pos lane shadow replayed x acc).1.fixed = acc.1.fixed := by
  cases x <;> simp [runPick]
theorem runEntry_fixed (st pos : Nat) (acc : State × Bool) : (runEntry st pos acc).1.fixed = acc.1.fixed := by
  unfold runEntry
  dsimp only
  (repeat' split) <;> simp [runPick_fixed]
theorem foldl_runEntry_fixed (st : Nat) (l : List Nat) (acc : State × Bool) :
    (l.foldl (fun acc q => runEntry st q acc) acc).1.fixed = acc.1.fixed := by
  induction l generalizing acc with
  | nil => rfl
  | cons q l ih => rw [List.foldl_cons, ih, runEntry_fixed]

@[simp ↓] theorem runPositions_fixed (st : Nat) (ps : List Nat) (s : State) : (runPositions st ps s).fixed = s.fixed := by
  unfold runPositions
  exact foldl_runEntry_fixed _ _ _

@[simp ↓] theorem runStation_fixed (s : State) (st : Nat) : (runStation s st).fixed = s.fixed := by
  simp [runStation]

@[simp ↓] theorem vsMismatch_fixed (pos : Nat) (s : State) : (vsMismatch pos s).fixed = s.fixed := by
  simp [vsMismatch]

@[simp ↓] theorem restartSs_fixed (rid tick : Nat) (s : State) : (restartSs rid tick s).fixed = s.fixed := by
  simp [restartSs]

@[simp ↓] theorem ssDisagree_fixed (src : BitVec 16) (s : State) (rid : Nat) : (ssDisagree src s rid).fixed = s.fixed := by
  simp [ssDisagree]

@[simp ↓] theorem ssMismatch_fixed (pos : Nat) (s : State) : (ssMismatch pos s).fixed = s.fixed := by
  simp [ssMismatch]

@[simp ↓] theorem laneMismatch_fixed (st pos : Nat) (s : State) : (laneMismatch st pos s).fixed = s.fixed := by
  simp [laneMismatch]

@[simp ↓] theorem mismatchAt_fixed (s : State) (x : Nat × Nat) : (mismatchAt s x).fixed = s.fixed := by
  simp [mismatchAt]

@[simp ↓] theorem takeCounter_fixed (dest : Nat) (v : Request) (next : Nat) (s : State) : (takeCounter dest v next s).fixed = s.fixed := by
  simp [takeCounter]

theorem drawFor_fixed (dest : Nat) (v : Request) (s : State) : (drawFor dest v s).1.fixed = s.fixed := by
  unfold drawFor
  dsimp only
  (repeat' split) <;> simp
theorem ite_carry_fixed {p : Prop} [Decidable p] {f : Fixed} (a b : Carry) (ha : a.st.fixed = f) (hb : b.st.fixed = f) :
    (if p then a else b).st.fixed = f := by
  split <;> assumption
theorem carryHalf_fixed (dest : Fin 7) (rid : Nat) (c : Carry) : (carryHalf dest rid c).st.fixed = c.st.fixed := by
  unfold carryHalf
  split <;> simp
theorem carryStep_fixed (dest : Fin 7) (c : Carry) (r : Request) : (carryStep dest c r).st.fixed = c.st.fixed := by
  unfold carryStep
  dsimp only
  split
  · rfl
  · refine ite_carry_fixed _ _ rfl (ite_carry_fixed _ _ (by simp) (ite_carry_fixed _ _ rfl (ite_carry_fixed _ _ (by simp)
      (ite_carry_fixed _ _ (carryHalf_fixed _ _ _) (ite_carry_fixed _ _ rfl (ite_carry_fixed _ _ rfl ?_))))))
    split <;> simp [drawFor_fixed]
theorem foldl_carryStep_fixed (dest : Fin 7) (l : List Request) (c : Carry) :
    (l.foldl (carryStep dest) c).st.fixed = c.st.fixed := by
  induction l generalizing c with
  | nil => rfl
  | cons r l ih => rw [List.foldl_cons, ih, carryStep_fixed]

@[simp ↓] theorem keyBusEntry_fixed (slot : Nat) (dest : Fin 6) (s : State) : (keyBusEntry slot dest s).fixed = s.fixed := by
  unfold keyBusEntry
  dsimp only
  generalize [_] ++ entryBorrowers _ _ = l
  have h : ∀ c : Carry, c.st.fixed = s.fixed → (l.foldl (fun c p =>
      if c.more ∧ c.room = 1280 then (carryOrder c.st slot dest.val p).foldl (carryStep ⟨dest.val, by omega⟩) c else c) c).st.fixed =
      s.fixed := by
    induction l with
    | nil => exact fun _ h => h
    | cons p l ih => exact fun c h => ih _ (ite_carry_fixed _ _ ((foldl_carryStep_fixed _ _ _).trans h) h)
  exact h _ rfl

end Sys2Proof.Machine
end

