-- ==== Sys2Proof/Laws/Fixed/PowerOps.lean ====
section
/-! SUPPORT. What the operations of PowerOps.lean leave of `State.fixed`. -/
namespace Sys2Proof.Machine

@[simp ↓] theorem State.updRail_fixed (s : State) (i : Fin 8) (f : Rail → Rail) : (State.updRail s i f).fixed = s.fixed := by
  simp [State.updRail]

@[simp ↓] theorem restartWaybills_fixed (lost : WaybillJob → Bool) (s : State) : (restartWaybills lost s).fixed = s.fixed := by
  simp [restartWaybills]

@[simp ↓] theorem ssEnterHold_fixed (s : State) : (ssEnterHold s).fixed = s.fixed := by
  simp [ssEnterHold]

@[simp ↓] theorem settleHold_fixed (s : State) : (settleHold s).fixed = s.fixed := by
  simp [settleHold]

@[simp ↓] theorem ssLeaveHold_fixed (s : State) : (ssLeaveHold s).fixed = s.fixed := by
  simp [ssLeaveHold]

@[simp ↓] theorem releaseKeyEntry_fixed (s : State) : (releaseKeyEntry s).fixed = s.fixed := by
  simp [releaseKeyEntry]

@[simp ↓] theorem settleCaution_fixed (s : State) : (settleCaution s).fixed = s.fixed := by
  simp [settleCaution]

@[simp ↓] theorem writePwrCtrl_fixed (v : BitVec 32) (s : State) : (writePwrCtrl v s).fixed = s.fixed := by
  simp [writePwrCtrl]

end Sys2Proof.Machine
end

