-- ==== Sys2Proof/Laws/Fixed/TamperOps.lean ====
section
/-! SUPPORT. What the operations of TamperOps.lean leave of `State.fixed`. -/
namespace Sys2Proof.Machine

@[simp ↓] theorem advanceClock_fixed (s : State) : (advanceClock s).fixed = s.fixed := by
  simp [advanceClock]

@[simp] theorem chainEntry_bbk (e : Bytes) (a : Aon) : (chainEntry e a).bbk = a.bbk := rfl
@[simp] theorem gather_bbk (src resp : Nat) (a : Aon) : (gather src resp a).bbk = a.bbk := by
  unfold gather; dsimp only; split <;> rfl
@[simp] theorem markInput_bbk (c : Nat) (rail on : Bool) (a : Aon) : (markInput c rail on a).bbk = a.bbk := by
  unfold markInput; dsimp only; split <;> rfl
@[simp] theorem ite_bbk {c : Prop} [Decidable c] (a b : Aon) : (if c then a else b).bbk = if c then a.bbk else b.bbk := by
  split <;> rfl

@[simp ↓] theorem appendLog_fixed (src resp flags detail : Nat) (s : State) :
    (appendLog src resp flags detail s).fixed = s.fixed := by
  unfold appendLog
  dsimp only
  simp [ite_bbk]

@[simp ↓] theorem chainSummary_fixed (s : State) : (chainSummary s).fixed = s.fixed := by
  unfold chainSummary
  split <;> simp

/-- The erase line clears the battery-backed key (14 R524). -/
@[simp ↓] theorem eraseLine_fixed (s : State) : (eraseLine s).fixed = { s.fixed with bbk := none } := rfl

/-- A response clears the battery-backed key where it erases (14 R523). -/
@[simp ↓] theorem respond_fixed (resp : Nat) (s : State) :
    (respond resp s).fixed = if resp ≥ 3 then { s.fixed with bbk := none } else s.fixed := by
  unfold respond
  dsimp only
  split <;> split <;> simp

/-- An alarm clears the battery-backed key where its response erases, and changes none of the other parts (14 R523). -/
theorem tamperAlarm_fixed (src : BitVec 8) (rail : Bool) (detail : BitVec 32) (s : State) :
    (tamperAlarm src rail detail s).fixed = s.fixed ∨
      (tamperAlarm src rail detail s).fixed = { s.fixed with bbk := none } := by
  unfold tamperAlarm
  dsimp only
  split
  · exact .inl rfl
  · rw [respond_fixed]
    split
    · exact .inr (by simp)
    · exact .inl (by simp)

@[simp ↓] theorem mirrorPending_fixed (s : State) : (mirrorPending s).fixed = s.fixed := by
  unfold mirrorPending
  dsimp only
  split
  · rfl
  · rw [State.updAon_fixed _ _ (by rfl), State.updNvm_fixed]
    simp

@[simp ↓] theorem mirrorAtStart_fixed (s : State) : (mirrorAtStart s).fixed = s.fixed := by
  unfold mirrorAtStart
  (repeat' split) <;> simp

@[simp] theorem restoreLog_bbk (lk : Bytes) (c : BitVec 64) (h : Bytes) (a : Aon) : (restoreLog lk c h a).bbk = a.bbk := by
  have key : ∀ (l : List Bytes) (a : Aon),
      (l.foldl (fun a e => chainEntry (e.take 16 ++ leBytes 8 (a.count + 1).toNat ++ e.drop 24) a) a).bbk = a.bbk := by
    intro l
    induction l with
    | nil => intro a; rfl
    | cons e l ih => intro a; rw [List.foldl_cons, ih, chainEntry_bbk]
  rw [restoreLog, key]

@[simp] theorem restoreLog_fixed (lk : Bytes) (c : BitVec 64) (h : Bytes) (s : State) :
    (s.updAon (restoreLog lk c h)).fixed = s.fixed :=
  State.updAon_fixed s _ (restoreLog_bbk lk c h s.aon)

@[simp ↓] theorem verifyLog_fixed (s : State) : (verifyLog s).fixed = s.fixed := by
  unfold verifyLog
  dsimp only
  (repeat' split) <;> simp [*]

@[simp ↓] theorem noteLoss_fixed (s : State) : (noteLoss s).fixed = s.fixed := by
  unfold noteLoss
  dsimp only
  split <;> simp

@[simp ↓] theorem writeTmpFirst_fixed (v : BitVec 64) (s : State) : (writeTmpFirst v s).fixed = s.fixed := by
  simp [writeTmpFirst]

end Sys2Proof.Machine
end

