-- ==== Sys2Proof/Laws/Fixed/LifeOps.lean ====
section
/-! SUPPORT. What the operations of LifeOps.lean leave of `State.fixed`. -/
namespace Sys2Proof.Machine

@[simp ↓] theorem endLcRequest_fixed (status : Nat) (s : State) : (endLcRequest status s).fixed = s.fixed := by
  unfold endLcRequest
  split <;> simp

@[simp ↓] theorem quiesce_fixed (s : State) : (quiesce s).fixed = s.fixed := by
  simp [quiesce]

@[simp ↓] theorem startTransition_fixed (seq t : Nat) (s : State) : (startTransition seq t s).fixed = s.fixed := by
  simp [startTransition]

@[simp ↓] theorem rollRetarget_fixed (s : State) : (rollRetarget s).fixed = s.fixed := by
  unfold rollRetarget
  split <;> simp

@[simp ↓] theorem beginLog_fixed (lc : BitVec 4) (s : State) : (beginLog lc s).fixed = s.fixed := by
  simp [beginLog]

@[simp ↓] theorem authorityBurnt_fixed (err : Bool) (s : State) : (authorityBurnt err s).fixed = s.fixed := by
  unfold authorityBurnt
  split <;> simp

end Sys2Proof.Machine
end

