-- ==== Sys2Proof/Laws/Fixed/CurveOps.lean ====
section
/-! SUPPORT. What the operations of CurveOps.lean leave of `State.fixed`. -/
namespace Sys2Proof.Machine

@[simp ↓] theorem noteLoad_fixed (i code : Nat) (s : State) : (noteLoad i code s).fixed = s.fixed := by
  simp [noteLoad]

@[simp ↓] theorem queueCurve_fixed (r : Bytes) (origin : BitVec 2) (seq : Option (BitVec 16)) (s : State) : (queueCurve r origin seq s).fixed = s.fixed := by
  simp [queueCurve]

@[simp ↓] theorem submitCurve_fixed (s : State) (r : Bytes) : (submitCurve s r).fixed = s.fixed := by
  simp [submitCurve]

@[simp ↓] theorem submitImageCurves_fixed (s : State) : (submitImageCurves s).fixed = s.fixed := by
  simp [submitImageCurves]

@[simp ↓] theorem submitNewCurves_fixed (old new : List Bytes) (s : State) : (submitNewCurves old new s).fixed = s.fixed := by
  simp [submitNewCurves]

@[simp ↓] theorem retireOldCurves_fixed (new : List Bytes) (s : State) : (retireOldCurves new s).fixed = s.fixed := by
  simp [retireOldCurves]

@[simp ↓] theorem completeLoad_fixed (code : Nat) (s : State) : (completeLoad code s).fixed = s.fixed := by
  unfold completeLoad
  (repeat' split) <;> simp [*]

end Sys2Proof.Machine
end

