-- ==== Sys2Proof/Laws/Fixed/Fabric.lean ====
section
/-! SUPPORT. What the operations of Fabric.lean leave of `State.fixed`. -/
namespace Sys2Proof.Machine

@[simp ↓] theorem issueBurst_fixed (port : Nat) (write : Bool) (addr len : Nat) (ident : Ident) (kind : BurstKind) (data sym : Bytes) (s : State) : (issueBurst port write addr len ident kind data sym s).fixed = s.fixed := by
  simp [issueBurst]

@[simp ↓] theorem startRead_fixed (proc addr len : Nat) (s : State) : (startRead proc addr len s).fixed = s.fixed := by
  simp [startRead]

@[simp ↓] theorem startWrite_fixed (proc addr : Nat) (data : Bytes) (s : State) : (startWrite proc addr data s).fixed = s.fixed := by
  simp [startWrite]

@[simp ↓] theorem testMgmt_fixed (x : MgmtXfer) (s : State) : (testMgmt x s).1.fixed = s.fixed := by
  unfold testMgmt
  split
  · rw [faultReport_fixed, State.updFlt_fixed _ _ (by rfl), State.updFab_fixed]
  · split <;> simp

@[simp ↓] theorem mgmtTurn_fixed (write : Bool) (s : State) : (mgmtTurn write s).fixed = s.fixed := by
  unfold mgmtTurn
  dsimp only
  split
  · rfl
  · next x _ =>
    have h : ∀ u b, testMgmt x s = (u, b) → u.fixed = s.fixed := fun u b h => by
      rw [← testMgmt_fixed x s, h]
    (repeat' split) <;> first
      | rfl | (next e _ => simp [h _ _ e]) | (next e => simp [h _ _ e])

@[simp ↓] theorem issueMgmt_fixed (write : Bool) (s : State) : (issueMgmt write s).fixed = s.fixed := by
  simp [issueMgmt]

@[simp ↓] theorem windowFail_fixed (r : Request) (step : Nat) (s : State) : (windowFail r step s).fixed = s.fixed := by
  simp [windowFail]

@[simp ↓] theorem readTurn_fixed (port t : Nat) (s : State) : (readTurn port t s).fixed = s.fixed := by
  unfold readTurn
  dsimp only
  split <;> simp

@[simp ↓] theorem testOutput_fixed (r : Request) (o : OutPart) (s : State) : (testOutput r o s).1.fixed = s.fixed := by
  unfold testOutput
  dsimp only
  (repeat' split) <;> simp

@[simp ↓] theorem writeTurn_fixed (port t : Nat) (s : State) : (writeTurn port t s).fixed = s.fixed := by
  unfold writeTurn
  dsimp only
  split
  · rfl
  · next r o _ =>
    have h : ∀ u b, testOutput r o s = (u, b) → u.fixed = s.fixed := fun u b h => by
      rw [← testOutput_fixed r o s, h]
    (repeat' split) <;> first | (next e _ => simp [h _ _ e]) | (next e => simp [h _ _ e]) | simp

theorem takeTurn_fixed (turn : Nat → Nat → State → State) (note : Nat → Nat → Fabric → Fabric) (p t : Nat) (s : State)
    (h : ∀ p t s, (turn p t s).fixed = s.fixed) : (takeTurn turn note p t s).fixed = s.fixed := by
  unfold takeTurn
  dsimp only
  split <;> simp [h]

theorem issueAll_fixed (last : State → List (Nat × Nat)) (turn : Nat → Nat → State → State) (note : Nat → Nat → Fabric → Fabric)
    (s : State) (h : ∀ p t s, (turn p t s).fixed = s.fixed) : (issueAll last turn note s).fixed = s.fixed := by
  unfold issueAll
  refine foldl_fixed _ (fun s p => ?_) _ s
  dsimp only
  split
  · rfl
  · exact foldl_fixed _ (fun s _ => foldl_fixed _ (fun s t => takeTurn_fixed turn note p t s h) _ s) _ s

@[simp ↓] theorem issueReads_fixed (s : State) : (issueReads s).fixed = s.fixed := by
  rw [issueReads, issueMgmt_fixed, issueAll_fixed _ _ _ _ readTurn_fixed]

@[simp ↓] theorem closeIdle_fixed (s : State) : (closeIdle s).fixed = s.fixed := by
  simp [closeIdle]

@[simp ↓] theorem issueWrites_fixed (s : State) : (issueWrites s).fixed = s.fixed := by
  unfold issueWrites
  dsimp only
  rw [foldl_fixed, issueMgmt_fixed, issueAll_fixed _ _ _ _ writeTurn_fixed, closeIdle_fixed]
  intro s r
  exact foldl_fixed _ (fun s i => freeHold_fixed r s i) _ _

@[simp ↓] theorem fabricEvent_fixed (t k kind cycle : Nat) (s : State) : (fabricEvent t k kind cycle s).fixed = s.fixed := by
  unfold fabricEvent
  refine foldl_fixed _ (fun s n => ?_) _ s
  dsimp only
  (repeat' split) <;> simp

@[simp ↓] theorem dropBurst_fixed (b : Burst) (s : State) : (dropBurst b s).fixed = s.fixed := by
  simp [dropBurst]

@[simp ↓] theorem updPort_fixed (p : Nat) (f : Port → Port) (s : State) : (updPort p f s).fixed = s.fixed := by
  simp [updPort]

@[simp ↓] theorem timeReturn_fixed (b : Burst) (ns : Nat) (s : State) : (timeReturn b ns s).fixed = s.fixed := by
  unfold timeReturn
  (repeat' split) <;> simp [*]

@[simp ↓] theorem stopRing_fixed (t k : Nat) (cause : BitVec 4) (lost : Bool) (s : State) : (stopRing t k cause lost s).fixed = s.fixed := by
  simp [stopRing]

@[simp ↓] theorem loseEntry_fixed (t k : Nat) (index : BitVec 16) (s : State) : (loseEntry t k index s).fixed = s.fixed := by
  simp [loseEntry]

@[simp ↓] theorem transferFailed_fixed (s : State) : (transferFailed s).fixed = s.fixed := by
  simp [transferFailed]

@[simp ↓] theorem burstError_fixed (b : Burst) (s : State) : (burstError b s).fixed = s.fixed := by
  unfold burstError
  dsimp only
  (repeat' split) <;> simp [*]

@[simp ↓] theorem landInput_fixed (rid step off cycle : Nat) (data : Bytes) (s : State) : (landInput rid step off cycle data s).fixed = s.fixed := by
  unfold landInput
  dsimp only
  (repeat' split) <;> simp

@[simp ↓] theorem landDescriptor_fixed (b : Burst) (t k : Nat) (i : BitVec 16) (data : Bytes) (ns cycle : Nat) (s : State) : (landDescriptor b t k i data ns cycle s).fixed = s.fixed := by
  simp [landDescriptor]

@[simp ↓] theorem burstTimeout_fixed (b : Burst) (s : State) : (burstTimeout b s).fixed = s.fixed := by
  simp [burstTimeout]

theorem takeReturn_fixed (b : Burst) (err : Bool) (ns : Nat) (act : State → State) (s : State)
    (h : ∀ s, (act s).fixed = s.fixed) : (takeReturn b err ns act s).fixed = s.fixed := by
  simp [takeReturn, h]

@[simp ↓] theorem readReturn_fixed (b : Burst) (data : Bytes) (err : Bool) (ns cycle : Nat) (s : State) :
    (readReturn b data err ns cycle s).fixed = s.fixed := by
  refine takeReturn_fixed _ _ _ _ _ fun s => ?_
  split <;> simp

@[simp ↓] theorem hostCopyDone_fixed (s : State) : (hostCopyDone s).fixed = s.fixed := by
  simp [hostCopyDone]

@[simp ↓] theorem writeReturn_fixed (b : Burst) (err : Bool) (ns cycle : Nat) (s : State) :
    (writeReturn b err ns cycle s).fixed = s.fixed := by
  refine takeReturn_fixed _ _ _ _ _ fun s => ?_
  dsimp only
  (repeat' split) <;> simp

@[simp ↓] theorem signalEntry_fixed (t : Tenant) (k : RingNo) (e : Ended) (s : State) : (signalEntry t k e s).fixed = s.fixed := by
  simp [signalEntry]

@[simp ↓] theorem writeEntry_fixed (e : Ended) (s : State) : (writeEntry e s).fixed = s.fixed := by
  unfold writeEntry
  simp

@[simp ↓] theorem writeNextEntry_fixed (s : State) : (writeNextEntry s).fixed = s.fixed := by
  unfold writeNextEntry
  split <;> simp

end Sys2Proof.Machine
end

