-- ==== Sys2Proof/Laws/Fixed/KeyBlocks.lean ====
section
/-! SUPPORT. What the operations of KeyBlocks.lean leave of `State.fixed`. -/
namespace Sys2Proof.Machine

@[simp ↓] theorem placeImport_fixed (r : Request) (v p : Bytes) (exp : Bool) (tick : Nat) (s : State) : (placeImport r v p exp tick s).fixed = s.fixed := by
  simp [placeImport]

@[simp ↓] theorem finishImport_fixed (rid tick : Nat) (s : State) : (finishImport rid tick s).fixed = s.fixed := by
  unfold finishImport
  (repeat' split) <;> simp [*]

@[simp ↓] theorem finishKeyCheck_fixed (r : Request) (tick : Nat) (s : State) : (finishKeyCheck r tick s).fixed = s.fixed := by
  unfold finishKeyCheck
  (repeat' split) <;> simp [*]

@[simp ↓] theorem finishCustody_fixed (rid tick : Nat) (s : State) : (finishCustody rid tick s).fixed = s.fixed := by
  unfold finishCustody
  split <;> simp

end Sys2Proof.Machine
end

