-- ==== Sys2Proof/Laws/Fixed/ReadTests.lean ====
section
/-! SUPPORT. What the read tests of a slot leave as it was. -/
namespace Sys2Proof.Machine

@[simp ↓] theorem testRegion_fixed (rid : Nat) (s : State) : (testRegion rid s).fixed = s.fixed := by
  unfold testRegion
  split <;> simp

@[simp ↓] theorem testRegisters_fixed (rid : Nat) (s : State) : (testRegisters rid s).fixed = s.fixed := by
  unfold testRegisters
  split <;> simp

@[simp ↓] theorem mendSlot_fixed (t h : Nat) (s : State) : (mendSlot t h s).fixed = s.fixed := by
  simp [mendSlot]

@[simp ↓] theorem loseSlot_fixed (t h : Nat) (s : State) : (loseSlot t h s).fixed = s.fixed := by
  simp [loseSlot]

@[simp ↓] theorem testTransfer_fixed (dest : Fin 7) (k : KeyReg) (s : State) : (testTransfer dest k s).fixed = s.fixed := by
  unfold testTransfer
  simp

@[simp ↓] theorem testTransfers_fixed (dest : Fin 7) (s : State) : (testTransfers dest s).fixed = s.fixed := by
  simp [testTransfers]

@[simp ↓] theorem testCustody_fixed (rid : Nat) (s : State) : (testCustody rid s).fixed = s.fixed := by
  unfold testCustody
  split
  · rfl
  · split
    · rfl
    · dsimp only
      split <;> simp

@[simp ↓] theorem readTests_fixed (s : State) : (readTests s).fixed = s.fixed := by
  simp [readTests]

@[simp ↓] theorem mendOwner_fixed (owner : WordOwner) (s : State) : (mendOwner owner s).fixed = s.fixed := by
  unfold mendOwner
  split <;> simp

end Sys2Proof.Machine
end

