-- ==== Sys2Proof/Laws/Fixed/Tick.lean ====
section
/-! SUPPORT. What the operations of Tick.lean leave of `State.fixed`. -/
namespace Sys2Proof.Machine

@[simp ↓] theorem finishCipher_fixed (r : Request) (tick : Nat) (s : State) : (finishCipher r tick s).fixed = s.fixed := by
  simp [finishCipher]

@[simp ↓] theorem finishSealed_fixed (r : Request) (tick : Nat) (s : State) : (finishSealed r tick s).fixed = s.fixed := by
  unfold finishSealed
  dsimp only
  (repeat' split) <;> simp

@[simp ↓] theorem finishOne_fixed (tick : Nat) (s : State) (rid : Nat) : (finishOne tick s rid).fixed = s.fixed := by
  unfold finishOne
  split <;> simp

@[simp ↓] theorem streamOne_fixed (tick : Nat) (s : State) (rid : Nat) : (streamOne tick s rid).fixed = s.fixed := by
  unfold streamOne
  split <;> simp

@[simp ↓] theorem countOpened_fixed (s : State) (rid : Nat) : (countOpened s rid).fixed = s.fixed := by
  unfold countOpened
  split
  · rfl
  · split <;> simp

@[simp ↓] theorem finishSteps_fixed (s : State) : (finishSteps s).fixed = s.fixed := by
  simp [finishSteps]

@[simp ↓] theorem releasePins_fixed (s : State) : (releasePins s).fixed = s.fixed := by
  simp [releasePins]

@[simp ↓] theorem closeLevels_fixed (s : State) : (closeLevels s).fixed = s.fixed := by
  simp [closeLevels]

@[simp ↓] theorem closeRegions_fixed (s : State) : (closeRegions s).fixed = s.fixed := by
  simp [closeRegions]

@[simp ↓] theorem replaceLane_fixed (tick : Nat) (s : State) (x : Nat × Nat × BitVec 16 × Nat) : (replaceLane tick s x).fixed = s.fixed := by
  unfold replaceLane
  dsimp only
  (repeat' split) <;> simp [*]

@[simp ↓] theorem settleRetirements_fixed (s : State) : (settleRetirements s).fixed = s.fixed := by
  simp [settleRetirements]

@[simp ↓] theorem openTimers_fixed (s : State) : (openTimers s).fixed = s.fixed := by
  simp [openTimers]

@[simp ↓] theorem refill_fixed (s : State) : (refill s).fixed = s.fixed := by
  simp [refill]

@[simp ↓] theorem swapBanks_fixed (s : State) : (swapBanks s).fixed = s.fixed := by
  simp [swapBanks]

@[simp ↓] theorem settleHandles_fixed (s : State) : (settleHandles s).fixed = s.fixed := by
  simp [settleHandles]

@[simp ↓] theorem retireCurves_fixed (s : State) : (retireCurves s).fixed = s.fixed := by
  simp [retireCurves]

@[simp ↓] theorem issueDescReads_fixed (s : State) : (issueDescReads s).fixed = s.fixed := by
  unfold issueDescReads
  dsimp only
  (repeat' split) <;> first | rfl | simp | simp [*]

@[simp ↓] theorem countHoldWaits_fixed (s : State) : (countHoldWaits s).fixed = s.fixed := by
  simp [countHoldWaits]

@[simp ↓] theorem redrawStarting_fixed (s : State) : (redrawStarting s).fixed = s.fixed := by
  simp [redrawStarting]

@[simp ↓] theorem runSlot_fixed (s : State) : (runSlot s).fixed = s.fixed := by
  simp [runSlot]

end Sys2Proof.Machine
end

