-- ==== Sys2Proof/Laws/Fixed/CutOps.lean ====
section
/-! SUPPORT. What the operations of CutOps.lean leave of `State.fixed`. -/
namespace Sys2Proof.Machine

@[simp ↓] theorem addCounter_fixed (s : State) (c : CacheSlot) : (addCounter s c).fixed = s.fixed := by
  simp [addCounter]

@[simp ↓] theorem otherBank_fixed (s : State) : (otherBank s).fixed = s.fixed := by
  simp [otherBank]

@[simp ↓] theorem eraseImage_fixed (s : State) : (eraseImage s).fixed = s.fixed := by
  unfold eraseImage
  split <;> simp

@[simp ↓] theorem liftInvalid_fixed (s : State) : (liftInvalid s).fixed = s.fixed := by
  simp [liftInvalid]

@[simp ↓] theorem prepareCounters_fixed (s : State) : (prepareCounters s).fixed = s.fixed := by
  simp [prepareCounters]

@[simp ↓] theorem dropCounters_fixed (s : State) : (dropCounters s).fixed = s.fixed := by
  simp [dropCounters]

@[simp ↓] theorem switchKeys_fixed (missed : List CacheSlot) (s : State) : (switchKeys missed s).fixed = s.fixed := by
  simp [switchKeys]

@[simp ↓] theorem answerCutover_fixed (status : Nat) (params : Bytes) (s : State) : (answerCutover status params s).fixed = s.fixed := by
  unfold answerCutover
  split <;> simp

@[simp ↓] theorem nvmFailed_fixed (s : State) : (nvmFailed s).fixed = s.fixed := by
  simp [nvmFailed]

@[simp ↓] theorem loadPatches_fixed (m : Image) (s : State) : (loadPatches m s).fixed = s.fixed := by
  simp [loadPatches]

@[simp ↓] theorem resumeOld_fixed (s : State) : (resumeOld s).fixed = s.fixed := by
  simp [resumeOld]

@[simp ↓] theorem restorePointer_fixed (s : State) : (restorePointer s).fixed = s.fixed := by
  unfold restorePointer
  dsimp only
  (repeat' split) <;> first | rfl | simp | simp [*]

@[simp ↓] theorem stopOutside_fixed (s : State) : (stopOutside s).fixed = s.fixed := by
  simp [stopOutside]

@[simp ↓] theorem switchProcs_fixed (s : State) : (switchProcs s).fixed = s.fixed := by
  simp [switchProcs]

end Sys2Proof.Machine
end

