-- ==== Sys2Proof/Laws/Fixed/FaultOps.lean ====
section
/-! SUPPORT. What the operations of FaultOps.lean leave of `State.fixed`. -/
namespace Sys2Proof.Machine

@[simp ↓] theorem takeOver_fixed (s : State) (t : Takeover) : (takeOver s t).fixed = s.fixed := by
  simp [takeOver]

@[simp ↓] theorem takeOvers_fixed (key : Nat) (s : State) : (takeOvers key s).fixed = s.fixed := by
  simp [takeOvers]

@[simp ↓] theorem remap_fixed (key : Nat) (s : State) : (remap key s).fixed = s.fixed := by
  simp [remap]

@[simp ↓] theorem moveSha3_fixed (st : Nat) (s : State) : (moveSha3 st s).fixed = s.fixed := by
  simp [moveSha3]

@[simp ↓] theorem switchContingency_fixed (x : SwitchDue) (s : State) : (switchContingency x s).fixed = s.fixed := by
  simp [switchContingency]

@[simp ↓] theorem dropSlot_fixed (t : Nat) (h : BitVec 20) (s : State) : (dropSlot t h s).fixed = s.fixed := by
  simp [dropSlot]

@[simp ↓] theorem dropCopy_fixed (c : CacheSlot) (s : State) : (dropCopy c s).fixed = s.fixed := by
  simp [dropCopy]

@[simp ↓] theorem dropReceived_fixed (due : Nat) (c : CacheSlot) (s : State) : (dropReceived due c s).fixed = s.fixed := by
  simp [dropReceived]

@[simp ↓] theorem ownerOutcome_fixed (c detail : BitVec 16) (owner : WordOwner) (s : State) : (ownerOutcome c detail owner s).fixed = s.fixed := by
  unfold ownerOutcome
  (repeat' split) <;> simp [*]

@[simp ↓] theorem settleWords_fixed (s : State) : (settleWords s).fixed = s.fixed := by
  simp [settleWords]

@[simp ↓] theorem expireWindow_fixed (t : EscTimer) (s : State) : (expireWindow t s).fixed = s.fixed := by
  simp [expireWindow]

@[simp ↓] theorem expireWindows_fixed (s : State) : (expireWindows s).fixed = s.fixed := by
  simp [expireWindows]

@[simp ↓] theorem requeueCurve_fixed (s : State) : (requeueCurve s).fixed = s.fixed := by
  unfold requeueCurve
  split <;> simp

@[simp ↓] theorem restartCache_fixed (due : Nat) (s : State) : (restartCache due s).fixed = s.fixed := by
  simp [restartCache]

@[simp ↓] theorem restartExtras_fixed (st due : Nat) (s : State) : (restartExtras st due s).fixed = s.fixed := by
  simp [restartExtras]

@[simp ↓] theorem reloadStore_fixed (st : Nat) (s : State) : (reloadStore st s).fixed = s.fixed := by
  unfold reloadStore
  dsimp only
  split <;> rfl

@[simp ↓] theorem restartStation_fixed (st : Fin 7) (tick : Nat) (c : BitVec 16) (s : State) : (restartStation st tick c s).fixed = s.fixed := by
  unfold restartStation
  dsimp only
  (repeat' split) <;> first | rfl | simp | simp [*]

@[simp ↓] theorem proven_fixed (c : BitVec 16) (s : State) : (proven c s).fixed = s.fixed := by
  unfold proven
  dsimp only
  split
  · rw [State.updFlt_fixed _ _ rfl, State.updFlt_fixed _ _ rfl, proofReport_fixed]
  · rw [State.updFlt_fixed _ _ rfl, proofReport_fixed]

@[simp ↓] theorem useSiding_fixed (key lane : Nat) (role : BitVec 4) (s : State) : (useSiding key lane role s).fixed = s.fixed := by
  simp [useSiding]

@[simp ↓] theorem powerSiding_fixed (c : BitVec 16) (s : State) : (powerSiding c s).fixed = s.fixed := by
  simp [powerSiding]

@[simp ↓] theorem proofFailed_fixed (c : BitVec 16) (s : State) : (proofFailed c s).fixed = s.fixed := by
  simp [proofFailed]

@[simp ↓] theorem plannedShunt_fixed (key lane siding : Nat) (s : State) : (plannedShunt key lane siding s).fixed = s.fixed := by
  simp [plannedShunt]

@[simp ↓] theorem injectSiding_fixed (c : BitVec 16) (s : State) : (injectSiding c s).fixed = s.fixed := by
  simp [injectSiding]

@[simp ↓] theorem writeInject_fixed (sup : Bool) (v : BitVec 64) (s : State) : (writeInject sup v s).fixed = s.fixed := by
  unfold writeInject
  dsimp only
  (repeat' split) <;> simp [*]

@[simp ↓] theorem writeFltFirst_fixed (v : BitVec 64) (s : State) : (writeFltFirst v s).fixed = s.fixed := by
  simp [writeFltFirst]

end Sys2Proof.Machine
end

