-- ==== Sys2Proof/Laws/Fixed/CustodyOps.lean ====
section
/-! SUPPORT. What the operations of CustodyOps.lean leave of `State.fixed`. -/
namespace Sys2Proof.Machine

@[simp ↓] theorem showKe_fixed (t : Tenant) (s : State) : (showKe t s).fixed = s.fixed := by
  simp [showKe]

@[simp ↓] theorem keResult_fixed (t : Tenant) (code : Nat) (s : State) : (keResult t code s).fixed = s.fixed := by
  simp [keResult]

@[simp ↓] theorem endSession_fixed (t : Tenant) (s : State) : (endSession t s).fixed = s.fixed := by
  unfold endSession
  split <;> simp

@[simp ↓] theorem startSession_fixed (t : Tenant) (v : BitVec 64) (s : State) : (startSession t v s).fixed = s.fixed := by
  simp [startSession]

@[simp ↓] theorem submitComponent_fixed (t : Tenant) (j : KeJob) (s : State) : (submitComponent t j s).fixed = s.fixed := by
  unfold submitComponent
  (repeat' split) <;> simp [*]

@[simp ↓] theorem finishSession_fixed (t : Tenant) (j : KeJob) (s : State) : (finishSession t j s).fixed = s.fixed := by
  unfold finishSession
  dsimp only
  (repeat' split) <;> simp [*]

@[simp ↓] theorem listNode_fixed (t : Tenant) (h : Nat) (s : State) : (listNode t h s).fixed = s.fixed := by
  unfold listNode
  split <;> simp

@[simp ↓] theorem invalidateHandle_fixed (t : Tenant) (j : KeJob) (s : State) : (invalidateHandle t j s).fixed = s.fixed := by
  unfold invalidateHandle
  dsimp only
  (repeat' split) <;> simp [*]

@[simp ↓] theorem performKe_fixed (t : Tenant) (j : KeJob) (s : State) : (performKe t j s).fixed = s.fixed := by
  simp [performKe]

@[simp ↓] theorem cancelSession_fixed (t : Tenant) (s : State) : (cancelSession t s).fixed = s.fixed := by
  simp [cancelSession]

@[simp ↓] theorem writeKeCtrl_fixed (i : Ident) (t : Tenant) (v : BitVec 64) (s : State) : (writeKeCtrl i t v s).fixed = s.fixed := by
  simp [writeKeCtrl]

@[simp ↓] theorem startNextKe_fixed (t : Tenant) (s : State) : (startNextKe t s).fixed = s.fixed := by
  unfold startNextKe
  dsimp only
  split <;> simp

@[simp ↓] theorem postKeResult_fixed (t : Tenant) (s : State) : (postKeResult t s).fixed = s.fixed := by
  unfold postKeResult
  dsimp only
  split <;> simp

@[simp ↓] theorem timeoutSession_fixed (t : Tenant) (s : State) : (timeoutSession t s).fixed = s.fixed := by
  unfold timeoutSession
  split <;> simp

@[simp ↓] theorem writeKeKcv_fixed (i : Ident) (t : Tenant) (v : BitVec 32) (s : State) : (writeKeKcv i t v s).fixed = s.fixed := by
  simp [writeKeKcv]

@[simp ↓] theorem writeKeData_fixed (i : Ident) (t : Tenant) (n : Fin 8) (v : BitVec 64) (s : State) : (writeKeData i t n v s).fixed = s.fixed := by
  simp [writeKeData]

@[simp ↓] theorem supersedeCopies_fixed (t : Nat) (h : BitVec 20) (s : State) : (supersedeCopies t h s).fixed = s.fixed := by
  simp [supersedeCopies]

@[simp ↓] theorem cacheCommitted_fixed (c : Commit) (r : StoreRec) (s : State) : (cacheCommitted c r s).fixed = s.fixed := by
  simp [cacheCommitted]

@[simp ↓] theorem answerCommit_fixed (c : Commit) (r : StoreRec) (s : State) : (answerCommit c r s).fixed = s.fixed := by
  unfold answerCommit
  dsimp only
  split <;> simp

@[simp ↓] theorem countCommit_fixed (c : Commit) (r : StoreRec) (s : State) : (countCommit c r s).fixed = s.fixed := by
  unfold countCommit
  simp

@[simp ↓] theorem commitRecord_fixed (c : Commit) (s : State) : (commitRecord c s).fixed = s.fixed := by
  simp [commitRecord]

@[simp ↓] theorem openJournal_fixed (c : Commit) (s : State) : (openJournal c s).fixed = s.fixed := by
  simp [openJournal]

@[simp ↓] theorem closeJournal_fixed (c : Commit) (s : State) : (closeJournal c s).fixed = s.fixed := by
  unfold closeJournal
  split <;> simp

@[simp ↓] theorem dropCommitAs_fixed (status : Nat) (source : BitVec 16) (c : Commit) (s : State) : (dropCommitAs status source c s).fixed = s.fixed := by
  unfold dropCommitAs
  dsimp only
  split <;> simp

@[simp ↓] theorem failCommit_fixed (c : Commit) (s : State) : (failCommit c s).fixed = s.fixed := by
  simp [failCommit]

@[simp ↓] theorem refuseCommit_fixed (s : State) : (refuseCommit s).fixed = s.fixed := by
  unfold refuseCommit
  split <;> simp

@[simp ↓] theorem endCommit_fixed (good : Bool) (s : State) : (endCommit good s).fixed = s.fixed := by
  unfold endCommit
  split <;> simp

@[simp ↓] theorem settleMiss_fixed (rid levels : Nat) (h : BitVec 20) (s : State) : (settleMiss rid levels h s).fixed = s.fixed := rfl

@[simp ↓] theorem bringKey_fixed (rid levels nodes : Nat) (c : CacheSlot) (s : State) : (bringKey rid levels nodes c s).fixed = s.fixed := by
  simp [bringKey]

@[simp ↓] theorem bringOld_fixed (rid levels : Nat) (h : BitVec 20) (s : State) : (bringOld rid levels h s).fixed = s.fixed := by
  simp [bringOld]

@[simp ↓] theorem deriveMiss_fixed (r : Request) (s : State) (h : BitVec 20) : (deriveMiss r s h).fixed = s.fixed := by
  unfold deriveMiss
  (repeat' split) <;> simp

@[simp ↓] theorem loadMiss_fixed (r : Request) (s : State) (h : BitVec 20) : (loadMiss r s h).fixed = s.fixed := by
  unfold loadMiss
  (repeat' split) <;> simp [*]

@[simp ↓] theorem startRotation_fixed (seq : Nat) (s : State) : (startRotation seq s).fixed = s.fixed := by
  simp [startRotation]

@[simp ↓] theorem copyBlock_fixed (good : Bool) (s : State) : (copyBlock good s).fixed = s.fixed := by
  simp [copyBlock]

@[simp ↓] theorem writePointer0_fixed (s : State) : (writePointer0 s).fixed = s.fixed := by
  simp [writePointer0]

@[simp ↓] theorem flipPointer_fixed (s : State) : (flipPointer s).fixed = s.fixed := by
  unfold flipPointer
  dsimp only
  split <;> simp

@[simp ↓] theorem advanceMark_fixed (v : IvCtr) (s : State) : (advanceMark v s).fixed = s.fixed := by
  simp [advanceMark]

end Sys2Proof.Machine
end

