-- ==== Sys2Proof/Laws/Fixed/StartOps.lean ====
section
/-! SUPPORT. What the operations of StartOps.lean leave of `State.fixed`. -/
namespace Sys2Proof.Machine

@[simp ↓] theorem loadResidents_fixed (s : State) : (loadResidents s).fixed = s.fixed := by
  simp [loadResidents]

@[simp ↓] theorem startCounters_fixed (s : State) : (startCounters s).fixed = s.fixed := by
  simp [startCounters]

@[simp ↓] theorem serviceCounters_fixed (s : State) : (serviceCounters s).fixed = s.fixed := by
  simp [serviceCounters]

@[simp ↓] theorem loadRoots_fixed (s : State) : (loadRoots s).fixed = s.fixed := by
  simp [loadRoots]

@[simp ↓] theorem rollJournal_fixed (s : State) : (rollJournal s).fixed = s.fixed := by
  unfold rollJournal
  split <;> simp

@[simp ↓] theorem noteIndex_fixed (s : State) : (noteIndex s).fixed = s.fixed := by
  simp [noteIndex]

@[simp ↓] theorem resumeRotation_fixed (s : State) : (resumeRotation s).fixed = s.fixed := by
  unfold resumeRotation
  split <;> simp

@[simp ↓] theorem writeEpoch_fixed (s : State) : (writeEpoch s).fixed = s.fixed := by
  simp [writeEpoch]

@[simp ↓] theorem settleFailures_fixed (s : State) : (settleFailures s).fixed = s.fixed := by
  simp [settleFailures]

end Sys2Proof.Machine
end

