-- ==== Sys2Proof/Laws/Fixed/CutFamily.lean ====
section
/-! SUPPORT. What the operations of CutFamily.lean leave of `State.fixed`. -/
namespace Sys2Proof.Machine

@[simp ↓] theorem startInstall_fixed (m : Msg) (s : State) : (startInstall m s).fixed = s.fixed := by
  simp [startInstall]

end Sys2Proof.Machine
end

