-- ==== Sys2Proof/Laws/Fixed/DebugOps.lean ====
section
/-! SUPPORT. What the operations of DebugOps.lean leave of `State.fixed`. -/
namespace Sys2Proof.Machine

@[simp ↓] theorem drawChallenge_fixed (m : Msg) (s : State) : (drawChallenge m s).fixed = s.fixed := by
  simp [drawChallenge]

@[simp ↓] theorem refusePass_fixed (code : Nat) (s : State) : (refusePass code s).fixed = s.fixed := by
  simp [refusePass]

@[simp ↓] theorem presentPass_fixed (m : Msg) (b : Bytes) (s : State) : (presentPass m b s).fixed = s.fixed := by
  simp [presentPass]

@[simp ↓] theorem writeDbgCore_fixed (v : BitVec 32) (s : State) : (writeDbgCore v s).fixed = s.fixed := by
  simp [writeDbgCore]

@[simp ↓] theorem clearStaging_fixed (st : Nat) (s : State) : (clearStaging st s).fixed = s.fixed := by
  simp [clearStaging]

@[simp ↓] theorem clearStore_fixed (st : Nat) (s : State) : (clearStore st s).fixed = s.fixed := by
  simp [clearStore]

@[simp ↓] theorem clearCache_fixed (s : State) : (clearCache s).fixed = s.fixed := by
  simp [clearCache]

@[simp ↓] theorem zeroGroup_fixed (g : Nat) (s : State) : (zeroGroup g s).fixed = s.fixed := by
  unfold zeroGroup
  (repeat' split) <;> simp [*]

@[simp ↓] theorem writeDbgAccess_fixed (pass : Bool) (v : BitVec 64) (s : State) : (writeDbgAccess pass v s).fixed = s.fixed := by
  simp [writeDbgAccess]

end Sys2Proof.Machine
end

