-- ==== Sys2Proof/Laws/Fixed/WaybillOps.lean ====
section
/-! SUPPORT. What the operations of WaybillOps.lean leave of `State.fixed`. -/
namespace Sys2Proof.Machine

@[simp ↓] theorem requestWaybill_fixed (t : Option Nat) (m : Msg) (s : State) : (requestWaybill t m s).fixed = s.fixed := by
  simp [requestWaybill]

@[simp ↓] theorem answerWaybill_fixed (w : WaybillJob) (s : State) : (answerWaybill w s).fixed = s.fixed := by
  simp [answerWaybill]

end Sys2Proof.Machine
end

