-- ==== Sys2Proof/Laws/Fixed/DumpOps.lean ====
section
/-! SUPPORT. What the operations of DumpOps.lean leave of `State.fixed`. -/
namespace Sys2Proof.Machine

@[simp ↓] theorem writeDump_fixed (st tick : Nat) (s : State) : (writeDump st tick s).fixed = s.fixed := by
  unfold writeDump
  dsimp only
  rw [State.updFlt_fixed _ _ rfl, State.updNvm_fixed]
  split <;> simp

end Sys2Proof.Machine
end

