-- ==== Sys2Proof/Laws/Fixed/LifeFamily.lean ====
section
/-! SUPPORT. What the operations of LifeFamily.lean leave of `State.fixed`. -/
namespace Sys2Proof.Machine

end Sys2Proof.Machine
end

