-- ==== Sys2Proof/Laws/Fixed/PowerFamily.lean ====
section
/-! SUPPORT. What the operations of PowerFamily.lean leave of `State.fixed`. -/
namespace Sys2Proof.Machine

@[simp ↓] theorem warnSensor_fixed (before : Vector Rail 8) (s : State) (i : Fin 8) : (warnSensor before s i).fixed = s.fixed := by
  simp [warnSensor]

end Sys2Proof.Machine
end

