-- ==== Sys2Proof/Laws/Fixed/Boundary.lean ====
section
/-! SUPPORT. What the operations of FaultOps.lean leave of `State.fixed`. -/
namespace Sys2Proof.Machine

theorem admitted_fixed (s : State) : (if engineRuns s then admitWaiting s else s).fixed = s.fixed := by
  split
  · exact admitWaiting_fixed s
  · rfl

theorem gateSidings_lockdown (f : Faults) : (gateSidings f).lockdown = f.lockdown := rfl

/-- What a tick leaves to its boundary: steps, pins, regions, levels, samples, windows and retirements settle. -/
theorem settled_fixed (u : State) :
    ((settleRetirements (expireWindows (sampleTick (tickUnits (closeLevels (closeRegions (releasePins (finishSteps u)))))
      (closeLevels (closeRegions (releasePins (finishSteps u))))))).updFlt gateSidings).fixed = u.fixed := by
  rw [State.updFlt_fixed _ _ (gateSidings_lockdown _), settleRetirements_fixed, expireWindows_fixed, sampleTick_fixed,
    closeLevels_fixed, closeRegions_fixed, releasePins_fixed, finishSteps_fixed]

@[simp ↓] theorem closeTick_fixed (s : State) : (closeTick s).fixed = s.fixed :=
  (settled_fixed _).trans (admitted_fixed s)

@[simp ↓] theorem openTick_fixed (s : State) : (openTick s).fixed = s.fixed := by
  simp [openTick]

end Sys2Proof.Machine
end

