-- ==== Sys2Proof/Laws/Fixed/TenantFamily.lean ====
section
/-! SUPPORT. What the operations of TenantFamily.lean leave of `State.fixed`. -/
namespace Sys2Proof.Machine

@[simp ↓] theorem resetKeyEntry_fixed (t : Tenant) (s : State) : (resetKeyEntry t s).fixed = s.fixed := by
  simp [resetKeyEntry]

end Sys2Proof.Machine
end

