-- ==== Sys2Proof/Laws/Fixed/StationFamily.lean ====
section
/-! SUPPORT. What the operations of StationFamily.lean leave of `State.fixed`. -/
namespace Sys2Proof.Machine

@[simp ↓] theorem dropCommit_fixed (rid : Nat) (s : State) : (dropCommit rid s).fixed = s.fixed := by
  simp [dropCommit]

@[simp ↓] theorem drawSealed_fixed (rid i n : Nat) (s : State) : (drawSealed rid i n s).fixed = s.fixed := by
  simp [drawSealed]

theorem validateStep_fixed (rid i : Nat) (s : State) : (validateStep rid i s).1.fixed = s.fixed := by
  unfold validateStep
  dsimp only
  (repeat' split) <;> simp
theorem foldl_pair_fixed {α β : Type} (f : State × β → α → State × β) (h : ∀ p x, (f p x).1.fixed = p.1.fixed)
    (l : List α) (p : State × β) : (l.foldl f p).1.fixed = p.1.fixed := by
  induction l generalizing p with
  | nil => rfl
  | cons x l ih => rw [List.foldl_cons, ih, h]
@[simp ↓] theorem validate_fixed (rid : Nat) (s : State) : (validate rid s).fixed = s.fixed := by
  unfold validate
  dsimp only
  split
  · rfl
  · split
    · next h =>
      have key := congrArg (fun p => (Prod.fst p).fixed) h
      dsimp only at key
      rw [foldl_pair_fixed _ (by intro p i; split <;> simp [validateStep_fixed])] at key
      simp [key]
    · next h =>
      have key := congrArg (fun p => (Prod.fst p).fixed) h
      dsimp only at key
      rw [foldl_pair_fixed _ (by intro p i; split <;> simp [validateStep_fixed])] at key
      (repeat' split) <;> simp [key]

@[simp ↓] theorem writeReleased_fixed (s : State) : (writeReleased s).fixed = s.fixed := by
  simp [writeReleased]

@[simp ↓] theorem releaseKey_fixed (r : Request) (s : State) : (releaseKey r s).fixed = s.fixed := by
  unfold releaseKey
  split <;> simp

@[simp ↓] theorem releasePair_fixed (r : Request) (s : State) : (releasePair r s).fixed = s.fixed := by
  unfold releasePair
  split <;> simp

@[simp ↓] theorem clearHoldPeak_fixed (n : Fin 2) (v : BitVec 32) (s : State) : (clearHoldPeak n v s).fixed = s.fixed := by
  simp [clearHoldPeak]

@[simp ↓] theorem clearVsPeak_fixed (v : BitVec 32) (s : State) : (clearVsPeak v s).fixed = s.fixed := by
  simp [clearVsPeak]

@[simp ↓] theorem clearSsPeak_fixed (v : BitVec 32) (s : State) : (clearSsPeak v s).fixed = s.fixed := by
  simp [clearSsPeak]

@[simp ↓] theorem clearPlat_fixed (p : Nat) (s : State) : (clearPlat p s).fixed = s.fixed := by
  simp [clearPlat]

@[simp ↓] theorem writePlatSel_fixed (v : BitVec 32) (s : State) : (writePlatSel v s).fixed = s.fixed := by
  simp [writePlatSel]

end Sys2Proof.Machine
end

