-- ==== Sys2Proof/Laws/Kept.lean ====
section
/-! SUPPORT. What every operation keeps: the queue of waiting commands, burnt fuses, and legal codes. -/
namespace Sys2Proof.Machine

/-- The parts that the statements over every command rest on. -/
structure Kept where
  /-- the queue of waiting commands -/
  pending : List Instr
  /-- fuse rows -/
  otp : Vector (BitVec 64) 128
  /-- TRH_CFG_STATUS.STAGE -/
  stage : BitVec 4
  /-- TRH_CFG_CUTOVER.STATE -/
  coState : BitVec 4
  /-- slots of the tick that have run -/
  slot : Nat

/-- Those parts among the fixed ones. -/
def Fixed.kept (f : Fixed) : Kept := { pending := f.pending, otp := f.otp, stage := f.stage, coState := f.coState, slot := f.slot }

@[simp ↓] theorem State.updLc_kept (s : State) (f : LifeCycle → LifeCycle) : (s.updLc f).fixed.kept = s.fixed.kept := rfl
@[simp ↓] theorem State.updAon_kept (s : State) (f : Aon → Aon) : (s.updAon f).fixed.kept = s.fixed.kept := rfl
@[simp ↓] theorem State.updFlt_kept (s : State) (f : Faults → Faults) : (s.updFlt f).fixed.kept = s.fixed.kept := rfl
@[simp ↓] theorem State.updMgmt_kept (s : State) (f : Mgmt → Mgmt) : (s.updMgmt f).fixed.kept = s.fixed.kept := rfl
@[simp ↓] theorem eraseLine_kept (s : State) : (eraseLine s).fixed.kept = s.fixed.kept := rfl
@[simp ↓] theorem respond_kept (resp : Nat) (s : State) : (Sys2Proof.Machine.respond resp s).fixed.kept = s.fixed.kept := by
  rw [respond_fixed]; split <;> rfl
@[simp ↓] theorem tamperAlarm_kept (src : BitVec 8) (rail : Bool) (detail : BitVec 32) (s : State) :
    (tamperAlarm src rail detail s).fixed.kept = s.fixed.kept := by
  obtain h | h := tamperAlarm_fixed src rail detail s <;> rw [h] <;> rfl
@[simp ↓] theorem ite_kept {c : Prop} [Decidable c] (s t : State) :
    (if c then s else t).fixed.kept = if c then s.fixed.kept else t.fixed.kept := by split <;> rfl
@[simp ↓] theorem foldl_kept {α : Type} (f : State → α → State) (h : ∀ s x, (f s x).fixed.kept = s.fixed.kept) (l : List α)
    (s : State) : (l.foldl f s).fixed.kept = s.fixed.kept := by
  induction l generalizing s with
  | nil => rfl
  | cons x l ih => rw [List.foldl_cons, ih, h]

@[simp ↓] theorem eraseAreas_kept (t : Nat) (s : State) : (eraseAreas t s).fixed.kept = s.fixed.kept := by
  unfold eraseAreas
  dsimp only
  (repeat' split) <;> simp
@[simp ↓] theorem beginLog_kept (lc : BitVec 4) (s : State) : (beginLog lc s).fixed.kept = s.fixed.kept := by
  unfold beginLog
  (repeat' split) <;> simp
@[simp ↓] theorem makeWipe_kept (t : Nat) (s : State) : (makeWipe t s).fixed.kept = s.fixed.kept := by
  unfold makeWipe
  dsimp only
  (repeat' split) <;> simp [Fixed.kept]
@[simp ↓] theorem rollRetarget_kept (s : State) : (rollRetarget s).fixed.kept = s.fixed.kept := by
  unfold rollRetarget
  split <;> simp
@[simp ↓] theorem senseAtStart_kept (s : State) : (senseAtStart s).fixed.kept = s.fixed.kept := by
  unfold senseAtStart
  dsimp only
  (repeat' split) <;> simp
@[simp ↓] theorem targetBurnt_kept (err : Bool) (s : State) : (targetBurnt err s).fixed.kept = s.fixed.kept := by
  unfold targetBurnt
  dsimp only
  (repeat' split) <;> simp
@[simp ↓] theorem commitBurnt_kept (err : Bool) (s : State) : (commitBurnt err s).fixed.kept = s.fixed.kept := by
  unfold commitBurnt
  (repeat' split) <;> simp
@[simp ↓] theorem switchLock_kept (s : State) : (switchLock s).fixed.kept = s.fixed.kept := by
  unfold switchLock
  dsimp only
  split <;> simp
@[simp ↓] theorem lockDown_kept (tick : Nat) (c : BitVec 16) (s : State) : (lockDown tick c s).fixed.kept = s.fixed.kept := by
  unfold lockDown
  rw [State.updFlt_kept, State.updDbg_fixed, State.updTt_fixed _ _ rfl rfl]
  simp
@[simp ↓] theorem reroot_kept (s : State) : (reroot s).fixed.kept = s.fixed.kept := by
  unfold reroot
  dsimp only
  simp
@[simp ↓] theorem startTenantReset_kept (t : Tenant) (cyc : Cycle) (s : State) :
    (startTenantReset t cyc s).fixed.kept = s.fixed.kept := by
  unfold startTenantReset
  dsimp only
  split <;> simp
@[simp ↓] theorem writeTnReset_kept (t : Tenant) (v : BitVec 32) (cyc : Cycle) (s : State) :
    (writeTnReset t v cyc s).fixed.kept = s.fixed.kept := by
  unfold writeTnReset
  split <;> simp
@[simp ↓] theorem writeMgmtReset_kept (v : BitVec 32) (cyc : Cycle) (s : State) :
    (writeMgmtReset v cyc s).fixed.kept = s.fixed.kept := by
  simp [writeMgmtReset]
theorem gateWrite_kept (i : Ident) (off : Nat) (rg : Region) (lock : Bool) (eff : State → State) (s : State)
    (h : (eff s).fixed.kept = s.fixed.kept) : (gateWrite i off rg lock eff s).fixed.kept = s.fixed.kept := by
  unfold gateWrite
  split <;> simp [h]

/-! ### Registers -/

@[simp ↓] theorem writeM_kept (i : Ident) (cyc : Cycle) (pass : Bool) (r : MReg) (v : BitVec 64) (s : State) :
    (writeM i cyc pass r v s).fixed.kept = s.fixed.kept := by
  unfold writeM
  split <;> simp
@[simp ↓] theorem writeP_kept (i : Ident) (cyc : Cycle) (t : Tenant) (r : PReg) (v : BitVec 64) (s : State) :
    (writeP i cyc t r v s).fixed.kept = s.fixed.kept := by
  unfold writeP
  split <;> simp

end Sys2Proof.Machine
end

