-- ==== Sys2Proof/Laws/Keeps.lean ====
section
/-! SUPPORT. The relation between a state and the state after an operation: the queue the same, burnt fuses burnt, legal
codes legal; and the operations that keep it although they change the parts it speaks of. -/
namespace Sys2Proof.Machine

/-- An operation leaves the queue, burns fuses and never clears one, and makes no code illegal. -/
structure Keeps (s t : State) : Prop where
  /-- the queue of waiting commands is the same -/
  pending : t.pending = s.pending
  /-- burnt fuses stay burnt -/
  otp : otpKept s t
  /-- legal codes stay legal -/
  codes : s.codesLegal → t.codesLegal

theorem Keeps.of_kept {s t : State} (h : t.fixed.kept = s.fixed.kept) : Keeps s t := by
  have hp : t.pending = s.pending := congrArg Kept.pending h
  have ho : t.otp = s.otp := congrArg Kept.otp h
  have hs : t.cfg.stage = s.cfg.stage := congrArg Kept.stage h
  have hc : t.cfg.coState = s.cfg.coState := congrArg Kept.coState h
  have hl : t.tt.slot = s.tt.slot := congrArg Kept.slot h
  exact ⟨hp, by intro r b; rw [ho]; exact id, by unfold State.codesLegal; rw [hs, hc, hl]; exact id⟩

theorem Keeps.of_fixed {s t : State} (h : t.fixed = s.fixed) : Keeps s t := Keeps.of_kept (by rw [h])

theorem Keeps.refl (s : State) : Keeps s s := Keeps.of_fixed rfl

theorem Keeps.trans {s t u : State} (h : Keeps s t) (g : Keeps t u) : Keeps s u :=
  ⟨g.pending.trans h.pending, fun r b hb => g.otp r b (h.otp r b hb), fun hc => g.codes (h.codes hc)⟩

/-- An operation followed by one that keeps the parts. -/
theorem Keeps.then_kept {s t u : State} (h : Keeps s t) (g : u.fixed.kept = t.fixed.kept) : Keeps s u :=
  h.trans (Keeps.of_kept g)

theorem Keeps.foldl {α : Type} {f : State → α → State} (h : ∀ s x, Keeps s (f s x)) (l : List α) (s : State) :
    Keeps s (l.foldl f s) := by
  induction l generalizing s with
  | nil => exact Keeps.refl s
  | cons x l ih => exact (h s x).trans (ih _)

/-- A change of the configuration block keeps, where its two codes stay legal. -/
theorem keeps_updCfg (s : State) (f : Config → Config)
    (h1 : s.cfg.stage.toNat ≤ 8 → (f s.cfg).stage.toNat ≤ 8) (h2 : s.cfg.coState.toNat ≤ 6 → (f s.cfg).coState.toNat ≤ 6) :
    Keeps s (s.updCfg f) :=
  ⟨rfl, fun _ _ h => h, fun h => ⟨h1 h.1, h2 h.2.1, h.2.2⟩⟩

/-- A change of the timetable keeps, where its slot stays within the tick. -/
theorem keeps_updTt (s : State) (f : Timetable → Timetable) (h : s.tt.slot ≤ 8 → (f s.tt).slot ≤ 8) : Keeps s (s.updTt f) :=
  ⟨rfl, fun _ _ h => h, fun g => ⟨g.1, g.2.1, h g.2.2⟩⟩

/-! ### Requests -/

theorem onRequest_kept (code : Nat) (act : Msg → State → State) (s : State)
    (h : ∀ m s, (act m s).fixed.kept = s.fixed.kept) : (onRequest code act s).fixed.kept = s.fixed.kept := by
  unfold onRequest
  dsimp only
  (repeat' split) <;> simp [h]

theorem keeps_onRequest (code : Nat) (act : Msg → State → State) (s : State) (h : ∀ m s, Keeps s (act m s)) :
    Keeps s (onRequest code act s) := by
  unfold onRequest
  dsimp only
  (repeat' split) <;> first
    | exact Keeps.refl _
    | exact Keeps.of_fixed (by simp)
    | exact Keeps.trans (t := takeMessage _ _) (Keeps.of_fixed (by simp)) (h _ _)

/-! ### Fuses -/

theorem keeps_burn (s : State) (row : Fin 128) (data : BitVec 64) : Keeps s (s.burn row data) := by
  refine ⟨rfl, fun r b h => ?_, fun h => h⟩
  show ((s.otp.set row (s.otp[row] ||| data))[r]).getLsbD b = true
  by_cases hr : row = r
  · subst hr; simp only [Fin.getElem_fin, Vector.getElem_set_self, BitVec.getLsbD_or, Bool.or_eq_true]; exact .inl h
  · have : (row : Nat) ≠ (r : Nat) := fun e => hr (Fin.ext e)
    simpa [Vector.getElem_set, this] using h

theorem keeps_burnRow (r : Nat) (d : BitVec 64) (s : State) : Keeps s (burnRow r d s) := keeps_burn _ _ _

theorem keeps_burnPart (s : State) : Keeps s (burnPart s) := by
  unfold burnPart
  split
  · exact Keeps.refl s
  · exact (keeps_burnRow _ _ _).then_kept rfl

theorem keeps_burnCellLoss (s : State) : Keeps s (burnCellLoss s) := by
  unfold burnCellLoss
  split <;> first | exact Keeps.refl _ | exact keeps_burn _ _ _

theorem keeps_readMarker (s : State) : Keeps s (readMarker s) := by
  unfold readMarker
  dsimp only
  split
  · exact Keeps.of_kept rfl
  · exact Keeps.trans (t := State.updAon _ _) (Keeps.of_kept rfl) (keeps_burnCellLoss _)

/-! ### Ticks and slots -/

theorem updTt_kept (s : State) (f : Timetable → Timetable) :
    (s.updTt f).fixed.kept = { s.fixed.kept with slot := (f s.tt).slot } := rfl

theorem with_tenants_fixed (s : State) (v : Vector TenantPage 64) : ({ s with tenants := v } : State).fixed = s.fixed := rfl

/-- A tick begins at slot 0, and keeps the other parts. -/
theorem beginTick_kept (s : State) : (beginTick s).fixed.kept = { s.fixed.kept with slot := 0 } := by
  unfold beginTick
  dsimp only
  rw [with_tenants_fixed, State.updFlt_kept, updTt_kept]
  simp
  exact ⟨rfl, rfl, rfl, rfl⟩

theorem keeps_beginTick (s : State) : Keeps s (beginTick s) := by
  have h := beginTick_kept s
  have hp : (beginTick s).pending = s.pending := congrArg Kept.pending h
  have ho : (beginTick s).otp = s.otp := congrArg Kept.otp h
  have hs : (beginTick s).cfg.stage = s.cfg.stage := congrArg Kept.stage h
  have hc : (beginTick s).cfg.coState = s.cfg.coState := congrArg Kept.coState h
  have hl : (beginTick s).tt.slot = 0 := congrArg Kept.slot h
  exact ⟨hp, by intro r b; rw [ho]; exact id, fun g => by unfold State.codesLegal; rw [hs, hc, hl]; exact ⟨g.1, g.2.1, by decide⟩⟩

theorem keeps_tickBoundary (s : State) : Keeps s (tickBoundary s) := by
  have h : Keeps s (beginTick (closeTick s)) := (Keeps.of_fixed (closeTick_fixed s)).trans (keeps_beginTick _)
  unfold tickBoundary
  dsimp only
  split
  · exact h.then_kept (by rw [openTick_fixed])
  · split <;> exact h.then_kept (by simp)

theorem keeps_slotStart (bad : List (Nat × Nat)) (s : State) : Keeps s (slotStart bad s) := by
  unfold slotStart
  dsimp only
  split
  · exact Keeps.refl s
  · next hn =>
    have h8 : s.tt.slot < 8 := Nat.lt_of_not_le fun g => hn (.inr (.inl g))
    generalize hu : bad.foldl mismatchAt _ = u
    have hf : u.fixed = s.fixed := by
      rw [← hu]; simp
    refine (Keeps.of_fixed hf).trans (keeps_updTt u _ fun _ => ?_)
    have : u.tt.slot = s.tt.slot := congrArg Fixed.slot hf
    simp; omega

/-! ### Cut-over -/

theorem keeps_endCutover (state : BitVec 4) (cause : Nat) (s : State) (h : state.toNat ≤ 6) :
    Keeps s (endCutover state cause s) := by
  unfold endCutover
  exact Keeps.trans (t := (dropCounters s).mapProcs _) (Keeps.of_fixed (by simp)) (keeps_updCfg _ _ (fun g => g) (fun _ => h))

theorem keeps_refuseAmendment (cause : Nat) (s : State) : Keeps s (refuseAmendment cause s) :=
  (keeps_endCutover 6 cause s (by decide)).then_kept (by rw [refuseAmendment, answerCutover_fixed])

theorem keeps_startAmendment (handover : Bool) (m : Msg) (s : State) : Keeps s (startAmendment handover m s) := by
  unfold startAmendment
  dsimp only
  split
  · exact Keeps.of_fixed (by simp)
  · split
    · exact Keeps.of_fixed (by simp)
    · split
      · exact Keeps.of_fixed (by simp)
      · exact Keeps.trans (t := startRead 2 (leAt m.params 0 8) (leAt m.params 8 4) (eraseImage (answer m 1 s))) (Keeps.of_fixed (by simp))
          (keeps_updCfg _ _ (fun g => g) (fun _ => Nat.le_of_ble_eq_true rfl))

theorem keeps_loadAmendment (b : Bytes) (good : Bool) (s : State) : Keeps s (loadAmendment b good s) := by
  have h : Keeps s (s.updNvm (putImage (!s.cfg.area) b)) := Keeps.of_fixed rfl
  unfold loadAmendment
  dsimp only
  split
  · exact h.trans (Keeps.trans (t := nvmFailed _) (Keeps.of_fixed (by simp)) (keeps_refuseAmendment _ _))
  · generalize imageCause _ _ _ = c
    split
    · exact h.trans (keeps_refuseAmendment _ _)
    · exact h.trans (keeps_updCfg _ _ (fun g => g) (fun _ => Nat.le_of_ble_eq_true rfl))

theorem keeps_loadBanks (m : Image) (s : State) : Keeps s (loadBanks m s) := by
  unfold loadBanks
  exact keeps_updCfg _ _ (fun g => by split <;> exact g) (fun g => by split <;> exact g)

theorem keeps_prepared (b : Bool) (u : State) (g : Nvm → Nvm) (k : Config → Config)
    (h : ∀ c, (k c).stage = c.stage ∧ (k c).coState = 3) :
    Keeps u (if b then refuseAmendment 0x0E (nvmFailed u) else (u.updNvm g).updCfg k) := by
  split
  · exact Keeps.trans (t := nvmFailed u) (Keeps.of_fixed (by simp)) (keeps_refuseAmendment _ _)
  · exact Keeps.trans (t := u.updNvm g) (Keeps.of_fixed rfl)
      (keeps_updCfg _ _ (by rw [(h _).1]; exact id) (by rw [(h _).2]; exact fun _ => Nat.le_of_ble_eq_true rfl))

theorem keeps_prepareAmendment (good : Bool) (s : State) : Keeps s (prepareAmendment good s) := by
  have h : Keeps s (loadPatches (parseImage s.cfg.newImage) (loadBanks (parseImage s.cfg.newImage) s)) :=
    (keeps_loadBanks _ s).then_kept (by rw [loadPatches_fixed])
  unfold prepareAmendment
  refine Keeps.trans (h.then_kept ?_) (keeps_prepared (!good) _ _ _ fun c => ⟨rfl, rfl⟩)
  split <;> simp

theorem keeps_restorePointer (s : State) : Keeps s (restorePointer s) := by
  unfold restorePointer
  exact Keeps.trans (t := s.updNvm _) (Keeps.of_fixed rfl) (keeps_updCfg _ _ (fun g => g) (fun g => g))

theorem keeps_givenUp (status cause : Nat) (p : Bytes) (u : State) :
    Keeps u (answerCutover status p (endCutover 6 cause
      (if u.pwr.nvmLow then u.updCfg fun c => { c with ptrWaits := true } else restorePointer u))) := by
  have h : Keeps u (if u.pwr.nvmLow then u.updCfg fun c => { c with ptrWaits := true } else restorePointer u) := by
    split
    · exact keeps_updCfg _ _ (fun g => g) (fun g => g)
    · exact keeps_restorePointer u
  exact h.trans ((keeps_endCutover 6 cause _ (by decide)).then_kept (by rw [answerCutover_fixed]))

theorem keeps_cancelCutover (s : State) : Keeps s (cancelCutover s) := by
  have h : Keeps s (assertBlk 13 (resumeOld s)) := Keeps.of_fixed (by simp)
  unfold cancelCutover
  generalize assertBlk 13 (resumeOld s) = u at h ⊢
  refine h.trans ?_
  dsimp only
  by_cases hc : u.cfg.attempts ≥ 8
  · rw [if_pos hc]; exact keeps_givenUp _ _ _ _
  · rw [if_neg hc]; exact keeps_updCfg _ _ (fun g => g) (fun _ => Nat.le_of_ble_eq_true rfl)

theorem keeps_bankUncorr (owner : Nat) (s : State) : Keeps s (bankUncorr owner s) := by
  unfold bankUncorr
  dsimp only
  split
  · exact Keeps.refl s
  · have h : Keeps s (s.updCfg fun c => { c with bankBad := addNew owner c.bankBad }) :=
      keeps_updCfg _ _ (fun g => g) (fun g => g)
    split
    · exact h.trans (keeps_cancelCutover _)
    · exact h.trans (keeps_updCfg _ _ (fun g => g) (fun g => g))

theorem keeps_uncorrOutcome (c d : BitVec 16) (owner : WordOwner) (s : State) : Keeps s (uncorrOutcome c d owner s) := by
  unfold uncorrOutcome
  (repeat' split) <;> first | exact Keeps.refl s | exact keeps_bankUncorr _ _ | exact Keeps.of_fixed (by simp)

theorem keeps_armCheck (s : State) : Keeps s (armCheck s) := by
  have h : Keeps s (s.updCfg fun c => { c with attempts := c.attempts + 1 }) := keeps_updCfg _ _ (fun g => g) (fun g => g)
  unfold armCheck
  dsimp only
  split
  · exact (h.trans (keeps_updCfg _ _ (fun g => g) (fun _ => Nat.le_of_ble_eq_true rfl))).then_kept (by rw [assertBlk_fixed])
  · exact h.trans (keeps_cancelCutover _)

@[simp] theorem switchPlats_slot (old new : Image) (t : Timetable) : (switchPlats old new t).slot = t.slot := by
  simp only [switchPlats]
@[simp] theorem switchPlats_started (old new : Image) (t : Timetable) : (switchPlats old new t).started = t.started := by
  simp only [switchPlats]

theorem keeps_switchOwners (s : State) : Keeps s (switchOwners s) := by
  unfold switchOwners
  dsimp only
  refine Keeps.trans (t := State.updCfg (otherBank s) fun c =>
    { c with image := c.newImage, hash := c.newHash, seq := (otherBank s).image.seq, area := (otherBank s).nvm.imgPtr.area,
             coState := 5, armed := 0, target := 0 }) ?_ (Keeps.of_kept ?_)
  · exact (Keeps.of_fixed (otherBank_fixed s)).trans (keeps_updCfg _ _ (fun g => g) (fun _ => Nat.le_of_ble_eq_true rfl))
  · have h : ∀ (u : State) (f : Timetable → Timetable), (f u.tt).slot = u.tt.slot → (f u.tt).started = u.tt.started →
        (u.updTt f).fixed.kept = u.fixed.kept := fun u f h1 h2 => congrArg Fixed.kept (State.updTt_fixed u f h1 h2)
    split <;> simp <;> exact h _ _ (by split <;> simp) (by split <;> simp)

/-! ### Resets and starts -/

theorem keeps_rebuild {s t : State} (hp : t.pending = s.pending) (ho : otpKept s t) (hc : t.codesLegal) : Keeps s t :=
  ⟨hp, ho, fun _ => hc⟩

theorem codesLegal_reset : State.reset.codesLegal := by
  unfold State.codesLegal
  decide

theorem keeps_resetMain (s : State) : Keeps s (resetMain s) :=
  keeps_rebuild (keeps_burnPart s).pending (keeps_burnPart s).otp codesLegal_reset

theorem keeps_resetScrap (s : State) : Keeps s (resetScrap s) :=
  keeps_rebuild rfl (fun _ _ h => h) codesLegal_reset

theorem keeps_installImage (b : Bytes) (good : Bool) (m : Msg) (s : State) : Keeps s (installImage b good m s) := by
  unfold installImage
  dsimp only
  split
  · exact Keeps.of_fixed (by simp)
  · split
    · exact Keeps.of_fixed (by simp)
    · exact Keeps.trans (t := State.updNvm (s.updNvm (putImage false b)) _) (Keeps.of_fixed rfl) (keeps_resetMain _)

theorem keeps_loadRoot (s : State) : Keeps s (loadRoot s) := by
  have h : Keeps s (noteIndex (loadRoots (readMarker (rollJournal (s.updNvm takePointer))))) :=
    (Keeps.trans (t := rollJournal (s.updNvm takePointer)) (Keeps.of_fixed (by simp)) (keeps_readMarker _)).then_kept (by simp)
  unfold loadRoot
  dsimp only
  refine h.trans (Keeps.of_kept ?_)
  (repeat' split) <;> simp

theorem keeps_closeStart (cause : Nat) (s : State) : Keeps s (closeStart cause s) := by
  have h : Keeps s (readMarker (s.updCfg fun c =>
      { c with stage := stageUnconfigured, unconf := true, cause := BitVec.ofNat 8 cause, bank0 := none })) :=
    (keeps_updCfg _ _ (fun _ => Nat.le_of_ble_eq_true rfl) (fun g => g)).trans (keeps_readMarker _)
  unfold closeStart
  dsimp only
  refine h.trans (Keeps.of_kept ?_)
  (repeat' split) <;> simp

theorem keeps_stageOne (s : State) : Keeps s (stageOne s) := by
  unfold stageOne
  split
  · exact Keeps.refl s
  · split
    · exact keeps_closeStart _ _
    · split
      · exact keeps_closeStart _ _
      · exact keeps_updCfg _ _ (fun _ => Nat.le_of_ble_eq_true rfl) (fun g => g)

theorem keeps_goOn (s : State) : Keeps s (goOn s) := by
  unfold goOn
  split
  · exact keeps_stageOne s
  · exact Keeps.refl s

theorem keeps_release (size : Option Nat) (s : State) : Keeps s (release size s) := by
  unfold release
  dsimp only
  generalize hu : senseAtStart _ = u
  have h : Keeps s u := Keeps.of_kept (by rw [← hu]; simp; rfl)
  split
  · exact h.trans (keeps_stageOne u)
  · exact h

theorem keeps_readImage (good : Bool) (s : State) : Keeps s (readImage good s) := by
  unfold readImage
  exact keeps_updCfg _ _ (fun _ => Nat.le_of_ble_eq_true rfl) (fun g => g)

theorem keeps_acceptImage (s : State) : Keeps s (acceptImage s) := by
  unfold acceptImage
  dsimp only
  exact Keeps.trans (keeps_updCfg s
      (fun c => { c with stage := 4, seq := s.image.seq, hash := sha384 s.cfg.image, mapOn := true, unconf := false }) (fun _ => Nat.le_of_ble_eq_true rfl) (fun g => g)) (Keeps.of_fixed (by rw [submitImageCurves_fixed]; rfl))

theorem keeps_checkImage (s : State) : Keeps s (checkImage s) := by
  unfold checkImage
  dsimp only
  split
  · exact keeps_acceptImage s
  · split
    · exact (keeps_updCfg _ _ (fun g => g) (fun g => g)).trans (keeps_closeStart _ _)
    · exact keeps_updCfg _ _ (fun _ => Nat.le_of_ble_eq_true rfl) (fun g => g)

theorem keeps_runTests (failed : List (Nat × Nat)) (s : State) : Keeps s (runTests failed s) := by
  unfold runTests
  dsimp only
  refine Keeps.trans (Keeps.of_fixed (t := verifyLog _) ?_) (keeps_updCfg _ _ (fun _ => Nat.le_of_ble_eq_true rfl) (fun g => g))
  simp

theorem keeps_openRings (s : State) : Keeps s (openRings s) := by
  unfold openRings
  dsimp only
  generalize hu : State.updTt _ _ = u
  have h : Keeps s u := by rw [← hu]; exact keeps_updTt _ _ (fun _ => Nat.le_of_ble_eq_true rfl)
  generalize hv : State.updFlt _ _ = v
  have hv : v.fixed.kept = u.fixed.kept := by rw [← hv]; rfl
  have hw := keeps_updCfg v (fun c => { c with stage := 7, ready := v.tick }) (fun _ => Nat.le_of_ble_eq_true rfl) (fun g => g)
  exact ((h.then_kept hv).trans hw).then_kept (by simp)

/-! ### The register port -/

theorem writePlace_kept (i : Ident) (cyc : Cycle) (pass : Bool) (rg : Region) (p : Place) (v : BitVec 64) (s : State) :
    (writePlace i cyc pass rg p v s).fixed.kept = s.fixed.kept := by
  unfold writePlace
  (repeat' split) <;> simp

theorem writeTarget_kept (i : Ident) (cyc : Cycle) (pass : Bool) (rg : Region) (x : Target) (v : BitVec 64) (s : State) :
    (writeTarget i cyc pass rg x v s).fixed.kept = s.fixed.kept := by
  unfold writeTarget
  (repeat' split) <;> simp [writePlace_kept]

theorem writeTargets_kept (i : Ident) (cyc : Cycle) (pass : Bool) (rg : Region) (l : List Target) (v : BitVec 64)
    (s : State) : (writeTargets i cyc pass rg l v s).fixed.kept = s.fixed.kept := by
  unfold writeTargets
  split <;> simp [writeTarget_kept]

theorem fifoPort_kept (i : Ident) (t : Tenant) (off : Nat) (w : Width) (v : BitVec 64) (s : State) :
    (fifoPort i t off w v s).fixed.kept = s.fixed.kept := by
  unfold fifoPort
  dsimp only
  split
  · simp
  · (repeat' split) <;>
      first | exact congrArg Fixed.kept (gateWrite_fixed i off (.fifo t) false (fun s => s.updPage t _) s rfl) | simp

theorem portWrite_kept (i : Ident) (cyc : Cycle) (pass : Bool) (off : Nat) (w : Width) (v : BitVec 64) (s : State) :
    (portWrite i cyc pass off w v s).fixed.kept = s.fixed.kept := by
  unfold portWrite
  dsimp only
  (repeat' split) <;> simp [fifoPort_kept, writeTargets_kept]

theorem readPlace_kept (i : Ident) (p : Place) (s : State) : (readPlace i p s).1.fixed.kept = s.fixed.kept := by
  unfold readPlace
  split <;> rfl

theorem readTarget_kept (i : Ident) (x : Target) (s : State) : (readTarget i x s).1.fixed.kept = s.fixed.kept := by
  unfold readTarget
  dsimp only
  (repeat' split) <;> simp [readPlace_kept]

theorem readTargets_kept (i : Ident) (l : List Target) (s : State) : (readTargets i l s).1.fixed.kept = s.fixed.kept := by
  unfold readTargets
  split <;> simp [readTarget_kept]

/-- Every access of the register port keeps the queue, the fuses and the codes (00 R18; 11 R434). -/
theorem portRead_kept (i : Ident) (off : Nat) (w : Width) (s : State) : (portRead i off w s).fixed.kept = s.fixed.kept := by
  unfold portRead
  dsimp only
  (repeat' split) <;> simp [readTargets_kept]

end Sys2Proof.Machine
end

