-- ==== Sys2Proof/Laws/Exec/CurveFamily.lean ====
section
/-! SUPPORT. Each command of CurveFamily.lean leaves the queue and burnt fuses and makes no code illegal. -/
namespace Sys2Proof.Machine

theorem execCurveLoad_keeps (payload : Bytes) (s out : State) (h : execCurveLoad payload s = .next out) : Keeps s out := by
  unfold execCurveLoad at h
  (try dsimp only [ok] at h)
  (repeat' split at h) <;>
    (injection h with h
     subst h
     first
       | exact Keeps.refl _
       | exact Keeps.of_kept (by simp)
       | exact Keeps.of_fixed (onRequest_fixed _ _ _ (by intro m s; (repeat' split) <;> simp)))

theorem execCurveLoadComplete_keeps (timeout : Bool) (s out : State) (h : execCurveLoadComplete timeout s = .next out) : Keeps s out := by
  unfold execCurveLoadComplete at h
  (try dsimp only [ok] at h)
  (repeat' split at h) <;>
    (injection h with h
     subst h
     first
       | exact Keeps.refl _
       | exact Keeps.of_kept (by simp))

theorem execCurveUnload_keeps (s out : State) (h : execCurveUnload s = .next out) : Keeps s out := by
  unfold execCurveUnload at h
  (try dsimp only [ok] at h)
  (repeat' split at h) <;>
    (injection h with h
     subst h
     first
       | exact Keeps.refl _
       | exact Keeps.of_kept (by simp)
       | exact Keeps.of_fixed (onRequest_fixed _ _ _ (by intro m s; (repeat' split) <;> simp)))

theorem execCurveRetired_keeps (ix : Fin 32) (s out : State) (h : execCurveRetired ix s = .next out) : Keeps s out := by
  unfold execCurveRetired at h
  (try dsimp only [ok] at h)
  (repeat' split at h) <;>
    (injection h with h
     subst h
     first
       | exact Keeps.refl _
       | exact Keeps.of_kept (by simp))

end Sys2Proof.Machine
end

