-- ==== Sys2Proof/Laws/Exec/CustodyFamily.lean ====
section
/-! SUPPORT. Each command of CustodyFamily.lean leaves the queue and burnt fuses and makes no code illegal. -/
namespace Sys2Proof.Machine

theorem execIvMarkWrite_keeps (t : Tenant) (handle : Handle) (s out : State) (h : execIvMarkWrite t handle s = .next out) : Keeps s out := by
  unfold execIvMarkWrite at h
  (try dsimp only [ok] at h)
  (repeat' split at h) <;>
    (injection h with h
     subst h
     first
       | exact Keeps.refl _
       | exact Keeps.of_kept (by simp))

theorem execMissDerivation_keeps (rid : Nat) (s out : State) (h : execMissDerivation rid s = .next out) : Keeps s out := by
  unfold execMissDerivation at h
  (try dsimp only [ok] at h)
  (repeat' split at h) <;>
    (injection h with h
     subst h
     first
       | exact Keeps.refl _
       | exact Keeps.of_kept (by simp))

theorem execFreightKeyLoad_keeps (rid : Nat) (s out : State) (h : execFreightKeyLoad rid s = .next out) : Keeps s out := by
  unfold execFreightKeyLoad at h
  (try dsimp only [ok] at h)
  (repeat' split at h) <;>
    (injection h with h
     subst h
     first
       | exact Keeps.refl _
       | exact Keeps.of_kept (by simp))

theorem execStart_keeps (ident : Ident) (t : Tenant) (v : BitVec 64) (s out : State) (h : execStart ident t v s = .next out) : Keeps s out := by
  unfold execStart at h
  (try dsimp only [ok] at h)
  (repeat' split at h) <;>
    (injection h with h
     subst h
     first
       | exact Keeps.of_kept (by simp)
       | exact Keeps.of_fixed (pageWrite_fixed _ _ _ _ _ (by simp)))

theorem execComponent_keeps (ident : Ident) (t : Tenant) (v : BitVec 64) (s out : State) (h : execComponent ident t v s = .next out) : Keeps s out := by
  unfold execComponent at h
  (try dsimp only [ok] at h)
  (repeat' split at h) <;>
    (injection h with h
     subst h
     first
       | exact Keeps.of_kept (by simp)
       | exact Keeps.of_fixed (pageWrite_fixed _ _ _ _ _ (by simp)))

theorem execFinish_keeps (ident : Ident) (t : Tenant) (v : BitVec 64) (s out : State) (h : execFinish ident t v s = .next out) : Keeps s out := by
  unfold execFinish at h
  (try dsimp only [ok] at h)
  (repeat' split at h) <;>
    (injection h with h
     subst h
     first
       | exact Keeps.of_kept (by simp)
       | exact Keeps.of_fixed (pageWrite_fixed _ _ _ _ _ (by simp)))

theorem execCancel_keeps (ident : Ident) (t : Tenant) (v : BitVec 64) (s out : State) (h : execCancel ident t v s = .next out) : Keeps s out := by
  unfold execCancel at h
  (try dsimp only [ok] at h)
  (repeat' split at h) <;>
    (injection h with h
     subst h
     first
       | exact Keeps.of_kept (by simp)
       | exact Keeps.of_fixed (pageWrite_fixed _ _ _ _ _ (by simp)))

theorem execInvalidate_keeps (ident : Ident) (t : Tenant) (v : BitVec 64) (s out : State) (h : execInvalidate ident t v s = .next out) : Keeps s out := by
  unfold execInvalidate at h
  (try dsimp only [ok] at h)
  (repeat' split at h) <;>
    (injection h with h
     subst h
     first
       | exact Keeps.of_kept (by simp)
       | exact Keeps.of_fixed (pageWrite_fixed _ _ _ _ _ (by simp)))

theorem execKeCompareResult_keeps (t : Tenant) (s out : State) (h : execKeCompareResult t s = .next out) : Keeps s out := by
  unfold execKeCompareResult at h
  (try dsimp only [ok] at h)
  (repeat' split at h) <;>
    (injection h with h; subst h; exact Keeps.of_kept (by simp))

theorem execKeSessionTimeout_keeps (t : Tenant) (s out : State) (h : execKeSessionTimeout t s = .next out) : Keeps s out := by
  unfold execKeSessionTimeout at h
  (try dsimp only [ok] at h)
  (repeat' split at h) <;>
    (injection h with h; subst h; exact Keeps.of_kept (by simp))

theorem execKeyStoreCommit_keeps (good : Bool) (s out : State) (h : execKeyStoreCommit good s = .next out) : Keeps s out := by
  unfold execKeyStoreCommit at h
  (try dsimp only [ok] at h)
  (repeat' split at h) <;>
    (injection h with h
     subst h
     first
       | exact Keeps.refl _
       | exact Keeps.of_kept (by simp))

theorem execStorageKeyRotation_keeps (s out : State) (h : execStorageKeyRotation s = .next out) : Keeps s out := by
  unfold execStorageKeyRotation at h
  (try dsimp only [ok] at h)
  (repeat' split at h) <;>
    (injection h with h
     subst h
     first
       | exact Keeps.refl _
       | exact Keeps.of_kept (by simp)
       | exact Keeps.of_fixed (onRequest_fixed _ _ _ (by intro m s; (repeat' split) <;> simp)))

theorem execRotationBlockCopy_keeps (s out : State) (h : execRotationBlockCopy s = .next out) : Keeps s out := by
  unfold execRotationBlockCopy at h
  (try dsimp only [ok] at h)
  (repeat' split at h) <;>
    (injection h with h
     subst h
     first
       | exact Keeps.refl _
       | exact Keeps.of_kept (by simp))

theorem execPointerFlip_keeps (s out : State) (h : execPointerFlip s = .next out) : Keeps s out := by
  unfold execPointerFlip at h
  (try dsimp only [ok] at h)
  (repeat' split at h) <;>
    (injection h with h
     subst h
     first
       | exact Keeps.refl _
       | exact Keeps.of_kept (by simp))

theorem execReroot_keeps (s out : State) (h : execReroot s = .next out) : Keeps s out := by
  unfold execReroot at h
  dsimp only at h
  split at h
  · injection h with h; subst h; exact Keeps.refl _
  · injection h with h; subst h
    refine Keeps.of_kept (onRequest_kept _ _ _ fun m s => ?_)
    (repeat' split) <;> simp

end Sys2Proof.Machine
end

