-- ==== Sys2Proof/Laws/Exec/CutFamily.lean ====
section
/-! SUPPORT. Each command of CutFamily.lean leaves the queue and burnt fuses and makes no code illegal. -/
namespace Sys2Proof.Machine

theorem execConfigurationAmendment_keeps (s out : State) (h : execConfigurationAmendment s = .next out) : Keeps s out := by
  unfold execConfigurationAmendment at h
  split at h
  · injection h with h; subst h; exact Keeps.refl _
  · injection h with h; subst h
    exact keeps_onRequest _ _ _ fun m s => keeps_startAmendment _ _ _

theorem execFirmwareHandover_keeps (s out : State) (h : execFirmwareHandover s = .next out) : Keeps s out := by
  unfold execFirmwareHandover at h
  injection h with h; subst h
  exact keeps_onRequest _ _ _ fun m s => keeps_startAmendment _ _ _

theorem execAmendmentImageLoaded_keeps (payload : Option Bytes) (good : Bool) (s out : State) (h : execAmendmentImageLoaded payload good s = .next out) : Keeps s out := by
  unfold execAmendmentImageLoaded at h
  (repeat' split at h) <;> (injection h with h; subst h; first | exact Keeps.refl _ | exact Keeps.of_kept (by simp) | exact keeps_loadAmendment _ _ _)

theorem execAmendmentPrepared_keeps (good : Bool) (s out : State) (h : execAmendmentPrepared good s = .next out) : Keeps s out := by
  unfold execAmendmentPrepared at h
  (repeat' split at h) <;> (injection h with h; subst h; first | exact Keeps.refl _ | exact Keeps.of_kept (by simp) | exact keeps_prepareAmendment _ _)

theorem execConfigInstall_keeps (payload : Option Bytes) (good : Bool) (s out : State) (h : execConfigInstall payload good s = .next out) : Keeps s out := by
  unfold execConfigInstall at h
  (repeat' split at h) <;> (injection h with h; subst h; first | exact Keeps.refl _ | exact Keeps.of_kept (by simp) | first | exact Keeps.of_fixed (by simp) | exact Keeps.trans (t := State.updCfg _ _) (Keeps.of_fixed rfl) (keeps_onRequest _ _ _ fun m s => keeps_installImage _ _ _ _))

theorem execInactiveBankReload_keeps (owner : Fin 8) (good : Bool) (s out : State) (h : execInactiveBankReload owner good s = .next out) : Keeps s out := by
  unfold execInactiveBankReload at h
  (try dsimp only [ok] at h)
  (repeat' split at h) <;>
    (injection h with h
     subst h
     first
       | exact Keeps.refl _
       | exact Keeps.of_kept (by simp))

theorem execHandoverHalt_keeps (p : Fin 3) (s out : State) (h : execHandoverHalt p s = .next out) : Keeps s out := by
  unfold execHandoverHalt at h
  (try dsimp only [ok] at h)
  (repeat' split at h) <;>
    (injection h with h
     subst h
     first
       | exact Keeps.refl _
       | exact Keeps.of_kept (by simp))

theorem execCutoverArmCheck_keeps (s out : State) (h : execCutoverArmCheck s = .next out) : Keeps s out := by
  unfold execCutoverArmCheck at h
  (repeat' split at h) <;> (injection h with h; subst h; first | exact Keeps.refl _ | exact Keeps.of_kept (by simp) | exact keeps_armCheck _)

theorem execCutoverSwitch_keeps (s out : State) (h : execCutoverSwitch s = .next out) : Keeps s out := by
  unfold execCutoverSwitch at h
  dsimp only at h
  split at h
  · injection h with h; subst h; exact Keeps.refl _
  · injection h with h; subst h
    refine Keeps.then_kept (t := ite _ _ _) ?_ (by rw [issueWrites_fixed, issueDescReads_fixed])
    split
    · exact keeps_cancelCutover _
    · exact (keeps_switchOwners s).then_kept (by simp)

theorem execHandoverResume_keeps (p : Fin 3) (good : Bool) (s out : State) (h : execHandoverResume p good s = .next out) : Keeps s out := by
  unfold execHandoverResume at h
  (try dsimp only [ok] at h)
  (repeat' split at h) <;>
    (injection h with h
     subst h
     first
       | exact Keeps.refl _
       | exact Keeps.of_kept (by simp))

theorem execCacheSlotReload_keeps (t : Tenant) (handle : Handle) (s out : State) (h : execCacheSlotReload t handle s = .next out) : Keeps s out := by
  unfold execCacheSlotReload at h
  (try dsimp only [ok] at h)
  (repeat' split at h) <;>
    (injection h with h
     subst h
     exact Keeps.of_kept (by simp))

end Sys2Proof.Machine
end

