-- ==== Sys2Proof/Laws/Exec/DebugFamily.lean ====
section
/-! SUPPORT. Each command of DebugFamily.lean leaves the queue and burnt fuses and makes no code illegal. -/
namespace Sys2Proof.Machine

theorem execDebugChallenge_keeps (s out : State) (h : execDebugChallenge s = .next out) : Keeps s out := by
  unfold execDebugChallenge at h
  (try dsimp only [ok] at h)
  (repeat' split at h) <;>
    (injection h with h
     subst h
     first
       | exact Keeps.refl _
       | exact Keeps.of_kept (by simp)
       | exact Keeps.of_fixed (onRequest_fixed _ _ _ (by intro m s; (repeat' split) <;> simp)))

theorem execDebugPass_keeps (payload : Bytes) (s out : State) (h : execDebugPass payload s = .next out) : Keeps s out := by
  unfold execDebugPass at h
  (try dsimp only [ok] at h)
  (repeat' split at h) <;>
    (injection h with h
     subst h
     first
       | exact Keeps.of_kept (by simp)
       | exact Keeps.of_fixed (onRequest_fixed _ _ _ (by intro m s; (repeat' split) <;> simp)))

theorem execTenantWaybill_keeps (s out : State) (h : execTenantWaybill s = .next out) : Keeps s out := by
  unfold execTenantWaybill at h
  (try dsimp only [ok] at h)
  (repeat' split at h) <;>
    (injection h with h
     subst h
     first
       | exact Keeps.refl _
       | exact Keeps.of_kept (by simp)
       | exact Keeps.of_fixed (onRequest_fixed _ _ _ (by intro m s; (repeat' split) <;> simp)))

theorem execBlockWaybill_keeps (s out : State) (h : execBlockWaybill s = .next out) : Keeps s out := by
  unfold execBlockWaybill at h
  (try dsimp only [ok] at h)
  (repeat' split at h) <;>
    (injection h with h
     subst h
     first
       | exact Keeps.refl _
       | exact Keeps.of_kept (by simp)
       | exact Keeps.of_fixed (onRequest_fixed _ _ _ (by intro m s; (repeat' split) <;> simp)))

theorem execWaybillSigned_keeps (good : Bool) (s out : State) (h : execWaybillSigned good s = .next out) : Keeps s out := by
  unfold execWaybillSigned at h
  (try dsimp only [ok] at h)
  (repeat' split at h) <;>
    (injection h with h
     subst h
     first
       | exact Keeps.refl _
       | exact Keeps.of_kept (by simp))

theorem execDumpRetrieval_keeps (good : Bool) (s out : State) (h : execDumpRetrieval good s = .next out) : Keeps s out := by
  unfold execDumpRetrieval at h
  dsimp only at h
  split at h
  · injection h with h; subst h; exact Keeps.of_kept (by simp)
  · injection h with h; subst h
    refine Keeps.of_kept (onRequest_kept _ _ _ fun m s => ?_)
    (repeat' split) <;> simp

theorem execDbgHalt_keeps (ident : Ident) (v : BitVec 32) (s out : State) (h : execDbgHalt ident v s = .next out) : Keeps s out := by
  unfold execDbgHalt at h
  (try dsimp only [ok] at h)
  (repeat' split at h) <;>
    (injection h with h
     subst h
     first
       | exact Keeps.of_kept (by simp)
       | exact Keeps.of_fixed (supWrite_fixed _ _ _ _ (by simp)))

theorem execDbgStep_keeps (ident : Ident) (v : BitVec 32) (s out : State) (h : execDbgStep ident v s = .next out) : Keeps s out := by
  unfold execDbgStep at h
  (try dsimp only [ok] at h)
  (repeat' split at h) <;>
    (injection h with h
     subst h
     first
       | exact Keeps.of_kept (by simp)
       | exact Keeps.of_fixed (supWrite_fixed _ _ _ _ (by simp)))

theorem execDbgResume_keeps (ident : Ident) (v : BitVec 32) (s out : State) (h : execDbgResume ident v s = .next out) : Keeps s out := by
  unfold execDbgResume at h
  (try dsimp only [ok] at h)
  (repeat' split at h) <;>
    (injection h with h
     subst h
     first
       | exact Keeps.of_kept (by simp)
       | exact Keeps.of_fixed (supWrite_fixed _ _ _ _ (by simp)))

theorem execDbgRead_keeps (ident : Ident) (v : BitVec 64) (s out : State) (h : execDbgRead ident v s = .next out) : Keeps s out := by
  unfold execDbgRead at h
  (try dsimp only [ok] at h)
  (repeat' split at h) <;>
    (injection h with h
     subst h
     first
       | exact Keeps.of_kept (by simp)
       | exact Keeps.of_fixed (supWrite_fixed _ _ _ _ (by simp)))

theorem execDbgWrite_keeps (ident : Ident) (v : BitVec 64) (s out : State) (h : execDbgWrite ident v s = .next out) : Keeps s out := by
  unfold execDbgWrite at h
  (try dsimp only [ok] at h)
  (repeat' split at h) <;>
    (injection h with h
     subst h
     first
       | exact Keeps.of_kept (by simp)
       | exact Keeps.of_fixed (supWrite_fixed _ _ _ _ (by simp)))

theorem execBist_keeps (ident : Ident) (v : BitVec 64) (pass : Bool) (s out : State) (h : execBist ident v pass s = .next out) : Keeps s out := by
  unfold execBist at h
  (try dsimp only [ok] at h)
  (repeat' split at h) <;>
    (injection h with h
     subst h
     first
       | exact Keeps.of_kept (by simp)
       | exact Keeps.of_fixed (supWrite_fixed _ _ _ _ (by simp)))

end Sys2Proof.Machine
end

