-- ==== Sys2Proof/Laws/Exec/EntropyFamily.lean ====
section
/-! SUPPORT. Each command of EntropyFamily.lean leaves the queue and burnt fuses and makes no code illegal. -/
namespace Sys2Proof.Machine

theorem execSourceHealthFailure_keeps (n : Fin 4) (cause : BitVec 8) (s out : State) (h : execSourceHealthFailure n cause s = .next out) : Keeps s out := by
  unfold execSourceHealthFailure at h
  (try dsimp only [ok] at h)
  (repeat' split at h) <;>
    (injection h with h
     subst h
     first
       | exact Keeps.refl _
       | exact Keeps.of_kept (by simp))

theorem execSourceRejoin_keeps (n : Fin 4) (s out : State) (h : execSourceRejoin n s = .next out) : Keeps s out := by
  unfold execSourceRejoin at h
  (try dsimp only [ok] at h)
  (repeat' split at h) <;>
    (injection h with h
     subst h
     first
       | exact Keeps.refl _
       | exact Keeps.of_kept (by simp))

theorem execSourceRetestTimer_keeps (n : Fin 4) (s out : State) (h : execSourceRetestTimer n s = .next out) : Keeps s out := by
  unfold execSourceRetestTimer at h
  (try dsimp only [ok] at h)
  (repeat' split at h) <;>
    (injection h with h
     subst h
     first
       | exact Keeps.refl _
       | exact Keeps.of_kept (by simp))

theorem execRetest_keeps (ident : Ident) (v : BitVec 32) (s out : State) (h : execRetest ident v s = .next out) : Keeps s out := by
  unfold execRetest at h
  (try dsimp only [ok] at h)
  (repeat' split at h) <;>
    (injection h with h
     subst h
     first
       | exact Keeps.of_kept (by simp)
       | exact Keeps.of_fixed (mgmtWrite_fixed _ _ _ _ (by simp)))

theorem execConditionedBlock_keeps (runs : Vector (Fin 256) 4) (apts : Vector (Fin 1024) 4) (s out : State) (h : execConditionedBlock runs apts s = .next out) : Keeps s out := by
  unfold execConditionedBlock at h
  (try dsimp only [ok] at h)
  (repeat' split at h) <;>
    (injection h with h
     subst h
     first
       | exact Keeps.refl _
       | exact Keeps.of_kept (by simp))

theorem execDrbgInstantiate_keeps (s out : State) (h : execDrbgInstantiate s = .next out) : Keeps s out := by
  unfold execDrbgInstantiate at h
  (try dsimp only at h)
  split at h
  · injection h with h; subst h; exact Keeps.of_fixed (by rw [State.updEn_fixed])
  · injection h with h; subst h; exact Keeps.refl _

theorem execDrbgReseed_keeps (s out : State) (h : execDrbgReseed s = .next out) : Keeps s out := by
  unfold execDrbgReseed at h
  (try dsimp only at h)
  split at h
  · injection h with h; subst h; exact Keeps.of_fixed (by rw [State.updEn_fixed])
  · injection h with h; subst h; exact Keeps.refl _

theorem execDrbgGenerate_keeps (mismatch : Bool) (s out : State) (h : execDrbgGenerate mismatch s = .next out) : Keeps s out := by
  unfold execDrbgGenerate at h
  (try dsimp only [ok] at h)
  (repeat' split at h) <;>
    (injection h with h
     subst h
     first
       | exact Keeps.refl _
       | exact Keeps.of_kept (by simp))

theorem execLowClr_keeps (ident : Ident) (v : BitVec 64) (s out : State) (h : execLowClr ident v s = .next out) : Keeps s out := by
  unfold execLowClr at h
  (try dsimp only [ok] at h)
  (repeat' split at h) <;>
    (injection h with h
     subst h
     first
       | exact Keeps.of_kept (by simp)
       | exact Keeps.of_fixed (mgmtWrite_fixed _ _ _ _ (by simp)))

end Sys2Proof.Machine
end

