-- ==== Sys2Proof/Laws/Exec/FabricFamily.lean ====
section
/-! SUPPORT. Each command of FabricFamily.lean leaves the queue and burnt fuses and makes no code illegal. -/
namespace Sys2Proof.Machine

@[simp ↓] theorem refillReads_fixed (s : State) : (refillReads s).fixed = s.fixed := by
  simp [refillReads]

@[simp ↓] theorem refillWrites_fixed (s : State) : (refillWrites s).fixed = s.fixed := by
  simp [refillWrites]

theorem execDescriptorDataLanded_keeps (port : Fin 4) (tag : Fin 256) (data : Bytes) (ns : Nat) (cycle : Cycle) (s out : State) (h : execDescriptorDataLanded port tag data ns cycle s = .next out) : Keeps s out := by
  unfold execDescriptorDataLanded at h
  (try dsimp only [ok] at h)
  (repeat' split at h) <;>
    first
    | contradiction
    | (injection h with h; subst h; first | exact Keeps.refl _ | exact Keeps.of_kept (by simp))

theorem execReadBurstReturn_keeps (port : Fin 4) (tag : Fin 256) (data : Bytes) (err : Bool) (flight : Flight) (s out : State) (h : execReadBurstReturn port tag data err flight s = .next out) : Keeps s out := by
  unfold execReadBurstReturn at h
  (try dsimp only [ok] at h)
  (repeat' split at h) <;>
    first
    | contradiction
    | (injection h with h; subst h; first | exact Keeps.refl _ | exact Keeps.of_kept (by simp))

theorem execWriteResponse_keeps (port : Fin 4) (tag : Fin 256) (err : Bool) (flight : Flight) (s out : State) (h : execWriteResponse port tag err flight s = .next out) : Keeps s out := by
  unfold execWriteResponse at h
  (try dsimp only [ok] at h)
  (repeat' split at h) <;>
    first
    | contradiction
    | (injection h with h; subst h; first | exact Keeps.refl _ | exact Keeps.of_kept (by simp))

theorem execBurstTimeout_keeps (port : Fin 4) (write : Bool) (tag : Fin 256) (s out : State) (h : execBurstTimeout port write tag s = .next out) : Keeps s out := by
  unfold execBurstTimeout at h
  (try dsimp only [ok] at h)
  (repeat' split at h) <;>
    first
    | contradiction
    | (injection h with h; subst h; first | exact Keeps.refl _ | exact Keeps.of_kept (by simp))

end Sys2Proof.Machine
end

