-- ==== Sys2Proof/Laws/Exec/FaultFamily.lean ====
section
/-! SUPPORT. Each command of FaultFamily.lean leaves the queue and burnt fuses and makes no code illegal. -/
namespace Sys2Proof.Machine

theorem execFaultReport_keeps (source : Sys2Proof.Source) (detail : BitVec 16) (owner : WordOwner) (cycle : Cycle) (s out : State) (h : execFaultReport source detail owner cycle s = .next out) : Keeps s out := by
  unfold execFaultReport at h
  dsimp only at h
  split at h
  · injection h with h; subst h; exact Keeps.refl _
  · injection h with h; subst h
    have h : ∀ u : State, Keeps s u → Keeps s (if srcChecker source = 17 then
        tamperAlarm 20 false (source.setWidth 32) (reportAtCycle cycle.val source (detailOf source detail) u)
        else reportAtCycle cycle.val source (detailOf source detail) u) :=
      fun u hu => hu.then_kept (by split <;> simp)
    refine h _ ?_
    split
    · exact keeps_uncorrOutcome _ _ _ _
    · exact Keeps.of_fixed rfl

theorem execSidingTakeover_keeps (eng : Fin 64) (s out : State) (h : execSidingTakeover eng s = .next out) : Keeps s out := by
  unfold execSidingTakeover at h
  (try dsimp only [ok] at h)
  (repeat' split at h) <;>
    (injection h with h; subst h; exact Keeps.of_kept (by simp))

theorem execContingencySwitch_keeps (s out : State) (h : execContingencySwitch s = .next out) : Keeps s out := by
  unfold execContingencySwitch at h
  (try dsimp only [ok] at h)
  (repeat' split at h) <;>
    (injection h with h
     subst h
     first
       | exact Keeps.refl _
       | exact Keeps.of_kept (by simp))

theorem execEscalationExpiry_keeps (source : Sys2Proof.Source) (s out : State) (h : execEscalationExpiry source s = .next out) : Keeps s out := by
  unfold execEscalationExpiry at h
  (try dsimp only [ok] at h)
  (repeat' split at h) <;>
    (injection h with h
     subst h
     first
       | exact Keeps.refl _
       | exact Keeps.of_kept (by simp))

theorem execFaultAck_keeps (v : BitVec 32) (s out : State) (h : execFaultAck v s = .next out) : Keeps s out := by
  unfold execFaultAck at h
  (try dsimp only [ok] at h)
  (repeat' split at h) <;>
    (injection h with h
     subst h
     first
       | exact Keeps.refl _
       | exact Keeps.of_kept (by simp))

theorem execStationRestart_keeps (st : Fin 7) (s out : State) (h : execStationRestart st s = .next out) : Keeps s out := by
  unfold execStationRestart at h
  (try dsimp only [ok] at h)
  (repeat' split at h) <;>
    (injection h with h
     subst h
     first
       | exact Keeps.refl _
       | exact Keeps.of_kept (by simp))

theorem execStationRejoin_keeps (st : Fin 7) (s out : State) (h : execStationRejoin st s = .next out) : Keeps s out := by
  unfold execStationRejoin at h
  (try dsimp only [ok] at h)
  (repeat' split at h) <;>
    (injection h with h
     subst h
     first
       | exact Keeps.refl _
       | exact Keeps.of_kept (by simp))

theorem execLockdown_keeps (s out : State) (h : execLockdown s = .next out) : Keeps s out := by
  unfold execLockdown at h
  (try dsimp only [ok] at h)
  (repeat' split at h) <;>
    (injection h with h
     subst h
     first
       | exact Keeps.refl _
       | exact Keeps.of_kept (by simp))

theorem execDumpWrite_keeps (good : Bool) (s out : State) (h : execDumpWrite good s = .next out) : Keeps s out := by
  unfold execDumpWrite at h
  (try dsimp only [ok] at h)
  (repeat' split at h) <;>
    (injection h with h
     subst h
     first
       | exact Keeps.refl _
       | exact Keeps.of_kept (by simp))

theorem execLockstepMismatch_keeps (p : Fin 3) (s out : State) (h : execLockstepMismatch p s = .next out) : Keeps s out := by
  unfold execLockstepMismatch at h
  (try dsimp only [ok] at h)
  (repeat' split at h) <;>
    (injection h with h
     subst h
     first
       | exact Keeps.refl _
       | exact Keeps.of_kept (by simp))

theorem execControlProcessorResume_keeps (p : Fin 3) (s out : State) (h : execControlProcessorResume p s = .next out) : Keeps s out := by
  unfold execControlProcessorResume at h
  dsimp only at h
  split at h
  · injection h with h; subst h; exact Keeps.refl _
  · split at h
    · injection h with h; subst h; exact Keeps.of_kept (by simp)
    · injection h with h; subst h
      refine Keeps.of_kept ?_
      split <;> simp

theorem execScrub_keeps (source : Sys2Proof.Source) (word : Bytes) (detail : BitVec 16) (owner : WordOwner) (s out : State) (h : execScrub source word detail owner s = .next out) : Keeps s out := by
  unfold execScrub at h
  dsimp only at h
  split at h
  · injection h with h; subst h; exact Keeps.refl _
  · split at h
    · injection h with h; subst h; exact Keeps.of_fixed (by rw [faultReport_fixed, mendOwner_fixed])
    · injection h with h; subst h; exact Keeps.refl _
  · split at h
    · injection h with h; subst h
      exact (keeps_uncorrOutcome (withChecker source 4) detail owner s).then_kept (by rw [faultReport_fixed])
    · injection h with h; subst h; exact Keeps.refl _

theorem execCheckerProof_keeps (source : Sys2Proof.Source) (good : Bool) (s out : State) (h : execCheckerProof source good s = .next out) : Keeps s out := by
  unfold execCheckerProof at h
  (try dsimp only [ok] at h)
  (repeat' split at h) <;>
    (injection h with h
     subst h
     first
       | exact Keeps.refl _
       | exact Keeps.of_kept (by simp))

theorem execPlannedShunt_keeps (eng : Fin 64) (lane siding : Fin 16) (s out : State) (h : execPlannedShunt eng lane siding s = .next out) : Keeps s out := by
  unfold execPlannedShunt at h
  (try dsimp only [ok] at h)
  (repeat' split at h) <;>
    (injection h with h
     subst h
     first
       | exact Keeps.refl _
       | exact Keeps.of_kept (by simp))

theorem execFaultInjection_keeps (ident : Ident) (v : BitVec 64) (s out : State) (h : execFaultInjection ident v s = .next out) : Keeps s out := by
  unfold execFaultInjection at h
  (try dsimp only [ok] at h)
  (repeat' split at h) <;>
    (injection h with h
     subst h
     first
       | exact Keeps.refl _
       | exact Keeps.of_kept (by simp)
       | exact Keeps.of_fixed (supWrite_fixed _ _ _ _ (by simp)))

theorem execFirstErrorClear_keeps (ident : Ident) (v : BitVec 64) (s out : State) (h : execFirstErrorClear ident v s = .next out) : Keeps s out := by
  unfold execFirstErrorClear at h
  (try dsimp only [ok] at h)
  (repeat' split at h) <;>
    (injection h with h
     subst h
     first
       | exact Keeps.of_kept (by simp)
       | exact Keeps.of_fixed (supWrite_fixed _ _ _ _ (by simp)))

theorem execFaultRecordTake_keeps (s out : State) (h : execFaultRecordTake s = .next out) : Keeps s out := by
  unfold execFaultRecordTake at h
  (try dsimp only [ok] at h)
  (repeat' split at h) <;>
    (injection h with h
     subst h
     first
       | exact Keeps.refl _
       | exact Keeps.of_kept (by simp))

end Sys2Proof.Machine
end

