-- ==== Sys2Proof/Laws/Exec/LifeFamily.lean ====
section
/-! SUPPORT. Each command of LifeFamily.lean leaves the queue and burnt fuses and makes no code illegal. -/
namespace Sys2Proof.Machine

theorem execLifeCycleTransition_keeps (s out : State) (h : execLifeCycleTransition s = .next out) : Keeps s out := by
  unfold execLifeCycleTransition at h
  (try dsimp only [ok] at h)
  (repeat' split at h) <;>
    (injection h with h
     subst h
     first
       | exact Keeps.refl _
       | exact Keeps.of_kept (by simp)
       | exact Keeps.of_fixed (onRequest_fixed _ _ _ (by intro m s; (repeat' split) <;> simp)))

theorem execAuthoritySeal_keeps (payload : Bytes) (s out : State) (h : execAuthoritySeal payload s = .next out) : Keeps s out := by
  unfold execAuthoritySeal at h
  split at h
  · injection h with h; subst h; exact Keeps.refl _
  · split at h
    · injection h with h; subst h; exact Keeps.refl _
    · injection h with h; subst h
      refine Keeps.of_kept (onRequest_kept _ _ _ fun m s => ?_)
      dsimp only
      split
      · simp
      · split
        · simp
        · split
          · simp
          · split
            · simp
            · (repeat' split) <;> simp

theorem execOtpProgramComplete_keeps (err : Bool) (s out : State) (h : execOtpProgramComplete err s = .next out) : Keeps s out := by
  unfold execOtpProgramComplete at h
  split at h
  · injection h with h; subst h; exact Keeps.refl _
  · next r d _ =>
    dsimp only at h
    split at h
    · injection h with h; subst h; exact Keeps.refl _
    · generalize hb : (if err = true then burnPart s else burnRow r d s) = b at h
      have hk : Keeps s b := by
        rw [← hb]; split
        · exact keeps_burnPart s
        · exact keeps_burnRow _ _ _
      (repeat' split at h) <;> (injection h with h; subst h)
      · exact hk.then_kept (by simp)
      · exact (hk.then_kept (targetBurnt_kept err b)).trans (keeps_goOn _)
      · exact (hk.then_kept (commitBurnt_kept err b)).trans (keeps_goOn _)
      · exact hk.then_kept (by rw [authorityBurnt_fixed])

end Sys2Proof.Machine
end

