-- ==== Sys2Proof/Laws/Exec/MailboxFamily.lean ====
section
/-! SUPPORT. Each command of MailboxFamily.lean leaves the queue and burnt fuses and makes no code illegal. -/
namespace Sys2Proof.Machine

theorem execSend_keeps (ident : Ident) (box : Option Tenant) (v : BitVec 32) (s out : State) (h : execSend ident box v s = .next out) : Keeps s out := by
  unfold execSend at h
  (try dsimp only [ok] at h)
  (repeat' split at h) <;>
    (injection h with h
     subst h
     first
       | exact Keeps.of_kept (by simp)
       | exact Keeps.of_fixed (gateWrite_fixed _ _ _ _ _ _ (by simp)))

theorem execAck_keeps (ident : Ident) (box : Option Tenant) (v : BitVec 32) (s out : State) (h : execAck ident box v s = .next out) : Keeps s out := by
  unfold execAck at h
  (try dsimp only [ok] at h)
  (repeat' split at h) <;>
    (injection h with h
     subst h
     first
       | exact Keeps.of_kept (by simp)
       | exact Keeps.of_fixed (gateWrite_fixed _ _ _ _ _ _ (by simp)))

theorem execMailboxDelivery_keeps (s out : State) (h : execMailboxDelivery s = .next out) : Keeps s out := by
  unfold execMailboxDelivery at h
  (try dsimp only [ok] at h)
  (repeat' split at h) <;>
    (injection h with h
     subst h
     first
       | exact Keeps.refl _
       | exact Keeps.of_kept (by simp))

theorem execUnknownRequestCode_keeps (s out : State) (h : execUnknownRequestCode s = .next out) : Keeps s out := by
  unfold execUnknownRequestCode at h
  (try dsimp only [ok] at h)
  (repeat' split at h) <;>
    (injection h with h
     subst h
     first
       | exact Keeps.refl _
       | exact Keeps.of_kept (by simp))

theorem readLock_kept (i : Ident) (s : State) : (readLock i s).fixed.kept = s.fixed.kept := by
  unfold readLock
  (repeat' split) <;> first | rfl | simp

theorem execLockAcquire_keeps (ident : Ident) (s out : State) (h : execLockAcquire ident s = .next out) : Keeps s out := by
  unfold execLockAcquire at h
  injection h with h; subst h
  exact Keeps.of_kept (readLock_kept _ _)

theorem execLockRelease_keeps (ident : Ident) (v : BitVec 32) (s out : State) (h : execLockRelease ident v s = .next out) : Keeps s out := by
  unfold execLockRelease at h
  injection h with h; subst h
  exact Keeps.of_kept (gateWrite_kept _ _ _ _ _ _ rfl)

theorem lockProcessor_kept (p : Fin 3) (release : Bool) (s : State) : (lockProcessor p release s).fixed.kept = s.fixed.kept := by
  unfold lockProcessor
  dsimp only
  (repeat' split) <;> simp

theorem serveLock_kept (p : Fin 3) (ask : LockAsk) (n : Nat) (s : State) : (serveLock p ask n s).fixed.kept = s.fixed.kept := by
  unfold serveLock
  dsimp only
  (repeat' split)
  · cases ask.port with
    | none => rfl
    | some i => exact readLock_kept i s
  all_goals first | rfl | exact lockProcessor_kept _ _ _

theorem execProcessorLockRequest_keeps (p : Fin 3) (ask : LockAsk) (s out : State) (h : execProcessorLockRequest p ask s = .next out) : Keeps s out := by
  unfold execProcessorLockRequest at h
  injection h with h; subst h
  refine Keeps.of_kept ?_
  generalize lockOrder s.now = l
  induction l generalizing s with
  | nil => rfl
  | cons n l ih => exact (ih _).trans (serveLock_kept p ask n s)

theorem execLeaseExpiry_keeps (s out : State) (h : execLeaseExpiry s = .next out) : Keeps s out := by
  unfold execLeaseExpiry at h
  (try dsimp only [ok] at h)
  (repeat' split at h) <;>
    (injection h with h
     subst h
     first
       | exact Keeps.refl _
       | exact Keeps.of_kept (by simp))

end Sys2Proof.Machine
end

