-- ==== Sys2Proof/Laws/Exec/PowerFamily.lean ====
section
/-! SUPPORT. Each command of PowerFamily.lean leaves the queue and burnt fuses and makes no code illegal. -/
namespace Sys2Proof.Machine

theorem execSupplyWarningCrossing_keeps (cycle : Cycle) (mv : BitVec 16) (s out : State) (h : execSupplyWarningCrossing cycle mv s = .next out) : Keeps s out := by
  unfold execSupplyWarningCrossing at h
  (try dsimp only [ok] at h)
  (repeat' split at h) <;>
    (injection h with h
     subst h
     first
       | exact Keeps.refl _
       | exact Keeps.of_kept (by simp))

theorem execSsHoldEnter_keeps (s out : State) (h : execSsHoldEnter s = .next out) : Keeps s out := by
  unfold execSsHoldEnter at h
  (try dsimp only [ok] at h)
  (repeat' split at h) <;>
    (injection h with h
     subst h
     first
       | exact Keeps.refl _
       | exact Keeps.of_kept (by simp))

theorem execCautionRecoveryDeclaration_keeps (s out : State) (h : execCautionRecoveryDeclaration s = .next out) : Keeps s out := by
  unfold execCautionRecoveryDeclaration at h
  (try dsimp only [ok] at h)
  (repeat' split at h) <;>
    (injection h with h
     subst h
     first
       | exact Keeps.refl _
       | exact Keeps.of_kept (by simp))

theorem execNvmSupplyLow_keeps (s out : State) (h : execNvmSupplyLow s = .next out) : Keeps s out := by
  unfold execNvmSupplyLow at h
  (try dsimp only [ok] at h)
  (repeat' split at h) <;>
    (injection h with h; subst h; exact Keeps.of_kept (by simp))

theorem execRegulatorTargetUpdate_keeps (st : Fin 8) (fmon : Nat) (s out : State) (h : execRegulatorTargetUpdate st fmon s = .next out) : Keeps s out := by
  unfold execRegulatorTargetUpdate at h
  (try dsimp only [ok] at h)
  (repeat' split at h) <;>
    (injection h with h
     subst h
     first
       | exact Keeps.refl _
       | exact Keeps.of_kept (by simp))

theorem execTemperatureSample_keeps (temps : Vector Int 8) (s out : State) (h : execTemperatureSample temps s = .next out) : Keeps s out := by
  unfold execTemperatureSample at h
  dsimp only at h
  split at h
  · injection h with h; subst h; exact Keeps.refl _
  · split at h
    · injection h with h; subst h
      refine Keeps.of_kept ?_
      rw [tamperAlarm_kept]
      split <;> simp
    · injection h with h; subst h
      refine Keeps.of_kept ?_
      split <;> simp

theorem execAgingMeasurement_keeps (shift : Vector Nat 8) (s out : State) (h : execAgingMeasurement shift s = .next out) : Keeps s out := by
  unfold execAgingMeasurement at h
  (try dsimp only [ok] at h)
  (repeat' split at h) <;>
    (injection h with h
     subst h
     first
       | exact Keeps.refl _
       | exact Keeps.of_kept (by simp))

theorem execMinClr_keeps (ident : Ident) (v : BitVec 32) (s out : State) (h : execMinClr ident v s = .next out) : Keeps s out := by
  unfold execMinClr at h
  (try dsimp only [ok] at h)
  (repeat' split at h) <;>
    (injection h with h
     subst h
     first
       | exact Keeps.of_kept (by simp)
       | exact Keeps.of_fixed (mgmtWrite_fixed _ _ _ _ (by simp)))

theorem execTmaxClr_keeps (ident : Ident) (v : BitVec 32) (s out : State) (h : execTmaxClr ident v s = .next out) : Keeps s out := by
  unfold execTmaxClr at h
  (try dsimp only [ok] at h)
  (repeat' split at h) <;>
    (injection h with h
     subst h
     first
       | exact Keeps.of_kept (by simp)
       | exact Keeps.of_fixed (mgmtWrite_fixed _ _ _ _ (by simp)))

end Sys2Proof.Machine
end

