-- ==== Sys2Proof/Laws/Exec/RegisterFamily.lean ====
section
/-! SUPPORT. Each command of RegisterFamily.lean leaves the queue and burnt fuses and makes no code illegal. -/
namespace Sys2Proof.Machine

theorem execRegisterWrite_keeps (ident : Ident) (a : BitVec 24) (w : Width) (v : BitVec 64) (cyc : Cycle) (pass : Bool) (s out : State) (h : execRegisterWrite ident a w v cyc pass s = .next out) : Keeps s out := by
  unfold execRegisterWrite at h
  injection h with h; subst h; exact Keeps.of_kept (portWrite_kept _ _ _ _ _ _ _)

theorem execRegisterRead_keeps (ident : Ident) (a : BitVec 24) (w : Width) (s out : State) (h : execRegisterRead ident a w s = .next out) : Keeps s out := by
  unfold execRegisterRead at h
  injection h with h; subst h; exact Keeps.of_kept (portRead_kept _ _ _ _)

end Sys2Proof.Machine
end

