-- ==== Sys2Proof/Laws/Exec/RingFamily.lean ====
section
/-! SUPPORT. Each command of RingFamily.lean leaves the queue and burnt fuses and makes no code illegal. -/
namespace Sys2Proof.Machine

theorem execRingEnable_keeps (ident : Ident) (t : Tenant) (k : RingNo) (v : BitVec 32) (s out : State) (h : execRingEnable ident t k v s = .next out) : Keeps s out := by
  unfold execRingEnable at h
  (try dsimp only [ok] at h)
  (repeat' split at h) <;>
    (injection h with h
     subst h
     first
       | exact Keeps.of_kept (by simp)
       | exact Keeps.of_fixed (pageWrite_fixed _ _ _ _ _ (by simp)))

theorem execRingDisable_keeps (ident : Ident) (t : Tenant) (k : RingNo) (v : BitVec 32) (s out : State) (h : execRingDisable ident t k v s = .next out) : Keeps s out := by
  unfold execRingDisable at h
  (try dsimp only [ok] at h)
  (repeat' split at h) <;>
    (injection h with h
     subst h
     first
       | exact Keeps.of_kept (by simp)
       | exact Keeps.of_fixed (pageWrite_fixed _ _ _ _ _ (by simp)))

theorem execDoorbell_keeps (ident : Ident) (t : Tenant) (k : RingNo) (v : BitVec 32) (s out : State) (h : execDoorbell ident t k v s = .next out) : Keeps s out := by
  unfold execDoorbell at h
  (try dsimp only [ok] at h)
  (repeat' split at h) <;>
    (injection h with h
     subst h
     first
       | exact Keeps.of_kept (by simp)
       | exact Keeps.of_fixed (pageWrite_fixed _ _ _ _ _ (by simp)))

theorem execCompletionHeadWrite_keeps (ident : Ident) (t : Tenant) (k : RingNo) (v : BitVec 32) (s out : State) (h : execCompletionHeadWrite ident t k v s = .next out) : Keeps s out := by
  unfold execCompletionHeadWrite at h
  (try dsimp only [ok] at h)
  (repeat' split at h) <;>
    (injection h with h
     subst h
     first
       | exact Keeps.of_kept (by simp)
       | exact Keeps.of_fixed (pageWrite_fixed _ _ _ _ _ (by simp)))

theorem execFifoData_keeps (ident : Ident) (t : Tenant) (v : BitVec 64) (s out : State) (h : execFifoData ident t v s = .next out) : Keeps s out := by
  unfold execFifoData at h
  (try dsimp only [ok] at h)
  (repeat' split at h) <;>
    (injection h with h
     subst h
     first
       | exact Keeps.of_kept (by simp)
       | exact Keeps.of_fixed (gateWrite_fixed _ _ _ _ _ _ (by simp)))

theorem execFifoLast_keeps (ident : Ident) (t : Tenant) (n : Fin 8) (v : BitVec 64) (s out : State) (h : execFifoLast ident t n v s = .next out) : Keeps s out := by
  unfold execFifoLast at h
  (try dsimp only [ok] at h)
  (repeat' split at h) <;>
    (injection h with h
     subst h
     first
       | exact Keeps.of_kept (by simp)
       | exact Keeps.of_fixed (gateWrite_fixed _ _ _ _ _ _ (by simp)))

theorem execFlush_keeps (ident : Ident) (t : Tenant) (v : BitVec 32) (s out : State) (h : execFlush ident t v s = .next out) : Keeps s out := by
  unfold execFlush at h
  (try dsimp only [ok] at h)
  (repeat' split at h) <;>
    (injection h with h
     subst h
     first
       | exact Keeps.of_kept (by simp)
       | exact Keeps.of_fixed (pageWrite_fixed _ _ _ _ _ (by simp)))

theorem execAbort_keeps (ident : Ident) (t : Tenant) (v : BitVec 32) (cyc : Cycle) (s out : State) (h : execAbort ident t v cyc s = .next out) : Keeps s out := by
  unfold execAbort at h
  (try dsimp only [ok] at h)
  (repeat' split at h) <;>
    (injection h with h
     subst h
     first
       | exact Keeps.of_kept (by simp)
       | exact Keeps.of_fixed (pageWrite_fixed _ _ _ _ _ (by simp)))

theorem execAuditSnap_keeps (ident : Ident) (t : Tenant) (v : BitVec 32) (s out : State) (h : execAuditSnap ident t v s = .next out) : Keeps s out := by
  unfold execAuditSnap at h
  (try dsimp only [ok] at h)
  (repeat' split at h) <;>
    (injection h with h
     subst h
     first
       | exact Keeps.of_kept (by simp)
       | exact Keeps.of_fixed (pageWrite_fixed _ _ _ _ _ (by simp)))

theorem execAuditExtend_keeps (t : Tenant) (s out : State) (h : execAuditExtend t s = .next out) : Keeps s out := by
  unfold execAuditExtend at h
  (try dsimp only [ok] at h)
  (repeat' split at h) <;>
    (injection h with h
     subst h
     first
       | exact Keeps.refl _
       | exact Keeps.of_kept (by simp))

theorem execCoalesceTimerExpiry_keeps (t : Tenant) (k : RingNo) (s out : State) (h : execCoalesceTimerExpiry t k s = .next out) : Keeps s out := by
  unfold execCoalesceTimerExpiry at h
  (try dsimp only [ok] at h)
  (repeat' split at h) <;>
    (injection h with h
     subst h
     first
       | exact Keeps.refl _
       | exact Keeps.of_kept (by simp))

end Sys2Proof.Machine
end

