-- ==== Sys2Proof/Laws/Exec/StartFamily.lean ====
section
/-! SUPPORT. Each command of StartFamily.lean leaves the queue and burnt fuses and makes no code illegal. -/
namespace Sys2Proof.Machine

theorem execAonPowerUp_keeps (s out : State) (h : execAonPowerUp s = .next out) : Keeps s out := by
  unfold execAonPowerUp at h
  (try dsimp only [ok] at h)
  (repeat' split at h) <;>
    (injection h with h
     subst h
     first
       | exact Keeps.refl _
       | exact Keeps.of_kept (by simp))

theorem execMainResetRelease_keeps (nvm : Option (Fin 8)) (s out : State) (h : execMainResetRelease nvm s = .next out) : Keeps s out := by
  unfold execMainResetRelease at h
  (repeat' split at h) <;> (injection h with h; subst h; first | exact Keeps.refl _ | exact Keeps.of_kept (by simp) | exact keeps_release _ _)

theorem execImageRead_keeps (good : Bool) (s out : State) (h : execImageRead good s = .next out) : Keeps s out := by
  unfold execImageRead at h
  (repeat' split at h) <;> (injection h with h; subst h; first | exact Keeps.refl _ | exact Keeps.of_kept (by simp) | exact keeps_readImage _ _)

theorem execSignatureAndPatchCheck_keeps (s out : State) (h : execSignatureAndPatchCheck s = .next out) : Keeps s out := by
  unfold execSignatureAndPatchCheck at h
  (repeat' split at h) <;> (injection h with h; subst h; first | exact Keeps.refl _ | exact Keeps.of_kept (by simp) | exact keeps_checkImage _)

theorem execRootAndResidentKeyLoad_keeps (s out : State) (h : execRootAndResidentKeyLoad s = .next out) : Keeps s out := by
  unfold execRootAndResidentKeyLoad at h
  (repeat' split at h) <;> (injection h with h; subst h; first
    | exact Keeps.refl _
    | exact (keeps_loadRoot s).trans (keeps_updCfg _ _ (fun _ => Nat.le_of_ble_eq_true rfl) (fun g => g)))

theorem execKnownAnswerTests_keeps (failed : List (Fin 64 × Fin 16)) (s out : State) (h : execKnownAnswerTests failed s = .next out) : Keeps s out := by
  unfold execKnownAnswerTests at h
  (repeat' split at h) <;> (injection h with h; subst h; first | exact keeps_runTests _ _ | exact Keeps.refl _)

theorem execRingsOpen_keeps (s out : State) (h : execRingsOpen s = .next out) : Keeps s out := by
  unfold execRingsOpen ok at h
  rw [← apply_ite (f := Host.Outcome.next)] at h
  rw [← Host.Outcome.next.inj h]
  split
  · exact keeps_openRings s
  · exact Keeps.refl s

theorem execMainDomainReset_keeps (scrap : Bool) (s out : State) (h : execMainDomainReset scrap s = .next out) : Keeps s out := by
  unfold execMainDomainReset at h
  (repeat' split at h) <;> (injection h with h; subst h; first
    | exact Keeps.refl _ | exact keeps_resetScrap _ | exact keeps_resetMain _)

theorem execVddCoreResetCrossing_keeps (s out : State) (h : execVddCoreResetCrossing s = .next out) : Keeps s out := by
  unfold execVddCoreResetCrossing at h
  injection h with h; subst h
  exact (keeps_resetMain s).then_kept (by simp)

theorem execMainPowerReturn_keeps (s out : State) (h : execMainPowerReturn s = .next out) : Keeps s out := by
  unfold execMainPowerReturn at h
  (try dsimp only [ok] at h)
  (repeat' split at h) <;>
    (injection h with h; subst h; exact Keeps.of_kept (by simp))

theorem execAlwaysOnReset_keeps (s out : State) (h : execAlwaysOnReset s = .next out) : Keeps s out := by
  unfold execAlwaysOnReset at h
  (try dsimp only [ok] at h)
  (repeat' split at h) <;>
    (injection h with h
     subst h
     first
       | exact Keeps.refl _
       | exact Keeps.of_kept (by simp))

theorem keeps_if {p : Prop} [Decidable p] {u : State} {f : State → State} (h : Keeps u (f u)) : Keeps u (if p then f u else u) := by
  split
  · exact h
  · exact Keeps.refl u

theorem execNvmSupplyRestored_keeps (s out : State) (h : execNvmSupplyRestored s = .next out) : Keeps s out := by
  unfold execNvmSupplyRestored at h
  dsimp only [ok] at h
  have h1 : Keeps s (s.updPwr fun p => { p with nvmLow := false }) := Keeps.of_fixed rfl
  generalize (s.updPwr fun p => { p with nvmLow := false }) = u at h h1
  have h2 := h1.trans (keeps_if (p := u.cfg.ptrWaits = true) (f := restorePointer) (keeps_restorePointer u))
  generalize (if u.cfg.ptrWaits = true then restorePointer u else u) = v at h h2
  have h3 : Keeps v (verifyLog (v.updCfg fun c => { c with logWaits := false })) :=
    (keeps_updCfg _ _ (fun g => g) (fun g => g)).then_kept (by rw [verifyLog_fixed])
  have h4 := h2.trans (keeps_if (p := v.cfg.logWaits = true)
    (f := fun x => verifyLog (x.updCfg fun c => { c with logWaits := false })) h3)
  generalize (if v.cfg.logWaits = true then verifyLog (v.updCfg fun c => { c with logWaits := false }) else v) = w at h h4
  split at h
  · injection h with h; subst h; exact h4.then_kept (by simp)
  · injection h with h; subst h; exact h4

end Sys2Proof.Machine
end

