-- ==== Sys2Proof/Laws/Exec/StationFamily.lean ====
section
/-! SUPPORT. Each command of StationFamily.lean leaves the queue and burnt fuses and makes no code illegal. -/
namespace Sys2Proof.Machine

theorem execTickBoundary_keeps (s out : State) (h : execTickBoundary s = .next out) : Keeps s out := by
  unfold execTickBoundary at h
  split at h
  · injection h with h; subst h; exact Keeps.refl _
  · injection h with h; subst h; exact (keeps_tickBoundary s).then_kept (by simp)

theorem execSlotStart_keeps (bad : List (Nat × Nat)) (s out : State) (h : execSlotStart bad s = .next out) : Keeps s out := by
  unfold execSlotStart at h
  injection h with h; subst h; exact keeps_slotStart _ _

theorem execKeyBusTransfer_keeps (slot : Fin 8) (dest : Fin 6) (s out : State) (h : execKeyBusTransfer slot dest s = .next out) : Keeps s out := by
  unfold execKeyBusTransfer at h
  (try dsimp only [ok] at h)
  (repeat' split at h) <;>
    (injection h with h
     subst h
     first
       | exact Keeps.refl _
       | exact Keeps.of_kept (by simp))

theorem execChainAdmission_keeps (cycle : Cycle) (s out : State) (h : execChainAdmission cycle s = .next out) : Keeps s out := by
  unfold execChainAdmission at h
  (try dsimp only [ok] at h)
  (repeat' split at h) <;>
    (injection h with h
     subst h
     first
       | exact Keeps.refl _
       | exact Keeps.of_kept (by simp))

theorem execCompletionWrite_keeps (s out : State) (h : execCompletionWrite s = .next out) : Keeps s out := by
  unfold execCompletionWrite at h
  (try dsimp only [ok] at h)
  (repeat' split at h) <;>
    (injection h with h
     subst h
     first
       | exact Keeps.refl _
       | exact Keeps.of_kept (by simp))

theorem execAbortStop_keeps (rid : Nat) (s out : State) (h : execAbortStop rid s = .next out) : Keeps s out := by
  unfold execAbortStop at h
  (try dsimp only [ok] at h)
  (repeat' split at h) <;>
    (injection h with h
     subst h
     first
       | exact Keeps.refl _
       | exact Keeps.of_kept (by simp))

theorem execStepWaitTimeout_keeps (rid : Nat) (s out : State) (h : execStepWaitTimeout rid s = .next out) : Keeps s out := by
  unfold execStepWaitTimeout at h
  (try dsimp only [ok] at h)
  (repeat' split at h) <;>
    (injection h with h
     subst h
     first
       | exact Keeps.refl _
       | exact Keeps.of_kept (by simp))

theorem execValidationTick_keeps (rid : Nat) (s out : State) (h : execValidationTick rid s = .next out) : Keeps s out := by
  unfold execValidationTick at h
  (try dsimp only [ok] at h)
  (repeat' split at h) <;>
    (injection h with h
     subst h
     first
       | exact Keeps.refl _
       | exact Keeps.of_kept (by simp))

theorem execHoldRelease_keeps (rid : Nat) (s out : State) (h : execHoldRelease rid s = .next out) : Keeps s out := by
  unfold execHoldRelease at h
  (try dsimp only [ok] at h)
  (repeat' split at h) <;>
    (injection h with h
     subst h
     first
       | exact Keeps.refl _
       | exact Keeps.of_kept (by simp))

theorem execRsaCrtCheck_keeps (rid : Nat) (s out : State) (h : execRsaCrtCheck rid s = .next out) : Keeps s out := by
  unfold execRsaCrtCheck at h
  (try dsimp only [ok] at h)
  (repeat' split at h) <;>
    (injection h with h
     subst h
     first
       | exact Keeps.refl _
       | exact Keeps.of_kept (by simp))

theorem execSsResultRelease_keeps (rid : Nat) (s out : State) (h : execSsResultRelease rid s = .next out) : Keeps s out := by
  unfold execSsResultRelease at h
  (try dsimp only [ok] at h)
  (repeat' split at h) <;>
    (injection h with h
     subst h
     first
       | exact Keeps.refl _
       | exact Keeps.of_kept (by simp))

theorem execHoldPeakClr_keeps (ident : Ident) (n : Fin 2) (v : BitVec 32) (s out : State) (h : execHoldPeakClr ident n v s = .next out) : Keeps s out := by
  unfold execHoldPeakClr at h
  (try dsimp only [ok] at h)
  (repeat' split at h) <;>
    (injection h with h
     subst h
     first
       | exact Keeps.of_kept (by simp)
       | exact Keeps.of_fixed (mgmtWrite_fixed _ _ _ _ (by simp)))

theorem execVsMemPeakClr_keeps (ident : Ident) (v : BitVec 32) (s out : State) (h : execVsMemPeakClr ident v s = .next out) : Keeps s out := by
  unfold execVsMemPeakClr at h
  (try dsimp only [ok] at h)
  (repeat' split at h) <;>
    (injection h with h
     subst h
     first
       | exact Keeps.of_kept (by simp)
       | exact Keeps.of_fixed (mgmtWrite_fixed _ _ _ _ (by simp)))

theorem execSsMemPeakClr_keeps (ident : Ident) (v : BitVec 32) (s out : State) (h : execSsMemPeakClr ident v s = .next out) : Keeps s out := by
  unfold execSsMemPeakClr at h
  (try dsimp only [ok] at h)
  (repeat' split at h) <;>
    (injection h with h
     subst h
     first
       | exact Keeps.of_kept (by simp)
       | exact Keeps.of_fixed (mgmtWrite_fixed _ _ _ _ (by simp)))

theorem execPlatformCountClear_keeps (ident : Ident) (v : BitVec 32) (s out : State) (h : execPlatformCountClear ident v s = .next out) : Keeps s out := by
  unfold execPlatformCountClear at h
  (try dsimp only [ok] at h)
  (repeat' split at h) <;>
    (injection h with h
     subst h
     first
       | exact Keeps.of_kept (by simp)
       | exact Keeps.of_fixed (mgmtWrite_fixed _ _ _ _ (by simp)))

end Sys2Proof.Machine
end

