-- ==== Sys2Proof/Laws/Exec/TamperFamily.lean ====
section
/-! SUPPORT. Each command of TamperFamily.lean leaves the queue and burnt fuses and makes no code illegal. -/
namespace Sys2Proof.Machine

theorem atSample_fixed (s : State) : (atSample s).fixed = s.fixed := by
  unfold atSample
  split
  · rfl
  · simp

theorem execTamperAlarm_keeps (src : BitVec 8) (rail : Bool) (detail : BitVec 32) (s out : State) (h : execTamperAlarm src rail detail s = .next out) : Keeps s out := by
  unfold execTamperAlarm at h
  dsimp only [ok] at h
  split at h
  · injection h with h; subst h; exact Keeps.refl _
  · injection h with h; subst h
    refine (Keeps.of_fixed (atSample_fixed s)).then_kept ?_
    split <;> simp

theorem execTamperSourceRearm_keeps (src : BitVec 8) (s out : State) (h : execTamperSourceRearm src s = .next out) : Keeps s out := by
  unfold execTamperSourceRearm at h
  (try dsimp only [ok] at h)
  (repeat' split at h) <;>
    (injection h with h
     subst h
     first
       | exact Keeps.refl _
       | exact Keeps.of_kept (by simp))

theorem execBackupWindowOpen_keeps (s out : State) (h : execBackupWindowOpen s = .next out) : Keeps s out := by
  unfold execBackupWindowOpen at h
  (try dsimp only [ok] at h)
  (repeat' split at h) <;>
    (injection h with h
     subst h
     first
       | exact Keeps.refl _
       | exact Keeps.of_kept (by simp))

theorem execTamperLogMirror_keeps (verifies : Bool) (s out : State) (h : execTamperLogMirror verifies s = .next out) : Keeps s out := by
  unfold execTamperLogMirror at h
  (try dsimp only [ok] at h)
  (repeat' split at h) <;>
    (injection h with h
     subst h
     first
       | exact Keeps.refl _
       | exact Keeps.of_kept (by simp))

theorem execTamperFirstClear_keeps (ident : Ident) (v : BitVec 64) (s out : State) (h : execTamperFirstClear ident v s = .next out) : Keeps s out := by
  unfold execTamperFirstClear at h
  (try dsimp only [ok] at h)
  (repeat' split at h) <;>
    (injection h with h
     subst h
     first
       | exact Keeps.of_kept (by simp)
       | exact Keeps.of_fixed (mgmtWrite_fixed _ _ _ _ (by simp)))

end Sys2Proof.Machine
end

