-- ==== Sys2Proof/Laws/Exec/TenantFamily.lean ====
section
/-! SUPPORT. Each command of TenantFamily.lean leaves the queue and burnt fuses and makes no code illegal. -/
namespace Sys2Proof.Machine

theorem execTenantReset_keeps (ident : Ident) (own : Option Tenant) (v : BitVec 32) (cyc : Cycle) (s out : State) (h : execTenantReset ident own v cyc s = .next out) : Keeps s out := by
  unfold execTenantReset at h
  split at h
  · injection h with h; subst h
    exact Keeps.of_kept (gateWrite_kept _ _ _ _ _ _ (by simp))
  · injection h with h; subst h
    exact Keeps.of_kept (gateWrite_kept _ _ _ _ _ _ (by simp))

theorem execTenantResetDone_keeps (t : Tenant) (s out : State) (h : execTenantResetDone t s = .next out) : Keeps s out := by
  unfold execTenantResetDone at h
  (try dsimp only [ok] at h)
  (repeat' split at h) <;>
    (injection h with h
     subst h
     first
       | exact Keeps.refl _
       | exact Keeps.of_kept (by simp))

end Sys2Proof.Machine
end

