-- ==== Sys2Proof/Laws/Fixed/RegisterOps.lean ====
section
/-! SUPPORT. What the operations of RegisterOps.lean leave of `State.fixed`. -/
namespace Sys2Proof.Machine

end Sys2Proof.Machine
end

