-- ==== Sys2Proof/Laws/Gate.lean ====
section
/-! SUPPORT. What a register write does where the port lets it through, and what a request does where nothing refuses it. -/
namespace Sys2Proof.Machine

theorem portOpen_shut {s : State} (h : s.portOpen) : (!s.mainUp || portShut s) = false := by
  obtain ⟨h1, h2, h3⟩ := h
  have : ¬ s.cfg.stage.toNat < 4 := by omega
  simp [h1, portShut, h2, this]

/-- A write of the lock holder reaches a register of the management page. -/
theorem mgmtWrite_go {s : State} {i : Ident} (h : s.mayManage i) (off : Nat) (eff : State → State) :
    mgmtWrite i off eff s = (eff s).respond 0 := by
  obtain ⟨ho, hr, hh, hs, hi⟩ := h
  simp [mgmtWrite, gateWrite, verdict, portOpen_shut ho, permitted, hr, isHolder, hh, hs, hi]

/-- A write of the lock holder reaches a register of the Supervisor page. -/
theorem supWrite_go {s : State} {i : Ident} (h : s.mayManage i) (off : Nat) (eff : State → State) :
    supWrite i off eff s = (eff s).respond 0 := by
  obtain ⟨ho, hr, hh, hs, hi⟩ := h
  simp [supWrite, gateWrite, verdict, portOpen_shut ho, permitted, hr, isHolder, hh, hs, hi]

/-- Part of a tenant page that an offset of the page lies in. -/
def subOf (o : Nat) : Sub :=
  if o < 0x300 ∨ (0x400 ≤ o ∧ o < 0x500) then Sub.user
  else if o < 0x600 then Sub.officer
  else if o < 0x700 then Sub.shared else Sub.other

theorem regionOf_page (t : Tenant) (o : Nat) (h : o < 0x1000) : regionOf (pageOff t o) = .page t (subOf o) := by
  have ht := t.isLt
  have h1 : ¬ pageOff t o < 0x10000 := by unfold pageOff; omega
  have h2 : ¬ pageOff t o < 0x20000 := by unfold pageOff; omega
  have h3 : 0x100000 ≤ pageOff t o ∧ pageOff t o < 0x140000 := by unfold pageOff; omega
  have h4 : pageOff t o % 0x1000 = o := by unfold pageOff; omega
  have h5 : tenantFin ((pageOff t o - 0x100000) / 0x1000) = t := by
    apply Fin.ext
    show (pageOff t o - 0x100000) / 0x1000 % 64 = t.val
    unfold pageOff; omega
  unfold regionOf
  rw [if_neg h1, if_neg h2, if_pos h3]
  simp only [h4, h5, subOf]

/-- A write of the tenant reaches a register of its page. -/
theorem pageWrite_go {s : State} {i : Ident} {t : Tenant} {officer : Bool} (h : s.mayWrite i t officer) (o : Nat)
    (eff : State → State) (ho : o < 0x600) (hu : officer = false → subOf o = .user) :
    pageWrite i t o eff s = (eff s).respond 0 := by
  obtain ⟨hp, ht, hr, hb⟩ := h
  have hper : permitted s i (.page t (subOf o)) true = true := by
    have hs : subOf o = .user ∨ subOf o = .officer := by
      unfold subOf; (repeat' split) <;> first | exact .inl rfl | exact .inr rfl | omega
    obtain hr | ⟨hr, hf⟩ := hr
    · obtain hs | hs := hs <;> simp [permitted, ht, hr, hs]
    · simp [permitted, ht, hr, hu hf]
  rw [pageWrite, gateWrite, regionOf_page t o (by omega)]
  simp [verdict, portOpen_shut hp, hper, hb]

/-- A write of the tenant reaches its FIFO window. -/
theorem fifoWrite_go {s : State} {i : Ident} {t : Tenant} {officer : Bool} (h : s.mayWrite i t officer) (off : Nat)
    (eff : State → State) : gateWrite i off (.fifo t) false eff s = (eff s).respond 0 := by
  obtain ⟨hp, ht, hr, hb⟩ := h
  have hper : permitted s i (.fifo t) true = true := by
    obtain hr | ⟨hr, _⟩ := hr <;> simp [permitted, ht, hr]
  simp [gateWrite, verdict, portOpen_shut hp, hper, hb]

/-- A request that nothing refuses beforehand is carried out on the state without its message. -/
theorem onRequest_go {s : State} {code : Nat} {m : Msg} (h : s.requestIs code m) (act : Msg → State → State) :
    onRequest code act s = act m (takeMessage m s) := by
  obtain ⟨hn, hc, hb, hy, hr, ho, hh⟩ := h
  have : (m.box.isSome && m.role != 2) = false := by
    cases hbx : m.box.isSome with
    | false => rfl
    | true => simp [ho hbx]
  simp [onRequest, hn, hc, hb, hy, hr, this, hh]

end Sys2Proof.Machine
end

