-- ==== Sys2Proof/Laws/Starts.lean ====
section
/-! SUPPORT. What the stages of a start change of `State.fixed`. -/
namespace Sys2Proof.Machine

theorem updCfg_fixed_eq (s : State) (f : Config → Config) :
    (s.updCfg f).fixed = { s.fixed with stage := (f s.cfg).stage, coState := (f s.cfg).coState } := rfl

theorem updAon_fixed_eq (s : State) (f : Aon → Aon) : (s.updAon f).fixed = { s.fixed with bbk := (f s.aon).bbk } := rfl

/-- The marker is read: only fuses are burnt (14 R530). -/
theorem readMarker_fixed_eq (s : State) : (readMarker s).fixed = { s.fixed with otp := (readMarker s).otp } := by
  unfold readMarker burnCellLoss
  dsimp only
  (repeat' split) <;> rfl

/-- A reroot: the key is the one drawn (09 R405). -/
theorem reroot_fixed_eq (s : State) : (reroot s).fixed = { s.fixed with bbk := some (drawnBytes s.drawn 32) } := by
  unfold reroot
  dsimp only
  rw [State.updKs_fixed, loadResidents_fixed, loadSystem_fixed, State.updKs_fixed, State.updNvm_fixed, updAon_fixed_eq]
  simp

theorem submitCurve_cfg (s : State) (r : Bytes) : (submitCurve s r).cfg = s.cfg := by
  unfold submitCurve
  dsimp only
  split <;> rfl

theorem foldl_cfg {α : Type} (f : State → α → State) (h : ∀ s x, (f s x).cfg = s.cfg) (l : List α) (s : State) :
    (l.foldl f s).cfg = s.cfg := by
  induction l generalizing s with
  | nil => rfl
  | cons x l ih => rw [List.foldl_cons, ih, h]

theorem submitImageCurves_cfg (s : State) : (submitImageCurves s).cfg = s.cfg := foldl_cfg _ submitCurve_cfg _ _

theorem loadRoot_fixed_eq (s : State) :
    (loadRoot s).fixed = { s.fixed with otp := (loadRoot s).otp, bbk := (loadRoot s).aon.bbk } := by
  have h : (noteIndex (loadRoots (readMarker (rollJournal (s.updNvm takePointer))))).fixed =
      { s.fixed with otp := (readMarker (rollJournal (s.updNvm takePointer))).otp } := by
    rw [noteIndex_fixed, loadRoots_fixed, readMarker_fixed_eq, rollJournal_fixed, State.updNvm_fixed]
  have key : ∃ o b, (loadRoot s).fixed = { s.fixed with otp := o, bbk := b } := by
    unfold loadRoot
    dsimp only
    generalize noteIndex _ = u at h ⊢
    rw [ite_fixed, resumeRotation_fixed, ite_self, writeEpoch_fixed, startCounters_fixed]
    split
    · exact ⟨_, _, by rw [reroot_fixed_eq, h]⟩
    · rw [ite_fixed, loadResidents_fixed, ite_self]
      exact ⟨_, _, by rw [h]⟩
  obtain ⟨o, b, hk⟩ := key
  have ho : (loadRoot s).otp = o := congrArg Fixed.otp hk
  have hb : (loadRoot s).aon.bbk = b := congrArg Fixed.bbk hk
  rw [hk, ho, hb]

end Sys2Proof.Machine
end

