-- ==== Sys2Proof/WellFormed.lean ====
section
/-! DEFINITION. Which commands can come about: the operands that the spec admits beyond their types. -/
namespace Sys2Proof

/-- Codes of the tamper sources that alarm (14 Table 14-1). -/
def tamperSources : List (BitVec 8) :=
  [0x01, 0x02, 0x03, 0x04, 0x05, 0x06, 0x10, 0x11, 0x12, 0x13, 0x14, 0x15, 0x16, 0x17, 0x18]

/-- Whether a command is well formed. Where no condition stands, every value of its operands is one that the spec admits. -/
def Instr.wf (i : Instr) : Bool :=
  match i with
  -- 16 Table 16-20
  | .mainResetRelease nvm => nvm.all fun n => decide (n.val ≤ 4)
  -- 13 Table 13-12
  | .temperatureSample temps => temps.toList.all fun t => decide (-1024 ≤ t ∧ t < 1024)
  -- 14 Table 14-1
  | .tamperAlarm src rail _ => tamperSources.contains src && (!rail || decide (src.toNat ≤ 6))
  -- 14 Table 14-1
  | .tamperSourceRearm src => tamperSources.contains src
  -- 03 R129
  | .descriptorDataLanded _ _ data _ _ => data.length == 64
  -- 08 R333
  | .readBurstReturn _ _ data err _ => err || decide (0 < data.length ∧ data.length ≤ 512)
  -- 12 R475
  | .plannedShunt _ lane siding => lane != siding
  -- 10 Table 10-10
  | .sourceHealthFailure _ cause => decide (1 ≤ cause.toNat ∧ cause.toNat ≤ 4)
  -- 15 R560
  | .debugPass payload => payload.length == 256
  -- 01 Table 01-2
  | .scrub _ word _ _ => word.length == 19
  -- 06 R285
  | .curveLoad payload => payload.length == 448
  -- 15 R557
  | .authoritySeal payload => payload.length == 97
  | .aonPowerUp | .imageRead .. | .signatureAndPatchCheck | .rootAndResidentKeyLoad | .knownAnswerTests ..
  | .ringsOpen | .mainDomainReset .. | .vddCoreResetCrossing | .supplyWarningCrossing .. | .ssHoldEnter
  | .cautionRecoveryDeclaration | .nvmSupplyLow | .regulatorTargetUpdate .. | .agingMeasurement ..
  | .backupWindowOpen | .tamperLogMirror .. | .tickBoundary | .chainAdmission .. | .validationTick ..
  | .slotStart .. | .keyBusTransfer .. | .ivMarkWrite .. | .missDerivation .. | .freightKeyLoad ..
  | .holdRelease .. | .rsaCrtCheck .. | .ssResultRelease .. | .stepWaitTimeout .. | .abortStop ..
  | .completionWrite | .coalesceTimerExpiry .. | .auditExtend .. | .writeResponse .. | .burstTimeout ..
  | .faultReport .. | .sidingTakeover .. | .contingencySwitch | .escalationExpiry .. | .faultAck ..
  | .stationRestart .. | .stationRejoin .. | .lockdown | .dumpWrite .. | .lockstepMismatch ..
  | .controlProcessorResume .. | .checkerProof .. | .faultInjection .. | .firstErrorClear ..
  | .faultRecordTake | .sourceRejoin .. | .sourceRetestTimer .. | .retest .. | .conditionedBlock ..
  | .drbgInstantiate | .drbgReseed | .drbgGenerate .. | .ringEnable .. | .ringDisable .. | .doorbell ..
  | .completionHeadWrite .. | .fifoData .. | .fifoLast .. | .flush .. | .abort .. | .auditSnap ..
  | .platformCountClear .. | .holdPeakClr .. | .vsMemPeakClr .. | .ssMemPeakClr .. | .lowClr .. | .minClr ..
  | .tmaxClr .. | .tamperFirstClear .. | .start .. | .component .. | .finish .. | .cancel .. | .invalidate ..
  | .keCompareResult .. | .keSessionTimeout .. | .keyStoreCommit .. | .send .. | .ack .. | .mailboxDelivery
  | .unknownRequestCode | .tenantWaybill | .debugChallenge | .curveLoadComplete .. | .curveUnload
  | .curveRetired .. | .storageKeyRotation | .rotationBlockCopy .. | .pointerFlip .. | .reroot | .blockWaybill
  | .waybillSigned .. | .lifeCycleTransition | .otpProgramComplete .. | .configurationAmendment
  | .amendmentImageLoaded .. | .configInstall .. | .firmwareHandover | .dumpRetrieval .. | .cutoverArmCheck
  | .cutoverSwitch | .handoverHalt .. | .handoverResume .. | .tenantReset .. | .tenantResetDone ..
  | .lockAcquire .. | .lockRelease .. | .processorLockRequest .. | .leaseExpiry | .dbgHalt .. | .dbgStep ..
  | .dbgResume .. | .dbgRead .. | .dbgWrite .. | .bist .. | .registerWrite .. | .mainPowerReturn
  | .alwaysOnReset | .nvmSupplyRestored | .registerRead .. | .amendmentPrepared .. | .inactiveBankReload ..
  | .cacheSlotReload .. => true

end Sys2Proof
end

