-- ==== Sys2Proof/Tests/Slice0.lean ====
section
/-! SUPPORT. Tests: ill-formed commands are refused, worked values of the spec, and a state for every case of every statement. -/
namespace Sys2Proof.Tests
open Sys2Proof.Machine

/-! ### Ill-formed commands -/

/-- A density code above 4 is none of 16 Table 16-20. -/
theorem test_wf_mainResetRelease : Instr.wf (.mainResetRelease (some 5)) = false ∧ Instr.wf (.mainResetRelease (some 4)) = true := by
  decide
theorem test_wf_temperatureSample : Instr.wf (.temperatureSample (Vector.replicate 8 1024)) = false := by decide
theorem test_wf_tamperAlarm : Instr.wf (.tamperAlarm 7 false 0) = false ∧ Instr.wf (.tamperAlarm 0x10 true 0) = false := by decide
theorem test_wf_tamperSourceRearm : Instr.wf (.tamperSourceRearm 0) = false := by decide
theorem test_wf_descriptorDataLanded : Instr.wf (.descriptorDataLanded 0 0 [] 0 0) = false := by decide
theorem test_wf_readBurstReturn : Instr.wf (.readBurstReturn 0 0 [] false ⟨0, 0⟩) = false := by decide
theorem test_wf_plannedShunt : Instr.wf (.plannedShunt 0 1 1) = false := by decide
theorem test_wf_sourceHealthFailure : Instr.wf (.sourceHealthFailure 0 5) = false := by decide
theorem test_wf_debugPass : Instr.wf (.debugPass []) = false := by decide
theorem test_wf_scrub : Instr.wf (.scrub 0 [] 0 .nobody) = false := by decide
theorem test_wf_curveLoad : Instr.wf (.curveLoad []) = false := by decide
theorem test_wf_authoritySeal : Instr.wf (.authoritySeal []) = false := by decide

/-! ### States for the cases of the statements -/

/-- An image that makes identity 1 a HOST_ADMIN, 2 the OFFICER and 3 a USER of tenant 0, who may reach all memory. -/
def img : Image :=
  { Image.reset with
    idmap := [0, 0xC0, 0x80, 0x40], windows := [⟨3, 0xFFFFFFFFFFFFF000⟩], groups := [1, 0],
    templates := [{ Template.reset with alg := 1, first := 0x80000, count := 4, clear := true }],
    nodes := [{ Node.reset with handle := 1, parent := 0xFFFFFFFF }] }
/-- A block in FIELD after its start, with that image. -/
def up : State :=
  { State.reset with
    mainUp := true, lc := { LifeCycle.reset with state := 5 }, aon := { State.reset.aon with up := true, onCell := false },
    cfg := { Config.reset with stage := 7, mapOn := true, bank0 := some img } }
/-- Identity 1 holds the management lock. -/
def held : State := { up with mgmt := { up.mgmt with held := true, holder := 1 } }
/-- The timetable runs. -/
def run : State := { up with tt := { up.tt with started := true, slot := 1 } }
/-- An outbound mailbox with a message. -/
def mail (role : BitVec 8) (b : Bytes) : MboxOut :=
  { MboxOut.reset with data := bytesToWords (fitTo 64 b), full := true, stampRole := role }
/-- A message in the management mailbox, which the Registrar takes next. -/
def ask (b : Bytes) (s : State) : State := { s with mgmt := { s.mgmt with mbo := mail 3 b } }
/-- A message of the OFFICER in the mailbox of tenant 0. -/
def askT (b : Bytes) (s : State) : State :=
  { s with tenants := s.tenants.set 0 { s.tenants[0] with mbo := mail 2 b } }
/-- The message that the Registrar takes next. -/
def front (s : State) : Msg := (nextMessage s).getD ⟨none, 0, 0, 0, [], false⟩
/-- A request of one step. -/
def oneStep (op : Nat) : Request :=
  { Request.reset with rid := 7, descs := [fitTo 64 (leBytes 2 op)], steps := [StepState.reset] }
/-- A state with one request, in tick 9. -/
def busy (r : Request) : State := { run with tick := 9, reqs := [r] }
/-- A page of tenant 0. -/
def paged (f : TenantPage → TenantPage) (s : State) : State := { s with tenants := s.tenants.set 0 (f s.tenants[0]) }

/-! ### A state for every case of every statement -/

theorem test_case_StepRunsFrontCommand :
    ({ up with pending := [.tickBoundary] } : State).pending = .tickBoundary :: [] := rfl
theorem test_case_EmptyQueueIdles : up.pending = [] := rfl
/-- A step of the whole block, for the three statements over every step. -/
theorem test_case_EveryStep : up.codesLegal ∧ ∃ t, step { up with pending := [.nvmSupplyLow] } = .next t ∧ t.pwr.nvmLow = true :=
  ⟨by unfold State.codesLegal; decide, _, rfl, rfl⟩
/-- The always-on rail down, and up on the cell. -/
theorem test_case_AlwaysOnDomainSupplies :
    ({ up with aon := { up.aon with up := false } } : State).aon.up = false ∧
      ({ up with aon := { up.aon with onCell := true } } : State).aon.up = true := by decide
theorem test_case_MainDomainEntersReset : ({ up with lc := { up.lc with state := 7 } } : State).lc.state = lcScrap := by decide
/-- With no fuse burnt no transition pends. -/
def off : State := { up with mainUp := false }
theorem test_case_MainReleaseSensesFuses :
    off.mainUp = false ∧ off.aon.up = true ∧ off.aon.onCell = false ∧ (fuseSense off).2 = none ∧
      fuseSense { off with otp := (off.otp.set 54 (targetCode 5)).set 55 (commitCode 5) } = (5, none) ∧ (4 : Fin 8).val ≤ 4 ∧
      fuseSense { off with otp := off.otp.set 24 (targetCode 2) } = (1, some (2, 0)) ∧
      ({ off with otp := off.otp.set 24 (targetCode 2) } : State).otpRow (slotRow 2 0 + 1) &&& targetCode 2 = 0 ∧ wipes 2 = false ∧
      fuseSense { off with otp := ((off.otp.set 24 (targetCode 2)).set 25 (commitCode 2)).set 34 (targetCode 3) } = (2, some (3, 0)) ∧
      wipes 3 = true := by decide
/-- A block at a stage of its start. -/
def at_ (n : BitVec 4) : State := { up with cfg := { up.cfg with stage := n } }
theorem test_case_StartStagesFollow :
    (at_ 2).cfg.stage = 2 ∧ (at_ 3).cfg.stage = 3 ∧ (at_ 4).cfg.stage = 4 ∧ (at_ 4).pwr.nvmLow = false ∧ (at_ 5).pwr.nvmLow = false ∧
      ({ at_ 4 with pwr := { up.pwr with nvmLow := true } } : State).pwr.nvmLow = true ∧ needsReroot (readMarker (at_ 4)) = false ∧
      rerootReady { at_ 4 with en := { up.en with fill := 65536, state := 1 } } = true ∧ (at_ 5).cfg.stage = 5 ∧ (at_ 5).vs.loads = [] ∧ (at_ 6).cfg.stage = 6 ∧ (at_ 6).pos = 0 ∧ (at_ 6).locked = false :=
  ⟨rfl, rfl, rfl, rfl, rfl, rfl, rfl, by decide, rfl, rfl, rfl, by decide, by decide⟩
/-- A wipe that waits for the supply, at a start that rolls forward and in service. -/
def wiping (start : Bool) : State :=
  { up with lc := { up.lc with phase := 2, burning := 2, wiped := false, seq := if start then none else some 9 },
            cfg := { up.cfg with stage := if start then 0 else 7 } }
theorem test_case_NvmSupplyFollows :
    up.lc.phase ≠ 2 ∧ up.cfg.ptrWaits = false ∧ up.cfg.logWaits = false ∧
      ({ up with cfg := { up.cfg with ptrWaits := true } } : State).cfg.logWaits = false ∧
      ({ up with cfg := { up.cfg with logWaits := true } } : State).cfg.ptrWaits = false ∧ (wiping true).cfg.ptrWaits = false ∧
      (wiping true).cfg.logWaits = false ∧ (wiping true).lc.phase = 2 ∧ (wiping true).lc.burning = 2 ∧ (wiping true).lc.wiped = false ∧
      rollingForward (wiping true) = true ∧ (wiping false).lc.phase = 2 ∧ (wiping false).lc.burning = 2 ∧
      (wiping false).lc.wiped = false ∧ (wiping false).lc.seq = some 9 := by decide
/-- A caution whose recovery count is complete. -/
def low : State := { up with tick := 9, pwr := { up.pwr with caution := true, dclkLow := true, recover := 64, began := 1 } }
theorem test_case_CautionAndRecovery :
    up.mainUp = true ∧ (((0 : BitVec 16).toNat : Nat) : Int) < warnLevel up ∧ up.pwr.dclkLow = false ∧ up.pwr.fast = 320 ∧
      up.pwr.decl ≠ some up.now ∧ low.mainUp = true ∧ (((0 : BitVec 16).toNat : Nat) : Int) < warnLevel low ∧
      low.pwr.dclkLow = true ∧ low.pwr.caution = true ∧ low.pwr.began < low.now ∧ low.ss.hold = false ∧
      64 ≤ low.pwr.recover ∧ railsHold low.pwr = true := by decide
theorem test_case_RailsFollowTargets :
    up.mainUp = true ∧ up.pwr.caution = false ∧ (up.pwr.rails[(0 : Fin 8)]).setTick.all (fun n => n / 4096 ≠ up.now / 4096) = true ∧ procWorks up 1 = true ∧
      (up.pwr.rails[(0 : Fin 8)]).moved = false ∧
      ({ Rail.reset with moved := true } : Rail).moved = true ∧ up.pwr.ageTick.all (fun k => k + 3433228 * 4096 ≤ up.now) = true ∧
      ({ up with pwr := { up.pwr with ageTick := some 0 } } : State).pwr.ageTick.all (fun k => k + 3433228 * 4096 ≤ up.now) = false ∧
      targetSought up 0 0 ≤ 780 ∧ 780 < targetSought up 0 900 ∧ low.pwr.caution = true ∧
      (up.pwr.rails[(0 : Fin 8)]).target ≤ targetSought up 0 0 + 5 ∧ targetSought up 0 0 ≤ (up.pwr.rails[(0 : Fin 8)]).target + 5 := by
  decide
/-- Sensors below, above the warning and above the alarm threshold. -/
theorem test_case_TemperatureSampled :
    up.mainUp = true ∧ (up.pwr.rails[(0 : Fin 8)]).warm = false ∧ 500 + calOffset up 16 > 4 * warnTemp up ∧
      up.pwr.tempTick.all (fun k => k + 64 ≤ up.now) = true ∧ (0 : Int) ≤ 4 * alarmTemp up ∧ 600 > 4 * alarmTemp up ∧ up.aon.up = true ∧ up.aon.onCell = false := by decide
theorem test_case_ExtremesClear : held.mayManage 1 := by decide
/-- A source that is watched, in FIELD and in BLANK, with and without a source before it and a full log. -/
def tamperBlank : State := { up with lc := { up.lc with state := 1 } }
theorem test_case_TamperAlarmResponse :
    tamperSource 0x10 = true ∧ (0x10 : BitVec 8) ∉ up.aon.alarmed ∧ sourceWatched (atSample up) 0x10 = true ∧
      alarmHolds up 0x10 (alarmReading up 0x10 0) = true ∧ alarmHolds up 0x16 (alarmReading up 0x16 2300) = false ∧
      alarmHolds up 0x16 (alarmReading up 0x16 2299) = true ∧ alarmHolds up 0x14 (alarmReading up 0x14 0xF000) = true ∧ up.aon.first.valid = false ∧
      up.aon.pendLog.length < 31 ∧ tamperResponse up 0x10 0 = 3 ∧ tamperResponse tamperBlank 0x10 0 = 1 ∧
      sourceWatched (atSample tamperBlank) 0x10 = true ∧ sourceWatched (atSample up) 0x14 = true ∧ tamperResponse up 0x14 0xF000 = 2 ∧
      ({ up with aon := { up.aon with first := { up.aon.first with valid := true } } } : State).aon.first.valid = true ∧
      31 ≤ ({ up with aon := { up.aon with pendLog := List.replicate 31 [] } } : State).aon.pendLog.length ∧
      sourceWatched (atSample up) 1 = false := by decide
/-- A half of the mirror whose checkpoint verifies, a log entry that waits, and a source in alarm. -/
def half : MirrorHalf := { MirrorHalf.reset with magic := halfMagic, gen := 1 }
def logged : State :=
  { up with aon := { up.aon with marker := true, pendLog := [[]], alarmed := [0x10] },
            nvm := { up.nvm with present := true, mirror0 := { half with mac := halfMac [] half } } }
theorem test_case_TamperLogKeeping_half : (mirrorHalf (logged.aon.lk.getD []) logged.nvm).isSome = true := by decide +kernel
theorem test_case_TamperLogKeeping :
    (0x10 : BitVec 8) ∈ logged.aon.alarmed ∧ logged.mainUp = true ∧ logged.locked = false ∧ logged.pwr.nvmLow = false ∧
      procWorks logged 0 = true ∧ logged.aon.marker = true ∧ logged.nvm.present = true ∧ logged.aon.pendLog ≠ [] ∧ logged.aon.summary = none ∧
      held.mayManage 1 := by decide
theorem test_case_TickBoundaryCounts :
    run.mainUp = true ∧ run.lc.state ≠ lcScrap ∧ State.reset.mainUp = false := by decide
theorem test_case_SlotRuns :
    run.tt.started = true ∧ run.tt.slot < 8 ∧ run.locked = false ∧ cutDue run = false ∧ run.reqs = [] ∧ run.vs.loads = [] ∧
      run.ss.waybills = [] ∧ run.ks.rot ≠ 1 ∧ run.fab.mgmt = [] ∧ up.tt.started = false := by decide
/-- A digest step that may run on position 0 of a digest station, and a platform with none. -/
def digestRun : Request :=
  { oneStep 0x0400 with rate := .overRate, steps := [{ StepState.reset with station := 2 }] }
theorem test_case_SlotServesInOrder : pickOf (busy digestRun) 2 0 0 = some digestRun ∧ pickOf up 2 0 0 = none := by decide
theorem test_case_KeyBusFillsLoadingBank :
    run.tt.started = true ∧ run.locked = false ∧ isRestarting run 6 = false ∧ (0 : Fin 8).val + 1 = run.tt.slot ∧
      (0, 0) ∉ run.tt.busDone ∧ (0, 0) ∈ ({ run with tt := { run.tt with busDone := [(0, 0)] } } : State).tt.busDone := by decide
/-- A cipher step of the entry's platform that is due, with its key in the cache. -/
def carried : Request :=
  { oneStep 0x0100 with plat := 1023, rate := .overRate,
                        descs := [fitTo 64 (leBytes 2 0x0100 ++ fillBytes 14 0 ++ leBytes 4 0x80000 ++ fillBytes 4 255)] }
def carrying : State :=
  { busy carried with ks := { run.ks with cache :=
      [{ CacheSlot.reset with handle := 0x80000, alg := 1, value := fillBytes 16 1, sym := symbolsOf (fillBytes 16 1) }] } }
theorem test_case_KeyBusFillsLoadingBank_due :
    carryOrder carrying 0 0 (entryPlat (entryAt carrying 6 carrying.now 0 (4 + 0))) = carried :: [] ∧
      carrying.req? carried.rid = some carried ∧ carryView carried = some carried ∧ carrying.stations[(0 : Fin 7)].loading = [] ∧
      (drawFor 0 carried carrying).2 = none ∧ carriedHandles carried.desc = [0x80000] ∧
      invalidated carrying carried.tenant 0x80000 = false ∧
      (carryKey carrying carried.rid carried.tenant 0x80000).map (fun x => x.2.2.2.1) = some (fillBytes 16 1) ∧
      (fillBytes 16 1).length ≤ 1280 ∧ regsOf 0 16 ≤ bankRegs 0 := by decide
/-- A ring that fetches, with a chain landed that draws 16 random bytes. -/
def random : Desc :=
  [0x10, 7, 0, 0, 3, 0, 0, 0] ++ fillBytes 8 0 ++ fillBytes 8 255 ++ fillBytes 20 0 ++ [16, 0, 0, 0] ++ fillBytes 12 0 ++ fillBytes 4 255
def oneChain : Ring :=
  { Ring.reset with enable := true, fetching := true, sqTail := 1,
                    held := [{ HeldDesc.reset with bytes := random, sym := symbolsOf random }] }
/-- A block whose image has the class of that chain, and a freight platform for it. -/
def drawClass : ClassDef := { ClassDef.reset with steps := [{ ClassStep.reset with opcode := 0x0710, station := 6 }] }
def admits : State :=
  paged (fun p => { p with rings := p.rings.set 0 oneChain })
    { run with
      tick := 9
      cfg := { run.cfg with bank0 := some { img with
        tenants := [{ TenantRec.reset with shares := [1] }], classes := [drawClass],
        plats := [{ PlatEntry.reset with kind := 2, depth := 4 }] } } }
set_option maxRecDepth 8000 in
theorem test_case_AdmissionTakesOneChain :
    engineRuns admits = true ∧ cutDue admits = false ∧ (0 : Cycle).val < 200 ∧ nextRing admits = some (0, oneChain) ∧
      (headChain oneChain).map (fun x => x.1) = some oneChain.held ∧ admits.tt.taken + oneChain.held.length ≤ 16 ∧
      oneChain.held.all (landedInTime admits.now) = true ∧ engineRuns up = false ∧ waitsDiscard admits 0 oneChain.held = false := by decide
/-- A chain that names an inline item while its page discards. -/
def inlineRead : Desc := random.take 4 ++ [1] ++ random.drop 5
def waitsChain : Ring :=
  { oneChain with held := [{ HeldDesc.reset with bytes := inlineRead, sym := symbolsOf inlineRead }] }
def discards : State := paged (fun p => { p with rings := p.rings.set 0 waitsChain, fifoDrop := true }) admits
set_option maxRecDepth 8000 in
theorem test_case_AdmissionTakesOneChain_waits :
    engineRuns discards = true ∧ cutDue discards = false ∧ nextRing discards = some (0, waitsChain) ∧
      (headChain waitsChain).map (fun x => x.1) = some waitsChain.held ∧ discards.tt.taken + waitsChain.held.length ≤ 16 ∧
      waitsChain.held.all (landedInTime discards.now) = true ∧ waitsDiscard discards 0 waitsChain.held = true := by decide
/-- The chain that the engine has taken passes every check. -/
def taken : State := takeChain 0 0 oneChain.held (countTaken admits 0 1 0)
set_option maxRecDepth 8000 in
theorem test_case_AdmissionTakesOneChain_passes :
    (headChain oneChain).map (fun x => x.2) = some true ∧ oneChain.held.map (fun h => readWords h.bytes h.sym) = [random] ∧
      ((headDesc oneChain).map fun h => Desc.cls h.bytes).getD 0 = 0 ∧ (0 : BitVec 16) ∉ (taken.ring 0 0).marks ∧
      check1 taken 0 [random] = none ∧ taken.image.classes.find? (fun x => x.num = Desc.cls random) = some drawClass ∧
      platformOf taken 0 (Desc.cls random) = some 0 ∧ check2 taken drawClass [random] true = none ∧ check3 taken 0 0 [random] = none ∧
      ((taken.plat 0).kind == 1 && decide ((taken.platStat 0).level ≥ oneToken)) = false ∧
      check4a taken (taken.plat 0) 0 0 false [random] = none ∧ check4b taken (taken.plat 0) 0 drawClass [random] = none ∧
      (drainAll [random] (taken.page 0)).bad = none ∧
      regionsOk taken 0 0 0 (chainVs taken drawClass [random]) (chainSs taken drawClass [random]) (chainVsHost [random]) false = true ∧
      placeRate taken 0 = some .freight := by decide
/-- In the tick after its admission a key generation is validated; a signature to be checked has a bad operand. -/
def checked (op : Nat) : Request := { oneStep op with admitTick := 8 }
theorem test_case_ValidationDecides :
    [0x0500, 0x0607].all (fun op => (busy (checked op)).req? 7 == some (checked op) && !(checked op).validated && hasChecked (checked op) &&
      decide ((busy (checked op)).now = validTick (busy (checked op)) (checked op)) && operandsIn (busy (checked op)) (checked op) &&
      !stopped (busy (checked op)) (checked op) 8) = true ∧
      (checked 0x0607).steps.length = 1 ∧ (checked 0x0607).stage ≠ .draining ∧
      (busy { checked 0x0500 with stage := .draining }).req? 7 = some { checked 0x0500 with stage := .draining } ∧ (validateStep 7 0 { busy (checked 0x0607) with en := { up.en with state := 1 } }).2 = none ∧
      (validateStep 7 0 (busy (checked 0x0500))).2 ≠ none := by decide
/-- A request that an abort stops, running and with its last piece ended, and one that has waited too long. -/
def stops : Request := { oneStep 0x0400 with stopAt := some (8, 3) }
theorem test_case_RequestsStop :
    (busy stops).req? 7 = some stops ∧ stops.stopAt = some (8, 3) ∧ 8 < (busy stops).now ∧ pastAbort (abortedByReset (busy stops) stops) stops = false ∧
      pastAbort (abortedByReset (busy stops) stops) { stops with finished := true } = true ∧
      (busy { stops with finished := true }).req? 7 = some { stops with finished := true } ∧
      4096 < ({ stops with wait := 4097 } : Request).wait ∧ (busy { stops with wait := 4097 }).req? 7 = some { stops with wait := 4097 } ∧
      stops.wait ≤ 4096 := by decide
/-- Results that wait for their release, and a signature that waits for its check. -/
theorem test_case_ReleasesFollowChecks :
    ({ oneStep 0x0100 with stage := .release } : Request).kind = 0 ∧ ({ oneStep 0x0600 with stage := .release } : Request).kind = 5 ∧
      (busy { oneStep 0x0100 with stage := .release }).req? 7 = some { oneStep 0x0100 with stage := .release } ∧
      (busy { oneStep 0x0600 with stage := .release }).req? 7 = some { oneStep 0x0600 with stage := .release } ∧
      (oneStep 0x0600).readyTick ≤ (busy (oneStep 0x0600)).now ∧
      (busy { oneStep 0x0602 with stage := .crtCheck, finished := true }).req? 7 =
        some { oneStep 0x0602 with stage := .crtCheck, finished := true } ∧
      (oneStep 0x0602).pieceTick < (busy (oneStep 0x0602)).now ∧ isRestarting (busy (oneStep 0x0602)) 4 = false ∧
      crtCheck [5, 1, 2, 3] = true ∧ crtCheck [5, 0, 2, 3] = false ∧ Desc.op (oneStep 0x0600).desc ≠ 0x0602 := by decide
/-- A released key for a handle of a template, and a chain whose first step feeds its second. -/
def keyed (op n : Nat) : Request :=
  { oneStep op with stage := .release, descs := [fitTo 64 (leBytes 2 op ++ fillBytes 18 0 ++ leBytes 4 0x80000)],
                    steps := [{ StepState.reset with key := some (fillBytes n 1, []), keySym := symbolsOf (fillBytes n 1) }] }
/-- The same block, its templates cache-only. -/
def cacheOnly (s : State) : State :=
  { s with cfg := { s.cfg with bank0 := some { img with templates := [{ Template.reset with alg := 1, first := 0x80000, count := 4, cacheOnly := true }] } } }
set_option maxRecDepth 8000 in
theorem test_case_ReleasesFollowChecks_keys :
    [0x0602, 0x0605, 0x0606, 0x0607].all (fun op => Desc.op (keyed op 16).desc == op && (keyed op 16).kind == 5 &&
        (busy (keyed op 16)).req? 7 == some (keyed op 16) && Desc.keyB (keyed op 16).desc == 0x80000) = true ∧
      (keyed 0x0605 16).step.newKey = some (fillBytes 16 1, []) ∧ (keyed 0x0605 15).step.newKey = some (fillBytes 15 1, []) ∧
      oaepKeyOk (busy (keyed 0x0605 15)) (keyed 0x0605 15) (fillBytes 15 1) = false ∧
      (oneStep 0x0602).step.newKey = none ∧ oaepKeyOk (busy (keyed 0x0605 16)) (keyed 0x0605 16) (fillBytes 16 1) = true ∧
      (templateOf (busy (keyed 0x0605 16)) 0 0x80000).isSome = true ∧ recordNo (busy (keyed 0x0606 16)) 0 0x80000 ≠ none ∧
      recordNo (cacheOnly (busy (keyed 0x0606 16))) 0 0x80000 = none ∧
      (templateOf (cacheOnly (busy (keyed 0x0606 16))) 0 0x80000).isSome = true := by decide
/-- A completion entry that is due, on a ring that takes it and on one that has lost an entry. -/
def due : State := { run with tick := 9, ended := [{ Ended.reset with rid := 7, due := 9 }] }
theorem test_case_CompletionIsWritten :
    due.locked = false ∧ due.ended.find? (fun x => x.due ≤ due.now) = some { Ended.reset with rid := 7, due := 9 } ∧
      (due.ring (tenantFin 0) (ringFin 0)).lost = false ∧ inWindows due (tenantFin 0) (0 + 32 * 0) 32 false true = true ∧
      inWindows State.reset (tenantFin 0) (0 + 32 * 0) 32 false true = false ∧
      ((paged (fun p => { p with rings := p.rings.set 0 { Ring.reset with lost := true } }) due).ring (tenantFin 0) (ringFin 0)).lost =
        true := by decide
/-- A coalescing timer that has run out, and a completion of an earlier tick. -/
def coal : State :=
  paged (fun p => { p with rings := p.rings.set 0 { Ring.reset with oldest := some 2, coalTime := 3 },
                           auditPend := [{ AuditRec.reset with tick := 4 }] }) { run with tick := 9 }
theorem test_case_CoalescingAndAudit :
    (coal.ring 0 0).oldest = some 2 ∧ (coal.ring 0 0).coalTime ≠ 0 ∧ 2 + (coal.ring 0 0).coalTime.toNat ≤ coal.now ∧
      { AuditRec.reset with tick := 4 } ∈ (coal.page 0).auditPend ∧ 4 < coal.now ∧
      (∀ b ∈ (coal.page 0).auditPend, 4 ≤ b.tick) ∧ (coal.page 0).auditPend = [{ AuditRec.reset with tick := 4 }] ∧
      up.mayWrite 3 0 false := by decide

/-- A burst of each kind that a return or a time-out answers. -/
def flying : State :=
  { busy (oneStep 0x0400) with fab := { run.fab with bursts :=
      [{ Burst.reset with tag := 1, kind := .input 7 0 0, len := 64 }, { Burst.reset with tag := 2, dead := true },
       { Burst.reset with tag := 3, kind := .desc 0 0 5 }, { Burst.reset with tag := 4, write := true },
       { Burst.reset with tag := 5, write := true, dead := true }, { Burst.reset with tag := 6, write := true, dropped := true }] } }
theorem test_case_ReturnsAnswerBursts :
    (∀ g : Fin 256, g = 1 ∨ g = 2 ∨ g = 3 → (burstOf flying 0 false g.val).isSome = true) ∧
      (burstOf flying 0 true 4).isSome = true ∧ (burstOf flying 0 true 5).isSome = true ∧
      (burstOf flying 0 false 1).map Burst.dead = some false ∧ (burstOf flying 0 false 2).map Burst.dead = some true ∧
      (flying.req? 7).isSome = true ∧ (burstOf flying 0 false 1).map Burst.dropped = some false ∧
      (burstOf flying 0 true 6).map Burst.dropped = some true ∧ (burstOf flying 0 true 6).map Burst.dead = some false ∧
      (burstOf (paged (fun p => { p with rings := p.rings.set 0 { Ring.reset with fetching := true } }) flying) 0 false 3).isSome = true := by
  refine ⟨?_, by decide, by decide, by decide, by decide, by decide, by decide, by decide, by decide, by decide⟩
  rintro g (rfl | rfl | rfl) <;> decide
/-- Input of a step with 64 bytes of source, a completion entry whose event a line takes, and a management burst. -/
def landing : State :=
  { busy { oneStep 0x0400 with descs := [fitTo 64 (leBytes 2 0x0400 ++ fillBytes 30 0 ++ [64])] } with
    wall := 100000,
    fab := { run.fab with evMap := run.fab.evMap.set 3 0x88400000, bursts :=
      [{ Burst.reset with tag := 1, kind := .input 7 0 0, len := 64 }, { Burst.reset with tag := 4, write := true, kind := .completion 0 0 0 },
       { Burst.reset with tag := 6, kind := .mgmt 2, wall := 90000 }] } }
theorem test_case_ReturnsAnswerBursts_events :
    (burstOf landing 0 false 1).map Burst.kind = some (.input 7 0 0) ∧ 0 < (landing.req? 7).elim 0 (fun r => r.steps.length) ∧
      0 < (hostAreas (fitTo 64 (leBytes 2 0x0400 ++ fillBytes 30 0 ++ [64])) 0).1 ∧
      (burstOf landing 0 true 4).map Burst.kind = some (.completion 0 0 0) ∧ (landing.fab.evMap[(3 : Fin 16)]).getLsbD 31 = true ∧
      fieldNat (landing.fab.evMap[(3 : Fin 16)]) 26 2 = 2 ∧ fieldNat (landing.fab.evMap[(3 : Fin 16)]) 16 6 = 0 ∧
      (landing.fab.evMap[(3 : Fin 16)]).getLsbD (22 + 0) = true ∧ landing.fab.evStart[(3 : Fin 16)] = none ∧
      (burstOf landing 0 false 6).map isMgmt = some true ∧ (burstOf landing 0 false 1).map (overdue landing) = some true ∧
      (burstOf landing 0 false 6).map (overdue landing) = some false ∧ landing.tt.slot ≤ 5 ∧ cutDue landing = false ∧
      cutDue { landing with cfg := { landing.cfg with coState := 4, target := 9 } } = true := by decide
/-- A rule that raises every source to a severity. -/
def rule (n : Nat) : State :=
  { up with cfg := { up.cfg with bank0 := some { img with rules := [{ SevRule.reset with sev := n }] } } }
theorem test_case_ReportsTakeTheirResponse :
    up.mainUp = true ∧ up.lc.state ≠ lcScrap ∧ reportable srcForeign = true ∧ srcChecker srcForeign ≠ 4 ∧
      (severityOf up srcForeign).sev ≤ 1 ∧ reportable (srcPort 0 7) = true ∧ (severityOf up (srcPort 0 7)).sev = 3 ∧
      (severityOf (rule 4) 0).sev = 4 ∧ (severityOf (rule 5) 0).sev = 5 ∧ up.flt.timers.length < 16 ∧
      (∀ w ∈ up.flt.timers, w.source ≠ srcPort 0 7) ∧ (severityOf up 0).sev = 2 ∧ isLaneSource 0 = true ∧
      up.flt.cycleAt ≠ some (320 * up.now + 0) ∧ up.flt.fValid = false ∧ up.image.latchMin ≤ (severityOf up 0).sev ∧
      reportable 4 = true ∧ srcChecker 4 = 4 ∧ (busy (oneStep 0x0400)).req? 7 = some (oneStep 0x0400) ∧ reportable 12 = false := by
  decide
set_option maxRecDepth 8000 in
theorem test_case_ScrubsAndProofs :
    up.mainUp = true ∧ up.lc.state ≠ lcScrap ∧ reportable 0 = true ∧ srcChecker 0 < 32 ∧ up.flt.lockdown = false ∧
      testWord (encodeWord [1, 2, 3]) = .clean ∧
      testWord ((encodeWord [1, 2, 3]).set 2 9) = .corrected (encodeWord [1, 2, 3]) ∧
      testWord (((encodeWord [1, 2, 3]).set 2 9).set 18 200) = .uncorrectable := by decide
/-- The worked example of 01: a word whose only byte that is not zero is 0x01 at the highest address. -/
theorem test_symbol_code : checkSymbols (List.replicate 15 0 ++ [1]) = [0x07, 0x0E, 0x08] := by decide
theorem test_case_SymbolCodeCorrects :
    (List.replicate 16 (0 : Byte)).length = 16 ∧ 0 < 18 ∧ 18 < 19 ∧ (1 : Byte) ≠ 0 ∧ (255 : Byte) ≠ 0 := by decide
/-- A switch that is due, a siding about to take over, and a shunt. -/
def shunts : State := { up with flt := { up.flt with switches := [SwitchDue.reset], takeovers := [{ Takeover.reset with lane := 8 }],
                                                     roles := assoc 0 [0, 1, 2, 3, 4, 5, 6, 7, 8, 9] up.flt.roles } }
/-- The holder with the right to inject, and without it. -/
def injects : State := { held with dbg := { held.dbg with rights := 1 } }
theorem test_case_InjectionsAndLatch :
    injects.mayManage 1 ∧ held.mayManage 1 ∧ (1 : Ident) ≠ procIdent 1 ∧
      mayInject held false ((0xC000000000000000 : BitVec 64).getLsbD 62) ((0xC000000000000000 : BitVec 64).extractLsb' 0 16) = false ∧
      mayInject injects false ((0x8000000000000000 : BitVec 64).getLsbD 62) ((0x8000000000000000 : BitVec 64).extractLsb' 0 16) = true ∧
      (0x8000000000000000 : BitVec 64).getLsbD 63 = true ∧ (0 : BitVec 64).getLsbD 63 = false ∧ reportable 0 = true ∧
      srcChecker 0 < 32 ∧ reportable ((0x800000000000000C : BitVec 64).extractLsb' 0 16) = false ∧
      injectReport 2 0 = some 0 ∧ injectReport 2 3 = none ∧ reportable 3 = true := by decide
/-- A target that is a lane at work, and one that is a free siding. -/
def spare : State := { injects with flt := { injects.flt with roles := assoc 0 [0, 1, 9, 8] injects.flt.roles } }
theorem test_case_InjectionsAndLatch_siding :
    (isLaneSource 0 && freeSiding spare (srcKey 0) (srcLane 0)) = false ∧ spare.mayManage 1 ∧
      mayInject spare false false (sourceId 0 0 2 0) = true ∧
      (isLaneSource (sourceId 0 0 2 0) && freeSiding spare (srcKey (sourceId 0 0 2 0)) (srcLane (sourceId 0 0 2 0))) = true := by decide
/-- An open window, and the last tick of it. -/
def window : State :=
  { up with tick := 9, flt := { up.flt with timers := [{ EscTimer.reset with source := 5, opens := 2, expires := 10, action := 4 }] } }
theorem test_case_EscalationWindows :
    supWorks window = true ∧ { FaultRec.reset with tick := 3 }.tick < window.now ∧ { EscTimer.reset with source := 5, opens := 2, expires := 10, action := 4 } ∈ window.flt.timers ∧
      (5 : BitVec 16) = (5 : BitVec 32).extractLsb' 0 16 ∧ 2 ≤ window.now ∧ window.now < 10 ∧
      window.flt.timers.find? (fun x => x.source = 5 && decide (x.expires ≤ window.now + 1)) =
        some { EscTimer.reset with source := 5, opens := 2, expires := 10, action := 4 } := by decide
theorem test_case_LanesAreReplaced :
    shunts.flt.takeovers.filter (fun y => y.engine = (0 : Fin 64).val && decide (y.tick ≤ shunts.now)) =
        [{ Takeover.reset with lane := 8 }] ∧
      inReserve ((shunts.roles 0).getD 8 11) = true ∧ cutDue shunts = false ∧ dueCases shunts = SwitchDue.reset :: [] ∧
      shunts.image.groups.getD 0 0 ≠ 0 ∧ shunts.image.groups.getD 1 0 = 0 ∧ shunts.tt.active = 0 ∧ supWorks shunts = true ∧
      shunts.tt.slot = 0 ∧ ((shunts.roles 0).getD 0 15).toNat < 8 ∧ (shunts.roles 0).getD 9 15 = 9 ∧
      freeSiding shunts 0 9 = true := by decide
/-- A restart and a lockdown that are due, and a station that has restarted. -/
def dead : State := { up with tick := 9, reqs := [{ oneStep 0x0400 with vsBlocks := 1 }], flt := { up.flt with due := [(4, 9, 0)] } }
def sealed : State := { up with tick := 9, flt := { up.flt with due := [(7, 9, 0)] } }
theorem test_case_StationsStopAndRejoin :
    dead.locked = false ∧ dead.flt.due.find? (fun x => x.1 = (4 : Fin 7).val && decide (x.2.1 ≤ dead.now)) = some (4, 9, 0) ∧
      (∃ r ∈ dead.reqs, holdsState dead 4 r = true) ∧
      ({ up with stations := up.stations.set 4 { up.stations[4] with restart := some 0 } } : State).stations[(4 : Fin 7)].restart.isSome =
        true ∧ up.tt.slot = 0 ∧ up.locked = false ∧ sealed.flt.lockdown = false ∧
      sealed.flt.due.find? (fun x => x.1 = 7 && decide (x.2.1 ≤ sealed.now)) = some (7, 9, 0) := by decide
def owes : State := { up with tick := 9, flt := { up.flt with dumpDue := [(7, 0, 9)] }, nvm := { up.nvm with present := true } }
def restarted (k : Nat) : State :=
  { up with tick := 99, procs := up.procs.set 1 { up.procs[1] with restart := some k },
            mgmt := { up.mgmt with held := true, src := true, holder := procIdent 1 } }
theorem test_case_ProcessorsAndDumps :
    owes.flt.dumpDue = (7, 0, 9) :: [] ∧ procWorks owes 1 = true ∧ up.flt.dumpDue = [] ∧ owes.pwr.nvmLow = false ∧ owes.nvm.present = true ∧
      up.mainUp = true ∧ procWorks up 2 = true ∧ (restarted 90).procs[(1 : Fin 3)].restart = some 90 ∧ (restarted 90).now ≤ 90 + 64 ∧
      (restarted 9).procs[(1 : Fin 3)].restart = some 9 ∧ 9 + 64 < (restarted 9).now ∧ (restarted 9).mgmt.held = true ∧
      (restarted 9).mgmt.src = true ∧ (restarted 9).mgmt.holder = procIdent 1 ∧ up.mgmt.src = false := by decide
/-- Source 0 in a state, retired in tick 0, with the samples of its test taken. -/
def source (n : BitVec 2) : State :=
  { held with
    tick := 4096 * 4096
    en := { held.en with sources := held.en.sources.set 0 { held.en.sources[0] with state := n, rejoins := 1, taken := 2048 } } }
theorem test_case_NoiseSourcesRetireAndRejoin :
    ((source 0).en.sources[(0 : Fin 4)]).state ≠ 2 ∧ 1 ≤ (1 : BitVec 8).toNat ∧ (4 : BitVec 8).toNat ≤ 4 ∧
      ((3 : BitVec 8).toNat ≤ 2 ↔ ((source 0).en.sources[(0 : Fin 4)]).taken < 1024) ∧
      ¬ ((1 : BitVec 8).toNat ≤ 2 ↔ ((source 0).en.sources[(0 : Fin 4)]).taken < 1024) ∧
      ((source 1).en.sources[(0 : Fin 4)]).state = 1 ∧ ((source 1).en.sources[(0 : Fin 4)]).retest = false ∧
      2048 ≤ ((source 1).en.sources[(0 : Fin 4)]).taken ∧
      (source 1).tt.slot = 0 ∧ procWorks (source 2) 1 = true ∧ ((source 2).en.sources[(0 : Fin 4)]).state = 2 ∧
      ((source 2).en.sources[(0 : Fin 4)]).rejoins ≠ 3 ∧
      ((source 2).en.sources[(0 : Fin 4)]).retired + 4096 * 4096 ≤ (source 2).now ∧ (source 2).mayManage 1 := by decide
/-- A pool with enough for a reseed, before and after instantiation. -/
def pooled (inst : Bool) : State :=
  let sources := Vector.replicate 4 { Source.reset with state := 0 }
  { up with en := { up.en with sources := sources, seed := fillBytes 64 0, raw := List.replicate 4096 false, inst := inst, state := 2 } }
theorem test_case_SeedPoolAndGenerator :
    2 ≤ healthyCount (pooled false).en ∧ (pooled false).en.inst = false ∧ (pooled false).en.stuck = false ∧
      512 ≤ (pooled false).en.pool ∧ (pooled true).en.inst = true ∧ (pooled true).en.stuck = false ∧ 384 ≤ (pooled true).en.pool ∧
      (pooled true).en.state = 2 ∧ 2 ≤ healthyCount (pooled true).en ∧ (pooled true).en.callsTick = false ∧
      (pooled true).en.calls < 1048576 ∧ (pooled true).en.fill < 65536 ∧
      healthyCount up.en < 2 := by decide
theorem test_case_SeedPoolAndGenerator_raw : 4096 ≤ (pooled false).en.raw.length := Nat.le_of_eq List.length_replicate.symm

/-- A ring pair of tenant 0 in a state of its own. -/
def ringed (r : Ring) : State := paged (fun p => { p with rings := p.rings.set 0 r }) up
theorem test_case_RingsOpenAndClose :
    up.mayWrite 3 0 false ∧ (up.ring 0 0).enable = false ∧ (up.ring 0 0).outstanding = 0 ∧ ¬ 6 ≤ (5 : BitVec 4).toNat ∧
      (6 : Nat) ≤ (6 : BitVec 4).toNat ∧ ringInWindows up 0 { up.ring 0 0 with size := 6 } = false ∧
      ringInWindows { up with cfg := { up.cfg with bank0 := some { img with tenants := [{ TenantRec.reset with shares := [1] }] } } } 0
        { up.ring 0 0 with size := 6 } = true ∧
      (ringed { Ring.reset with outstanding := 2 }).mayWrite 3 0 false ∧
      ((ringed { Ring.reset with outstanding := 2 }).ring 0 0).outstanding ≠ 0 ∧
      (ringed { Ring.reset with enable := true }).mayWrite 3 0 false ∧
      ((ringed { Ring.reset with enable := true }).ring 0 0).enable = true := by decide
/-- The last index below the size, and the first that is not. -/
theorem test_case_RingIndicesMove :
    up.mayWrite 3 0 false ∧ hushed up = false ∧ hushed { up with lc := { up.lc with quiesced := true } } = true ∧ ¬ (up.ring 0 0).entries ≤ (63 : BitVec 32).toNat % 65536 ∧
      (up.ring 0 0).entries ≤ (64 : BitVec 32).toNat % 65536 := by decide
/-- A FIFO with room, a full one, and one that drops an item. -/
def fifoFull : State := paged (fun p => { p with fifoItems := List.replicate 32 [0] }) up
def fifoDrops : State := paged (fun p => { p with fifoDrop := true }) up
theorem test_case_FifoTakesItems :
    up.mayWrite 3 0 false ∧ (up.page 0).fifoDrop = false ∧ (up.page 0).fill < 32 ∧ fifoFull.mayWrite 3 0 false ∧
      (fifoFull.page 0).fifoPart.length % 64 = 0 ∧ 32 ≤ (fifoFull.page 0).fill ∧ fifoDrops.mayWrite 3 0 false ∧
      (fifoDrops.page 0).fifoDrop = true ∧ (paged (fun p => { p with fifoLevel := 1 }) up).mayWrite 3 0 false ∧
      ((paged (fun p => { p with fifoLevel := 1 }) up).page 0).fill + 1 =
        ((paged (fun p => { p with fifoLevel := 1 }) up).page 0).fifoLevel.toNat := by decide
theorem test_case_AbortNamesRequests :
    up.mayWrite 3 0 false ∧ (0 : RingNo) = ringFin (fieldNat (0x80000000 : BitVec 32) 16 2) ∧ (up.page 0).abortResult ≠ 1 ∧
      up.reqs = [] ∧ up.ended = [] ∧ (up.ring 0 0).publishedIdx = [] ∧
      ((ringed { Ring.reset with enable := true, sqTail := 2 }).ring 0 0).publishedIdx = [0, 1] ∧
      (ringed { Ring.reset with enable := true, sqTail := 2 }).mayWrite 3 0 false ∧
      ((paged (fun p => { p with abortResult := 1 }) up).page 0).abortResult = 1 ∧ (busy (oneStep 0x0400)).mayWrite 3 0 false ∧
      ((oneStep 0x0400).tenant = (0 : Tenant).val ∧ (oneStep 0x0400).ring = (0 : RingNo).val) ∧
      pastAbort (abortedByReset (busy (oneStep 0x0400)) (oneStep 0x0400)) (oneStep 0x0400) = false ∧ (oneStep 0x0400).stopAt = none := by decide
/-- Key entry: no session, an open one, and an operation under way. -/
def rooted : State := { up with ks := { up.ks with root := 1, kr := some [] } }
def sess : KeSession := { KeSession.reset with ncomp := 2, handle := 0x80000 }
def entry (s : KeSession) (j : Option KeJob) : State :=
  paged (fun p => { p with ke := { p.ke with session := some s, job := j } }) { rooted with tick := 268435456 }
def tmpl : Template := { Template.reset with alg := 1, first := 0x80000, count := 4, clear := true }
/-- A component of a session's key, with the KCV that fits it, and a FINISH with one that fits. -/
def comp : KeJob :=
  { KeJob.reset with
    op := 2, data := fillBytes 64 1,
    kcv := kcvBits (keyKcv 1 (keyForm 1 (componentBytes up { KeJob.reset with data := fillBytes 64 1 } 16)) []) }
def whole : KeSession :=
  { sess with comps := [fillBytes 16 1, fillBytes 16 2], compSym := [symbolsOf (fillBytes 16 1), symbolsOf (fillBytes 16 2)] }
def fin : KeJob :=
  { KeJob.reset with
    op := 3, kcv := kcvBits (keyKcv 1 (keyForm 1 (whole.components.foldl xorBytes (fillBytes 16 0))) []) }
theorem test_case_KeyEntrySessions :
    rooted.mayWrite 2 0 true ∧ keWorks rooted = true ∧ rooted.pwr.keHeld = false ∧ (rooted.page 0).ke.heldOps = [] ∧
      (rooted.page 0).ke.job = none ∧ keCommitting rooted 0 = false ∧ (rooted.page 0).ke.session = none ∧ rootHere rooted = true ∧
      fieldNat (0x8080000 : BitVec 64) 26 2 = 2 ∧
      (templateOf rooted (0 : Tenant).val (keHandle 0x8080000)).any Template.clear = true ∧
      (0x8080000 : BitVec 64).getLsbD 25 = false ∧ isVacant rooted (0 : Tenant).val (keHandle 0x8080000) = true ∧
      ((entry sess none).page 0).ke.session.isSome = true ∧ (entry sess none).mayWrite 2 0 true ∧
      ((entry sess none).page 0).ke.session = some sess ∧ ((entry sess none).page 0).ke.job = none ∧
      sess.lastTick + 268435456 ≤ (entry sess none).now ∧ templateOf (entry sess none) (0 : Tenant).val sess.handle.toNat = some tmpl ∧
      sess.comps.length < sess.ncomp ∧ templateBytes (entry sess none) tmpl.alg.toNat tmpl.size = 16 ∧ comp.mixed = false ∧
      comp.ident ∉ sess.idents ∧ whole.ncomp ≤ whole.comps.length ∧
      (recordNo (entry whole none) (0 : Tenant).val whole.handle.toNat).isSome = true := by decide
/-- The comparisons that key entry makes, of values that no one here knows, are met by the operands above. -/
theorem test_case_KeyEntryCompares :
    ((entry sess (some comp)).page 0).ke.job = some comp ∧
      kcvBits (keyKcv tmpl.alg.toNat (keyForm tmpl.alg.toNat (componentBytes (entry sess (some comp)) comp 16)) []) = comp.kcv ∧
      ((entry whole (some fin)).page 0).ke.job = some fin ∧
      kcvBits (keyKcv tmpl.alg.toNat (keyForm tmpl.alg.toNat (whole.components.foldl xorBytes (fillBytes 16 0))) []) = fin.kcv :=
  ⟨rfl, rfl, rfl, rfl⟩
/-- A record in the store, with a node of the image beside it. -/
def rec0 : StoreRec := { StoreRec.reset with handle := 0x80000, crc := 0xF1CE }
def stored : State := { rooted with nvm := { rooted.nvm with storeA := { StoreArea.reset with recs := [rec0] } } }
set_option maxRecDepth 8000 in
theorem test_case_InvalidationTakesHandles :
    stored.mayWrite 2 0 true ∧ keWorks stored = true ∧ stored.pwr.keHeld = false ∧ (stored.page 0).ke.heldOps = [] ∧ rootHere stored = true ∧
      mayInvalidate stored 0 (keHandle 0x80000) = true ∧ stored.store.inval.length < 65536 ∧ isRecordHandle (keHandle 0x80000) = true ∧
      recordOf stored (0 : Tenant).val (keHandle 0x80000) = some rec0 ∧
      mayInvalidate stored 0 (keHandle 1) = true ∧ isRecordHandle (keHandle 1) = false ∧ stored.pwr.nvmLow = false ∧
      (nodeOf stored (0 : Tenant).val (keHandle 1)).isSome = true ∧ mayInvalidate stored 0 (keHandle 2) = false ∧
      procWorks stored 0 = true ∧ rootHere up = false ∧ up.mayWrite 2 0 true := by decide
/-- A key received for a cache-only handle, NVM that takes no program, and a list without room. -/
def received : State :=
  cacheOnly { rooted with ks := { rooted.ks with cache := [{ CacheSlot.reset with handle := 0x80000, part := .receiving }] } }
def full : State := { rooted with nvm := { rooted.nvm with storeA := { StoreArea.reset with inval := List.replicate 65536 (9, []) } } }
theorem test_case_InvalidationTakesHandles_others :
    received.mayWrite 2 0 true ∧ rootHere received = true ∧ mayInvalidate received 0 (keHandle 0x80000) = true ∧
      recordOf received (0 : Tenant).val (keHandle 0x80000) = none ∧ isRecordHandle (keHandle 0x80000) = true ∧
      rootHere { stored with pwr := { stored.pwr with nvmLow := true } } = true ∧
      mayInvalidate { stored with pwr := { stored.pwr with nvmLow := true } } 0 (keHandle 1) = true := by decide
theorem test_case_InvalidationTakesHandles_full : 65536 ≤ full.store.inval.length :=
  Nat.le_of_eq (List.length_replicate (n := 65536) (a := ((9, []) : Nat × Bytes))).symm
/-- A record write that waits, and a counter within 2^19 of its mark and one that is not. -/
def commits (n : Nat) : State :=
  { rooted with nvm := { rooted.nvm with present := true, sizeN := 0 }, en := { rooted.en with fill := 32768 },
                ks := { rooted.ks with commits := [{ Commit.reset with ke := true, tries := n }],
                                       ivs := [{ IvCtr.reset with mark := 524288 * n }] } }
set_option maxRecDepth 2000 in
theorem test_case_RecordWritesEnd :
    custodyWrites (commits 1) = true ∧ keWorks (commits 1) = true ∧ rootHere (commits 1) = true ∧ 32768 ≤ (commits 1).en.fill ∧
      ({ commits 1 with en := { (commits 1).en with state := 3, fill := 11 } } : State).en.fill < 12 ∧
      (commits 1).ks.commits = { Commit.reset with ke := true, tries := 1 } :: [] ∧
      (commits 1).store.heapUsed + recordSize StoreRec.reset ≤ heapBytes (commits 1) ∧
      (commits 3).ks.commits = { Commit.reset with ke := true, tries := 3 } :: [] ∧ custodyWrites (commits 3) = true ∧
      ivOf (commits 1) (0 : Tenant).val (0 : Handle).toNat = some { IvCtr.reset with mark := 524288 } ∧ 524288 ≤ 0 + 524288 ∧
      ivOf (commits 3) (0 : Tenant).val (0 : Handle).toNat = some { IvCtr.reset with mark := 1572864 } ∧ 0 + 524288 < 1572864 := by decide
/-- A record that replaces another one is about to be written, its journal shut or open. -/
def replaces (open_ : Bool) : State :=
  { commits 1 with ks := { (commits 1).ks with commits := [{ Commit.reset with ke := true, replace := true }] },
                   nvm := { (commits 1).nvm with
                     journal0 := if open_ then some Journal.reset else none,
                     storeA := { StoreArea.reset with shadows := if open_ then [StoreRec.reset] else [] } } }
set_option maxRecDepth 2000 in
theorem test_case_RecordWritesEnd_replace :
    custodyWrites (replaces true) = true ∧ keWorks (replaces true) = true ∧ 32768 ≤ (replaces true).en.fill ∧
      (replaces true).ks.commits = { Commit.reset with ke := true, replace := true } :: [] ∧
      (replaces true).nvm.journal = some Journal.reset ∧ (replaces true).store.shadow Journal.reset = some StoreRec.reset ∧ custodyWrites (replaces false) = true ∧
      keWorks (replaces false) = true ∧ 32768 ≤ (replaces false).en.fill ∧ (replaces false).nvm.journal = none ∧
      (replaces false).ks.commits = { Commit.reset with ke := true, replace := true } :: [] ∧
      (replaces false).store.heapUsed + recordSize StoreRec.reset ≤ heapBytes (replaces false) := by decide
/-- A request that misses a node, and a slot that was lost. -/
def misses (k : RateClass) : Request := { oneStep 0x0700 with rate := k, misses := [1], missRun := 9 }
def missed (k : RateClass) : State := { busy (misses k) with ks := { rooted.ks with lost := [(0, 1)] } }
theorem test_case_MissesComeIn :
    (missed .inRate).req? 7 = some (misses .inRate) ∧ (misses .inRate).admitTick < (missed .inRate).now ∧
      keWorks (missed .inRate) = true ∧ rootHere (missed .inRate) = true ∧ dueMisses (missed .inRate) (misses .inRate) = [1] ∧
      dueMisses (missed .inRate) { misses .inRate with missRun := 0 } = [] ∧ dueMisses (missed .freight) (misses .freight) = [1] ∧ (nodeOf (missed .inRate) 0 (1 : BitVec 20).toNat).isSome = true ∧
      (missed .freight).req? 7 = some (misses .freight) ∧ procWorks (missed .freight) 0 = true ∧
      (misses .freight).misses = [1] ∧ recordOf (missed .freight) 0 1 = none ∧
      ((0 : Tenant).val, (1 : Handle)) ∈ (missed .inRate).ks.lost ∧
      isRestarting (missed .inRate) 6 = false ∧ (missed .inRate).locked = false := by decide
/-- Rotations at each point, and the requests that start one and reroot. -/
def rotates (n : BitVec 2) (root : BitVec 2) : State :=
  { held with nvm := { held.nvm with present := true }, en := { held.en with fill := 65536 },
              ks := { held.ks with root := root, kr := some [], rot := n, rotSeq := some 5 } }
theorem test_case_StorageKeyRotates :
    (ask [3, 2, 9, 0] (rotates 0 1)).requestIs 0x0203 (front (ask [3, 2, 9, 0] (rotates 0 1))) ∧
      (front (ask [3, 2, 9, 0] (rotates 0 1))).payload = 0 ∧ (front (ask [3, 2, 9, 0] (rotates 0 1))).paylen = 0 ∧
      allZero (front (ask [3, 2, 9, 0] (rotates 0 1))).params = true ∧
      (ask [3, 2, 9, 0] (rotates 1 1)).requestIs 0x0203 (front (ask [3, 2, 9, 0] (rotates 1 1))) ∧
      (ask [3, 2, 9, 0] (rotates 0 2)).requestIs 0x0203 (front (ask [3, 2, 9, 0] (rotates 0 2))) ∧
      rootHere (rotates 1 1) = true ∧ rootHere (rotates 0 2) = false ∧ (rotates 1 1).ks.rotBlock ≤ 255 ∧
      rotNeed (rotates 1 1) ≤ (rotates 1 1).ks.rotLevels ∧ custodyWrites (rotates 1 1) = true ∧ keWorks (rotates 1 1) = true ∧
      rotationVerified (rotates 2 1) = true ∧ (rotates 2 1).ks.rotSeq = some 5 ∧
      (rotates 2 1).nvm.ksPtr0 ≠ nextPointer (rotates 2 1) ∧
      (ask [4, 2, 9, 0] (rotates 0 2)).requestIs 0x0204 (front (ask [4, 2, 9, 0] (rotates 0 2))) ∧
      (rotates 0 2).lc.state ≠ 6 ∧ (rotates 0 2).en.state ≠ 3 ∧ rerootReady (rotates 0 2) = true ∧ (rotates 0 1).ks.root.toNat < 2 := by
  decide
/-- A flip with copy 0 written. -/
def halfFlip : State := writePointer0 (rotates 2 1)
theorem test_case_StorageKeyRotates_half :
    halfFlip.ks.rot = 2 ∧ rootHere halfFlip = true ∧ halfFlip.ks.rotSeq = some 5 ∧ custodyWrites halfFlip = true ∧
      keWorks halfFlip = true ∧ rotationVerified halfFlip = true ∧ halfFlip.nvm.ksPtr0 = nextPointer halfFlip :=
  ⟨by decide, by decide, by decide, by decide, by decide, by decide, rfl⟩
def replies : State := { up with mgmt := { up.mgmt with replies := [{ Reply.reset with final := true }] } }
theorem test_case_MailboxesCarryMessages :
    up.mayWrite 2 0 true ∧ held.mayManage 1 ∧ hushed up = false ∧ hushed { up with lc := { up.lc with quiesced := true } } = true ∧ procWorks replies 2 = true ∧
      replies.mgmt.replies.find? (fun r => !(replies.mbi r.box).full) = some { Reply.reset with final := true } ∧
      (nextMessage (ask [0x77, 7] up)).isSome = true ∧ rightBox (front (ask [0x77, 7] up)) = false ∧
      (front (ask [0x77, 7] up)).busy = false ∧ conditionRefuses (ask [0x77, 7] up) (front (ask [0x77, 7] up)) = false ∧
      rightBox (front (askT [3, 2] up)) = false ∧ (front (askT [3, 2] up)).code ∈ tenantCodes ++ mgmtCodes := by decide
theorem test_case_LockIsHeldByOne :
    held.portOpen ∧ held.roleOf 1 = 3 ∧ held.mgmt.held = true ∧ held.mgmt.src = false ∧ held.mgmt.holder = 1 ∧ up.portOpen ∧
      up.roleOf 1 = 3 ∧ up.mgmt.held = false ∧ (restarted 0).mgmt.src = true ∧ (0 : Fin 3) ∈ (0 : Fin 3) :: [2] ∧ (1 : Fin 3) ∉ (0 : Fin 3) :: [2] ∧ (restarted 0).roleOf 1 = 3 ∧ held.mgmt.remain = 0 ∧
      (lockOrder up.now).find? (fun n => n ∈ ((0 : Fin 3) :: [2]).map fun q => q.val + 1) = some 1 ∧
      (lockOrder { up with tick := 2 }.now).find? (fun n => n ∈ 0 :: ((0 : Fin 3) :: [2]).map fun q => q.val + 1) = some 3 ∧
      (lockOrder { up with tick := 4 }.now).find? (fun n => n ∈ 0 :: ((0 : Fin 3) :: [2]).map fun q => q.val + 1) = some 0 := by
  decide
def resets : State := paged (fun p => { p with resetBusy := true }) up
theorem test_case_TenantResetClearsPage :
    (up.page 0).resetBusy = false ∧ up.mayWrite 2 0 true ∧ held.mayManage 1 ∧ (0 : Tenant) = tenantFin ((64 : BitVec 32).toNat % 64) ∧
      (resets.page 0).resetBusy = true ∧ resets.tt.slot = 0 ∧ resetSettled resets 0 = true ∧
      (paged (fun p => { p with resetBusy := true }) held).mayManage 1 ∧ resets.roleOf 2 = 2 ∧ resets.tenantOf 2 = 0 ∧
      resets.portOpen := by decide
/-- A record whose header passes on arrival, for entry 8, with a modulus of 160 bits. -/
def curveRec : Bytes := fitTo 448 ([0x54, 0x52, 0x48, 0x4B, 1, 8, 160, 0, 1] ++ fillBytes 59 0 ++ [0x80])
/-- Request bytes with a payload address of 0, a length and parameters. -/
def call (code len : Nat) (params : Bytes) : Bytes := leBytes 2 code ++ [9, 0] ++ fillBytes 12 0 ++ leBytes 4 len ++ params
def curves (n : BitVec 2) : State :=
  { up with vs := { up.vs with curves := up.vs.curves.set 8 { CurveEntry.reset with state := n },
                               loads := [{ CurveLoad.reset with record := curveRec, seq := some 9 }] }, tick := 78125 }
set_option maxRecDepth 4000 in
theorem test_case_CurvesLoadAndRetire :
    (ask (call 0x0201 448 []) up).requestIs 0x0201 (front (ask (call 0x0201 448 []) up)) ∧
      (front (ask (call 0x0201 448 []) up)).paylen = 448 ∧ allZero (front (ask (call 0x0201 448 []) up)).params = true ∧
      inWindows up 0 0 448 true false = true ∧ arrivalCheck up (fitTo 448 curveRec) = 0 ∧ arrivalCheck up (fitTo 448 []) ≠ 0 ∧
      (curves 1).vs.loads = { CurveLoad.reset with record := curveRec, seq := some 9 } :: [] ∧ recordIndex curveRec < 32 ∧
      loadBegun (curves 1) { CurveLoad.reset with record := curveRec, seq := some 9 } = true ∧
      0 + 78125 ≤ (curves 1).now ∧ ¬ 0 + 78125 ≤ ({ curves 1 with tick := 9 } : State).now ∧ (curves 3).tt.slot = 0 ∧ run.tt.slot ≠ 0 ∧ ((curves 1).curveEntry 8).state = 1 ∧
      (ask (call 0x0202 0 [8]) (curves 2)).requestIs 0x0202 (front (ask (call 0x0202 0 [8]) (curves 2))) ∧
      byteAt (front (ask (call 0x0202 0 [8]) (curves 2))).params 0 = 8 ∧
      allZero ((front (ask (call 0x0202 0 [8]) (curves 2))).params.drop 1) = true ∧ ((curves 2).curveEntry 8).state = 2 ∧
      ((curves 1).curveEntry 8).state ≠ 2 ∧ (curves 3).vs.curves[(8 : Fin 32)].state = 3 ∧ (curves 3).reqs = [] ∧
      holdsCurve { oneStep 0x0500 with validated := true, cls := { ClassDef.reset with steps := [{ ClassStep.reset with curve := 8 }] } }
        (8 : Fin 32).val = true := by decide
/-- The holder of the lock in TEST, which opens every group. -/
def tests : State := { held with lc := { held.lc with state := 2 }, dbg := { held.dbg with haltSup := true, words := [((0, 0), 5)] } }
theorem test_case_DebugReachesGroups :
    tests.mayManage 1 ∧ mayHalt tests (fieldNat (0x40000000 : BitVec 32) 30 2) = true ∧
      coreHalted tests.dbg (fieldNat (0x40000000 : BitVec 32) 30 2) = true ∧ held.mayManage 1 ∧
      mayHalt held (fieldNat (0x40000000 : BitVec 32) 30 2) = false ∧ mayReach tests false (fieldNat (0 : BitVec 64) 48 6) = true ∧
      tests.dbg.words.lookup (fieldNat (0 : BitVec 64) 48 6, accessWord 0) = some 5 ∧
      mayReach held false (fieldNat (0 : BitVec 64) 48 6) = false ∧
      [14, 24, 25, 27].all (fun g => mayReach tests true (fieldNat (BitVec.ofNat 64 (g * 281474976710656)) 48 6)) = true := by decide
/-- A tenant in PROVISION that asks, with its buffer full. -/
def asks (b : Bytes) : State := askT b { up with lc := { up.lc with state := 4 }, en := { up.en with fill := 32768, state := 1 } }
def dumps (d : Option Bytes) : State := ask (call 0x0209 4096 [0]) { up with nvm := { up.nvm with dump0 := d } }
theorem test_case_ChallengesAndPasses :
    (asks (call 0x0102 0 [])).requestIs 0x0102 (front (asks (call 0x0102 0 []))) ∧ 32768 ≤ (asks (call 0x0102 0 [])).en.fill ∧
      (asks (call 0x0102 0 [])).en.state ≠ 3 ∧
      ({ asks (call 0x0102 0 []) with en := { up.en with fill := 31, state := 3 } } : State).en.fill < 32 ∧
      ({ asks (call 0x0102 0 []) with en := { up.en with fill := 31, state := 3 } } : State).requestIs 0x0102
        (front { asks (call 0x0102 0 []) with en := { up.en with fill := 31, state := 3 } }) ∧
      (front (asks (call 0x0102 0 []))).payload = 0 ∧ (front (asks (call 0x0102 0 []))).paylen = 0 ∧
      allZero (front (asks (call 0x0102 0 []))).params = true ∧
      (asks (call 0x0103 256 [])).requestIs 0x0103 (front (asks (call 0x0103 256 []))) ∧ (asks []).lc.state = 4 ∧
      allZero (front (asks (call 0x0103 256 []))).params = true ∧ inWindows (asks (call 0x0103 256 [])) 0 0 256 true false = true ∧
      passCheck (asks (call 0x0103 256 [])) 0 none 256 [] ≠ 0 ∧
      (dumps (some [1])).requestIs 0x0209 (front (dumps (some [1]))) ∧ byteAt (front (dumps (some [1]))).params 0 = 0 ∧
      allZero ((front (dumps (some [1]))).params.drop 1) = true ∧ dumpIn (dumps (some [1])).nvm 0 = some [1] ∧
      [1].length ≤ (front (dumps (some [1]))).paylen ∧ payloadOk (dumps (some [1])) 0 0 4096 false true = true ∧
      (dumps none).requestIs 0x0209 (front (dumps none)) ∧ dumpIn (dumps none).nvm 0 = none := by decide
def bills : State := ask (call 0x0205 1024 [8]) { up with en := { up.en with fill := 32768, state := 1 } }
def billsT : State := askT (call 0x0101 1024 [32]) { up with en := { up.en with fill := 32768, state := 1 } }
def signed (hold : Bool) : State :=
  loadSystem { up with ss := { up.ss with waybills := [WaybillJob.reset], hold := hold }, ks := { up.ks with kf := some [] } }
theorem test_case_WaybillsAreIssued :
    bills.requestIs 0x0205 (front bills) ∧ billsT.requestIs 0x0101 (front billsT) ∧ bills.lc.state ≠ 1 ∧ bills.lc.state ≠ 7 ∧
      byteAt (front bills).params 0 = 8 ∧ byteAt (front billsT).params 0 = 32 ∧ 1024 ≤ (front bills).paylen ∧
      allZero (slice (front bills).params 1 3) = true ∧ allZero ((front bills).params.drop (4 + 8)) = true ∧
      allZero (slice (front billsT).params 1 3) = true ∧ allZero ((front billsT).params.drop (4 + 32)) = true ∧
      payloadOk bills (front bills).tenant (front bills).payload (front bills).paylen false true = true ∧
      payloadOk billsT (front billsT).tenant (front billsT).payload (front billsT).paylen false true = true ∧
      bills.en.state ≠ 3 ∧ 32768 ≤ bills.en.fill ∧ waybillReady (signed false) WaybillJob.reset = true ∧
      procWorks (signed false) 2 = true ∧ waybillReady (signed true) WaybillJob.reset = false ∧ bills.tt.slot = 0 ∧
      billsT.tt.slot = 0 := by decide
/-- Transitions asked for, and programs under way. -/
def changes (st : BitVec 4) (t : Byte) : State := ask (call 0x0206 0 [1, t, 255 - t]) { up with lc := { up.lc with state := st } }
def burns (n t : Nat) : State :=
  { up with lc := { up.lc with state := 4, burning := n, next := BitVec.ofNat 4 t, wiped := true, sealJob := some (1, 6, []), seq := some 9 } }
theorem test_case_TransitionsBurnTheirRows :
    (changes 5 6).requestIs 0x0206 (front (changes 5 6)) ∧ byteAt (front (changes 5 6)).params 0 = 1 ∧
      (front (changes 5 6)).payload = 0 ∧ (front (changes 5 6)).paylen = 0 ∧ allZero ((front (changes 5 6)).params.drop 3) = true ∧
      transitionCheck (changes 5 6) 6 249 = 0 ∧ byteAt (front (changes 5 6)).params 2 = 249 ∧ wipes 6 = true ∧
      transitionCheck (changes 4 5) 5 250 ≠ 0 ∧ (changes 4 5).requestIs 0x0206 (front (changes 4 5)) ∧
      programNow (burns 1 5) = some ((54 : Fin 128).val, targetCode 5) ∧ wipes 5 = false ∧ (burns 1 5).mainUp = true ∧
      (burns 1 5).cfg.stage ≠ 0 ∧ (burns 1 5).locked = false ∧ (burns 1 5).ks.commits = [] ∧
      programNow (burns 1 6) = some ((64 : Fin 128).val, targetCode 6) ∧
      programNow (burns 2 6) = some ((65 : Fin 128).val, commitCode 6) ∧ (burns 2 6).lc.wiped = true ∧
      programNow (burns 2 2) = some ((25 : Fin 128).val, commitCode 2) ∧ (burns 2 2).lc.next = 2 ∧ (burns 2 2).aon.begun = false ∧
      programNow (burns 3 0) = some ((90 : Fin 128).val, sealCode) ∧ (burns 3 0).lc.seq = some 9 := by decide
def seals : State := ask (call 0x0206 97 [2, 1]) { up with lc := { up.lc with state := 4 } }
theorem test_case_AuthorityIsSealed :
    seals.requestIs 0x0206 (front seals) ∧ byteAt (front seals).params 0 = 2 ∧ seals.lc.state = 4 ∧ byteAt (front seals).params 1 = 1 ∧
      (front seals).paylen = 97 ∧ allZero ((front seals).params.drop 2) = true ∧
      payloadOk seals (front seals).tenant (front seals).payload 97 true false = true ∧
      freeSet seals 1 = some 0 ∧ sealedHash seals 1 = none ∧ seals.lc.phase ≠ 3 := by decide
/-- An amendment or handover asked for, under way, prepared, and an install. -/
def amend (code : Nat) (n : BitVec 4) : State := ask (call code 0 []) { up with cfg := { up.cfg with coState := n, coSeq := some 9, bankBad := [2] } }
def fresh : State := ask (call 0x0207 0 []) { up with cfg := { up.cfg with stage := 8 } }
/-- The install once begun, its read under way or ended. -/
def begun (reads : Bool) : State :=
  { fresh with cfg := { fresh.cfg with instBegun := true },
               fab := { fresh.fab with mgmt := if reads then [MgmtXfer.reset] else [] } }
theorem test_case_AmendmentsArePrepared :
    (amend 0x0207 0).requestIs 0x0207 (front (amend 0x0207 0)) ∧ (amend 0x0208 0).requestIs 0x0208 (front (amend 0x0208 0)) ∧
      (amend 0x0207 0).cfg.stage ≠ stageUnconfigured ∧ amending (amend 0x0207 0) = false ∧ amending (amend 0x0207 1) = true ∧
      (front (amend 0x0207 0)).payload = 0 ∧ (front (amend 0x0207 0)).paylen = 0 ∧
      allZero ((front (amend 0x0207 0)).params.drop 12) = true ∧ inWindows (amend 0x0207 0) 0 0 0 true false = true ∧
      (amend 0x0207 1).cfg.coState = 1 ∧ (amend 0x0207 1).locked = false ∧ ([] : Bytes).length = (amend 0x0207 1).cfg.coLen ∧
      (amend 0x0207 1).pwr.nvmLow = false ∧ imageCause (amend 0x0207 1) .amendment [] ≠ 0 ∧ (amend 0x0207 1).cfg.coSeq = some 9 ∧
      (amend 0x0207 2).cfg.coState = 2 ∧ fresh.requestIs 0x0207 (front fresh) ∧ fresh.cfg.stage = stageUnconfigured ∧
      ringless fresh = false ∧ ([] : Bytes).length = leAt (front fresh).params 8 4 ∧ 2 ∈ (amend 0x0207 3).cfg.bankBad ∧
      procWorks (amend 0x0207 3) 1 = true ∧ (amend 0x0207 3).cfg.coState = 3 ∧ fresh.cfg.instBegun = false ∧
      (begun true).requestIs 0x0207 (front (begun true)) ∧ (begun true).cfg.instBegun = true ∧ mgmtReading (begun true) = true ∧
      mgmtReading (begun false) = false := by decide
/-- A cut-over before its boundary, at it, and a processor that waits for it or has passed it. -/
def cut (n : BitVec 4) (tries : Nat) (bad : List Nat) (now : BitVec 64) : State :=
  { held with tick := now,
              cfg := { held.cfg with coState := n, target := 4096, attempts := tries, bankBad := bad, bank1 := some img, coSeq := some 9 },
              procs := held.procs.set 1 { held.procs[1] with newPatch := some [] } }
def hands (k : Nat) : State := { up with tick := 200, procs := up.procs.set 1 { up.procs[1] with resuming := some k } }
theorem test_case_CutoverSwitchesAtBoundary :
    (cut 3 0 [] 3840).cfg.coState = 3 ∧ (cut 3 0 [] 3840).now + 256 = (cut 3 0 [] 3840).cfg.target ∧ (cut 3 0 [] 3840).locked = false ∧
      allArmed { cut 3 0 [] 3840 with procs := up.procs } = true ∧ allArmed (cut 3 0 [1] 3840) = false ∧
      (cut 3 6 [1] 3840).cfg.attempts < 7 ∧ 7 ≤ (cut 3 7 [1] 3840).cfg.attempts ∧ (cut 3 7 [1] 3840).pwr.nvmLow = false ∧ allArmed (cut 3 7 [1] 3840) = false ∧
      (cut 3 7 [1] 3840).cfg.coSeq = some 9 ∧ cutDue (cut 4 1 [] 4096) = true ∧ dueCases (cut 4 1 [] 4096) = [] ∧
      (cut 4 1 [] 4096).nextImage? = some img ∧ (cut 4 1 [] 4096).cfg.handover = false ∧ (cut 4 1 [] 4096).mgmt.src = false ∧ (cut 4 1 [] 4096).mgmt.held = true ∧
      (cut 3 0 [] 3840).procs[(1 : Fin 3)].newPatch.isSome = true ∧ procWorks (cut 3 0 [] 3840) 1 = true ∧
      (hands 100).procs[(1 : Fin 3)].resuming = some 100 ∧ (hands 100).now ≤ 100 + 128 ∧
      (hands 9).procs[(1 : Fin 3)].resuming = some 9 ∧ 9 + 128 < (hands 9).now ∧ (hands 9).mainUp = true ∧ (hands 9).lc.state ≠ lcScrap := by
  decide
theorem test_case_RegisterPortAnswers :
    held.portOpen ∧ held.roleOf 1 = 3 ∧ (0xB04 : BitVec 24).toNat < 0x10000 ∧ mgmtTable.lookup (0xB04 : BitVec 24).toNat = some .lease ∧
      MReg.lease ≠ .mgmtLock ∧ MReg.lease.wide = false ∧ (0xB04 : BitVec 24).toNat % Width.bytes .w32 = 0 ∧
      supTable.lookup (0x10050 : BitVec 24).toNat = some .fltInject ∧ isHolder held 1 = true ∧ isHolder up 1 = false ∧ up.roleOf 1 = 3 ∧
      up.mayWrite 2 0 true ∧ (0x100404 : BitVec 24).toNat = pageOff 0 0x404 ∧ pageTable.lookup 0x404 = some .intEnable ∧
      PReg.intEnable.wide = false ∧ held.mayManage 1 ∧ permitted up 3 (regionOf (0xB04 : BitVec 24).toNat) true = false ∧
      permitted up 3 (regionOf (0xB04 : BitVec 24).toNat) false = false ∧
      Width.bytes .w8 < 4 ∧ 4 ≤ Width.bytes .w32 ∧ State.reset.mainUp = false ∧ (at_ 3).cfg.stage.toNat < 4 ∧ (at_ 3).mainUp = true := by
  decide

/-! ### Single steps, with values worked out from the spec -/

/-- The state after a command that answers one. -/
def after (o : Host.Outcome State Fault Refusal) : State :=
  match o with
  | .next t => t
  | _ => State.reset

/-- 09 R392: the old record stays in force until the index entry is written. -/
theorem test_journal_opens_and_closes :
    (after (exec (.keyStoreCommit true) (replaces false))).nvm.journal.isSome = true ∧
      (after (exec (.keyStoreCommit true) (replaces false))).ks.seq = (replaces false).ks.seq ∧
      (after (exec (.keyStoreCommit true) (replaces true))).nvm.journal = none ∧
      (after (exec (.keyStoreCommit true) (replaces true))).store.recs = [{ StoreRec.reset with crc := indexCrc StoreRec.reset }] :=
  ⟨rfl, rfl, rfl, rfl⟩

/-- 11 Table 11-22: OUTCOME in bits 31:30, SRC in bit 12, the holder's identity below; the Custody processor is 0xF00 (08 Table
08-1), and 0x80001F00 says that it holds the lock. -/
theorem test_lockAcquire_held :
    (after (exec (.lockAcquire 1) { up with mgmt := { up.mgmt with held := true, src := true, holder := procIdent 0 } })).rsp =
      0x80001F00 := by decide
theorem test_lockAcquire_free : (after (exec (.lockAcquire 1) up)).rsp = 0x40000001 := by decide
/-- A ring of 2^6 entries: index 63 is taken, index 64 is not less than the size (03 R119). -/
def open64 : State := paged (fun p => { p with rings := p.rings.set 0 { Ring.reset with enable := true } }) up
theorem test_doorbell_in_range : ((after (exec (.doorbell 2 0 0 63) open64)).ring 0 0).sqTail = 63 := by decide
theorem test_doorbell_out_of_range :
    ((after (exec (.doorbell 2 0 0 64) open64)).ring 0 0).idxErr = true ∧
      ((after (exec (.doorbell 2 0 0 64) open64)).ring 0 0).sqTail = 0 := by decide
/-- A crossing in cycle 100 leaves 1.25 GHz from cycle 108 on: 108 cycles at 4 and 212 at 5 units of 200 ps (13 R501). -/
theorem test_warning_at_cycle_100 : (after (exec (.supplyWarningCrossing 100 739) up)).pwr.fast = 108 := by decide
/-- A count of 988 against a baseline of 1,000 is 1.2% of slowing, 24 mV, set as 25 mV (13 R512). -/
theorem test_aging_rounds_up :
    (after (exec (.agingMeasurement (Vector.replicate 8 988)) { up with otp := up.otp.set 16 1000 })).pwr.rails[(0 : Fin 8)].margin =
      25 := by decide
/-- 504 bits are too few for an instantiation, which takes 512 (10 R417). -/
theorem test_instantiate_needs_512 :
    (after (exec .drbgInstantiate { up with en := { up.en with inst := false, seed := fillBytes 63 0 } })).en.inst = false ∧
      (after (exec .drbgInstantiate { up with en := { up.en with inst := false, seed := fillBytes 80 0 } })).en.pool = 128 := by
  decide +kernel
/-- The last write of an item of 8 + 3 bytes takes the low three bytes, the lowest first (03 R144). -/
theorem test_fifo_item :
    ((after (exec (.fifoLast 2 0 2 0x030201) (paged (fun p => { p with fifoPart := [8, 7, 6, 5, 4, 3, 2, 1] }) up))).page 0).fifoItems =
      [[8, 7, 6, 5, 4, 3, 2, 1, 1, 2, 3]] := by decide
/-- A lease of 7 acts as 256 (11 Table 11-22). -/
theorem test_lease_floor :
    (after (exec (.lockAcquire 1) { up with mgmt := { up.mgmt with lease := 7 } })).mgmt.remain = 256 := by decide
/-- Before stage 4 only the identity registers answer (16 R588). -/
theorem test_read_before_stage_4 :
    (after (exec (.registerRead 1 0 .w64) (at_ 3))).rsp = 0x5440480041000100 ∧
      (after (exec (.registerRead 1 0xB04 .w32) (at_ 3))).rsp = 0 := by decide
/-- SHA-256 of "abc": the example of FIPS 180-4. -/
theorem test_sha256_abc :
    sha256 (ascii "abc") = beBytes 32 0xBA7816BF8F01CFEA414140DE5DAE2223B00361A396177A9CB410FF61F20015AD := by decide +kernel
/-- AES-128: the example vector of FIPS 197. -/
theorem test_aes_fips197 :
    aesBlock true (beBytes 16 0x000102030405060708090A0B0C0D0E0F) (beBytes 16 0x00112233445566778899AABBCCDDEEFF) =
      beBytes 16 0x69C4E0D86A7B0430D8CDB78070B4C55A := by decide +kernel
/-- SHA3-256 of "abc": the example of FIPS 202. -/
theorem test_sha3_abc :
    digestOf 0x11 32 (ascii "abc") = beBytes 32 0x3A985DA74FE225B2045C172D6BD390BD855F086E3E9D525B46BFE24511431532 := by
  decide +kernel
/-- The base points of the built-in curves are on them. -/
theorem test_base_points : (List.range 7).all (fun i => (builtinCurve i).on (builtinCurve i).gx (builtinCurve i).gy) = true := by
  decide +kernel
/-- Byte counts of 04 R208 and its table of tweak limits; for 19 digits SP 800-38G has another (log entry 72). -/
theorem test_ff1_bytes : ff1Beta 10 6 = 2 ∧ ff1Beta 10 19 = 4 ∧ ff1Beta 36 19 = 6 ∧ ff1Beta 36 32 = 11 := by decide
/-- The table gives no command any bits, so no word spells one. -/
theorem test_decode_nothing : decodeTableWord 32 0 = none := by decide

end Sys2Proof.Tests
end

section
/-! SUPPORT. What a tenant's page and its ring pairs hold after an update of one of them, and what a write that updates one leaves as
it was. -/
namespace Sys2Proof.Machine

@[simp] theorem State.page_updPage_same (s : State) (n : Tenant) (f : TenantPage → TenantPage) :
    (s.updPage n f).page n = f (s.page n) := by
  simp [State.page, State.updPage]

theorem State.page_updPage_other {n m : Tenant} (h : m ≠ n) (s : State) (f : TenantPage → TenantPage) :
    (s.updPage n f).page m = s.page m := by
  simp [State.page, State.updPage, Fin.val_ne_of_ne h.symm]

@[simp] theorem State.page_respond (s : State) (v : BitVec 64) (m : Tenant) : (s.respond v).page m = s.page m := rfl

@[simp] theorem State.ring_respond (s : State) (v : BitVec 64) (n : Tenant) (k : RingNo) : (s.respond v).ring n k = s.ring n k := rfl

@[simp] theorem State.page_updFab (s : State) (f : Fabric → Fabric) (m : Tenant) : (s.updFab f).page m = s.page m := rfl

@[simp] theorem State.page_updDbg (s : State) (f : Debug → Debug) (m : Tenant) : (s.updDbg f).page m = s.page m := rfl

@[simp] theorem State.page_updRing_same (s : State) (n : Tenant) (k : RingNo) (f : Ring → Ring) :
    (s.updRing n k f).page n = { s.page n with rings := (s.page n).rings.set k (f (s.ring n k)) } :=
  State.page_updPage_same _ _ _

theorem State.page_updRing_other {n m : Tenant} (h : m ≠ n) (s : State) (k : RingNo) (f : Ring → Ring) :
    (s.updRing n k f).page m = s.page m :=
  State.page_updPage_other h _ _

/-- The ring pairs of a page on which one has been set. -/
theorem rings_set (p : TenantPage) (k j : RingNo) (r : Ring) : (p.rings.set k r)[j] = if j = k then r else p.rings[j] := by
  simp only [Fin.getElem_fin, Vector.getElem_set, Fin.ext_iff, eq_comm]

theorem State.ring_updRing (s : State) (n : Tenant) (k j : RingNo) (f : Ring → Ring) :
    (s.updRing n k f).ring n j = if j = k then f (s.ring n k) else s.ring n j := by
  rw [State.ring, State.page_updRing_same, rings_set, State.ring, State.ring]

/-- An update that leaves the page as it is leaves the state. -/
theorem State.updPage_id {s : State} {n : Tenant} {f : TenantPage → TenantPage} (h : f (s.page n) = s.page n) : s.updPage n f = s := by
  have hset : s.tenants.set n (f s.tenants[n]) = s.tenants := by
    rw [show f s.tenants[n] = s.tenants[n] from h]
    exact Vector.set_getElem_self n.isLt
  rw [State.updPage, hset]

theorem State.updRing_congr {s : State} {n : Tenant} {k : RingNo} {f g : Ring → Ring} (h : f (s.ring n k) = g (s.ring n k)) :
    s.updRing n k f = s.updRing n k g :=
  congrArg (fun r => s.updPage n fun p => { p with rings := p.rings.set k r }) h

/-- A command that only updates the page of tenant `n` answers 0 and leaves every other page as it was. -/
theorem next_of_updPage {o : Host.Outcome State Fault Refusal} {s : State} {n : Tenant} {f : TenantPage → TenantPage}
    (h : o = .next ((s.updPage n f).respond 0)) :
    ∃ t, o = .next t ∧ t = { s with rsp := 0, tenants := t.tenants } ∧ (∀ m : Tenant, m ≠ n → t.page m = s.page m) ∧
      t.page n = f (s.page n) :=
  ⟨_, h, rfl, fun _ hm => State.page_updPage_other hm s f, State.page_updPage_same s n f⟩

/-- A command that only updates ring pair `k` of tenant `n` answers 0 and leaves every other ring pair and page as it was. -/
theorem next_of_updRing {o : Host.Outcome State Fault Refusal} {s : State} {n : Tenant} {k : RingNo} {f : Ring → Ring}
    (h : o = .next ((s.updRing n k f).respond 0)) :
    ∃ t, o = .next t ∧ t = { s with rsp := 0, tenants := t.tenants } ∧ (∀ m : Tenant, m ≠ n → t.page m = s.page m) ∧
      t.page n = { s.page n with rings := (t.page n).rings } ∧
      ∀ j : RingNo, t.ring n j = if j = k then f (s.ring n k) else s.ring n j := by
  refine ⟨_, h, rfl, fun _ hm => State.page_updRing_other hm s k f, ?_, fun j => State.ring_updRing s n k j f⟩
  simp only [State.page_respond, State.page_updRing_same]

end Sys2Proof.Machine
end

section
/-! SUPPORT. What the writes of a ring pair's registers do once the port lets them through (03 R115 to R119). -/
namespace Sys2Proof.Machine

/-- The registers of a ring pair lie in the part of the page that USER and OFFICER both write. -/
theorem subOf_ringAt (k : RingNo) {o : Nat} (ho : o < 0x40) : subOf (ringAt k o) = .user := by
  have hk := k.isLt
  have hlt : ringAt k o < 0x300 := by unfold ringAt; omega
  simp [subOf, hlt]

/-- A write of the tenant reaches a register of its ring pair. -/
theorem ringWrite_go {s : State} {i : Ident} {n : Tenant} (h : s.mayWrite i n false) (k : RingNo) {o : Nat} (ho : o < 0x40)
    (eff : State → State) : pageWrite i n (ringAt k o) eff s = (eff s).respond 0 := by
  have hk := k.isLt
  exact pageWrite_go h _ eff (by unfold ringAt; omega) fun _ => subOf_ringAt k ho

section
variable {s : State} {i : Ident} {n : Tenant} (h : s.mayWrite i n false) (k : RingNo) (v : BitVec 32)
include h

theorem exec_ringEnable : exec (.ringEnable i n k v) s = .next ((writeRingCfg n k (v ||| 0x80000000#32) s).respond 0) :=
  congrArg Host.Outcome.next (ringWrite_go h k (by decide) _)

theorem exec_ringDisable : exec (.ringDisable i n k v) s = .next ((writeRingCfg n k (v &&& 0x7FFFFFFF#32) s).respond 0) :=
  congrArg Host.Outcome.next (ringWrite_go h k (by decide) _)

theorem exec_doorbell : exec (.doorbell i n k v) s = .next ((doorbell n k v s).respond 0) :=
  congrArg Host.Outcome.next (ringWrite_go h k (by decide) _)

theorem exec_completionHeadWrite : exec (.completionHeadWrite i n k v) s = .next ((writeCqHead n k v s).respond 0) :=
  congrArg Host.Outcome.next (ringWrite_go h k (by decide) _)

end

/-- A ring pair that takes SIZE and PORT from a word written to TN_RING_CFG_k (03 Table 03-3). -/
def Ring.configured (r : Ring) (v : BitVec 32) : Ring := { r with size := v.extractLsb' 0 4, port := v.extractLsb' 24 2 }

/-- The state once ring pair `k` of tenant `n` is enabled with configuration `r` (03 R116, R125, R160). -/
def State.openRing (s : State) (n : Tenant) (k : RingNo) (r : Ring) : State :=
  (((s.updRing n k fun _ => enabledRing r).updPage n fun p => settleAbort (lapseMarks k p)).updFab (dropReads n k)).updDbg forgetWords

theorem Ring.configured_setEnable (r : Ring) (v : BitVec 32) : r.configured (v ||| 0x80000000#32) = r.configured v := by
  simp [Ring.configured, BitVec.extractLsb'_or]

theorem Ring.configured_clearEnable (r : Ring) (v : BitVec 32) : r.configured (v &&& 0x7FFFFFFF#32) = r.configured v := by
  have hsize : (0x7FFFFFFF#32).extractLsb' 0 4 = BitVec.allOnes 4 := by decide
  have hport : (0x7FFFFFFF#32).extractLsb' 24 2 = BitVec.allOnes 2 := by decide
  simp only [Ring.configured, BitVec.extractLsb'_and, hsize, hport, BitVec.and_allOnes]

theorem bitAt_setEnable (v : BitVec 32) : bitAt (v ||| 0x80000000#32) 31 = true := by
  simp [bitAt]

theorem bitAt_clearEnable (v : BitVec 32) : bitAt (v &&& 0x7FFFFFFF#32) 31 = false := by
  simp [bitAt]

section
variable {s : State} {n : Tenant} {k : RingNo} {v : BitVec 32}

/-- ENABLE written to 1 where it is 1 changes nothing (03 R115). -/
theorem writeRingCfg_enabled (hv : bitAt v 31 = true) (he : (s.ring n k).enable = true) : writeRingCfg n k v s = s := by
  simp [writeRingCfg, hv, he]

/-- While requests are outstanding the ring pair is not enabled (03 R116). -/
theorem writeRingCfg_busy (hv : bitAt v 31 = true) (he : (s.ring n k).enable = false) (ho : (s.ring n k).outstanding ≠ 0) :
    writeRingCfg n k v s = s.updRing n k fun r => { r with cfgErr := 6 } := by
  simp [writeRingCfg, hv, he, Ring.isIdle, ho]

/-- An enable of an idle ring pair: it opens where its configuration passes the tests, and else keeps the configuration with the cause
(03 R116). -/
theorem writeRingCfg_idle (hv : bitAt v 31 = true) (he : (s.ring n k).enable = false) (ho : (s.ring n k).outstanding = 0) :
    writeRingCfg n k v s =
      if enableTest s n ((s.ring n k).configured v) = 0 then
        s.openRing n k ((s.ring n k).configured v)
      else s.updRing n k fun r => { r.configured v with cfgErr := enableTest s n ((s.ring n k).configured v) } := by
  have hidle : (s.ring n k).isIdle = true := by simp [Ring.isIdle, he, ho]
  have hfree : (!(s.ring n k).enable && (s.ring n k).isIdle) = true := by simp [he, hidle]
  have hclosed : ¬ (s.ring n k).enable = true := by simp [he]
  have hnotBusy : ¬ (!(s.ring n k).isIdle) = true := by simp [hidle]
  simp only [writeRingCfg, hv, hfree, if_true]
  rw [if_neg hclosed, if_neg hnotBusy]
  rfl

/-- ENABLE written to 0: an idle ring pair takes its configuration, another keeps it, and the pointers stay (03 R115, R117). -/
theorem writeRingCfg_disable (hv : bitAt v 31 = false) : writeRingCfg n k v s = s.updRing n k fun r =>
    if r.enable = false ∧ r.outstanding = 0 then r.configured v else { r with enable := false } := by
  have hset : ¬ bitAt v 31 = true := by simp [hv]
  simp only [writeRingCfg, if_neg hset]
  refine State.updRing_congr ?_
  by_cases hidle : (s.ring n k).enable = false ∧ (s.ring n k).outstanding = 0
  · have hfree : (!(s.ring n k).enable && (s.ring n k).isIdle) = true := by simp [Ring.isIdle, hidle]
    simp only [hfree, if_true, if_pos hidle]
    have he : (s.ring n k).enable = false := hidle.left
    rw [← he]
    rfl
  · have hkept : ¬ (!(s.ring n k).enable && (s.ring n k).isIdle) = true := by simpa [Ring.isIdle] using hidle
    rw [if_neg hkept, if_neg hidle]

end

theorem enableTest_of_lt {r : Ring} (h : r.size.toNat < 6) (s : State) (n : Tenant) : enableTest s n r = 1 :=
  if_pos (.inl h)

/-- A SIZE in range leaves the windows to decide (03 R116). -/
theorem enableTest_of_le {r : Ring} (h : 6 ≤ r.size.toNat) (s : State) (n : Tenant) :
    enableTest s n r = if ringInWindows s n r then 0 else 2 := by
  have hlt := r.size.isLt
  exact if_neg (by omega)

theorem settleAbort_frame (p : TenantPage) : settleAbort p = { p with abortResult := (settleAbort p).abortResult } := by
  unfold settleAbort
  split <;> rfl

theorem settleAbort_rings (p : TenantPage) : (settleAbort p).rings = p.rings := by rw [settleAbort_frame]

/-- A descriptor read of the ring pair that is still out brings nothing (03 R125). -/
theorem dropped_of_mem_dropReads {n : Tenant} {k : RingNo} {f : Fabric} {b : Burst} {x : BitVec 16}
    (hb : b ∈ (dropReads n k f).bursts) (hk : b.kind = .desc n.val k.val x) : b.dropped = true := by
  obtain ⟨a, -, rfl⟩ := List.mem_map.mp hb
  have ha : a.kind = .desc n.val k.val x := by
    revert hk
    split <;> exact id
  simp [ha]

/-- The block takes no doorbell while its rings stay closed or it is quiesced (15 R543, R552). -/
theorem doorbell_hushed {s : State} (h : hushed s = true) (n : Tenant) (k : RingNo) (v : BitVec 32) : doorbell n k v s = s :=
  if_pos h

/-- The index a doorbell carries, against the ring's size (03 R118, R119). -/
theorem doorbell_open {s : State} (h : hushed s = false) (n : Tenant) (k : RingNo) (v : BitVec 32) :
    doorbell n k v s = s.updRing n k fun r =>
      if r.entries ≤ v.toNat % 65536 then { r with idxErr := true } else
      if r.enable = true then { r with sqTail := v.extractLsb' 0 16 } else r :=
  if_neg (by simp [h])

/-- The index written to TN_CQ_HEAD_k, against the ring's size (03 R119). -/
theorem writeCqHead_eq (s : State) (n : Tenant) (k : RingNo) (v : BitVec 32) :
    writeCqHead n k v s = s.updRing n k fun r =>
      if r.entries ≤ v.toNat % 65536 then { r with idxErr := true } else
      if r.enable = true then { r with cqHead := v.extractLsb' 0 16 } else r := rfl

section
variable (s : State) (n : Tenant) (k : RingNo) (r : Ring)

theorem State.openRing_page_other {m : Tenant} (hm : m ≠ n) : (s.openRing n k r).page m = s.page m := by
  simp only [State.openRing, State.page_updDbg, State.page_updFab, State.page_updPage_other hm, State.page_updRing_other hm]

theorem State.openRing_page : (s.openRing n k r).page n =
    settleAbort (lapseMarks k { s.page n with rings := (s.page n).rings.set k (enabledRing r) }) := by
  simp only [State.openRing, State.page_updDbg, State.page_updFab, State.page_updPage_same, State.page_updRing_same]

theorem State.openRing_page_frame : (s.openRing n k r).page n =
    { s.page n with rings := ((s.openRing n k r).page n).rings, abortMarks := ((s.openRing n k r).page n).abortMarks,
                    abortResult := ((s.openRing n k r).page n).abortResult } := by
  rw [State.openRing_page, settleAbort_frame]
  rfl

theorem State.openRing_ring (j : RingNo) : (s.openRing n k r).ring n j = if j = k then enabledRing r else s.ring n j := by
  rw [State.ring, State.openRing_page, settleAbort_rings]
  exact rings_set (s.page n) k j (enabledRing r)

end

/-- An enable of an idle ring pair, in terms of the tests' result (03 R116). -/
theorem ringEnable_idle {s : State} {i : Ident} {n : Tenant} {k : RingNo} {v : BitVec 32} {r : Ring} (h : s.mayWrite i n false)
    (hr : r = (s.ring n k).configured v) (he : (s.ring n k).enable = false) (ho : (s.ring n k).outstanding = 0) :
    ∃ t, exec (.ringEnable i n k v) s = .next t ∧
      t = { s with rsp := 0, tenants := t.tenants, dbg := t.dbg, fab := { s.fab with bursts := t.fab.bursts } } ∧
      (∀ m : Tenant, m ≠ n → t.page m = s.page m) ∧
      (∀ j : RingNo, j ≠ k → t.ring n j = s.ring n j) ∧
      t.page n = { s.page n with rings := (t.page n).rings, abortMarks := (t.page n).abortMarks,
                                 abortResult := (t.page n).abortResult } ∧
      (enableTest s n r ≠ 0 → t.ring n k = { r with cfgErr := enableTest s n r }) ∧
      (enableTest s n r = 0 → t.ring n k = enabledRing r ∧
        ∀ b ∈ t.fab.bursts, ∀ x, b.kind = .desc n.val k.val x → b.dropped = true) := by
  subst hr
  have hexec := exec_ringEnable h k v
  rw [writeRingCfg_idle (bitAt_setEnable v) he ho, Ring.configured_setEnable] at hexec
  by_cases hp : enableTest s n ((s.ring n k).configured v) = 0
  · rw [if_pos hp] at hexec
    refine ⟨_, hexec, rfl, fun m hm => State.openRing_page_other s n k _ hm, fun j hj => ?_, State.openRing_page_frame s n k _,
      fun hf => absurd hp hf, fun _ => ⟨?_, fun b hb x => dropped_of_mem_dropReads hb⟩⟩
    · rw [State.ring_respond, State.openRing_ring, if_neg hj]
    · rw [State.ring_respond, State.openRing_ring, if_pos rfl]
  · rw [if_neg hp] at hexec
    obtain ⟨t, ht, hframe, hpages, hpage, hrings⟩ := next_of_updRing hexec
    refine ⟨t, ht, ?_, hpages, fun j hj => (hrings j).trans (if_neg hj), ?_, fun _ => ?_, fun hp' => absurd hp' hp⟩
    · rw [hframe]
    · rw [hpage]
    · rw [hrings, if_pos rfl, Ring.configured_setEnable]

/-- Settles O41: each write of TN_RING_CFG_k is one of the cases of its equations, and the tests give the cause. -/
theorem ringsOpenAndClose : Obligations.RingsOpenAndClose := by
  unfold Obligations.RingsOpenAndClose
  intro s i n k v r h hr
  have hr' : r = (s.ring n k).configured v := hr
  refine ⟨fun he ho => ?_, fun he ho => ?_, fun he => ?_, ?_⟩
  · obtain ⟨t, ht, hframe, hpages, hrings, hpage, hfailed, hpassed⟩ := ringEnable_idle h hr' he ho
    refine ⟨t, ht, hframe, hpages, hrings, hpage, fun hsize => ?_, fun hsize hwin => ?_, fun hsize hwin => ?_⟩
    · rw [enableTest_of_lt hsize] at hfailed
      exact hfailed (by decide)
    · rw [enableTest_of_le hsize, hwin] at hfailed
      exact hfailed (by decide)
    · rw [enableTest_of_le hsize, hwin] at hpassed
      exact hpassed rfl
  · have hexec := exec_ringEnable h k v
    rw [writeRingCfg_busy (bitAt_setEnable v) he ho] at hexec
    exact next_of_updRing hexec
  · rw [exec_ringEnable h k v, writeRingCfg_enabled (bitAt_setEnable v) he]
    rfl
  · have hexec := exec_ringDisable h k v
    rw [writeRingCfg_disable (bitAt_clearEnable v)] at hexec
    simpa only [ne_eq, ite_not, Ring.configured_clearEnable, ← hr'] using next_of_updRing hexec

/-- Settles O42: each index write is one update of its ring pair, by the cases of the index and of ENABLE. -/
theorem ringIndicesMove : Obligations.RingIndicesMove := by
  unfold Obligations.RingIndicesMove
  intro s i n k v h
  refine ⟨fun hhush => ?_, fun hopen => ?_, ?_⟩
  · rw [exec_doorbell h k v, doorbell_hushed hhush]
    rfl
  · have hexec := exec_doorbell h k v
    rw [doorbell_open hopen] at hexec
    simpa only [ne_eq, ite_not] using next_of_updRing hexec
  · have hexec := exec_completionHeadWrite h k v
    rw [writeCqHead_eq] at hexec
    simpa only [ne_eq, ite_not] using next_of_updRing hexec

end Sys2Proof.Machine
end

section
/-! SUPPORT. What writes into the inline FIFO do to the page (03 R144, R148 to R150). -/
namespace Sys2Proof.Machine

section
variable {s : State} {i : Ident} {n : Tenant} (h : s.mayWrite i n false)
include h

theorem exec_fifoData (v : BitVec 64) :
    exec (.fifoData i n v) s = .next ((s.updPage n (fifoWrite (leBytes 8 v.toNat) false)).respond 0) :=
  congrArg Host.Outcome.next (fifoWrite_go h _ _)

theorem exec_fifoLast (c : Fin 8) (v : BitVec 64) :
    exec (.fifoLast i n c v) s = .next ((s.updPage n (fifoWrite (leBytes (c.val + 1) v.toNat) true)).respond 0) :=
  congrArg Host.Outcome.next (fifoWrite_go h _ _)

theorem exec_flush (w : BitVec 32) : exec (.flush i n w) s = .next ((writeFifoCtrl n (w ||| 0x80000000#32) s).respond 0) :=
  congrArg Host.Outcome.next (pageWrite_go h _ _ (by decide) fun _ => by decide)

end

/-- The level check changes LEVEL_HIT and the completion source alone (03 R150). -/
theorem levelCheck_frame (before : Nat) (p : TenantPage) :
    levelCheck before p = { p with levelHit := (levelCheck before p).levelHit, intStatus := (levelCheck before p).intStatus } := by
  unfold levelCheck
  dsimp only
  split <;> rfl

@[simp] theorem levelCheck_fill (before : Nat) (p : TenantPage) : (levelCheck before p).fill = p.fill := by
  rw [levelCheck_frame]
  rfl

section
variable {before : Nat} {p : TenantPage}

/-- The fill has risen to LEVEL (03 R150). -/
theorem levelCheck_hit (h1 : 1 ≤ p.fifoLevel.toNat) (h32 : p.fifoLevel.toNat ≤ 32) (hb : before + 1 = p.fifoLevel.toNat)
    (hf : p.fill = p.fifoLevel.toNat) : levelCheck before p = { p with levelHit := true, intStatus := p.intStatus ||| 1 } :=
  if_pos ⟨h1, h32, hb, hf⟩

/-- The fill has not risen to LEVEL (03 R150). -/
theorem levelCheck_miss (h : before + 1 ≠ p.fifoLevel.toNat ∨ p.fill ≠ p.fifoLevel.toNat) : levelCheck before p = p := by
  refine if_neg fun ⟨_, _, hb, hf⟩ => ?_
  obtain h | h := h
  · exact h hb
  · exact h hf

end

/-- A page whose FIFO holds `b` in addition, at the end of the item being written (03 R144). -/
def TenantPage.addBytes (p : TenantPage) (b : Bytes) : TenantPage :=
  { p with fifoPart := p.fifoPart ++ b, fifoPartSym := formedSym p.fifoPart p.fifoPartSym b false }

/-- A page whose FIFO holds `b` in addition, which ends the item being written (03 R144). -/
def TenantPage.endItem (p : TenantPage) (b : Bytes) : TenantPage :=
  { p with fifoItems := p.fifoItems ++ [p.fifoPart ++ b], fifoPart := [], fifoPartSym := [],
           fifoSym := p.fifoSym ++ [formedSym p.fifoPart p.fifoPartSym b true] }

section
variable {p : TenantPage} (b : Bytes)

/-- The rest of an item that has lost a write is discarded, and its last write ends that (03 R148). -/
theorem fifoWrite_discards (hd : p.fifoDrop = true) (last : Bool) : fifoWrite b last p = { p with fifoDrop := !last } :=
  if_pos hd

/-- A write that needs a wide word of a full FIFO drops its item (03 R148). -/
theorem fifoWrite_full (hd : p.fifoDrop = false) (hw : p.fifoPart.length % 64 = 0) (hf : 32 ≤ p.fill) (last : Bool) :
    fifoWrite b last p = { p with overflow := true, fifoPart := [], fifoPartSym := [], fifoDrop := !last } := by
  rw [fifoWrite, if_neg (by simp [hd]), if_pos ⟨hw, hf⟩]

/-- A write that has a wide word adds its bytes (03 R144). -/
theorem fifoWrite_adds (hd : p.fifoDrop = false) (hr : p.fifoPart.length % 64 ≠ 0 ∨ p.fill < 32) :
    fifoWrite b false p = levelCheck p.fill (p.addBytes b) := by
  rw [fifoWrite, if_neg (by simp [hd]), if_neg (by omega)]
  rfl

/-- The last write of an item that has a wide word adds its bytes and ends the item (03 R144). -/
theorem fifoWrite_ends (hd : p.fifoDrop = false) (hr : p.fifoPart.length % 64 ≠ 0 ∨ p.fill < 32) :
    fifoWrite b true p = levelCheck p.fill (p.endItem b) := by
  rw [fifoWrite, if_neg (by simp [hd]), if_neg (by omega)]
  rfl

end

theorem writeFifoCtrl_flush (n : Tenant) (w : BitVec 32) (s : State) : writeFifoCtrl n (w ||| 0x80000000#32) s =
    s.updPage n fun p => fifoFlush { p with fifoLevel := w.extractLsb' 0 6 } := by
  have hlevel : (w ||| 0x80000000#32).extractLsb' 0 6 = w.extractLsb' 0 6 := by simp [BitVec.extractLsb'_or]
  simp only [writeFifoCtrl, bitAt_setEnable, if_true, hlevel]

/-- Settles O43: a write into the FIFO discards, drops or adds, by the cases of its equations; the level check comes after. -/
theorem fifoTakesItems : Obligations.FifoTakesItems := by
  unfold Obligations.FifoTakesItems
  rintro s i n v p h rfl
  refine ⟨fun hd hroom => ⟨?_, fun c => ?_⟩, fun hd hw hfull => ⟨?_, fun c => ?_⟩, fun hd => ⟨?_, fun c => ?_⟩, fun w => ?_⟩
  · obtain ⟨t, ht, hframe, hpages, hpage⟩ := next_of_updPage (exec_fifoData h v)
    rw [fifoWrite_adds _ hd hroom] at hpage
    have hfill : (t.page n).fill = ((s.page n).addBytes (leBytes 8 v.toNat)).fill := by rw [hpage, levelCheck_fill]
    refine ⟨t, ht, hframe, hpages, ?_, fun h1 h32 hb hf => ?_, fun hmiss => ?_⟩
    · rw [hpage]
      exact levelCheck_frame _ _
    · rw [hpage, levelCheck_hit (p := (s.page n).addBytes _) h1 h32 hb (hfill.symm.trans hf)]
      exact ⟨rfl, rfl⟩
    · rw [hfill] at hmiss
      rw [hpage, levelCheck_miss hmiss]
      exact ⟨rfl, rfl⟩
  · obtain ⟨t, ht, hframe, hpages, hpage⟩ := next_of_updPage (exec_fifoLast h c v)
    rw [fifoWrite_ends _ hd hroom] at hpage
    refine ⟨t, ht, hframe, hpages, ?_⟩
    rw [hpage]
    exact levelCheck_frame _ _
  · obtain ⟨t, ht, -, -, hpage⟩ := next_of_updPage (exec_fifoData h v)
    exact ⟨t, ht, hpage.trans (fifoWrite_full _ hd hw hfull false)⟩
  · obtain ⟨t, ht, -, -, hpage⟩ := next_of_updPage (exec_fifoLast h c v)
    refine ⟨t, ht, hpage.trans ((fifoWrite_full _ hd hw hfull true).trans ?_)⟩
    rw [Bool.not_true, hd]
  · rw [exec_fifoData h v, State.updPage_id]
    · rfl
    · rw [fifoWrite_discards _ hd, Bool.not_false, ← hd]
  · obtain ⟨t, ht, hframe, -, hpage⟩ := next_of_updPage (exec_fifoLast h c v)
    exact ⟨t, ht, hframe, hpage.trans (fifoWrite_discards _ hd true)⟩
  · have hexec := exec_flush h w
    rw [writeFifoCtrl_flush] at hexec
    exact next_of_updPage hexec

end Sys2Proof.Machine
end

section
/-! SUPPORT. The answers of the management lock, and what the arbiter serves in one DCLK cycle (11 R450 to R454). -/
namespace Sys2Proof.Machine

section
variable (k : Nat) (src : Bool) (i : Ident)

theorem lockWord_outcome : (lockWord k src i).extractLsb' 30 2 = BitVec.ofNat 2 k := by
  have hsrc : (placeB src 12).extractLsb' 30 2 = 0 := by cases src <;> decide
  have hident : (i.zeroExtend 64).extractLsb' 30 2 = 0 := by
    ext j hj
    simpa using fun _ => i.getLsbD_of_ge (30 + j) (by omega)
  have hplace : (place k 30).extractLsb' 30 2 = BitVec.ofNat 2 k := by
    ext j hj
    simp [place, show 30 + j < 64 by omega, ← BitVec.getLsbD_eq_getElem, BitVec.getLsbD_ofNat, hj,
      show j < 64 by omega]
  simp [lockWord, BitVec.extractLsb'_or, hsrc, hident, hplace]

theorem lockWord_holder : (lockWord k src i).extractLsb' 0 12 = i := by
  have hsrc : (placeB src 12).extractLsb' 0 12 = 0 := by cases src <;> decide
  have hident : (i.zeroExtend 64).extractLsb' 0 12 = i := by
    ext j hj
    simp [show j < 64 by omega, BitVec.getLsbD_eq_getElem hj]
  have hplace : (place k 30).extractLsb' 0 12 = 0 := by
    ext j hj
    simp [place, show ¬ 30 ≤ j by omega]
  simp [lockWord, BitVec.extractLsb'_or, hsrc, hident, hplace]

theorem lockWord_src : (lockWord k src i).getLsbD 12 = src := by
  cases src <;> simp [lockWord, placeB, place]

end

/-- The management page once an identity has acquired the lock, its lease restarted (11 R450). -/
def Mgmt.granted (m : Mgmt) (src : Bool) (i : Ident) : Mgmt := { m with held := true, src := src, holder := i, remain := leaseOf m }

/-- The state once an identity has acquired the lock. -/
def State.grantLock (s : State) (src : Bool) (i : Ident) : State := { s with mgmt := s.mgmt.granted src i }

section
variable {m : Mgmt} {src : Bool} {i : Ident}

/-- A free lock is acquired, and the holder renews its own (11 R450). -/
theorem acquireLock_granted (h : m.held = false ∨ (m.src = src ∧ m.holder = i)) :
    acquireLock src i m = (m.granted src i, lockWord 1 src i) := by
  refine if_pos ?_
  simpa using h

/-- Another learns who holds the lock (11 R450). -/
theorem acquireLock_refused (hh : m.held = true) (h : m.src ≠ src ∨ m.holder ≠ i) :
    acquireLock src i m = (m, lockWord 2 m.src m.holder) := by
  have hother : ¬ (m.src = src ∧ m.holder = i) := fun ⟨hsrc, hholder⟩ => h.elim (· hsrc) (· hholder)
  refine if_neg ?_
  simpa only [hh, Bool.not_true, Bool.false_or, Bool.and_eq_true, beq_iff_eq] using hother

/-- The holder's write of its identity frees the lock, and no other write does (11 R451). -/
theorem releaseLock_eq (v : BitVec 32) : releaseLock i v m =
    if m.held = true ∧ m.src = false ∧ m.holder = i ∧ v.extractLsb' 0 12 = i then freeLock m else m := by
  simp [releaseLock, and_assoc]

end

section
variable {s : State} {i : Ident} (hp : s.portOpen) (hr : s.roleOf i = 3)
include hp hr

/-- A read of TRH_MGMT_LOCK by a HOST_ADMIN reaches the lock (11 R434, R450). -/
theorem readLock_open : readLock i s =
    { s with rsp := (acquireLock false i s.mgmt).2, mgmt := (acquireLock false i s.mgmt).1 } := by
  simp [readLock, verdict, portOpen_shut hp, permitted, hr]
  rfl

/-- The read of TRH_MGMT_LOCK by a HOST_ADMIN that finds the lock free, or its own (11 R450). -/
theorem exec_lockAcquire_granted (hgrant : s.mgmt.held = false ∨ (s.mgmt.src = false ∧ s.mgmt.holder = i)) :
    exec (.lockAcquire i) s = .next ((s.grantLock false i).respond (lockWord 1 false i)) := by
  refine congrArg Host.Outcome.next ?_
  rw [readLock_open hp hr, acquireLock_granted hgrant]
  rfl

/-- The read of TRH_MGMT_LOCK by a HOST_ADMIN while another holds the lock (11 R450). -/
theorem exec_lockAcquire_refused (hheld : s.mgmt.held = true) (hother : s.mgmt.src ≠ false ∨ s.mgmt.holder ≠ i) :
    exec (.lockAcquire i) s = .next (s.respond (lockWord 2 s.mgmt.src s.mgmt.holder)) := by
  refine congrArg Host.Outcome.next ?_
  rw [readLock_open hp hr, acquireLock_refused hheld hother]
  rfl

/-- A write of TRH_MGMT_LOCK by a HOST_ADMIN reaches the lock, whoever holds it (11 R434, R451, R455). -/
theorem exec_lockRelease (v : BitVec 32) :
    exec (.lockRelease i v) s = .next { s with rsp := 0, mgmt := releaseLock i v s.mgmt } := by
  have hgo : verdict s i .mgmt true true = .go := by simp [verdict, portOpen_shut hp, permitted, hr]
  simp only [exec, execLockRelease, gateWrite, hgo]
  rfl

end

/-! ### Requesters of the lock: the register port is number 0, control processor `q` is number `q + 1` (11 R454) -/

/-- The requesters that ask in the cycle of a processor's request. -/
def lockAskers (p : Fin 3) (ask : LockAsk) : List Nat :=
  (ask.port.map fun _ => 0).toList ++ (p :: ask.others).map fun q => q.val + 1

/-- The identity with which a requester asks. -/
def askIdent (ask : LockAsk) (n : Nat) : Ident := if n = 0 then ask.port.getD 0 else BitVec.ofNat 12 (0xEFF + n)

/-- A processor that is given an answer of the arbiter. -/
def Proc.told (x : Proc) : Option (BitVec 64) → Proc
  | none => x
  | some w => { x with lockAns := w }

/-- The state once each requester has the answer that `word` gives it. -/
def State.tellLock (s : State) (word : Nat → Option (BitVec 64)) : State :=
  { s with rsp := (word 0).getD s.rsp, procs := Vector.ofFn fun q => s.procs[q].told (word (q.val + 1)) }

theorem Proc.told_told (x : Proc) (a b : Option (BitVec 64)) : (x.told a).told b = x.told (b.or a) := by
  cases a <;> cases b <;> rfl

theorem State.tellLock_procs (s : State) (word : Nat → Option (BitVec 64)) (q : Fin 3) :
    (s.tellLock word).procs[q] = s.procs[q].told (word (q.val + 1)) := by
  simp [State.tellLock]

theorem State.tellLock_tellLock (s : State) (f g : Nat → Option (BitVec 64)) :
    (s.tellLock f).tellLock g = s.tellLock fun k => (g k).or (f k) := by
  have hrsp : (g 0).getD ((f 0).getD s.rsp) = ((g 0).or (f 0)).getD s.rsp := by cases g 0 <;> rfl
  simp only [State.tellLock, hrsp, Fin.getElem_fin, Vector.getElem_ofFn, Proc.told_told]

theorem State.tellLock_none (s : State) : (s.tellLock fun _ => none) = s := by
  simp [State.tellLock, Proc.told]

/-- The port is given no answer. -/
theorem State.tellLock_of_none {s : State} {word : Nat → Option (BitVec 64)} (h : word 0 = none) :
    s.tellLock word = { s with procs := (s.tellLock word).procs } := by
  simp [State.tellLock, h]

/-! ### What the arbiter serves -/

theorem mem_lockAskers_port {ask : LockAsk} {p : Fin 3} : 0 ∈ lockAskers p ask ↔ ask.port.isSome = true := by
  cases h : ask.port <;> simp [lockAskers, h]

theorem mem_lockAskers_proc {ask : LockAsk} {p q : Fin 3} : q.val + 1 ∈ lockAskers p ask ↔ q ∈ p :: ask.others := by
  cases h : ask.port <;> simp [lockAskers, h, Fin.val_inj, eq_comm]

theorem lt_of_mem_lockAskers {p : Fin 3} {ask : LockAsk} {n : Nat} (h : n ∈ lockAskers p ask) : n < 4 := by
  simp only [lockAskers, List.mem_append, List.mem_map, Option.mem_toList, Option.map_eq_some_iff] at h
  obtain ⟨_, -, rfl⟩ | ⟨q, -, rfl⟩ := h
  · decide
  · omega

theorem askIdent_proc (ask : LockAsk) (q : Fin 3) : askIdent ask (q.val + 1) = procIdent q := by
  simp [askIdent, procIdent, Nat.add_comm]

/-- Every requester in the arbiter's order is the port or a processor. -/
theorem requester_cases {n : Nat} (h : n < 4) : n = 0 ∨ ∃ q : Fin 3, n = q.val + 1 := by
  rcases n with _ | n
  · exact .inl rfl
  · exact .inr ⟨⟨n, by omega⟩, rfl⟩

/-- The answers of one turn of the arbiter: `w` for requester `n`, and none for the others. -/
def onlyAnswer (n : Nat) (w : BitVec 64) : Nat → Option (BitVec 64) := fun k => if k = n then some w else none

theorem tellLock_port (s : State) (w : BitVec 64) : s.tellLock (onlyAnswer 0 w) = { s with rsp := w } := by
  simp [State.tellLock, onlyAnswer, Proc.told]

theorem tellLock_proc (s : State) (q : Fin 3) (w : BitVec 64) :
    s.tellLock (onlyAnswer (q.val + 1) w) = s.updProc q fun x => { x with lockAns := w } := by
  have hprocs : (Vector.ofFn fun k : Fin 3 => s.procs[k].told (onlyAnswer (q.val + 1) w (k.val + 1))) =
      s.procs.set q { s.procs[q] with lockAns := w } := by
    ext j hj
    by_cases h : j = q.val
    · subst h
      simp [onlyAnswer, Proc.told]
    · simp [onlyAnswer, Proc.told, h, Ne.symm h]
  simp only [State.tellLock, hprocs]
  rfl

theorem lockProcessor_acquires (q : Fin 3) (s : State) : lockProcessor q false s =
    { s with mgmt := (acquireLock true (procIdent q) s.mgmt).1 }.tellLock
      (onlyAnswer (q.val + 1) (acquireLock true (procIdent q) s.mgmt).2) := by
  rw [tellLock_proc]
  rfl

/-- A requester that does not ask is passed over. -/
theorem serveLock_idle {p : Fin 3} {ask : LockAsk} {n : Nat} (hn : n < 4) (h : n ∉ lockAskers p ask) (s : State) :
    serveLock p ask n s = s := by
  obtain rfl | ⟨q, rfl⟩ := requester_cases hn
  · have hport : ask.port = none := by simpa [mem_lockAskers_port] using h
    simp [serveLock, hport]
  · obtain ⟨hp, ho⟩ : q ≠ p ∧ q ∉ ask.others := by simpa [mem_lockAskers_proc] using h
    simp [serveLock, Nat.mod_eq_of_lt q.isLt, hp, ho]

/-- The arbiter serves requester `n`, which asks for the lock: it acquires the lock, or learns who holds it. -/
theorem serveLock_asks {p : Fin 3} {ask : LockAsk} {n : Nat} {s : State} (h : n ∈ lockAskers p ask)
    (hrel : ask.release = false) (hport : ∀ i ∈ ask.port, s.portOpen ∧ s.roleOf i = 3) :
    serveLock p ask n s = { s with mgmt := (acquireLock (n ≠ 0) (askIdent ask n) s.mgmt).1 }.tellLock
      (onlyAnswer n (acquireLock (n ≠ 0) (askIdent ask n) s.mgmt).2) := by
  obtain rfl | ⟨q, rfl⟩ := requester_cases (lt_of_mem_lockAskers h)
  · obtain ⟨i, hi⟩ := Option.isSome_iff_exists.mp (mem_lockAskers_port.mp h)
    obtain ⟨hopen, hrole⟩ := hport i hi
    rw [tellLock_port]
    simp [serveLock, hi, readLock_open hopen hrole, askIdent]
  · have hasks : q = p ∨ q ∈ ask.others := by simpa [mem_lockAskers_proc] using h
    have hserve : serveLock p ask (q.val + 1) s = lockProcessor q false s := by
      by_cases hq : q = p
      · subst hq
        simp [serveLock, Nat.mod_eq_of_lt q.isLt, hrel]
      · simp [serveLock, Nat.mod_eq_of_lt q.isLt, hq, hasks.resolve_left hq]
    rw [hserve, lockProcessor_acquires, askIdent_proc]
    rfl

theorem foldl_serveLock_idle {p : Fin 3} {ask : LockAsk} {l : List Nat} (hl : ∀ n ∈ l, n < 4 ∧ n ∉ lockAskers p ask) (s : State) :
    l.foldl (fun s n => serveLock p ask n s) s = s := by
  induction l with
  | nil => rfl
  | cons n l ih =>
    obtain ⟨hn, hidle⟩ := hl n List.mem_cons_self
    rw [List.foldl_cons, serveLock_idle hn hidle]
    exact ih fun k hk => hl k (List.mem_cons_of_mem n hk)

/-- Two requesters differ in SRC or in their identity. -/
theorem requester_ne {n k : Nat} (hn : n < 4) (hk : k < 4) (h : k ≠ n) (ask : LockAsk) :
    decide (n ≠ 0) ≠ decide (k ≠ 0) ∨ askIdent ask n ≠ askIdent ask k := by
  by_cases hsrc : n = 0 ∨ k = 0
  · exact .inl (by obtain rfl | rfl := hsrc <;> simp [h, Ne.symm h])
  · obtain ⟨hn0, hk0⟩ := not_or.mp hsrc
    refine .inr fun he => h ?_
    have he' : (0xEFF + n) % 4096 = (0xEFF + k) % 4096 := by
      simpa [askIdent, hn0, hk0, ← BitVec.toNat_inj] using he
    omega

section
variable {p : Fin 3} {ask : LockAsk} {n : Nat} {s : State}

/-- Requester `n` holds the lock with the identity it asks with. -/
def heldBy (ask : LockAsk) (n : Nat) (m : Mgmt) : Prop := m.held = true ∧ m.src = decide (n ≠ 0) ∧ m.holder = askIdent ask n

/-- A requester that finds the lock free acquires it (11 R454). -/
theorem serveLock_free (hn : n ∈ lockAskers p ask) (hrel : ask.release = false)
    (hport : ∀ i ∈ ask.port, s.portOpen ∧ s.roleOf i = 3) (hfree : s.mgmt.held = false) :
    serveLock p ask n s = (s.grantLock (n ≠ 0) (askIdent ask n)).tellLock
      (onlyAnswer n (lockWord 1 (n ≠ 0) (askIdent ask n))) := by
  rw [serveLock_asks hn hrel hport, acquireLock_granted (.inl hfree), State.grantLock]

/-- A requester that finds the lock with another learns so (11 R454). -/
theorem serveLock_held {k : Nat} (hk : k ∈ lockAskers p ask) (hrel : ask.release = false)
    (hport : ∀ i ∈ ask.port, s.portOpen ∧ s.roleOf i = 3) (hheld : heldBy ask n s.mgmt) (hn : n < 4) (hkn : k ≠ n) :
    serveLock p ask k s = s.tellLock (onlyAnswer k (lockWord 2 (n ≠ 0) (askIdent ask n))) := by
  obtain ⟨hh, hsrc, hholder⟩ := hheld
  have hother : s.mgmt.src ≠ decide (k ≠ 0) ∨ s.mgmt.holder ≠ askIdent ask k := by
    rw [hsrc, hholder]
    exact requester_ne hn (lt_of_mem_lockAskers hk) hkn ask
  rw [serveLock_asks hk hrel hport, acquireLock_refused hh hother, hsrc, hholder]

/-- Once requester `n` holds the lock, each other that asks learns so (11 R454). -/
theorem foldl_serveLock_held (hn : n < 4) (hrel : ask.release = false) {l : List Nat}
    (hport : ∀ i ∈ ask.port, s.portOpen ∧ s.roleOf i = 3) (hheld : heldBy ask n s.mgmt) (hl : ∀ k ∈ l, k < 4 ∧ k ≠ n) :
    l.foldl (fun s n => serveLock p ask n s) s = s.tellLock fun k =>
      if k ∈ l ∧ k ∈ lockAskers p ask then some (lockWord 2 (n ≠ 0) (askIdent ask n)) else none := by
  induction l generalizing s with
  | nil => simp [State.tellLock_none]
  | cons k l ih =>
    obtain ⟨hk, hkn⟩ := hl k List.mem_cons_self
    have hrest := fun j hj => hl j (List.mem_cons_of_mem k hj)
    rw [List.foldl_cons]
    by_cases hasks : k ∈ lockAskers p ask
    · rw [serveLock_held hasks hrel hport hheld hn hkn, ih (s := s.tellLock _) hport hheld hrest, State.tellLock_tellLock]
      congr 1
      funext j
      by_cases hj : j = k
      · by_cases hl : k ∈ l <;> simp [hj, hasks, hl, onlyAnswer]
      · simp [hj, onlyAnswer]
    · rw [serveLock_idle hk hasks, ih hport hheld hrest]
      congr 1
      funext j
      by_cases hj : j = k
      · simp [hj, hasks]
      · simp [hj]

end

theorem mem_lockOrder {t n : Nat} : n ∈ lockOrder t ↔ n < 4 := by
  simp only [lockOrder, List.mem_map, List.mem_range]
  constructor
  · rintro ⟨k, -, rfl⟩
    exact Nat.mod_lt _ (by decide)
  · intro hn
    exact ⟨(n + 4 - t % 4) % 4, Nat.mod_lt _ (by decide), by omega⟩

theorem lockOrder_nodup (t : Nat) : (lockOrder t).Nodup := by
  refine List.pairwise_map.mpr (List.nodup_range.imp_of_mem fun {a b} ha hb hne h => hne ?_)
  have ha4 : a < 4 := List.mem_range.mp ha
  have hb4 : b < 4 := List.mem_range.mp hb
  omega

/-- The requesters before and after one in the arbiter's order are the others. -/
theorem mem_lockOrder_split {t n k : Nat} {before after : List Nat} (h : lockOrder t = before ++ n :: after) :
    (k ∈ before ∨ k ∈ after) ↔ k < 4 ∧ k ≠ n := by
  have hnodup : (before ++ n :: after).Nodup := h ▸ lockOrder_nodup t
  obtain ⟨-, hrest, hapart⟩ := List.nodup_append.mp hnodup
  have hbefore : n ∉ before := fun hb => hapart n hb n List.mem_cons_self rfl
  have hafter : n ∉ after := (List.nodup_cons.mp hrest).left
  have hmem : k < 4 ↔ k ∈ before ++ n :: after := h ▸ mem_lockOrder.symm
  rw [hmem]
  by_cases hk : k = n
  · simp [hk, hbefore, hafter]
  · simp [hk]

/-- The answers where requester `n` gets the lock: its own grant, and word of it for each other that asks (11 R454). -/
def lockAnswers (p : Fin 3) (ask : LockAsk) (n : Nat) : Nat → Option (BitVec 64) := fun k =>
  if k ∈ lockAskers p ask then some (lockWord (if k = n then 1 else 2) (n ≠ 0) (askIdent ask n)) else none

/-- Of those that ask for a free lock in one cycle the first in the arbiter's order holds it, and each other learns so (11 R454). -/
theorem exec_processorLockRequest_free {p : Fin 3} {ask : LockAsk} {n : Nat} {s : State} (hrel : ask.release = false)
    (hport : ∀ i ∈ ask.port, s.portOpen ∧ s.roleOf i = 3) (hfree : s.mgmt.held = false)
    (hfirst : (lockOrder s.now).find? (fun n => n ∈ lockAskers p ask) = some n) :
    exec (.processorLockRequest p ask) s =
      .next ((s.grantLock (n ≠ 0) (askIdent ask n)).tellLock (lockAnswers p ask n)) := by
  obtain ⟨hasks, before, after, horder, hbefore⟩ := List.find?_eq_some_iff_append.mp hfirst
  have hn : n ∈ lockAskers p ask := of_decide_eq_true hasks
  have hn4 : n < 4 := lt_of_mem_lockAskers hn
  have hsplit := fun k => mem_lockOrder_split (k := k) horder
  have hidle : ∀ k ∈ before, k < 4 ∧ k ∉ lockAskers p ask := fun k hk =>
    ⟨((hsplit k).mp (.inl hk)).left, by simpa using hbefore k hk⟩
  have hlater : ∀ k, k ∈ lockAskers p ask → (k ∈ after ↔ k ≠ n) := fun k hk => by
    have hnot : k ∉ before := fun hb => (hidle k hb).right hk
    simpa [hnot, lt_of_mem_lockAskers hk] using hsplit k
  have htold := foldl_serveLock_held (p := p)
    (s := (s.grantLock (n ≠ 0) (askIdent ask n)).tellLock (onlyAnswer n (lockWord 1 (n ≠ 0) (askIdent ask n))))
    hn4 hrel hport ⟨rfl, rfl, rfl⟩ fun k hk => (hsplit k).mp (.inr hk)
  refine congrArg Host.Outcome.next ?_
  rw [horder, List.foldl_append, foldl_serveLock_idle hidle, List.foldl_cons, serveLock_free hn hrel hport hfree, htold,
    State.tellLock_tellLock]
  congr 1
  funext k
  by_cases hk : k ∈ lockAskers p ask
  · by_cases hkn : k = n
    · have hnot : k ∉ after := by simpa [hkn] using hlater k hk
      simp [lockAnswers, onlyAnswer, hkn ▸ hnot, hkn, hn]
    · simp [lockAnswers, hk, hlater k hk, hkn]
  · have hkn : k ≠ n := fun he => hk (he ▸ hn)
    simp [lockAnswers, onlyAnswer, hk, hkn]

/-- A processor that is alone in its cycle is served once (11 R454). -/
theorem exec_processorLockRequest_alone (p : Fin 3) (release : Bool) (s : State) :
    exec (.processorLockRequest p ⟨release, [], none⟩) s = .next (lockProcessor p release s) := by
  obtain ⟨before, after, horder⟩ := List.append_of_mem (mem_lockOrder (t := s.now) (n := p.val + 1) |>.mpr (by omega))
  have hidle : ∀ k, k ∈ before ∨ k ∈ after → k < 4 ∧ k ∉ lockAskers p ⟨release, [], none⟩ := fun k hk => by
    obtain ⟨hk4, hkp⟩ := (mem_lockOrder_split horder).mp hk
    exact ⟨hk4, by simpa [lockAskers] using hkp⟩
  refine congrArg Host.Outcome.next ?_
  rw [horder, List.foldl_append, foldl_serveLock_idle fun k hk => hidle k (.inl hk), List.foldl_cons,
    foldl_serveLock_idle fun k hk => hidle k (.inr hk)]
  simp [serveLock, Nat.mod_eq_of_lt p.isLt]

section
variable {s : State} {p : Fin 3}

/-- A processor that finds the lock free, or its own (11 R450). -/
theorem exec_processorLockRequest_granted (hgrant : s.mgmt.held = false ∨ (s.mgmt.src = true ∧ s.mgmt.holder = procIdent p)) :
    exec (.processorLockRequest p ⟨false, [], none⟩) s = .next ((s.grantLock true (procIdent p)).updProc p fun x =>
      { x with lockAns := lockWord 1 true (procIdent p) }) := by
  rw [exec_processorLockRequest_alone, lockProcessor_acquires, acquireLock_granted hgrant, tellLock_proc]
  rfl

/-- A processor that finds the lock with another (11 R450). -/
theorem exec_processorLockRequest_refused (hheld : s.mgmt.held = true) (hother : s.mgmt.src ≠ true ∨ s.mgmt.holder ≠ procIdent p) :
    exec (.processorLockRequest p ⟨false, [], none⟩) s = .next (s.updProc p fun x =>
      { x with lockAns := lockWord 2 s.mgmt.src s.mgmt.holder }) := by
  rw [exec_processorLockRequest_alone, lockProcessor_acquires, acquireLock_refused hheld hother, tellLock_proc]

/-- A processor frees the lock it holds, and no other (11 R451). -/
theorem exec_processorLockRequest_release : exec (.processorLockRequest p ⟨true, [], none⟩) s = .next
    (if s.mgmt.held = true ∧ s.mgmt.src = true ∧ s.mgmt.holder = procIdent p then s.updMgmt freeLock else s) := by
  rw [exec_processorLockRequest_alone]
  simp [lockProcessor, and_assoc]

end

/-- A lease that has run out frees the lock, counted and asserted (11 R452). -/
theorem exec_leaseExpiry {s : State} (hh : s.mgmt.held = true) (h0 : s.mgmt.remain = 0) :
    exec .leaseExpiry s = .next (assertBlk 17 (s.updMgmt fun m => { freeLock m with expired := satInc 0xFFFF m.expired })) := by
  simp [exec, execLeaseExpiry, hh, h0, ok]

/-! ### What the answers say -/

section
variable {p : Fin 3} {ask : LockAsk} {n : Nat}

/-- What a requester that asks reads in the answer it gets where requester `n` gets the lock (11 Table 11-22). -/
def answerNames (ask : LockAsk) (n k : Nat) (w : BitVec 64) : Prop :=
  w.extractLsb' 30 2 = (if k = n then 1#2 else 2#2) ∧ w.extractLsb' 0 12 = askIdent ask n ∧ w.getLsbD 12 = decide (n ≠ 0)

theorem lockAnswers_names {k : Nat} (hk : k ∈ lockAskers p ask) : ∃ w, lockAnswers p ask n k = some w ∧ answerNames ask n k w := by
  refine ⟨_, if_pos hk, ?_, lockWord_holder _ _ _, lockWord_src _ _ _⟩
  rw [lockWord_outcome]
  split <;> rfl

theorem lockAnswers_none {k : Nat} (hk : k ∉ lockAskers p ask) : lockAnswers p ask n k = none := if_neg hk

/-- A processor that does not ask keeps the answer it had. -/
theorem tellLock_procs_idle (s : State) {q : Fin 3} (hq : q ∉ p :: ask.others) :
    (s.tellLock (lockAnswers p ask n)).procs[q] = s.procs[q] := by
  rw [State.tellLock_procs, lockAnswers_none fun h => hq (mem_lockAskers_proc.mp h)]
  rfl

/-- A processor that asks receives its answer, and nothing else of it changes. -/
theorem tellLock_procs_asks (s : State) {q : Fin 3} (hq : q ∈ p :: ask.others) :
    (s.tellLock (lockAnswers p ask n)).procs[q] =
        { s.procs[q] with lockAns := ((s.tellLock (lockAnswers p ask n)).procs[q]).lockAns } ∧
      answerNames ask n (q.val + 1) ((s.tellLock (lockAnswers p ask n)).procs[q]).lockAns := by
  obtain ⟨w, hw, hnames⟩ := lockAnswers_names (n := n) (mem_lockAskers_proc.mpr hq)
  rw [State.tellLock_procs, hw]
  exact ⟨rfl, hnames⟩

end

/-- Settles O51: every acquisition is granted or refused by `acquireLock`, and the arbiter serves the first in its order before the
others. -/
theorem lockIsHeldByOne : Obligations.LockIsHeldByOne := by
  unfold Obligations.LockIsHeldByOne
  refine ⟨fun s i hp hr => ⟨fun hgrant => ?_, fun hheld hother => ?_, fun v => ?_⟩,
    fun s p => ⟨?_, exec_processorLockRequest_release⟩,
    fun s p others n hfree hfirst => ?_, fun s p others i n hp hr hfree hfirst => ?_, fun s hheld h0 => ?_⟩
  · exact ⟨_, exec_lockAcquire_granted hp hr hgrant, lockWord_outcome _ _ _, lockWord_holder _ _ _⟩
  · have hother' : s.mgmt.src ≠ false ∨ s.mgmt.holder ≠ i := by simpa using hother
    exact ⟨_, exec_lockAcquire_refused hp hr hheld hother', lockWord_outcome _ _ _, lockWord_holder _ _ _, lockWord_src _ _ _⟩
  · rw [exec_lockRelease hp hr, releaseLock_eq]
    split <;> rfl
  · by_cases hgrant : s.mgmt.held = false ∨ (s.mgmt.src = true ∧ s.mgmt.holder = procIdent p)
    · refine ⟨_, ?_, fun _ => ⟨lockWord_outcome _ _ _, lockWord_holder _ _ _, lockWord_src _ _ _⟩, fun hheld hother => ?_⟩
      · rw [if_pos hgrant]
        exact exec_processorLockRequest_granted hgrant
      · obtain ⟨hsrc, hholder⟩ := hgrant.resolve_left (by simp [hheld])
        simp [hsrc, hholder] at hother
    · obtain ⟨hheld, hother⟩ := not_or.mp hgrant
      refine ⟨_, ?_, fun hg => absurd hg hgrant, fun _ _ => ⟨lockWord_outcome _ _ _, lockWord_holder _ _ _, lockWord_src _ _ _⟩⟩
      rw [if_neg hgrant]
      exact exec_processorLockRequest_refused (by simpa using hheld) (Classical.not_and_iff_not_or_not.mp hother)
  · have hport : 0 ∉ lockAskers p ⟨false, others, none⟩ := by simp [mem_lockAskers_port]
    have hfound := List.find?_some hfirst
    have hn : n ≠ 0 := by
      rintro rfl
      exact hport (of_decide_eq_true hfound)
    have hident : askIdent ⟨false, others, none⟩ n = BitVec.ofNat 12 (0xEFF + n) := if_neg hn
    refine ⟨_, exec_processorLockRequest_free rfl (by simp) hfree hfirst, ?_, fun q hq => tellLock_procs_idle _ hq,
      fun q hq => ?_⟩
    · rw [State.tellLock_of_none (lockAnswers_none hport), hident, decide_eq_true hn]
      rfl
    · obtain ⟨hkept, hout, hholder, hsrc⟩ := tellLock_procs_asks (ask := ⟨false, others, none⟩) (n := n)
        (s.grantLock (n ≠ 0) (askIdent ⟨false, others, none⟩ n)) hq
      exact ⟨hkept, hout, hholder, hsrc.trans (decide_eq_true hn)⟩
  · have hport : 0 ∈ lockAskers p ⟨false, others, some i⟩ := by simp [mem_lockAskers_port]
    obtain ⟨w, hw, hout, hholder, hsrc⟩ := lockAnswers_names (n := n) hport
    refine ⟨w, _, exec_processorLockRequest_free rfl (by simpa using ⟨hp, hr⟩) hfree hfirst, ?_,
      by simpa [eq_comm] using hout, hholder, hsrc, fun q hq => tellLock_procs_idle _ hq, fun q hq => ?_⟩
    · rw [State.tellLock, hw]
      rfl
    · obtain ⟨hkept, hout, hholder, hsrc⟩ := tellLock_procs_asks (ask := ⟨false, others, some i⟩) (n := n)
        (s.grantLock (n ≠ 0) (askIdent ⟨false, others, some i⟩ n)) hq
      exact ⟨hkept, hout, hholder, hsrc⟩
  · exact ⟨_, exec_leaseExpiry hheld h0, by decide⟩

end Sys2Proof.Machine
end

section
/-! SUPPORT. What a tenant reset changes at once, and what it leaves to its end (11 R438 to R440). -/
namespace Sys2Proof.Machine

/-! ### Key entry -/

/-- `u` differs from `s` by no more than key entry of tenant `n` changes: its window, the tenant's error source, and pending handles. -/
def keyEntryOnly (n : Tenant) (s u : State) : Prop :=
  u = { s with tenants := u.tenants, ks := u.ks } ∧ (∀ m : Tenant, m ≠ n → u.page m = s.page m) ∧
    u.page n = { s.page n with ke := (u.page n).ke, keNine := (u.page n).keNine, intStatus := (u.page n).intStatus }

section
variable {n : Tenant} {s u v : State}

theorem keyEntryOnly_refl (n : Tenant) (s : State) : keyEntryOnly n s s := ⟨rfl, fun _ _ => rfl, rfl⟩

theorem keyEntryOnly_trans (hu : keyEntryOnly n s u) (hv : keyEntryOnly n u v) : keyEntryOnly n s v := by
  obtain ⟨hu, huOther, huPage⟩ := hu
  obtain ⟨hv, hvOther, hvPage⟩ := hv
  refine ⟨by rw [hv, hu], fun m hm => (hvOther m hm).trans (huOther m hm), ?_⟩
  rw [hvPage, huPage]

/-- An update of the window, the note of result 9 or the interrupt sources of the page. -/
theorem keyEntryOnly_updPage {f : TenantPage → TenantPage}
    (hf : ∀ p, f p = { p with ke := (f p).ke, keNine := (f p).keNine, intStatus := (f p).intStatus }) (s : State) :
    keyEntryOnly n s (s.updPage n f) := by
  refine ⟨rfl, fun m hm => State.page_updPage_other hm s f, ?_⟩
  rw [State.page_updPage_same]
  exact hf _

theorem updKe_keyEntryOnly (f : KeyEntry → KeyEntry) (s : State) : keyEntryOnly n s (s.updKe n f) :=
  keyEntryOnly_updPage (fun _ => rfl) s

theorem endSession_keyEntryOnly (s : State) : keyEntryOnly n s (endSession n s) := by
  unfold endSession
  split
  · exact keyEntryOnly_refl n s
  · exact keyEntryOnly_trans (updKe_keyEntryOnly _ s) ⟨rfl, fun _ _ => rfl, rfl⟩

theorem keResult_keyEntryOnly (code : Nat) (s : State) : keyEntryOnly n s (keResult n code s) := by
  unfold keResult
  dsimp only
  split
  · exact keyEntryOnly_trans (updKe_keyEntryOnly _ s) (keyEntryOnly_updPage (fun _ => rfl) _)
  · exact updKe_keyEntryOnly _ s

theorem showKe_keyEntryOnly (s : State) : keyEntryOnly n s (showKe n s) := by
  unfold showKe
  exact updKe_keyEntryOnly _ s

theorem resetKeyEntry_keyEntryOnly (s : State) : keyEntryOnly n s (resetKeyEntry n s) := by
  unfold resetKeyEntry
  dsimp only
  split
  · refine keyEntryOnly_trans ?_ (showKe_keyEntryOnly _)
    refine keyEntryOnly_trans ?_ (keResult_keyEntryOnly 9 _)
    refine keyEntryOnly_trans ?_ (keyEntryOnly_updPage (fun _ => rfl) _)
    exact keyEntryOnly_trans (endSession_keyEntryOnly s) (updKe_keyEntryOnly _ _)
  · exact keyEntryOnly_refl n s

theorem page_updKe (f : KeyEntry → KeyEntry) (s : State) : (s.updKe n f).page n = { s.page n with ke := f (s.page n).ke } :=
  State.page_updPage_same s n _

theorem page_unpend (a h : Nat) (s : State) : (unpend a h s).page n = s.page n := rfl

theorem showKe_session (s : State) : ((showKe n s).page n).ke.session = (s.page n).ke.session := by
  unfold showKe
  dsimp only
  rw [page_updKe]

theorem endSession_session (s : State) : ((endSession n s).page n).ke.session = none := by
  unfold endSession
  split
  · assumption
  · rw [page_unpend, page_updKe]

theorem keResult_session (code : Nat) (s : State) : ((keResult n code s).page n).ke.session = (s.page n).ke.session := by
  unfold keResult
  dsimp only
  split
  · rw [assertTn, State.page_updPage_same, page_updKe]
  · rw [page_updKe]

/-- Key entry has no session once the reset has begun (11 R439). -/
theorem resetKeyEntry_session (s : State) : ((resetKeyEntry n s).page n).ke.session = none := by
  unfold resetKeyEntry
  dsimp only
  split
  · rw [showKe_session, keResult_session, State.page_updPage_same, page_updKe]
    exact endSession_session s
  · next h =>
    have hidle : (s.page n).ke.session = none ∧ (s.page n).ke.heldOps = [] := by simpa [keEngaged] using h
    exact hidle.left

end

/-! ### The start of a tenant reset -/

/-- The state once a tenant reset has begun, but for the stops of the tenant's requests (11 R439). -/
def State.resetBegun (s : State) (n : Tenant) : State :=
  (resetKeyEntry n (s.updPage n beginPageReset)).updMgmt (dropTenantLock (resetKeyEntry n (s.updPage n beginPageReset)) n)

section
variable {n : Tenant} {s : State}

theorem startTenantReset_busy (h : (s.page n).resetBusy = true) (c : Cycle) : startTenantReset n c s = s := if_pos h

theorem startTenantReset_idle (h : (s.page n).resetBusy = false) (c : Cycle) : startTenantReset n c s =
    markStops (stopBoundary (s.resetBegun n) c) (fun r => r.tenant = n.val) (s.resetBegun n) :=
  if_neg (by simp [h])

theorem resetBegun_frame : s.resetBegun n =
    { s with tenants := (s.resetBegun n).tenants, mgmt := (s.resetBegun n).mgmt, ks := (s.resetBegun n).ks } := by
  obtain ⟨hframe, -, -⟩ := resetKeyEntry_keyEntryOnly (n := n) (s.updPage n beginPageReset)
  rw [State.resetBegun, hframe]
  rfl

theorem resetBegun_page_other {m : Tenant} (h : m ≠ n) : (s.resetBegun n).page m = s.page m := by
  obtain ⟨-, hother, -⟩ := resetKeyEntry_keyEntryOnly (n := n) (s.updPage n beginPageReset)
  exact (hother m h).trans (State.page_updPage_other h s _)

theorem resetBegun_page : (s.resetBegun n).page n = { beginPageReset (s.page n) with
    ke := ((s.resetBegun n).page n).ke, keNine := ((s.resetBegun n).page n).keNine,
    intStatus := ((s.resetBegun n).page n).intStatus } := by
  obtain ⟨-, -, hpage⟩ := resetKeyEntry_keyEntryOnly (n := n) (s.updPage n beginPageReset)
  rw [State.page_updPage_same] at hpage
  exact hpage

/-- A lock that an identity of the tenant holds is freed (11 R439). -/
theorem resetBegun_held (hheld : s.mgmt.held = true) (hsrc : s.mgmt.src = false) (ht : s.tenantOf s.mgmt.holder = n) :
    (s.resetBegun n).mgmt.held = false := by
  obtain ⟨hframe, -, -⟩ := resetKeyEntry_keyEntryOnly (n := n) (s.updPage n beginPageReset)
  have hmgmt : (resetKeyEntry n (s.updPage n beginPageReset)).mgmt = s.mgmt := by rw [hframe]; rfl
  have htenant : (resetKeyEntry n (s.updPage n beginPageReset)).tenantOf s.mgmt.holder = n := by rw [hframe]; exact ht
  simp [State.resetBegun, State.updMgmt, dropTenantLock, hmgmt, hheld, hsrc, htenant, freeLock]

/-- A request once the reset of tenant `n` has named it: one whose end the reset awaits, or that is to stop already, is spared. -/
def stoppedByReset (n : Tenant) (stop : Nat × Nat) (r : Request) : Request :=
  if r.tenant = n.val ∧ pastAbort true r = false ∧ r.stopAt = none then { r with stopAt := some stop } else r

/-- While the reset of tenant `n` runs, its requests are named for the stop of a reset (11 R439). -/
theorem markStops_reset (h : (s.page n).resetBusy = true) (stop : Nat × Nat) :
    markStops stop (fun r => r.tenant = n.val) s = { s with reqs := s.reqs.map (stoppedByReset n stop) } := by
  have hreqs : (markStops stop (fun r => r.tenant = n.val) s).reqs = s.reqs.map (stoppedByReset n stop) := by
    refine List.map_congr_left fun r _ => ?_
    by_cases hr : r.tenant = n.val
    · have hn : tenantFin r.tenant = n := Fin.ext (by simp [tenantFin, hr, Nat.mod_eq_of_lt n.isLt])
      have hreset : abortedByReset s r = true := by simp [abortedByReset, hn, h]
      simp [stoppedByReset, hreset, hr]
    · simp [stoppedByReset, hr]
  rw [← hreqs]
  rfl

/-- The state in which the stops are named is that of the start in all that they look at. -/
theorem startTenantReset_eq (h : (s.page n).resetBusy = false) (c : Cycle) : startTenantReset n c s =
    { s.resetBegun n with reqs := s.reqs.map (stoppedByReset n (stopBoundary s c)) } := by
  have hbusy : ((s.resetBegun n).page n).resetBusy = true := by rw [resetBegun_page]; rfl
  have hstop : stopBoundary (s.resetBegun n) c = stopBoundary s c := by rw [resetBegun_frame]; rfl
  have hreqs : (s.resetBegun n).reqs = s.reqs := by rw [resetBegun_frame]
  rw [startTenantReset_idle h, markStops_reset hbusy, hstop, hreqs]

/-- `t` is `s` once the reset of tenant `n` has begun (11 R439). -/
def resetStarted (n : Tenant) (c : Cycle) (s t : State) : Prop :=
  t = { s with rsp := 0, tenants := t.tenants, mgmt := t.mgmt, reqs := t.reqs, ks := t.ks } ∧
    (∀ m : Tenant, m ≠ n → t.page m = s.page m) ∧ (t.page n).resetBusy = true ∧ (t.page n).intEnable = 0 ∧
    (t.page n).fifoItems = [] ∧ (t.page n).fifoPart = [] ∧ (t.page n).fifoPartSym = [] ∧ (t.page n).mbo.full = false ∧
    (t.page n).mbi.full = false ∧ (t.page n).ke.session = none ∧ (t.page n).rings = (s.page n).rings ∧
    (t.page n).auditHead = (s.page n).auditHead ∧
    (s.mgmt.held = true → s.mgmt.src = false → s.tenantOf s.mgmt.holder = n → t.mgmt.held = false) ∧
    t.reqs = s.reqs.map (stoppedByReset n (stopBoundary s c))

theorem startTenantReset_started (h : (s.page n).resetBusy = false) (c : Cycle) :
    resetStarted n c s ((startTenantReset n c s).respond 0) := by
  have hpage : ((startTenantReset n c s).respond 0).page n = (s.resetBegun n).page n := by rw [startTenantReset_eq h]; rfl
  have hmgmt : ((startTenantReset n c s).respond 0).mgmt = (s.resetBegun n).mgmt := by rw [startTenantReset_eq h]; rfl
  refine ⟨?_, fun m hm => ?_, ?_⟩
  · rw [startTenantReset_eq h, resetBegun_frame]
    rfl
  · rw [startTenantReset_eq h]
    exact resetBegun_page_other hm
  · have hsession : (((startTenantReset n c s).respond 0).page n).ke.session = none := by
      rw [hpage]
      exact resetKeyEntry_session _
    have hreqs : ((startTenantReset n c s).respond 0).reqs = s.reqs.map (stoppedByReset n (stopBoundary s c)) := by
      rw [startTenantReset_eq h]
      rfl
    rw [hmgmt]
    refine ⟨?_, ?_, ?_, ?_, ?_, ?_, ?_, hsession, ?_, ?_, resetBegun_held, hreqs⟩ <;> rw [hpage, resetBegun_page] <;> rfl

end

/-! ### The writes that start a tenant reset -/

section
variable {s : State} {i : Ident} {n : Tenant}

/-- An OFFICER's access to TN_RESET of its own page is permitted (11 Table 11-3). -/
theorem pageWrite_reset (hp : s.portOpen) (hr : s.roleOf i = 2) (ht : s.tenantOf i = n) (eff : State → State) :
    pageWrite i n 0x604 eff s = (if (s.page n).resetBusy = true then s else eff s).respond 0 := by
  have hper : permitted s i (.page n (subOf 0x604)) true = true := by simp [permitted, subOf, hr, ht]
  rw [pageWrite, gateWrite, regionOf_page n 0x604 (by decide)]
  cases hb : (s.page n).resetBusy <;> simp [verdict, portOpen_shut hp, hper, hb]

theorem exec_tenantReset_own (hp : s.portOpen) (hr : s.roleOf i = 2) (ht : s.tenantOf i = n) (v : BitVec 32) (c : Cycle) :
    exec (.tenantReset i (some n) v c) s = .next ((startTenantReset n c s).respond 0) := by
  have hbit : bitAt (v ||| 1) 0 = true := by simp [bitAt]
  refine congrArg Host.Outcome.next ?_
  rw [pageWrite_reset hp hr ht]
  split
  · next hbusy => rw [startTenantReset_busy hbusy]
  · rw [writeTnReset, if_pos hbit]

theorem exec_tenantReset_mgmt (h : s.mayManage i) (v : BitVec 32) (c : Cycle) :
    exec (.tenantReset i none v c) s = .next ((startTenantReset (tenantFin (v.toNat % 64)) c
      (s.updMgmt fun m => { m with tnReset := v.extractLsb' 0 6 })).respond 0) := by
  exact congrArg Host.Outcome.next (mgmtWrite_go h 0xB10 _)

/-- A page takes its reset values once all of its tenant's has ended (11 R440). -/
theorem exec_tenantResetDone (hb : (s.page n).resetBusy = true) (h0 : s.tt.slot = 0) (hs : resetSettled s n = true) :
    exec (.tenantResetDone n) s = .next (assertBlk 22 (s.updPage n resetPage)) := by
  simp [exec, execTenantResetDone, hb, h0, hs, ok]

end

/-- Settles O52: the reset begins as `startTenantReset_started` says, through TN_RESET or TRH_TN_RESET, and ends with `resetPage`. -/
theorem tenantResetClearsPage : Obligations.TenantResetClearsPage := by
  unfold Obligations.TenantResetClearsPage
  refine ⟨fun s i own n v c hidle hwrite => ?_, fun s i n v c hbusy => ⟨fun hm hn => ?_, fun hr ht hp => ?_⟩,
    fun s n hbusy hslot hsettled => ?_⟩
  · obtain ⟨rfl, hp, ht, hr, -⟩ | ⟨rfl, hm, rfl⟩ := hwrite
    · have hofficer : s.roleOf i = 2 := by simpa using hr
      exact ⟨_, exec_tenantReset_own hp hofficer ht v c, startTenantReset_started hidle c⟩
    · exact ⟨_, exec_tenantReset_mgmt hm v c, startTenantReset_started (s := s.updMgmt _) hidle c⟩
  · subst hn
    rw [exec_tenantReset_mgmt hm, startTenantReset_busy (s := s.updMgmt _) hbusy]
    rfl
  · rw [exec_tenantReset_own hp hr ht, startTenantReset_busy hbusy]
    rfl
  · refine ⟨_, exec_tenantResetDone hbusy hslot hsettled, rfl, fun m hm => State.page_updPage_other hm s _,
      assertBlk_bit 22 (by decide) _, ?_⟩
    have hpage : (assertBlk 22 (s.updPage n resetPage)).page n = resetPage (s.page n) := State.page_updPage_same s n _
    refine ⟨?_, fun k => ?_, ?_⟩
    · rw [hpage]; rfl
    · rw [State.ring, hpage]
      exact Vector.getElem_replicate _
    · rw [hpage]
      exact ⟨rfl, rfl, rfl, rfl, rfl, rfl, rfl⟩

end Sys2Proof.Machine
end

section
/-! SUPPORT. What a report leaves of the stations that the block's lanes serve (12 R462). -/
namespace Sys2Proof.Machine

/-- `t` has the work of VS, SS and KS of `s`, and every interrupt source that `s` has asserted. -/
def keepsStations (s t : State) : Prop :=
  t.vs = s.vs ∧ t.ss = s.ss ∧ t.ks = s.ks ∧ ∀ n, s.mgmt.intStatus.getLsbD n = true → t.mgmt.intStatus.getLsbD n = true

/-- The engine of a source is none of those whose lanes run curve loads, waybills or derivations (01 Table 01-4). -/
def outsideStations (c : BitVec 16) : Prop := srcKey c ≠ 48 ∧ srcKey c ≠ 32 ∧ srcKey c ≠ 40

section
variable {s t u : State} {c : BitVec 16}

theorem keepsStations_refl (s : State) : keepsStations s s := ⟨rfl, rfl, rfl, fun _ h => h⟩

theorem keepsStations_trans (ht : keepsStations s t) (hu : keepsStations t u) : keepsStations s u := by
  obtain ⟨htvs, htss, htks, htint⟩ := ht
  obtain ⟨huvs, huss, huks, huint⟩ := hu
  exact ⟨huvs.trans htvs, huss.trans htss, huks.trans htks, fun n h => huint n (htint n h)⟩

theorem updFlt_keepsStations (f : Faults → Faults) (s : State) : keepsStations s (s.updFlt f) := keepsStations_refl s

theorem assertBlk_keepsStations (n : Nat) (s : State) : keepsStations s (assertBlk n s) :=
  ⟨rfl, rfl, rfl, fun m h => by simp [assertBlk, State.updMgmt, h]⟩

theorem markRecords_keepsStations (c : BitVec 16) (n : Nat) (g : FaultRec → FaultRec) (s : State) :
    keepsStations s (markRecords c n g s) := keepsStations_refl s

theorem logReport_keepsStations (p : Bool) (c d : BitVec 16) (cl : SevClass) (s : State) :
    keepsStations s (logReport p c d cl s) := by
  unfold logReport
  dsimp only
  split
  · exact keepsStations_trans (updFlt_keepsStations _ s) (assertBlk_keepsStations 0 _)
  · exact updFlt_keepsStations _ s

theorem retireLane_keepsStations (hc : outsideStations c) (lane : Nat) (s : State) :
    keepsStations s (retireLane (srcKey c) lane c s) := by
  obtain ⟨hks, hvs, hss⟩ := hc
  have hinternal : ∀ pos u, discardInternal (srcKey c) pos u = u := fun pos u => by simp [discardInternal, hks, hvs, hss]
  unfold retireLane
  split
  · exact keepsStations_refl s
  · split
    · exact keepsStations_refl s
    · dsimp only
      split
      · rw [hinternal]
        exact keepsStations_refl s
      · exact keepsStations_refl s

theorem takeAction_keepsStations (hc : outsideStations c) (a : Nat) (s : State) : keepsStations s (takeAction a c s) := by
  unfold takeAction
  split
  · split
    · unfold retireSource
      split <;> exact keepsStations_refl s
    · exact retireLane_keepsStations hc _ s
  · (repeat' split) <;> exact keepsStations_refl s

theorem outsideStations_escFull : outsideStations srcEscFull := ⟨by decide, by decide, by decide⟩

theorem openWindow_keepsStations (hc : outsideStations c) (cl : SevClass) (s : State) : keepsStations s (openWindow c cl s) := by
  unfold openWindow
  dsimp only
  split
  · exact keepsStations_refl s
  · split
    · exact updFlt_keepsStations _ s
    · refine keepsStations_trans ?_ (takeAction_keepsStations outsideStations_escFull _ _)
      refine keepsStations_trans ?_ (logReport_keepsStations _ _ _ _ _)
      exact keepsStations_trans (markRecords_keepsStations _ _ _ s) (takeAction_keepsStations hc _ _)

theorem faultReport_keepsStations (hc : outsideStations c) (d : BitVec 16) (s : State) : keepsStations s (faultReport c d s) := by
  unfold faultReport reportAs
  dsimp only
  have hlog := logReport_keepsStations false c d (severityOf s c) s
  split
  · exact keepsStations_trans hlog (openWindow_keepsStations hc _ _)
  · split
    · exact keepsStations_trans hlog (takeAction_keepsStations hc _ _)
    · exact hlog

/-- A report from an engine outside the stations discards no work but that of requests. -/
theorem faultReport_frame (hc : outsideStations c) (d : BitVec 16) (s : State) : faultReport c d s =
    { s with flt := (faultReport c d s).flt, mgmt := { s.mgmt with intStatus := (faultReport c d s).mgmt.intStatus },
             reqs := (faultReport c d s).reqs, en := (faultReport c d s).en } := by
  obtain ⟨hvs, hss, hks, -⟩ := faultReport_keepsStations hc d s
  have honly := faultReport_only c d s
  unfold State.reportsOnly at honly
  rw [hvs, hss, hks] at honly
  exact honly

end

end Sys2Proof.Machine
end

section
/-! SUPPORT. Which accesses of the register port reach a register, and what becomes of the others (00 R14 to R18; 11 R434 to R436,
R455; 17 R599 to R601). -/
namespace Sys2Proof.Machine

/-! ### Verdicts -/

section
variable {s : State} {i : Ident} {rg : Region} {wr : Bool}

theorem verdict_foreign (hp : s.portOpen) (h : permitted s i rg wr = false) (lock : Bool) : verdict s i rg wr lock = .foreign := by
  simp [verdict, portOpen_shut hp, h]

theorem verdict_read (hp : s.portOpen) (h : permitted s i rg false = true) (lock : Bool) : verdict s i rg false lock = .go := by
  simp [verdict, portOpen_shut hp, h]

/-- A permitted write reaches its region, whatever the lock and a tenant reset then make of it. -/
theorem verdict_permitted (hp : s.portOpen) (h : permitted s i rg wr = true) (lock : Bool) :
    verdict s i rg wr lock ≠ .shut ∧ verdict s i rg wr lock ≠ .foreign := by
  cases wr with
  | false => simp [verdict_read hp h lock]
  | true =>
    unfold verdict
    rw [portOpen_shut hp, h]
    cases rg <;> simp only [Bool.false_eq_true, Bool.not_true, if_false] <;> (repeat' split) <;> exact ⟨by decide, by decide⟩

/-- The lock holder's write to the management and the Supervisor page (11 R455). -/
theorem verdict_holder (hp : s.portOpen) (hr : s.roleOf i = 3) (hrg : rg = .mgmt ∨ rg = .sup) (hh : isHolder s i = true) (lock : Bool) :
    verdict s i rg true lock = .go := by
  obtain rfl | rfl := hrg <;> simp [verdict, portOpen_shut hp, permitted, hr, hh]

/-- The write of another to a register there other than TRH_MGMT_LOCK (11 R455). -/
theorem verdict_denied (hp : s.portOpen) (hr : s.roleOf i = 3) (hrg : rg = .mgmt ∨ rg = .sup) (hh : isHolder s i = false) :
    verdict s i rg true false = .denied := by
  obtain rfl | rfl := hrg <;> simp [verdict, portOpen_shut hp, permitted, hr, hh]

theorem verdict_shut (h : s.mainUp = false ∨ s.lc.state = lcScrap ∨ s.cfg.stage.toNat < 4) (lock : Bool) :
    verdict s i rg wr lock = .shut := by
  have hshut : (!s.mainUp || portShut s) = true := by
    obtain h | h | h := h <;> simp [portShut, h]
  simp [verdict, hshut]

end

/-! ### Accesses of a register's own width -/

section
variable {i : Ident} {off : Nat} {w : Width} {p : Place} {s : State}

/-- An access of a register's own width, at its own offset (00 R14; 17 R599). -/
structure WholeAccess (off : Nat) (w : Width) (p : Place) : Prop where
  at_offset : regAt (regionOf off) off = some p
  width : w = if p.wide then .w64 else .w32
  aligned : off % Width.bytes w = 0

theorem WholeAccess.targets (h : WholeAccess off w p) : targets (regionOf off) off w = [.full p] := by
  obtain ⟨hreg, rfl, -⟩ := h
  cases hw : p.wide <;> simp [Machine.targets, target32, hreg, hw]

theorem WholeAccess.accepted (h : WholeAccess off w p) : refusedAccess off w = false := by
  obtain ⟨-, hw, haligned⟩ := h
  have hbytes : 4 ≤ Width.bytes w := by rw [hw]; split <;> decide
  simp [refusedAccess, haligned, hbytes]

theorem WholeAccess.not_fifo (h : WholeAccess off w p) (t : Tenant) : regionOf off ≠ .fifo t := fun hfifo => by
  simpa [hfifo, regAt] using h.at_offset

theorem portRead_whole (h : WholeAccess off w p) (hp : s.portOpen) (hper : permitted s i (regionOf off) false = true) :
    portRead i off w s = (readPlace i p s).1.respond (readPlace i p s).2 := by
  simp [portRead, verdict_read hp hper, h.accepted, h.targets, readTargets, readTarget]

theorem portWrite_whole (h : WholeAccess off w p) (hp : s.portOpen) (hper : permitted s i (regionOf off) true = true) (c : Cycle)
    (pass : Bool) (v : BitVec 64) : portWrite i c pass off w v s = (writePlace i c pass (regionOf off) p v s).respond 0 := by
  obtain ⟨hshut, hforeign⟩ := verdict_permitted hp hper true
  unfold portWrite
  dsimp only
  split
  · next hv => exact absurd hv hshut
  · rw [if_neg (by simp [h.accepted]), if_neg hforeign]
    split
    · next t hfifo => exact absurd hfifo (h.not_fifo t)
    · rw [h.targets]
      rfl

end

section
variable {s : State} {i : Ident} {off : Nat} {w : Width}

theorem readPlace_mgmt {r : MReg} (h : r ≠ .mgmtLock) : readPlace i (.mgmt r) s = (s, readM s r) := by
  cases r
  case mgmtLock => exact absurd rfl h
  all_goals rfl

theorem writePlace_mgmt {rg : Region} {r : MReg} (h : verdict s i rg true (Place.mgmt r == .mgmt .mgmtLock) = .go) (c : Cycle)
    (pass : Bool) (v : BitVec 64) : writePlace i c pass rg (.mgmt r) v s = writeM i c pass r v s := by
  unfold writePlace
  rw [h]

theorem writePlace_page {rg : Region} {n : Tenant} {r : PReg} (h : verdict s i rg true false = .go) (c : Cycle) (pass : Bool)
    (v : BitVec 64) : writePlace i c pass rg (.page n r) v s = writeP i c n r v s := by
  have hnot : (Place.page n r == .mgmt .mgmtLock) = false := by simp
  unfold writePlace
  rw [hnot, h]

/-- A register of the management page or of the Supervisor and debug page, by its offset (17 Table 17-3). -/
def mgmtRegAt (off : Nat) (r : MReg) : Prop :=
  (off < 0x10000 ∧ mgmtTable.lookup off = some r) ∨ (0x10000 ≤ off ∧ off < 0x20000 ∧ supTable.lookup off = some r)

theorem mgmtRegAt.region {r : MReg} (h : mgmtRegAt off r) :
    (regionOf off = .mgmt ∨ regionOf off = .sup) ∧ regAt (regionOf off) off = some (.mgmt r) := by
  obtain ⟨hoff, hr⟩ | ⟨hlow, hhigh, hr⟩ := h
  · have hrg : regionOf off = .mgmt := if_pos hoff
    exact ⟨.inl hrg, by simp [hrg, regAt, hr]⟩
  · have hrg : regionOf off = .sup := by simp [regionOf, hhigh, show ¬ off < 0x10000 by omega]
    exact ⟨.inr hrg, by simp [hrg, regAt, hr]⟩

section
variable {r : MReg} (hp : s.portOpen) (hr : s.roleOf i = 3) (hreg : mgmtRegAt off r) (hlock : r ≠ .mgmtLock)
  (hw : w = if r.wide then .w64 else .w32) (halign : off % Width.bytes w = 0)
include hp hr hreg hlock hw halign

theorem portRead_mgmt : portRead i off w s = { s with rsp := readM s r } := by
  obtain ⟨hrg, hat⟩ := hreg.region
  have hper : permitted s i (regionOf off) false = true := by obtain hrg | hrg := hrg <;> simp [hrg, permitted, hr]
  rw [portRead_whole ⟨hat, hw, halign⟩ hp hper, readPlace_mgmt hlock]
  rfl

/-- Of those a HOST_ADMIN makes, the lock holder's write acts, and another is counted (11 R455). -/
theorem portWrite_mgmt (v : BitVec 64) (c : Cycle) (pass : Bool) : portWrite i c pass off w v s =
    (if isHolder s i = true then writeM i c pass r v s else deniedWrite s).respond 0 := by
  obtain ⟨hrg, hat⟩ := hreg.region
  have hper : permitted s i (regionOf off) true = true := by obtain hrg | hrg := hrg <;> simp [hrg, permitted, hr]
  have hnot : (Place.mgmt r == .mgmt .mgmtLock) = false := by simpa using hlock
  rw [portWrite_whole ⟨hat, hw, halign⟩ hp hper]
  cases hh : isHolder s i
  · rw [writePlace, hnot, verdict_denied hp hr hrg hh]
    rfl
  · rw [writePlace_mgmt (verdict_holder hp hr hrg hh _)]
    rfl

end

theorem wholeAccess_page {n : Tenant} {o : Nat} {r : PReg} (ho : o < 0x600) (hreg : pageTable.lookup o = some r)
    (hw : w = if r.wide then .w64 else .w32) (halign : pageOff n o % Width.bytes w = 0) : WholeAccess (pageOff n o) w (.page n r) := by
  have hmod : pageOff n o % 0x1000 = o := by unfold pageOff; omega
  exact ⟨by simp [regionOf_page n o (by omega), regAt, hmod, hreg], hw, halign⟩

/-- An OFFICER may read and write every register of the page but those of the shared part (11 Table 11-3). -/
theorem permitted_officer {n : Tenant} (ht : s.tenantOf i = n) (hr : s.roleOf i = 2) (sub : Sub) (wr : Bool) :
    permitted s i (.page n sub) wr = true := by
  cases sub <;> simp [permitted, ht, hr]

section
variable {n : Tenant} {o : Nat} {r : PReg} (h : s.mayWrite i n true) (ho : o < 0x600) (hreg : pageTable.lookup o = some r)
  (hw : w = if r.wide then .w64 else .w32) (halign : pageOff n o % Width.bytes w = 0)
include h ho hreg hw halign

theorem portRead_page : portRead i (pageOff n o) w s = { s with rsp := readP s i n r } := by
  have ⟨hp, ht, hr, _⟩ := h
  have hper : permitted s i (regionOf (pageOff n o)) false = true := by
    rw [regionOf_page n o (by omega)]
    exact permitted_officer ht (by simpa using hr) _ _
  rw [portRead_whole (wholeAccess_page ho hreg hw halign) hp hper]
  rfl

theorem portWrite_page (v : BitVec 64) (c : Cycle) (pass : Bool) :
    portWrite i c pass (pageOff n o) w v s = { writeP i c n r v s with rsp := 0 } := by
  have ⟨hp, ht, hr, hb⟩ := h
  have hrg := regionOf_page n o (by omega)
  have hper : permitted s i (.page n (subOf o)) true = true := permitted_officer ht (by simpa using hr) _ _
  have hgo : verdict s i (.page n (subOf o)) true false = .go := by simp [verdict, portOpen_shut hp, hper, hb]
  rw [portWrite_whole (wholeAccess_page ho hreg hw halign) hp (hrg ▸ hper), hrg, writePlace_page hgo]
  rfl

end

end

/-! ### Accesses that reach no register -/

/-- A foreign access counts for the tenant of its identity, if it has one (11 R436). -/
def foreignCounted (i : Ident) (s : State) : State :=
  if s.roleOf i ≠ 0 then s.updPage (s.tenantOf i) fun p => { p with foreign := satInc 0xFFFF p.foreign } else s

/-- What the port notes of a foreign access before it reports it (11 R436). -/
def foreignNoted (i : Ident) (off : Nat) (wr : Bool) (s : State) : State :=
  (foreignCounted i s).updMgmt fun m =>
    { m with fgnOffset := BitVec.ofNat 24 off, fgnWrite := wr, fgnTenV := decide (s.roleOf i ≠ 0),
             fgnTenant := if s.roleOf i ≠ 0 then BitVec.ofNat 6 (s.tenantOf i).val else 0, fgnIdent := i,
             fgnCount := satInc 0xFFFF m.fgnCount }

section
variable {s : State} {i : Ident} {off : Nat} {w : Width}

theorem foreignAccess_eq (wr : Bool) :
    foreignAccess i off wr s = faultReport srcForeign 0 (assertBlk 16 (foreignNoted i off wr s)) := rfl

theorem outsideStations_foreign : outsideStations srcForeign := ⟨by decide, by decide, by decide⟩

theorem foreignCounted_frame (i : Ident) (s : State) : foreignCounted i s = { s with tenants := (foreignCounted i s).tenants } := by
  unfold foreignCounted
  split <;> rfl

theorem foreignCounted_page (i : Ident) (s : State) (n : Tenant) : (foreignCounted i s).page n =
    if s.roleOf i ≠ 0 ∧ n = s.tenantOf i then { s.page n with foreign := satInc 0xFFFF (s.page n).foreign } else s.page n := by
  unfold foreignCounted
  by_cases hr : s.roleOf i = 0
  · simp [hr]
  · rw [if_pos hr]
    by_cases hn : n = s.tenantOf i
    · subst hn
      rw [if_pos ⟨hr, rfl⟩]
      exact State.page_updPage_same s _ _
    · rw [if_neg fun h => hn h.right]
      exact State.page_updPage_other hn s _

theorem foreignNoted_frame (wr : Bool) : foreignNoted i off wr s =
    { s with tenants := (foreignNoted i off wr s).tenants, mgmt := (foreignNoted i off wr s).mgmt } := by
  unfold foreignNoted
  rw [foreignCounted_frame]
  rfl

theorem foreignNoted_mgmt (wr : Bool) : (foreignNoted i off wr s).mgmt = { s.mgmt with
    fgnOffset := BitVec.ofNat 24 off, fgnWrite := wr, fgnTenV := decide (s.roleOf i ≠ 0),
    fgnTenant := if s.roleOf i ≠ 0 then BitVec.ofNat 6 (s.tenantOf i).val else 0, fgnIdent := i,
    fgnCount := satInc 0xFFFF s.mgmt.fgnCount } := by
  unfold foreignNoted
  rw [foreignCounted_frame]
  rfl

theorem reported_respond {c : BitVec 16} (h : s.reported c) (v : BitVec 64) : (s.respond v).reported c := h

theorem foreignAccess_reported (wr : Bool) : (foreignAccess i off wr s).reported srcForeign := by
  rw [foreignAccess_eq]
  exact faultReport_reported srcForeign 0 _

theorem reservedAccess_reported (s : State) : (reservedAccess s).reported srcResoff := by
  unfold reservedAccess
  exact faultReport_reported srcResoff 0 s

/-- A foreign access is recorded, counted for its tenant and reported, and changes nothing else (11 R435, R436). -/
def foreignDone (i : Ident) (a : BitVec 24) (wr : Bool) (s t : State) : Prop :=
  t = { s with rsp := 0, flt := t.flt, mgmt := t.mgmt, tenants := t.tenants, reqs := t.reqs, en := t.en } ∧
    t.reported (sourceId 7 3 4 24) ∧ t.mgmt.intStatus.getLsbD 16 = true ∧
    t.mgmt = { s.mgmt with
      fgnIdent := i, fgnOffset := a, fgnWrite := wr, fgnTenV := decide (s.roleOf i ≠ 0),
      fgnTenant := if s.roleOf i ≠ 0 then BitVec.ofNat 6 (s.tenantOf i).val else 0,
      fgnCount := min 0xFFFF (s.mgmt.fgnCount + 1), intStatus := t.mgmt.intStatus } ∧
    ∀ n : Tenant, t.page n = if s.roleOf i ≠ 0 ∧ n = s.tenantOf i then
      { s.page n with foreign := min 0xFFFF ((s.page n).foreign + 1) } else s.page n

theorem foreignAccess_done (a : BitVec 24) (wr : Bool) (s : State) :
    foreignDone i a wr s ((foreignAccess i a.toNat wr s).respond 0) := by
  have hreported := foreignAccess_reported (s := s) (i := i) (off := a.toNat) wr
  have hreport := faultReport_frame outsideStations_foreign 0 (assertBlk 16 (foreignNoted i a.toNat wr s))
  obtain ⟨-, -, -, hint⟩ := faultReport_keepsStations outsideStations_foreign 0 (assertBlk 16 (foreignNoted i a.toNat wr s))
  rw [← foreignAccess_eq] at hreport hint
  generalize foreignAccess i a.toNat wr s = t at hreported hreport hint ⊢
  have hmgmt : t.mgmt = { (foreignNoted i a.toNat wr s).mgmt with intStatus := t.mgmt.intStatus } := by rw [hreport]; rfl
  have hpage : ∀ n, t.page n = (foreignNoted i a.toNat wr s).page n := fun n => by rw [hreport]; rfl
  rw [foreignNoted_mgmt, BitVec.ofNat_toNat, BitVec.setWidth_eq] at hmgmt
  refine ⟨?_, reported_respond hreported 0, hint 16 (assertBlk_bit 16 (by decide) _), hmgmt,
    fun n => (hpage n).trans (foreignCounted_page i s n)⟩
  rw [hreport, foreignNoted_frame]
  rfl

theorem refusedAccess_aligned (hw : 4 ≤ Width.bytes w) (halign : off % Width.bytes w = 0) : refusedAccess off w = false := by
  simp [refusedAccess, hw, halign]

theorem portRead_foreign (hp : s.portOpen) (hper : permitted s i (regionOf off) false = false) (ha : refusedAccess off w = false) :
    portRead i off w s = (foreignAccess i off false s).respond 0 := by
  simp [portRead, verdict_foreign hp hper, ha]

theorem portWrite_foreign (hp : s.portOpen) (hper : permitted s i (regionOf off) true = false) (ha : refusedAccess off w = false)
    (v : BitVec 64) (c : Cycle) (pass : Bool) : portWrite i c pass off w v s = (foreignAccess i off true s).respond 0 := by
  simp [portWrite, verdict_foreign hp hper, ha]

/-- A write of a width that no register has is reported, whoever makes it (17 R600). -/
theorem portWrite_refused (hp : s.portOpen) (ha : refusedAccess off w = true) (v : BitVec 64) (c : Cycle) (pass : Bool) :
    portWrite i c pass off w v s = (reservedAccess s).respond 0 := by
  have hopen : verdict s i (regionOf off) true true ≠ .shut := by
    cases hper : permitted s i (regionOf off) true
    · simp [verdict_foreign hp hper]
    · exact (verdict_permitted hp hper true).left
  unfold portWrite
  dsimp only
  split
  · next hv => exact absurd hv hopen
  · rw [if_pos ha]

theorem reservedAccess_only (s : State) : State.reportsOnly (s.respond 0) ((reservedAccess s).respond 0) :=
  congrArg (State.respond · 0) (faultReport_only srcResoff 0 s)

theorem portWrite_shut (h : s.mainUp = false ∨ s.lc.state = lcScrap ∨ s.cfg.stage.toNat < 4) (v : BitVec 64) (c : Cycle)
    (pass : Bool) : portWrite i c pass off w v s = s.respond 0 := by
  simp [portWrite, verdict_shut h]

/-- TRH_ID answers while the port is shut (15 R542; 16 R588). -/
theorem portRead_id_shut (h : s.mainUp = false ∨ s.lc.state = lcScrap ∨ s.cfg.stage.toNat < 4) (hup : s.mainUp = true) :
    portRead i 0 .w64 s = s.respond trhId := by
  have htargets : targets (regionOf 0) 0 .w64 = [.full (.mgmt .id)] := by decide
  have ha : refusedAccess 0 .w64 = false := by decide
  simp [portRead, verdict_shut h, hup, ha, htargets, shutRead, shutValue, answersShut, readPlace, readM]

end

/-- Settles O60: an access of a register's own width reaches it, and a foreign one, one of another width and one to the shut port have
the effects that `portRead` and `portWrite` give those. -/
theorem registerPortAnswers : Obligations.RegisterPortAnswers := by
  unfold Obligations.RegisterPortAnswers
  refine ⟨fun s i a w r hp hr hreg hlock hw halign => ⟨?_, fun v c pass hh => ?_, fun v c pass hh => ?_⟩,
    fun s i n o a w r h ho ha hreg hw halign => ⟨?_, fun v c pass => ?_⟩, fun s i v c pass h => ?_,
    fun s i a w v c pass hp => ⟨fun wr hper hw halign => ?_, fun hw => ?_⟩, fun s i a w v c pass hshut => ⟨?_, fun hup => ?_⟩⟩
  · exact congrArg Host.Outcome.next (portRead_mgmt hp hr hreg hlock hw halign)
  · refine congrArg Host.Outcome.next ((portWrite_mgmt hp hr hreg hlock hw halign v c pass).trans ?_)
    rw [if_pos hh]
    rfl
  · refine congrArg Host.Outcome.next ((portWrite_mgmt hp hr hreg hlock hw halign v c pass).trans ?_)
    rw [if_neg (by simp [hh])]
    rfl
  · refine congrArg Host.Outcome.next ?_
    rw [ha] at halign ⊢
    exact portRead_page h ho hreg hw halign
  · refine congrArg Host.Outcome.next ?_
    rw [ha] at halign ⊢
    exact portWrite_page h ho hreg hw halign v c pass
  · obtain ⟨hp, hr, hheld, hsrc, hholder⟩ := h
    have hh : isHolder s i = true := by simp [isHolder, hheld, hsrc, hholder]
    have hwrite : ∀ (off : Nat) (w : Width) (r : MReg), off < 0x10000 → mgmtTable.lookup off = some r → r ≠ .mgmtLock →
        w = (if r.wide then .w64 else .w32) → off % Width.bytes w = 0 →
        portWrite i c pass off w v s = (writeM i c pass r v s).respond 0 := fun off w r hoff hreg hlock hw halign => by
      rw [portWrite_mgmt hp hr (.inl ⟨hoff, hreg⟩) hlock hw halign, if_pos hh]
    exact ⟨congrArg Host.Outcome.next (hwrite 0xB04 .w32 .lease (by decide) (by decide) (by decide) rfl (by decide)),
      congrArg Host.Outcome.next (hwrite 0xB20 .w64 .blkStatus (by decide) (by decide) (by decide) rfl (by decide)),
      congrArg Host.Outcome.next (hwrite 0xB28 .w64 .blkEnable (by decide) (by decide) (by decide) rfl (by decide))⟩
  · have ha := refusedAccess_aligned hw halign
    refine ⟨_, ?_, foreignAccess_done a wr s⟩
    cases wr
    · exact congrArg Host.Outcome.next (portRead_foreign hp hper ha)
    · exact congrArg Host.Outcome.next (portWrite_foreign hp hper ha v c pass)
  · have ha : refusedAccess a.toNat w = true := by simp [refusedAccess, hw]
    exact ⟨_, congrArg Host.Outcome.next (portWrite_refused hp ha v c pass), reservedAccess_only s,
      reported_respond (reservedAccess_reported s) 0⟩
  · exact congrArg Host.Outcome.next (portWrite_shut hshut v c pass)
  · exact congrArg Host.Outcome.next (portRead_id_shut hshut hup)

end Sys2Proof.Machine
end

section
/-! SUPPORT. Every command keeps the queue, burnt fuses and legal codes, and so does every step. -/
namespace Sys2Proof.Machine

/-- The lemma of each command's meaning, put together over the commands. -/
theorem exec_keeps (c : Instr) (s out : State) (h : exec c s = .next out) : Keeps s out := by
  cases c with
  | aonPowerUp => exact execAonPowerUp_keeps s out h
  | mainResetRelease nvm => exact execMainResetRelease_keeps nvm s out h
  | imageRead good => exact execImageRead_keeps good s out h
  | signatureAndPatchCheck => exact execSignatureAndPatchCheck_keeps s out h
  | rootAndResidentKeyLoad => exact execRootAndResidentKeyLoad_keeps s out h
  | knownAnswerTests failed => exact execKnownAnswerTests_keeps failed s out h
  | ringsOpen => exact execRingsOpen_keeps s out h
  | mainDomainReset scrap => exact execMainDomainReset_keeps scrap s out h
  | vddCoreResetCrossing => exact execVddCoreResetCrossing_keeps s out h
  | supplyWarningCrossing cycle mv => exact execSupplyWarningCrossing_keeps cycle mv s out h
  | ssHoldEnter => exact execSsHoldEnter_keeps s out h
  | cautionRecoveryDeclaration => exact execCautionRecoveryDeclaration_keeps s out h
  | nvmSupplyLow => exact execNvmSupplyLow_keeps s out h
  | regulatorTargetUpdate st fmon => exact execRegulatorTargetUpdate_keeps st fmon s out h
  | temperatureSample temps => exact execTemperatureSample_keeps temps s out h
  | agingMeasurement shift => exact execAgingMeasurement_keeps shift s out h
  | tamperAlarm src rail detail => exact execTamperAlarm_keeps src rail detail s out h
  | tamperSourceRearm src => exact execTamperSourceRearm_keeps src s out h
  | backupWindowOpen => exact execBackupWindowOpen_keeps s out h
  | tamperLogMirror verifies => exact execTamperLogMirror_keeps verifies s out h
  | tickBoundary => exact execTickBoundary_keeps s out h
  | descriptorDataLanded port tag data ns cycle => exact execDescriptorDataLanded_keeps port tag data ns cycle s out h
  | chainAdmission cycle => exact execChainAdmission_keeps cycle s out h
  | validationTick rid => exact execValidationTick_keeps rid s out h
  | slotStart bad => exact execSlotStart_keeps bad s out h
  | keyBusTransfer slot dest => exact execKeyBusTransfer_keeps slot dest s out h
  | ivMarkWrite t handle => exact execIvMarkWrite_keeps t handle s out h
  | missDerivation rid => exact execMissDerivation_keeps rid s out h
  | freightKeyLoad rid => exact execFreightKeyLoad_keeps rid s out h
  | holdRelease rid => exact execHoldRelease_keeps rid s out h
  | rsaCrtCheck rid => exact execRsaCrtCheck_keeps rid s out h
  | ssResultRelease rid => exact execSsResultRelease_keeps rid s out h
  | stepWaitTimeout rid => exact execStepWaitTimeout_keeps rid s out h
  | abortStop rid => exact execAbortStop_keeps rid s out h
  | completionWrite => exact execCompletionWrite_keeps s out h
  | coalesceTimerExpiry t k => exact execCoalesceTimerExpiry_keeps t k s out h
  | auditExtend t => exact execAuditExtend_keeps t s out h
  | readBurstReturn port tag data err flight => exact execReadBurstReturn_keeps port tag data err flight s out h
  | writeResponse port tag err flight => exact execWriteResponse_keeps port tag err flight s out h
  | burstTimeout port write tag => exact execBurstTimeout_keeps port write tag s out h
  | faultReport source detail owner cycle => exact execFaultReport_keeps source detail owner cycle s out h
  | sidingTakeover eng => exact execSidingTakeover_keeps eng s out h
  | contingencySwitch => exact execContingencySwitch_keeps s out h
  | escalationExpiry source => exact execEscalationExpiry_keeps source s out h
  | faultAck v => exact execFaultAck_keeps v s out h
  | stationRestart st => exact execStationRestart_keeps st s out h
  | stationRejoin st => exact execStationRejoin_keeps st s out h
  | lockdown => exact execLockdown_keeps s out h
  | dumpWrite good => exact execDumpWrite_keeps good s out h
  | lockstepMismatch p => exact execLockstepMismatch_keeps p s out h
  | controlProcessorResume p => exact execControlProcessorResume_keeps p s out h
  | scrub source word detail owner => exact execScrub_keeps source word detail owner s out h
  | checkerProof source good => exact execCheckerProof_keeps source good s out h
  | plannedShunt eng lane siding => exact execPlannedShunt_keeps eng lane siding s out h
  | faultInjection ident v => exact execFaultInjection_keeps ident v s out h
  | firstErrorClear ident v => exact execFirstErrorClear_keeps ident v s out h
  | faultRecordTake => exact execFaultRecordTake_keeps s out h
  | sourceHealthFailure n cause => exact execSourceHealthFailure_keeps n cause s out h
  | sourceRejoin n => exact execSourceRejoin_keeps n s out h
  | sourceRetestTimer n => exact execSourceRetestTimer_keeps n s out h
  | retest ident v => exact execRetest_keeps ident v s out h
  | conditionedBlock runs apts => exact execConditionedBlock_keeps runs apts s out h
  | drbgInstantiate => exact execDrbgInstantiate_keeps s out h
  | drbgReseed => exact execDrbgReseed_keeps s out h
  | drbgGenerate mismatch => exact execDrbgGenerate_keeps mismatch s out h
  | ringEnable ident t k v => exact execRingEnable_keeps ident t k v s out h
  | ringDisable ident t k v => exact execRingDisable_keeps ident t k v s out h
  | doorbell ident t k v => exact execDoorbell_keeps ident t k v s out h
  | completionHeadWrite ident t k v => exact execCompletionHeadWrite_keeps ident t k v s out h
  | fifoData ident t v => exact execFifoData_keeps ident t v s out h
  | fifoLast ident t n v => exact execFifoLast_keeps ident t n v s out h
  | flush ident t v => exact execFlush_keeps ident t v s out h
  | abort ident t v cyc => exact execAbort_keeps ident t v cyc s out h
  | auditSnap ident t v => exact execAuditSnap_keeps ident t v s out h
  | platformCountClear ident v => exact execPlatformCountClear_keeps ident v s out h
  | holdPeakClr ident n v => exact execHoldPeakClr_keeps ident n v s out h
  | vsMemPeakClr ident v => exact execVsMemPeakClr_keeps ident v s out h
  | ssMemPeakClr ident v => exact execSsMemPeakClr_keeps ident v s out h
  | lowClr ident v => exact execLowClr_keeps ident v s out h
  | minClr ident v => exact execMinClr_keeps ident v s out h
  | tmaxClr ident v => exact execTmaxClr_keeps ident v s out h
  | tamperFirstClear ident v => exact execTamperFirstClear_keeps ident v s out h
  | start ident t v => exact execStart_keeps ident t v s out h
  | component ident t v => exact execComponent_keeps ident t v s out h
  | finish ident t v => exact execFinish_keeps ident t v s out h
  | cancel ident t v => exact execCancel_keeps ident t v s out h
  | invalidate ident t v => exact execInvalidate_keeps ident t v s out h
  | keCompareResult t => exact execKeCompareResult_keeps t s out h
  | keSessionTimeout t => exact execKeSessionTimeout_keeps t s out h
  | keyStoreCommit good => exact execKeyStoreCommit_keeps good s out h
  | send ident box v => exact execSend_keeps ident box v s out h
  | ack ident box v => exact execAck_keeps ident box v s out h
  | mailboxDelivery => exact execMailboxDelivery_keeps s out h
  | unknownRequestCode => exact execUnknownRequestCode_keeps s out h
  | tenantWaybill => exact execTenantWaybill_keeps s out h
  | debugChallenge => exact execDebugChallenge_keeps s out h
  | debugPass payload => exact execDebugPass_keeps payload s out h
  | curveLoad payload => exact execCurveLoad_keeps payload s out h
  | curveLoadComplete timeout => exact execCurveLoadComplete_keeps timeout s out h
  | curveUnload => exact execCurveUnload_keeps s out h
  | curveRetired ix => exact execCurveRetired_keeps ix s out h
  | storageKeyRotation => exact execStorageKeyRotation_keeps s out h
  | rotationBlockCopy => exact execRotationBlockCopy_keeps s out h
  | pointerFlip => exact execPointerFlip_keeps s out h
  | reroot => exact execReroot_keeps s out h
  | blockWaybill => exact execBlockWaybill_keeps s out h
  | waybillSigned good => exact execWaybillSigned_keeps good s out h
  | lifeCycleTransition => exact execLifeCycleTransition_keeps s out h
  | authoritySeal payload => exact execAuthoritySeal_keeps payload s out h
  | otpProgramComplete err => exact execOtpProgramComplete_keeps err s out h
  | configurationAmendment => exact execConfigurationAmendment_keeps s out h
  | amendmentImageLoaded payload good => exact execAmendmentImageLoaded_keeps payload good s out h
  | configInstall payload good => exact execConfigInstall_keeps payload good s out h
  | firmwareHandover => exact execFirmwareHandover_keeps s out h
  | dumpRetrieval good => exact execDumpRetrieval_keeps good s out h
  | cutoverArmCheck => exact execCutoverArmCheck_keeps s out h
  | cutoverSwitch => exact execCutoverSwitch_keeps s out h
  | handoverHalt p => exact execHandoverHalt_keeps p s out h
  | handoverResume p good => exact execHandoverResume_keeps p good s out h
  | tenantReset ident own v cyc => exact execTenantReset_keeps ident own v cyc s out h
  | tenantResetDone t => exact execTenantResetDone_keeps t s out h
  | lockAcquire ident => exact execLockAcquire_keeps ident s out h
  | lockRelease ident v => exact execLockRelease_keeps ident v s out h
  | processorLockRequest p ask => exact execProcessorLockRequest_keeps p ask s out h
  | leaseExpiry => exact execLeaseExpiry_keeps s out h
  | dbgHalt ident v => exact execDbgHalt_keeps ident v s out h
  | dbgStep ident v => exact execDbgStep_keeps ident v s out h
  | dbgResume ident v => exact execDbgResume_keeps ident v s out h
  | dbgRead ident v => exact execDbgRead_keeps ident v s out h
  | dbgWrite ident v => exact execDbgWrite_keeps ident v s out h
  | bist ident v pass => exact execBist_keeps ident v pass s out h
  | registerWrite ident a w v cyc pass => exact execRegisterWrite_keeps ident a w v cyc pass s out h
  | mainPowerReturn => exact execMainPowerReturn_keeps s out h
  | alwaysOnReset => exact execAlwaysOnReset_keeps s out h
  | nvmSupplyRestored => exact execNvmSupplyRestored_keeps s out h
  | registerRead ident a w => exact execRegisterRead_keeps ident a w s out h
  | amendmentPrepared good => exact execAmendmentPrepared_keeps good s out h
  | inactiveBankReload owner good => exact execInactiveBankReload_keeps owner good s out h
  | cacheSlotReload t handle => exact execCacheSlotReload_keeps t handle s out h

/-- A step that goes on ran the front command, or idled on an empty queue. -/
theorem step_cases {s t : State} (h : step s = .next t) :
    (s.pending = [] ∧ t = s) ∨ ∃ c rest, s.pending = c :: rest ∧ exec c { s with pending := rest } = .next t := by
  unfold step at h
  split at h
  case h_1 hp =>
    injection h with h
    exact .inl ⟨hp, h.symm⟩
  case h_2 c rest hp => exact .inr ⟨c, rest, hp, h⟩

/-- A command whose meaning is one state, or a choice between states, goes on. -/
theorem exec_runs (c : Instr) (s : State) (hd : ∀ p g d n y, c ≠ .descriptorDataLanded p g d n y)
    (hr : ∀ p g d e f, c ≠ .readBurstReturn p g d e f) (hw : ∀ p g e f, c ≠ .writeResponse p g e f) : ∃ t, exec c s = .next t := by
  cases c with
  | descriptorDataLanded p g d n y => exact absurd rfl (hd p g d n y)
  | readBurstReturn p g d e f => exact absurd rfl (hr p g d e f)
  | writeResponse p g e f => exact absurd rfl (hw p g e f)
  | vddCoreResetCrossing | ssHoldEnter | cautionRecoveryDeclaration | nvmSupplyLow | slotStart | sidingTakeover
  | firstErrorClear | retest | ringEnable | ringDisable | doorbell | completionHeadWrite | fifoData | fifoLast | flush
  | abort | auditSnap | platformCountClear | holdPeakClr | vsMemPeakClr | ssMemPeakClr | lowClr | minClr | tmaxClr
  | tamperFirstClear | start | component | finish | cancel | invalidate | keCompareResult | keSessionTimeout | send | ack
  | debugPass | curveLoad | curveUnload | storageKeyRotation | firmwareHandover | lockAcquire | lockRelease
  | processorLockRequest | dbgHalt | dbgStep | dbgResume | dbgRead | dbgWrite | bist | registerWrite | mainPowerReturn
  | registerRead => exact ⟨_, rfl⟩
  | aonPowerUp | mainResetRelease | imageRead | signatureAndPatchCheck | rootAndResidentKeyLoad | knownAnswerTests
  | ringsOpen | mainDomainReset | supplyWarningCrossing | regulatorTargetUpdate | temperatureSample | agingMeasurement
  | tamperAlarm | tamperSourceRearm | backupWindowOpen | tamperLogMirror | tickBoundary | chainAdmission | validationTick
  | keyBusTransfer | ivMarkWrite | missDerivation | freightKeyLoad | holdRelease | rsaCrtCheck | ssResultRelease
  | stepWaitTimeout | abortStop | completionWrite | coalesceTimerExpiry | auditExtend | burstTimeout | faultReport
  | contingencySwitch | escalationExpiry | faultAck | stationRestart | stationRejoin | lockdown | dumpWrite
  | lockstepMismatch | controlProcessorResume | scrub | checkerProof | plannedShunt | faultInjection | faultRecordTake
  | sourceHealthFailure | sourceRejoin | sourceRetestTimer | conditionedBlock | drbgInstantiate | drbgReseed | drbgGenerate
  | keyStoreCommit | mailboxDelivery | unknownRequestCode | tenantWaybill | debugChallenge | curveLoadComplete
  | curveRetired | rotationBlockCopy | pointerFlip | reroot | blockWaybill | waybillSigned | lifeCycleTransition
  | authoritySeal | otpProgramComplete | configurationAmendment | amendmentImageLoaded | configInstall | dumpRetrieval
  | cutoverArmCheck | cutoverSwitch | handoverHalt | handoverResume | tenantReset | tenantResetDone | leaseExpiry
  | alwaysOnReset | nvmSupplyRestored | amendmentPrepared | inactiveBankReload | cacheSlotReload =>
    simp only [exec, ok,
      execAonPowerUp, execMainResetRelease, execImageRead, execSignatureAndPatchCheck, execRootAndResidentKeyLoad,
      execKnownAnswerTests, execRingsOpen, execMainDomainReset, execSupplyWarningCrossing, execRegulatorTargetUpdate,
      execTemperatureSample, execAgingMeasurement, execTamperAlarm, execTamperSourceRearm, execBackupWindowOpen,
      execTamperLogMirror, execTickBoundary, execChainAdmission, execValidationTick, execKeyBusTransfer, execIvMarkWrite,
      execMissDerivation, execFreightKeyLoad, execHoldRelease, execRsaCrtCheck, execSsResultRelease, execStepWaitTimeout,
      execAbortStop, execCompletionWrite, execCoalesceTimerExpiry, execAuditExtend, execBurstTimeout, execFaultReport,
      execContingencySwitch, execEscalationExpiry, execFaultAck, execStationRestart, execStationRejoin, execLockdown,
      execDumpWrite, execLockstepMismatch, execControlProcessorResume, execScrub, execCheckerProof, execPlannedShunt,
      execFaultInjection, execFaultRecordTake, execSourceHealthFailure, execSourceRejoin, execSourceRetestTimer,
      execConditionedBlock, execDrbgInstantiate, execDrbgReseed, execDrbgGenerate, execKeyStoreCommit, execMailboxDelivery,
      execUnknownRequestCode, execTenantWaybill, execDebugChallenge, execCurveLoadComplete, execCurveRetired,
      execRotationBlockCopy, execPointerFlip, execReroot, execBlockWaybill, execWaybillSigned, execLifeCycleTransition,
      execAuthoritySeal, execOtpProgramComplete, execConfigurationAmendment, execAmendmentImageLoaded, execConfigInstall,
      execDumpRetrieval, execCutoverArmCheck, execCutoverSwitch, execHandoverHalt, execHandoverResume, execTenantReset,
      execTenantResetDone, execLeaseExpiry, execAlwaysOnReset, execNvmSupplyRestored, execAmendmentPrepared,
      execInactiveBankReload, execCacheSlotReload]
    (repeat' split) <;> exact ⟨_, rfl⟩

theorem exec_descriptorDataLanded {s : State} {p : Fin 4} {g : Fin 256} {b : Burst} (hb : burstOf s p.val false g.val = some b)
    {d : Bytes} {n : Nat} {y : Cycle} : exec (.descriptorDataLanded p g d n y) s = .next (readReturn b d false n y.val s) := by
  simp only [exec, execDescriptorDataLanded, hb, ok]

theorem exec_readBurstReturn {s : State} {p : Fin 4} {g : Fin 256} {b : Burst} (hb : burstOf s p.val false g.val = some b)
    {d : Bytes} {e : Bool} {f : Flight} :
    exec (.readBurstReturn p g d e f) s = .next (refillReads (readReturn b d e f.ns f.cycle.val s)) := by
  simp only [exec, execReadBurstReturn, hb, ok]

theorem exec_writeResponse {s : State} {p : Fin 4} {g : Fin 256} {b : Burst} (hb : burstOf s p.val true g.val = some b)
    {e : Bool} {f : Flight} : exec (.writeResponse p g e f) s = .next (refillWrites (writeReturn b e f.ns f.cycle.val s)) := by
  simp only [exec, execWriteResponse, hb, ok]

/-- Settles O7: a fabric response looks for its burst, and every other command goes on. -/
theorem stopsOnlyOnUnsolicited : Obligations.StopsOnlyOnUnsolicited := by
  unfold Obligations.StopsOnlyOnUnsolicited
  intro c s
  by_cases hd : ∃ p g d n y, c = .descriptorDataLanded p g d n y
  · obtain ⟨p, g, d, n, y, rfl⟩ := hd
    cases hb : burstOf s p.val false g.val with
    | none => exact .inr ⟨by simp only [exec, execDescriptorDataLanded, hb], .inl ⟨p, g, d, n, y, rfl, hb⟩⟩
    | some b => exact .inl ⟨_, exec_descriptorDataLanded hb⟩
  by_cases hr : ∃ p g d e f, c = .readBurstReturn p g d e f
  · obtain ⟨p, g, d, e, f, rfl⟩ := hr
    cases hb : burstOf s p.val false g.val with
    | none => exact .inr ⟨by simp only [exec, execReadBurstReturn, hb], .inr (.inl ⟨p, g, d, e, f, rfl, hb⟩)⟩
    | some b => exact .inl ⟨_, exec_readBurstReturn hb⟩
  by_cases hw : ∃ p g e f, c = .writeResponse p g e f
  · obtain ⟨p, g, e, f, rfl⟩ := hw
    cases hb : burstOf s p.val true g.val with
    | none => exact .inr ⟨by simp only [exec, execWriteResponse, hb], .inr (.inr ⟨p, g, e, f, rfl, hb⟩)⟩
    | some b => exact .inl ⟨_, exec_writeResponse hb⟩
  · exact .inl (exec_runs c s (fun p g d n y h => hd ⟨p, g, d, n, y, h⟩) (fun p g d e f h => hr ⟨p, g, d, e, f, h⟩)
      fun p g e f h => hw ⟨p, g, e, f, h⟩)

/-- Settles O1: the queue has a front command, so the step's second case runs it. -/
theorem stepRunsFrontCommand : Obligations.StepRunsFrontCommand := by
  unfold Obligations.StepRunsFrontCommand
  intro c rest s h
  simp only [step, h]

/-- Settles O2: the queue is empty, so the step's first case idles. -/
theorem emptyQueueIdles : Obligations.EmptyQueueIdles := by
  unfold Obligations.EmptyQueueIdles
  intro s h
  simp only [step, h]

/-- Settles O3: the command that runs leaves the rest of the queue as it is. -/
theorem everyStepAdvancesQueue : Obligations.EveryStepAdvancesQueue := by
  unfold Obligations.EveryStepAdvancesQueue queueAdvanced
  intro s t h
  obtain ⟨hp, rfl⟩ | ⟨c, rest, hp, hc⟩ := step_cases h
  · rw [hp, List.drop_nil]
  · rw [hp, (exec_keeps c _ t hc).pending, List.drop_one, List.tail_cons]

/-- Settles O4: no command clears a burnt fuse, and taking the command from the queue touches none. -/
theorem everyStepKeepsFuses : Obligations.EveryStepKeepsFuses := by
  unfold Obligations.EveryStepKeepsFuses
  intro s t h
  obtain ⟨-, rfl⟩ | ⟨c, rest, -, hc⟩ := step_cases h
  · exact fun _ _ hb => hb
  · exact (exec_keeps c _ t hc).otp

/-- Settles O5: no command makes a legal code illegal, and the queue holds no code. -/
theorem everyStepKeepsCodes : Obligations.EveryStepKeepsCodes := by
  unfold Obligations.EveryStepKeepsCodes
  intro s t hs h
  obtain ⟨-, rfl⟩ | ⟨c, rest, -, hc⟩ := step_cases h
  · exact hs
  · exact (exec_keeps c _ t hc).codes hs

/-- Settles O6: the reset values of the three codes. -/
theorem resetCodesLegal : Obligations.ResetCodesLegal := codesLegal_reset

/-- Settles O8: the reset values, which every tenant's page and every ring pair of it share. -/
theorem resetLeavesNothingRunning : Obligations.ResetLeavesNothingRunning := by
  unfold Obligations.ResetLeavesNothingRunning
  refine ⟨rfl, rfl, rfl, rfl, rfl, rfl, rfl, rfl, rfl, rfl, fun n k => ⟨?_, ?_⟩⟩
  · simp [State.reset, State.ring, State.page, TenantPage.reset, Ring.reset]
  · simp [State.reset, State.page, TenantPage.reset]

end Sys2Proof.Machine
end

section
/-! SUPPORT. The always-on rail, and the resets of the main domain (13 R505; 14 R527, R530; 15 R542; 18 R620, R624). -/
namespace Sys2Proof.Machine

/-- A program that is cut changes fuses, and counts the bits drawn for it (18 R620). -/
theorem burnPart_frame (s : State) : burnPart s = { s with otp := (burnPart s).otp, drawn := (burnPart s).drawn } := by
  unfold burnPart
  split <;> rfl

@[simp] theorem burnPart_aon (s : State) : (burnPart s).aon = s.aon := by rw [burnPart_frame]

@[simp] theorem burnPart_nvm (s : State) : (burnPart s).nvm = s.nvm := by rw [burnPart_frame]

/-- A window that has just opened is open: its end lies 62.5 us on (14 R527). -/
theorem windowOpen_opened (a : Aon) : windowOpen { a with window := some (a.rtc + windowUnits) } = true := by
  have hspan : a.rtc + windowUnits - a.rtc = windowUnits := by bv_omega
  simp [windowOpen, hspan]

theorem sensorSupply_of_window {a : Aon} (hup : a.up = true) (hw : windowOpen a = true) : sensorSupply a = true := by
  simp [sensorSupply, hup, hw]

/-- Settles O9: each supply command is one update of the always-on domain; the window is measured on the clock that has run on. -/
theorem alwaysOnDomainSupplies : Obligations.AlwaysOnDomainSupplies := by
  unfold Obligations.AlwaysOnDomainSupplies
  refine ⟨fun s hup => ?_, fun s hup hcell => ?_, fun s => rfl, fun s hup hcell => ?_⟩
  · exact ⟨_, if_neg (by simp [hup]), rfl, rfl, rfl, rfl, rfl⟩
  · exact ⟨_, if_pos (by simp [hup, hcell]), rfl, rfl, rfl, rfl, rfl, rfl⟩
  · have hopen := windowOpen_opened (advanceClock s).aon
    exact ⟨_, if_pos (by simp [hup, hcell]), hopen, sensorSupply_of_window hup hopen, rfl⟩

theorem resetMain_nvm (s : State) : (resetMain s).nvm = keepNvm s.nvm := congrArg keepNvm (burnPart_nvm s)

theorem resetMain_storeA (s : State) : (resetMain s).nvm.storeA = s.nvm.storeA := by rw [resetMain_nvm, keepNvm]

theorem resetMain_storeB (s : State) : (resetMain s).nvm.storeB = s.nvm.storeB := by rw [resetMain_nvm, keepNvm]

theorem resetMain_aon (s : State) : (resetMain s).aon = s.aon := burnPart_aon s

/-- Settles O10: the reset value stands in every field but those that the reset keeps; a cut program clears no fuse. -/
theorem mainDomainEntersReset : Obligations.MainDomainEntersReset := by
  unfold Obligations.MainDomainEntersReset
  refine ⟨fun s => ?_, fun s => ?_, fun s hscrap => ?_⟩
  · have hkeeps := keeps_resetMain s
    exact ⟨resetMain s, rfl, rfl, rfl, rfl, rfl, rfl, rfl, rfl, rfl, resetMain_aon s, resetMain_storeA s, resetMain_storeB s,
      hkeeps.otp, hkeeps.pending⟩
  · refine ⟨_, rfl, rfl, rfl, rfl, rfl, ?_, resetMain_storeA s, (keeps_resetMain s).otp⟩
    simp only [State.updAon_aon, resetMain_aon]
  · have hexec : exec (.mainDomainReset true) s = .next (resetScrap s) := if_pos hscrap
    exact ⟨resetScrap s, hexec, rfl, rfl, rfl, rfl, rfl, rfl⟩

end Sys2Proof.Machine
end

section
/-! SUPPORT. What a start that keeps the rings closed leaves: it loads roots, reads the marker and verifies the log, and no more (14 R530,
R538; 16 R574). -/
namespace Sys2Proof.Machine

/-- What a closed start leaves: all but its stage, the roots, fuses of CELL_LOSS, the NVM and the tamper log, of which BEGUN stays, as BBK does. -/
def State.besideLog (s : State) : State :=
  { s with drawn := 0, mgmt := State.reset.mgmt, ks := State.reset.ks, aon := { Aon.reset with begun := s.aon.begun, bbk := s.aon.bbk },
           otp := State.reset.otp, nvm := State.reset.nvm, cfg := State.reset.cfg }

@[simp ↓] theorem updAon_besideLog (s : State) (f : Aon → Aon) (hbegun : (f s.aon).begun = s.aon.begun)
    (hbbk : (f s.aon).bbk = s.aon.bbk) : (s.updAon f).besideLog = s.besideLog := by
  simp [State.besideLog, hbegun, hbbk]

@[simp ↓] theorem updCfg_besideLog (s : State) (f : Config → Config) : (s.updCfg f).besideLog = s.besideLog := rfl
@[simp ↓] theorem updNvm_besideLog (s : State) (f : Nvm → Nvm) : (s.updNvm f).besideLog = s.besideLog := rfl
@[simp ↓] theorem updKs_besideLog (s : State) (f : Custody → Custody) : (s.updKs f).besideLog = s.besideLog := rfl
@[simp ↓] theorem draw_besideLog (s : State) (n : Nat) : (s.draw n).besideLog = s.besideLog := rfl
@[simp ↓] theorem burn_besideLog (s : State) (r : Fin 128) (d : BitVec 64) : (s.burn r d).besideLog = s.besideLog := rfl
@[simp ↓] theorem assertBlk_besideLog (n : Nat) (s : State) : (assertBlk n s).besideLog = s.besideLog := rfl
@[simp ↓] theorem ite_besideLog {c : Prop} [Decidable c] (s t : State) :
    (if c then s else t).besideLog = if c then s.besideLog else t.besideLog := by split <;> rfl

@[simp] theorem chainEntry_begun (e : Bytes) (a : Aon) : (chainEntry e a).begun = a.begun := rfl

@[simp] theorem gather_begun (src resp : Nat) (a : Aon) : (gather src resp a).begun = a.begun := by
  unfold gather
  dsimp only
  split <;> rfl

@[simp] theorem ite_begun {c : Prop} [Decidable c] (a b : Aon) : (if c then a else b).begun = if c then a.begun else b.begun := by
  split <;> rfl

theorem foldl_begun {α : Type} (f : Aon → α → Aon) (h : ∀ a x, (f a x).begun = a.begun) (l : List α) (a : Aon) :
    (l.foldl f a).begun = a.begun := by
  induction l generalizing a with
  | nil => rfl
  | cons x l ih => rw [List.foldl_cons, ih, h]

@[simp] theorem restoreLog_begun (lk : Bytes) (c : BitVec 64) (h : Bytes) (a : Aon) : (restoreLog lk c h a).begun = a.begun := by
  rw [restoreLog, foldl_begun _ fun a e => chainEntry_begun _ a]

@[simp ↓] theorem restoreLog_besideLog (lk : Bytes) (c : BitVec 64) (h : Bytes) (s : State) :
    (s.updAon (restoreLog lk c h)).besideLog = s.besideLog :=
  updAon_besideLog s _ (restoreLog_begun lk c h s.aon) (restoreLog_bbk lk c h s.aon)

@[simp ↓] theorem appendLog_besideLog (src resp flags detail : Nat) (s : State) :
    (appendLog src resp flags detail s).besideLog = s.besideLog := by
  unfold appendLog
  simp

@[simp ↓] theorem mirrorPending_besideLog (s : State) : (mirrorPending s).besideLog = s.besideLog := by
  unfold mirrorPending chainSummary
  dsimp only
  split
  · rfl
  · rw [updAon_besideLog _ _ rfl rfl, updNvm_besideLog]
    split <;> simp

@[simp ↓] theorem mirrorAtStart_besideLog (s : State) : (mirrorAtStart s).besideLog = s.besideLog := by
  unfold mirrorAtStart
  simp

@[simp ↓] theorem verifyLog_besideLog (s : State) : (verifyLog s).besideLog = s.besideLog := by
  unfold verifyLog
  dsimp only
  (repeat' split) <;> simp [*]

@[simp ↓] theorem noteLoss_besideLog (s : State) : (noteLoss s).besideLog = s.besideLog := by
  unfold noteLoss
  simp

@[simp ↓] theorem readMarker_besideLog (s : State) : (readMarker s).besideLog = s.besideLog := by
  unfold readMarker burnCellLoss
  dsimp only
  (repeat' split) <;> simp

@[simp ↓] theorem loadRoots_besideLog (s : State) : (loadRoots s).besideLog = s.besideLog := by
  simp [loadRoots, loadSystem]

@[simp ↓] theorem closeStart_besideLog (cause : Nat) (s : State) : (closeStart cause s).besideLog = s.besideLog := by
  simp [closeStart, loadSystem]

@[simp ↓] theorem stageOne_besideLog (s : State) : (stageOne s).besideLog = s.besideLog := by
  simp [stageOne]

theorem besideLog_eq {s t : State} (h : t.besideLog = s.besideLog) :
    t.mainUp = s.mainUp ∧ t.lc = s.lc ∧ t.tick = s.tick ∧ t.tenants = s.tenants ∧ t.reqs = s.reqs ∧
      t.aon.begun = s.aon.begun ∧ t.aon.bbk = s.aon.bbk := by
  simp only [State.besideLog, State.mk.injEq, Aon.mk.injEq] at h
  simp [h]

end Sys2Proof.Machine
end

section
/-! SUPPORT. Fuse sense at a cold start, and what it makes of a pending transition (15 R541, R548, R553 to R555; 16 R574). -/
namespace Sys2Proof.Machine

/-- The state that fuse sense finds at a release: the domain is up, the log's flags clear, and the NVM's boot block read (16 R574; 18 R624). -/
def State.broughtUp (size : Option Nat) (s : State) : State :=
  { s with mainUp := true, aon := { s.aon with zeroise := false, resp := 0, mirrorBad := false },
           nvm := { takeBoot s.nvm with present := (size.map fun c => decide (c ≤ 4)).getD false,
                                        sizeN := (size.map fun c => if c ≤ 4 then c else 0).getD 0 } }

/-- A release senses the fuses, and goes on where no program is due (15 R555). -/
theorem release_eq (size : Option Nat) (s : State) : release size s =
    if (senseAtStart (s.broughtUp size)).lc.burning = 0 then stageOne (senseAtStart (s.broughtUp size))
    else senseAtStart (s.broughtUp size) := rfl

theorem exec_mainResetRelease {s : State} (hm : s.mainUp = false) (hu : s.aon.up = true) (hc : s.aon.onCell = false)
    (nvm : Option (Fin 8)) : exec (.mainResetRelease nvm) s = .next (release (nvm.map Fin.val) s) :=
  if_neg (by simp [hm, hu, hc])

theorem senseSlot_state_le {s : State} {acc : Nat × Option (Nat × Nat)} {t : Nat} (k : Nat) (hacc : acc.1 ≤ 7) (ht : t ≤ 7) :
    (senseSlot s acc t k).1 ≤ 7 := by
  unfold senseSlot
  dsimp only
  split
  · exact ht
  · split <;> exact hacc

/-- Fuse sense gives a state of Table 15-1. -/
theorem fuseSense_state_le (s : State) : (fuseSense s).1 ≤ 7 := by
  have hfold : ((List.range 6).foldl (fun acc i => (List.range 5).foldl (fun acc k => senseSlot s acc (i + 2) k) acc) (1, none)).1 ≤ 7 :=
    List.foldlRecOn (motive := fun acc : Nat × Option (Nat × Nat) => acc.1 ≤ 7) _ _ (by decide) fun acc hacc i hi =>
      List.foldlRecOn (motive := fun acc : Nat × Option (Nat × Nat) => acc.1 ≤ 7) _ _ hacc fun acc hacc k _ =>
        senseSlot_state_le k hacc (by have := List.mem_range.mp hi; omega)
  unfold fuseSense
  (repeat' split) <;> simp_all

/-- The state as sensed, before what a pending transition makes of it. -/
def State.sensed (x : Nat) (s : State) : State :=
  beginLog (BitVec.ofNat 4 x) (s.updLc fun _ => { LifeCycle.reset with state := BitVec.ofNat 4 x })

theorem senseAtStart_settled {s : State} {x : Nat} (h : fuseSense s = (x, none)) : senseAtStart s = s.sensed x := by
  unfold senseAtStart
  rw [h]
  rfl

theorem beginLog_frame (lc : BitVec 4) (s : State) : beginLog lc s = { s with aon := (beginLog lc s).aon } := by
  unfold beginLog
  (repeat' split) <;> rfl

theorem beginLog_eq_self {lc : BitVec 4} {s : State} (h : lc ≠ 2 ∨ s.aon.begun = true) : beginLog lc s = s :=
  if_pos (by simpa using h)

theorem beginLog_begun (s : State) : (beginLog 2 s).aon.begun = true := by
  unfold beginLog
  split
  case isTrue h => simpa using h
  case isFalse => split <;> rfl

theorem sensed_lc (x : Nat) (s : State) : (s.sensed x).lc = { LifeCycle.reset with state := BitVec.ofNat 4 x } := by
  rw [State.sensed, beginLog_frame]
  rfl

theorem sensed_frame (x : Nat) (s : State) : s.sensed x = { s with aon := (s.sensed x).aon, lc := (s.sensed x).lc } := by
  rw [State.sensed, beginLog_frame]
  rfl

/-- Which state the log's beginning leaves of what a start senses: nothing but the log itself (14 R535). -/
theorem sensed_begun {x : Nat} (hx : x ≤ 7) (s : State) :
    (x = 2 → (s.sensed x).aon.begun = true) ∧ (x ≠ 2 → (s.sensed x).aon = s.aon) := by
  refine ⟨?_, fun hne => ?_⟩
  · rintro rfl
    exact beginLog_begun _
  · have hcode : BitVec.ofNat 4 x ≠ 2 := fun h => hne (by
      have := congrArg BitVec.toNat h
      simp at this
      omega)
    rw [State.sensed, beginLog_eq_self (.inl hcode)]
    rfl

/-- A start that senses no pending transition goes on with what follows. -/
theorem release_settled {s : State} {x : Nat} (h : fuseSense s = (x, none)) (size : Option Nat) :
    release size s = stageOne ((s.broughtUp size).sensed x) := by
  have hsense : senseAtStart (s.broughtUp size) = (s.broughtUp size).sensed x := senseAtStart_settled h
  rw [release_eq, hsense, if_pos (by rw [sensed_lc]; rfl)]

/-! ### A pending transition -/

/-- A wipe of the NVM areas changes the NVM, the replies, and how far the transition has come. -/
theorem eraseAreas_frame (t : Nat) (s : State) : eraseAreas t s =
    { s with drawn := (eraseAreas t s).drawn, nvm := (eraseAreas t s).nvm, mgmt := (eraseAreas t s).mgmt,
             lc := { s.lc with burning := (eraseAreas t s).lc.burning, wiped := (eraseAreas t s).lc.wiped,
                               seq := (eraseAreas t s).lc.seq } } := by
  unfold eraseAreas endLcRequest reply
  dsimp only
  (repeat' split) <;> rfl

theorem endLcRequest_idle {s : State} (h : s.lc.seq = none) (status : Nat) : endLcRequest status s = s := by
  unfold endLcRequest
  rw [h]

/-- Without an NVM nothing is wiped, and the transition stays pending (log entry 99). -/
theorem eraseAreas_absent {s : State} (hp : s.nvm.present = false) (hseq : s.lc.seq = none) (t : Nat) :
    eraseAreas t s = s.updLc fun l => { l with burning := 0 } := by
  unfold eraseAreas
  dsimp only
  rw [if_pos (by simp [hp])]
  exact endLcRequest_idle (s := s.updLc fun l => { l with burning := 0 }) hseq 6

/-- The state before a pending transition's wipe. -/
def State.pendingIn (x y k : Nat) (s : State) : State :=
  (s.sensed x).updLc fun l => { l with next := BitVec.ofNat 4 y, slot := k, wiped := false, phase := 1 }

theorem senseAtStart_pending {s : State} {x y k : Nat} (h : fuseSense s = (x, some (y, k))) : senseAtStart s =
    if wipes y && !(makeWipe y (s.pendingIn x y k)).nvm.present then makeWipe y (s.pendingIn x y k)
    else if (makeWipe y (s.pendingIn x y k)).otpRow (slotRow y k + 1) &&& targetCode y = 0 then
      (makeWipe y (s.pendingIn x y k)).updLc fun l => { l with burning := 2 }
    else rollRetarget (makeWipe y (s.pendingIn x y k)) := by
  unfold senseAtStart
  rw [h]
  rfl

theorem eraseAreas_present (t : Nat) (s : State) : (eraseAreas t s).nvm.present = s.nvm.present := by
  have hwipe : ∀ n : Nvm, (wipeNvm t n).present = n.present := fun n => by
    unfold wipeNvm
    dsimp only
    (repeat' split) <;> rfl
  unfold eraseAreas endLcRequest reply
  dsimp only
  (repeat' split) <;> first | exact hwipe _ | rfl

/-- The state after the erase line of a wipe, before its NVM areas (15 R553). -/
def State.lineErased (s : State) : State := (eraseLine s).updLc fun l => { l with phase := 2 }

theorem lineErased_frame (s : State) : s.lineErased =
    { s with stations := s.lineErased.stations, tenants := s.lineErased.tenants, reqs := s.lineErased.reqs,
             ks := s.lineErased.ks, ss := s.lineErased.ss, dbg := s.lineErased.dbg, en := s.lineErased.en,
             aon := { s.aon with bbk := none, rootClr := true, zeroise := true }, lc := { s.lc with phase := 2 } } := by
  unfold State.lineErased eraseLine
  rfl

theorem lineErased_kr (s : State) : s.lineErased.ks.kr = none := rfl

theorem makeWipe_plain {t : Nat} (hw : wipes t = false) (s : State) : makeWipe t s = s.updLc fun l => { l with wiped := true } :=
  if_pos (by simp [hw])

theorem makeWipe_wiping {t : Nat} (hw : wipes t = true) (s : State) :
    makeWipe t s = if s.pwr.nvmLow then s.lineErased else eraseAreas t s.lineErased := by
  unfold makeWipe
  rw [if_neg (by simp [hw])]
  rfl

/-- What a wipe at a start leaves: the fuses, the configuration, and of the life cycle the state sensed and the transition's target and
slot; a wipe of the state's own leaves no root (15 R553, R555). -/
theorem makeWipe_leaves (t : Nat) (s : State) :
    (makeWipe t s).nvm.present = s.nvm.present ∧ (makeWipe t s).otp = s.otp ∧ (makeWipe t s).cfg = s.cfg ∧
      (makeWipe t s).mainUp = s.mainUp ∧ (makeWipe t s).lc.state = s.lc.state ∧ (makeWipe t s).lc.next = s.lc.next ∧
      (makeWipe t s).lc.slot = s.lc.slot ∧ (wipes t = true → (makeWipe t s).aon.bbk = none ∧ (makeWipe t s).ks.kr = none) := by
  cases hw : wipes t with
  | false =>
    rw [makeWipe_plain hw]
    exact ⟨rfl, rfl, rfl, rfl, rfl, rfl, rfl, fun h => absurd h (by decide)⟩
  | true =>
    rw [makeWipe_wiping hw]
    split
    · rw [lineErased_frame]
      exact ⟨rfl, rfl, rfl, rfl, rfl, rfl, rfl, fun _ => ⟨rfl, lineErased_kr s⟩⟩
    · rw [eraseAreas_present, eraseAreas_frame, lineErased_frame]
      exact ⟨rfl, rfl, rfl, rfl, rfl, rfl, rfl, fun _ => ⟨rfl, lineErased_kr s⟩⟩

theorem makeWipe_absent {t : Nat} {s : State} (hw : wipes t = true) (hp : s.nvm.present = false) (hseq : s.lc.seq = none)
    (hb : s.lc.burning = 0) : makeWipe t s = s.lineErased := by
  rw [makeWipe_wiping hw, eraseAreas_absent (s := s.lineErased) hp hseq]
  have hlc : ({ s.lineErased.lc with burning := 0 } : LifeCycle) = s.lineErased.lc := by
    rw [lineErased_frame, ← hb]
  simp only [State.updLc, hlc, ite_self]

theorem closeStart_absent_nvm {s : State} (hp : s.nvm.present = false) (cause : Nat) : (closeStart cause s).nvm = s.nvm := by
  have hread : ∀ u : State, (readMarker u).nvm = u.nvm := fun u => by
    unfold readMarker burnCellLoss
    dsimp only
    (repeat' split) <;> rfl
  have hloss : ∀ u : State, (noteLoss u).nvm = u.nvm := fun u => by
    unfold noteLoss appendLog
    dsimp only
    (repeat' split) <;> rfl
  unfold closeStart
  dsimp only
  rw [hread]
  simp [hp, hread, hloss, loadSystem]

theorem stageOne_absent_nvm {s : State} (hp : s.nvm.present = false) : (stageOne s).nvm = s.nvm := by
  unfold stageOne
  split
  · rfl
  · split
    · exact closeStart_absent_nvm hp 0
    · rw [if_pos (by simp [hp])]
      exact closeStart_absent_nvm hp 1

/-- With an NVM and a state that opens the rings, the start goes on to read the image (16 R574). -/
theorem stageOne_reads {s : State} (hs : s.lc.state ≠ lcScrap) (hr : ringless s = false) (hp : s.nvm.present = true) :
    stageOne s = s.updCfg fun c => { c with stage := 2, area := s.nvm.imgPtr.area } := by
  unfold stageOne
  rw [if_neg hs, if_neg (by simp [hr]), if_neg (by simp [hp])]

theorem broughtUp_listed {n : Nat} (hn : n ≤ 4) (s : State) : s.broughtUp (some n) =
    { s with mainUp := true, aon := { s.aon with zeroise := false, resp := 0, mirrorBad := false },
             nvm := { takeBoot s.nvm with present := true, sizeN := n } } := by
  simp [State.broughtUp, hn]

theorem broughtUp_present {nvm : Option (Fin 8)} (h : ∃ n : Fin 8, nvm = some n ∧ n.val ≤ 4) (s : State) :
    (s.broughtUp (nvm.map Fin.val)).nvm.present = true := by
  obtain ⟨n, rfl, hn⟩ := h
  rw [Option.map_some, broughtUp_listed hn]

theorem pendingIn_frame (x y k : Nat) (s : State) : s.pendingIn x y k =
    { s with aon := (s.pendingIn x y k).aon,
             lc := { LifeCycle.reset with state := BitVec.ofNat 4 x, next := BitVec.ofNat 4 y, slot := k, wiped := false, phase := 1 } } := by
  unfold State.pendingIn State.sensed
  rw [beginLog_frame]
  rfl

@[simp] theorem pendingIn_otp (x y k : Nat) (s : State) : (s.pendingIn x y k).otp = s.otp := by rw [pendingIn_frame]
@[simp] theorem pendingIn_cfg (x y k : Nat) (s : State) : (s.pendingIn x y k).cfg = s.cfg := by rw [pendingIn_frame]
@[simp] theorem pendingIn_nvm (x y k : Nat) (s : State) : (s.pendingIn x y k).nvm = s.nvm := by rw [pendingIn_frame]
@[simp] theorem pendingIn_mainUp (x y k : Nat) (s : State) : (s.pendingIn x y k).mainUp = s.mainUp := by rw [pendingIn_frame]
@[simp] theorem pendingIn_lc (x y k : Nat) (s : State) : (s.pendingIn x y k).lc =
    { LifeCycle.reset with state := BitVec.ofNat 4 x, next := BitVec.ofNat 4 y, slot := k, wiped := false, phase := 1 } := by
  rw [pendingIn_frame]

@[simp] theorem lineErased_nvm (s : State) : s.lineErased.nvm = s.nvm := by rw [lineErased_frame]
@[simp] theorem lineErased_mainUp (s : State) : s.lineErased.mainUp = s.mainUp := by rw [lineErased_frame]
@[simp] theorem lineErased_lc (s : State) : s.lineErased.lc = { s.lc with phase := 2 } := by rw [lineErased_frame]
@[simp] theorem lineErased_bbk (s : State) : s.lineErased.aon.bbk = none := by rw [lineErased_frame]

theorem takeBoot_storeA (n : Nvm) : (takeBoot n).storeA = n.storeA := by
  unfold takeBoot
  dsimp only
  (repeat' split) <;> rfl

/-- Settles O11: fuse sense decides; what follows it without an NVM or with the rings closed leaves all that the statement speaks of. -/
theorem mainReleaseSensesFuses : Obligations.MainReleaseSensesFuses := by
  unfold Obligations.MainReleaseSensesFuses
  refine ⟨fun s nvm hm hu hc hp => ?_, fun s n x hm hu hc hf hn hx => ?_, fun s nvm x y k hm hu hc hf hrow hnvm => ?_,
    fun s x y k hm hu hc hf hw => ?_⟩
  · have hf : fuseSense s = ((fuseSense s).1, none) := Prod.ext rfl hp
    have hframe := sensed_frame (fuseSense s).1 (s.broughtUp (nvm.map Fin.val))
    have hlc := sensed_lc (fuseSense s).1 (s.broughtUp (nvm.map Fin.val))
    have hbegun := sensed_begun (fuseSense_state_le s) (s.broughtUp (nvm.map Fin.val))
    have hstage := stageOne_besideLog ((s.broughtUp (nvm.map Fin.val)).sensed (fuseSense s).1)
    refine ⟨_, exec_mainResetRelease hm hu hc nvm, ?_⟩
    rw [release_settled hf]
    generalize (s.broughtUp (nvm.map Fin.val)).sensed (fuseSense s).1 = u at *
    obtain ⟨hup, hstate, htick, hpages, hreqs, hkept, -⟩ := besideLog_eq hstage
    rw [hup, hstate, htick, hpages, hreqs, hkept, hlc, hframe]
    exact ⟨rfl, rfl, rfl, rfl, rfl, hbegun.1, fun hne => by rw [hbegun.2 hne]; rfl⟩
  · have haon : ((s.broughtUp (some n.val)).sensed x) = (s.broughtUp (some n.val)).updLc
        fun _ => { LifeCycle.reset with state := BitVec.ofNat 4 x } := by
      refine beginLog_eq_self ?_
      obtain ⟨-, hbegun⟩ | rfl | rfl | rfl := hx
      · exact .inr hbegun
      all_goals exact .inl (by decide)
    rw [exec_mainResetRelease hm hu hc, Option.map_some, release_settled hf, haon]
    have hopen : BitVec.ofNat 4 x ≠ lcScrap ∧ (BitVec.ofNat 4 x == 1 || BitVec.ofNat 4 x == 3) = false := by
      obtain ⟨rfl, -⟩ | rfl | rfl | rfl := hx <;> decide
    rw [broughtUp_listed hn]
    exact congrArg Host.Outcome.next (stageOne_reads hopen.1 hopen.2 rfl)
  · obtain ⟨hpres, hotp, hcfg, hup, hstate, hnext, hslot, hroot⟩ :=
      makeWipe_leaves y ((s.broughtUp (nvm.map Fin.val)).pendingIn x y k)
    rw [pendingIn_nvm] at hpres
    rw [pendingIn_otp] at hotp
    rw [pendingIn_cfg] at hcfg
    rw [pendingIn_mainUp] at hup
    rw [pendingIn_lc] at hstate hnext hslot
    have hrow' : (makeWipe y ((s.broughtUp (nvm.map Fin.val)).pendingIn x y k)).otpRow (slotRow y k + 1) &&& targetCode y = 0 := by
      rw [State.otpRow, hotp]
      exact hrow
    have hthere : ¬ (wipes y && !(makeWipe y ((s.broughtUp (nvm.map Fin.val)).pendingIn x y k)).nvm.present) = true := by
      rw [hpres]
      cases hw : wipes y with
      | false => simp
      | true => simp [broughtUp_present (hnvm hw)]
    have hsense : senseAtStart (s.broughtUp (nvm.map Fin.val)) = _ := senseAtStart_pending hf
    rw [if_neg hthere, if_pos hrow'] at hsense
    refine ⟨_, exec_mainResetRelease hm hu hc nvm, ?_⟩
    rw [release_eq, hsense, if_neg (by simp)]
    exact ⟨hup, hstate, hnext, hslot, rfl, hcfg, hroot⟩
  · have habsent : makeWipe y ((s.broughtUp none).pendingIn x y k) = ((s.broughtUp none).pendingIn x y k).lineErased := by
      apply makeWipe_absent hw <;> rw [pendingIn_frame] <;> rfl
    have hsense : senseAtStart (s.broughtUp none) = _ := senseAtStart_pending hf
    have hpres : ((s.broughtUp none).pendingIn x y k).lineErased.nvm.present = false := by
      rw [lineErased_nvm, pendingIn_nvm]
      rfl
    rw [habsent, if_pos (by rw [hw, hpres]; rfl)] at hsense
    have hkeeps : Keeps s (stageOne ((s.broughtUp none).pendingIn x y k).lineErased) := by
      refine Keeps.trans (Keeps.of_kept ?_) (keeps_stageOne _)
      rw [lineErased_frame, pendingIn_frame]
      rfl
    obtain ⟨hup, hlc, -, -, -, -, hbbk⟩ := besideLog_eq (stageOne_besideLog ((s.broughtUp none).pendingIn x y k).lineErased)
    refine ⟨_, exec_mainResetRelease hm hu hc none, ?_⟩
    rw [Option.map_none, release_eq, hsense, if_pos (by rw [lineErased_lc, pendingIn_lc]; rfl)]
    rw [hup, hlc, stageOne_absent_nvm hpres, hbbk, lineErased_nvm, lineErased_mainUp, lineErased_lc, lineErased_bbk, pendingIn_nvm,
      pendingIn_mainUp, pendingIn_lc]
    exact ⟨rfl, rfl, rfl, rfl, hkeeps.otp, takeBoot_storeA s.nvm, rfl⟩

end Sys2Proof.Machine
end

section
/-! SUPPORT. The roots that a start derives: K_F and, from a BBK, K_R (09 R365, R366, R405). -/
namespace Sys2Proof.Machine

/-- The keys and fuses that the roots rest on: K_F, K_R, BBK and the fuse rows. -/
def State.rootKeys (s : State) : Option Bytes × Option Bytes × Option Bytes × Vector (BitVec 64) 128 :=
  (s.ks.kf, s.ks.kr, s.aon.bbk, s.otp)

/-- K_F stands, and K_R where there is a BBK (09 R365, R366). -/
def State.rootsDerived (s : State) : Prop :=
  s.ks.kf = some (deriveFusedRoot s.fds) ∧ s.ks.kr = s.aon.bbk.map fun b => deriveRoot b s.fds

theorem rootsDerived_of_rootKeys {s t : State} (h : t.rootKeys = s.rootKeys) (hs : s.rootsDerived) : t.rootsDerived := by
  simp only [State.rootKeys, Prod.mk.injEq] at h
  obtain ⟨hkf, hkr, hbbk, hotp⟩ := h
  unfold State.rootsDerived State.fds at *
  rw [hkf, hkr, hbbk, hotp]
  exact hs

theorem rootKeys_of_reportsOnly {s t : State} (h : State.reportsOnly s t) : t.rootKeys = s.rootKeys := by
  rw [h]
  rfl

@[simp ↓] theorem updKs_rootKeys (s : State) (f : Custody → Custody) (hkf : (f s.ks).kf = s.ks.kf) (hkr : (f s.ks).kr = s.ks.kr) :
    (s.updKs f).rootKeys = s.rootKeys := by
  simp [State.rootKeys, hkf, hkr]

@[simp ↓] theorem updNvm_rootKeys (s : State) (f : Nvm → Nvm) : (s.updNvm f).rootKeys = s.rootKeys := rfl
@[simp ↓] theorem updCfg_rootKeys (s : State) (f : Config → Config) : (s.updCfg f).rootKeys = s.rootKeys := rfl
@[simp ↓] theorem draw_rootKeys (s : State) (n : Nat) : (s.draw n).rootKeys = s.rootKeys := rfl
@[simp ↓] theorem loadSystem_rootKeys (s : State) : (loadSystem s).rootKeys = s.rootKeys := rfl
@[simp ↓] theorem copyRewrapped_rootKeys (r : StoreRec) (s : State) : (copyRewrapped r s).rootKeys = s.rootKeys := rfl
@[simp ↓] theorem logReport_rootKeys (p : Bool) (c d : BitVec 16) (cl : SevClass) (s : State) :
    (logReport p c d cl s).rootKeys = s.rootKeys := rootKeys_of_reportsOnly (logReport_only p c d cl s)
@[simp ↓] theorem faultReport_rootKeys (c d : BitVec 16) (s : State) : (faultReport c d s).rootKeys = s.rootKeys :=
  rootKeys_of_reportsOnly (faultReport_only c d s)
@[simp ↓] theorem ite_rootKeys {c : Prop} [Decidable c] (s t : State) :
    (if c then s else t).rootKeys = if c then s.rootKeys else t.rootKeys := by split <;> rfl
@[simp ↓] theorem foldl_rootKeys {α : Type} (f : State → α → State) (h : ∀ s x, (f s x).rootKeys = s.rootKeys) (l : List α)
    (s : State) : (l.foldl f s).rootKeys = s.rootKeys := by
  induction l generalizing s with
  | nil => rfl
  | cons x l ih => rw [List.foldl_cons, ih, h]

@[simp ↓] theorem loadResidents_rootKeys (s : State) : (loadResidents s).rootKeys = s.rootKeys := by
  simp [loadResidents]

@[simp ↓] theorem noteIndex_rootKeys (s : State) : (noteIndex s).rootKeys = s.rootKeys := by
  simp [noteIndex]

@[simp ↓] theorem startCounters_rootKeys (s : State) : (startCounters s).rootKeys = s.rootKeys := by
  simp [startCounters]

@[simp ↓] theorem writeEpoch_rootKeys (s : State) : (writeEpoch s).rootKeys = s.rootKeys := rfl

@[simp ↓] theorem resumeRotation_rootKeys (s : State) : (resumeRotation s).rootKeys = s.rootKeys := by
  unfold resumeRotation
  split
  · rfl
  · split
    · rfl
    · exact foldl_rootKeys _ (fun s r => copyRewrapped_rootKeys r s) _ s

theorem loadRoots_derived (s : State) : (loadRoots s).rootsDerived := ⟨rfl, rfl⟩

/-- A reroot keeps K_F and derives K_R from its new BBK (09 R405). -/
theorem reroot_derived {s : State} (hs : s.rootsDerived) : (reroot s).rootsDerived := by
  unfold reroot
  dsimp only
  refine rootsDerived_of_rootKeys (updKs_rootKeys _ _ rfl rfl) (rootsDerived_of_rootKeys (loadResidents_rootKeys _)
    (rootsDerived_of_rootKeys (loadSystem_rootKeys _) ⟨hs.1, rfl⟩))

/-- Stage 4 derives the roots (09 R405). -/
theorem loadRoot_derived (s : State) : (loadRoot s).rootsDerived := by
  unfold loadRoot
  dsimp only
  generalize hu : noteIndex (loadRoots (readMarker (rollJournal (s.updNvm takePointer)))) = u
  have hderived : u.rootsDerived := by
    rw [← hu]
    exact rootsDerived_of_rootKeys (noteIndex_rootKeys _) (loadRoots_derived _)
  generalize hv : (if (rerootsAtStart u && u.ks.root != 1) = true then reroot u
    else if u.ks.root = 1 then loadResidents u else u) = v
  have hroots : v.rootsDerived := by
    rw [← hv]
    split
    · exact reroot_derived hderived
    · split
      · exact rootsDerived_of_rootKeys (loadResidents_rootKeys _) hderived
      · exact hderived
  exact rootsDerived_of_rootKeys (by simp) hroots

end Sys2Proof.Machine
end

section
/-! SUPPORT. The stages of a start, each with what it changes (16 R586, R588, R589). -/
namespace Sys2Proof.Machine

theorem exec_rootAndResidentKeyLoad {s : State} (hst : s.cfg.stage = 4) (hnvm : s.pwr.nvmLow = false)
    (h : needsReroot (readMarker s) = false ∨ rerootReady s = true) :
    exec .rootAndResidentKeyLoad s = .next ((loadRoot s).updCfg fun c => { c with stage := 5 }) := by
  refine (if_pos ⟨hst, hnvm⟩).trans (if_neg ?_)
  obtain h | h := h <;> simp [h]

/-- A closed start is an unconfigured block (16 R574). -/
theorem closeStart_stage (cause : Nat) (s : State) : (closeStart cause s).cfg.stage = stageUnconfigured := by
  unfold closeStart
  dsimp only
  generalize hu : readMarker _ = u
  have hstage : u.cfg.stage = stageUnconfigured := by
    rw [← hu]
    exact congrArg Fixed.stage (readMarker_fixed_eq _)
  rw [← hstage]
  refine congrArg Fixed.stage (a₁ := State.fixed _) (a₂ := u.fixed) ?_
  simp

theorem checkImage_accepted {s : State} (hc : startCause s s.cfg.image = 0) : checkImage s = acceptImage s := if_pos hc

theorem checkImage_refused {s : State} (hc : startCause s s.cfg.image ≠ 0) (hf : s.cfg.fallback = false) :
    checkImage s = s.updCfg fun x => { x with stage := 2, fallback := true, cause := BitVec.ofNat 8 (startCause s s.cfg.image),
                                              area := !x.area, bank0 := none } := by
  unfold checkImage
  dsimp only
  rw [if_neg hc, if_neg (by simp [hf])]

theorem checkImage_refused_twice {s : State} (hc : startCause s s.cfg.image ≠ 0) (hf : s.cfg.fallback = true) :
    checkImage s = closeStart s.cfg.cause.toNat (s.updCfg fun x => { x with area := s.nvm.imgPtr.area, fallback := false }) := by
  unfold checkImage
  dsimp only
  rw [if_neg hc, if_pos hf]

theorem acceptImage_cfg (s : State) : (acceptImage s).cfg =
    { s.cfg with stage := 4, seq := s.image.seq, hash := sha384 s.cfg.image, mapOn := true, unconf := false } := by
  unfold acceptImage
  dsimp only
  rw [submitImageCurves_cfg]
  rfl

theorem acceptImage_fixed (s : State) : (acceptImage s).fixed = { s.fixed with stage := 4 } := by
  unfold acceptImage
  dsimp only
  rw [submitImageCurves_fixed]
  rfl

theorem updCfg_stage_fixed {s t : State} (h : t.fixed = s.fixed) (x : BitVec 4) :
    (t.updCfg fun c => { c with stage := x }).fixed = { s.fixed with stage := x } := by
  rw [← h]
  rfl

/-- Stage 4 ends in stage 5, and nothing else of the configuration changes with it. -/
theorem keysLoaded_ends {s u t : State} (ht : t = u.updCfg fun c => { c with stage := 5 })
    (hfixed : u.fixed = { s.fixed with otp := u.otp, bbk := u.aon.bbk }) (hotp : otpKept s u) (hroots : u.rootsDerived) :
    t.fixed = { s.fixed with stage := 5, otp := t.otp, bbk := t.aon.bbk } ∧ otpKept s t ∧
      t.ks.kf = some (deriveFusedRoot t.fds) ∧ t.ks.kr = t.aon.bbk.map fun b => deriveRoot b t.fds := by
  subst ht
  refine ⟨?_, hotp, hroots⟩
  have hstage : (u.updCfg fun c => { c with stage := 5 }).fixed = { u.fixed with stage := 5 } := rfl
  rw [hstage, hfixed]
  rfl

theorem runTests_fixed (failed : List (Nat × Nat)) (s : State) : (runTests failed s).fixed = { s.fixed with stage := 6 } := by
  unfold runTests
  refine updCfg_stage_fixed ?_ 6
  rw [verifyLog_fixed, settleFailures_fixed, foldl_fixed]
  intro s x
  dsimp only
  split <;> simp

theorem openRings_fixed (s : State) : (openRings s).fixed = { s.fixed with stage := 7, started := true, slot := 0 } := by
  unfold openRings
  dsimp only
  rw [issueWrites_fixed, issueDescReads_fixed, State.mapPages_fixed, updCfg_fixed_eq]
  rfl

/-- Settles O12: each stage runs where its conditions hold, and changes what its lemma says. -/
theorem startStagesFollow : Obligations.StartStagesFollow := by
  unfold Obligations.StartStagesFollow
  refine ⟨fun s good hst => ?_, fun s hst => ?_, fun s hst hnvm hroot => ?_, fun s failed hst hloads hnvm => ?_,
    fun s failed hnvm => ⟨fun hst => ?_, fun hst => ?_⟩, fun s hst hpos hlock => ?_⟩
  · exact ⟨_, if_pos hst, rfl, rfl, rfl⟩
  · refine ⟨_, if_pos hst, fun hc => ?_, fun hc hf => ?_, fun hc hf => ?_⟩
    · rw [checkImage_accepted hc]
      exact ⟨acceptImage_fixed s, acceptImage_cfg s⟩
    · rw [checkImage_refused hc hf]
      rfl
    · rw [checkImage_refused_twice hc hf]
      exact closeStart_stage _ _
  · exact ⟨_, exec_rootAndResidentKeyLoad hst hnvm hroot,
      keysLoaded_ends rfl (loadRoot_fixed_eq s) (keeps_loadRoot s).otp (loadRoot_derived s)⟩
  · exact ⟨_, if_pos ⟨hst, by simp [hloads], hnvm⟩, runTests_fixed _ s⟩
  · exact if_neg (by simp [hnvm])
  · exact if_neg (by simp [hnvm])
  · exact ⟨_, if_pos ⟨hst, hpos, by simp [hlock]⟩, openRings_fixed s⟩

end Sys2Proof.Machine
end

section
/-! SUPPORT. Replies that wait, and the requests that they answer (11 R448, Table 11-6). -/
namespace Sys2Proof.Machine

/-- The code, sequence and status of a reply stand before its parameters (11 Table 11-6). -/
theorem replyBytes_head (code seq status : Nat) (params : Bytes) :
    (replyBytes code seq status params).take 5 = (replyBytes code seq status []).take 5 := by
  simp [replyBytes, fitTo, leBytes]

/-- A reply that has just joined those that wait answers its request. -/
theorem reply_answered (b : Box) (code seq status : Nat) (params : Bytes) (s : State) :
    (reply b code seq status params s).answered b code seq status := by
  refine ⟨_, List.getLast?_concat, rfl, replyBytes_head code seq status params⟩

theorem answer_answered (m : Msg) (status : Nat) (s : State) : (answer m status s).answered m.box m.code m.seq status :=
  reply_answered m.box m.code m.seq status [] s

theorem answerBusy_answered (m : Msg) (s : State) : (answerBusy m s).answered m.box m.code m.seq 0x83 :=
  ⟨_, List.getLast?_concat, rfl, rfl⟩

theorem reply_frame (b : Box) (code seq status : Nat) (params : Bytes) (s : State) :
    reply b code seq status params s = { s with mgmt := { s.mgmt with replies := (reply b code seq status params s).mgmt.replies } } :=
  rfl

/-- Whether a request has been answered is a matter of the replies that wait. -/
theorem answered_of_replies {s t : State} (h : t.mgmt.replies = s.mgmt.replies) {b : Box} {code seq status : Nat}
    (hs : s.answered b code seq status) : t.answered b code seq status := by
  unfold State.answered at *
  rw [h]
  exact hs

end Sys2Proof.Machine
end

section
/-! SUPPORT. What waits for VDD_IO_NVM is made when it rises (13 R506; 15 R553 to R555; 16 R592). -/
namespace Sys2Proof.Machine

/-- The NVM's supply is back. -/
def State.nvmBack (s : State) : State := s.updPwr fun p => { p with nvmLow := false }

theorem exec_nvmSupplyRestored_idle {s : State} (hp : s.cfg.ptrWaits = false) (hl : s.cfg.logWaits = false) :
    exec .nvmSupplyRestored s = if s.lc.phase = 2 ∧ s.lc.burning = 2 ∧ ¬ s.lc.wiped then .next (eraseAreas s.lc.next.toNat s.nvmBack)
      else .next s.nvmBack := by
  have hp' : ¬ (s.updPwr fun p => { p with nvmLow := false }).cfg.ptrWaits = true := by simp [hp]
  have hl' : ¬ (s.updPwr fun p => { p with nvmLow := false }).cfg.logWaits = true := by simp [hl]
  simp only [exec, execNvmSupplyRestored]
  rw [if_neg hp', if_neg hl']
  rfl

theorem exec_nvmSupplyRestored_pointer {s : State} (hw : ¬ (s.lc.phase = 2 ∧ s.lc.burning = 2 ∧ ¬ s.lc.wiped))
    (hp : s.cfg.ptrWaits = true) (hl : s.cfg.logWaits = false) : exec .nvmSupplyRestored s = .next (restorePointer s.nvmBack) := by
  have hp' : (s.updPwr fun p => { p with nvmLow := false }).cfg.ptrWaits = true := hp
  have hl' : ¬ (restorePointer (s.updPwr fun p => { p with nvmLow := false })).cfg.logWaits = true := by simp [restorePointer, hl]
  simp only [exec, execNvmSupplyRestored]
  rw [if_pos hp', if_neg hl']
  exact if_neg hw

theorem exec_nvmSupplyRestored_log {s : State} (hw : ¬ (s.lc.phase = 2 ∧ s.lc.burning = 2 ∧ ¬ s.lc.wiped))
    (hp : s.cfg.ptrWaits = false) (hl : s.cfg.logWaits = true) :
    exec .nvmSupplyRestored s = .next (verifyLog (s.nvmBack.updCfg fun c => { c with logWaits := false })) := by
  have hp' : ¬ (s.updPwr fun p => { p with nvmLow := false }).cfg.ptrWaits = true := by simp [hp]
  have hl' : (s.updPwr fun p => { p with nvmLow := false }).cfg.logWaits = true := hl
  simp only [exec, execNvmSupplyRestored]
  rw [if_neg hp', if_pos hl']
  obtain ⟨-, hlc, -⟩ := besideLog_eq (verifyLog_besideLog
    ((s.updPwr fun p => { p with nvmLow := false }).updCfg fun c => { c with logWaits := false }))
  refine if_neg ?_
  rw [hlc]
  exact hw

theorem wipeNvm_areas (t : Nat) (n : Nvm) : (wipeNvm t n).storeA = StoreArea.reset ∧ (wipeNvm t n).storeB = StoreArea.reset ∧
    (wipeNvm t n).pstore = [] ∧ (wipeNvm t n).marks0 = [] ∧ (wipeNvm t n).marks1 = [] := by
  unfold wipeNvm
  dsimp only
  (repeat' split) <;> exact ⟨rfl, rfl, rfl, rfl, rfl⟩

/-- The end of a life-cycle request changes the replies and the request's sequence (15 R554). -/
theorem endLcRequest_frame (status : Nat) (s : State) : endLcRequest status s =
    { s with mgmt := (endLcRequest status s).mgmt, lc := { s.lc with seq := none } } := by
  unfold endLcRequest
  split
  case h_1 h => rw [← h]
  case h_2 => rfl

theorem endLcRequest_answered {s : State} {q : BitVec 16} (h : s.lc.seq = some q) (status : Nat) :
    (endLcRequest status s).answered none 0x0206 q.toNat status := by
  unfold endLcRequest
  rw [h]
  exact reply_answered _ _ _ _ _ _

/-- The areas read back as erased, or a roll-forward erases them until they do. -/
theorem eraseAreas_done {s : State} (h : s.nvm.present = true ∧ (rollingForward s = true ∨ Config.erasesBack s.drawn = true)) (t : Nat) :
    (eraseAreas t s).lc = { s.lc with wiped := true } ∧ (eraseAreas t s).nvm = wipeNvm t s.nvm := by
  obtain ⟨hp, h⟩ := h
  unfold eraseAreas
  dsimp only
  rw [if_neg (by simp [hp])]
  split
  · exact ⟨rfl, rfl⟩
  case isFalse hr =>
    rw [if_pos (h.resolve_left hr)]
    exact ⟨rfl, rfl⟩

/-- Areas that do not read back as erased, or no NVM to erase: the request ends with 6, and the NVM is as it was (log entry 99). -/
theorem eraseAreas_fails {s : State} (h : ¬ (s.nvm.present = true ∧ (rollingForward s = true ∨ Config.erasesBack s.drawn = true))) (t : Nat) :
    ∃ u : State, u.lc = { s.lc with burning := 0 } ∧ u.nvm = s.nvm ∧ eraseAreas t s = endLcRequest 6 u := by
  unfold eraseAreas
  dsimp only
  by_cases hp : s.nvm.present = true
  · rw [Classical.not_and_iff_not_or_not, not_or] at h
    obtain ⟨hr, he⟩ := h.resolve_left ((not_not_intro hp))
    rw [if_neg (by simp [hp]), if_neg hr, if_neg he]
    exact ⟨(s.draw 1).updLc fun l => { l with burning := 0 }, rfl, rfl, rfl⟩
  · rw [if_pos (by simp [hp])]
    exact ⟨s.updLc fun l => { l with burning := 0 }, rfl, rfl, rfl⟩

/-- Settles O13: what waits is one operation each, and the wipe reads back or ends its request. -/
theorem nvmSupplyFollows : Obligations.NvmSupplyFollows := by
  unfold Obligations.NvmSupplyFollows
  refine ⟨fun s => rfl, fun s hw => ?_, fun s hp hl hphase hburn hwiped => ?_⟩
  · have hw' : ¬ (s.lc.phase = 2 ∧ s.lc.burning = 2 ∧ ¬ s.lc.wiped) := by
      rintro ⟨h1, h2, h3⟩
      obtain h | h | h := hw
      · exact h h1
      · exact h h2
      · exact h3 h
    refine ⟨fun hp hl => ?_, fun hp hl => ?_, fun hp hl => ?_⟩
    · rw [exec_nvmSupplyRestored_idle hp hl, if_neg hw']
      rfl
    · rw [exec_nvmSupplyRestored_pointer hw' hp hl]
      rfl
    · rw [exec_nvmSupplyRestored_log hw' hp hl]
      rfl
  · have hexec := exec_nvmSupplyRestored_idle hp hl
    rw [if_pos ⟨hphase, hburn, by simp [hwiped]⟩] at hexec
    refine ⟨_, hexec, ?_, ?_⟩
    · rw [eraseAreas_frame]
      rfl
    · split
      case isTrue h =>
        obtain ⟨hlc, hnvm⟩ := eraseAreas_done (s := s.nvmBack) h s.lc.next.toNat
        rw [hlc, hnvm]
        exact ⟨rfl, wipeNvm_areas _ _⟩
      case isFalse h =>
        obtain ⟨u, hlc, hnvm, hu⟩ := eraseAreas_fails (s := s.nvmBack) h s.lc.next.toNat
        rw [hu]
        refine ⟨?_, ?_, fun q hq => endLcRequest_answered (by rw [hlc]; exact hq) 6⟩
        · rw [endLcRequest_frame, hlc]
          rfl
        · rw [endLcRequest_frame, hnvm]
          rfl

end Sys2Proof.Machine
end

section
/-! SUPPORT. Reports and interrupt sources, seen from the parts of the state that they leave (12 R462; 11 R457). -/
namespace Sys2Proof.Machine

theorem reported_assertBlk {s : State} {c : BitVec 16} (n : Nat) (h : s.reported c) : (assertBlk n s).reported c := h

theorem reportsOnly_pwr {s t : State} (h : State.reportsOnly s t) : t.pwr = s.pwr := by rw [h]

/-- A report with an interrupt source asserted after it is still no more than a report. -/
theorem assertBlk_faultReport_only (n : Nat) (c d : BitVec 16) (s : State) : State.reportsOnly s (assertBlk n (faultReport c d s)) :=
  reportsOnly_trans (faultReport_only c d s) (assertBlk_only n _)

theorem assertBlk_faultReport_reported (n : Nat) (c d : BitVec 16) (s : State) : (assertBlk n (faultReport c d s)).reported c :=
  reported_assertBlk n (faultReport_reported c d s)

end Sys2Proof.Machine
end

section
/-! SUPPORT. A supply caution, from its crossing to the declaration of normal operation (13 R501 to R504; 07 R326, R327). -/
namespace Sys2Proof.Machine

theorem exec_supplyWarningCrossing {s : State} (hup : s.mainUp = true) {mv : BitVec 16} (hmv : (mv.toNat : Int) < warnLevel s)
    (cycle : Cycle) : exec (.supplyWarningCrossing cycle mv) s =
      .next (assertBlk 8 (faultReport srcSupply 0 (s.updPwr (crossWarning s.now cycle.val)))) := by
  have hcross : (!s.mainUp || decide (warnLevel s ≤ mv.toNat)) = false := by simp [hup, hmv]
  exact if_neg (by simp [hcross])

/-- What a crossing does to the clock: the switch to 1.0 GHz comes 8 cycles later, unless it runs at that already (13 R501, R504). -/
theorem crossWarning_clock (now cycle : Nat) (p : Power) :
    (p.dclkLow = true → (crossWarning now cycle p).fast = p.fast ∧ (crossWarning now cycle p).nextFast = p.nextFast) ∧
      (p.dclkLow = false → p.fast = 320 → p.decl ≠ some now →
        (crossWarning now cycle p).fast = min 320 (cycle + 8) ∧ (crossWarning now cycle p).nextFast = cycle + 8 - 320) := by
  refine ⟨fun hlow => ?_, fun hlow hfast hdecl => ?_⟩
  · simp [crossWarning, hlow]
  · simp only [crossWarning, hlow, hfast]
    simp [hdecl]
    omega

theorem exec_ssHoldEnter {s : State} (hc : s.pwr.caution = true) (hb : s.pwr.began < s.now) (hh : s.ss.hold = false) :
    exec .ssHoldEnter s = .next (ssEnterHold s) := by
  have hdue : (s.pwr.caution && decide (s.pwr.began < s.now) && !s.ss.hold) = true := by simp [hc, hb, hh]
  exact congrArg Host.Outcome.next (if_pos hdue)

/-- A restart of work that was lost changes its request alone. -/
theorem ssLeaveHold_frame (s : State) : ssLeaveHold s = { s with ss := { s.ss with hold := false }, reqs := (ssLeaveHold s).reqs } := by
  have hfold : ∀ (l : List Request) (u : State), ∃ q, l.foldl (fun s r =>
      restartSs r.rid s.now (s.updReq r.rid fun r => { r with held := false })) u = { u with reqs := q } := by
    intro l
    induction l with
    | nil => exact fun u => ⟨u.reqs, rfl⟩
    | cons r l ih =>
      intro u
      obtain ⟨q, hq⟩ := ih (restartSs r.rid u.now (u.updReq r.rid fun r => { r with held := false }))
      exact ⟨q, by rw [List.foldl_cons, hq]; rfl⟩
  unfold ssLeaveHold
  dsimp only
  obtain ⟨q, hq⟩ := hfold (s.reqs.filter Request.held) (s.updSs fun v => { v with hold := false })
  rw [show (s.updSs fun v => { v with hold := false }).reqs = s.reqs from rfl, hq]
  rfl

theorem exec_cautionRecoveryDeclaration {s : State} (hc : s.pwr.caution = true) (hr : 64 ≤ s.pwr.recover)
    (hh : railsHold s.pwr = true) : exec .cautionRecoveryDeclaration s =
      .next (assertBlk 8 (faultReport srcSupply 0 (releaseKeyEntry (ssLeaveHold (s.updPwr (declareNormal s.now)))))) := by
  have hdue : (s.pwr.caution && decide (s.pwr.recover ≥ 64) && railsHold s.pwr) = true := by simp [hc, hr, hh]
  exact congrArg Host.Outcome.next (if_pos hdue)

/-- Settles O14: the crossing and the declaration are one update of the power manager and one report each. -/
theorem cautionAndRecovery : Obligations.CautionAndRecovery := by
  unfold Obligations.CautionAndRecovery
  refine ⟨fun s cycle mv hup hmv => ?_, fun s hc hb hh => ?_, fun s hc hr hh => ?_⟩
  · have honly := assertBlk_faultReport_only 8 srcSupply 0 (s.updPwr (crossWarning s.now cycle.val))
    have hpwr := reportsOnly_pwr honly
    obtain ⟨hlow, hfast⟩ := crossWarning_clock s.now cycle.val s.pwr
    refine ⟨_, exec_supplyWarningCrossing hup hmv cycle, ?_, assertBlk_faultReport_reported _ _ _ _, assertBlk_bit 8 (by decide) _, ?_⟩
    · rw [hpwr]
      exact honly
    · rw [hpwr]
      exact ⟨rfl, hlow, hfast⟩
  · exact ⟨_, exec_ssHoldEnter hc hb hh, rfl, rfl, rfl⟩
  · have hexec := exec_cautionRecoveryDeclaration hc hr hh
    have hfixed : (settleCaution s).fixed = s.fixed := settleCaution_fixed s
    have hsettle : exec .cautionRecoveryDeclaration s = .next (settleCaution s) := rfl
    rw [hsettle] at hexec
    injection hexec with hexec
    have honly := assertBlk_faultReport_only 8 srcSupply 0 (releaseKeyEntry (ssLeaveHold (s.updPwr (declareNormal s.now))))
    refine ⟨_, hsettle, hfixed, ?_⟩
    rw [hexec]
    refine ⟨assertBlk_faultReport_reported _ _ _ _, ?_, assertBlk_bit 8 (by decide) _, ?_⟩
    · rw [honly, ssLeaveHold_frame]
      rfl
    · rw [reportsOnly_pwr honly, ssLeaveHold_frame]
      rfl

end Sys2Proof.Machine
end

section
/-! SUPPORT. Rail targets and their margins (13 R496, R512, R513). -/
namespace Sys2Proof.Machine

@[simp] theorem updRail_same (s : State) (i : Fin 8) (f : Rail → Rail) : (s.updRail i f).pwr.rails[i] = f s.pwr.rails[i] := by
  simp [State.updRail]

theorem updRail_other {i j : Fin 8} (h : j ≠ i) (s : State) (f : Rail → Rail) :
    (s.updRail i f).pwr.rails[j] = s.pwr.rails[j] := by
  simp [State.updRail, Vector.getElem_set_ne, Fin.val_ne_of_ne h.symm]

/-- A rail that the Supervisor gives a goal in this tick; its first step is in this tick too (13 R496). -/
def Rail.aimed (goal now : Nat) (r : Rail) : Rail :=
  if r.moved then { r with goal := goal, setTick := some now } else stepTarget { r with goal := goal, setTick := some now }

theorem aimed_frame (goal now : Nat) (r : Rail) :
    r.aimed goal now = { r with setTick := some now, goal := goal, target := (r.aimed goal now).target, moved := (r.aimed goal now).moved } := by
  unfold Rail.aimed
  split <;> rfl

theorem aimed_moved {r : Rail} (h : r.moved = true) (goal now : Nat) : (r.aimed goal now).target = r.target := by
  simp [Rail.aimed, h]

/-- A target moves by at most 5 mV in a tick (13 R496). -/
theorem aimed_target_near (goal now : Nat) (r : Rail) :
    (r.aimed goal now).target ≤ r.target + 5 ∧ r.target ≤ (r.aimed goal now).target + 5 := by
  unfold Rail.aimed stepTarget
  dsimp only
  split
  · simp
  · dsimp only
    split <;> omega

/-- A goal within 5 mV is reached at once. -/
theorem aimed_reaches {r : Rail} (h : r.moved = false) {goal : Nat} (hlo : r.target ≤ goal + 5) (hhi : goal ≤ r.target + 5) (now : Nat) :
    (r.aimed goal now).target = goal := by
  simp only [Rail.aimed, h, stepTarget, Bool.false_eq_true, if_false]
  split <;> omega

theorem setTick_any {o : Option Nat} {n : Nat} (h : o.all (fun k => k / 4096 ≠ n / 4096) = true) :
    o.any (fun k => k / 4096 == n / 4096) = false := by
  cases o with
  | none => rfl
  | some k => simpa using h

theorem exec_regulatorTargetUpdate {s : State} {st : Fin 8} (hup : s.mainUp = true) (hsup : procWorks s 1 = true)
    (hc : s.pwr.caution = false) (hset : s.pwr.rails[st].setTick.all (fun n => n / 4096 ≠ s.now / 4096) = true) (fmon : Nat) :
    exec (.regulatorTargetUpdate st fmon) s =
      if targetSought s st fmon > 780 then
        .next (faultReport (srcRegulator st.val) 0 (s.updRail st (Rail.aimed (min 780 (targetSought s st fmon)) s.now)))
      else .next (s.updRail st (Rail.aimed (min 780 (targetSought s st fmon)) s.now)) := by
  have hgo : (!s.mainUp || !procWorks s 1 || s.pwr.caution ||
      s.pwr.rails[st].setTick.any (fun n => n / 4096 == s.now / 4096)) = false := by
    rw [hup, hsup, hc, setTick_any hset]; rfl
  exact if_neg (by rw [hgo]; decide)

theorem exec_agingMeasurement {s : State} (hup : s.mainUp = true) (hsup : procWorks s 1 = true) (count : Vector Nat 8) :
    exec (.agingMeasurement count) s = if cadenceDue s agingTicks s.pwr.ageTick then
      .next (s.updPwr fun p => { p with rails := Vector.ofFn fun i : Fin 8 => { s.pwr.rails[i] with
        age := min 255 (slowdown s i.val count[i]), margin := min 255 (5 * ceilDiv (2 * slowdown s i.val count[i]) 5) }, ageTick := some s.now })
      else .next s := by
  simp only [exec, execAgingMeasurement, hup, hsup]
  cases cadenceDue s agingTicks s.pwr.ageTick <;> rfl

/-- Settles O15: one rail takes the goal and its step, and above 780 mV a report follows; a measurement sets every rail at once. -/
theorem railsFollowTargets : Obligations.RailsFollowTargets := by
  unfold Obligations.RailsFollowTargets
  refine ⟨fun s st fmon hup hsup hc hset => ?_, fun s st fmon hc => ?_, fun s count hup hsup => ⟨fun hdue => ?_, fun hdue => ?_⟩⟩
  · have hexec := exec_regulatorTargetUpdate hup hsup hc hset fmon
    generalize hu : s.updRail st (Rail.aimed (min 780 (targetSought s st fmon)) s.now) = u at hexec
    have hrail : u.pwr.rails[st] = s.pwr.rails[st].aimed (min 780 (targetSought s st fmon)) s.now := by rw [← hu, updRail_same]
    have hother : ∀ i : Fin 8, i ≠ st → u.pwr.rails[i] = s.pwr.rails[i] := fun i hi => by rw [← hu, updRail_other hi]
    have hframe : u = { s with pwr := u.pwr } := by rw [← hu]; rfl
    have hrails : u.pwr = { s.pwr with rails := u.pwr.rails } := by rw [← hu]; rfl
    obtain ⟨t, ht, honly, hrep, hflt⟩ : ∃ t, exec (.regulatorTargetUpdate st fmon) s = .next t ∧ State.reportsOnly u t ∧
        (780 < targetSought s st fmon → t.reported (srcRegulator st.val)) ∧ (targetSought s st fmon ≤ 780 → t.flt = u.flt) := by
      rw [hexec]
      split
      case isTrue h => exact ⟨_, rfl, faultReport_only _ _ _, fun _ => faultReport_reported _ _ _, fun h' => absurd h (by omega)⟩
      case isFalse h => exact ⟨_, rfl, reportsOnly_refl u, fun h' => absurd h' h, fun _ => rfl⟩
    have hpwr := reportsOnly_pwr honly
    refine ⟨t, ht, ?_, ?_, ?_, ?_, ?_, ?_, ?_, ?_, hrep, fun h => ?_⟩
    · rw [hpwr]; rw [hframe] at honly; exact honly
    · rw [hpwr]; exact hrails
    · intro i hi; rw [hpwr, hother i hi]
    · rw [hpwr, hrail]; exact aimed_frame _ _ _
    · intro hm; rw [hpwr, hrail]; exact aimed_moved hm _ _
    · rw [hpwr, hrail]; exact (aimed_target_near _ _ _).1
    · rw [hpwr, hrail]; exact (aimed_target_near _ _ _).2
    · intro hm h1 h2 h3
      rw [hpwr, hrail]
      have hmin : min 780 (targetSought s st fmon) = targetSought s st fmon := by omega
      rw [hmin]; exact aimed_reaches hm h1 h2 _
    · rw [hflt h, hframe]
  · exact if_pos (by simp [hc])
  · refine ⟨_, by rw [exec_agingMeasurement hup hsup count, show cadenceDue s agingTicks s.pwr.ageTick = true from hdue]; rfl, rfl, fun i => ?_⟩
    simp [State.updPwr, ceilDiv]
  · rw [exec_agingMeasurement hup hsup count, show cadenceDue s agingTicks s.pwr.ageTick = false from hdue]; rfl

end Sys2Proof.Machine
end

section
/-! SUPPORT. The holder's clears of held extremes (13 Table 13-8, 10 Table 10-8, 04 R225, 06 R291, 07 R330, 02 R110). -/
namespace Sys2Proof.Machine

theorem fieldNat_low (v : BitVec 32) : fieldNat v 0 10 = v.toNat % 1024 := by simp [fieldNat]

theorem writePwrCtrl_eq (v : BitVec 32) (s : State) :
    writePwrCtrl v s = { s with pwr := { s.pwr with vMin := if v.getLsbD 31 then s.pwr.vNow else s.pwr.vMin,
                                                    rails := (writePwrCtrl v s).pwr.rails } } := rfl

theorem writePwrCtrl_rail (v : BitVec 32) (s : State) (n : Fin 8) : (writePwrCtrl v s).pwr.rails[n] =
    { s.pwr.rails[n] with tmax := if v.getLsbD 30 then s.pwr.rails[n].temp else s.pwr.rails[n].tmax } := by
  by_cases hclr : v.getLsbD 30 = true
  · have hrails : (writePwrCtrl v s).pwr.rails = s.pwr.rails.map fun r => { r with tmax := r.temp } := if_pos hclr
    rw [hrails, if_pos hclr]
    exact Vector.getElem_map ..
  · have hrails : (writePwrCtrl v s).pwr.rails = s.pwr.rails := if_neg hclr
    rw [hrails, if_neg hclr]

theorem writePlatSel_eq (v : BitVec 32) (s : State) :
    writePlatSel v s = { s with mgmt := { s.mgmt with platSel := v.extractLsb' 0 10 },
                                tt := { s.tt with plats := (writePlatSel v s).tt.plats, shown := (writePlatSel v s).tt.shown } } := by
  unfold writePlatSel
  dsimp only
  split <;> rfl

theorem writePlatSel_plat (v : BitVec 32) (s : State) (p : Fin 1024) : (writePlatSel v s).tt.plats[p] =
    if v.getLsbD 31 ∧ p.val = v.toNat % 1024 then { s.tt.plats[p] with miss := 0, overs := 0 } else s.tt.plats[p] := by
  have hlt : v.toNat % 1024 < 1024 := Nat.mod_lt _ (by decide)
  simp only [writePlatSel, bitAt, fieldNat_low]
  by_cases hclr : v.getLsbD 31 = true
  case neg => simp only [hclr]; rfl
  case pos =>
    simp only [hclr, true_and]
    by_cases hp : p.val = v.toNat % 1024
    · simp [clearPlat, State.updPlat, State.updTt, State.updMgmt, ← hp]
    · simp [clearPlat, State.updPlat, State.updTt, State.updMgmt, hlt, Vector.getElem_set_ne, Ne.symm hp, hp]

theorem writePlatSel_shown (v : BitVec 32) (s : State) (p : Fin 1024) : (writePlatSel v s).tt.shown[p] =
    if v.getLsbD 31 ∧ p.val = v.toNat % 1024 then { s.tt.shown[p] with miss := 0, overs := 0 } else s.tt.shown[p] := by
  have hlt : v.toNat % 1024 < 1024 := Nat.mod_lt _ (by decide)
  simp only [writePlatSel, bitAt, fieldNat_low]
  by_cases hclr : v.getLsbD 31 = true
  case neg => simp only [hclr]; rfl
  case pos =>
    simp only [hclr, true_and]
    by_cases hp : p.val = v.toNat % 1024
    · simp [clearPlat, State.updPlat, State.updTt, State.updMgmt, ← hp]
    · simp [clearPlat, State.updPlat, State.updTt, State.updMgmt, hlt, Vector.getElem_set_ne, Ne.symm hp, hp]

/-- Settles O17: each write passes the holder's check, and its effect is the one field. -/
theorem extremesClear : Obligations.ExtremesClear := by
  unfold Obligations.ExtremesClear
  intro s i h
  refine ⟨fun v => ?_, fun v => ?_, fun n v => ?_, fun v => ?_, fun v => ?_, fun v => ?_⟩
  · refine ⟨(writePwrCtrl v s).respond 0, congrArg Host.Outcome.next (supWrite_go h _ _), congrArg Host.Outcome.next (supWrite_go h _ _), ?_,
      writePwrCtrl_rail v s⟩
    conv => lhs; rw [writePwrCtrl_eq]
    rfl
  · refine (congrArg Host.Outcome.next (mgmtWrite_go h _ _)).trans (congrArg Host.Outcome.next ?_)
    unfold writeEnBuf bitAt
    split <;> rfl
  · refine (congrArg Host.Outcome.next (mgmtWrite_go h _ _)).trans (congrArg Host.Outcome.next ?_)
    unfold clearHoldPeak bitAt
    split
    · rfl
    · exact congrArg (fun c => { s with rsp := 0, cs := c }) (Vector.set_getElem_self _).symm
  · refine (congrArg Host.Outcome.next (mgmtWrite_go h _ _)).trans (congrArg Host.Outcome.next ?_)
    unfold clearVsPeak bitAt
    split <;> rfl
  · refine (congrArg Host.Outcome.next (mgmtWrite_go h _ _)).trans (congrArg Host.Outcome.next ?_)
    unfold clearSsPeak bitAt
    split <;> rfl
  · refine ⟨(writePlatSel v s).respond 0, congrArg Host.Outcome.next (mgmtWrite_go h _ _), ?_,
      fun p => ⟨writePlatSel_plat v s p, writePlatSel_shown v s p⟩⟩
    conv => lhs; rw [writePlatSel_eq]
    rfl

end Sys2Proof.Machine
end

section
/-! SUPPORT. A tamper alarm: its entry, its log and its response (14 R519 to R536). -/
namespace Sys2Proof.Machine

theorem assertBlk_frame (n : Nat) (s : State) : assertBlk n s = { s with mgmt := (assertBlk n s).mgmt } := rfl

/-! The log entry. -/

theorem appendLog_frame (src resp flags detail : Nat) (s : State) :
    appendLog src resp flags detail s =
      { s with aon := (appendLog src resp flags detail s).aon, mgmt := (appendLog src resp flags detail s).mgmt } := by
  unfold appendLog
  dsimp only
  split <;> rfl

theorem appendLog_aon (src resp flags detail : Nat) (s : State) :
    (appendLog src resp flags detail s).aon =
      if s.aon.pendLog.length < 31 then
        chainEntry (logEntry s src resp flags 1 detail) { s.aon with resp := BitVec.ofNat 2 (max s.aon.resp.toNat resp) }
      else gather src resp { s.aon with resp := BitVec.ofNat 2 (max s.aon.resp.toNat resp) } := by
  unfold appendLog
  dsimp only
  split <;> rfl

/-- Gathering touches the SUMMARY alone (14 R536). -/
theorem gather_frame (src resp : Nat) (a : Aon) : gather src resp a = { a with summary := (gather src resp a).summary } := by
  unfold gather
  cases a.summary <;> rfl

theorem gather_summary (src resp : Nat) (a : Aon) : (gather src resp a).summary.isSome = true := by
  unfold gather
  cases a.summary <;> rfl

/-- What an entry leaves of the always-on domain (14 R535, R536). -/
theorem appendLog_keeps (src resp flags detail : Nat) (s : State) :
    (appendLog src resp flags detail s).aon.alarmed = s.aon.alarmed ∧ (appendLog src resp flags detail s).aon.first = s.aon.first ∧
      (appendLog src resp flags detail s).aon.bbk = s.aon.bbk ∧ (appendLog src resp flags detail s).aon.onCell = s.aon.onCell := by
  rw [appendLog_aon]
  split
  · simp only [chainEntry, and_self]
  · rw [gather_frame]; simp only [and_self]

theorem appendLog_chains (src resp flags detail : Nat) {s : State} (h : s.aon.pendLog.length < 31) :
    (appendLog src resp flags detail s).aon.count = s.aon.count + 1 ∧
      (appendLog src resp flags detail s).aon.pendLog.length = s.aon.pendLog.length + 1 := by
  rw [appendLog_aon, if_pos h]
  exact ⟨rfl, List.length_append⟩

theorem appendLog_gathers (src resp flags detail : Nat) {s : State} (h : 31 ≤ s.aon.pendLog.length) :
    (appendLog src resp flags detail s).aon.pendLog = s.aon.pendLog ∧ (appendLog src resp flags detail s).aon.count = s.aon.count ∧
      (appendLog src resp flags detail s).aon.summary.isSome = true := by
  rw [appendLog_aon, if_neg (by omega)]
  refine ⟨?_, ?_, gather_summary _ _ _⟩ <;> rw [gather_frame]

/-! The response. -/

theorem restoreLanes_flt (sel : Nat → Nat → Bool) (s : State) : restoreLanes sel s = { s with flt := (restoreLanes sel s).flt } := by
  have hrole : ∀ (l : List (Nat × Nat × BitVec 16 × Nat)) (u : State),
      let v := l.foldl (fun s x =>
        setRole x.1 x.2.1 (BitVec.ofNat 4 x.2.2.2) (markRecords x.2.2.1 s.now (fun r => { r with action := false }) s)) u
      v = { u with flt := v.flt } := by
    intro l
    induction l with
    | nil => exact fun _ => rfl
    | cons x l ih => intro u; dsimp only [List.foldl_cons]; rw [ih]; rfl
  unfold restoreLanes
  dsimp only
  rw [hrole]
  rfl

/-- The lockdown of a response that is more than a log entry, while the main domain runs (14 R523, R532). -/
def lockDue (s : State) : State :=
  (restoreLanes (fun _ _ => true) s).updFlt fun f => { f with due := f.due ++ [(7, s.now + 1, srcTamper)] }

theorem lockDue_frame (s : State) : lockDue s = { s with flt := (lockDue s).flt } := by
  unfold lockDue
  rw [restoreLanes_flt]
  rfl

theorem lockDue_due (s : State) : (7, s.now + 1, srcTamper) ∈ (lockDue s).flt.due := List.mem_append_right _ (by simp)

theorem respond_log (s : State) : respond 1 s = s := rfl

/-- The lockdown that LOCK and ERASE bring about. -/
def locking (s : State) : State := if s.mainUp then lockDue s else s

theorem locking_frame (s : State) : locking s = { s with flt := (locking s).flt } := by
  unfold locking
  split
  · exact lockDue_frame s
  · rfl

theorem locking_due {s : State} (h : s.mainUp = true) : (7, s.now + 1, srcTamper) ∈ (locking s).flt.due := by
  rw [locking, if_pos h]; exact lockDue_due s

theorem respond_lock (s : State) : respond 2 s = locking s := by
  unfold respond locking
  cases s.mainUp <;> rfl

theorem respond_erase (s : State) : respond 3 s = eraseLine (locking s) := by
  unfold respond locking
  cases s.mainUp <;> rfl

theorem clearEntropy_fields (e : Entropy) : (clearEntropy e).seed = [] ∧ (clearEntropy e).fill = 0 ∧ (clearEntropy e).inst = false ∧
    (clearEntropy e).key = [] ∧ (clearEntropy e).vec = [] := by
  unfold clearEntropy trackLow
  split <;> exact ⟨rfl, rfl, rfl, rfl, rfl⟩

/-! The alarm. -/

/-- The state in which a source has entered alarm, before its entry is logged. -/
def alarmEntered (src : BitVec 8) (rail : Bool) (detail : BitVec 32) (s : State) : State :=
  let c := src.toNat
  s.updAon fun a =>
    markInput c rail true { a with alarmed := a.alarmed ++ [src], cellLow := a.cellLow || c == 0x16,
                                   vbat := if 0x16 ≤ c ∧ c ≤ 0x18 then detail.truncate 12 else a.vbat,
                                   first := latchTamper s c (tamperResponse s c detail) (tamperFlags s (rail && decide (c ≤ 6))) a.first }

theorem markInput_frame (c : Nat) (rail on : Bool) (a : Aon) :
    markInput c rail on a = { a with railF := (markInput c rail on a).railF, alarm := (markInput c rail on a).alarm } := by
  unfold markInput
  split <;> rfl

/-- What entering an alarm changes (14 R519, R532). -/
theorem alarmEntered_aon (src : BitVec 8) (rail : Bool) (detail : BitVec 32) (s : State) :
    (alarmEntered src rail detail s).aon = { s.aon with
      alarmed := s.aon.alarmed ++ [src], cellLow := (alarmEntered src rail detail s).aon.cellLow,
      vbat := (alarmEntered src rail detail s).aon.vbat, railF := (alarmEntered src rail detail s).aon.railF,
      alarm := (alarmEntered src rail detail s).aon.alarm,
      first := latchTamper s src.toNat (tamperResponse s src.toNat detail) (tamperFlags s (rail && decide (src.toNat ≤ 6))) s.aon.first } := by
  unfold alarmEntered State.updAon
  dsimp only
  rw [markInput_frame]

/-- The logged alarm of a source. -/
def alarmLogged (src : BitVec 8) (rail : Bool) (detail : BitVec 32) (s : State) : State :=
  appendLog src.toNat (tamperResponse s src.toNat detail) (tamperFlags s (rail && decide (src.toNat ≤ 6))) (tamperDetail src.toNat detail)
    (alarmEntered src rail detail s)

theorem tamperAlarm_enters {src : BitVec 8} {s : State} (hsrc : tamperSource src.toNat = true) (hnew : src ∉ s.aon.alarmed)
    (hwatch : sourceWatched s src.toNat = true) (rail : Bool) (detail : BitVec 32) :
    tamperAlarm src rail detail s = respond (tamperResponse s src.toNat detail) (alarmLogged src rail detail s) :=
  if_neg (by simp [hsrc, hnew, hwatch])

theorem alarmLogged_frame (src : BitVec 8) (rail : Bool) (detail : BitVec 32) (s : State) :
    alarmLogged src rail detail s =
      { s with aon := (alarmLogged src rail detail s).aon, mgmt := (alarmLogged src rail detail s).mgmt } := by
  unfold alarmLogged
  rw [appendLog_frame]
  rfl

theorem latchTamper_valid (s : State) (src resp flags : Nat) (f : TmpFirst) : (latchTamper s src resp flags f).valid = true := by
  unfold latchTamper
  split
  case isTrue h => exact h
  case isFalse => rfl

/-- The first alarm is latched under its source (14 R532). -/
theorem latchTamper_first {f : TmpFirst} (h : f.valid = false) (s : State) (src : BitVec 8) (resp flags : Nat) :
    (latchTamper s src.toNat resp flags f).source = src ∧ (latchTamper s src.toNat resp flags f).ovf = false := by
  rw [latchTamper, if_neg (by simp [h])]
  exact ⟨BitVec.ofNat_toNat .. |>.trans (BitVec.setWidth_eq _), rfl⟩

/-! The sample that alarms. -/

/-- The state in which a reading of a source is taken, the temperature held (13 R511; 14 R527). -/
def alarmSampled (src : BitVec 8) (x : BitVec 32) (s : State) : State :=
  (atSample s).updAon fun a => if src = 0x13 then { a with reading := x.toInt } else a

theorem atSample_frame (s : State) : atSample s = { s with aon := { s.aon with rtc := (atSample s).aon.rtc }, drawn := (atSample s).drawn } := by
  unfold atSample advanceClock
  split <;> rfl

theorem alarmSampled_frame (src : BitVec 8) (x : BitVec 32) (s : State) :
    alarmSampled src x s = { s with
      aon := { s.aon with rtc := (alarmSampled src x s).aon.rtc, reading := (alarmSampled src x s).aon.reading },
      drawn := (alarmSampled src x s).drawn } := by
  unfold alarmSampled
  rw [atSample_frame]
  dsimp only [State.updAon]
  split <;> rfl

theorem sourceWatched_alarmSampled (src : BitVec 8) (x : BitVec 32) (s : State) (c : Nat) :
    sourceWatched (alarmSampled src x s) c = sourceWatched (atSample s) c := by
  unfold alarmSampled State.updAon
  dsimp only
  split <;> rfl

theorem exec_tamperAlarm {src : BitVec 8} {detail : BitVec 32} {s : State} (hsrc : tamperSource src.toNat = true) (hnew : src ∉ s.aon.alarmed)
    (hwatch : sourceWatched (atSample s) src.toNat = true) (hbad : alarmHolds s src (alarmReading s src detail) = true) (rail : Bool) :
    exec (.tamperAlarm src rail detail) s = .next (respond (tamperResponse s src.toNat (alarmReading s src detail))
      (alarmLogged src rail (alarmReading s src detail) (alarmSampled src (alarmReading s src detail) s))) := by
  generalize hx : alarmReading s src detail = x at hbad
  have hframe := alarmSampled_frame src x s
  have hresp : tamperResponse (alarmSampled src x s) src.toNat x = tamperResponse s src.toNat x := by rw [hframe]; rfl
  have halarmed : (alarmSampled src x s).aon.alarmed = s.aon.alarmed := by rw [hframe]
  rw [← hresp, ← tamperAlarm_enters hsrc (by rw [halarmed]; exact hnew) (by rw [sourceWatched_alarmSampled]; exact hwatch) rail x, ← hx]
  exact if_neg (by simp [hnew, hwatch, hx, hbad])

/-- What the logged alarm of a sample leaves and what it adds. -/
theorem alarmLogged_sampled (src : BitVec 8) (rail : Bool) (x : BitVec 32) (s : State) {l : State}
    (hl : l = alarmLogged src rail x (alarmSampled src x s)) :
    l = { s with aon := l.aon, mgmt := l.mgmt, drawn := l.drawn } ∧ l.aon.alarmed = s.aon.alarmed ++ [src] ∧
      (∃ resp flags, l.aon.first = latchTamper (alarmSampled src x s) src.toNat resp flags s.aon.first) ∧
      l.aon.bbk = s.aon.bbk ∧ l.aon.onCell = s.aon.onCell ∧
      (s.aon.pendLog.length < 31 → l.aon.count = s.aon.count + 1 ∧ l.aon.pendLog.length = s.aon.pendLog.length + 1) ∧
      (31 ≤ s.aon.pendLog.length → l.aon.pendLog = s.aon.pendLog ∧ l.aon.count = s.aon.count ∧ l.aon.summary.isSome = true) := by
  have hu := alarmSampled_frame src x s
  generalize alarmSampled src x s = u at hl hu
  have hframe : l = { s with aon := l.aon, mgmt := l.mgmt, drawn := l.drawn } := by
    have h := alarmLogged_frame src rail x u
    rw [← hl] at h
    rw [h, hu]
  have haon := alarmEntered_aon src rail x u
  have hsame : u.aon.alarmed = s.aon.alarmed ∧ u.aon.first = s.aon.first ∧ u.aon.bbk = s.aon.bbk ∧ u.aon.onCell = s.aon.onCell ∧
      u.aon.pendLog = s.aon.pendLog ∧ u.aon.count = s.aon.count := by rw [hu]; exact ⟨rfl, rfl, rfl, rfl, rfl, rfl⟩
  obtain ⟨ha, hf, hb, hc, hp, hn⟩ := hsame
  rw [alarmLogged] at hl
  generalize alarmEntered src rail x u = e at hl haon
  have hpe : e.aon.pendLog = s.aon.pendLog := by rw [haon, ← hp]
  have hne : e.aon.count = s.aon.count := by rw [haon, ← hn]
  refine ⟨hframe, ?_⟩
  rw [hl, ← hpe, ← hne]
  generalize tamperResponse u src.toNat x = resp at haon
  generalize tamperFlags u (rail && decide (src.toNat ≤ 6)) = flags at haon
  obtain ⟨h1, h2, h3, h4⟩ := appendLog_keeps src.toNat resp flags (tamperDetail src.toNat x) e
  refine ⟨?_, ⟨resp, flags, ?_⟩, ?_, ?_, appendLog_chains _ _ _ _, appendLog_gathers _ _ _ _⟩
  · rw [h1, haon, ha]
  · rw [h2, haon, hf]
  · rw [h3, haon, hb]
  · rw [h4, haon, hc]

theorem respond_aon (resp : Nat) (l : State) (h : resp = 1 ∨ resp = 2 ∨ resp = 3) :
    (respond resp l).aon = if resp = 3 then { l.aon with bbk := none, rootClr := true, zeroise := true } else l.aon := by
  obtain rfl | rfl | rfl := h
  · rfl
  · rw [respond_lock, locking_frame]; rfl
  · rw [respond_erase, locking_frame]; rfl

theorem tamperResponse_cases (s : State) (c : Nat) (x : BitVec 32) :
    tamperResponse s c x = 1 ∨ tamperResponse s c x = 2 ∨ tamperResponse s c x = 3 := by
  unfold tamperResponse
  split
  · exact .inl rfl
  split
  · split
    · exact .inr (.inl rfl)
    · exact .inl rfl
  split
  · exact .inl rfl
  · exact .inr (.inr rfl)

theorem eraseLine_page (s : State) (p : Tenant) : (eraseLine s).page p = eraseKeyEntry (s.page p) := by
  unfold eraseLine State.page
  exact Vector.getElem_map ..

theorem eraseLine_banks (s : State) (n : Fin 7) : (eraseLine s).stations[n] = clearBanks s.stations[n] := by
  unfold eraseLine
  exact Vector.getElem_map ..

theorem alarmLogged_fixed (src : BitVec 8) (rail : Bool) (detail : BitVec 32) (s : State) :
    (alarmLogged src rail detail s).fixed = s.fixed := by
  rw [alarmLogged, appendLog_fixed]
  unfold alarmEntered
  simp

theorem alarmSampled_fixed (src : BitVec 8) (x : BitVec 32) (s : State) : (alarmSampled src x s).fixed = s.fixed := by
  rw [alarmSampled_frame]; rfl

/-- Settles O18: the alarm is logged and latched before its response, which for a LOG source is none, for a LOCK source the lockdown, and
for an ERASE source the erase line as well. -/
theorem tamperAlarmResponse : Obligations.TamperAlarmResponse := by
  unfold Obligations.TamperAlarmResponse
  refine ⟨fun s src rail detail hsrc hnew hwatch hbad => ⟨_, exec_tamperAlarm hsrc hnew hwatch hbad rail, ?_⟩, fun s src rail detail h => ?_⟩
  · generalize alarmReading s src detail = x
    generalize hl : alarmLogged src rail x (alarmSampled src x s) = l
    obtain ⟨hframe, halarmed, ⟨resp, flags, hfirst⟩, hbbk, hcell, hchain, hgather⟩ := alarmLogged_sampled src rail x s hl.symm
    have haon := respond_aon _ l (tamperResponse_cases s src.toNat x)
    have hsame : (respond (tamperResponse s src.toNat x) l).aon = { l.aon with
        bbk := (respond (tamperResponse s src.toNat x) l).aon.bbk, rootClr := (respond (tamperResponse s src.toNat x) l).aon.rootClr,
        zeroise := (respond (tamperResponse s src.toNat x) l).aon.zeroise } := by
      rw [haon]; split <;> rfl
    have hdue : s.mainUp = true → (7, s.now + 1, srcTamper) ∈ (locking l).flt.due := fun h => by
      have := locking_due (s := l) (by rw [hframe]; exact h)
      rwa [show l.now = s.now by rw [hframe]; rfl] at this
    refine ⟨by rw [hsame]; exact halarmed, ?_, fun hno => ?_, fun hyes => ?_, fun hlt => ?_, fun hge => ?_, fun h1 => ?_, fun h2 => ?_, fun h3 => ?_⟩
    · rw [hsame]; exact hfirst ▸ latchTamper_valid _ _ _ _ _
    · rw [hsame]; exact hfirst ▸ latchTamper_first hno _ _ _ _
    · rw [hsame]; exact hfirst.trans (if_pos hyes)
    · rw [hsame]; exact hchain hlt
    · rw [hsame]; exact hgather hge
    · rw [h1]
      exact ⟨hframe, hbbk⟩
    · rw [h2, respond_lock]
      refine ⟨?_, by rw [locking_frame]; exact hbbk, hdue⟩
      have hk := locking_frame l
      generalize locking l = k at hk
      rw [hframe] at hk
      rw [hk]
    · rw [h3, respond_erase]
      have hk := locking_frame l
      have hfix : (locking l).fixed = s.fixed := by
        rw [← respond_lock, respond_fixed, if_neg (by decide), ← hl, alarmLogged_fixed, alarmSampled_fixed]
      generalize locking l = k at hk hdue hfix
      have hs : k = { s with aon := k.aon, mgmt := k.mgmt, drawn := k.drawn, flt := k.flt } := by rw [hk, hframe]
      have hoff : k.aon.onCell = s.aon.onCell := by rw [hk]; exact hcell
      obtain ⟨hseed, hfill, hinst, hkey, hvec⟩ := clearEntropy_fields k.en
      refine ⟨by rw [eraseLine_fixed, hfix], rfl, rfl, by rw [← hoff]; rfl, rfl, rfl, rfl, hseed, hfill, hinst, hkey, hvec, by rw [hs]; rfl,
        fun n => ?_, fun p => ?_, hdue⟩
      · rw [eraseLine_banks]; exact ⟨rfl, rfl⟩
      · rw [eraseLine_page]; refine ⟨rfl, ?_⟩; rw [hs]; rfl
  · obtain h | h | h := h <;> exact if_pos (by simp [h])

end Sys2Proof.Machine
end

section
/-! SUPPORT. A sample of the temperature sensors, its warning and its alarm (13 R508 to R510). -/
namespace Sys2Proof.Machine

/-! What a tamper alarm leaves of the reports, of the rails and of the block's sources. -/

theorem restoreLanes_records (sel : Nat → Nat → Bool) (s : State) : State.recordsKept s (restoreLanes sel s) := by
  have hfold : ∀ (l : List (Nat × Nat × BitVec 16 × Nat)) (u : State), State.recordsKept u (l.foldl (fun s x =>
      setRole x.1 x.2.1 (BitVec.ofNat 4 x.2.2.2) (markRecords x.2.2.1 s.now (fun r => { r with action := false }) s)) u) := by
    intro l
    induction l with
    | nil => exact fun u => recordsKept_refl u
    | cons x l ih =>
      intro u
      refine recordsKept_trans (recordsKept_trans (markRecords_records x.2.2.1 u.now (fun r => { r with action := false })
        (fun _ => ⟨rfl, rfl, rfl⟩) u) ?_) (ih _)
      exact recordsKept_of_recent rfl rfl rfl
  unfold restoreLanes
  exact recordsKept_trans (hfold _ _) (recordsKept_of_recent rfl rfl rfl)

theorem eraseLine_records (s : State) : State.recordsKept s (eraseLine s) := recordsKept_of_recent rfl rfl rfl

theorem lockDue_records (s : State) : State.recordsKept s (lockDue s) := by
  unfold lockDue
  refine recordsKept_trans (restoreLanes_records (fun _ _ => true) s) ?_
  generalize restoreLanes (fun _ _ => true) s = k
  exact recordsKept_of_recent rfl rfl rfl

theorem respond_records (resp : Nat) (s : State) : State.recordsKept s (respond resp s) := by
  unfold respond
  rw [← lockDue]
  have hlock := lockDue_records s
  generalize lockDue s = k at hlock
  dsimp only
  split <;> split
  · exact recordsKept_trans hlock (eraseLine_records k)
  · exact eraseLine_records s
  · exact hlock
  · exact recordsKept_refl s

theorem eraseLine_leaves (s : State) : (eraseLine s).pwr = s.pwr ∧ (eraseLine s).mgmt = s.mgmt ∧ (eraseLine s).aon.alarmed = s.aon.alarmed :=
  ⟨rfl, rfl, rfl⟩

theorem lockDue_leaves (s : State) : (lockDue s).pwr = s.pwr ∧ (lockDue s).mgmt = s.mgmt ∧ (lockDue s).aon.alarmed = s.aon.alarmed := by
  rw [lockDue_frame]
  exact ⟨rfl, rfl, rfl⟩

theorem respond_leaves (resp : Nat) (s : State) : (respond resp s).pwr = s.pwr ∧ (respond resp s).mgmt = s.mgmt ∧
    (respond resp s).aon.alarmed = s.aon.alarmed := by
  unfold respond
  rw [← lockDue]
  obtain ⟨hp, hm, ha⟩ := lockDue_leaves s
  generalize lockDue s = k at hp hm ha
  dsimp only
  split <;> split <;> simp only [eraseLine_leaves, hp, hm, ha, and_self]

theorem assertBlk_keeps_bit {n k : Nat} {s : State} (h : s.mgmt.intStatus.getLsbD k = true) :
    (assertBlk n s).mgmt.intStatus.getLsbD k = true := by
  simp only [assertBlk, State.updMgmt, BitVec.getLsbD_or, h, Bool.true_or]

theorem appendLog_keeps_bit {src resp flags detail k : Nat} {s : State} (h : s.mgmt.intStatus.getLsbD k = true) :
    (appendLog src resp flags detail s).mgmt.intStatus.getLsbD k = true := by
  unfold appendLog
  dsimp only
  split
  · exact assertBlk_keeps_bit h
  · exact h

/-- An alarm, whether its source enters it or not. -/
theorem tamperAlarm_leaves (src : BitVec 8) (rail : Bool) (x : BitVec 32) (s : State) :
    State.recordsKept s (tamperAlarm src rail x s) ∧ (tamperAlarm src rail x s).pwr = s.pwr ∧
      ∀ k, s.mgmt.intStatus.getLsbD k = true → (tamperAlarm src rail x s).mgmt.intStatus.getLsbD k = true := by
  unfold tamperAlarm
  dsimp only
  split
  · exact ⟨recordsKept_refl s, rfl, fun _ h => h⟩
  · obtain ⟨hpwr, hmgmt, -⟩ := respond_leaves (tamperResponse s src.toNat x) (alarmLogged src rail x s)
    refine ⟨recordsKept_trans (recordsKept_of_recent ?_ ?_ ?_) (respond_records _ (alarmLogged src rail x s)), ?_, fun k h => ?_⟩
    · rw [alarmLogged_frame]
    · rw [alarmLogged_frame]; rfl
    · rw [alarmLogged_frame]
    · exact hpwr.trans (by rw [alarmLogged_frame])
    · exact hmgmt ▸ appendLog_keeps_bit (s := alarmEntered src rail x s) h

/-- The always-on sensor is watched on main power (14 R526). -/
theorem tamperAlarm_temperature {s : State} (hup : s.aon.up = true) (hcell : s.aon.onCell = false) (x : BitVec 32) :
    (0x13 : BitVec 8) ∈ (tamperAlarm 0x13 false x s).aon.alarmed := by
  by_cases hin : (0x13 : BitVec 8) ∈ s.aon.alarmed
  · have h : tamperAlarm 0x13 false x s = s := if_pos (by rw [List.contains_iff_mem.mpr hin]; simp)
    rwa [h]
  · rw [tamperAlarm_enters (by decide) hin (by simp [sourceWatched, hup, hcell]), (respond_leaves _ _).2.2, alarmLogged, (appendLog_keeps _ _ _ _ _).1,
      alarmEntered_aon]
    exact List.mem_append_right _ (List.mem_singleton_self _)

/-! The readings. -/

/-- The readings of some of the sensors are taken. -/
def sampledOf (l : List (Fin 8)) (temps : Vector Int 8) (s : State) : State := l.foldl (fun s i => s.updRail i (sampleRail s i temps[i])) s

theorem sampleRail_updRail (s : State) (i j : Fin 8) (f : Rail → Rail) : sampleRail (s.updRail i f) j = sampleRail s j := rfl

theorem sampledOf_frame (l : List (Fin 8)) (temps : Vector Int 8) (s : State) :
    sampledOf l temps s = { s with pwr := { s.pwr with rails := (sampledOf l temps s).pwr.rails } } := by
  induction l generalizing s with
  | nil => rfl
  | cons i l ih => rw [sampledOf, List.foldl_cons, ← sampledOf, ih]; rfl

theorem sampledOf_rail {l : List (Fin 8)} (hl : l.Nodup) (temps : Vector Int 8) (s : State) (j : Fin 8) :
    (sampledOf l temps s).pwr.rails[j] = if j ∈ l then sampleRail s j temps[j] s.pwr.rails[j] else s.pwr.rails[j] := by
  induction l generalizing s with
  | nil => rfl
  | cons i l ih =>
    obtain ⟨hi, hl⟩ := List.nodup_cons.mp hl
    rw [sampledOf, List.foldl_cons, ← sampledOf, ih hl, sampleRail_updRail]
    by_cases hji : j = i
    · subst hji
      rw [if_neg hi, updRail_same, if_pos List.mem_cons_self]
    · rw [updRail_other hji]
      simp [hji]

theorem sampled_rail (temps : Vector Int 8) (s : State) (j : Fin 8) :
    (sampledOf (List.finRange 8) temps s).pwr.rails[j] = sampleRail s j temps[j] s.pwr.rails[j] := by
  rw [sampledOf_rail (List.nodup_finRange 8), if_pos (List.mem_finRange j)]

/-! The warnings. -/

/-- `t` differs from `s` by the parts of the supplies and by reports. -/
def pwrOnly (s t : State) : Prop := State.reportsOnly { s with pwr := t.pwr } t

theorem pwrOnly_trans {s t u : State} (h1 : pwrOnly s t) (h2 : pwrOnly t u) : pwrOnly s u := by
  unfold pwrOnly State.reportsOnly at *
  rw [h2, h1]

/-- A sensor whose warning has begun. -/
def warnRises (before : Vector Rail 8) (s : State) (i : Fin 8) : Bool := s.pwr.rails[i].warm && !before[i].warm

theorem warnSensor_only (before : Vector Rail 8) (s : State) (i : Fin 8) :
    pwrOnly s (warnSensor before s i) ∧
      (warnSensor before s i).pwr = { s.pwr with twarn := s.pwr.twarn || warnRises before s i } := by
  unfold warnSensor
  rw [← warnRises]
  cases warnRises before s i with
  | false => exact ⟨rfl, by simp⟩
  | true =>
    have honly := assertBlk_faultReport_only 9 (srcThermal i.val) 0 (s.updPwr fun p => { p with twarn := true })
    have hpwr := reportsOnly_pwr honly
    rw [if_pos rfl]
    refine ⟨?_, hpwr.trans (by simp [State.updPwr])⟩
    unfold pwrOnly
    rw [hpwr]
    exact honly

/-- The warnings of some of the sensors. -/
def warnedOf (before : Vector Rail 8) (l : List (Fin 8)) (s : State) : State := l.foldl (warnSensor before) s

theorem warnedOf_only (before : Vector Rail 8) (l : List (Fin 8)) (s : State) :
    pwrOnly s (warnedOf before l s) ∧ (warnedOf before l s).pwr = { s.pwr with twarn := (warnedOf before l s).pwr.twarn } := by
  induction l generalizing s with
  | nil => exact ⟨rfl, rfl⟩
  | cons i l ih =>
    obtain ⟨h1, h2⟩ := warnSensor_only before s i
    obtain ⟨h3, h4⟩ := ih (warnSensor before s i)
    refine ⟨pwrOnly_trans h1 h3, ?_⟩
    rw [warnedOf, List.foldl_cons, ← warnedOf]
    exact h4.trans (by rw [h2])

/-- A warning given: its report, TWARN and source 9. -/
def warningGiven (s : State) (i : Fin 8) : Prop :=
  s.reported (srcThermal i.val) ∧ s.pwr.twarn = true ∧ s.mgmt.intStatus.getLsbD 9 = true

theorem warnSensor_gives {before : Vector Rail 8} {s : State} {i : Fin 8} (h : warnRises before s i = true) :
    warningGiven (warnSensor before s i) i := by
  have hfires : warnSensor before s i = assertBlk 9 (faultReport (srcThermal i.val) 0 (s.updPwr fun p => { p with twarn := true })) := if_pos h
  rw [hfires]
  refine ⟨assertBlk_faultReport_reported _ _ _ _, ?_, assertBlk_bit 9 (by decide) _⟩
  rw [reportsOnly_pwr (assertBlk_faultReport_only _ _ _ _)]
  rfl

theorem warnSensor_keeps {before : Vector Rail 8} {s : State} {i : Fin 8} (h : warningGiven s i) (j : Fin 8) :
    warningGiven (warnSensor before s j) i := by
  obtain ⟨hrep, htw, hbit⟩ := h
  cases hj : warnRises before s j with
  | false =>
    have hskip : warnSensor before s j = s := if_neg (by rw [warnRises] at hj; rw [hj]; decide)
    rw [hskip]; exact ⟨hrep, htw, hbit⟩
  | true =>
    obtain ⟨-, htw', hbit'⟩ := warnSensor_gives hj
    have hfires : warnSensor before s j = assertBlk 9 (faultReport (srcThermal j.val) 0 (s.updPwr fun p => { p with twarn := true })) := if_pos hj
    refine ⟨?_, htw', hbit'⟩
    rw [hfires]
    refine reported_assertBlk 9 (reported_of_kept (faultReport_records _ _ _) ?_)
    exact reported_of_kept (s := s) (recordsKept_of_recent rfl rfl rfl) hrep

theorem warnedOf_keeps {before : Vector Rail 8} {i : Fin 8} (l : List (Fin 8)) {s : State} (h : warningGiven s i) :
    warningGiven (warnedOf before l s) i := by
  induction l generalizing s with
  | nil => exact h
  | cons j l ih => exact ih (warnSensor_keeps h j)

theorem warnedOf_gives {before : Vector Rail 8} {i : Fin 8} {l : List (Fin 8)} (hi : i ∈ l) {s : State} (h : warnRises before s i = true) :
    warningGiven (warnedOf before l s) i := by
  induction l generalizing s with
  | nil => exact absurd hi (by simp)
  | cons j l ih =>
    rw [warnedOf, List.foldl_cons, ← warnedOf]
    by_cases hij : i = j
    · subst hij
      exact warnedOf_keeps l (warnSensor_gives h)
    · refine ih (List.mem_of_ne_of_mem hij hi) ?_
      rw [warnRises, (warnSensor_only before s j).2]
      exact h

/-- TWARN falls once no sensor is warm (13 R509). -/
def warningEnded (s : State) : State :=
  if s.pwr.twarn && !(s.pwr.rails.toList.any Rail.warm) then assertBlk 9 (s.updPwr fun p => { p with twarn := false }) else s

theorem warningEnded_only (s : State) : pwrOnly s (warningEnded s) ∧ (warningEnded s).fixed = s.fixed ∧
    (warningEnded s).pwr = { s.pwr with twarn := (warningEnded s).pwr.twarn } := by
  unfold warningEnded
  split <;> exact ⟨rfl, rfl, rfl⟩

theorem warningEnded_of_warm {s : State} {i : Fin 8} (h : s.pwr.rails[i].warm = true) : warningEnded s = s := by
  have hany : s.pwr.rails.toList.any Rail.warm = true :=
    List.any_eq_true.mpr ⟨s.pwr.rails[i], Vector.mem_toList_iff.mpr (Vector.getElem_mem _), h⟩
  exact if_neg (by rw [hany]; simp)

/-! The sample. -/

/-- The block after a sample, before its alarm. -/
def sampledState (temps : Vector Int 8) (s : State) : State :=
  let u := s.updPwr fun p => { p with tempTick := some s.now }
  warningEnded (warnedOf u.pwr.rails (List.finRange 8) (sampledOf (List.finRange 8) temps u))

/-- The alarm of the first sensor above the alarm threshold (13 R510). -/
def sampleAlarmed (temps : Vector Int 8) (s : State) : State :=
  match temps.toList.find? fun t => decide (t > 4 * alarmTemp s) with
  | some t => tamperAlarm 0x13 false (BitVec.ofInt 32 t) s
  | none => s

theorem exec_temperatureSample {s : State} (hup : s.mainUp = true) (hdue : cadenceDue s sampleTicks s.pwr.tempTick = true) (temps : Vector Int 8) :
    exec (.temperatureSample temps) s = .next (sampleAlarmed temps (sampledState temps s)) := by
  change execTemperatureSample temps s = _
  unfold execTemperatureSample
  rw [if_neg (by simp [hup, hdue])]
  unfold sampleAlarmed sampledState warnedOf sampledOf warningEnded
  dsimp only
  generalize (if (_ && _) = true then _ else _ : State) = v
  cases temps.toList.find? fun t => decide (t > 4 * alarmTemp v) <;> rfl

theorem alarmTemp_of_pwrOnly {s t : State} (h : pwrOnly s t) (hold : t.pwr.oldLevels = s.pwr.oldLevels) : alarmTemp t = alarmTemp s := by
  unfold pwrOnly State.reportsOnly at h
  generalize ht : t.pwr = p at h hold
  rw [h]
  unfold alarmTemp levelValue
  dsimp only
  rw [hold]
  rfl

theorem aon_of_pwrOnly {s t : State} (h : pwrOnly s t) : t.aon = s.aon := by
  unfold pwrOnly State.reportsOnly at h
  rw [h]

end Sys2Proof.Machine
end

section
namespace Sys2Proof.Machine

theorem sampledState_leaves (temps : Vector Int 8) (s : State) {v : State} (hv : v = sampledState temps s) :
    pwrOnly s v ∧ v.fixed = s.fixed ∧ (∀ j : Fin 8, v.pwr.rails[j] = sampleRail s j temps[j] s.pwr.rails[j]) ∧
      v.pwr = { s.pwr with rails := v.pwr.rails, twarn := v.pwr.twarn, tempTick := some s.now } ∧
      (∀ i : Fin 8, s.pwr.rails[i].warm = false → (sampleRail s i temps[i] s.pwr.rails[i]).warm = true → warningGiven v i) := by
  unfold sampledState at hv
  generalize hu : s.updPwr (fun p => { p with tempTick := some s.now }) = u at hv
  dsimp only at hv
  have hup : u = { s with pwr := { s.pwr with tempTick := some s.now } } := hu.symm
  generalize hr : sampledOf (List.finRange 8) temps u = r at hv
  have hrf : r = { u with pwr := { u.pwr with rails := r.pwr.rails } } := hr ▸ sampledOf_frame _ _ _
  have hrail : ∀ j : Fin 8, r.pwr.rails[j] = sampleRail s j temps[j] s.pwr.rails[j] := fun j => by
    rw [← hr, sampled_rail, hup]; rfl
  generalize hw : warnedOf u.pwr.rails (List.finRange 8) r = w at hv
  obtain ⟨hwo, hwp⟩ := warnedOf_only u.pwr.rails (List.finRange 8) r
  rw [hw] at hwo hwp
  obtain ⟨hvo, hvf, hvp⟩ := warningEnded_only w
  rw [← hv] at hvo hvf hvp
  have hwarn : ∀ j : Fin 8, w.pwr.rails[j] = sampleRail s j temps[j] s.pwr.rails[j] := fun j => by rw [hwp]; exact hrail j
  refine ⟨?_, ?_, fun j => by rw [hvp]; exact hwarn j, ?_, fun i hcold hwarm => ?_⟩
  · refine pwrOnly_trans (pwrOnly_trans (t := r) ?_ hwo) hvo
    rw [hrf, hup]; rfl
  · have hfold : w.fixed = r.fixed := by rw [← hw, warnedOf]; simp
    rw [hvf, hfold, hrf, hup]; rfl
  · rw [hvp, hwp, hrf, hup]
  · have hrise : warnRises u.pwr.rails r i = true := by
      rw [warnRises, hrail, hwarm, hup, hcold]; rfl
    rw [hv, warningEnded_of_warm (i := i) (by rw [hwarn]; exact hwarm), ← hw]
    exact warnedOf_gives (List.mem_finRange i) hrise

theorem sampleAlarmed_leaves (temps : Vector Int 8) (v : State) :
    State.recordsKept v (sampleAlarmed temps v) ∧ (sampleAlarmed temps v).pwr = v.pwr ∧
      ∀ k, v.mgmt.intStatus.getLsbD k = true → (sampleAlarmed temps v).mgmt.intStatus.getLsbD k = true := by
  unfold sampleAlarmed
  split
  · exact tamperAlarm_leaves _ _ _ _
  · exact ⟨recordsKept_refl v, rfl, fun _ h => h⟩

theorem sampleAlarmed_none {temps : Vector Int 8} {v : State} (h : ∀ i : Fin 8, temps[i] ≤ 4 * alarmTemp v) :
    sampleAlarmed temps v = v := by
  have hfind : temps.toList.find? (fun t => decide (t > 4 * alarmTemp v)) = none := by
    rw [List.find?_eq_none]
    intro x hx
    obtain ⟨i, hi, rfl⟩ := Vector.mem_iff_getElem.mp (Vector.mem_toList_iff.mp hx)
    have := h ⟨i, hi⟩
    simpa using this
  rw [sampleAlarmed, hfind]

theorem sampleAlarmed_some {temps : Vector Int 8} {v : State} (h : ∃ i : Fin 8, temps[i] > 4 * alarmTemp v) (hup : v.aon.up = true)
    (hcell : v.aon.onCell = false) : (0x13 : BitVec 8) ∈ (sampleAlarmed temps v).aon.alarmed := by
  obtain ⟨i, hi⟩ := h
  have hfind : (temps.toList.find? fun t => decide (t > 4 * alarmTemp v)).isSome := by
    rw [List.find?_isSome]
    exact ⟨temps[i], Vector.mem_toList_iff.mpr (Vector.getElem_mem _), by simpa using hi⟩
  obtain ⟨t, ht⟩ := Option.isSome_iff_exists.mp hfind
  rw [sampleAlarmed, ht]
  exact tamperAlarm_temperature hup hcell _

/-- Settles O16: the readings are taken one sensor after the other, each warning that begins is given, and the first reading above the alarm
threshold alarms. -/
theorem temperatureSampled : Obligations.TemperatureSampled := by
  unfold Obligations.TemperatureSampled
  intro s temps hup hdue
  refine ⟨_, exec_temperatureSample hup hdue temps, ?_⟩
  generalize hv : sampledState temps s = v
  obtain ⟨honly, hfixed, hrail, hpwr, hgiven⟩ := sampledState_leaves temps s hv.symm
  obtain ⟨hrec, hpwr', hbit⟩ := sampleAlarmed_leaves temps v
  have halarm : alarmTemp v = alarmTemp s := alarmTemp_of_pwrOnly honly (by rw [hpwr])
  have haon := aon_of_pwrOnly honly
  refine ⟨fun i => by rw [hpwr', hrail]; rfl, by rw [hpwr']; exact hpwr, fun i hcold hhot => ?_, fun hlow => ?_, fun hhigh hon hcell => ?_⟩
  · obtain ⟨h1, h2, h3⟩ := hgiven i hcold (by simp only [sampleRail, hcold]; simpa using hhot)
    exact ⟨reported_of_kept hrec h1, by rw [hpwr']; exact h2, hbit 9 h3⟩
  · rw [sampleAlarmed_none (by rw [halarm]; exact hlow)]
    exact ⟨haon, hfixed⟩
  · exact sampleAlarmed_some (by rw [halarm]; exact hhigh) (by rw [haon]; exact hon) (by rw [haon]; exact hcell)

end Sys2Proof.Machine
end

section
/-! SUPPORT. Which step an entry serves (02 R76). -/
namespace Sys2Proof.Machine

/-- A step whose piece of this tick has slots behind it. -/
def midPiece (s : State) (r : Request) : Bool := decide (r.pieceTick = s.now) && decide (r.pieceSlots > 0)

/-- The steps of a platform that can run on a position. -/
def runnable (s : State) (st pos p : Nat) : List Request := s.reqs.filter fun r => decide (r.plat = p) && canRun s st pos r

theorem mem_runnable {s : State} {st pos p : Nat} {r : Request} :
    r ∈ runnable s st pos p ↔ r ∈ s.reqs ∧ r.plat = p ∧ canRun s st pos r = true := by
  simp [runnable]

/-- The oldest runnable step of a class. -/
def oldestOf (k : RateClass) (c : List Request) : Option Request := c.find? fun r => decide (r.rate = k)

theorem oldestOf_rate {k : RateClass} {c : List Request} {r : Request} (h : oldestOf k c = some r) : r ∈ c ∧ r.rate = k :=
  ⟨List.mem_of_find?_eq_some h, by simpa using List.find?_some h⟩

theorem oldestOf_none {k : RateClass} {c : List Request} (h : oldestOf k c = none) : ∀ q ∈ c, q.rate ≠ k := by
  simpa [oldestOf, List.find?_eq_none] using h

theorem pickOf_eq (s : State) (st pos p : Nat) :
    pickOf s st pos p = ((runnable s st pos p).find? (midPiece s) <|> oldestOf .inRate (runnable s st pos p) <|>
      oldestOf .overRate (runnable s st pos p) <|> oldestOf .freight (runnable s st pos p)) := rfl

/-- The four cases of a pick: the step whose piece is on the position, and else the oldest of the first class that has one. -/
theorem pickOf_cases {s : State} {st pos p : Nat} {r : Request} (h : pickOf s st pos p = some r) :
    (r ∈ runnable s st pos p ∧ midPiece s r = true) ∨
      ((∀ q ∈ runnable s st pos p, midPiece s q = false) ∧ oldestOf r.rate (runnable s st pos p) = some r ∧
        ∀ q ∈ runnable s st pos p, (q.rate = .inRate → r.rate = .inRate) ∧ (q.rate = .overRate → r.rate ≠ .freight)) := by
  rw [pickOf_eq] at h
  generalize runnable s st pos p = c at h
  cases hb : c.find? (midPiece s) with
  | some x =>
    rw [hb] at h
    obtain rfl : x = r := by simpa using h
    exact .inl ⟨List.mem_of_find?_eq_some hb, List.find?_some hb⟩
  | none =>
    have hidle : ∀ q ∈ c, midPiece s q = false := by simpa [List.find?_eq_none] using hb
    refine .inr ⟨hidle, ?_⟩
    rw [hb] at h
    cases hi : oldestOf .inRate c with
    | some x =>
      rw [hi] at h
      obtain rfl : x = r := by simpa using h
      obtain ⟨-, hx⟩ := oldestOf_rate hi
      rw [hx]
      exact ⟨hi, fun q _ => ⟨fun _ => rfl, fun _ => by simp⟩⟩
    | none =>
      have hni := oldestOf_none hi
      rw [hi] at h
      cases ho : oldestOf .overRate c with
      | some x =>
        rw [ho] at h
        obtain rfl : x = r := by simpa using h
        obtain ⟨-, hx⟩ := oldestOf_rate ho
        rw [hx]
        exact ⟨ho, fun q hq => ⟨fun h => absurd h (hni q hq), fun _ => by simp⟩⟩
      | none =>
        have hno := oldestOf_none ho
        rw [ho] at h
        have hf : oldestOf .freight c = some r := by simpa using h
        obtain ⟨-, hx⟩ := oldestOf_rate hf
        rw [hx]
        exact ⟨hf, fun q hq => ⟨fun h => absurd h (hni q hq), fun h => absurd h (hno q hq)⟩⟩

theorem pickOf_none {s : State} {st pos p : Nat} (h : pickOf s st pos p = none) : runnable s st pos p = [] := by
  rw [pickOf_eq] at h
  simp only [Option.orElse_eq_orElse, Option.orElse_eq_or, Option.or_eq_none_iff] at h
  obtain ⟨-, hi, ho, hf⟩ := h
  rw [List.eq_nil_iff_forall_not_mem]
  intro q hq
  cases hrate : q.rate with
  | inRate => exact oldestOf_none hi q hq hrate
  | overRate => exact oldestOf_none ho q hq hrate
  | freight => exact oldestOf_none hf q hq hrate

/-- Settles O22, by the four cases of a pick. -/
theorem slotServesInOrder : Obligations.SlotServesInOrder := by
  unfold Obligations.SlotServesInOrder
  intro s st pos p
  refine ⟨fun r h => ?_, fun h q hq hp => ?_⟩
  · have hmid : ∀ q : Request, midPiece s q = true ↔ q.pieceTick = s.now ∧ 0 < q.pieceSlots := fun q => by simp [midPiece]
    obtain ⟨hr, hm⟩ | ⟨hidle, hold, hcls⟩ := pickOf_cases h
    · obtain ⟨h1, h2, h3⟩ := mem_runnable.mp hr
      exact ⟨h1, h2, h3, fun _ _ _ _ _ _ => (hmid r).mp hm, fun hno => absurd ((hmid r).mp hm) hno, fun hno => absurd ((hmid r).mp hm) hno⟩
    · obtain ⟨h1, h2, h3⟩ := mem_runnable.mp (oldestOf_rate hold).1
      refine ⟨h1, h2, h3, fun q hq hp hrun ht hs => ?_, fun _ q hq hp hrun => hcls q (mem_runnable.mpr ⟨hq, hp, hrun⟩), fun _ => ?_⟩
      · have := hidle q (mem_runnable.mpr ⟨hq, hp, hrun⟩)
        rw [(hmid q).mpr ⟨ht, hs⟩] at this
        exact absurd this (by decide)
      · rw [oldestOf, runnable, List.find?_filter] at hold
        simpa only [Bool.decide_and, Bool.decide_eq_true] using hold
  · cases hcan : canRun s st pos q with
    | false => rfl
    | true =>
      have hmem := mem_runnable.mpr ⟨hq, hp, hcan⟩
      rw [pickOf_none h] at hmem
      exact absurd hmem (by simp)

end Sys2Proof.Machine
end

section
/-! SUPPORT. Escalation windows, records and shunts (12 R467, R471, R473, R475; 02 R101, R103). -/
namespace Sys2Proof.Machine

theorem find?_window {l : List EscTimer} {w : EscTimer} (hw : w ∈ l) {p : EscTimer → Bool} (hp : p w = true) : ∃ x, l.find? p = some x := by
  rw [← Option.isSome_iff_exists, List.find?_isSome]
  exact ⟨w, hw, hp⟩

theorem expireWindow_only (t : EscTimer) (s : State) : State.reportsOnly s (expireWindow t s) := by
  unfold expireWindow
  dsimp only
  have h : State.reportsOnly s (takeAction t.action t.source
      (markRecords t.source (t.opens - 1) (fun x => { x with action := true }) (closeWindow t.source s))) :=
    reportsOnly_trans (t := markRecords t.source (t.opens - 1) (fun x => { x with action := true }) (closeWindow t.source s)) rfl
      (takeAction_only _ _ _)
  split
  · exact reportsOnly_trans h (updFlt_only _ _)
  · exact h

theorem discardInternal_timers (key pos : Nat) (s : State) : (discardInternal key pos s).flt.timers = s.flt.timers := by
  rw [discardInternal_flt]

/-- An action never opens or closes a window (12 R468). -/
theorem takeAction_timers (a : Nat) (c : BitVec 16) (s : State) : (takeAction a c s).flt.timers = s.flt.timers := by
  unfold takeAction
  split
  · split
    · unfold retireSource
      split <;> rfl
    · unfold retireLane
      dsimp only
      split
      · rfl
      · split
        · rfl
        · split
          · exact discardInternal_timers _ _ _
          · rfl
  · split
    · rfl
    · split <;> rfl

theorem expireWindow_timers (t : EscTimer) (s : State) :
    (expireWindow t s).flt.timers = s.flt.timers.filter (fun x => x.source ≠ t.source) := by
  unfold expireWindow
  dsimp only
  split
  · exact takeAction_timers _ _ _
  · exact takeAction_timers _ _ _

theorem expireWindow_station {t : EscTimer} (h : t.action = 4) (s : State) :
    (expireWindow t s).flt.due = s.flt.due ++ [(srcStation t.source, s.now + 1, t.source)] := by
  unfold expireWindow
  simp only [h, takeAction, true_or, if_true]
  rfl

theorem expireWindow_block {t : EscTimer} (h : t.action = 5) (s : State) :
    (expireWindow t s).flt.due = s.flt.due ++ [(7, s.now + 1, t.source)] := by
  unfold expireWindow
  simp only [h, takeAction, or_true, if_true]
  rfl

/-- Settles O35: an acknowledged window is found and closed, an expired one closed and its action taken. -/
theorem escalationWindows : Obligations.EscalationWindows := by
  unfold Obligations.EscalationWindows
  refine ⟨fun s v w hsup hw hsrc hopen hlive => ?_, fun s c w hfind => ?_, fun s r l hsup hq => ⟨fun hlt => ?_, fun hge => ?_⟩⟩
  · obtain ⟨x, hx⟩ := find?_window (p := fun t => t.source = v.extractLsb' 0 16 && decide (t.opens ≤ s.now ∧ s.now < t.expires)) hw
      (by simp [hsrc, hopen, hlive])
    refine ⟨markRecords (v.extractLsb' 0 16) (x.opens - 1) (fun x => { x with acked := true }) (closeWindow (v.extractLsb' 0 16) s), ?_, rfl, rfl⟩
    change execFaultAck v s = _
    simp only [execFaultAck, hsup, hx]
    rfl
  · have hsrc : w.source = c := by have := List.find?_some hfind; simp at this; exact this.1
    refine ⟨expireWindow w s, ?_, expireWindow_only w s, hsrc ▸ expireWindow_timers w s, fun h => hsrc ▸ expireWindow_station h s,
      fun h => hsrc ▸ expireWindow_block h s⟩
    change execEscalationExpiry c s = _
    rw [execEscalationExpiry, hfind]
    rfl
  · change execFaultRecordTake s = _
    rw [execFaultRecordTake, hq]
    exact if_pos ⟨hsup, hlt⟩
  · change execFaultRecordTake s = _
    rw [execFaultRecordTake, hq]
    exact if_neg (by omega)

/-! Sidings. -/

theorem lookup_assoc_same {β : Type} (k : Nat) (v : β) (l : List (Nat × β)) : (assoc k v l).lookup k = some v := by
  induction l with
  | nil => simp [assoc]
  | cons x l ih =>
    obtain ⟨a, b⟩ := x
    by_cases h : a = k
    · simp [assoc, h]
    · have h' : (k == a) = false := by simpa using fun e : k = a => h e.symm
      simp [assoc, h, List.lookup_cons, h', ih]

theorem lookup_assoc_other {β : Type} {k j : Nat} (hkj : j ≠ k) (v : β) (l : List (Nat × β)) : (assoc k v l).lookup j = l.lookup j := by
  have hjk : (j == k) = false := by simpa using hkj
  induction l with
  | nil => simp [assoc, List.lookup_cons, hjk]
  | cons x l ih =>
    obtain ⟨a, b⟩ := x
    by_cases h : a = k
    · subst h; simp [assoc, List.lookup_cons, hjk]
    · simp [assoc, h, List.lookup_cons, ih]

theorem roles_setRole (key lane : Nat) (r : BitVec 4) (s : State) : (setRole key lane r s).roles key = (s.roles key).set lane r := by
  simp only [State.roles, setRole, State.updFlt, lookupD, lookup_assoc_same, Option.getD_some]

theorem plannedShunt_frame (key lane siding : Nat) (s : State) :
    plannedShunt key lane siding s = { s with flt := { s.flt with roles := (plannedShunt key lane siding s).flt.roles } } := by
  unfold plannedShunt
  dsimp only
  split <;> rfl

theorem lt_length_of_getD {α : Type} {l : List α} {i : Nat} {d : α} (h : l.getD i d ≠ d) : i < l.length := by
  refine Classical.byContradiction fun hi => ?_
  exact h (by simp [List.getD, List.getElem?_eq_none (Nat.le_of_not_lt hi)])

theorem takeOver_frame (s : State) (t : Takeover) :
    takeOver s t = { s with flt := { s.flt with takeovers := s.flt.takeovers.filter (· ≠ t), roles := (takeOver s t).flt.roles } } := by
  unfold takeOver
  dsimp only
  split <;> rfl

/-- The shunts of a list are made one after the other. -/
theorem takeOvers_frame (l : List Takeover) (s : State) :
    l.foldl takeOver s = { s with flt := { s.flt with takeovers := s.flt.takeovers.filter (fun x => x ∉ l), roles := (l.foldl takeOver s).flt.roles } } := by
  induction l generalizing s with
  | nil =>
    have hall : s.flt.takeovers.filter (fun x => x ∉ ([] : List Takeover)) = s.flt.takeovers := List.filter_eq_self.mpr (by simp)
    rw [List.foldl_nil, hall]
  | cons t l ih =>
    rw [List.foldl_cons, ih, takeOver_frame]
    simp [List.filter_filter, Bool.and_comm]

/-- The shunts of an engine that are due. -/
def dueShunts (key : Nat) (s : State) : List Takeover := s.flt.takeovers.filter fun t => t.engine = key && decide (t.tick ≤ s.now)

theorem takeOvers_eq (key : Nat) (s : State) : takeOvers key s = (dueShunts key s).foldl takeOver s := rfl

theorem takeOvers_leaves (key : Nat) (s : State) :
    (takeOvers key s).tt = s.tt ∧ (takeOvers key s).image = s.image ∧ (takeOvers key s).flt.switches = s.flt.switches := by
  rw [takeOvers_eq, takeOvers_frame]
  exact ⟨rfl, rfl, rfl⟩

theorem sidingTakeover_roles {s : State} {key : Nat} {x : Takeover} (hone : dueShunts key s = [x])
    (hres : inReserve ((s.roles key).getD x.lane 11) = true) : ((takeOvers key s).roles key)[x.lane]? = some (BitVec.ofNat 4 x.pos) := by
  have hmem : x ∈ dueShunts key s := by rw [hone]; exact List.mem_singleton_self x
  have heng : x.engine = key := by
    have := (List.mem_filter.mp hmem).2
    simp at this
    exact this.1
  have hlt : x.lane < (s.roles key).length := lt_length_of_getD (d := 11) (fun h => by rw [h] at hres; exact absurd hres (by decide))
  have hroles : (takeOvers key s).roles key = (s.roles key).set x.lane (BitVec.ofNat 4 x.pos) := by
    rw [takeOvers_eq, hone, ← roles_setRole, ← heng]
    rw [← heng] at hres
    simp only [List.foldl_cons, List.foldl_nil, takeOver, if_pos hres]
    rfl
  rw [hroles, List.getElem?_set_self hlt]

/-- The contingency of a switch is entered, unless there is none or one is in force (02 R103). -/
def enterGroup (x : SwitchDue) (s : State) : State :=
  if s.tt.active ≠ 0 then s
  else assertBlk 4 (s.updTt fun t => { t with active := BitVec.ofNat 3 (s.image.groups.getD x.case 0), causeV := true, cause := x.source })

/-- SHA-3 work moves where a digest station lost it (02 R637). -/
def moveWork (x : SwitchDue) (s : State) : State := if x.case = 4 then moveSha3 2 s else if x.case = 5 then moveSha3 3 s else s

/-- The lanes of an engine are mapped anew before its contingency (02 R101). -/
def remapped (x : SwitchDue) (s : State) : State :=
  let s := takeOvers x.engine (s.updFlt fun f => { f with switches := f.switches.erase x })
  if x.engine = 17 ∨ x.engine = 25 then s else remap x.engine s

theorem switchContingency_eq (x : SwitchDue) (s : State) : switchContingency x s =
    (if (remapped x s).image.groups.getD x.case 0 = 0 ∨
        ((remapped x s).tt.active ≠ 0 ∧ (remapped x s).tt.active.toNat ≠ (remapped x s).image.groups.getD x.case 0) then remapped x s
      else moveWork x (enterGroup x (remapped x s))) := rfl

theorem remapped_leaves (x : SwitchDue) (s : State) :
    (remapped x s).tt = s.tt ∧ (remapped x s).image = s.image ∧ (remapped x s).flt.switches = s.flt.switches.erase x := by
  unfold remapped
  obtain ⟨htt, himg, hsw⟩ := takeOvers_leaves x.engine (s.updFlt fun f => { f with switches := f.switches.erase x })
  dsimp only
  generalize takeOvers x.engine _ = u at htt himg hsw
  split <;> exact ⟨htt, himg, hsw⟩

theorem moveWork_frame (x : SwitchDue) (s : State) : moveWork x s = { s with reqs := (moveWork x s).reqs } := by
  unfold moveWork
  split
  · rfl
  · split <;> rfl

/-- Settles O36: shunts and remapping leave the timetable's state, and a contingency that takes effect writes its three fields. -/
theorem lanesAreReplaced : Obligations.LanesAreReplaced := by
  unfold Obligations.LanesAreReplaced
  refine ⟨fun s eng => ⟨takeOvers eng.val s, rfl, ?_, fun x hx => ?_, fun x hone hres => sidingTakeover_roles hone hres⟩,
    fun s x l hcut hdue => ⟨switchContingency x s, ?_, switchContingency_fixed x s, ?_⟩, fun s eng lane siding hsup hslot hne hlane hsid hfree => ?_⟩
  · rw [takeOvers_eq]
    conv => lhs; rw [takeOvers_frame]
    conv => rhs; rw [takeOvers_frame]
  · rw [takeOvers_eq, takeOvers_frame] at hx
    obtain ⟨hin, hnot⟩ := List.mem_filter.mp hx
    refine ⟨hin, fun ⟨heng, htick⟩ => ?_⟩
    have hdue : x ∈ dueShunts eng.val s := List.mem_filter.mpr ⟨hin, by simp [heng, htick]⟩
    simp [hdue] at hnot
  · change execContingencySwitch s = _
    rw [execContingencySwitch, if_neg (by simp [hcut]), hdue]
    rfl
  · obtain ⟨htt, himg, hsw⟩ := remapped_leaves x s
    rw [switchContingency_eq]
    generalize remapped x s = u at htt himg hsw
    rw [htt, himg]
    split
    case isTrue hnone =>
      refine ⟨hsw, fun _ => htt, fun hidx hact => ?_, fun _ => htt⟩
      obtain h | ⟨h, -⟩ := hnone
      · exact absurd h hidx
      · exact absurd hact h
    case isFalse hsome =>
      rw [moveWork_frame]
      have hidx : s.image.groups.getD x.case 0 ≠ 0 := fun h => hsome (.inl h)
      unfold enterGroup
      by_cases hact : s.tt.active = 0
      · rw [if_neg (by simp [htt, hact])]
        refine ⟨hsw, fun h => absurd h hidx, fun _ _ => ⟨?_, assertBlk_bit 4 (by decide) _⟩, fun h => absurd hact h⟩
        rw [← himg, ← htt]; rfl
      · rw [if_pos (by rw [htt]; exact hact)]
        exact ⟨hsw, fun _ => htt, fun _ h => absurd h hact, fun _ => htt⟩
  · have hll : lane.val < (s.roles eng.val).length := lt_length_of_getD (d := 15) (fun h => by rw [h] at hlane; exact absurd hlane (by decide))
    have hsl : siding.val < (s.roles eng.val).length := lt_length_of_getD (d := 15) (fun h => by rw [h] at hsid; exact absurd hsid (by decide))
    have hne' : lane.val ≠ siding.val := Fin.val_ne_of_ne hne
    have hroles : (plannedShunt eng.val lane.val siding.val s).roles eng.val =
        ((s.roles eng.val).set siding.val ((s.roles eng.val).getD lane.val 15)).set lane.val 8 := by
      rw [plannedShunt, if_pos ⟨hlane, hsid, hfree⟩, roles_setRole, roles_setRole]
    refine ⟨plannedShunt eng.val lane.val siding.val s, if_pos (by simp [hsup, hslot, hne]), plannedShunt_frame _ _ _ s, ?_, ?_, fun n h1 h2 => ?_⟩
    · rw [hroles]; simp [List.getD, hne', hsl]
    · rw [hroles]; simp [List.getD, hll]
    · rw [hroles]; simp [List.getD, Ne.symm h1, Ne.symm h2]

end Sys2Proof.Machine
end

section
/-! SUPPORT. Noise sources, the seed pool and the generator (10 R410 to R425). -/
namespace Sys2Proof.Machine

/-! What a report leaves of the entropy service. -/

/-- The source that a noise checker belongs to (01 Table 01-4). -/
def noiseOf (c : BitVec 16) : Fin 4 := ⟨srcLane c % 4, Nat.mod_lt _ (by decide)⟩

theorem logReport_en (p : Bool) (c d : BitVec 16) (cl : SevClass) (s : State) : (logReport p c d cl s).en = s.en := by
  unfold logReport
  dsimp only
  split <;> rfl

theorem discardInternal_en (key pos : Nat) (s : State) : (discardInternal key pos s).en = s.en := by
  unfold discardInternal
  (repeat' split) <;> rfl

theorem retireLane_en (key lane : Nat) (c : BitVec 16) (s : State) : (retireLane key lane c s).en = s.en := by
  unfold retireLane
  dsimp only
  split
  · rfl
  · split
    · rfl
    · split
      · exact discardInternal_en _ _ _
      · rfl

/-- An action leaves the entropy service, a source that is retired among it (12 R464, R468). -/
theorem takeAction_en {c : BitVec 16} {s : State} (h : isNoiseSource c = true → s.en.sources[noiseOf c].state = 2) (a : Nat) :
    (takeAction a c s).en = s.en := by
  unfold takeAction
  split
  · split
    case isTrue hn => exact congrArg State.en (if_pos (h hn) : retireSource (noiseOf c) 0 s = s)
    case isFalse => exact retireLane_en _ _ _ _
  · split
    · rfl
    · split <;> rfl

theorem openWindow_en {c : BitVec 16} {s : State} (h : isNoiseSource c = true → s.en.sources[noiseOf c].state = 2) (cl : SevClass) :
    (openWindow c cl s).en = s.en := by
  unfold openWindow
  split
  · rfl
  · split
    · rfl
    · have hfirst : (takeAction cl.action c (markRecords c s.now (fun x => { x with action := true }) s)).en = s.en :=
        takeAction_en (s := markRecords c s.now (fun x => { x with action := true }) s) h _
      dsimp only
      rw [takeAction_en (fun hc => absurd hc (by decide)), logReport_en, hfirst]

theorem faultReport_en {c : BitVec 16} {s : State} (h : isNoiseSource c = true → s.en.sources[noiseOf c].state = 2) (d : BitVec 16) :
    (faultReport c d s).en = s.en := by
  unfold faultReport reportAs
  dsimp only
  have hlog := logReport_en false c d (severityOf s c) s
  split
  · rw [openWindow_en (by rw [hlog]; exact h), hlog]
  · split
    · rw [takeAction_en (by rw [hlog]; exact h), hlog]
    · exact hlog

/-! Retirement. -/

/-- The checker of a failed health test (10 Table 10-10). -/
def testChecker (n : Fin 4) (cause : BitVec 8) : BitVec 16 := sourceId 6 2 n.val (if cause = 1 ∨ cause = 3 then 9 else 10)

theorem testChecker_noise (n : Fin 4) (cause : BitVec 8) : noiseOf (testChecker n cause) = n := by
  unfold testChecker
  split <;> revert n <;> decide

/-- The source with the failed test counted. -/
def countedFail (cause : BitVec 8) (x : Source) : Source :=
  { x with fails := satInc 0xFFFF x.fails, runPeak := if cause = 1 ∨ cause = 3 then max x.runPeak 201 else x.runPeak,
           aptPeak := if cause = 1 ∨ cause = 3 then x.aptPeak else max x.aptPeak 947 }

/-- The entropy service with a source retired for a cause (10 R413). -/
def retiredEn (n : Fin 4) (cause : BitVec 8) (now : Nat) (e : Entropy) : Entropy :=
  { e with retire := satInc 0xFFFF e.retire,
           sources := e.sources.set n { countedFail cause e.sources[n] with state := 2, cause := cause, line := [], out := [], failed := 0, retired := now } }

theorem failSource_eq {n : Fin 4} {s : State} (h : s.en.sources[n].state ≠ 2) (cause : BitVec 8) :
    failSource n cause s = faultReport (testChecker n cause) 0 { s with en := retiredEn n cause s.now s.en } := by
  have hnot : ¬ (s.updEn fun e => { e with sources := e.sources.set n (countedFail cause e.sources[n]) }).en.sources[n].state = 2 := by
    have hget : (s.updEn fun e => { e with sources := e.sources.set n (countedFail cause e.sources[n]) }).en.sources[n] =
        countedFail cause s.en.sources[n] := Vector.getElem_set_self ..
    rw [hget]; exact h
  have hret : retireSource n cause (s.updEn fun e => { e with sources := e.sources.set n (countedFail cause e.sources[n]) }) =
      { s with en := retiredEn n cause s.now s.en } := by
    rw [retireSource, if_neg hnot]
    simp [State.updEn, retiredEn, State.now]
  exact congrArg (faultReport (testChecker n cause) 0) hret

theorem failSource_en {n : Fin 4} {s : State} (h : s.en.sources[n].state ≠ 2) (cause : BitVec 8) :
    (failSource n cause s).en = retiredEn n cause s.now s.en := by
  rw [failSource_eq h]
  have hret : ∀ m, m = n → (retiredEn n cause s.now s.en).sources[m].state = 2 := by
    rintro m rfl
    simp [retiredEn]
  exact faultReport_en (fun _ => hret _ (testChecker_noise n cause)) 0

/-! Retests. -/

/-- The source under a retest (10 R424). -/
def retested (x : Source) : Source := if x.state = 2 ∧ x.rejoins ≠ 3 then { x.restart with state := 1, retest := true } else x

theorem startRetest_frame (n : Fin 4) (s : State) :
    startRetest n s = { s with en := { s.en with sources := (startRetest n s).en.sources } } := by
  unfold startRetest
  dsimp only
  split <;> rfl

theorem startRetest_same (n : Fin 4) (s : State) : (startRetest n s).en.sources[n] = retested s.en.sources[n] := by
  unfold startRetest retested
  dsimp only
  split <;> simp [State.updEn]

theorem startRetest_other {n m : Fin 4} (h : m ≠ n) (s : State) : (startRetest n s).en.sources[m] = s.en.sources[m] := by
  unfold startRetest
  dsimp only
  split
  · simp [State.updEn, Vector.getElem_set_ne, Fin.val_ne_of_ne h.symm]
  · rfl

/-- The retests that a write names, of some of the sources. -/
def retestsOf (v : BitVec 32) (l : List (Fin 4)) (s : State) : State := l.foldl (fun s n => if bitAt v n.val then startRetest n s else s) s

theorem retestsOf_frame (v : BitVec 32) (l : List (Fin 4)) (s : State) :
    retestsOf v l s = { s with en := { s.en with sources := (retestsOf v l s).en.sources } } := by
  induction l generalizing s with
  | nil => rfl
  | cons n l ih =>
    rw [retestsOf, List.foldl_cons, ← retestsOf, ih]
    split
    · rw [startRetest_frame]
    · rfl

theorem retestsOf_source {l : List (Fin 4)} (hl : l.Nodup) (v : BitVec 32) (s : State) (m : Fin 4) :
    (retestsOf v l s).en.sources[m] = if m ∈ l ∧ bitAt v m.val = true then retested s.en.sources[m] else s.en.sources[m] := by
  induction l generalizing s with
  | nil => simp [retestsOf]
  | cons n l ih =>
    obtain ⟨hn, hl⟩ := List.nodup_cons.mp hl
    rw [retestsOf, List.foldl_cons, ← retestsOf, ih hl]
    by_cases hmn : m = n
    · subst hmn
      rw [if_neg (fun h => hn h.1)]
      by_cases hb : bitAt v m.val = true
      · rw [if_pos hb, if_pos ⟨List.mem_cons_self, hb⟩, startRetest_same]
      · rw [if_neg hb, if_neg (fun h => hb h.2)]
    · have hkeep : (if bitAt v n.val = true then startRetest n s else s).en.sources[m] = s.en.sources[m] := by
        split
        · exact startRetest_other hmn s
        · rfl
      rw [hkeep]
      simp [hmn]

/-- Settles O39: a failure retires its source before it is reported, and the rest writes the one source. -/
theorem noiseSourcesRetireAndRejoin : Obligations.NoiseSourcesRetireAndRejoin := by
  unfold Obligations.NoiseSourcesRetireAndRejoin
  refine ⟨fun s n cause hst hlo hhi => ⟨fun hphase => ?_, fun hphase => ?_⟩, fun s n hst hdone => ?_, fun s n hst hrej hdue hsup => ?_, fun s i v h => ?_⟩
  · have hne : ¬ (s.en.sources[n].state = 2 ∨ cause = 0 ∨ cause.toNat > 4 ∨ ¬ (cause.toNat ≤ 2 ↔ s.en.sources[n].taken < 1024)) := by
      rintro (h | h | h | h)
      · exact hst h
      · subst h; exact absurd hlo (by decide)
      · omega
      · exact h hphase
    have hen := failSource_en hst cause
    refine ⟨failSource n cause s, if_neg hne, ?_, ?_, ?_⟩
    · rw [failSource_eq hst]; exact reportsOnly_trans (updEn_only s (retiredEn n cause s.now)) (faultReport_only _ _ _)
    · rw [failSource_eq hst]; exact faultReport_reported _ _ _
    · rw [hen]
      refine ⟨by simp [retiredEn], by simp [retiredEn], by simp [retiredEn], by simp [retiredEn], by simp [retiredEn],
        by simp [retiredEn, countedFail, satInc], rfl, fun m hm => ?_⟩
      simp [retiredEn, Vector.getElem_set_ne, Fin.val_ne_of_ne hm.symm]
  · exact if_pos (.inr (.inr (.inr hphase)))
  · exact if_pos ⟨hst, hdone⟩
  · have hstart : startRetest n s = _ := if_pos ⟨hst, hrej⟩
    exact (if_pos ⟨hdue, hsup⟩).trans (congrArg Host.Outcome.next hstart)
  · refine ⟨(retestsOf v (List.finRange 4) s).respond 0, congrArg Host.Outcome.next (mgmtWrite_go h _ _), ?_, fun n => ?_⟩
    · conv => lhs; rw [retestsOf_frame]
      rfl
    · refine (retestsOf_source (List.nodup_finRange 4) v s n).trans ?_
      simp only [List.mem_finRange, true_and, bitAt, retested]
      by_cases hb : v.getLsbD n.val = true <;> simp [hb]

/-! The generator. -/

theorem coreMismatch_eq {e : Entropy} (h : e.stuck = false) :
    coreMismatch e = { e with mism := e.mism + 1, stuck := decide (3 ≤ e.mism + 1) } := by
  simp [coreMismatch, h]

theorem exec_drbgInstantiate {s : State} (hi : s.en.inst = false) (hs : s.en.stuck = false) (hp : 512 ≤ s.en.pool) {kv : Bytes × Bytes}
    (hkv : drbgInstantiate (s.en.seed.take 64) s.uid = kv) :
    exec .drbgInstantiate s = .next (s.updEn fun e => { e with inst := true, reseeded := true, calls := 0, seed := e.seed.drop 64,
                                                               key := kv.1, vec := kv.2 }) := by
  change execDrbgInstantiate s = _
  unfold execDrbgInstantiate
  dsimp only
  rw [if_pos (by simp [hi, hs, hp]), hkv]
  rfl

theorem coreCall_eq {e : Entropy} {kv : Bytes × Bytes} (hkv : (drbgGenerate 1280 e.key e.vec) = kv) :
    coreCall e = { e with mism := 0, calls := e.calls + 1, key := kv.1, vec := kv.2 } := by
  unfold coreCall
  rw [hkv]

/-- The bytes that a refill keeps (10 R420). -/
theorem refill_bytes {fill : Nat} (h : fill < 65536) (n : Nat) :
    fill + min (bufCap - fill) n = min 65536 (fill + n) := by unfold bufCap; omega

theorem exec_drbgGenerate {s : State} (hi : s.en.inst = true) (hs : s.en.stuck = false) (hc : s.en.callsTick = false)
    (hl : s.en.calls < 1048576) (hf : s.en.fill < 65536) {kv : Bytes × Bytes} (hkv : (drbgGenerate 1280 s.en.key s.en.vec) = kv) :
    exec (.drbgGenerate false) s = .next { s with en := { s.en with
        mism := 0, calls := s.en.calls + 1, callsTick := true, fill := min 65536 (s.en.fill + (1280 - s.en.direct)),
        credit := min (65536 - s.en.fill) (1280 - s.en.direct), key := kv.1, vec := kv.2 } } := by
  change execDrbgGenerate false s = _
  unfold execDrbgGenerate
  dsimp only
  rw [if_neg (by simp [hi, hs, hc, hl, hf, callLimit, bufCap]), if_neg Bool.false_ne_true, State.updEn, coreCall_eq hkv, ← refill_bytes hf]
  rfl

theorem exec_drbgMismatch {s : State} (hi : s.en.inst = true) (hs : s.en.stuck = false) (hc : s.en.callsTick = false)
    (hl : s.en.calls < 1048576) (hf : s.en.fill < 65536) :
    exec (.drbgGenerate true) s = .next (faultReport (sourceId 6 2 5 0) 0 (s.updEn coreMismatch)) := by
  change execDrbgGenerate true s = _
  unfold execDrbgGenerate
  dsimp only
  rw [if_neg (by simp [hi, hs, hc, hl, hf, callLimit, bufCap]), if_pos rfl]
  rfl

theorem exec_drbgReseed {s : State} (hi : s.en.inst = true) (hs : s.en.stuck = false) (hp : 384 ≤ s.en.pool)
    (hwhy : s.en.calls = 1048576 ∨ ((s.en.state = 2 ∨ s.en.state = 3) ∧ 2 ≤ healthyCount s.en)) {kv : Bytes × Bytes}
    (hkv : drbgReseed (s.en.seed.take 48) s.en.key s.en.vec = kv) :
    exec .drbgReseed s = .next (s.updEn fun e => { e with reseeded := e.state != 1, calls := 0, seed := e.seed.drop 48, key := kv.1, vec := kv.2,
                                                          reseeds := satInc 0xFFFFFFFF e.reseeds }) := by
  have hgo : (s.en.inst && !s.en.stuck && s.en.pool ≥ 384 &&
      (s.en.calls == callLimit || ((s.en.state == 2 || s.en.state == 3) && decide (healthyCount s.en ≥ 2)))) = true := by
    obtain h | ⟨h1, h2⟩ := hwhy
    · simp [hi, hs, hp, h, callLimit]
    · obtain h1 | h1 := h1 <;> simp [hi, hs, hp, h1, h2]
  change execDrbgReseed s = _
  unfold execDrbgReseed
  dsimp only
  rw [if_pos hgo, hkv]
  rfl

/-- Settles O40: each command writes its own part of the entropy service, and a mismatch is reported besides. -/
theorem seedPoolAndGenerator : Obligations.SeedPoolAndGenerator := by
  unfold Obligations.SeedPoolAndGenerator
  refine ⟨fun s runs apts => ⟨fun hh hr => ⟨_, if_neg (by omega), rfl, fun n => ?_⟩, fun hh => if_pos (.inl hh)⟩, fun s hi hs hp => ?_,
    fun s hi hs hp hwhy => ?_, fun s hi hs hc hl hf => ⟨?_, ?_⟩⟩
  · simp [State.updEn]
  · exact exec_drbgInstantiate hi hs hp rfl
  · have hexec := exec_drbgReseed hi hs hp hwhy rfl
    generalize drbgReseed (s.en.seed.take 48) s.en.key s.en.vec = kv at hexec
    exact ⟨_, hexec, rfl, fun hst => by simpa [State.updEn] using hst⟩
  · exact exec_drbgGenerate hi hs hc hl hf rfl
  · refine ⟨faultReport (sourceId 6 2 5 0) 0 (s.updEn coreMismatch), exec_drbgMismatch hi hs hc hl hf, ?_, ?_, faultReport_reported _ _ _⟩
    · rw [faultReport_en (fun hno => absurd hno (by decide)), State.updEn]
      exact coreMismatch_eq hs
    · have honly := faultReport_only (sourceId 6 2 5 0) 0 (s.updEn coreMismatch)
      rw [faultReport_en (fun hno => absurd hno (by decide))]
      exact honly

end Sys2Proof.Machine
end

section
/-! SUPPORT. The symbol code: a stored word is a multiple of the generator, and one or two errors leave syndromes of their own (01 R26,
R31, Table 01-2). -/
namespace Sys2Proof.Machine

/-! Multiplication by powers of α. -/

theorem xor_cancel_left {n : Nat} (a b : BitVec n) : a ^^^ (a ^^^ b) = b := by rw [← BitVec.xor_assoc, BitVec.xor_self, BitVec.zero_xor]

theorem xor_left_comm {n : Nat} (a b c : BitVec n) : a ^^^ (b ^^^ c) = b ^^^ (a ^^^ c) := by
  rw [← BitVec.xor_assoc, BitVec.xor_comm a b, BitVec.xor_assoc]

theorem eq_of_xor_eq_zero {n : Nat} {a b : BitVec n} (h : a ^^^ b = 0) : a = b := by
  have := xor_cancel_left a b
  rwa [h, show (0 : BitVec n) = 0#n from rfl, BitVec.xor_zero] at this

theorem xor_swap {n : Nat} {p q r v : BitVec n} (h : p ^^^ r = q ^^^ v) : r ^^^ v = p ^^^ q := by
  have hr : r = p ^^^ (q ^^^ v) := by rw [← h, xor_cancel_left]
  rw [hr, BitVec.xor_assoc, BitVec.xor_assoc, BitVec.xor_self, BitVec.xor_zero]

theorem symAlpha_xor (a b : Byte) : symAlpha (a ^^^ b) = symAlpha a ^^^ symAlpha b := by
  unfold symAlpha
  rw [BitVec.shiftLeft_xor_distrib, BitVec.getLsbD_xor]
  cases a.getLsbD 7 <;> cases b.getLsbD 7 <;>
    simp [BitVec.xor_assoc, BitVec.xor_comm, xor_left_comm]

/-- `x` times α to a power. -/
def symShift : Nat → Byte → Byte
  | 0, x => x
  | n + 1, x => symAlpha (symShift n x)

@[simp] theorem symShift_zero (x : Byte) : symShift 0 x = x := rfl

theorem symShift_succ (n : Nat) (x : Byte) : symShift (n + 1) x = symAlpha (symShift n x) := rfl

theorem symShift_add (m n : Nat) (x : Byte) : symShift (m + n) x = symShift m (symShift n x) := by
  induction m with
  | zero => rw [Nat.zero_add, symShift_zero]
  | succ m ih => rw [Nat.succ_add, symShift_succ, symShift_succ, ih]

theorem symShift_xor (n : Nat) (a b : Byte) : symShift n (a ^^^ b) = symShift n a ^^^ symShift n b := by
  induction n with
  | zero => rfl
  | succ n ih => simp only [symShift_succ, ih, symAlpha_xor]

theorem symTimes_zero (n : Nat) (a : Byte) : symTimes n a 0 = 0 := by
  induction n generalizing a with
  | zero => rfl
  | succ n ih => simpa [symTimes] using ih (symAlpha a)

/-- The primitive polynomial (01 Table 01-2). -/
theorem symShift_eight (x : Byte) : symShift 8 x = x ^^^ symShift 2 x ^^^ symShift 3 x ^^^ symShift 4 x := by
  revert x; decide

/-- No power of α below the 19th keeps a symbol that is not 0. -/
theorem symShift_ne_self : ∀ (m : Fin 18) (x : Byte), x ≠ 0 → symShift (m.val + 1) x ≠ x := by
  decide

theorem symShift_inj {n : Nat} {x y : Byte} (h : symShift n x = symShift n y) : x = y := by
  have hzero : ∀ z : Byte, symAlpha z = 0 → z = 0 := by decide
  induction n with
  | zero => exact h
  | succ n ih =>
    rw [symShift_succ, symShift_succ] at h
    refine ih (eq_of_xor_eq_zero (hzero _ ?_))
    rw [symAlpha_xor, h, BitVec.xor_self]; rfl

theorem symShift_zero_right (n : Nat) : symShift n 0 = 0 := by
  induction n with
  | zero => rfl
  | succ n ih => rw [symShift_succ, ih]; decide

/-- Of two places of a word, the powers differ on every symbol that is not 0. -/
theorem symShift_place {a b : Nat} (ha : a < 19) (hb : b < 19) {x : Byte} (hx : x ≠ 0) (h : symShift a x = symShift b x) : a = b := by
  have hlt : ∀ {c d : Nat}, d < 19 → symShift c x = symShift d x → ¬ c < d := fun {c d} hd heq hcd => by
    obtain ⟨m, rfl⟩ : ∃ m, d = c + (m + 1) := ⟨d - c - 1, by omega⟩
    rw [symShift_add] at heq
    exact symShift_ne_self ⟨m, by omega⟩ x hx (symShift_inj heq).symm
  have hab := hlt hb h
  have hba := hlt ha h.symm
  omega

theorem symMul_alphaPow (x : Byte) (k : Fin 19) : symMul x (alphaPow k.val) = symShift k.val x := by
  revert x k
  decide

/-! Syndromes. -/

/-- Syndrome at α^j, by Horner's rule from a value. -/
def symEval (j : Nat) (acc : Byte) (w : Bytes) : Byte := w.foldl (fun a x => symShift j a ^^^ x) acc

theorem syndrome_eq {j : Nat} (hj : j < 19) (w : Bytes) : syndrome w j = symEval j 0 w := by
  unfold syndrome symEval
  congr 1
  funext a x
  rw [symMul_alphaPow a ⟨j, hj⟩]

/-- An initial value counts as a symbol at the place before the word. -/
theorem symEval_from (j : Nat) (acc : Byte) (w : Bytes) : symEval j acc w = symShift (j * w.length) acc ^^^ symEval j 0 w := by
  induction w generalizing acc with
  | nil => simp [symEval]
  | cons x w ih =>
    simp only [symEval, List.foldl_cons] at ih ⊢
    rw [ih (symShift j acc ^^^ x), ih (symShift j 0 ^^^ x), symShift_zero_right, symShift_xor, List.length_cons, Nat.mul_succ, symShift_add,
      BitVec.xor_assoc]
    simp

/-- A symbol in error adds its value, shifted to its place (01 Table 01-2). -/
theorem symEval_modify (j : Nat) (w : Bytes) {i : Nat} (hi : i < w.length) (e acc : Byte) :
    symEval j acc (w.modify i (· ^^^ e)) = symEval j acc w ^^^ symShift (j * (w.length - 1 - i)) e := by
  induction w generalizing i acc with
  | nil => simp at hi
  | cons x w ih =>
    cases i with
    | zero =>
      simp only [List.modify_zero_cons, symEval, List.foldl_cons]
      rw [← symEval, ← symEval, symEval_from j (symShift j acc ^^^ (x ^^^ e)), symEval_from j (symShift j acc ^^^ x), ← BitVec.xor_assoc, symShift_xor _ _ e]
      simp [BitVec.xor_comm, xor_left_comm]
    | succ i =>
      simp only [List.modify_succ_cons, symEval, List.foldl_cons]
      rw [← symEval, ← symEval, ih (by simpa using hi)]
      simp [Nat.sub_sub, Nat.add_comm]

/-! The generator. -/

/-- The value of a remainder at α^j. -/
def remEval (j : Nat) (c : Byte × Byte × Byte) : Byte := symShift (2 * j) c.1 ^^^ symShift j c.2.1 ^^^ c.2.2

theorem symMul_seven (x : Byte) : symMul x 0x07 = x ^^^ symShift 1 x ^^^ symShift 2 x := by
  revert x; decide
theorem symMul_fourteen (x : Byte) : symMul x 0x0E = symShift 1 x ^^^ symShift 2 x ^^^ symShift 3 x := by
  revert x; decide
theorem symMul_eight (x : Byte) : symMul x 0x08 = symShift 3 x := by
  revert x; decide

/-- 1, α and α² are the zeros of the generator. -/
theorem generator_zeros {j : Nat} (hj : j < 3) (q : Byte) :
    symShift (2 * j) (symMul q 0x07) ^^^ symShift j (symMul q 0x0E) ^^^ symMul q 0x08 = symShift (3 * j) q := by
  rw [symMul_seven, symMul_fourteen, symMul_eight]
  simp only [symShift_xor, ← symShift_add]
  obtain rfl | rfl | rfl : j = 0 ∨ j = 1 ∨ j = 2 := by omega
  all_goals simp [BitVec.xor_assoc, BitVec.xor_comm, xor_left_comm, xor_cancel_left]

theorem remEval_checkStep {j : Nat} (hj : j < 3) (c : Byte × Byte × Byte) (d : Byte) :
    remEval j (checkStep c d) = symShift j (remEval j c) ^^^ symShift (3 * j) d := by
  have hg := generator_zeros hj (d ^^^ c.1)
  rw [symShift_xor (3 * j)] at hg
  simp only [remEval, checkStep, symShift_xor, ← symShift_add]
  have h1 : j + 2 * j = 3 * j := by omega
  have h2 : j + j = 2 * j := by omega
  rw [h1, h2]
  generalize symMul (d ^^^ c.1) 7 = q7 at hg ⊢
  generalize symMul (d ^^^ c.1) 14 = q14 at hg ⊢
  generalize symMul (d ^^^ c.1) 8 = q8 at hg ⊢
  calc _ = symShift (2 * j) c.2.1 ^^^ symShift j c.2.2 ^^^ (symShift (2 * j) q7 ^^^ symShift j q14 ^^^ q8) := by ac_rfl
    _ = _ := by rw [hg]; ac_rfl

/-- The check symbols are the remainder of the data times x³ (01 Table 01-2). -/
theorem remEval_checkSymbols {j : Nat} (hj : j < 3) (d : Bytes) (c : Byte × Byte × Byte) (acc : Byte)
    (h : remEval j c = symShift (3 * j) acc) : remEval j (d.foldl checkStep c) = symShift (3 * j) (symEval j acc d) := by
  induction d generalizing c acc with
  | nil => exact h
  | cons x d ih =>
    refine ih (checkStep c x) (symShift j acc ^^^ x) ?_
    rw [remEval_checkStep hj, h, symShift_xor, ← symShift_add, ← symShift_add, Nat.add_comm]

/-- The syndromes of a stored word are 0. -/
theorem syndrome_checked {j : Nat} (hj : j < 3) (d : Bytes) : syndrome (d ++ checkSymbols d) j = 0 := by
  have hrem := remEval_checkSymbols hj d (0, 0, 0) 0 (by simp only [remEval, symShift_zero_right]; rfl)
  rw [syndrome_eq (by omega), checkSymbols]
  generalize d.foldl checkStep (0, 0, 0) = c at hrem
  have happ : symEval j 0 (d ++ [c.1, c.2.1, c.2.2]) = symShift (3 * j) (symEval j 0 d) ^^^ remEval j c := by
    simp only [symEval, List.foldl_append, List.foldl_cons, List.foldl_nil, symShift_xor, ← symShift_add, remEval]
    rw [show j + (j + j) = 3 * j by omega, show j + j = 2 * j by omega]
    ac_rfl
  rw [happ, hrem, BitVec.xor_self]; rfl

/-! Tests of words. -/

theorem testWord_checked (d : Bytes) : testWord (d ++ checkSymbols d) = .clean :=
  if_pos ⟨syndrome_checked (by decide) d, syndrome_checked (by decide) d, syndrome_checked (by decide) d⟩

theorem encodeWord_eq {d : Bytes} (h : d.length = 16) : encodeWord d = d ++ checkSymbols d := by
  have hfit : fitTo 16 d = d := by simp [fitTo, h, List.take_of_length_le]
  rw [encodeWord, hfit]

theorem encodeWord_length {d : Bytes} (h : d.length = 16) : (encodeWord d).length = 19 := by
  rw [encodeWord_eq h]; simp [h, checkSymbols]

/-- One error leaves its value, shifted to its place, in each syndrome. -/
theorem syndrome_one {w : Bytes} (hw : w.length = 19) {i : Nat} (hi : i < 19) (e : Byte) {j : Nat} (hj : j < 3) :
    syndrome (w.modify i (· ^^^ e)) j = syndrome w j ^^^ symShift (j * (18 - i)) e := by
  rw [syndrome_eq (by omega), syndrome_eq (by omega), symEval_modify j w (by omega), hw]

/-- The test of one place. -/
theorem explains_iff (s0 s1 s2 : Byte) (k : Nat) :
    (symMul s0 (alphaPow (18 - k)) == s1 && symMul s1 (alphaPow (18 - k)) == s2) = true ↔
      symShift (18 - k) s0 = s1 ∧ symShift (18 - k) s1 = s2 := by
  have h := fun x => symMul_alphaPow x ⟨18 - k, by omega⟩
  simp only at h
  simp [h]

/-- The place that explains three syndromes of one error is its own. -/
theorem errorPlace_one {i : Nat} (hi : i < 19) {e : Byte} (he : e ≠ 0) :
    errorPlace e (symShift (18 - i) e) (symShift (2 * (18 - i)) e) = some i := by
  rw [errorPlace, if_neg he, List.find?_range_eq_some]
  refine ⟨?_, List.mem_range.mpr hi, fun k hk => ?_⟩
  · rw [explains_iff, ← symShift_add, Nat.two_mul]
    exact ⟨rfl, rfl⟩
  · have hno : ¬ (symShift (18 - k) e = symShift (18 - i) e ∧ symShift (18 - k) (symShift (18 - i) e) = symShift (2 * (18 - i)) e) :=
      fun h => by have := symShift_place (by omega) (by omega) he h.1; omega
    rw [← explains_iff] at hno
    rw [Bool.not_eq_true', Bool.eq_false_iff]
    exact hno

theorem eq_zero_of_places {a b : Nat} (ha : a < 19) (hb : b < 19) (hab : a ≠ b) {x : Byte} (h : symShift a x ^^^ symShift b x = 0) : x = 0 := by
  refine Classical.byContradiction fun hx => ?_
  exact hab (symShift_place ha hb hx (eq_of_xor_eq_zero h))

/-- No one place explains the syndromes of two errors. -/
theorem two_not_explained {a b k : Nat} (ha : a < 19) (hb : b < 19) (hk : k < 19) (hab : a ≠ b) {e f : Byte} (hf : f ≠ 0)
    (h1 : symShift k (e ^^^ f) = symShift a e ^^^ symShift b f)
    (h2 : symShift k (symShift a e ^^^ symShift b f) = symShift (2 * a) e ^^^ symShift (2 * b) f) : k = b := by
  refine Classical.byContradiction fun hkb => ?_
  have h3 := congrArg (symShift a) h1
  simp only [symShift_xor, ← symShift_add] at h2 h3
  rw [Nat.add_comm k a, Nat.two_mul a, Nat.two_mul b] at h2
  have hcross : symShift a (symShift k f ^^^ symShift b f) ^^^ symShift b (symShift k f ^^^ symShift b f) = 0 := by
    simp only [symShift_xor, ← symShift_add]
    rw [Nat.add_comm k b] at h2
    calc _ = (symShift (a + k) f ^^^ symShift (a + b) f) ^^^ (symShift (b + k) f ^^^ symShift (b + b) f) := by ac_rfl
      _ = 0 := by rw [xor_swap h3, xor_swap h2, BitVec.xor_self]; rfl
  exact hf (eq_zero_of_places hk hb hkb (eq_zero_of_places ha hb hab hcross))

/-- Two errors are not one: their syndromes are not all 0, and no place explains them. -/
theorem testWord_two {w : Bytes} (h0 : syndrome w 0 = 0) (h1 : syndrome w 1 = 0) (h2 : syndrome w 2 = 0) (hw : w.length = 19) {i j : Nat}
    (hij : i < j) (hj : j < 19) {e f : Byte} (he : e ≠ 0) (hf : f ≠ 0) :
    testWord ((w.modify i (· ^^^ e)).modify j (· ^^^ f)) = .uncorrectable := by
  have hsyn : ∀ n < 3, syndrome w n = 0 → syndrome ((w.modify i (· ^^^ e)).modify j (· ^^^ f)) n =
      symShift (n * (18 - i)) e ^^^ symShift (n * (18 - j)) f := fun n hn hz => by
    rw [syndrome_one (by simpa using hw) hj f hn, syndrome_one hw (by omega) e hn, hz]
    simp
  have hs0 := hsyn 0 (by decide) h0
  have hs1 := hsyn 1 (by decide) h1
  have hs2 := hsyn 2 (by decide) h2
  rw [Nat.one_mul, Nat.one_mul] at hs1
  simp only [Nat.zero_mul, symShift_zero] at hs0
  have hab : 18 - i ≠ 18 - j := by omega
  have hdirty : ¬ (e ^^^ f = 0 ∧ symShift (18 - i) e ^^^ symShift (18 - j) f = 0 ∧
      symShift (2 * (18 - i)) e ^^^ symShift (2 * (18 - j)) f = 0) := fun ⟨hz, h1z, _⟩ => by
    rw [eq_of_xor_eq_zero hz] at h1z
    exact hf (eq_zero_of_places (by omega) (by omega) hab h1z)
  have hnone : errorPlace (e ^^^ f) (symShift (18 - i) e ^^^ symShift (18 - j) f)
      (symShift (2 * (18 - i)) e ^^^ symShift (2 * (18 - j)) f) = none := by
    unfold errorPlace
    split
    · rfl
    · rw [List.find?_eq_none]
      intro k hk hex
      obtain ⟨h1k, h2k⟩ := (explains_iff _ _ _ _).mp hex
      have hkj : 18 - k = 18 - j := two_not_explained (by omega) (by omega) (by omega) hab hf h1k h2k
      have hki : 18 - k = 18 - i := two_not_explained (e := f) (by omega) (by omega) (by omega) hab.symm he
        (by rw [BitVec.xor_comm f e, h1k, BitVec.xor_comm]) (by rw [BitVec.xor_comm (symShift (18 - j) f), h2k, BitVec.xor_comm])
      omega
  unfold testWord
  dsimp only
  rw [hs0, hs1, hs2, if_neg hdirty, hnone]

theorem testWord_one {w : Bytes} (h0 : syndrome w 0 = 0) (h1 : syndrome w 1 = 0) (h2 : syndrome w 2 = 0) (hw : w.length = 19) {i : Nat}
    (hi : i < 19) {e : Byte} (he : e ≠ 0) : testWord (w.modify i (· ^^^ e)) = .corrected w := by
  have hs0 := syndrome_one hw hi e (j := 0) (by decide)
  have hs1 := syndrome_one hw hi e (j := 1) (by decide)
  have hs2 := syndrome_one hw hi e (j := 2) (by decide)
  simp only [h0, h1, h2, Nat.zero_mul, Nat.one_mul, symShift_zero, show ∀ x : Byte, 0 ^^^ x = x from fun x => BitVec.zero_xor] at hs0 hs1 hs2
  unfold testWord
  dsimp only
  rw [hs0, hs1, hs2, if_neg (fun h => he h.1), errorPlace_one hi he]
  dsimp only
  rw [List.modify_modify_eq]
  have hid : ((fun x : Byte => x ^^^ e) ∘ fun x => x ^^^ e) = id := by
    funext x
    change x ^^^ e ^^^ e = x
    rw [BitVec.xor_assoc, BitVec.xor_self, BitVec.xor_zero]
  rw [hid, List.modify_id]

/-- Settles O33: a stored word has no syndrome, one error explains its syndromes, and two are explained by no place. -/
theorem symbolCodeCorrects : Obligations.SymbolCodeCorrects := by
  unfold Obligations.SymbolCodeCorrects
  have hsyn : ∀ {d : Bytes}, d.length = 16 → ∀ n < 3, syndrome (encodeWord d) n = 0 := fun {d} h n hn => by
    rw [encodeWord_eq h]; exact syndrome_checked hn d
  refine ⟨fun d h => ?_, fun d i e h hi he => ?_, fun d i j e f h hij hj he hf => ?_⟩
  · rw [encodeWord_eq h]
    exact testWord_checked d
  · exact testWord_one (hsyn h 0 (by decide)) (hsyn h 1 (by decide)) (hsyn h 2 (by decide)) (encodeWord_length h) hi he
  · exact testWord_two (hsyn h 0 (by decide)) (hsyn h 1 (by decide)) (hsyn h 2 (by decide)) (encodeWord_length h) hij hj he hf

end Sys2Proof.Machine
end

section
/-! SUPPORT. A string whose words are as they were stored reads as it was written (01 R27, R31). -/
namespace Sys2Proof.Machine

theorem checkSymbols_length (d : Bytes) : (checkSymbols d).length = 3 := rfl

/-- Every third byte of the check symbols begins those of a word. -/
theorem slice_checkSymbols (f : Bytes → Bytes) (l : List Bytes) (i : Nat) (hi : i < l.length) :
    slice (l.flatMap fun w => checkSymbols (f w)) (3 * i) 3 = checkSymbols (f l[i]) := by
  induction l generalizing i with
  | nil => simp at hi
  | cons w l ih =>
    cases i with
    | zero =>
      rw [slice, Nat.mul_zero, List.drop_zero, List.flatMap_cons, List.getElem_cons_zero,
        List.take_append_of_le_length (Nat.le_of_eq (checkSymbols_length _).symm),
        List.take_of_length_le (Nat.le_of_eq (checkSymbols_length _))]
    | succ i =>
      have h := ih i (by simpa using hi)
      have hdrop : (checkSymbols (f w)).drop 3 = [] := rfl
      rw [slice] at h
      rw [slice, List.flatMap_cons, Nat.mul_succ, Nat.add_comm, ← List.drop_drop, List.drop_append,
        hdrop, List.nil_append, List.getElem_cons_succ]
      simpa [checkSymbols_length] using h

theorem storedWords_symbolsOf (b : Bytes) :
    storedWords b (symbolsOf b) = (chunks 16 b).map fun w => fitTo 16 w ++ checkSymbols (fitTo 16 w) := by
  refine List.ext_getElem (by simp [storedWords]) fun i h1 h2 => ?_
  have hi : i < (chunks 16 b).length := by simpa [storedWords] using h1
  simp only [storedWords, symbolsOf, List.getElem_mapIdx, List.getElem_map]
  rw [slice_checkSymbols (fitTo 16) _ i hi]

theorem fitTo_length (n : Nat) (b : Bytes) : (fitTo n b).length = n := by simp [fitTo]; omega

theorem readWord_stored (w : Bytes) : readWord (fitTo 16 w ++ checkSymbols (fitTo 16 w)) = fitTo 16 w := by
  rw [readWord, testWord_checked]
  simp [fitTo_length]

theorem chunksAux_nil (n fuel : Nat) : chunksAux n fuel [] = [] := by cases fuel <;> rfl

theorem words_of_chunks (fuel : Nat) (b : Bytes) (h : b.length ≤ fuel) : ((chunksAux 16 fuel b).flatMap (fitTo 16)).take b.length = b := by
  induction fuel generalizing b with
  | zero => rw [List.eq_nil_of_length_eq_zero (Nat.le_zero.mp h)]; rfl
  | succ fuel ih =>
    by_cases hb : b = []
    · subst hb; rfl
    · have hpos := List.length_pos_iff.mpr hb
      rw [chunksAux, if_neg (by simpa using hb), List.flatMap_cons]
      by_cases hlen : 16 ≤ b.length
      · have hfit : fitTo 16 (b.take 16) = b.take 16 := by simp [fitTo, hlen, List.take_of_length_le]
        have hrest := ih (b.drop 16) (by simp; omega)
        rw [hfit, List.take_append]
        simp only [List.length_drop] at hrest
        rw [List.length_take, Nat.min_eq_left hlen, hrest,
          List.take_of_length_le (by rw [List.length_take]; exact Nat.min_le_right ..), List.take_append_drop]
      · have hnil : b.drop 16 = [] := List.drop_of_length_le (by omega)
        rw [hnil, chunksAux_nil]
        have hfit : fitTo 16 (b.take 16) = b ++ List.replicate (16 - b.length) 0 := by
          rw [List.take_of_length_le (by omega), fitTo, List.take_of_length_le (by omega)]
        rw [hfit, List.flatMap_nil, List.append_nil, List.take_left]

/-- What is stored with its check symbols reads as it was written (01 R31). -/
theorem readWords_symbolsOf (b : Bytes) : readWords b (symbolsOf b) = b := by
  have hread : (storedWords b (symbolsOf b)).flatMap readWord = (chunks 16 b).flatMap (fitTo 16) := by
    rw [storedWords_symbolsOf, List.flatMap_map]
    exact congrArg (fun f => (chunks 16 b).flatMap f) (funext readWord_stored)
  rw [readWords, hread]
  exact words_of_chunks b.length b (Nat.le_refl _)

end Sys2Proof.Machine
end

section
/-! SUPPORT. The completion writer (03 R153 to R157, R164; 08 R351). -/
namespace Sys2Proof.Machine

variable {e : Ended} {n : Tenant} {k : RingNo}

@[simp] theorem ring_updRing_same (s : State) (n : Tenant) (k : RingNo) (f : Ring → Ring) :
    (s.updRing n k f).ring n k = f (s.ring n k) := by rw [State.ring_updRing, if_pos rfl]

theorem auditPend_updRing (s : State) (n : Tenant) (k : RingNo) (f : Ring → Ring) :
    ((s.updRing n k f).page n).auditPend = (s.page n).auditPend := by rw [State.page_updRing_same]

theorem auditPend_assertTn (n : Tenant) (b : Nat) (s : State) : ((assertTn n b s).page n).auditPend = (s.page n).auditPend := by
  rw [assertTn, State.page_updPage_same]

theorem ring_assertTn (n : Tenant) (b : Nat) (s : State) (k : RingNo) : (assertTn n b s).ring n k = s.ring n k := by
  rw [State.ring, assertTn, State.page_updPage_same]; rfl

/-- What an entry's signal leaves (03 R157). -/
theorem signalEntry_leaves (n : Tenant) (k : RingNo) (e : Ended) (s : State) :
    signalEntry n k e s = { s with tenants := (signalEntry n k e s).tenants } ∧
      ((signalEntry n k e s).page n).auditPend = (s.page n).auditPend ∧
      (signalEntry n k e s).ring n k =
        { s.ring n k with pend := ((signalEntry n k e s).ring n k).pend, oldest := ((signalEntry n k e s).ring n k).oldest } := by
  unfold signalEntry
  dsimp only
  refine ⟨?_, ?_, ?_⟩
  · (repeat' split) <;> rfl
  · (repeat' split) <;> simp only [auditPend_assertTn, auditPend_updRing]
  · (repeat' split) <;> simp only [ring_assertTn, ring_updRing_same]

/-- The audit record of an entry (03 R164). -/
def entryAudit (e : Ended) (s : State) : AuditRec :=
  { tick := s.now, ring := e.ring, seq := auditNext (s.page (tenantFin e.tenant)),
    digest := auditDigest e.descs e.status (entryFlags s e) e.admitTick (deltaOf s e) }

/-- The page with an entry's audit record and its abort settled (03 R161, R164). -/
def auditedPage (e : Ended) (a : AuditRec) (lost : Bool) (p : TenantPage) : TenantPage :=
  settleAbort { p with auditPend := p.auditPend ++ [a],
                       abortCount := if p.abortReqs.contains e.rid ∧ e.status = 0x20 ∧ p.abortResult = 1 ∧ !lost then p.abortCount + 1
                         else p.abortCount,
                       abortReqs := p.abortReqs.filter (· ≠ e.rid) }

/-- What the writing of an entry changes before the entry itself: audit record, platform counts and OUTSTANDING. -/
def entryClosed (e : Ended) (lost : Bool) (s : State) : State :=
  let t := tenantFin e.tenant
  let u := s.updPage t (auditedPage e (entryAudit e s) lost)
  let u := if e.admitted then
      let missed := e.through && e.rate == .inRate && !boundHeld u e
      let upd := fun (p : PlatStat) => { p with depth := p.depth - 1, miss := if missed then satInc 0xFFFF p.miss else p.miss }
      u.updTt fun x => { x with plats := if h : e.plat < 1024 then x.plats.set e.plat (upd x.plats[e.plat]) else x.plats }
    else u
  u.updRing t (ringFin e.ring) fun r => { r with outstanding := r.outstanding - 1 }

theorem auditedPage_rings (e : Ended) (a : AuditRec) (lost : Bool) (p : TenantPage) :
    (auditedPage e a lost p).rings = p.rings ∧ (auditedPage e a lost p).auditPend = p.auditPend ++ [a] := by
  unfold auditedPage
  exact ⟨settleAbort_rings _, by rw [settleAbort_frame]⟩

theorem entryClosed_frame (e : Ended) (lost : Bool) (s : State) :
    entryClosed e lost s = { s with tenants := (entryClosed e lost s).tenants, tt := (entryClosed e lost s).tt } := by
  unfold entryClosed
  dsimp only
  split <;> rfl

theorem entryClosed_page (hn : n = tenantFin e.tenant) (lost : Bool) (s : State) :
    ((entryClosed e lost s).page n).auditPend = (s.page n).auditPend ++ [entryAudit e s] := by
  subst hn
  unfold entryClosed
  dsimp only
  rw [auditPend_updRing]
  have hpage : ((s.updPage (tenantFin e.tenant) (auditedPage e (entryAudit e s) lost)).page (tenantFin e.tenant)).auditPend =
      (s.page (tenantFin e.tenant)).auditPend ++ [entryAudit e s] := by
    rw [State.page_updPage_same]; exact (auditedPage_rings _ _ _ _).2
  split
  · exact hpage
  · exact hpage

theorem entryClosed_ring (hn : n = tenantFin e.tenant) (hk : k = ringFin e.ring) (lost : Bool) (s : State) :
    (entryClosed e lost s).ring n k = { s.ring n k with outstanding := (s.ring n k).outstanding - 1 } := by
  subst hn hk
  unfold entryClosed
  dsimp only
  rw [ring_updRing_same]
  have hring : (s.updPage (tenantFin e.tenant) (auditedPage e (entryAudit e s) lost)).ring (tenantFin e.tenant) (ringFin e.ring) =
      s.ring (tenantFin e.tenant) (ringFin e.ring) := by
    rw [State.ring, State.page_updPage_same, (auditedPage_rings _ _ _ _).1]; rfl
  split
  · exact congrArg (fun r : Ring => { r with outstanding := r.outstanding - 1 }) hring
  · exact congrArg (fun r : Ring => { r with outstanding := r.outstanding - 1 }) hring

/-- The entry itself: its burst, and the tail that moves (03 R154). -/
def entryIssued (e : Ended) (r : Ring) (addr : Nat) (s : State) : State :=
  let data := entryBytes s e r.phase
  let s := issueBurst r.port.toNat true addr 32 (ringIdent e.tenant e.ring) (.completion e.tenant e.ring r.cqTail) data (symbolsOf data) s
  let s := s.updRing (tenantFin e.tenant) (ringFin e.ring) fun r =>
    let n := (r.cqTail.toNat + 1) % r.entries
    { r with cqTail := BitVec.ofNat 16 n, phase := if n = 0 then !r.phase else r.phase }
  signalEntry (tenantFin e.tenant) (ringFin e.ring) e s

theorem writeEntry_eq (e : Ended) (s : State) {r : Ring} (hr : r = s.ring (tenantFin e.tenant) (ringFin e.ring)) {addr : Nat}
    (ha : addr = r.cqBase.toNat + 32 * r.cqTail.toNat) :
    writeEntry e s =
      if r.lost then entryClosed e (r.lost || !inWindows s (tenantFin e.tenant) addr 32 false true) s
      else if r.lost || !inWindows s (tenantFin e.tenant) addr 32 false true then
        stopRing e.tenant e.ring 5 true (entryClosed e (r.lost || !inWindows s (tenantFin e.tenant) addr 32 false true) s)
      else entryIssued e r addr (entryClosed e (r.lost || !inWindows s (tenantFin e.tenant) addr 32 false true) s) := by
  subst hr ha
  rfl

theorem entryBytes_closed (e d : Ended) (lost : Bool) (s : State) (p : Bool) : entryBytes (entryClosed e lost s) d p = entryBytes s d p := by
  rw [entryClosed_frame]; rfl

theorem stopRing_frame (t k : Nat) (cause : BitVec 4) (lost : Bool) (s : State) :
    stopRing t k cause lost s = { s with tenants := (stopRing t k cause lost s).tenants } := rfl

theorem stopRing_ring (t k : Nat) (cause : BitVec 4) (lost : Bool) (s : State) :
    (stopRing t k cause lost s).ring (tenantFin t) (ringFin k) =
      { s.ring (tenantFin t) (ringFin k) with cfgErr := cause, stopped := true, lost := (s.ring (tenantFin t) (ringFin k)).lost || lost } := by
  rw [stopRing, ring_assertTn, ring_updRing_same]

theorem stopRing_audit (t k : Nat) (cause : BitVec 4) (lost : Bool) (s : State) :
    ((stopRing t k cause lost s).page (tenantFin t)).auditPend = (s.page (tenantFin t)).auditPend := by
  rw [stopRing, auditPend_assertTn, auditPend_updRing]

/-- The burst that carries an entry. -/
def entryBurst (e : Ended) (r : Ring) (addr : Nat) (s : State) : Burst :=
  { tag := freeTag s r.port.toNat true, port := r.port.toNat, write := true, addr := BitVec.ofNat 64 addr, len := 32,
    ident := ringIdent e.tenant e.ring, kind := .completion e.tenant e.ring r.cqTail, data := entryBytes s e r.phase, tick := s.now,
    wall := s.wall, dead := false, dropped := false }

theorem issueEntry_eq (e : Ended) (r : Ring) (addr : Nat) (s : State) :
    issueBurst r.port.toNat true addr 32 (ringIdent e.tenant e.ring) (.completion e.tenant e.ring r.cqTail) (entryBytes s e r.phase)
      (symbolsOf (entryBytes s e r.phase)) s = s.updFab fun f => { f with bursts := f.bursts ++ [entryBurst e r addr s] } := by
  unfold issueBurst
  dsimp only
  rw [readWords_symbolsOf]
  rfl

/-- The tail moves to the next entry, and the phase turns as it wraps (03 R154). -/
def Ring.advanced (r : Ring) : Ring :=
  let n := (r.cqTail.toNat + 1) % r.entries
  { r with cqTail := BitVec.ofNat 16 n, phase := if n = 0 then !r.phase else r.phase }

theorem entryIssued_eq (e : Ended) (r : Ring) (addr : Nat) (s : State) :
    entryIssued e r addr s = signalEntry (tenantFin e.tenant) (ringFin e.ring) e
      ((s.updFab fun f => { f with bursts := f.bursts ++ [entryBurst e r addr s] }).updRing (tenantFin e.tenant) (ringFin e.ring) Ring.advanced) := by
  unfold entryIssued
  dsimp only
  rw [issueEntry_eq]
  rfl

theorem entryIssued_leaves (hn : n = tenantFin e.tenant) (hk : k = ringFin e.ring) (r : Ring) (addr : Nat) (s : State) :
    entryIssued e r addr s = { s with tenants := (entryIssued e r addr s).tenants,
                                      fab := { s.fab with bursts := s.fab.bursts ++ [entryBurst e r addr s] } } ∧
      ((entryIssued e r addr s).page n).auditPend = (s.page n).auditPend ∧
      ((entryIssued e r addr s).ring n k).outstanding = (s.ring n k).outstanding ∧
      ((entryIssued e r addr s).ring n k).cqTail = (s.ring n k).advanced.cqTail ∧
      ((entryIssued e r addr s).ring n k).phase = (s.ring n k).advanced.phase := by
  subst hn hk
  rw [entryIssued_eq]
  obtain ⟨hframe, haudit, hring⟩ := signalEntry_leaves (tenantFin e.tenant) (ringFin e.ring) e
    ((s.updFab fun f => { f with bursts := f.bursts ++ [entryBurst e r addr s] }).updRing (tenantFin e.tenant) (ringFin e.ring) Ring.advanced)
  rw [ring_updRing_same] at hring
  refine ⟨?_, ?_, ?_, ?_, ?_⟩
  · exact hframe
  · rw [haudit, auditPend_updRing]; rfl
  all_goals rw [hring]; rfl

/-- Settles O28: the entry's record is closed, and the entry is then lost, refused or issued. -/
theorem completionIsWritten : Obligations.CompletionIsWritten := by
  unfold Obligations.CompletionIsWritten
  intro s e n k r addr hopen hfind hn hk hr haddr
  have hexec : exec .completionWrite s = .next (writeNextEntry s) := if_neg (by simp [hopen])
  have hnext : writeNextEntry s = writeEntry e { s with ended := s.ended.filter fun x => x.rid ≠ e.rid } := by
    rw [writeNextEntry, hfind]
  refine ⟨writeNextEntry s, hexec, writeNextEntry_fixed s, ?_⟩
  rw [hnext]
  generalize hs' : { s with ended := s.ended.filter fun x => x.rid ≠ e.rid } = s'
  have hpage : ∀ m, s'.page m = s.page m := fun m => by rw [← hs']; rfl
  have hring : s'.ring n k = r := by rw [hr, ← hs']; rfl
  have haud : entryAudit e s' = entryAudit e s := by rw [← hs']; rfl
  have hwin : inWindows s' n addr 32 false true = inWindows s n addr 32 false true := by rw [← hs']; rfl
  have hleft : s'.reqs = s.reqs ∧ s'.nvm = s.nvm ∧ s'.fab = s.fab ∧ s'.ended = s.ended.filter (fun x => x.rid ≠ e.rid) := by
    rw [← hs']; exact ⟨rfl, rfl, rfl, rfl⟩
  have hbytes : entryBytes s' e r.phase = entryBytes s e r.phase := by rw [← hs']; rfl
  obtain ⟨hreqs, hnvm, hfab, hended⟩ := hleft
  rw [writeEntry_eq e s' (r := r) (by rw [← hn, ← hk, hring]) haddr, ← hn, hwin]
  have hcf := fun lost => entryClosed_frame e lost s'
  have hca := fun lost => entryClosed_page hn lost s'
  have hcr := fun lost => entryClosed_ring hn hk lost s'
  simp only [hpage, haud] at hca
  simp only [hring] at hcr
  have haudit : (entryAudit e s).tick = s.now ∧ (entryAudit e s).ring = e.ring ∧
      (entryAudit e s).digest = auditDigest e.descs e.status (entryFlags s e) e.admitTick (s.now + 1 - e.admitTick) := ⟨rfl, rfl, rfl⟩
  cases hlost : r.lost with
  | true =>
    rw [if_pos rfl, Bool.true_or]
    refine ⟨by rw [hcf]; exact hreqs, by rw [hcf]; exact hnvm, by rw [hcf]; exact hended, ⟨_, hca true, haudit⟩, by rw [hcr],
      fun _ => by rw [hcf]; exact hfab, fun h => absurd h (by decide), fun h => absurd h (by decide)⟩
  | false =>
    rw [if_neg Bool.false_ne_true, Bool.false_or]
    cases hin : inWindows s n addr 32 false true with
    | false =>
      rw [Bool.not_false, if_pos rfl]
      have hsr := stopRing_ring e.tenant e.ring 5 true (entryClosed e true s')
      have hsa := stopRing_audit e.tenant e.ring 5 true (entryClosed e true s')
      rw [← hn, ← hk, hcr] at hsr
      rw [← hn, hca] at hsa
      refine ⟨by rw [stopRing_frame, hcf]; exact hreqs, by rw [stopRing_frame, hcf]; exact hnvm, by rw [stopRing_frame, hcf]; exact hended,
        ⟨_, hsa, haudit⟩, by rw [hsr], fun h => absurd h (by decide), fun _ _ => ⟨by rw [stopRing_frame, hcf]; exact hfab, ?_, ?_, ?_, ?_⟩,
        fun _ h => absurd h (by decide)⟩ <;> rw [hsr]
      exact Bool.or_true _
    | true =>
      rw [Bool.not_true, if_neg Bool.false_ne_true]
      obtain ⟨hf, ha, ho, ht, hp⟩ := entryIssued_leaves (e := e) hn hk r addr (entryClosed e false s')
      rw [hca] at ha
      rw [hcr] at ho ht hp
      generalize entryIssued e r addr (entryClosed e false s') = t at hf ha ho ht hp
      have hb : (entryBurst e r addr (entryClosed e false s')).data = entryBytes s e r.phase := (entryBytes_closed e e false s' r.phase).trans hbytes
      have hshape : ∀ u, (entryBurst e r addr u).write = true ∧ (entryBurst e r addr u).len = 32 ∧
          (entryBurst e r addr u).addr = BitVec.ofNat 64 addr := fun _ => ⟨rfl, rfl, rfl⟩
      obtain ⟨hw, hlen, hadr⟩ := hshape (entryClosed e false s')
      generalize entryBurst e r addr (entryClosed e false s') = b at hf hb hw hlen hadr
      refine ⟨by rw [hf, hcf]; exact hreqs, by rw [hf, hcf]; exact hnvm, by rw [hf, hcf]; exact hended, ⟨_, ha, haudit⟩, ho,
        fun h => absurd h (by decide), fun _ h => absurd h (by decide), fun _ _ => ⟨b, ?_, hw, hlen, hadr, hb, ht, hp⟩⟩
      rw [hf, hcf, ← hfab]

end Sys2Proof.Machine
end

section
/-! SUPPORT. The end of a request at its stations, aborts and waits (02 R105; 03 R142, R160, R161; 04 R175). -/
namespace Sys2Proof.Machine

theorem dropDerived_station (sel : DerivedReg → Bool) (s : State) (n : Fin 7) :
    (dropDerived sel s).stations[n] = { s.stations[n] with derived := s.stations[n].derived.filter fun d => !sel d } := by
  unfold dropDerived
  exact Vector.getElem_map ..

/-- A request that ends leaves the derived-key registers it held, and nothing else of a station (04 R175). -/
theorem closeRequest_stations (r : Request) (status : Nat) (aux : Bytes) (due : Nat) (s : State) :
    (closeRequest r status aux due s).stations = (dropDerived (fun d => d.rid = r.rid) s).stations := by
  unfold closeRequest
  dsimp only
  obtain ⟨k, hk⟩ := unpin_ks r.rid (if status = 0 then
    { freeRegions r s with reqs := (freeRegions r s).reqs.filter fun x => x.rid ≠ r.rid,
                           ended := (freeRegions r s).ended ++ [endedOf r status aux due] }
    else r.descs.foldl (fun s d => if receives d then unpend r.tenant (Desc.keyB d) s else s)
      { freeRegions r s with reqs := (freeRegions r s).reqs.filter fun x => x.rid ≠ r.rid,
                             ended := (freeRegions r s).ended ++ [endedOf r status aux due] })
  rw [hk]
  have hfree : (freeRegions r s).stations = (dropDerived (fun d => d.rid = r.rid) s).stations := by
    unfold freeRegions
    dsimp only
    obtain ⟨c, n, q, h, -⟩ := foldl_freeHold_only r (List.range r.steps.length)
      (dropDerived (fun d => d.rid = r.rid) ((s.updVs fun v => { v with memUsed := v.memUsed - r.vsBlocks }).updSs
        fun v => { v with memUsed := v.memUsed - r.ssBlocks }))
    rw [h]
    rfl
  dsimp only
  split
  · exact hfree
  · obtain ⟨k', hk'⟩ := foldl_ks (fun s (d : Desc) => if receives d then unpend r.tenant (Desc.keyB d) s else s) (fun s d => by
      split
      · exact ⟨_, rfl⟩
      · exact ⟨s.ks, rfl⟩) r.descs { freeRegions r s with
        reqs := (freeRegions r s).reqs.filter fun x => x.rid ≠ r.rid, ended := (freeRegions r s).ended ++ [endedOf r status aux due] }
    rw [hk']
    exact hfree

/-- A request that fails with a status that cuts its output. -/
theorem failRequest_stations {s : State} {rid : Nat} {r : Request} (h : s.req? rid = some r) (status : Nat) (source : BitVec 16)
    (due : Nat) (n : Fin 7) : (failRequest rid status source due s).stations[n] =
      { s.stations[n] with derived := s.stations[n].derived.filter fun d => d.rid ≠ rid } := by
  have hfilter : ∀ l : List DerivedReg, (l.filter fun d => !decide (d.rid = rid)) = l.filter fun d => d.rid ≠ rid := fun l => by simp
  have hr := req_rid h
  by_cases hc : (leftOver r).isEmpty = true ∨ cutsOutput status = true
  · have heq : failRequest rid status source due s = closeRequest r status (failAux r source) due s := by
      unfold failRequest; rw [h]; exact if_pos hc
    have hst : (failRequest rid status source due s).stations = (dropDerived (fun d => d.rid = rid) s).stations := by
      rw [heq, closeRequest_stations, hr]
    rw [← hfilter, ← dropDerived_station]
    exact congrArg (fun v : Vector StationState 7 => v[n]) hst
  · rw [failRequest_drains h status source due hc, dropDerived_station, hfilter]
    rfl

/-- The state in which a stopped request is ended: a commit that it waits for is dropped (03 R160). -/
def stopping (r : Request) (rid : Nat) (s : State) : State := if r.stage = .commit then dropCommit rid s else s

theorem stopping_frame (r : Request) (rid : Nat) (s : State) : stopping r rid s = { s with ks := (stopping r rid s).ks } := by
  unfold stopping
  split <;> rfl

theorem exec_abortStop {s : State} {rid : Nat} {r : Request} {k b : Nat} (h : s.req? rid = some r) (hstop : r.stopAt = some (k, b))
    (hwhen : k < s.now ∨ (k = s.now ∧ b ≤ s.tt.slot)) :
    exec (.abortStop rid) s = if pastAbort (abortedByReset s r) r then .next (s.updReq rid fun r => { r with stopAt := none })
      else .next (failRequest rid 0x20 0 (k + 1) (stopping r rid s)) := by
  have hnot : ¬ (s.now < k ∨ (s.now = k ∧ s.tt.slot < b)) := by omega
  change execAbortStop rid s = _
  unfold execAbortStop
  rw [h]
  dsimp only
  rw [hstop]
  dsimp only
  rw [if_neg hnot]
  rfl

theorem exec_stepWaitTimeout {s : State} {rid : Nat} {r : Request} (h : s.req? rid = some r) (hwait : 4096 < r.wait) :
    exec (.stepWaitTimeout rid) s = .next ((failRequest rid 0x3F (freeReport s.drawn) s.now s).draw 1) := by
  change execStepWaitTimeout rid s = _
  unfold execStepWaitTimeout
  rw [h]
  exact if_neg (by omega)

/-- Settles O26: both commands end their request at once, with a status that cuts its output. -/
theorem requestsStop : Obligations.RequestsStop := by
  unfold Obligations.RequestsStop
  refine ⟨fun s rid r k b h hstop hwhen => ⟨fun hpast => ?_, fun hpast => ?_⟩, fun s rid r h hwait => ?_, fun s rid r h hwait => ?_⟩
  · have hexec := exec_abortStop h hstop hwhen
    rw [hpast, if_neg Bool.false_ne_true] at hexec
    have hframe := stopping_frame r rid s
    generalize stopping r rid s = u at hexec hframe
    have hu : u.req? rid = some r := by rw [hframe]; exact h
    obtain ⟨honly, hvs, hss⟩ := failRequest_only hu 0x20 0 (k + 1) (.inr (by decide))
    have hst := failRequest_stations hu 0x20 0 (k + 1)
    generalize failRequest rid 0x20 0 (k + 1) u = t at hexec honly hvs hss hst
    refine ⟨t, endedOf r 0x20 (failAux r 0) (k + 1), hexec, ?_, req_rid h, rfl, rfl, rfl, ?_, ?_, fun n => ?_⟩
    · rw [State.endedOnly, hframe] at honly; exact honly
    · rw [hvs, hframe]
    · rw [hss, hframe]
    · rw [hst, hframe]
  · rw [exec_abortStop h hstop hwhen, if_pos hpast]
    rfl
  · obtain ⟨honly, hvs, hss⟩ := failRequest_only h 0x3F (freeReport s.drawn) s.now (.inr (by decide))
    have hst := failRequest_stations h 0x3F (freeReport s.drawn) s.now
    have hexec := exec_stepWaitTimeout h hwait
    generalize failRequest rid 0x3F (freeReport s.drawn) s.now s = t at honly hst hexec
    refine ⟨t.draw 1, endedOf r 0x3F (failAux r (freeReport s.drawn)) s.now, hexec, ?_, req_rid h, rfl, rfl, hst⟩
    rw [honly]
    rfl
  · change execStepWaitTimeout rid s = _
    unfold execStepWaitTimeout
    rw [h]
    exact if_pos hwait

end Sys2Proof.Machine
end

section
/-! SUPPORT. The validation tick of a request (06 R277 to R280; 07 R308 to R310). -/
namespace Sys2Proof.Machine

/-! The status that the checks of one step give. -/

/-- The checks of step `i` of a request, on a state (06 R278, 07 R309). -/
def stepCode (s : State) (rid : Nat) (r : Request) (i : Nat) : Option Nat :=
  let d := r.descs.getD i []
  let c := r.cls.steps.getD i ClassStep.reset
  let x := r.steps.getD i StepState.reset
  let key := if Desc.hasA d then keyValue s rid (s.plat r.plat) r.tenant (Desc.keyA d) else []
  if opKind (Desc.op d) = 4 then vsValidate s d c r.cls.pubExp x.source x.auxiliary key
  else if opKind (Desc.op d) = 5 then (if s.en.state = 3 then some 0x30 else ssValidate s d c x.source key)
  else none

/-- Bytes that step `i` draws in its validation tick, none where the service is EXHAUSTED (07 R308). -/
def stepDraw (s : State) (r : Request) (i : Nat) : Option Nat :=
  if opKind (Desc.op (r.descs.getD i [])) = 5 ∧ s.en.state ≠ 3 then
    some (ceilDiv (ssDrawBits s (r.descs.getD i []) (r.cls.steps.getD i ClassStep.reset)) 8)
  else none

/-- The state after the draws of a step. -/
def drewStep (s : State) (rid : Nat) (r : Request) (i : Nat) : State :=
  match stepDraw s r i with
  | some n => drawSealed rid i n s
  | none => s

theorem validateStep_eq {s : State} {rid : Nat} {r : Request} (h : s.req? rid = some r) (i : Nat) :
    validateStep rid i s = (drewStep s rid r i, stepCode s rid r i) := by
  unfold validateStep drewStep stepDraw stepCode
  rw [h]
  dsimp only
  generalize opKind (Desc.op (r.descs.getD i [])) = k
  by_cases h4 : k = 4
  · subst h4; rfl
  · by_cases h5 : k = 5
    · subst h5
      by_cases hex : s.en.state = 3
      · simp only [hex, if_true, ne_eq, not_true, and_false, if_false]; rfl
      · simp only [hex, if_true, if_false, ne_eq, not_false_eq_true, and_self]; rfl
    · simp only [h4, h5, if_false, false_and]

/-! Draws leave what the checks look at. -/

/-- `u` differs from `s` by draws, and `q` from `r` by the values drawn for its first `n` steps (07 R308). -/
def drewTo (s : State) (rid : Nat) (r : Request) (n : Nat) (u : State) : Prop :=
  u = { s with en := u.en, drawn := u.drawn, reqs := u.reqs } ∧ u.en.state = s.en.state ∧
    u.reqs.map (fun r => (r.tenant, r.descs)) = s.reqs.map (fun r => (r.tenant, r.descs)) ∧
    ∃ q, u.req? rid = some q ∧ q = { r with steps := q.steps } ∧ q.steps.length = r.steps.length ∧
      ∀ i, i < r.steps.length →
        q.steps.getD i StepState.reset =
          { r.steps.getD i StepState.reset with drawn := (q.steps.getD i StepState.reset).drawn,
                                                drawnSym := (q.steps.getD i StepState.reset).drawnSym } ∧
        (i < n → ∀ m, stepDraw s r i = some m → (q.steps.getD i StepState.reset).drawn.length = m)

theorem drewTo_zero {s : State} {rid : Nat} {r : Request} (h : s.req? rid = some r) : drewTo s rid r 0 s :=
  ⟨rfl, rfl, rfl, r, h, rfl, rfl, fun _ _ => ⟨rfl, fun h => absurd h (Nat.not_lt_zero _)⟩⟩

theorem nodeInvalid_draws (s : State) (en : Entropy) (d : Nat) (q : List Request) (f i : Nat) :
    nodeInvalid { s with en := en, drawn := d, reqs := q } f i = nodeInvalid s f i := by
  induction f generalizing i with
  | zero => rfl
  | succ f ih => simp only [nodeInvalid, ih]; rfl

theorem nodeKey_draws (s : State) (en : Entropy) (d : Nat) (q : List Request) (k : Bytes) (f i : Nat) :
    nodeKey { s with en := en, drawn := d, reqs := q } k f i = nodeKey s k f i := by
  induction f generalizing i with
  | zero => rfl
  | succ f ih => simp only [nodeKey, ih]; rfl

theorem nodeSlot_draws (s : State) (en : Entropy) (d : Nat) (q : List Request) (i : Nat) (n : Node) (p : Partition) (a b : Nat) :
    nodeSlot { s with en := en, drawn := d, reqs := q } i n p a b = nodeSlot s i n p a b := by
  simp only [nodeSlot, nodeKey_draws]

/-- A replacement that waits is known by its request's descriptors, which draws leave. -/
theorem replacing_draws (s : State) (en : Entropy) (d : Nat) {q : List Request}
    (hq : q.map (fun r => (r.tenant, r.descs)) = s.reqs.map fun r => (r.tenant, r.descs)) (t h : Nat) :
    replacing { s with en := en, drawn := d, reqs := q } t h = replacing s t h := by
  have hany : ∀ l : List Request, (l.any fun r => r.tenant = t && r.descs.any fun d =>
      Desc.op d == 0x0700 && Desc.opxF d 7 1 == 1 && Desc.keyB d == h) =
      (l.map fun r => (r.tenant, r.descs)).any fun x => x.1 = t && x.2.any fun d =>
        Desc.op d == 0x0700 && Desc.opxF d 7 1 == 1 && Desc.keyB d == h := fun l => by rw [List.any_map]; rfl
  unfold replacing
  dsimp only
  rw [hany q, hany s.reqs, hq]
  rfl

theorem resolve_draws (s : State) (en : Entropy) (d : Nat) {q : List Request}
    (hq : q.map (fun r => (r.tenant, r.descs)) = s.reqs.map fun r => (r.tenant, r.descs)) (pl : PlatEntry) (t h : Nat) :
    resolve { s with en := en, drawn := d, reqs := q } pl t h = resolve s pl t h := by
  unfold resolve
  simp only [replacing_draws s en d hq, nodeInvalid_draws, nodeSlot_draws]
  rfl

theorem keyValue_draws (s : State) (en : Entropy) (d : Nat) {q : List Request}
    (hq : q.map (fun r => (r.tenant, r.descs)) = s.reqs.map fun r => (r.tenant, r.descs)) (rid : Nat) (pl : PlatEntry) (t h : Nat) :
    keyValue { s with en := en, drawn := d, reqs := q } rid pl t h = keyValue s rid pl t h := by
  unfold keyValue
  rw [resolve_draws s en d hq]
  rfl

theorem vsValidate_draws (s : State) (en : Entropy) (d : Nat) (q : List Request) (x : Desc) (c : ClassStep) (e : Nat) (a b k : Bytes) :
    vsValidate { s with en := en, drawn := d, reqs := q } x c e a b k = vsValidate s x c e a b k := by
  unfold vsValidate
  rfl

theorem ssValidate_draws (s : State) (en : Entropy) (d : Nat) (q : List Request) (x : Desc) (c : ClassStep) (a k : Bytes) :
    ssValidate { s with en := en, drawn := d, reqs := q } x c a k = ssValidate s x c a k := by
  unfold ssValidate ssOperand
  rfl

/-! Requests that are updated. -/

theorem req?_updReq_same {s : State} {rid : Nat} {r : Request} (h : s.req? rid = some r) {f : Request → Request} (hf : ∀ x, (f x).rid = x.rid) :
    (s.updReq rid f).req? rid = some (f r) := by
  unfold State.req? State.updReq at *
  dsimp only
  rw [List.find?_map]
  have hcomp : ((fun x : Request => decide (x.rid = rid)) ∘ fun x => if x.rid = rid then f x else x) = fun x => decide (x.rid = rid) := by
    funext x
    by_cases hx : x.rid = rid <;> simp [hx, hf]
  rw [hcomp, h]
  have hr : r.rid = rid := by simpa using List.find?_some h
  simp [hr]

theorem req?_updReq_other {rid n : Nat} (h : n ≠ rid) (s : State) {f : Request → Request} (hf : ∀ x, (f x).rid = x.rid) :
    (s.updReq rid f).req? n = s.req? n := by
  unfold State.req? State.updReq
  dsimp only
  rw [List.find?_map]
  have hcomp : ((fun x : Request => decide (x.rid = n)) ∘ fun x => if x.rid = rid then f x else x) = fun x => decide (x.rid = n) := by
    funext x
    by_cases hx : x.rid = rid <;> simp [hx, hf]
  rw [hcomp]
  cases hfind : s.reqs.find? fun x => decide (x.rid = n) with
  | none => rfl
  | some x =>
    have hx : x.rid = n := by simpa using List.find?_some hfind
    simp [hx, h]

/-- An update of one step. -/
theorem getD_updStep (r : Request) (n i : Nat) (f : StepState → StepState) (hi : i < r.steps.length) :
    (r.updStep n f).steps.getD i StepState.reset =
      if i = n then f (r.steps.getD i StepState.reset) else r.steps.getD i StepState.reset := by
  unfold Request.updStep
  by_cases h : i = n
  · subst h; simp [List.getD, hi]
  · simp [List.getD, h, Ne.symm h]

theorem length_updStep (r : Request) (n : Nat) (f : StepState → StepState) : (r.updStep n f).steps.length = r.steps.length :=
  List.length_modify _ _ _

/-! The steps in their order. -/

variable {s u : State} {rid n : Nat} {r q : Request}

theorem stepDraw_drewTo (h : drewTo s rid r n u) (hq : u.req? rid = some q) (i : Nat) : stepDraw u q i = stepDraw s r i := by
  obtain ⟨hu, hst, -, q', hq', hsame, -⟩ := h
  obtain rfl : q = q' := Option.some.inj (hq.symm.trans hq')
  unfold stepDraw
  rw [hst, hsame, hu]
  rfl

theorem stepCode_drewTo (h : drewTo s rid r n u) (hq : u.req? rid = some q) {i : Nat} (hi : i < r.steps.length) :
    stepCode u rid q i = stepCode s rid r i := by
  obtain ⟨hu, hst, hreqs, q', hq', hsame, -, hsteps⟩ := h
  obtain rfl : q = q' := Option.some.inj (hq.symm.trans hq')
  obtain ⟨hstep, -⟩ := hsteps i hi
  have hsrc : (q.steps.getD i StepState.reset).source = (r.steps.getD i StepState.reset).source := by rw [hstep]; rfl
  have haux : (q.steps.getD i StepState.reset).auxiliary = (r.steps.getD i StepState.reset).auxiliary := by rw [hstep]; rfl
  have hsame' : q.descs = r.descs ∧ q.cls = r.cls ∧ q.plat = r.plat ∧ q.tenant = r.tenant := by rw [hsame]; exact ⟨rfl, rfl, rfl, rfl⟩
  obtain ⟨hdescs, hcls, hplat, hten⟩ := hsame'
  unfold stepCode
  dsimp only
  rw [hst, hsrc, haux, hdescs, hcls, hplat, hten]
  generalize u.reqs = l at hu hreqs
  rw [hu]
  simp only [keyValue_draws s u.en u.drawn hreqs, vsValidate_draws, ssValidate_draws]
  rfl

theorem drawnBytes_length (i n : Nat) : (drawnBytes i n).length = n := by simp [drawnBytes]

/-- The draws of a step, in the order of the chain. -/
theorem drewTo_succ (h : drewTo s rid r n u) (hq : u.req? rid = some q) : drewTo s rid r (n + 1) (drewStep u rid q n) := by
  have hdraw := stepDraw_drewTo h hq n
  obtain ⟨hu, hst, hreqs, q', hq', hsame, hlen, hsteps⟩ := h
  obtain rfl : q = q' := Option.some.inj (hq.symm.trans hq')
  unfold drewStep
  rw [hdraw]
  cases hd : stepDraw s r n with
  | none =>
    refine ⟨hu, hst, hreqs, q, hq, hsame, hlen, fun i hi => ?_⟩
    obtain ⟨h1, h2⟩ := hsteps i hi
    refine ⟨h1, fun hin m hm => ?_⟩
    by_cases hin' : i = n
    · subst hin'; rw [hd] at hm; exact absurd hm (by simp)
    · exact h2 (by omega) m hm
  | some m =>
    dsimp only
    have hf : ∀ x : Request, (x.updStep n (StepState.takeDrawn (drawnBytes u.drawn m))).rid = x.rid := fun _ => rfl
    refine ⟨?_, ?_, ?_, q.updStep n (StepState.takeDrawn (drawnBytes u.drawn m)), ?_, ?_, ?_, fun i hi => ?_⟩
    · unfold drawSealed; rw [hu]; rfl
    · unfold drawSealed takeBuf trackLow
      dsimp only [State.draw, State.updReq, State.updEn]
      split <;> exact hst
    · rw [← hreqs]
      unfold drawSealed
      simp only [State.draw, State.updReq, State.updEn, List.map_map]
      refine List.map_congr_left fun x _ => ?_
      dsimp only [Function.comp]
      split <;> rfl
    · exact req?_updReq_same (s := u.updEn (takeBuf m)) hq hf
    · rw [hsame]; rfl
    · rw [length_updStep, hlen]
    · obtain ⟨h1, h2⟩ := hsteps i hi
      rw [getD_updStep q n i _ (by rw [hlen]; exact hi)]
      by_cases hin : i = n
      · subst hin
        rw [if_pos rfl]
        refine ⟨?_, fun _ m' hm' => ?_⟩
        · rw [h1]; rfl
        · rw [hd] at hm'
          rw [← Option.some.inj hm']
          exact drawnBytes_length _ _
      · rw [if_neg hin]
        exact ⟨h1, fun hlt m' hm' => h2 (by omega) m' hm'⟩

/-- One step of the validation, after those before it. -/
def validGo (rid : Nat) (acc : State × Option (Nat × Nat)) (i : Nat) : State × Option (Nat × Nat) :=
  match acc.2 with
  | some _ => acc
  | none => ((validateStep rid i acc.1).1, (validateStep rid i acc.1).2.map fun c => (i, c))

theorem validGo_done (rid : Nat) (l : List Nat) (u : State) (x : Nat × Nat) : l.foldl (validGo rid) (u, some x) = (u, some x) := by
  induction l with
  | nil => rfl
  | cons i l ih => exact ih

theorem validGo_next {acc : State} (hq : acc.req? rid = some q) (i : Nat) :
    validGo rid (acc, none) i = (drewStep acc rid q i, (stepCode acc rid q i).map fun c => (i, c)) := by
  simp only [validGo, validateStep_eq hq]

/-- While every check passes, the steps draw. -/
theorem validGo_range (h : s.req? rid = some r) {k : Nat} (hk : k ≤ r.steps.length) (hall : ∀ i, i < k → stepCode s rid r i = none) :
    ∃ u, (List.range k).foldl (validGo rid) (s, none) = (u, none) ∧ drewTo s rid r k u := by
  induction k with
  | zero => exact ⟨s, rfl, drewTo_zero h⟩
  | succ k ih =>
    obtain ⟨u, hu, hdrew⟩ := ih (by omega) (fun i hi => hall i (by omega))
    obtain ⟨q, hq⟩ : ∃ q, u.req? rid = some q := by obtain ⟨-, -, -, q, hq, -⟩ := hdrew; exact ⟨q, hq⟩
    refine ⟨drewStep u rid q k, ?_, drewTo_succ hdrew hq⟩
    rw [List.range_succ, List.foldl_append, hu, List.foldl_cons, List.foldl_nil, validGo_next hq, stepCode_drewTo hdrew hq (by omega),
      hall k (by omega)]
    rfl

/-- The first check that fails ends the validation. -/
theorem validGo_fails (h : s.req? rid = some r) {k code : Nat} (hk : k < r.steps.length) (hall : ∀ i, i < k → stepCode s rid r i = none)
    (hcode : stepCode s rid r k = some code) :
    ∃ u, (List.range r.steps.length).foldl (validGo rid) (s, none) = (u, some (k, code)) ∧ drewTo s rid r (k + 1) u := by
  obtain ⟨u, hu, hdrew⟩ := validGo_range h (Nat.le_of_lt hk) hall
  obtain ⟨q, hq⟩ : ∃ q, u.req? rid = some q := by obtain ⟨-, -, -, q, hq, -⟩ := hdrew; exact ⟨q, hq⟩
  refine ⟨drewStep u rid q k, ?_, drewTo_succ hdrew hq⟩
  obtain ⟨m, hm⟩ : ∃ m, r.steps.length = k + 1 + m := ⟨r.steps.length - (k + 1), by omega⟩
  rw [hm, List.range_add, List.foldl_append, List.range_succ, List.foldl_append, hu, List.foldl_cons, List.foldl_nil, validGo_next hq,
    stepCode_drewTo hdrew hq hk, hcode]
  exact validGo_done _ _ _ _

/-- The request once it is validated. -/
def validatedAt (now : Nat) (r : Request) : Request :=
  { r with validated := true, readyTick := if r.kind = 4 ∨ r.kind = 5 then max r.readyTick (now + 1) else r.readyTick }

theorem validate_eq (h : s.req? rid = some r) : validate rid s =
    match (List.range r.steps.length).foldl (validGo rid) (s, none) with
    | (s, none) => s.updReq rid (validatedAt s.now)
    | (s, some (i, code)) => failStep rid i code 0 (s.now + 1) (countStep { r with cur := i } code s) := by
  unfold validate
  rw [h]
  rfl

/-! A step that fails its checks. -/

theorem rsaCheck_code {d : Desc} {c : ClassStep} {e code : Nat} {a b k : Bytes} (h : rsaCheck d c e a b k = some code) : code = 0x17 := by
  unfold rsaCheck at h
  dsimp only at h
  (repeat' split at h) <;> simp_all

theorem stepCode_exhausted {i : Nat} (hk : opKind (Desc.op (r.descs.getD i [])) = 5) (hex : s.en.state = 3) :
    stepCode s rid r i = some 0x30 := by
  unfold stepCode
  dsimp only
  rw [if_neg (by rw [hk]; decide), if_pos hk, if_pos hex]

/-- The statuses that the checks give (06 Table 06-6, 07 Table 07-8). -/
def checkCodes : List Nat := [0x17, 0x18, 0x19, 0x30]

theorem vsValidate_code {d : Desc} {c : ClassStep} {e code : Nat} {a b k : Bytes} (h : vsValidate s d c e a b k = some code) :
    code ∈ checkCodes := by
  unfold vsValidate at h
  dsimp only at h
  split at h
  · (repeat' split at h) <;> simp_all [checkCodes]
  · split at h
    · (repeat' split at h) <;> simp_all [checkCodes]
    · rw [rsaCheck_code h]; decide

theorem ssValidate_code {d : Desc} {c : ClassStep} {code : Nat} {a k : Bytes} (h : ssValidate s d c a k = some code) :
    code ∈ checkCodes := by
  unfold ssValidate ssOperand at h
  dsimp only at h
  (repeat' split at h) <;> simp_all [checkCodes]

theorem stepCode_range {i code : Nat} (h : stepCode s rid r i = some code) : 0x10 ≤ code ∧ code < 256 := by
  have hmem : code ∈ checkCodes := by
    unfold stepCode at h
    dsimp only at h
    split at h
    · exact vsValidate_code h
    · split at h
      · split at h
        · rw [← Option.some.inj h]; decide
        · exact ssValidate_code h
      · exact absurd h (by simp)
  have hall : ∀ n ∈ checkCodes, 0x10 ≤ n ∧ n < 256 := by decide
  exact hall code hmem

/-- What the end of a failed step leaves: the pages, the NVM, and the key banks. -/
theorem countStep_leaves (r : Request) (status : Nat) (s : State) :
    countStep r status s = { s with cs := (countStep r status s).cs, ds := (countStep r status s).ds, vs := (countStep r status s).vs,
                                    ss := (countStep r status s).ss, ks := (countStep r status s).ks } := by
  unfold countStep
  dsimp only
  (repeat' split) <;> rfl

theorem req?_filtered (s : State) (rid : Nat) (l : List Request) (h : s.reqs = l.filter fun x => x.rid ≠ rid) : s.req? rid = none := by
  unfold State.req?
  rw [h, List.find?_eq_none]
  intro x hx
  simpa using (List.mem_filter.mp hx).2

/-- A step that fails ends its request at once, or once the output of the steps before it is written (03 R143). -/
theorem failStep_ends (h : s.req? rid = some r) (n code : Nat) (src : BitVec 16) (due : Nat) {t : State} (ht : t = failStep rid n code src due s) :
    t.tenants = s.tenants ∧ t.nvm = s.nvm ∧ (∀ i : Fin 7, t.stations[i] = { s.stations[i] with derived := t.stations[i].derived }) ∧
      ((∃ e ∈ t.ended, e.rid = rid ∧ e.status = BitVec.ofNat 8 code ∧ e.due = due ∧ t.req? rid = none) ∨
       (∃ q, t.req? rid = some q ∧ q.validated = r.validated ∧ q.stage = .draining ∧ q.final = BitVec.ofNat 8 code)) := by
  have hr := req_rid h
  unfold failStep at ht
  rw [h] at ht
  dsimp only at ht
  split at ht
  · obtain ⟨honly, -, -⟩ := closeRequest_only (r.failedAt n) code (failAux { r with cur := n } src) due s
    have hst := closeRequest_stations (r.failedAt n) code (failAux { r with cur := n } src) due s
    rw [← ht] at honly hst
    unfold State.endedOnly at honly
    have hrid : (r.failedAt n).rid = rid := hr
    rw [hrid] at honly hst
    refine ⟨by rw [honly], by rw [honly], fun i => ?_, .inl ⟨endedOf (r.failedAt n) code (failAux { r with cur := n } src) due, ?_, hrid, rfl, rfl, ?_⟩⟩
    · have hi : t.stations[i] = (dropDerived (fun d => d.rid = rid) s).stations[i] := congrArg (fun v : Vector StationState 7 => v[i]) hst
      rw [hi, dropDerived_station]
    · rw [honly]; exact List.mem_append_right _ (List.mem_singleton_self _)
    · exact req?_filtered t rid s.reqs (by rw [honly])
  · refine ⟨by rw [ht]; rfl, by rw [ht]; rfl, fun i => ?_,
      .inr ⟨{ (r.failedAt n).failDraining code src with auxOut := failAux { r with cur := n } src }, ?_, ?_⟩⟩
    · rw [ht, dropDerived_station]; rfl
    · rw [ht]; exact req?_updReq_same h (fun _ => rfl)
    · exact ⟨rfl, rfl, rfl⟩

theorem exec_validationTick (h : s.req? rid = some r) (hv : r.validated = false) (hd : r.stage ≠ .draining) (hc : hasChecked r = true)
    (hn : s.now = validTick s r) (ho : operandsIn s r = true) (hs : stopped s r 8 = false) :
    exec (.validationTick rid) s = .next (validate rid s) := by
  change execValidationTick rid s = _
  unfold execValidationTick
  rw [h]
  exact if_neg (by simp [hv, hd, hc, ← hn, ho, hs])

theorem drewTo_kept (h : drewTo s rid r n u) : u.tenants = s.tenants ∧ u.nvm = s.nvm ∧ u.stations = s.stations ∧ u.now = s.now := by
  obtain ⟨hu, -⟩ := h
  rw [hu]
  exact ⟨rfl, rfl, rfl, rfl⟩

/-- Of the numbers with a property there is a first one. -/
theorem exists_first {p : Nat → Prop} (h : ∃ i, p i) : ∃ k, p k ∧ ∀ i, i < k → ¬ p i := by
  obtain ⟨n, hn⟩ := h
  induction n using Nat.strongRecOn with
  | ind n ih =>
    by_cases hex : ∃ i, i < n ∧ p i
    · obtain ⟨i, hi, hp⟩ := hex
      exact ih i hi hp
    · exact ⟨n, hn, fun i hi hp => hex ⟨i, hi, hp⟩⟩

/-- The first step whose check fails. -/
theorem firstFailing (h : ¬ ∀ i, i < r.steps.length → stepCode s rid r i = none) :
    ∃ k code, k < r.steps.length ∧ stepCode s rid r k = some code ∧ ∀ i, i < k → stepCode s rid r i = none := by
  have hex : ∃ i, i < r.steps.length ∧ stepCode s rid r i ≠ none := by simpa using h
  obtain ⟨k, ⟨hlt, hne⟩, hfirst⟩ := exists_first hex
  obtain ⟨code, hcode⟩ := Option.isSome_iff_exists.mp (Option.isSome_iff_ne_none.mpr hne)
  refine ⟨k, code, hlt, hcode, fun i hi => Classical.byContradiction fun hi' => ?_⟩
  exact hfirst i hi ⟨by omega, hi'⟩

/-- Settles O25: the steps draw in their order up to the first check that fails, whose status ends the request. -/
theorem validationDecides : Obligations.ValidationDecides := by
  unfold Obligations.ValidationDecides
  refine ⟨fun s rid r h hdrain => ?_, fun s rid r h hv hd hc hn ho hs => ⟨validate rid s, exec_validationTick h hv hd hc hn ho hs,
    validate_fixed rid s, ?_⟩⟩
  · change execValidationTick rid s = _
    unfold execValidationTick
    rw [h]
    exact if_pos (by simp [hdrain])
  · have hcode : ∀ i, (validateStep rid i s).2 = stepCode s rid r i := fun i => by rw [validateStep_eq h]
    simp only [hcode]
    rw [validate_eq h]
    by_cases hall : ∀ i, i < r.steps.length → stepCode s rid r i = none
    · obtain ⟨u, hu, hdrew⟩ := validGo_range h (Nat.le_refl _) hall
      obtain ⟨hten, hnvm, hst, hnow⟩ := drewTo_kept hdrew
      rw [hu]
      obtain ⟨hframe, -, -, q, hq, hsame, hlen, hsteps⟩ := hdrew
      have hreq : (u.updReq rid (validatedAt u.now)).req? rid = some (validatedAt u.now q) := req?_updReq_same hq fun _ => rfl
      have ht : u.updReq rid (validatedAt u.now) = { u with reqs := (u.updReq rid (validatedAt u.now)).reqs } := rfl
      dsimp only
      generalize u.updReq rid (validatedAt u.now) = t at hreq ht
      have hstages : ∀ i : Fin 7, u.stations[i] = s.stations[i] := fun i => congrArg (fun v : Vector StationState 7 => v[i]) hst
      refine ⟨by rw [ht]; exact hten, by rw [ht]; exact hnvm, fun i => ?_, .inl ⟨_, hreq, rfl⟩,
        fun i code hi _ hcode => absurd (hall i hi) (by simp [hcode]), fun _ => ⟨?_, _, hreq, ?_, hlen, ?_⟩⟩
      · rw [ht]
        exact (hstages i).trans (by rw [hstages i])
      · rw [ht, hframe]
      · rw [hnow]
        have hkind : q.kind = r.kind := by rw [hsame]; rfl
        have hready : q.readyTick = r.readyTick := by rw [hsame]
        unfold validatedAt
        rw [hkind, hready]
        conv => lhs; rw [hsame]
      · refine fun i hi => ⟨(hsteps i hi).1, fun hkind => (hsteps i hi).2 hi _ ?_⟩
        have hex : s.en.state ≠ 3 := fun hex => by
          exact absurd (hall i hi) (by rw [stepCode_exhausted hkind hex]; simp)
        exact if_pos ⟨hkind, hex⟩
    · obtain ⟨k, code, hk, hcode, hbefore⟩ := firstFailing hall
      obtain ⟨u, hu, hdrew⟩ := validGo_fails h hk hbefore hcode
      obtain ⟨hten, hnvm, hst, hnow⟩ := drewTo_kept hdrew
      rw [hu]
      obtain ⟨hframe, -, -, q, hq, hsame, hlen, hsteps⟩ := hdrew
      have hcount := countStep_leaves { r with cur := k } code u
      generalize hv' : countStep { r with cur := k } code u = v at hcount
      dsimp only
      rw [hv']
      have hvq : v.req? rid = some q := by rw [hcount]; exact hq
      obtain ⟨h1, h2, h3, h4⟩ := failStep_ends hvq k code 0 (u.now + 1) rfl
      have hqv : q.validated = false := by rw [hsame]; exact hv
      have hrange := stepCode_range hcode
      have hfinal : 0x10 ≤ (BitVec.ofNat 8 code).toNat := by simp; omega
      refine ⟨h1.trans (by rw [hcount]; exact hten), h2.trans (by rw [hcount]; exact hnvm), fun i => (h3 i).trans ?_, ?_, fun i code' hi hb hc' => ?_,
        fun hall' => absurd hall' hall⟩
      · rw [hcount]
        exact congrArg (fun x : Vector StationState 7 => ({ x[i] with derived := _ } : StationState)) hst
      · obtain ⟨e, he, hrid, -, hdue, hno⟩ | ⟨q', hq', hval, hdrain, hfin⟩ := h4
        · exact .inr (.inl ⟨e, he, hrid, by rw [hdue, hnow], hno⟩)
        · exact .inr (.inr ⟨q', hq', by rw [hval, hqv], hdrain, by rw [hfin]; exact hfinal⟩)
      · have hik : i = k := by
          refine Classical.byContradiction fun hne => ?_
          obtain hlt | hgt := Nat.lt_or_gt_of_ne hne
          · rw [hbefore i hlt] at hc'; exact absurd hc' (by simp)
          · rw [hb k hgt] at hcode; exact absurd hcode (by simp)
        subst hik
        obtain rfl : code = code' := Option.some.inj (hcode.symm.trans hc')
        obtain ⟨e, he, hrid, hst', hdue, hno⟩ | ⟨q', hq', hval, hdrain, hfin⟩ := h4
        · exact .inl ⟨e, he, hrid, hst', by rw [hdue, hnow], hno⟩
        · exact .inr ⟨q', hq', hdrain, hfin⟩

end Sys2Proof.Machine
end

section
/-! SUPPORT. What the end of a request leaves of the key cache (03 R143, R160), and the release of results (04 R202; 07 R313 to
R316, R318, R321, R322). -/
namespace Sys2Proof.Machine

/-- `t` differs from `s` in custody at most in the cache, the handles spoken for and the count of evictions. -/
def State.cacheOnly (s t : State) : Prop :=
  t.ks = { s.ks with cache := t.ks.cache, pendingH := t.ks.pendingH, evict := t.ks.evict }

theorem cacheOnly_refl (s : State) : State.cacheOnly s s := rfl

theorem cacheOnly_trans {s t u : State} (h1 : State.cacheOnly s t) (h2 : State.cacheOnly t u) : State.cacheOnly s u := by
  unfold State.cacheOnly at *
  rw [h2, h1]

theorem cacheOnly_foldl {α : Type} (f : State → α → State) (hf : ∀ s a, State.cacheOnly s (f s a)) (l : List α) (s : State) :
    State.cacheOnly s (l.foldl f s) := by
  induction l generalizing s with
  | nil => rfl
  | cons a l ih => exact cacheOnly_trans (hf s a) (ih (f s a))

theorem updCache_cacheOnly (f : List CacheSlot → List CacheSlot) (s : State) :
    State.cacheOnly s (s.updKs fun k => { k with cache := f k.cache }) := rfl

theorem evictFor_cacheOnly (n fuel : Nat) (s : State) : State.cacheOnly s (evictFor n fuel s) := by
  induction fuel generalizing s with
  | zero => rfl
  | succ m ih =>
    unfold evictFor
    (repeat' split)
    · rfl
    · rfl
    · exact cacheOnly_trans rfl (ih _)

theorem cachePut_cacheOnly (c : CacheSlot) (s : State) : State.cacheOnly s (cachePut c s) := by
  unfold cachePut
  dsimp only
  have hdrop := updCache_cacheOnly (List.filter fun x => x.old || !x.pins.isEmpty || !(x.tenant = c.tenant && x.handle = c.handle)) s
  generalize (s.updKs fun k => _) = u at hdrop ⊢
  refine cacheOnly_trans hdrop ?_
  split
  · have hevict := evictFor_cacheOnly (slotsFor c.value.length) u.ks.cache.length u
    generalize evictFor (slotsFor c.value.length) u.ks.cache.length u = v at hevict
    refine cacheOnly_trans hevict ?_
    split <;> rfl
  · rfl

theorem unpin_cacheOnly (rid : Nat) (s : State) : State.cacheOnly s (unpin rid s) := by
  unfold unpin
  dsimp only
  refine cacheOnly_trans (cacheOnly_trans (updCache_cacheOnly (List.map fun c => { c with pins := c.pins.filter (· ≠ rid) }) s)
    (cacheOnly_foldl _ (fun u c => ?_) _ _)) rfl
  split
  · exact cachePut_cacheOnly _ _
  · rfl

theorem freeHold_ks (r : Request) (s : State) (i : Nat) : (freeHold r s i).ks = s.ks := by
  unfold freeHold
  dsimp only
  split <;> rfl

theorem freeRegions_ks (r : Request) (s : State) : (freeRegions r s).ks = s.ks := by
  have hfold : ∀ (l : List Nat) (u : State), (l.foldl (freeHold r) u).ks = u.ks := by
    intro l
    induction l with
    | nil => intro u; rfl
    | cons i l ih => exact fun u => (ih _).trans (freeHold_ks r u i)
  exact hfold _ _

theorem closeRequest_cacheOnly (r : Request) (status : Nat) (aux : Bytes) (due : Nat) (s : State) :
    State.cacheOnly s (closeRequest r status aux due s) := by
  unfold closeRequest
  dsimp only
  have hfree : State.cacheOnly s { freeRegions r s with reqs := (freeRegions r s).reqs.filter fun x => x.rid ≠ r.rid,
                                                        ended := (freeRegions r s).ended ++ [endedOf r status aux due] } := by
    unfold State.cacheOnly
    dsimp only
    rw [freeRegions_ks]
  refine cacheOnly_trans (cacheOnly_trans hfree ?_) (unpin_cacheOnly _ _)
  split
  · rfl
  · refine cacheOnly_foldl _ (fun u d => ?_) _ _
    split <;> rfl

theorem endsOnly_of_ended {s t : State} {rid : Nat} {e : Ended} (h : State.endedOnly s t rid e) (hk : State.cacheOnly s t) :
    State.endsOnly s t := by
  unfold State.endedOnly at h
  unfold State.cacheOnly at hk
  have hks : t.ks = { s.ks with cache := t.ks.cache, pendingH := t.ks.pendingH, evict := t.ks.evict, rotLog := t.ks.rotLog } := by
    conv => lhs; rw [hk]
    rw [show t.ks.rotLog = s.ks.rotLog by rw [hk]]
  unfold State.endsOnly
  rw [← hks, show t.flt = s.flt from (congrArg State.flt h :), show t.en = s.en from (congrArg State.en h :),
    show t.mgmt.intStatus = s.mgmt.intStatus from (congrArg (fun x => x.mgmt.intStatus) h :),
    show t.reqs = s.reqs.filter (fun x => x.rid ≠ rid) from (congrArg State.reqs h :),
    show t.ended = s.ended ++ [e] from (congrArg State.ended h :)]
  exact h

theorem endsOnly_trans {s t u : State} (h1 : State.endsOnly s t) (h2 : State.endsOnly t u) : State.endsOnly s u := by
  unfold State.endsOnly at *
  rw [h2, h1]

theorem endsOnly_of_reports {s t : State} (h : State.reportsOnly s t) : State.endsOnly s t := by
  unfold State.endsOnly
  rw [show t.ks.cache = s.ks.cache from (congrArg (fun x => x.ks.cache) h :),
    show t.ks.pendingH = s.ks.pendingH from (congrArg (fun x => x.ks.pendingH) h :),
    show t.ks.evict = s.ks.evict from (congrArg (fun x => x.ks.evict) h :), show t.ended = s.ended from (congrArg State.ended h :),
    show t.vs = { s.vs with loads := t.vs.loads } from (congrArg State.vs h :),
    show t.ss = { s.ss with waybills := t.ss.waybills } from (congrArg State.ss h :), show t.cs = s.cs from (congrArg State.cs h :),
    show t.tt = s.tt from (congrArg State.tt h :), show t.stations = s.stations from (congrArg State.stations h :)]
  exact h

theorem endsOnly_image {s t : State} (h : State.endsOnly s t) : t.image = s.image := by
  rw [h]
  rfl

theorem endsOnly_reported {s t : State} {c : BitVec 16} (h : State.endsOnly s t) (hflt : t.flt = s.flt) (hc : s.reported c) :
    t.reported c := by
  have htick : t.tick = s.tick := by rw [h]
  exact reported_of_kept (recordsKept_of_recent htick (endsOnly_image h) (congrArg Faults.recent hflt)) hc

/-- A request that fails ends at once or drains; either way it changes what the end of a request changes. -/
theorem failRequest_ends {s : State} {rid : Nat} {r : Request} (h : s.req? rid = some r) (status : Nat) (source : BitVec 16)
    (due : Nat) {t : State} (ht : t = failRequest rid status source due s) :
    State.endsOnly s t ∧ t.flt = s.flt ∧
      ((t.req? rid = none ∧ endedOf r status (failAux r source) due ∈ t.ended) ∨
       (cutsOutput status = false ∧ ∃ q, t.req? rid = some q ∧ q.stage = .draining ∧ q.final = BitVec.ofNat 8 status)) := by
  subst ht
  by_cases hc : (leftOver r).isEmpty = true ∨ cutsOutput status = true
  · obtain ⟨honly, -, -⟩ := failRequest_only h status source due hc
    have hclose : State.cacheOnly s (failRequest rid status source due s) := by
      unfold failRequest
      rw [h]
      dsimp only
      rw [if_pos hc]
      exact closeRequest_cacheOnly _ _ _ _ _
    refine ⟨endsOnly_of_ended honly hclose, by rw [honly], .inl ⟨req?_filtered _ rid s.reqs (by rw [honly]), ?_⟩⟩
    rw [honly]
    exact List.mem_append_right _ (List.mem_singleton_self _)
  · rw [failRequest_drains h status source due hc]
    refine ⟨rfl, rfl, .inr ⟨by simpa using (not_or.mp hc).2, _, req?_updReq_same h (f := fun r => r.failDraining status source) fun _ => rfl, rfl, rfl⟩⟩

/-! ### What a step that is done gives out -/

theorem emit_frame (r : Request) (addr : Nat) (data : Bytes) (aux : Bool) (ready : Nat) :
    r.emit addr data aux ready = { r with outq := (r.emit addr data aux ready).outq } := by
  unfold Request.emit
  split <;> rfl

theorem emit_keeps (r : Request) (addr : Nat) (data : Bytes) (aux : Bool) (ready : Nat) :
    ∀ o ∈ r.outq, o ∈ (r.emit addr data aux ready).outq := by
  intro o ho
  unfold Request.emit
  split
  · exact ho
  · exact List.mem_append_left _ ho

theorem emit_emits (r : Request) (addr : Nat) {data : Bytes} (hd : data ≠ []) (aux : Bool) (ready : Nat) :
    ∃ o ∈ (r.emit addr data aux ready).outq, o.data = data ∧ o.addr = BitVec.ofNat 64 addr ∧ o.ready = ready ∧ o.step = r.cur ∧
      o.aux = aux := by
  unfold Request.emit
  rw [if_neg (by simpa using hd)]
  exact ⟨_, List.mem_append_right _ (List.mem_singleton_self _), rfl, rfl, rfl, rfl, rfl⟩

/-- The host output of a step that is done, from the byte after those that have streamed. -/
def Request.hosted (r0 : Request) (out : Bytes) (tick : Nat) (r : Request) : Request :=
  if Desc.toHost r0.desc then
    (r.emit (Desc.dstAddr r0.desc + r0.step.streamed) (out.drop r0.step.streamed) false tick).updStep r.cur
      fun x => { x with wrote := out.length }
  else r

theorem done_eq (r : Request) (res : StepResult) (tick : Nat) : r.done res tick =
    (if Desc.auxAddr r.desc < Desc.dstAddr r.desc + r.step.streamed then r.hosted res.out tick (r.emitIv res.ivOut tick)
     else (r.hosted res.out tick r).emitIv res.ivOut tick).advance res.out res.aux tick := by
  unfold Request.done Request.hosted
  rfl

theorem emitIv_frame (r : Request) (iv : Bytes) (tick : Nat) : r.emitIv iv tick =
    { r with outq := (r.emitIv iv tick).outq, steps := (r.emitIv iv tick).steps } ∧
      (r.emitIv iv tick).steps.length = r.steps.length ∧ ∀ o ∈ r.outq, o ∈ (r.emitIv iv tick).outq := by
  unfold Request.emitIv
  split
  · exact ⟨rfl, rfl, fun o ho => ho⟩
  · have hframe := emit_frame r (Desc.auxAddr r.desc) iv true tick
    have hkeeps := emit_keeps r (Desc.auxAddr r.desc) iv true tick
    generalize r.emit (Desc.auxAddr r.desc) iv true tick = q at hframe hkeeps
    refine ⟨?_, ?_, hkeeps⟩
    · have hsteps : q.steps = r.steps := (congrArg Request.steps hframe :)
      conv => lhs; rw [hframe]
      unfold Request.updStep
      dsimp only
      rw [hsteps]
    · rw [length_updStep, hframe]

theorem hosted_frame (r0 : Request) (out : Bytes) (tick : Nat) (r : Request) : r0.hosted out tick r =
    { r with outq := (r0.hosted out tick r).outq, steps := (r0.hosted out tick r).steps } ∧
      (r0.hosted out tick r).steps.length = r.steps.length ∧ (∀ o ∈ r.outq, o ∈ (r0.hosted out tick r).outq) ∧
      (Desc.toHost r0.desc = true → r0.step.streamed < out.length → r.cur = r0.cur → ∃ o ∈ (r0.hosted out tick r).outq,
        o.data = out.drop r0.step.streamed ∧ o.addr = BitVec.ofNat 64 (Desc.dstAddr r0.desc + r0.step.streamed) ∧ o.ready = tick ∧
        o.step = r0.cur ∧ o.aux = false) := by
  unfold Request.hosted
  split
  · rename_i hhost
    have hframe := emit_frame r (Desc.dstAddr r0.desc + r0.step.streamed) (out.drop r0.step.streamed) false tick
    have hkeeps := emit_keeps r (Desc.dstAddr r0.desc + r0.step.streamed) (out.drop r0.step.streamed) false tick
    have hemits := fun hd => emit_emits r (Desc.dstAddr r0.desc + r0.step.streamed) (data := out.drop r0.step.streamed) hd false tick
    generalize r.emit (Desc.dstAddr r0.desc + r0.step.streamed) (out.drop r0.step.streamed) false tick = q at hframe hkeeps hemits
    refine ⟨?_, ?_, hkeeps, fun _ hlen hcur => ?_⟩
    · have hsteps : q.steps = r.steps := (congrArg Request.steps hframe :)
      conv => lhs; rw [hframe]
      unfold Request.updStep
      dsimp only
      rw [hsteps]
    · rw [length_updStep, hframe]
    · rw [← hcur]
      exact hemits (by simpa using hlen)
  · rename_i hhost
    exact ⟨rfl, rfl, fun o ho => ho, fun h => absurd h hhost⟩

/-- What the output and the IV of a step that is done leave of its request. -/
theorem advance_gaveOut {r q : Request} (hq : q = { r with outq := q.outq, steps := q.steps }) (hlen : q.steps.length = r.steps.length)
    (out aux : Bytes) (tick : Nat)
    (hout : Desc.toHost r.desc = true → r.step.streamed < out.length → ∃ o ∈ q.outq, o.data = out.drop r.step.streamed ∧
      o.addr = BitVec.ofNat 64 (Desc.dstAddr r.desc + r.step.streamed) ∧ o.ready = tick ∧ o.step = r.cur ∧ o.aux = false) :
    Request.gaveOut r (q.advance out aux tick) out tick := by
  have hcur : q.cur = r.cur := by rw [hq]
  have hdescs : q.descs = r.descs := by rw [hq]
  have hdesc : q.desc = r.desc := by rw [hq]; rfl
  unfold Request.gaveOut Request.advance
  rw [hdesc, hdescs, hcur]
  by_cases hlast : r.cur + 1 ≥ r.descs.length
  · rw [if_pos hlast]
    exact ⟨fun _ => ⟨rfl, rfl⟩, fun h => absurd h (by omega), hout⟩
  · rw [if_neg hlast]
    refine ⟨fun h => absurd h (by omega), fun _ => ⟨?_, rfl, rfl, fun hfeeds hstep => ?_⟩, fun hhost hlen' => ?_⟩
    · dsimp only
      split <;> simp [Request.updStep, hcur]
    · dsimp only
      rw [if_pos hfeeds, getD_updStep _ _ _ _ (by omega), if_pos rfl]
    · dsimp only
      split <;> exact hout hhost hlen'

/-- A step that is done gives its result out. -/
theorem done_gaveOut (r : Request) (res : StepResult) (tick : Nat) : Request.gaveOut r (r.done res tick) res.out tick := by
  rw [done_eq]
  split
  · obtain ⟨hiv, hivLen, -⟩ := emitIv_frame r res.ivOut tick
    generalize r.emitIv res.ivOut tick = p at hiv hivLen
    obtain ⟨hh, hhLen, -, hhOut⟩ := hosted_frame r res.out tick p
    generalize r.hosted res.out tick p = q at hh hhLen hhOut
    refine advance_gaveOut ?_ (hhLen.trans hivLen) _ _ _ fun hhost hlen => hhOut hhost hlen (by rw [hiv])
    conv => lhs; rw [hh, hiv]
  · obtain ⟨hh, hhLen, -, hhOut⟩ := hosted_frame r res.out tick r
    generalize r.hosted res.out tick r = p at hh hhLen hhOut
    obtain ⟨hiv, hivLen, hkeeps⟩ := emitIv_frame p res.ivOut tick
    generalize p.emitIv res.ivOut tick = q at hiv hivLen hkeeps
    refine advance_gaveOut ?_ (hivLen.trans hhLen) _ _ _ fun hhost hlen => ?_
    · conv => lhs; rw [hiv, hh]
    · obtain ⟨o, ho, h⟩ := hhOut hhost hlen rfl
      exact ⟨o, hkeeps o ho, h⟩

theorem done_rid (r : Request) (res : StepResult) (tick : Nat) : (r.done res tick).rid = r.rid := by
  have hadv : ∀ (q : Request) (out aux : Bytes), (q.advance out aux tick).rid = q.rid := by
    intro q out aux
    unfold Request.advance Request.updStep
    dsimp only
    (repeat' split) <;> rfl
  rw [done_eq, hadv]
  split
  · rw [(hosted_frame ..).1, (emitIv_frame ..).1]
  · rw [(emitIv_frame ..).1, (hosted_frame ..).1]

end Sys2Proof.Machine
end

section
/-! SUPPORT. A report keeps the requests it finds, and the release of results (04 R202; 07 R313 to R316, R318, R321, R322). -/
namespace Sys2Proof.Machine

/-- What a report leaves of a request: its identifier and its steps. -/
def Request.core (r : Request) : Nat × List StepState := (r.rid, r.steps)

/-- `t` has the requests of `s`, with their steps. -/
def State.sameRids (s t : State) : Prop := t.reqs.map Request.core = s.reqs.map Request.core

theorem sameRids_trans {s t u : State} (h1 : State.sameRids s t) (h2 : State.sameRids t u) : State.sameRids s u := h2.trans h1

theorem sameRids_of_reqs {s t : State} (h : t.reqs = s.reqs) : State.sameRids s t := congrArg (List.map Request.core) h

theorem sameRids_map {s t : State} (f : Request → Request) (hf : ∀ r, (f r).core = r.core) (h : t.reqs = s.reqs.map f) :
    State.sameRids s t := by
  unfold State.sameRids
  rw [h, List.map_map]
  exact congrArg (fun g => s.reqs.map g) (funext hf)

theorem req?_core (s : State) (rid : Nat) :
    (s.req? rid).map Request.core = (s.reqs.map Request.core).find? fun x => decide (x.1 = rid) := by
  rw [List.find?_map]
  rfl

theorem req?_sameSteps {s t : State} (h : State.sameRids s t) {rid : Nat} {r : Request} (hr : s.req? rid = some r) :
    ∃ q, t.req? rid = some q ∧ q.steps = r.steps := by
  have hcore : (t.req? rid).map Request.core = some r.core := by
    rw [req?_core, h, ← req?_core, hr]
    rfl
  obtain ⟨q, hq, hsame⟩ := Option.map_eq_some_iff.mp hcore
  exact ⟨q, hq, congrArg Prod.snd hsame⟩

theorem req?_sameRids {s t : State} (h : State.sameRids s t) {rid : Nat} {r : Request} (hr : s.req? rid = some r) :
    ∃ q, t.req? rid = some q := by
  obtain ⟨q, hq, -⟩ := req?_sameSteps h hr
  exact ⟨q, hq⟩

theorem discardPiece_core (b : Bool) (r : Request) : (discardPiece b r).core = r.core := rfl

theorem discardAt_rids (st pos : Nat) (s : State) : State.sameRids s (discardAt st pos s) :=
  sameRids_map _ (fun r => by
    (repeat' split)
    · rfl
    · exact discardPiece_core _ _
    · rfl) rfl

theorem discardInternal_rids (key pos : Nat) (s : State) : State.sameRids s (discardInternal key pos s) := by
  unfold discardInternal
  (repeat' split)
  · exact sameRids_map (fun r => { r with missLog := dropLevels pos r.missLog }) (fun _ => rfl) rfl
  · rfl
  · rfl
  · rfl

theorem retireLane_rids (key lane : Nat) (c : BitVec 16) (s : State) : State.sameRids s (retireLane key lane c s) := by
  unfold retireLane
  dsimp only
  (repeat' split)
  · rfl
  · rfl
  · exact sameRids_trans (discardAt_rids _ _ s) (sameRids_trans (discardInternal_rids _ _ _) rfl)
  · rfl

theorem takeAction_rids (a : Nat) (c : BitVec 16) (s : State) : State.sameRids s (takeAction a c s) := by
  unfold takeAction retireSource
  (repeat' split)
  · rfl
  · rfl
  · exact retireLane_rids _ _ _ _
  · rfl
  · rfl
  · rfl

theorem logReport_reqs (p : Bool) (c d : BitVec 16) (cl : SevClass) (s : State) : (logReport p c d cl s).reqs = s.reqs := by
  unfold logReport
  dsimp only
  split <;> rfl

theorem openWindow_rids (c : BitVec 16) (cl : SevClass) (s : State) : State.sameRids s (openWindow c cl s) := by
  unfold openWindow
  dsimp only
  (repeat' split)
  · rfl
  · rfl
  all_goals
    exact sameRids_trans (sameRids_trans (takeAction_rids _ _ (markRecords _ _ _ _)) (sameRids_of_reqs (logReport_reqs ..)))
      (takeAction_rids _ _ _)

theorem faultReport_rids (c d : BitVec 16) (s : State) : State.sameRids s (faultReport c d s) := by
  unfold faultReport reportAs
  dsimp only
  have hlog := sameRids_of_reqs (logReport_reqs false c d (severityOf s c) s)
  split
  · exact sameRids_trans hlog (openWindow_rids _ _ _)
  · split
    · exact sameRids_trans hlog (takeAction_rids _ _ _)
    · exact hlog

/-! ### Results that are given out -/

section
variable {s : State} {rid : Nat} {r : Request}

/-- A request that runs again. -/
def Request.resumed (r : Request) : Request := { r with stage := .running }

theorem resumed_desc (r : Request) : r.resumed.desc = r.desc := rfl

theorem resumed_step (r : Request) : r.resumed.step = r.step := rfl

theorem templateOf_updReq (s : State) (rid : Nat) (f : Request → Request) (t h : Nat) : templateOf (s.updReq rid f) t h = templateOf s t h := rfl

theorem recordNo_updReq (s : State) (rid : Nat) (f : Request → Request) (t h : Nat) : recordNo (s.updReq rid f) t h = recordNo s t h := rfl

theorem templateBytes_updReq (s : State) (rid : Nat) (f : Request → Request) (a n : Nat) :
    templateBytes (s.updReq rid f) a n = templateBytes s a n := by
  have hcurve : (s.updReq rid f).curveBytes = s.curveBytes := rfl
  unfold templateBytes
  rw [hcurve]

theorem oaepKeyOk_resumed (s : State) (rid : Nat) (r : Request) (v : Bytes) :
    oaepKeyOk (s.updReq rid Request.resumed) r.resumed v = oaepKeyOk s r v := by
  unfold oaepKeyOk
  rw [templateOf_updReq, resumed_desc]
  simp only [templateBytes_updReq]
  rfl

theorem resumed_kind (h : r.stage = .release) : r.resumed.kind = r.kind := by
  unfold Request.kind Request.resumed
  rw [h]
  rfl

/-- A request whose step is done, in a state that holds it as running. -/
theorem released_gaveOut (h : s.req? rid = some r) {s1 : State}
    (hs : s1.reqs = (s.updReq rid Request.resumed).reqs) (res : Request → StepResult) (hres : res r.resumed = res r) (tick : Nat) :
    ∃ q, (s1.updReq rid fun r => r.done (res r) tick).req? rid = some q ∧
      (∀ n, n ≠ rid → (s1.updReq rid fun r => r.done (res r) tick).req? n = s.req? n) ∧ Request.gaveOut r q (res r).out tick := by
  have hreq : ∀ n, s1.req? n = (s.updReq rid Request.resumed).req? n := fun n =>
    congrArg (List.find? fun x : Request => decide (x.rid = n)) hs
  have hself : s1.req? rid = some r.resumed := (hreq rid).trans (req?_updReq_same h fun _ => rfl)
  exact ⟨_, req?_updReq_same hself fun x => done_rid x (res x) tick,
    fun n hn => (req?_updReq_other hn s1 fun x => done_rid x (res x) tick).trans ((hreq n).trans (req?_updReq_other hn s fun _ => rfl)),
    hres ▸ done_gaveOut r.resumed (res r.resumed) tick⟩

theorem exec_holdRelease (h : s.req? rid = some r) (hstage : r.stage = .release) (hkind : r.kind = 0) (hready : r.readyTick ≤ s.now) :
    exec (.holdRelease rid) s =
      .next (writeReleased (s.updReq rid fun x => { x with stage := .running }.done (.done x.step.output) s.now)) := by
  change execHoldRelease rid s = _
  unfold execHoldRelease
  rw [h]
  exact if_neg (by simp [hstage, hkind]; omega)

/-- The state in which a result of SS is released. -/
def ssReleased (r : Request) (rid : Nat) (s : State) : State :=
  let s1 := s.updReq rid Request.resumed
  if Desc.op r.desc = 0x0602 ∨ Desc.op r.desc = 0x0605 then releaseKey r.resumed s1
  else if Desc.op r.desc = 0x0606 ∨ Desc.op r.desc = 0x0607 then releasePair r.resumed s1
  else s1.updReq rid fun x => x.done (.done x.step.output) s.now

theorem exec_ssResultRelease (h : s.req? rid = some r) (hstage : r.stage = .release) (hkind : r.kind = 5) (hready : r.readyTick ≤ s.now) :
    exec (.ssResultRelease rid) s = .next (writeReleased (ssReleased r rid s)) := by
  change execSsResultRelease rid s = _
  unfold execSsResultRelease ssReleased
  rw [h]
  dsimp only
  rw [if_neg (by simp [hstage, hkind]; omega)]
  split
  · rfl
  · split <;> rfl

/-- A key that is received enters the cache at once: nothing is evicted for it. -/
theorem receiveSlot_receiving {c : CacheSlot} (h : c.part = .receiving) (s : State) : receiveSlot c s =
    { s with ks := { s.ks with
        cache := (s.ks.cache.filter fun x => x.old || !x.pins.isEmpty || !(x.tenant = c.tenant && x.handle = c.handle)) ++ [c],
        invalid := s.ks.invalid.filter fun p => p ≠ (c.tenant, c.handle) } } := by
  unfold receiveSlot cachePut
  dsimp only
  rw [h, if_neg (by decide)]
  rfl

/-- A slot is received and its request's step done: the slot is in the cache, and the request has given its result out. -/
theorem received_gaveOut (h : s.req? rid = some r) {c : CacheSlot} (hc : c.part = .receiving) (res : Request → StepResult) (hres : res r.resumed = res r) {u : State}
    (hu : u = (receiveSlot c (s.updReq rid Request.resumed)).updReq rid fun r => r.done (res r) s.now) :
    u = { s with reqs := u.reqs,
                 ks := { s.ks with cache := u.ks.cache, invalid := s.ks.invalid.filter (fun p => p ≠ (c.tenant, c.handle)) } } ∧
      c ∈ u.ks.cache ∧
      ∃ q, u.req? rid = some q ∧ (∀ n, n ≠ rid → u.req? n = s.req? n) ∧ Request.gaveOut r q (res r).out s.now := by
  rw [receiveSlot_receiving hc] at hu
  subst hu
  exact ⟨rfl, List.mem_append_right _ (List.mem_singleton_self _), released_gaveOut h rfl res hres s.now⟩

end

/-- A key without its template's length, or of none, ends its request. -/
theorem releaseKey_fails {s : State} {rid : Nat} {r : Request} (h : s.req? rid = some r) (hkind : r.kind = 5)
    (hfail : r.step.newKey = none ∨ (Desc.op r.desc = 0x0605 ∧ ∃ v p, r.step.newKey = some (v, p) ∧ oaepKeyOk s r v = false)) :
    releaseKey r s = failRequest rid 0x17 0 s.now (s.updSs fun v => { v with refuse := satInc 0xFFFF v.refuse }) := by
  have hcount : countStep r 0x17 s = s.updSs fun v => { v with refuse := satInc 0xFFFF v.refuse } := by
    unfold countStep
    rw [hkind]
    rfl
  unfold releaseKey
  rw [← req_rid h]
  obtain hnone | ⟨hop, v, p, hsome, hbad⟩ := hfail
  · rw [hnone]
    dsimp only
    rw [hcount]
  · rw [hsome]
    dsimp only
    rw [if_pos ⟨hop, by simp [hbad]⟩, hcount]

/-- The slot of a key that is received: a key of `0x0602` is a secret of its template's purpose 4. -/
def receivedSlot (s : State) (r : Request) (x : Template) (v : Bytes) : CacheSlot :=
  let rec0 := newRecord s x (Desc.keyB r.desc) v [] x.exp
  recordSlot (if Desc.op r.desc = 0x0602 then { rec0 with usage := 4, secret := true } else rec0) .receiving (s.now + 1)

theorem receivedSlot_names (s : State) (r : Request) (x : Template) (v : Bytes) :
    (receivedSlot s r x v).part = .receiving ∧ (receivedSlot s r x v).tenant = x.tenant ∧
      (receivedSlot s r x v).handle = BitVec.ofNat 20 (Desc.keyB r.desc) ∧ (receivedSlot s r x v).value = v := by
  unfold receivedSlot
  dsimp only
  refine ⟨rfl, ?_, ?_, ?_⟩ <;> split <;> rfl

section
variable {s : State} {r : Request} {v p : Bytes} {x : Template}

theorem receiveKey_eq (htemplate : templateOf s r.tenant (Desc.keyB r.desc) = some x) (v : Bytes) :
    receiveKey r v s = receiveSlot (receivedSlot s r x v) s := by
  unfold receiveKey
  dsimp only
  rw [htemplate]
  rfl

/-- A key that is received, with its template's length where it was recovered. -/
theorem releaseKey_receives (hkey : r.step.newKey = some (v, p)) (htemplate : templateOf s r.tenant (Desc.keyB r.desc) = some x)
    (hop : Desc.op r.desc = 0x0602 ∨ (Desc.op r.desc = 0x0605 ∧ oaepKeyOk s r v = true)) :
    ∃ (c : CacheSlot) (res : StepResult), c.part = .receiving ∧ c.tenant = x.tenant ∧ c.handle = BitVec.ofNat 20 (Desc.keyB r.desc) ∧
      c.value = (if Desc.op r.desc = 0x0602 then v else keyForm x.alg.toNat v) ∧ res.out = [] ∧
      releaseKey r s = (receiveSlot c s).updReq r.rid fun q => q.done res s.now := by
  have hgood : ¬ (Desc.op r.desc = 0x0605 ∧ (!oaepKeyOk s r v) = true) := by
    rintro ⟨h5, hbad⟩
    obtain h | ⟨-, hok⟩ := hop
    · rw [h5] at h; exact absurd h (by decide)
    · rw [hok] at hbad; exact absurd hbad (by decide)
  have hvalue : (if Desc.op r.desc = 0x0605 then keyForm x.alg.toNat v else v) =
      if Desc.op r.desc = 0x0602 then v else keyForm x.alg.toNat v := by
    obtain h | ⟨h, -⟩ := hop <;> rw [h] <;> rfl
  unfold releaseKey
  rw [hkey]
  dsimp only
  rw [if_neg hgood, htemplate, receiveKey_eq htemplate]
  dsimp only [Option.map, Option.getD]
  rw [hvalue]
  obtain ⟨h1, h2, h3, h4⟩ := receivedSlot_names s r x (if Desc.op r.desc = 0x0602 then v else keyForm x.alg.toNat v)
  exact ⟨_, _, h1, h2, h3, h4, rfl, rfl⟩

theorem storeKey_eq (htemplate : templateOf s r.tenant (Desc.keyB r.desc) = some x) (v p : Bytes) (e b : Bool) :
    storeKey r v p e b s = if (recordNo s r.tenant (Desc.keyB r.desc)).isNone then
        receiveSlot (recordSlot (newRecord s x (Desc.keyB r.desc) v p (e && x.exp)) .receiving (s.now + 1)) s
      else s.updKs fun k => { k with commits := k.commits ++
        [{ Commit.reset with record := newRecord s x (Desc.keyB r.desc) v p (e && x.exp), rid := some r.rid,
                             replace := Desc.op r.desc == 0x0700 && Desc.opxF r.desc 7 1 == 1, cached := b }] } := by
  unfold storeKey
  dsimp only
  split
  · rename_i h; rw [htemplate] at h; exact absurd h (by simp)
  · rename_i y h
    obtain rfl := Option.some.inj (htemplate.symm.trans h)
    rfl

theorem releasePair_eq (hkey : r.step.newKey = some (v, p)) : releasePair r s =
    (if (recordNo s r.tenant (Desc.keyB r.desc)).isNone then
      (storeKey r v p (((templateOf s r.tenant (Desc.keyB r.desc)).map Template.exp).getD false) true s).updReq r.rid
        fun q => q.done (.done q.step.output) s.now
    else (storeKey r v p (((templateOf s r.tenant (Desc.keyB r.desc)).map Template.exp).getD false) true s).updReq r.rid
        fun q => { q with stage := .commit }) := by
  unfold releasePair
  rw [hkey]
  dsimp only
  have hstore : ∃ k, storeKey r v p (((templateOf s r.tenant (Desc.keyB r.desc)).map Template.exp).getD false) true s =
      { s with ks := k } := by
    unfold storeKey
    dsimp only
    (repeat' split)
    · exact ⟨s.ks, rfl⟩
    · exact ⟨_, receiveSlot_receiving rfl s⟩
    · exact ⟨_, rfl⟩
  obtain ⟨k, hk⟩ := hstore
  rw [hk]
  rfl

/-- A generated pair whose handle has no record. -/
theorem releasePair_receives (hkey : r.step.newKey = some (v, p)) (htemplate : templateOf s r.tenant (Desc.keyB r.desc) = some x)
    (hrec : recordNo s r.tenant (Desc.keyB r.desc) = none) :
    ∃ c : CacheSlot, c.part = .receiving ∧ c.tenant = x.tenant ∧ c.handle = BitVec.ofNat 20 (Desc.keyB r.desc) ∧ c.value = v ∧
      releasePair r s = (receiveSlot c s).updReq r.rid fun q => q.done (.done q.step.output) s.now := by
  have hnone : (recordNo s r.tenant (Desc.keyB r.desc)).isNone = true := by rw [hrec]; rfl
  rw [releasePair_eq hkey, if_pos hnone, storeKey_eq htemplate, if_pos hnone]
  exact ⟨_, rfl, rfl, rfl, rfl, rfl⟩

/-- A generated pair whose handle has a record, which is committed before the request goes on. -/
theorem releasePair_commits (hkey : r.step.newKey = some (v, p)) (htemplate : templateOf s r.tenant (Desc.keyB r.desc) = some x)
    (hrec : recordNo s r.tenant (Desc.keyB r.desc) ≠ none) :
    ∃ c : Commit, c.rid = some r.rid ∧ c.record.value = v ∧ c.record.pub = p ∧ c.record.handle = BitVec.ofNat 20 (Desc.keyB r.desc) ∧
      releasePair r s = (s.updKs fun k => { k with commits := k.commits ++ [c] }).updReq r.rid fun q => { q with stage := .commit } := by
  have hsome : ¬ (recordNo s r.tenant (Desc.keyB r.desc)).isNone = true := by simpa using hrec
  rw [releasePair_eq hkey, if_neg hsome, storeKey_eq htemplate, if_neg hsome]
  exact ⟨_, rfl, rfl, rfl, rfl, rfl⟩

end

/-- A signature whose check fails: its request ends, and its pair is reported and counted. -/
theorem exec_rsaCrtCheck {s : State} {rid : Nat} {r : Request} (h : s.req? rid = some r) (hstage : r.stage = .crtCheck)
    (hfin : r.finished = true) (hpiece : r.pieceTick < s.now) (hrun : isRestarting s 4 = false) :
    exec (.rsaCrtCheck rid) s = if crtCheck r.check then
        .next (s.updReq rid fun r => { r with stage := .release, readyTick := s.now, finished := false })
      else .next (failRequest rid 0x3F r.signSrc s.now
        (faultReport r.signSrc 0 (s.updSs fun v => { v with crtFail := satInc 0xFFFF v.crtFail }))) := by
  change execRsaCrtCheck rid s = _
  unfold execRsaCrtCheck
  rw [h]
  exact if_neg (by simp [hstage, hfin, hrun]; omega)

/-- Settles O27: each release command gives the step's result out, keeps its key, begins its commit, or ends its request. -/
theorem releasesFollowChecks : Obligations.ReleasesFollowChecks := by
  unfold Obligations.ReleasesFollowChecks
  refine ⟨fun s rid r h hstage hkind hready => ?_, fun s rid r h hstage hkind hready => ?_,
    fun s rid r h hstage hfin hpiece hrun => ⟨fun hok => ?_, fun hbad => ?_⟩⟩
  · exact ⟨_, _, exec_holdRelease h hstage hkind hready, rfl, req?_updReq_same h fun x => done_rid _ _ _,
      fun n hn => req?_updReq_other hn s fun x => done_rid _ _ _, done_gaveOut r.resumed _ _⟩
  · have hexec := exec_ssResultRelease h hstage hkind hready
    have hrid : r.rid = rid := req_rid h
    have hself : (s.updReq rid Request.resumed).req? rid = some r.resumed :=
      req?_updReq_same h fun _ => rfl
    unfold ssReleased at hexec
    dsimp only at hexec
    refine ⟨fun h2 h5 h6 h7 => ?_, fun hop hfail => ?_, fun v p x hkey htemplate w hw => ⟨fun hop => ?_, fun hop => ?_⟩⟩
    · rw [if_neg (by simp [h2, h5]), if_neg (by simp [h6, h7])] at hexec
      obtain ⟨q, hq, hothers, hout⟩ := released_gaveOut h (s1 := s.updReq rid Request.resumed) rfl
        (fun x => .done x.step.output) rfl s.now
      exact ⟨_, q, hexec, rfl, hq, hothers, hout⟩
    · have hkind' : r.resumed.kind = 5 := (resumed_kind hstage).trans hkind
      rw [if_pos hop, releaseKey_fails hself hkind' (by simpa only [resumed_desc, resumed_step, oaepKeyOk_resumed] using hfail)] at hexec
      have hfirst : State.endsOnly s ((s.updReq rid Request.resumed).updSs
        fun v => { v with refuse := satInc 0xFFFF v.refuse }) := rfl
      have hself' : ((s.updReq rid Request.resumed).updSs fun v => { v with refuse := satInc 0xFFFF v.refuse }).req? rid =
          some r.resumed := hself
      generalize (s.updReq rid Request.resumed).updSs (fun v => { v with refuse := satInc 0xFFFF v.refuse }) = s1 at hfirst hself' hexec
      have hnow : (s.updReq rid Request.resumed).now = s.now := rfl
      rw [hnow] at hexec
      obtain ⟨hends, -, hstatus⟩ := failRequest_ends hself' 0x17 0 s.now rfl
      generalize failRequest rid 0x17 0 s.now s1 = u at hends hstatus hexec
      refine ⟨u, hexec, endsOnly_trans hfirst hends, ?_⟩
      obtain ⟨-, hend⟩ | ⟨-, q, hq, hstg, hfinal⟩ := hstatus
      · exact .inl ⟨_, hend, hrid, rfl, rfl⟩
      · exact .inr ⟨q, hq, hstg, hfinal⟩
    · subst hw
      obtain ⟨c, res, hpart, htenant, hhandle, hvalue, hout, hkeyed⟩ := releaseKey_receives
        (s := s.updReq rid Request.resumed) (r := r.resumed) hkey htemplate
        (by rw [resumed_desc, oaepKeyOk_resumed]; exact hop)
      rw [if_pos (hop.imp_right And.left)] at hexec
      have hkeyed' : releaseKey r.resumed (s.updReq rid Request.resumed) =
          (receiveSlot c (s.updReq rid Request.resumed)).updReq rid fun q => q.done res s.now := by
        rw [hkeyed]
        exact congrArg (fun n => State.updReq _ n _) hrid
      obtain ⟨hu, hcache, q, hq, hothers, hgave⟩ := received_gaveOut h hpart (fun _ => res) rfl hkeyed'
      refine ⟨_, q, hexec, ?_, hq, hothers, ?_, c, hcache, hpart, htenant, hhandle, hvalue⟩
      · rw [← htenant, ← (show c.handle = BitVec.ofNat 20 (Desc.keyB r.desc) from hhandle)]; exact hu
      · rw [← hout]; exact hgave
    · have hno : ¬ (Desc.op r.desc = 0x0602 ∨ Desc.op r.desc = 0x0605) := by
        obtain hop | hop := hop <;> rw [hop] <;> decide
      rw [if_neg hno, if_pos hop] at hexec
      refine ⟨fun hrec => ?_, fun hrec => ?_⟩
      · subst hw
        obtain ⟨c, hpart, htenant, hhandle, hvalue, hpair⟩ := releasePair_receives
          (s := s.updReq rid Request.resumed) (r := r.resumed) hkey htemplate hrec
        have hpair' : releasePair r.resumed (s.updReq rid Request.resumed) =
            (receiveSlot c (s.updReq rid Request.resumed)).updReq rid
              fun q => q.done (.done q.step.output) s.now := by
          rw [hpair]
          exact congrArg (fun n => State.updReq _ n _) hrid
        obtain ⟨hu, hcache, q, hq, hothers, hgave⟩ := received_gaveOut h hpart (fun q => .done q.step.output) rfl hpair'
        refine ⟨_, q, hexec, ?_, hq, hothers, hgave, c, hcache, hpart, htenant, hhandle, hvalue⟩
        rw [← htenant, ← (show c.handle = BitVec.ofNat 20 (Desc.keyB r.desc) from hhandle)]; exact hu
      · obtain ⟨c, hc, hvalue, hpub, hhandle, hpair⟩ := releasePair_commits
          (s := s.updReq rid Request.resumed) (r := r.resumed) hkey htemplate hrec
        refine ⟨_, c, hexec, ?_, hc.trans (congrArg some hrid), hvalue, hpub, hhandle⟩
        have hmap : (s.reqs.map fun q => if q.rid = rid then q.resumed else q).map
            (fun q => if q.rid = rid then { q with stage := .commit } else q) =
            s.reqs.map fun q => if q.rid = rid then { q with stage := .commit } else q := by
          rw [List.map_map]
          refine List.map_congr_left fun q _ => ?_
          by_cases hq : q.rid = rid <;> simp [hq, Request.resumed]
        rw [hpair, ← hmap]
        exact congrArg (fun n => State.updReq ((s.updReq rid Request.resumed).updKs
          fun k => { k with commits := k.commits ++ [c] }) n fun q => { q with stage := .commit }) hrid
  · rw [exec_rsaCrtCheck h hstage hfin hpiece hrun, if_pos hok]
    rfl
  · have hexec := exec_rsaCrtCheck h hstage hfin hpiece hrun
    rw [if_neg (by simp [hbad])] at hexec
    have hcount : State.endsOnly s (s.updSs fun v => { v with crtFail := satInc 0xFFFF v.crtFail }) := rfl
    have hself : (s.updSs fun v => { v with crtFail := satInc 0xFFFF v.crtFail }).req? rid = some r := h
    have hcrt : (s.updSs fun v => { v with crtFail := satInc 0xFFFF v.crtFail }).ss.crtFail = min 0xFFFF (s.ss.crtFail + 1) := rfl
    have hnow : (s.updSs fun v => { v with crtFail := satInc 0xFFFF v.crtFail }).now = s.now := rfl
    generalize s.updSs (fun v => { v with crtFail := satInc 0xFFFF v.crtFail }) = s1 at hcount hself hcrt hnow hexec
    have hreport := faultReport_only r.signSrc 0 s1
    have hreported := faultReport_reported r.signSrc 0 s1
    obtain ⟨q, hq⟩ := req?_sameRids (faultReport_rids r.signSrc 0 s1) hself
    generalize faultReport r.signSrc 0 s1 = s2 at hreport hreported hq hexec
    obtain ⟨-, -, hss⟩ := failRequest_only hq 0x3F r.signSrc s.now (.inr (by decide))
    obtain ⟨hends, hflt, hstatus⟩ := failRequest_ends hq 0x3F r.signSrc s.now rfl
    generalize failRequest rid 0x3F r.signSrc s.now s2 = t at hss hends hflt hstatus hexec
    obtain ⟨hgone, hend⟩ | ⟨hcuts, -⟩ := hstatus
    · refine ⟨t, hexec, endsOnly_trans hcount (endsOnly_trans (endsOnly_of_reports hreport) hends), hgone, ?_, ?_,
        _, hend, req_rid hq, rfl, rfl⟩
      · exact endsOnly_reported hends hflt hreported
      · rw [hss]
        exact (congrArg (fun x => x.ss.crtFail) hreport :).trans hcrt
    · exact absurd hcuts (by decide)

end Sys2Proof.Machine
end

section
/-! SUPPORT. Dumps, and restarts of the control processors (01 R46; 08 R342; 12 R488). -/
namespace Sys2Proof.Machine

/-- `t` differs from `s` at most in the tenants' pages and in the Registrar's mailbox and its interrupt sources. -/
def State.boxesOnly (s t : State) : Prop :=
  t = { s with tenants := t.tenants, mgmt := { s.mgmt with intStatus := t.mgmt.intStatus, mbo := t.mgmt.mbo } }

theorem boxesOnly_trans {s t u : State} (h1 : State.boxesOnly s t) (h2 : State.boxesOnly t u) : State.boxesOnly s u := by
  unfold State.boxesOnly at *
  rw [h2, h1]

theorem boxesOnly_image {s t : State} (h : State.boxesOnly s t) : t.image = s.image := by
  rw [h]
  rfl

theorem abortBox_boxesOnly (s : State) (b : Box) : State.boxesOnly s (abortBox s b) := by
  unfold abortBox
  dsimp only
  split
  · cases b <;> rfl
  · rfl

theorem foldl_abortBox_boxesOnly (l : List Box) (s : State) : State.boxesOnly s (l.foldl abortBox s) := by
  induction l generalizing s with
  | nil => rfl
  | cons b l ih => exact boxesOnly_trans (abortBox_boxesOnly s b) (ih _)

theorem loseRequests_frame (s : State) : ∃ v k x l, loseRequests s =
    { s with mgmt := { s.mgmt with replies := [] }, vs := v, ks := k, ss := x, cfg := { s.cfg with coSeq := none }, lc := l } :=
  ⟨_, _, _, _, rfl⟩

theorem loseRequests_leaves (s : State) : (loseRequests s).procs = s.procs ∧ (loseRequests s).flt = s.flt ∧
    (loseRequests s).tick = s.tick ∧ (loseRequests s).image = s.image ∧ (loseRequests s).mgmt.held = s.mgmt.held ∧
    (loseRequests s).mgmt.holder = s.mgmt.holder := by
  obtain ⟨v, k, x, l, h⟩ := loseRequests_frame s
  rw [h]
  exact ⟨rfl, rfl, rfl, rfl, rfl, rfl⟩

/-- What the Registrar loses as it restarts: its processor, the reports and the lock stay (11 R453). -/
theorem clearOutboxes_leaves (s : State) : (clearOutboxes s).procs = s.procs ∧ (clearOutboxes s).flt = s.flt ∧
    (clearOutboxes s).tick = s.tick ∧ (clearOutboxes s).image = s.image ∧ (clearOutboxes s).mgmt.held = s.mgmt.held ∧
    (clearOutboxes s).mgmt.holder = s.mgmt.holder := by
  have h := foldl_abortBox_boxesOnly boxes s
  have hlose := loseRequests_leaves (boxes.foldl abortBox s)
  have himage := boxesOnly_image h
  unfold clearOutboxes
  obtain ⟨h1, h2, h3, h4, h5, h6⟩ := hlose
  generalize boxes.foldl abortBox s = t at h himage h1 h2 h3 h4 h5 h6 ⊢
  exact ⟨h1.trans (congrArg State.procs h :), h2.trans (congrArg State.flt h :), h3.trans (congrArg State.tick h :), h4.trans himage,
    h5.trans (congrArg (fun x => x.mgmt.held) h :), h6.trans (congrArg (fun x => x.mgmt.holder) h :)⟩

theorem dumpBytes_ne_nil (s : State) (st tick seq : Nat) : (dumpBytes s st tick seq).isEmpty = false := rfl

/-- The dump is written to its slot, and to the window where there is one. -/
theorem writeDump_eq (st tick : Nat) (s : State) : writeDump st tick s =
    { s with
      fab := { s.fab with mgmt := s.fab.mgmt ++ (if s.image.dumpBase != 0 then
        [{ proc := 1, write := true, addr := BitVec.ofNat 64 s.image.dumpBase.toNat,
           left := (dumpBytes s st tick (s.nvm.dumpSeq + 1)).length, data := dumpBytes s st tick (s.nvm.dumpSeq + 1),
           sym := symbolsOf (dumpBytes s st tick (s.nvm.dumpSeq + 1)) }] else []) }
      nvm := if olderSlot s.nvm then
          { s.nvm with dump1 := some (dumpBytes s st tick (s.nvm.dumpSeq + 1)), dumpSeq := s.nvm.dumpSeq + 1 }
        else { s.nvm with dump0 := some (dumpBytes s st tick (s.nvm.dumpSeq + 1)), dumpSeq := s.nvm.dumpSeq + 1 }
      flt := { s.flt with
        dumpDue := s.flt.dumpDue.drop 1, dumpState := if s.flt.dumpDue.length > 1 then 1 else 2, dumpSlot := olderSlot s.nvm,
        dumpHost := false, hostBad := false } } := by
  have hbytes := dumpBytes_ne_nil s st tick (s.nvm.dumpSeq + 1)
  unfold writeDump startWrite
  dsimp only
  generalize dumpBytes s st tick (s.nvm.dumpSeq + 1) = b at hbytes
  rw [hbytes]
  split
  · rfl
  · rw [List.append_nil]
    rfl

theorem exec_dumpWrite {s : State} {d : Nat × BitVec 16 × Nat} {l : List (Nat × BitVec 16 × Nat)} (h : s.flt.dumpDue = d :: l)
    (hproc : procWorks s 1 = true) (hlow : s.pwr.nvmLow = false) (hthere : s.nvm.present = true) (good : Bool) :
    exec (.dumpWrite good) s = if good then .next (writeDump d.1 d.2.2 s)
      else .next ((nvmFailed s).updFlt fun f => { f with dumpDue := f.dumpDue.drop 1, dumpState := 3 }) := by
  change execDumpWrite good s = _
  unfold execDumpWrite
  rw [h]
  exact if_neg (by simp [hproc, hlow, hthere])

theorem exec_dumpWrite_none {s : State} (h : s.flt.dumpDue = [] ∨ procWorks s 1 = false ∨ s.pwr.nvmLow = true ∨ s.nvm.present = false)
    (good : Bool) : exec (.dumpWrite good) s = .next s := by
  change execDumpWrite good s = _
  unfold execDumpWrite
  cases hdue : s.flt.dumpDue with
  | nil => rfl
  | cons d l =>
    refine if_pos ?_
    obtain h | h | h | h := h
    · rw [hdue] at h; exact absurd h (by simp)
    all_goals simp [h]

theorem exec_lockstepMismatch {s : State} {p : Fin 3} (hup : s.mainUp = true) (hproc : procWorks s p = true) :
    exec (.lockstepMismatch p) s =
      .next (assertBlk 5 (faultReport (sourceId 7 4 p.val 20) 0 (s.updProc p fun x => { x with restart := some s.now }))) := by
  change execLockstepMismatch p s = _
  unfold execLockstepMismatch
  exact if_neg (by simp [hup, hproc])

theorem reportsOnly_withMgmt {s t : State} (h : State.reportsOnly s t) (m : Mgmt) :
    State.reportsOnly { s with mgmt := m } { t with mgmt := m } := by
  unfold State.reportsOnly at *
  conv => lhs; rw [h]

/-- The state in which a processor has resumed. -/
def procResumed (p : Fin 3) (s : State) : State := s.updProc p fun x => { x with restart := none }

/-- A processor that has taken more than 64 ticks: a stall is reported, and a lock it held is free. -/
def procStalled (p : Fin 3) (s : State) : State :=
  (faultReport (sourceId 7 4 p.val 21) 0 (procResumed p s)).updMgmt fun m =>
    if m.held && m.src && m.holder == procIdent p then freeLock m else m

theorem exec_controlProcessorResume {s : State} {p : Fin 3} {k : Nat} (h : s.procs[p].restart = some k) :
    exec (.controlProcessorResume p) s = if s.now ≤ k + 64 then .next (procResumed p s)
      else .next (if p = 2 then clearOutboxes (procStalled p s) else procStalled p s) := by
  change execControlProcessorResume p s = _
  unfold execControlProcessorResume
  rw [h]
  rfl

theorem procResumed_proc (p : Fin 3) (s : State) : (procResumed p s).procs[p].restart = none := by
  unfold procResumed State.updProc
  simp

/-- A stall is reported, and changes the lock alone besides. -/
theorem procStalled_leaves (p : Fin 3) (s : State) : (procStalled p s).reported (sourceId 7 4 p.val 21) ∧
    (procStalled p s).procs = (procResumed p s).procs ∧
    State.reportsOnly { procResumed p s with mgmt := (procStalled p s).mgmt } (procStalled p s) ∧
    (procStalled p s).mgmt = { s.mgmt with
      held := (procStalled p s).mgmt.held, src := (procStalled p s).mgmt.src, holder := (procStalled p s).mgmt.holder,
      remain := (procStalled p s).mgmt.remain, intStatus := (procStalled p s).mgmt.intStatus } ∧
    (s.mgmt.held = true → s.mgmt.src = true → s.mgmt.holder = procIdent p → (procStalled p s).mgmt.held = false) ∧
    (s.mgmt.src = false → (procStalled p s).mgmt.held = s.mgmt.held ∧ (procStalled p s).mgmt.holder = s.mgmt.holder) := by
  unfold procStalled
  have honly := faultReport_only (sourceId 7 4 p.val 21) 0 (procResumed p s)
  have hreported := faultReport_reported (sourceId 7 4 p.val 21) 0 (procResumed p s)
  generalize faultReport (sourceId 7 4 p.val 21) 0 (procResumed p s) = t at honly hreported
  have hmgmt : t.mgmt = { s.mgmt with intStatus := t.mgmt.intStatus } := (congrArg State.mgmt honly :)
  have hprocs : t.procs = (procResumed p s).procs := (congrArg State.procs honly :)
  unfold State.updMgmt
  dsimp only
  refine ⟨hreported, hprocs, ?_, ?_, fun hh hs ho => ?_, fun hs => ?_⟩
  · exact reportsOnly_withMgmt honly _
  · split
    · rw [hmgmt]; rfl
    · rw [hmgmt]
  · rw [hmgmt, if_pos (by simp [hh, hs, ho])]
    rfl
  · rw [hmgmt, if_neg (by simp [hs])]
    exact ⟨rfl, rfl⟩

/-- Settles O38: a dump is written or counted as failed, and a processor restarts, resumes, or stalls. -/
theorem processorsAndDumps : Obligations.ProcessorsAndDumps := by
  unfold Obligations.ProcessorsAndDumps
  refine ⟨fun s d l hdue hproc hlow hthere => ⟨⟨writeDump d.1 d.2.2 s, exec_dumpWrite hdue hproc hlow hthere true, ?_⟩, ?_⟩,
    fun s good h => exec_dumpWrite_none h good, fun s p hup hproc => ?_, fun s p k hrestart => ⟨fun hsoon => ?_, fun hlate => ?_⟩⟩
  · have hstate : (if s.flt.dumpDue.length > 1 then 1 else 2 : BitVec 2) = if l = [] then 2 else 1 := by
      rw [hdue]
      cases l <;> simp
    rw [writeDump_eq, hstate, hdue]
    refine ⟨rfl, rfl, fun hbase => ?_, fun hbase => ?_, rfl, rfl⟩
    · dsimp only
      rw [if_neg (by simp [hbase]), List.append_nil]
    · dsimp only
      rw [if_pos (by simpa using hbase)]
      exact ⟨_, rfl, rfl, rfl, by simp, rfl⟩
  · rw [exec_dumpWrite hdue hproc hlow hthere]
    unfold State.updFlt nvmFailed
    dsimp only
    rw [State.updNvm_flt, hdue]
    rfl
  · have honly := assertBlk_faultReport_only 5 (sourceId 7 4 p.val 20) 0 (s.updProc p fun x => { x with restart := some s.now })
    have hprocs := (congrArg State.procs honly :)
    refine ⟨_, exec_lockstepMismatch hup hproc, ?_, ?_, fun q hq => ?_, assertBlk_faultReport_reported _ _ _ _, assertBlk_bit 5 (by decide) _⟩
    · rw [hprocs]
      exact honly
    · rw [hprocs]
      simp [State.updProc]
    · rw [hprocs]
      simp [State.updProc, Fin.val_inj, hq.symm]
  · rw [exec_controlProcessorResume hrestart, if_pos hsoon]
    rfl
  · have hexec := exec_controlProcessorResume hrestart
    rw [if_neg (by omega)] at hexec
    obtain ⟨hreported, hprocs, honly, hmgmt, hfree, hkeep⟩ := procStalled_leaves p s
    have hproc := procResumed_proc p s
    rw [← hprocs] at hproc
    have hresumed : procResumed p s = { s with procs := s.procs.set p { s.procs[p] with restart := none } } := rfl
    generalize procStalled p s = t at hexec hreported hprocs honly hmgmt hfree hkeep hproc
    refine ⟨_, hexec, ?_⟩
    by_cases hp : p = 2
    · obtain ⟨h1, h2, h3, h4, h5, h6⟩ := clearOutboxes_leaves t
      rw [if_pos hp]
      exact ⟨by rw [h1]; exact hproc, fun h => absurd hp h,
        reported_of_kept (recordsKept_of_recent h3 h4 (congrArg Faults.recent h2)) hreported,
        fun a b c => h5.trans (hfree a b c), fun h => ⟨h5.trans (hkeep h).1, h6.trans (hkeep h).2⟩⟩
    · rw [if_neg hp]
      refine ⟨hproc, fun _ => ?_, hreported, hfree, hkeep⟩
      unfold State.reportsOnly at honly ⊢
      rw [hresumed] at honly
      refine honly.trans ?_
      conv => lhs; rw [hmgmt]

end Sys2Proof.Machine
end

section
/-! SUPPORT. What a report leaves of the collector's other parts, and the records of proofs (12 R482, R486). -/
namespace Sys2Proof.Machine

/-- `g` differs from `f` in what a response to a report changes: stations due, roles and retirements. -/
def Faults.responds (f g : Faults) : Prop :=
  g = { f with due := g.due, roles := g.roles, retiring := g.retiring, retired := g.retired }

theorem retireLane_responds (key lane : Nat) (c : BitVec 16) (s : State) : Faults.responds s.flt (retireLane key lane c s).flt := by
  unfold retireLane
  dsimp only
  split
  · rfl
  · split
    · rfl
    · unfold Faults.responds setRole State.updFlt
      dsimp only
      split
      · rw [discardInternal_flt]; rfl
      · rfl

theorem takeAction_responds (a : Nat) (c : BitVec 16) (s : State) : Faults.responds s.flt (takeAction a c s).flt := by
  unfold takeAction retireSource
  (repeat' split)
  · rfl
  · rfl
  · exact retireLane_responds _ _ _ _
  · rfl
  · rfl
  · rfl

/-- `g` differs from `f` in what a report changes: records, the latch, counts, windows and its response. -/
def Faults.reports (f g : Faults) : Prop :=
  g = { f with due := g.due, roles := g.roles, retiring := g.retiring, retired := g.retired, recent := g.recent, queue := g.queue,
               qdrop := g.qdrop, fValid := g.fValid, fSev := g.fSev, fSource := g.fSource, fTick := g.fTick, fOvf := g.fOvf,
               later := g.later, total := g.total, counts := g.counts, timers := g.timers }

theorem reports_trans {f g h : Faults} (h1 : Faults.reports f g) (h2 : Faults.reports g h) : Faults.reports f h := by
  unfold Faults.reports at *
  rw [h2, h1]

theorem reports_of_responds {f g : Faults} (h : Faults.responds f g) : Faults.reports f g := by
  unfold Faults.responds at h
  unfold Faults.reports
  rw [h]

theorem record_reports (r : FaultRec) (f : Faults) : Faults.reports f (record r f) := by
  unfold record
  dsimp only
  split <;> rfl

theorem latch_reports (m v : Nat) (c : BitVec 16) (n : BitVec 64) (f : Faults) : Faults.reports f (latch m v c n f) := by
  unfold latch
  (repeat' split) <;> rfl

theorem countReport_reports (c : BitVec 16) (f : Faults) : Faults.reports f (countReport c f) := rfl

theorem logReport_reports (p : Bool) (c d : BitVec 16) (cl : SevClass) (s : State) : Faults.reports s.flt (logReport p c d cl s).flt := by
  have h : ∀ r, Faults.reports s.flt (countReport c (latch s.image.latchMin cl.sev c s.tick (record r s.flt))) := fun r =>
    reports_trans (reports_trans (record_reports r s.flt) (latch_reports _ _ _ _ _)) (countReport_reports c _)
  unfold logReport
  dsimp only
  split <;> exact h _

theorem openWindow_reports (c : BitVec 16) (cl : SevClass) (s : State) : Faults.reports s.flt (openWindow c cl s).flt := by
  unfold openWindow
  dsimp only
  split
  · rfl
  · split
    · rfl
    · exact reports_trans (reports_trans (reports_trans (show Faults.reports s.flt (markRecords c s.now _ s).flt from rfl)
        (reports_of_responds (takeAction_responds _ _ _))) (logReport_reports _ _ _ _ _)) (reports_of_responds (takeAction_responds _ _ _))

theorem reportAs_reports (p : Bool) (c d : BitVec 16) (s : State) : Faults.reports s.flt (reportAs p c d s).flt := by
  unfold reportAs
  dsimp only
  split
  · exact reports_trans (logReport_reports _ _ _ _ _) (openWindow_reports _ _ _)
  · split
    · exact reports_trans (logReport_reports _ _ _ _ _) (reports_of_responds (takeAction_responds _ _ _))
    · exact logReport_reports _ _ _ _ _

/-! ### Records with PROOF -/

/-- A record of a source in a tick that has PROOF. -/
def proofIn (c : BitVec 16) (n : Nat) (l : List FaultRec) : Prop := ∃ r ∈ l, r.source = c ∧ r.tick = n ∧ r.proof = true

theorem proofIn_addRecord_self {r : FaultRec} (hr : r.proof = true) (l : List FaultRec) : proofIn r.source r.tick (addRecord r l) := by
  induction l with
  | nil => exact ⟨r, List.mem_singleton_self r, rfl, rfl, hr⟩
  | cons x l ih =>
    unfold addRecord
    split
    · rename_i h
      exact ⟨_, List.mem_cons_self, h.1, h.2, by simp [FaultRec.merge, hr]⟩
    · obtain ⟨q, hq, h⟩ := ih
      exact ⟨q, List.mem_cons_of_mem _ hq, h⟩

theorem proofIn_addRecord {c : BitVec 16} {n : Nat} {l : List FaultRec} (h : proofIn c n l) (r : FaultRec) : proofIn c n (addRecord r l) := by
  induction l with
  | nil => obtain ⟨q, hq, -⟩ := h; exact absurd hq (by simp)
  | cons x l ih =>
    obtain ⟨q, hq, hsrc, htick, hproof⟩ := h
    unfold addRecord
    split
    · obtain rfl | hq := List.mem_cons.mp hq
      · exact ⟨_, List.mem_cons_self, hsrc, htick, by simp [FaultRec.merge, hproof]⟩
      · exact ⟨q, List.mem_cons_of_mem _ hq, hsrc, htick, hproof⟩
    · obtain rfl | hq := List.mem_cons.mp hq
      · exact ⟨_, List.mem_cons_self, hsrc, htick, hproof⟩
      · obtain ⟨y, hy, h⟩ := ih ⟨q, hq, hsrc, htick, hproof⟩
        exact ⟨y, List.mem_cons_of_mem _ hy, h⟩

theorem proofIn_record_self {r : FaultRec} (hr : r.proof = true) (f : Faults) : proofIn r.source r.tick (record r f).recent := by
  rw [record_recent]
  exact proofIn_addRecord_self hr _

theorem proofIn_record {c : BitVec 16} {n : Nat} {f : Faults} (h : proofIn c n f.recent) {r : FaultRec} (hn : r.tick = n) :
    proofIn c n (record r f).recent := by
  rw [record_recent]
  refine proofIn_addRecord ?_ r
  obtain ⟨q, hq, hsrc, htick, hproof⟩ := h
  exact ⟨q, List.mem_filter.mpr ⟨hq, by simp [htick, hn]⟩, hsrc, htick, hproof⟩

theorem logReport_now (p : Bool) (c d : BitVec 16) (cl : SevClass) (s : State) : (logReport p c d cl s).now = s.now :=
  congrArg BitVec.toNat (logReport_kept p c d cl s).1.1

theorem logReport_recent_eq (p : Bool) (c d : BitVec 16) (cl : SevClass) (s : State) : (logReport p c d cl s).flt.recent =
    (record { FaultRec.reset with tick := s.now, source := c, severity := cl.sev, proof := p, promoted := cl.promoted,
                                  count := 1, action := cl.sev == 2 || cl.sev ≥ 4, detail := d } s.flt).recent := by
  unfold logReport
  dsimp only
  split <;> exact latch_recent _ _ _ _ _

/-- `t` keeps the tick and the records of `s` in it that have PROOF. -/
def State.proofsKept (s t : State) : Prop := t.now = s.now ∧ ∀ c, proofIn c s.now s.flt.recent → proofIn c s.now t.flt.recent

theorem proofsKept_trans {s t u : State} (h1 : State.proofsKept s t) (h2 : State.proofsKept t u) : State.proofsKept s u :=
  ⟨h2.1.trans h1.1, fun c h => by rw [← h1.1]; exact h2.2 c (by rw [h1.1]; exact h1.2 c h)⟩

theorem takeAction_proofs (a : Nat) (c : BitVec 16) (s : State) : State.proofsKept s (takeAction a c s) :=
  ⟨congrArg BitVec.toNat (takeAction_records a c s).1.1, fun x h => by rw [takeAction_responds a c s]; exact h⟩

theorem logReport_proofs (p : Bool) (c d : BitVec 16) (cl : SevClass) (s : State) : State.proofsKept s (logReport p c d cl s) :=
  ⟨logReport_now p c d cl s, fun x h => by rw [logReport_recent_eq]; exact proofIn_record h rfl⟩

theorem markRecords_proofs (c : BitVec 16) (s : State) :
    State.proofsKept s (markRecords c s.now (fun x => { x with action := true }) s) := by
  refine ⟨rfl, fun x ⟨r, hr, hsrc, htick, hproof⟩ => ⟨_, List.mem_map.mpr ⟨r, hr, rfl⟩, ?_⟩⟩
  split <;> exact ⟨hsrc, htick, hproof⟩

theorem openWindow_proofs (c : BitVec 16) (cl : SevClass) (s : State) : State.proofsKept s (openWindow c cl s) := by
  unfold openWindow
  dsimp only
  split
  · exact ⟨rfl, fun _ h => h⟩
  · split
    · exact ⟨rfl, fun _ h => h⟩
    · exact proofsKept_trans (proofsKept_trans (proofsKept_trans (markRecords_proofs c s) (takeAction_proofs _ _ _))
        (logReport_proofs _ _ _ _ _)) (takeAction_proofs _ _ _)

/-- A report of a proof makes its record with PROOF. -/
theorem reportAs_proof (c d : BitVec 16) (s : State) : proofIn c s.now (reportAs true c d s).flt.recent := by
  have hlog : proofIn c s.now (logReport true c d (severityOf s c) s).flt.recent := by
    rw [logReport_recent_eq]
    exact proofIn_record_self (r := { FaultRec.reset with tick := s.now, source := c, severity := (severityOf s c).sev, proof := true, promoted := (severityOf s c).promoted, count := 1, action := (severityOf s c).sev == 2 || (severityOf s c).sev ≥ 4, detail := d }) rfl _
  have hnow := logReport_now true c d (severityOf s c) s
  unfold reportAs
  dsimp only
  generalize logReport true c d (severityOf s c) s = t at hlog hnow
  rw [← hnow] at hlog ⊢
  split
  · exact (openWindow_proofs _ _ t).2 c hlog
  · split
    · exact (takeAction_proofs _ _ t).2 c hlog
    · exact hlog

theorem proofReport_proof (c : BitVec 16) (s : State) : proofIn c s.now (proofReport c s).flt.recent :=
  proofIn_record_self (r := { FaultRec.reset with tick := s.now, source := c, severity := 0, proof := true, count := 1 }) rfl s.flt

theorem proofReport_frame (c : BitVec 16) (s : State) : proofReport c s =
    { s with flt := { s.flt with recent := (proofReport c s).flt.recent, queue := (proofReport c s).flt.queue,
                                 qdrop := (proofReport c s).flt.qdrop } } := by
  unfold proofReport State.updFlt record
  dsimp only
  split <;> rfl

end Sys2Proof.Machine
end

section
/-! SUPPORT. Fault injection (01 R61; 12 R470, R486, Tables 12-10, 12-23). -/
namespace Sys2Proof.Machine

/-- A target that is a checker. -/
def realTarget (c : BitVec 16) : Bool := decide (srcChecker c < 32) && reportable c

/-- The state in which an injection is in progress, before its report. -/
def injecting (mode : Nat) (c : BitVec 16) (s : State) : State :=
  s.updFlt fun f => { f with injRefused := false, injSource := c, injResult := 1,
                             injNext := if realTarget c && injectExpected mode c then 2 else 3 }

/-- What an injection leaves: its target's record, and its siding under injection. -/
def injected (act : Bool) (mode : Nat) (c : BitVec 16) (s : State) : State :=
  match injectReport mode c with
  | none => injectSiding c (injecting mode c s)
  | some rep =>
    if act then reportAs true rep 0 (injectSiding c (injecting mode c s)) else proofReport rep (injectSiding c (injecting mode c s))

section
variable {s : State} {v : BitVec 64} {c : BitVec 16} (hc : c = v.extractLsb' 0 16)
include hc

theorem writeInject_eq (hv : v.getLsbD 63 = true) (hmay : mayInject s false (v.getLsbD 62) c = true) :
    writeInject false v s =
      if realTarget c then injected (v.getLsbD 62) (fieldNat v 32 2) c s else injecting (fieldNat v 32 2) c s := by
  have hvalid : (!bitAt v 63) = false := by rw [show bitAt v 63 = true from hv]; rfl
  have hallowed : (!mayInject s false (bitAt v 62) c) = false := by rw [show mayInject s false (bitAt v 62) c = true from hmay]; rfl
  unfold writeInject
  dsimp only
  rw [← hc, hvalid, hallowed, if_neg Bool.false_ne_true, if_neg Bool.false_ne_true]
  by_cases hreal : realTarget c = true
  · rw [if_pos hreal]
    exact if_neg (by rw [show (decide (srcChecker c < 32) && reportable c) = true from hreal]; decide)
  · rw [if_neg hreal]
    exact if_pos (by rw [show (decide (srcChecker c < 32) && reportable c) = false from Bool.eq_false_iff.mpr hreal]; rfl)

theorem writeInject_refused (hv : v.getLsbD 63 = true) (hmay : mayInject s false (v.getLsbD 62) c = false) :
    writeInject false v s = s.updFlt fun f => { f with injRefused := true } := by
  have hvalid : (!bitAt v 63) = false := by rw [show bitAt v 63 = true from hv]; rfl
  have hallowed : (!mayInject s false (bitAt v 62) c) = true := by rw [show mayInject s false (bitAt v 62) c = false from hmay]; rfl
  unfold writeInject
  dsimp only
  rw [← hc, hvalid, hallowed, if_neg Bool.false_ne_true, if_pos rfl]

end

theorem injectSiding_leaves (c : BitVec 16) (s : State) :
    injectSiding c s = { s with flt := { s.flt with
        roles := (injectSiding c s).flt.roles, busySidings := (injectSiding c s).flt.busySidings } } ∧
      ((isLaneSource c && freeSiding s (srcKey c) (srcLane c)) = false → (injectSiding c s).flt.roles = s.flt.roles) ∧
      ((isLaneSource c && freeSiding s (srcKey c) (srcLane c)) = true → ((injectSiding c s).roles (srcKey c)).getD (srcLane c) 15 = 10) := by
  unfold injectSiding
  split
  · rename_i h
    refine ⟨rfl, fun hno => absurd (h.symm.trans hno) (by decide), fun _ => ?_⟩
    have hres : inReserve ((s.roles (srcKey c)).getD (srcLane c) 15) = true := by
      simp only [freeSiding, Bool.and_eq_true] at h
      exact h.2.1
    have hlt := lt_length_of_getD (l := s.roles (srcKey c)) (i := srcLane c) (d := 15) (fun heq => by rw [heq] at hres; exact absurd hres (by decide))
    have hroles : (useSiding (srcKey c) (srcLane c) 10 s).roles (srcKey c) = (s.roles (srcKey c)).set (srcLane c) 10 :=
      roles_setRole (srcKey c) (srcLane c) 10 s
    rw [hroles]
    simp [hlt]
  · rename_i h
    exact ⟨rfl, fun _ => rfl, fun hyes => absurd hyes h⟩

theorem injecting_reportsOnly (mode : Nat) (c : BitVec 16) (s : State) : State.reportsOnly s (injecting mode c s) := rfl

/-- The state in which an injection's report is made. -/
theorem injectReady_leaves (mode : Nat) (c : BitVec 16) (s : State) {u : State} (hu : u = injectSiding c (injecting mode c s)) :
    State.reportsOnly s u ∧ u.now = s.now ∧
      u.flt = { s.flt with roles := u.flt.roles, busySidings := u.flt.busySidings, injRefused := false, injSource := c, injResult := 1,
                           injNext := if realTarget c && injectExpected mode c then 2 else 3 } ∧
      ((isLaneSource c && freeSiding s (srcKey c) (srcLane c)) = false → u.flt.roles = s.flt.roles) ∧
      ((isLaneSource c && freeSiding s (srcKey c) (srcLane c)) = true → (u.roles (srcKey c)).getD (srcLane c) 15 = 10) := by
  obtain ⟨hframe, hkept, hset⟩ := injectSiding_leaves c (injecting mode c s)
  rw [← hu] at hframe hkept hset
  refine ⟨?_, by rw [hframe]; rfl, (congrArg State.flt hframe :), hkept, hset⟩
  rw [hframe]
  rfl

/-- What an injection into a checker leaves. -/
theorem injected_leaves (act : Bool) (mode : Nat) (c : BitVec 16) (s : State) {t : State} (ht : t = injected act mode c s) :
    State.reportsOnly s t ∧ t.flt.injRefused = false ∧ t.flt.injSource = c ∧ t.flt.injResult = 1 ∧
      t.flt.injNext = (if realTarget c && injectExpected mode c then 2 else 3) ∧
      (∀ rep, injectReport mode c = some rep → proofIn rep s.now t.flt.recent) ∧
      (injectReport mode c = none → t.flt.recent = s.flt.recent) ∧
      (act = false → t.flt.due = s.flt.due ∧ t.flt.timers = s.flt.timers ∧
        ((isLaneSource c && freeSiding s (srcKey c) (srcLane c)) = false → t.flt.roles = s.flt.roles) ∧
        ((isLaneSource c && freeSiding s (srcKey c) (srcLane c)) = true → (t.roles (srcKey c)).getD (srcLane c) 15 = 10)) := by
  unfold injected at ht
  obtain ⟨honly, hnow, hflt, hkept, hset⟩ := injectReady_leaves mode c s rfl
  generalize injectSiding c (injecting mode c s) = u at ht honly hnow hflt hkept hset
  have hu : u.flt.injRefused = false ∧ u.flt.injSource = c ∧ u.flt.injResult = 1 ∧
      u.flt.injNext = if realTarget c && injectExpected mode c then 2 else 3 := by
    rw [hflt]
    exact ⟨rfl, rfl, rfl, rfl⟩
  obtain ⟨hrefused, hsource, hresult, hnext⟩ := hu
  cases hrep : injectReport mode c with
  | none =>
    rw [hrep] at ht
    subst ht
    refine ⟨honly, hrefused, hsource, hresult, hnext, fun rep h => absurd h (by simp), fun _ => by rw [hflt], fun _ => ⟨?_, ?_, hkept, hset⟩⟩
    · rw [hflt]
    · rw [hflt]
  | some rep =>
    rw [hrep] at ht
    cases act with
    | true =>
      have hreports := reportAs_reports true rep 0 u
      have hproof := reportAs_proof rep 0 u
      rw [hnow] at hproof
      rw [show reportAs true rep 0 u = t from ht.symm] at hreports hproof
      refine ⟨?_, ?_, ?_, ?_, ?_, fun r h => ?_, fun h => absurd h (by simp), fun h => absurd h (by simp)⟩
      · rw [ht]; exact reportsOnly_trans honly (reportAs_only _ _ _ _)
      · rw [hreports]; exact hrefused
      · rw [hreports]; exact hsource
      · rw [hreports]; exact hresult
      · rw [hreports]; exact hnext
      · exact Option.some.inj h ▸ hproof
    | false =>
      have hframe := proofReport_frame rep u
      have hproof := proofReport_proof rep u
      rw [hnow] at hproof
      rw [show proofReport rep u = t from ht.symm] at hframe hproof
      have hflt' := (congrArg State.flt hframe :)
      refine ⟨?_, ?_, ?_, ?_, ?_, fun r h => ?_, fun h => absurd h (by simp), fun _ => ⟨?_, ?_, fun h => ?_, fun h => ?_⟩⟩
      · rw [ht]; exact reportsOnly_trans honly (updFlt_only _ _)
      · rw [hflt']; exact hrefused
      · rw [hflt']; exact hsource
      · rw [hflt']; exact hresult
      · rw [hflt']; exact hnext
      · exact Option.some.inj h ▸ hproof
      · rw [hflt', hflt]
      · rw [hflt', hflt]
      · rw [hflt']; exact hkept h
      · unfold State.roles
        rw [hflt']
        exact hset h

theorem reportsOnly_respond {s t : State} (h : State.reportsOnly s t) (v : BitVec 64) :
    State.reportsOnly { s with rsp := v } (t.respond v) := by
  unfold State.reportsOnly State.respond at *
  conv => lhs; rw [h]

theorem exec_faultInjection {s : State} {i : Ident} (h : s.mayManage i) (hi : i ≠ procIdent 1) (v : BitVec 64) :
    exec (.faultInjection i v) s = .next ((writeInject false v s).respond 0) := by
  change execFaultInjection i v s = _
  unfold execFaultInjection
  rw [if_neg hi]
  exact congrArg Host.Outcome.next (supWrite_go h _ _)

theorem exec_firstErrorClear {s : State} {i : Ident} (h : s.mayManage i) (v : BitVec 64) :
    exec (.firstErrorClear i v) s = .next ((writeFltFirst v s).respond 0) :=
  congrArg Host.Outcome.next (supWrite_go h _ _)

/-- Settles O34, by the branches of a write of the injection register and of one of the latch. -/
theorem injectionsAndLatch : Obligations.InjectionsAndLatch := by
  unfold Obligations.InjectionsAndLatch
  intro s i v c h hc
  refine ⟨fun hi hv => ⟨fun hmay => ?_, fun hmay => ?_⟩, fun hi hv => ?_, fun hv => ?_, fun hv => ?_⟩
  · rw [exec_faultInjection h hi, writeInject_refused hc hv hmay]
    rfl
  · refine ⟨_, exec_faultInjection h hi v, ?_⟩
    rw [writeInject_eq hc hv hmay]
    by_cases hreal : realTarget c = true
    · rw [if_pos hreal]
      obtain ⟨honly, hrefused, hsource, hresult, hnext, hrep, hnone, hproof⟩ := injected_leaves (v.getLsbD 62) (fieldNat v 32 2) c s rfl
      rw [hreal] at hnext
      obtain ⟨hlt, hreport⟩ : srcChecker c < 32 ∧ reportable c = true := by simpa [realTarget] using hreal
      refine ⟨reportsOnly_respond honly 0, hrefused, hsource, fun _ _ => ⟨hresult, hnext, hrep, hnone, hproof⟩, fun hno => ?_⟩
      obtain hno | hno := hno
      · rw [hreport] at hno; exact absurd hno (by decide)
      · omega
    · rw [if_neg hreal]
      have hfalse : realTarget c = false := Bool.eq_false_iff.mpr hreal
      refine ⟨reportsOnly_respond (injecting_reportsOnly _ c s) 0, rfl, rfl, fun hlt hreport => ?_, fun _ => ⟨rfl, ?_, rfl⟩⟩
      · exact absurd (by simp [realTarget, hlt, hreport]) hreal
      · change (if realTarget c && _ then _ else _) = _
        rw [hfalse]
        rfl
  · rw [exec_faultInjection h hi]
    have hwrite : writeInject false v s = s := if_pos (by rw [show bitAt v 63 = false from hv]; rfl)
    rw [hwrite]
    rfl
  · rw [exec_firstErrorClear h]
    have hwrite : writeFltFirst v s = _ := if_pos hv
    rw [hwrite]
    rfl
  · rw [exec_firstErrorClear h]
    have hwrite : writeFltFirst v s = s := if_neg (by rw [show bitAt v 63 = false from hv]; decide)
    rw [hwrite]
    rfl

end Sys2Proof.Machine
end

section
/-! SUPPORT. Scrubbed words and proofs of checkers (01 R32 to R34; 12 R482, R483). -/
namespace Sys2Proof.Machine

/-- `t` differs from `s` in the collector alone. -/
def State.fltOnly (s t : State) : Prop := t = { s with flt := t.flt }

theorem fltOnly_trans {s t u : State} (h1 : State.fltOnly s t) (h2 : State.fltOnly t u) : State.fltOnly s u := by
  unfold State.fltOnly at *
  rw [h2, h1]

theorem fltOnly_reportsOnly {s t : State} (h : State.fltOnly s t) : State.reportsOnly s t := by
  rw [h]
  rfl

/-- `t` has the fixed parts of `s` but for the cut-over's state. -/
def State.coOnly (s t : State) : Prop := t.fixed = { s.fixed with coState := t.fixed.coState }

theorem coOnly_of_fixed {s t : State} (h : t.fixed = s.fixed) : State.coOnly s t := by
  unfold State.coOnly
  rw [h]

theorem coOnly_trans {s t u : State} (h1 : State.coOnly s t) (h2 : State.coOnly t u) : State.coOnly s u := by
  unfold State.coOnly at *
  rw [h2, h1]

theorem updCfg_coOnly (s : State) (f : Config → Config) (h : (f s.cfg).stage = s.cfg.stage) : State.coOnly s (s.updCfg f) := by
  unfold State.coOnly State.fixed State.updCfg
  dsimp only
  rw [h]

theorem endCutover_coOnly (n : BitVec 4) (cause : Nat) (s : State) : State.coOnly s (endCutover n cause s) := by
  unfold endCutover
  exact coOnly_trans (coOnly_of_fixed (t := (dropCounters s).mapProcs fun p => { p with newPatch := none }) (by simp))
    (updCfg_coOnly _ _ rfl)

theorem cancelCutover_coOnly (s : State) : State.coOnly s (cancelCutover s) := by
  have hstart : State.coOnly s (assertBlk 13 (resumeOld s)) := coOnly_of_fixed (by simp)
  unfold cancelCutover
  generalize assertBlk 13 (resumeOld s) = u at hstart
  refine coOnly_trans hstart ?_
  dsimp only
  split
  · have hptr : State.coOnly u (if u.pwr.nvmLow then u.updCfg fun c => { c with ptrWaits := true } else restorePointer u) := by
      split
      · exact updCfg_coOnly _ _ rfl
      · exact coOnly_of_fixed (restorePointer_fixed u)
    exact coOnly_trans (coOnly_trans hptr (endCutover_coOnly 6 0x0D _)) (coOnly_of_fixed (answerCutover_fixed ..))
  · exact updCfg_coOnly _ _ rfl

theorem bankUncorr_coOnly (owner : Nat) (s : State) : State.coOnly s (bankUncorr owner s) := by
  unfold bankUncorr
  dsimp only
  split
  · rfl
  · have hbad : State.coOnly s (s.updCfg fun c => { c with bankBad := addNew owner c.bankBad }) := updCfg_coOnly _ _ rfl
    split
    · exact coOnly_trans hbad (cancelCutover_coOnly _)
    · exact coOnly_trans hbad (updCfg_coOnly _ _ rfl)

section
variable {s : State} {c : BitVec 16} (hup : s.mainUp = true) (hlc : s.lc.state ≠ lcScrap) (hc : reportable c = true)
include hup hlc hc

theorem exec_scrub (w : Bytes) (detail : BitVec 16) (owner : WordOwner) : exec (.scrub c w detail owner) s =
    match testWord w with
    | .clean => .next s
    | .corrected _ => .next (faultReport (withChecker c 3) detail (mendOwner owner s))
    | .uncorrectable => .next (faultReport (withChecker c 4) detail (uncorrOutcome (withChecker c 4) detail owner s)) := by
  have hlive : (s.mainUp && s.lc.state != lcScrap && reportable c) = true := by simp [hup, hlc, hc]
  change execScrub c w detail owner s = _
  unfold execScrub
  dsimp only
  rw [hlive]
  cases testWord w <;> rfl

theorem exec_checkerProof (hcode : srcChecker c < 32) (hlock : s.flt.lockdown = false ∨ isLaneSource c = false) (good : Bool) :
    exec (.checkerProof c good) s = .next (if good then proven c (powerSiding c s) else proofFailed c (powerSiding c s)) := by
  change execCheckerProof c good s = _
  unfold execCheckerProof
  rw [if_neg (by simp [hup, hlc, hc]; omega), if_neg (by obtain h | h := hlock <;> simp [h])]
  cases good <;> rfl

end

theorem powerSiding_frame (c : BitVec 16) (s : State) : powerSiding c s =
    { s with flt := { s.flt with roles := (powerSiding c s).flt.roles, busySidings := (powerSiding c s).flt.busySidings } } := by
  unfold powerSiding
  dsimp only
  split <;> rfl

/-- A checker that is proven: its record, and the rotation. -/
theorem proven_leaves (c : BitVec 16) (s : State) : State.fltOnly s (proven c s) ∧
    proofIn c s.now (proven c s).flt.recent ∧ (proven c s).flt.due = s.flt.due ∧ (proven c s).flt.timers = s.flt.timers ∧
    (proven c s).flt.roles = s.flt.roles ∧ (proven c s).flt.fValid = s.flt.fValid ∧ (proven c s).flt.total = s.flt.total ∧
    (c ∈ (proven c s).flt.proven ∨ ((proven c s).flt.proven = [] ∧
      (proven c s).flt.rotations = min 0xFFFF (s.flt.rotations + 1) ∧ (proven c s).flt.overdue = false)) := by
  have hframe := proofReport_frame c s
  have hproof := proofReport_proof c s
  have hmem : c ∈ addNew c (proofReport c s).flt.proven := by
    unfold addNew
    split
    · rename_i h; simpa using h
    · simp
  unfold proven State.updFlt
  dsimp only
  generalize proofReport c s = t at hframe hproof hmem
  have hflt := (congrArg State.flt hframe :)
  have honly : State.fltOnly s t := by rw [hframe]; rfl
  split
  · refine ⟨?_, hproof, by rw [hflt], by rw [hflt], by rw [hflt], by rw [hflt], by rw [hflt], .inr ⟨rfl, ?_, rfl⟩⟩
    · exact fltOnly_trans honly rfl
    · rw [hflt]; rfl
  · refine ⟨?_, hproof, by rw [hflt], by rw [hflt], by rw [hflt], by rw [hflt], by rw [hflt], .inl hmem⟩
    exact fltOnly_trans honly rfl

/-- A proof that fails: its record, and the count. -/
theorem proofFailed_leaves {c : BitVec 16} (hcode : srcChecker c < 32) (s : State) : State.reportsOnly s (proofFailed c s) ∧
    (proofFailed c s).reported (withChecker c (srcChecker c + 32)) ∧ (proofFailed c s).flt.proofFail = min 0xFFFF (s.flt.proofFail + 1) := by
  have hmod : srcChecker c % 32 + 32 = srcChecker c + 32 := by omega
  unfold proofFailed
  dsimp only
  rw [hmod]
  have hcount : State.reportsOnly s (s.updFlt fun f => { f with proofFail := satInc 0xFFFF f.proofFail }) := rfl
  have hfail : (s.updFlt fun f => { f with proofFail := satInc 0xFFFF f.proofFail }).flt.proofFail = min 0xFFFF (s.flt.proofFail + 1) := rfl
  generalize s.updFlt (fun f => { f with proofFail := satInc 0xFFFF f.proofFail }) = u at hcount hfail ⊢
  have honly := faultReport_only (withChecker c (srcChecker c + 32)) 0 u
  have hflt : Faults.reports u.flt (faultReport (withChecker c (srcChecker c + 32)) 0 u).flt := reportAs_reports _ _ _ _
  have hreported := faultReport_reported (withChecker c (srcChecker c + 32)) 0 u
  generalize faultReport (withChecker c (srcChecker c + 32)) 0 u = t at honly hflt hreported ⊢
  have hpf : t.flt.proofFail = min 0xFFFF (s.flt.proofFail + 1) := by rw [hflt]; exact hfail
  split
  · have hretire := retireLane_only (srcKey c) (srcLane c) (withChecker c (srcChecker c + 32)) t
    have hresponds := retireLane_responds (srcKey c) (srcLane c) (withChecker c (srcChecker c + 32)) t
    refine ⟨reportsOnly_trans (reportsOnly_trans hcount honly) hretire, ?_, by rw [hresponds]; exact hpf⟩
    exact reported_of_kept (recordsKept_of_recent (by rw [hretire]) (reportsOnly_image hretire) (by rw [hresponds])) hreported
  · exact ⟨reportsOnly_trans hcount honly, hreported, hpf⟩

/-- The outcome of an uncorrectable word that is due at once. -/
theorem uncorrOutcome_leaves (c detail : BitVec 16) (owner : WordOwner) (s : State) :
    (uncorrOutcome c detail owner s).fixed = { s.fixed with coState := (uncorrOutcome c detail owner s).cfg.coState } ∧
      (owner ≠ .inactiveBank → (uncorrOutcome c detail owner s).cfg = s.cfg) := by
  have hkept : ∀ t : State, t.fixed = s.fixed → t.fixed = { s.fixed with coState := t.cfg.coState } := fun t h => by
    rw [h, show t.cfg.coState = s.cfg.coState from congrArg Fixed.coState h]
    rfl
  cases owner with
  | request rid =>
    refine ⟨hkept _ (failRequest_fixed ..), fun _ => ?_⟩
    cases h : s.req? rid with
    | none =>
      have hnone : uncorrOutcome c detail (.request rid) s = s := by
        change failRequest rid 0x3F c (s.now + 1) s = s
        unfold failRequest
        rw [h]
      rw [hnone]
    | some r => exact (congrArg State.cfg (failRequest_ends h 0x3F c (s.now + 1) rfl).1 :)
  | activeBank => exact ⟨hkept _ (takeAction_fixed ..), fun _ => (congrArg State.cfg (takeAction_only (promoteAction c 4) c s) :)⟩
  | inactiveBank => exact ⟨bankUncorr_coOnly (srcStation c) s, fun h => absurd rfl h⟩
  | slot t h => exact ⟨rfl, fun _ => rfl⟩
  | system n t => exact ⟨rfl, fun _ => rfl⟩
  | nobody => exact ⟨rfl, fun _ => rfl⟩

/-- Settles O32, by the outcomes of a test of a word and of a proof. -/
theorem scrubsAndProofs : Obligations.ScrubsAndProofs := by
  unfold Obligations.ScrubsAndProofs
  refine ⟨fun s c detail w owner hup hlc hc => ?_, fun s c hup hlc hc hcode hlock => ⟨?_, ?_⟩⟩
  · have hexec := exec_scrub hup hlc hc w detail owner
    refine ⟨fun hw => ?_, fun w' hw => ?_, fun hw => ?_⟩
    · rw [hexec, hw]
    · rw [hw] at hexec
      exact ⟨_, hexec, faultReport_only _ _ _, faultReport_reported _ _ _⟩
    · rw [hw] at hexec
      obtain ⟨hfixed, hcfg⟩ := uncorrOutcome_leaves (withChecker c 4) detail owner s
      have hreport := faultReport_fixed (withChecker c 4) detail (uncorrOutcome (withChecker c 4) detail owner s)
      have hreportCfg : (faultReport (withChecker c 4) detail (uncorrOutcome (withChecker c 4) detail owner s)).cfg =
          (uncorrOutcome (withChecker c 4) detail owner s).cfg := (congrArg State.cfg (faultReport_only (withChecker c 4) detail _) :)
      refine ⟨_, hexec, ?_, fun hn => hreportCfg.trans (hcfg hn), faultReport_reported _ _ _⟩
      rw [hreport, hfixed, hreportCfg]
  · have hexec := exec_checkerProof hup hlc hc hcode hlock true
    rw [if_pos rfl] at hexec
    obtain ⟨hframe, hproof, hdue, htimers, -, hvalid, htotal, hrot⟩ := proven_leaves c (powerSiding c s)
    have hpower := powerSiding_frame c s
    have hflt := (congrArg State.flt hpower :)
    generalize powerSiding c s = u at hexec hframe hproof hdue htimers hvalid htotal hrot hpower hflt
    have hnow : u.now = s.now := by rw [hpower]; rfl
    rw [hnow] at hproof
    rw [show u.flt.rotations = s.flt.rotations by rw [hflt]] at hrot
    refine ⟨_, hexec, fltOnly_trans (by rw [hpower]; rfl) hframe, hproof, by rw [hdue, hflt], by rw [htimers, hflt],
      by rw [hvalid, hflt], by rw [htotal, hflt], hrot⟩
  · have hexec := exec_checkerProof hup hlc hc hcode hlock false
    rw [if_neg (by decide)] at hexec
    have hpower := powerSiding_frame c s
    obtain ⟨honly, hreported, hfail⟩ := proofFailed_leaves hcode (powerSiding c s)
    refine ⟨_, hexec, reportsOnly_trans ?_ honly, hreported, ?_⟩
    · rw [hpower]; rfl
    · rw [hfail, hpower]

end Sys2Proof.Machine
end

section
/-! SUPPORT. What the reports of one cycle leave of the collector (12 R462, R467, R470, R487). -/
namespace Sys2Proof.Machine

/-- `t` keeps what later responses keep of a report: the tick's records, the requests, words and stations due, and a latch that is
taken. -/
def State.keepsReport (s t : State) : Prop :=
  State.recordsKept s t ∧ State.sameRids s t ∧ t.flt.wordsDue = s.flt.wordsDue ∧ (∀ d ∈ s.flt.due, d ∈ t.flt.due) ∧
    (s.flt.fValid = true → t.flt.fValid = true ∧ t.flt.fSource = s.flt.fSource ∧ t.flt.fTick = s.flt.fTick)

theorem keepsReport_refl (s : State) : State.keepsReport s s := ⟨recordsKept_refl s, rfl, rfl, fun _ h => h, fun h => ⟨h, rfl, rfl⟩⟩

theorem keepsReport_trans {s t u : State} (h1 : State.keepsReport s t) (h2 : State.keepsReport t u) : State.keepsReport s u := by
  obtain ⟨hrec, hrids, hwords, hdue, hlatch⟩ := h1
  obtain ⟨hrec', hrids', hwords', hdue', hlatch'⟩ := h2
  refine ⟨recordsKept_trans hrec hrec', sameRids_trans hrids hrids', hwords'.trans hwords, fun d hd => hdue' d (hdue d hd), fun hv => ?_⟩
  obtain ⟨h1, h2, h3⟩ := hlatch hv
  obtain ⟨h1', h2', h3'⟩ := hlatch' h1
  exact ⟨h1', h2'.trans h2, h3'.trans h3⟩

/-- A change of the collector that leaves what a response leaves. -/
theorem keepsReport_updFlt (s : State) (f : Faults → Faults) (hrec : (f s.flt).recent = s.flt.recent)
    (hwords : (f s.flt).wordsDue = s.flt.wordsDue) (hdue : (f s.flt).due = s.flt.due) (hvalid : (f s.flt).fValid = s.flt.fValid)
    (hsource : (f s.flt).fSource = s.flt.fSource) (htick : (f s.flt).fTick = s.flt.fTick) : State.keepsReport s (s.updFlt f) :=
  ⟨recordsKept_of_recent rfl rfl hrec, rfl, hwords, fun _ h => hdue.symm ▸ h, fun h => ⟨hvalid.trans h, hsource, htick⟩⟩

theorem setRole_keepsReport (key lane : Nat) (r : BitVec 4) (s : State) : State.keepsReport s (setRole key lane r s) :=
  keepsReport_updFlt s _ rfl rfl rfl rfl rfl rfl

theorem markRecords_keepsReport (c : BitVec 16) (n : Nat) (g : FaultRec → FaultRec)
    (hg : ∀ r, (g r).source = r.source ∧ (g r).tick = r.tick ∧ (g r).severity = r.severity) (s : State) :
    State.keepsReport s (markRecords c n g s) :=
  ⟨markRecords_records c n g hg s, rfl, rfl, fun _ h => h, fun h => ⟨h, rfl, rfl⟩⟩

theorem retireLane_due (key lane : Nat) (c : BitVec 16) (s : State) : (retireLane key lane c s).flt.due = s.flt.due := by
  unfold retireLane
  dsimp only
  split
  · rfl
  · split
    · rfl
    · unfold setRole State.updFlt
      dsimp only
      split
      · rw [discardInternal_flt]; rfl
      · rfl

theorem takeAction_due (a : Nat) (c : BitVec 16) (s : State) : ∀ d ∈ s.flt.due, d ∈ (takeAction a c s).flt.due := by
  intro d hd
  unfold takeAction retireSource
  (repeat' split)
  · exact hd
  · exact hd
  · rw [retireLane_due]; exact hd
  · exact List.mem_append_left _ hd
  · exact List.mem_append_left _ hd
  · exact hd

theorem takeAction_keepsReport (a : Nat) (c : BitVec 16) (s : State) : State.keepsReport s (takeAction a c s) := by
  have hresponds := takeAction_responds a c s
  refine ⟨takeAction_records a c s, takeAction_rids a c s, by rw [hresponds], takeAction_due a c s, fun h => ⟨?_, ?_, ?_⟩⟩
  · rw [hresponds]; exact h
  · rw [hresponds]
  · rw [hresponds]

theorem record_fields (r : FaultRec) (f : Faults) : (record r f).fValid = f.fValid ∧ (record r f).fSource = f.fSource ∧
    (record r f).fTick = f.fTick ∧ (record r f).due = f.due := by
  unfold record
  dsimp only
  split <;> exact ⟨rfl, rfl, rfl, rfl⟩

theorem latch_taken {f : Faults} (h : f.fValid = true) (m v : Nat) (c : BitVec 16) (n : BitVec 64) :
    (latch m v c n f).fValid = true ∧ (latch m v c n f).fSource = f.fSource ∧ (latch m v c n f).fTick = f.fTick := by
  unfold latch
  rw [if_pos h]
  split <;> exact ⟨h, rfl, rfl⟩

theorem latch_takes {f : Faults} (h : f.fValid = false) {m v : Nat} (hm : m ≤ v) (c : BitVec 16) (n : BitVec 64) :
    (latch m v c n f).fValid = true ∧ (latch m v c n f).fSource = c ∧ (latch m v c n f).fTick = n := by
  unfold latch
  rw [if_neg (by omega), if_neg (by simp [h])]
  exact ⟨rfl, rfl, rfl⟩

theorem latch_due (m v : Nat) (c : BitVec 16) (n : BitVec 64) (f : Faults) : (latch m v c n f).due = f.due := by
  unfold latch
  (repeat' split) <;> rfl

/-- The collector after a report is logged. -/
theorem logReport_flt (p : Bool) (c d : BitVec 16) (cl : SevClass) (s : State) : ∃ r, (logReport p c d cl s).flt =
    countReport c (latch s.image.latchMin cl.sev c s.tick (record r s.flt)) := by
  unfold logReport
  dsimp only
  split <;> exact ⟨_, rfl⟩

theorem logReport_keepsReport (p : Bool) (c d : BitVec 16) (cl : SevClass) (s : State) : State.keepsReport s (logReport p c d cl s) := by
  obtain ⟨r, hflt⟩ := logReport_flt p c d cl s
  obtain ⟨hvalid, hsource, htick, hdue⟩ := record_fields r s.flt
  refine ⟨logReport_kept p c d cl s, sameRids_of_reqs (logReport_reqs p c d cl s), by rw [logReport_reports p c d cl s], fun x hx => ?_, fun hv => ?_⟩
  · rw [hflt]
    change x ∈ (latch _ _ _ _ _).due
    rw [latch_due, hdue]
    exact hx
  · obtain ⟨h1, h2, h3⟩ := latch_taken (hvalid.trans hv) s.image.latchMin cl.sev c s.tick
    rw [hflt]
    exact ⟨h1, h2.trans hsource, h3.trans htick⟩

theorem openWindow_keepsReport (c : BitVec 16) (cl : SevClass) (s : State) : State.keepsReport s (openWindow c cl s) := by
  unfold openWindow
  dsimp only
  split
  · exact keepsReport_refl s
  · split
    · exact keepsReport_updFlt s _ rfl rfl rfl rfl rfl rfl
    · exact keepsReport_trans (keepsReport_trans (keepsReport_trans (markRecords_keepsReport c s.now (fun x => { x with action := true })
        (fun _ => ⟨rfl, rfl, rfl⟩) s) (takeAction_keepsReport _ _ _)) (logReport_keepsReport _ _ _ _ _)) (takeAction_keepsReport _ _ _)

/-- One lane that is restored. -/
def restoreLane (s : State) (x : Nat × Nat × BitVec 16 × Nat) : State :=
  setRole x.1 x.2.1 (BitVec.ofNat 4 x.2.2.2) (markRecords x.2.2.1 s.now (fun r => { r with action := false }) s)

theorem restoreLane_keepsReport (s : State) (x : Nat × Nat × BitVec 16 × Nat) : State.keepsReport s (restoreLane s x) :=
  keepsReport_trans (markRecords_keepsReport x.2.2.1 s.now (fun r => { r with action := false }) (fun _ => ⟨rfl, rfl, rfl⟩) s)
    (setRole_keepsReport _ _ _ _)

theorem foldl_restoreLane_keepsReport (l : List (Nat × Nat × BitVec 16 × Nat)) (s : State) : State.keepsReport s (l.foldl restoreLane s) := by
  induction l generalizing s with
  | nil => exact keepsReport_refl s
  | cons x l ih => exact keepsReport_trans (restoreLane_keepsReport s x) (ih _)

theorem restoreLane_timers (s : State) (x : Nat × Nat × BitVec 16 × Nat) : (restoreLane s x).flt.timers = s.flt.timers := rfl

theorem foldl_restoreLane_timers (l : List (Nat × Nat × BitVec 16 × Nat)) (s : State) : (l.foldl restoreLane s).flt.timers = s.flt.timers := by
  induction l generalizing s with
  | nil => rfl
  | cons x l ih => exact (ih _).trans (restoreLane_timers s x)

theorem restoreLanes_eq (sel : Nat → Nat → Bool) (s : State) : restoreLanes sel s =
    ((s.flt.retiring.filter fun x => sel x.1 x.2.1).foldl restoreLane s).updFlt fun f =>
      { f with retiring := f.retiring.filter fun x => !sel x.1 x.2.1, retired := f.retired - (s.flt.retiring.filter fun x => sel x.1 x.2.1).length } := by
  unfold restoreLanes
  rfl

theorem restoreLanes_keepsReport (sel : Nat → Nat → Bool) (s : State) : State.keepsReport s (restoreLanes sel s) := by
  rw [restoreLanes_eq]
  exact keepsReport_trans (foldl_restoreLane_keepsReport _ s) (keepsReport_updFlt _ _ rfl rfl rfl rfl rfl rfl)

theorem restoreLanes_timers (sel : Nat → Nat → Bool) (s : State) : (restoreLanes sel s).flt.timers = s.flt.timers := by
  rw [restoreLanes_eq]
  exact foldl_restoreLane_timers _ s

/-- A window that is superseded. -/
def supersedeOne (s : State) (w : EscTimer) : State :=
  markRecords w.source (w.opens - 1) (fun x => { x with superseded := true }) (closeWindow w.source s)

theorem supersedeOne_keepsReport (s : State) (w : EscTimer) : State.keepsReport s (supersedeOne s w) :=
  keepsReport_trans (t := closeWindow w.source s) (keepsReport_updFlt s _ rfl rfl rfl rfl rfl rfl)
    (markRecords_keepsReport w.source (w.opens - 1) (fun x => { x with superseded := true }) (fun _ => ⟨rfl, rfl, rfl⟩) _)

theorem supersede_keepsReport (sel : BitVec 16 → Bool) (s : State) : State.keepsReport s (supersede sel s) := by
  have hfold : ∀ (l : List EscTimer) (u : State), State.keepsReport u (l.foldl supersedeOne u) := by
    intro l
    induction l with
    | nil => exact keepsReport_refl
    | cons x l ih => exact fun u => keepsReport_trans (supersedeOne_keepsReport u x) (ih _)
  exact hfold _ s

theorem supersedeCycle_keepsReport (st : Nat) (s : State) : State.keepsReport s (supersedeCycle st s) :=
  keepsReport_trans (supersede_keepsReport _ s) (restoreLanes_keepsReport _ _)

theorem openAtCycle_keepsReport (c : BitVec 16) (cl : SevClass) (s : State) : State.keepsReport s (openAtCycle c cl s) := by
  unfold openAtCycle
  dsimp only
  split
  · exact keepsReport_refl s
  · exact keepsReport_trans (keepsReport_trans (restoreLanes_keepsReport _ s) (keepsReport_updFlt _ _ rfl rfl rfl rfl rfl rfl))
      (openWindow_keepsReport _ _ _)

theorem respondTo_keepsReport (sev : Nat) (c : BitVec 16) (s : State) : State.keepsReport s (respondTo sev c s) := by
  unfold respondTo
  dsimp only
  generalize (if sev = 5 then 7 else srcStation c) = st
  split
  · exact keepsReport_trans (keepsReport_trans (keepsReport_updFlt s _ rfl rfl rfl rfl rfl rfl) (supersedeCycle_keepsReport _ _))
      (takeAction_keepsReport _ _ _)
  · split
    · exact markRecords_keepsReport c s.now (fun r => { r with action := false }) (fun _ => ⟨rfl, rfl, rfl⟩) s
    · split
      · exact takeAction_keepsReport _ _ _
      · exact keepsReport_trans (takeAction_keepsReport _ _ _) (keepsReport_updFlt _ _ rfl rfl rfl rfl rfl rfl)

/-! ### A report in its cycle, in parts -/

/-- The notes of a cycle: those of another cycle are discarded (12 R487). -/
def atCycle (n : Nat) (s : State) : State :=
  if s.flt.cycleAt = some n then s
  else s.updFlt fun f => { f with cycleAt := some n, cycleRetired := [], cycleStops := [], cycleWindows := [] }

/-- A report that is recorded, latched and counted in its cycle. -/
def loggedAt (n : Nat) (c d : BitVec 16) (s : State) : State :=
  latchLowest n (!s.flt.fValid) c (severityOf s c) (logReport false c d (severityOf s c) s)

theorem reportAtCycle_eq (cycle : Nat) (c d : BitVec 16) (s : State) : reportAtCycle cycle c d s =
    (if (severityOf (atCycle (320 * s.now + cycle) s) c).sev = 3 then
      openAtCycle c (severityOf (atCycle (320 * s.now + cycle) s) c) (loggedAt (320 * s.now + cycle) c d (atCycle (320 * s.now + cycle) s))
    else if (severityOf (atCycle (320 * s.now + cycle) s) c).sev ≥ 2 then
      respondTo (severityOf (atCycle (320 * s.now + cycle) s) c).sev c (loggedAt (320 * s.now + cycle) c d (atCycle (320 * s.now + cycle) s))
    else loggedAt (320 * s.now + cycle) c d (atCycle (320 * s.now + cycle) s)) := rfl

theorem atCycle_frame (n : Nat) (s : State) : atCycle n s = { s with flt := { s.flt with
    cycleAt := (atCycle n s).flt.cycleAt, cycleRetired := (atCycle n s).flt.cycleRetired, cycleStops := (atCycle n s).flt.cycleStops,
    cycleWindows := (atCycle n s).flt.cycleWindows } } := by
  unfold atCycle
  split <;> rfl

theorem atCycle_fresh {n : Nat} {s : State} (h : s.flt.cycleAt ≠ some n) :
    (atCycle n s).flt.cycleRetired = [] ∧ (atCycle n s).flt.cycleStops = [] ∧ (atCycle n s).flt.cycleWindows = [] := by
  unfold atCycle
  rw [if_neg h]
  exact ⟨rfl, rfl, rfl⟩

theorem atCycle_severity (n : Nat) (s : State) (c : BitVec 16) : severityOf (atCycle n s) c = severityOf s c :=
  severityOf_image (by rw [atCycle_frame]; rfl) c

theorem latchLowest_frame (n : Nat) (b : Bool) (c : BitVec 16) (cl : SevClass) (s : State) : latchLowest n b c cl s =
    { s with flt := { s.flt with latchAt := (latchLowest n b c cl s).flt.latchAt, fSource := (latchLowest n b c cl s).flt.fSource,
                                 fSev := (latchLowest n b c cl s).flt.fSev } } := by
  unfold latchLowest State.updFlt
  dsimp only
  (repeat' split) <;> rfl

theorem latchLowest_fresh (n : Nat) (c : BitVec 16) (cl : SevClass) (s : State) :
    (latchLowest n true c cl s).flt.fSource = s.flt.fSource := by
  unfold latchLowest State.updFlt
  dsimp only
  rw [if_pos rfl]
  split <;> rfl

/-- `g` differs from `f` in what the record, the latch and the count of a report change. -/
def Faults.logs (f g : Faults) : Prop :=
  g = { f with recent := g.recent, queue := g.queue, qdrop := g.qdrop, fValid := g.fValid, fSev := g.fSev, fSource := g.fSource,
               fTick := g.fTick, fOvf := g.fOvf, later := g.later, total := g.total, counts := g.counts, latchAt := g.latchAt }

theorem logs_trans {f g h : Faults} (h1 : Faults.logs f g) (h2 : Faults.logs g h) : Faults.logs f h := by
  unfold Faults.logs at *
  rw [h2, h1]

theorem record_logs (r : FaultRec) (f : Faults) : Faults.logs f (record r f) := by
  unfold record
  dsimp only
  split <;> rfl

theorem latch_logs (m v : Nat) (c : BitVec 16) (n : BitVec 64) (f : Faults) : Faults.logs f (latch m v c n f) := by
  unfold latch
  (repeat' split) <;> rfl

theorem latchLowest_logs (n : Nat) (b : Bool) (c : BitVec 16) (cl : SevClass) (s : State) :
    Faults.logs s.flt (latchLowest n b c cl s).flt := by
  rw [latchLowest_frame]
  rfl

theorem logReport_logs (p : Bool) (c d : BitVec 16) (cl : SevClass) (s : State) : Faults.logs s.flt (logReport p c d cl s).flt := by
  obtain ⟨r, hflt⟩ := logReport_flt p c d cl s
  rw [hflt]
  exact logs_trans (record_logs r s.flt) (logs_trans (latch_logs _ _ _ _ _) rfl)

theorem latchLowest_recent (n : Nat) (b : Bool) (c : BitVec 16) (cl : SevClass) (s : State) :
    (latchLowest n b c cl s).flt.recent = s.flt.recent := by rw [latchLowest_frame]

/-- What the record, the latch and the count of a report leave: the rest of the collector, and the records of its tick. -/
theorem loggedAt_leaves (n : Nat) (c d : BitVec 16) (s : State) {t : State} (ht : t = loggedAt n c d s) :
    State.reportsOnly s t ∧ t.now = s.now ∧ t.reqs = s.reqs ∧ t.en = s.en ∧ t.reported c ∧ Faults.logs s.flt t.flt ∧
      (s.flt.fValid = false → s.image.latchMin ≤ (severityOf s c).sev →
        t.flt.fValid = true ∧ t.flt.fSource = c ∧ t.flt.fTick = s.tick) := by
  have honly := logReport_only false c d (severityOf s c) s
  have hnow := logReport_now false c d (severityOf s c) s
  have hreqs := logReport_reqs false c d (severityOf s c) s
  have hen := logReport_en false c d (severityOf s c) s
  have hreported := logReport_reported false c d s
  have hlogs := logReport_logs false c d (severityOf s c) s
  obtain ⟨r, hflt⟩ := logReport_flt false c d (severityOf s c) s
  obtain ⟨hvalid, -, -, -⟩ := record_fields r s.flt
  unfold loggedAt at ht
  generalize logReport false c d (severityOf s c) s = u at ht honly hnow hreqs hen hreported hlogs hflt
  have hframe := latchLowest_frame n (!s.flt.fValid) c (severityOf s c) u
  have hlow := latchLowest_logs n (!s.flt.fValid) c (severityOf s c) u
  rw [← ht] at hframe hlow
  have hkept : State.recordsKept u t := recordsKept_of_recent (by rw [hframe]) (by rw [hframe]; rfl) (by rw [hframe])
  refine ⟨reportsOnly_trans honly (by rw [hframe]; rfl), ?_, ?_, ?_, reported_of_kept hkept hreported, logs_trans hlogs hlow, fun hv hmin => ?_⟩
  · rw [← hnow, hframe]; rfl
  · rw [hframe]; exact hreqs
  · rw [hframe]; exact hen
  · obtain ⟨h1, h2, h3⟩ := latch_takes (hvalid.trans hv) hmin c s.tick
    have hsource := latchLowest_fresh n c (severityOf s c) u
    rw [hv, Bool.not_false] at ht
    rw [← ht] at hsource
    rw [hsource, hframe, hflt]
    exact ⟨h1, h2, h3⟩

end Sys2Proof.Machine
end

section
/-! SUPPORT. Fault reports and their responses (01 R40; 12 R461 to R463, R467, R470, R476, R478, R480). -/
namespace Sys2Proof.Machine

/-- A report that is recorded in cycle `n`, before its response. -/
def loggedInCycle (n : Nat) (c d : BitVec 16) (s : State) : State := loggedAt n c d (atCycle n s)

section
variable {n : Nat} {c d : BitVec 16} {s u : State} (hu : u = loggedInCycle n c d s)
include hu

theorem loggedInCycle_leaves : State.reportsOnly s u ∧ u.now = s.now ∧ u.reqs = s.reqs ∧ u.en = s.en ∧ u.reported c ∧
    u.flt.due = s.flt.due ∧ u.flt.timers = s.flt.timers ∧ u.flt.roles = s.flt.roles ∧ u.flt.wordsDue = s.flt.wordsDue ∧
    (s.flt.fValid = false → s.image.latchMin ≤ (severityOf s c).sev → u.flt.fValid = true ∧ u.flt.fSource = c ∧ u.flt.fTick = s.tick) := by
  have hcycle := atCycle_frame n s
  have hsev := atCycle_severity n s c
  obtain ⟨honly, hnow, hreqs, hen, hreported, hlogs, hlatch⟩ := loggedAt_leaves n c d (atCycle n s) hu
  rw [hsev] at hlatch
  generalize atCycle n s = a at hcycle honly hnow hreqs hen hlogs hlatch
  have hflt := (congrArg State.flt hcycle :)
  have himage : a.image = s.image := by rw [hcycle]; rfl
  refine ⟨reportsOnly_trans (by rw [hcycle]; rfl) honly, ?_, ?_, ?_, hreported, ?_, ?_, ?_, ?_, fun hv hmin => ?_⟩
  · rw [hnow, hcycle]; rfl
  · rw [hreqs, hcycle]
  · rw [hen, hcycle]
  · rw [hlogs, hflt]
  · rw [hlogs, hflt]
  · rw [hlogs, hflt]
  · rw [hlogs, hflt]
  · have hlatch' := hlatch (by rw [hflt]; exact hv) (by rw [himage]; exact hmin)
    rwa [show a.tick = s.tick by rw [hcycle]] at hlatch'

theorem loggedInCycle_fresh (h : s.flt.cycleAt ≠ some n) :
    u.flt.cycleRetired = [] ∧ u.flt.cycleStops = [] ∧ u.flt.cycleWindows = [] := by
  obtain ⟨-, -, -, -, -, hlogs, -⟩ := loggedAt_leaves n c d (atCycle n s) hu
  obtain ⟨h1, h2, h3⟩ := atCycle_fresh h
  refine ⟨?_, ?_, ?_⟩ <;> rw [hlogs] <;> assumption

end

/-- A report in its cycle: recorded, and its response taken. -/
theorem reportAtCycle_response (cycle : Nat) (c d : BitVec 16) (s : State) : reportAtCycle cycle c d s =
    (if (severityOf s c).sev = 3 then openAtCycle c (severityOf s c) (loggedInCycle (320 * s.now + cycle) c d s)
    else if (severityOf s c).sev ≥ 2 then respondTo (severityOf s c).sev c (loggedInCycle (320 * s.now + cycle) c d s)
    else loggedInCycle (320 * s.now + cycle) c d s) := by
  rw [reportAtCycle_eq, atCycle_severity]
  rfl

theorem reportAtCycle_keepsReport (cycle : Nat) (c d : BitVec 16) (s : State) :
    State.keepsReport (loggedInCycle (320 * s.now + cycle) c d s) (reportAtCycle cycle c d s) := by
  rw [reportAtCycle_response]
  split
  · exact openAtCycle_keepsReport _ _ _
  · split
    · exact respondTo_keepsReport _ _ _
    · exact keepsReport_refl _

/-- What every report in a cycle leaves. -/
theorem reportAtCycle_leaves (cycle : Nat) (c d : BitVec 16) (s : State) {t : State} (ht : t = reportAtCycle cycle c d s) :
    State.reportsOnly s t ∧ t.reported c ∧ State.sameRids s t ∧ t.flt.wordsDue = s.flt.wordsDue ∧ (∀ x ∈ s.flt.due, x ∈ t.flt.due) ∧
      (s.flt.fValid = false → s.image.latchMin ≤ (severityOf s c).sev → t.flt.fValid = true ∧ t.flt.fSource = c ∧ t.flt.fTick = s.tick) := by
  have hkeeps := reportAtCycle_keepsReport cycle c d s
  rw [← ht] at hkeeps
  obtain ⟨-, -, hreqs, -, hreported, hdue, -, -, hwords, hlatch⟩ := loggedInCycle_leaves (n := 320 * s.now + cycle) (c := c) (d := d) (s := s) rfl
  obtain ⟨hrec, hrids, hwords', hdue', hlatch'⟩ := hkeeps
  refine ⟨ht ▸ reportAtCycle_only cycle c d s, reported_of_kept hrec hreported, sameRids_trans (sameRids_of_reqs hreqs) hrids,
    hwords'.trans hwords, fun x hx => hdue' x (hdue.symm ▸ hx), fun hv hmin => ?_⟩
  obtain ⟨h1, h2, h3⟩ := hlatch hv hmin
  obtain ⟨h1', h2', h3'⟩ := hlatch' h1
  exact ⟨h1', h2'.trans h2, h3'.trans h3⟩

theorem openWindow_opens {c : BitVec 16} {s : State} (cl : SevClass) (hroom : s.flt.timers.length < 16)
    (hnew : ∀ w ∈ s.flt.timers, w.source ≠ c) : ∃ w, (openWindow c cl s).flt.timers = s.flt.timers ++ [w] ∧ w.source = c ∧
      w.opens = s.now + 1 ∧ w.expires = s.now + 1 + cl.window ∧ w.action = cl.action := by
  unfold openWindow
  rw [if_neg (by simpa using hnew), if_pos hroom]
  exact ⟨_, rfl, rfl, rfl, rfl, rfl⟩

section
variable {cycle : Nat} {c d : BitVec 16} {s t : State} (ht : t = reportAtCycle cycle c d s)
include ht

theorem reportAtCycle_note (h : (severityOf s c).sev ≤ 1) :
    t.flt.due = s.flt.due ∧ t.flt.timers = s.flt.timers ∧ t.flt.roles = s.flt.roles ∧ t.reqs = s.reqs := by
  rw [reportAtCycle_response, if_neg (by omega), if_neg (by omega)] at ht
  obtain ⟨-, -, hreqs, -, -, hdue, htimers, hroles, -, -⟩ := loggedInCycle_leaves ht
  exact ⟨hdue, htimers, hroles, hreqs⟩

theorem reportAtCycle_escalates (h : (severityOf s c).sev = 3) (hfresh : s.flt.cycleAt ≠ some (320 * s.now + cycle))
    (hroom : s.flt.timers.length < 16) (hnew : ∀ w ∈ s.flt.timers, w.source ≠ c) :
    ∃ w, t.flt.timers = s.flt.timers ++ [w] ∧ w.source = c ∧ w.opens = s.now + 1 ∧
      w.expires = s.now + 1 + (severityOf s c).window ∧ w.action = (severityOf s c).action := by
  rw [reportAtCycle_response, if_pos h] at ht
  obtain ⟨-, hnow, -, -, -, -, htimers, -, -, -⟩ := loggedInCycle_leaves (n := 320 * s.now + cycle) (c := c) (d := d) (s := s) rfl
  obtain ⟨-, hstops, -⟩ := loggedInCycle_fresh (n := 320 * s.now + cycle) (c := c) (d := d) (s := s) rfl hfresh
  generalize loggedInCycle (320 * s.now + cycle) c d s = u at ht hnow htimers hstops
  have hnot : ¬ stoppedInCycle u c = true := by simp [stoppedInCycle, hstops]
  unfold openAtCycle at ht
  rw [if_neg hnot] at ht
  dsimp only at ht
  have htim := restoreLanes_timers (fun key lane => u.flt.cycleRetired.contains (key, lane) && key == srcKey c && lane == srcLane c) u
  have hkept := (restoreLanes_records (fun key lane => u.flt.cycleRetired.contains (key, lane) && key == srcKey c && lane == srcLane c) u).1.1
  generalize restoreLanes (fun key lane => u.flt.cycleRetired.contains (key, lane) && key == srcKey c && lane == srcLane c) u = v at ht htim hkept
  have hvt : v.flt.timers = s.flt.timers := htim.trans htimers
  have hvn : v.now = s.now := (congrArg BitVec.toNat hkept).trans hnow
  obtain ⟨w, hw, hsource, hopens, hexpires, haction⟩ := openWindow_opens (c := c)
    (s := v.updFlt fun f => { f with cycleWindows := addNew c f.cycleWindows }) (severityOf s c) (hvt ▸ hroom) (hvt ▸ hnew)
  rw [← ht] at hw
  exact ⟨w, hw.trans (congrArg (· ++ [w]) hvt), hsource, by rw [hopens, ← hvn]; rfl, by rw [hexpires, ← hvn]; rfl, haction⟩

/-- A report of severity CONTAIN that no other of its cycle outranks retires what it names. -/
theorem reportAtCycle_contains (h : (severityOf s c).sev = 2)
    (hfirst : isNoiseSource c = true ∨ s.flt.cycleAt ≠ some (320 * s.now + cycle)) : ∃ u, u.flt.roles = s.flt.roles ∧ u.en = s.en ∧
      t.flt.roles = (takeAction 2 c u).flt.roles ∧ t.en = (takeAction 2 c u).en := by
  rw [reportAtCycle_response, if_neg (by omega), if_pos (by omega), h] at ht
  obtain ⟨-, -, -, hen, -, -, -, hroles, -, -⟩ := loggedInCycle_leaves (n := 320 * s.now + cycle) (c := c) (d := d) (s := s) rfl
  have hfresh := loggedInCycle_fresh (n := 320 * s.now + cycle) (c := c) (d := d) (s := s) rfl
  generalize loggedInCycle (320 * s.now + cycle) c d s = u at ht hen hroles hfresh
  have hgo : ¬ ((!isNoiseSource c && (stoppedInCycle u c || u.flt.cycleWindows.any fun w => srcKey w == srcKey c && srcLane w == srcLane c)) = true) := by
    obtain hn | hf := hfirst
    · simp [hn]
    · obtain ⟨-, hstops, hwindows⟩ := hfresh hf
      simp [stoppedInCycle, hstops, hwindows]
  refine ⟨u, hroles, hen, ?_⟩
  unfold respondTo at ht
  dsimp only at ht
  rw [if_neg (by decide), if_neg hgo] at ht
  split at ht <;> rw [ht] <;> exact ⟨rfl, rfl⟩

theorem reportAtCycle_fatal (h : 4 ≤ (severityOf s c).sev) : ∃ u, u.now = s.now ∧ t = takeAction (severityOf s c).sev c u := by
  rw [reportAtCycle_response, if_neg (by omega), if_pos (by omega)] at ht
  obtain ⟨-, hnow, -⟩ := loggedInCycle_leaves (n := 320 * s.now + cycle) (c := c) (d := d) (s := s) rfl
  generalize loggedInCycle (320 * s.now + cycle) c d s = u at ht hnow
  unfold respondTo at ht
  dsimp only at ht
  rw [if_pos h] at ht
  refine ⟨_, ?_, ht⟩
  exact (congrArg BitVec.toNat (keepsReport_trans (keepsReport_updFlt u _ rfl rfl rfl rfl rfl rfl) (supersedeCycle_keepsReport _ _)).1.1.1).trans hnow

end

theorem noise_not_lane {c : BitVec 16} (h : isNoiseSource c = true) : isLaneSource c = false := by
  have hkey : srcKey c = 50 := by
    unfold isNoiseSource at h
    simp only [Bool.and_eq_true, beq_iff_eq] at h
    exact h.1
  have hcount : laneCount 50 = 0 := by decide
  unfold isLaneSource
  rw [hkey, hcount]
  rfl

/-- A lane that is retired is in no service. -/
theorem takeAction_retires {c : BitVec 16} (h : isLaneSource c = true) (s : State) :
    ∀ r, ((takeAction 2 c s).roles (srcKey c))[srcLane c]? = some r → r = 11 := by
  have hno : ¬ isNoiseSource c = true := fun hn => by rw [noise_not_lane hn] at h; exact absurd h (by decide)
  unfold takeAction
  rw [if_pos rfl, if_neg hno]
  unfold retireLane
  dsimp only
  intro r hr
  split at hr
  · rename_i hnone
    rw [hnone] at hr
    exact absurd hr (by simp)
  · rename_i x hx
    split at hr
    · rename_i h11
      rw [hx] at hr
      exact (Option.some.inj hr).symm.trans h11
    · generalize (if x.toNat < 8 then discardInternal (srcKey c) x.toNat (discardAt (srcKey c / 8) x.toNat s) else s) = u at hr
      have hroles : ((setRole (srcKey c) (srcLane c) 11 u).updFlt fun f =>
          { f with retiring := f.retiring ++ [(srcKey c, srcLane c, c, x.toNat)], retired := f.retired + 1 }).roles (srcKey c) =
            (u.roles (srcKey c)).set (srcLane c) 11 := roles_setRole (srcKey c) (srcLane c) 11 u
      rw [hroles, List.getElem?_set_self'] at hr
      cases hget : (u.roles (srcKey c))[srcLane c]? with
      | none => rw [hget] at hr; exact absurd hr (by simp)
      | some y => rw [hget] at hr; exact (Option.some.inj hr).symm

theorem takeAction_retiresSource {c : BitVec 16} (h : isNoiseSource c = true) {n : Fin 4} (hn : n.val = srcLane c) (s : State) :
    (takeAction 2 c s).en.sources[n].state = 2 := by
  have hfin : (⟨srcLane c % 4, Nat.mod_lt _ (by decide)⟩ : Fin 4) = n := Fin.ext (by simp only; omega)
  unfold takeAction
  rw [if_pos rfl, if_pos h, hfin]
  unfold retireSource
  split
  · assumption
  · simp [State.updEn]

end Sys2Proof.Machine
end

section
/-! SUPPORT. A fault report and the outcome of an uncorrectable word (12 R480, Table 12-7). -/
namespace Sys2Proof.Machine

/-- The state in which a report reaches the collector. -/
def reportReady (c detail : BitVec 16) (owner : WordOwner) (s : State) : State :=
  if srcChecker c = 4 then uncorrOutcome c detail owner s else s.updEn (dupOutcome c)

section
variable {s : State} {c : BitVec 16}

theorem exec_faultReport (hup : s.mainUp = true) (hlc : s.lc.state ≠ lcScrap) (hc : reportable c = true) (detail : BitVec 16)
    (owner : WordOwner) (cycle : Cycle) : exec (.faultReport c detail owner cycle) s =
      .next (if srcChecker c = 17 then
          tamperAlarm 0x14 false (c.setWidth 32) (reportAtCycle cycle.val c (detailOf c detail) (reportReady c detail owner s))
        else reportAtCycle cycle.val c (detailOf c detail) (reportReady c detail owner s)) := by
  change execFaultReport c detail owner cycle s = _
  unfold execFaultReport
  exact if_neg (by simp [hup, hlc, hc])

theorem exec_faultReport_none (h : s.mainUp = false ∨ s.lc.state = lcScrap ∨ reportable c = false) (detail : BitVec 16)
    (owner : WordOwner) (cycle : Cycle) : exec (.faultReport c detail owner cycle) s = .next s := by
  change execFaultReport c detail owner cycle s = _
  unfold execFaultReport
  exact if_pos (by obtain h | h | h := h <;> simp [h])

theorem req?_sameRids_none {t : State} (h : State.sameRids s t) {rid : Nat} (hr : s.req? rid = none) : t.req? rid = none := by
  cases ht : t.req? rid with
  | none => rfl
  | some q =>
    obtain ⟨r, hs⟩ := req?_sameRids (s := t) (t := s) h.symm ht
    rw [hr] at hs
    exact absurd hs (by simp)

/-- An inactive bank that is to be switched to is disarmed. -/
theorem bankUncorr_prepared (h2 : 2 ≤ s.cfg.coState.toNat) (h3 : s.cfg.coState.toNat ≤ 3) (owner : Nat) : bankUncorr owner s =
    { s with cfg := { s.cfg with bankBad := addNew owner s.cfg.bankBad, armed := (bankUncorr owner s).cfg.armed } } := by
  have h4 : ¬ s.cfg.coState = 4 := fun h => by rw [h] at h3; exact absurd h3 (by decide)
  have hcfg : ∀ v : State, v = s.updCfg (fun c => { c with bankBad := addNew owner c.bankBad }) → ¬ v.cfg.coState = 4 := fun v hv => by
    rw [hv]; exact h4
  unfold bankUncorr
  dsimp only
  rw [if_neg (by simp; omega), if_neg (hcfg _ rfl)]
  rfl

/-- The outcome that an active bank's word has at once: its station's restart is due. -/
theorem activeBank_due (hc : srcStation c = 7 ∨ srcStation c ≠ 7) (detail : BitVec 16) :
    (srcStation c, s.now + 1, c) ∈ (uncorrOutcome c detail .activeBank s).flt.due := by
  change _ ∈ (takeAction (promoteAction c 4) c s).flt.due
  have hact : promoteAction c 4 = if srcStation c = 7 then 5 else 4 := by
    unfold promoteAction
    simp
  rw [hact]
  obtain h | h := hc
  · rw [if_pos h, h]
    exact List.mem_append_right _ (List.mem_singleton_self _)
  · rw [if_neg h]
    exact List.mem_append_right _ (List.mem_singleton_self _)

/-- The outcomes that change what a report changes alone. -/
theorem uncorrOutcome_only (detail : BitVec 16) {owner : WordOwner} (hr : ∀ rid, owner ≠ .request rid) (hb : owner ≠ .inactiveBank) :
    State.reportsOnly s (uncorrOutcome c detail owner s) := by
  cases owner with
  | request rid => exact absurd rfl (hr rid)
  | activeBank => exact takeAction_only _ _ _
  | inactiveBank => exact absurd rfl hb
  | slot t h => rfl
  | system n t => rfl
  | nobody => rfl

end

theorem reportsOnly_withCfg {s t : State} (h : State.reportsOnly s t) : t.cfg = s.cfg := by rw [h]

/-- What the response to a report does, by its severity. -/
theorem reportAtCycle_answers {cycle : Nat} {c d : BitVec 16} {s t : State} (ht : t = reportAtCycle cycle c d s) :
    ((severityOf s c).sev ≤ 1 → t.flt.due = s.flt.due ∧ t.flt.timers = s.flt.timers ∧ t.flt.roles = s.flt.roles ∧ t.reqs = s.reqs) ∧
      ((severityOf s c).sev = 3 → s.flt.cycleAt ≠ some (320 * s.now + cycle) → s.flt.timers.length < 16 → (∀ w ∈ s.flt.timers, w.source ≠ c) →
        ∃ w, t.flt.timers = s.flt.timers ++ [w] ∧ w.source = c ∧ w.opens = s.now + 1 ∧
          w.expires = s.now + 1 + (severityOf s c).window ∧ w.action = (severityOf s c).action) ∧
      ((severityOf s c).sev = 2 → isLaneSource c = true → s.flt.cycleAt ≠ some (320 * s.now + cycle) →
        ∀ r, (t.roles (srcKey c))[srcLane c]? = some r → r = 11) ∧
      ((severityOf s c).sev = 2 → isNoiseSource c = true → ∀ n : Fin 4, n.val = srcLane c → t.en.sources[n].state = 2) ∧
      ((severityOf s c).sev = 4 → (srcStation c, s.now + 1, c) ∈ t.flt.due) ∧
      ((severityOf s c).sev = 5 → (7, s.now + 1, c) ∈ t.flt.due) := by
  refine ⟨reportAtCycle_note ht, reportAtCycle_escalates ht, fun hsev hlane hfresh => ?_, fun hsev hnoise n hn => ?_,
    fun hsev => ?_, fun hsev => ?_⟩
  · obtain ⟨u, -, -, hroles, -⟩ := reportAtCycle_contains ht hsev (.inr hfresh)
    have hretires := takeAction_retires hlane u
    unfold State.roles at hretires ⊢
    rw [hroles]
    exact hretires
  · obtain ⟨u, -, -, -, hen⟩ := reportAtCycle_contains ht hsev (.inl hnoise)
    rw [hen]
    exact takeAction_retiresSource hnoise hn u
  · obtain ⟨u, hnow, htake⟩ := reportAtCycle_fatal ht (by omega)
    rw [htake, hsev, ← hnow]
    exact List.mem_append_right _ (List.mem_singleton_self _)
  · obtain ⟨u, hnow, htake⟩ := reportAtCycle_fatal ht (by omega)
    rw [htake, hsev, ← hnow]
    exact List.mem_append_right _ (List.mem_singleton_self _)

/-- The start of a report that no word's outcome precedes. -/
theorem updEn_start (s : State) (f : Entropy → Entropy) (c : BitVec 16) : State.reportsOnly s (s.updEn f) ∧
    severityOf (s.updEn f) c = severityOf s c ∧ (s.updEn f).flt = s.flt ∧ (s.updEn f).now = s.now ∧ (s.updEn f).image = s.image ∧
    (s.updEn f).tick = s.tick ∧ (s.updEn f).reqs = s.reqs := ⟨rfl, severityOf_image rfl c, rfl, rfl, rfl, rfl, rfl⟩

/-- Settles O31: a report is recorded and answered in its cycle, after the outcome that its word has at once. -/
theorem reportsTakeTheirResponse : Obligations.ReportsTakeTheirResponse := by
  unfold Obligations.ReportsTakeTheirResponse
  refine ⟨fun s c detail owner cycle hup hlc hc h4 => ?_, fun s c detail rid r cycle hup hlc hc h4 hr => ?_,
    fun s c detail owner cycle hup hlc hc h4 => ?_, fun s c detail owner cycle h => exec_faultReport_none h detail owner cycle⟩
  · have hready : reportReady c detail owner s = s.updEn (dupOutcome c) := if_neg h4
    have hexec := exec_faultReport hup hlc hc detail owner cycle
    obtain ⟨hstart, hsev, hflt, hnow, himage, htick, hreqs⟩ := updEn_start s (dupOutcome c) c
    rw [← hready] at hstart hsev hflt hnow himage htick hreqs
    generalize reportReady c detail owner s = s1 at hexec hstart hsev hflt hnow himage htick hreqs
    obtain ⟨honly, hreported, -, -, -, hlatch⟩ := reportAtCycle_leaves cycle.val c (detailOf c detail) s1 rfl
    have hanswers := reportAtCycle_answers (cycle := cycle.val) (c := c) (d := detailOf c detail) (s := s1) rfl
    generalize reportAtCycle cycle.val c (detailOf c detail) s1 = t at hexec honly hreported hlatch hanswers
    rw [hsev, hflt, hnow, hreqs] at hanswers
    rw [hsev, hflt, himage, htick] at hlatch
    obtain ⟨hnote, hescalate, hlane, hsource, hstation, hblock⟩ := hanswers
    exact ⟨t, hexec, reportsOnly_trans hstart honly, hreported, hnote, hescalate, hlane, hsource, hstation, hblock, hlatch⟩
  · have h17 : ¬ srcChecker c = 17 := by omega
    have hready : reportReady c detail (.request rid) s = failRequest rid 0x3F c (s.now + 1) s := if_pos h4
    have hexec := exec_faultReport hup hlc hc detail (.request rid) cycle
    rw [if_neg h17, hready] at hexec
    obtain ⟨hends, -, hstatus⟩ := failRequest_ends hr 0x3F c (s.now + 1) rfl
    generalize failRequest rid 0x3F c (s.now + 1) s = s1 at hexec hends hstatus
    obtain ⟨honly, hreported, hrids, -, -, -⟩ := reportAtCycle_leaves cycle.val c (detailOf c detail) s1 rfl
    generalize reportAtCycle cycle.val c (detailOf c detail) s1 = t at hexec honly hreported hrids
    obtain ⟨hgone, hend⟩ | ⟨hcuts, -⟩ := hstatus
    · refine ⟨t, hexec, endsOnly_trans hends (endsOnly_of_reports honly), req?_sameRids_none hrids hgone, hreported,
        endedOf r 0x3F (failAux r c) (s.now + 1), ?_, req_rid hr, rfl, rfl⟩
      rw [show t.ended = s1.ended by rw [honly]]
      exact hend
    · exact absurd hcuts (by decide)
  · have h17 : ¬ srcChecker c = 17 := by omega
    have hready : reportReady c detail owner s = uncorrOutcome c detail owner s := if_pos h4
    have hexec := exec_faultReport hup hlc hc detail owner cycle
    rw [if_neg h17, hready] at hexec
    have honlyOutcome := @uncorrOutcome_only s c detail owner
    have hbank : owner = .inactiveBank → uncorrOutcome c detail owner s = bankUncorr (srcStation c) s := fun h => by rw [h]; rfl
    have hactive : owner = .activeBank → (srcStation c, s.now + 1, c) ∈ (uncorrOutcome c detail owner s).flt.due := fun h => by
      rw [h]; exact activeBank_due (Classical.em _) detail
    have hword : (∃ n h, owner = .slot n h) ∨ (∃ n m, owner = .system n m) ∨ owner = .nobody →
        (s.now + 1, c, detail, owner) ∈ (uncorrOutcome c detail owner s).flt.wordsDue := by
      rintro (⟨n, h, rfl⟩ | ⟨n, m, rfl⟩ | rfl) <;> exact List.mem_append_right _ (List.mem_singleton_self _)
    generalize uncorrOutcome c detail owner s = s1 at hexec honlyOutcome hbank hactive hword
    obtain ⟨honly, hreported, -, hwords, hdue, -⟩ := reportAtCycle_leaves cycle.val c (detailOf c detail) s1 rfl
    generalize reportAtCycle cycle.val c (detailOf c detail) s1 = t at hexec honly hreported hwords hdue
    refine ⟨t, hexec, hreported, fun hr hb => reportsOnly_trans (honlyOutcome hr hb) honly, fun hb h2 h3 => ?_,
      fun hb => hdue _ (hactive hb), fun hb => by rw [hwords]; exact hword hb⟩
    have hdisarm := bankUncorr_prepared h2 h3 (srcStation c)
    rw [← hbank hb] at hdisarm
    have hcfg : t.cfg = s1.cfg := reportsOnly_withCfg honly
    have hbad : s1.cfg.bankBad = addNew (srcStation c) s.cfg.bankBad := (congrArg (fun x => x.cfg.bankBad) hdisarm :)
    refine ⟨?_, ?_⟩
    · rw [hcfg, hbad, ← hdisarm]
      exact honly
    · rw [hcfg, hbad]
      unfold addNew
      split
      · rename_i h; simpa using h
      · simp

end Sys2Proof.Machine
end

section
/-! SUPPORT. What the fabric's returns leave of the collector, the cut-over and the bursts (08 R344, R345, R353 to R360). -/
namespace Sys2Proof.Machine

/-- `t` keeps the set in force and the cut-over, the tick and its records; what more is due is due at the boundary. -/
def State.takesReturn (s t : State) : Prop :=
  t.cfg = s.cfg ∧ State.recordsKept s t ∧ ∀ d ∈ t.flt.due, d ∈ s.flt.due ∨ d.2.1 = s.now + 1

theorem takesReturn_refl (s : State) : State.takesReturn s s := ⟨rfl, recordsKept_refl s, fun _ h => .inl h⟩

theorem recordsKept_now {s t : State} (h : State.recordsKept s t) : t.now = s.now := congrArg BitVec.toNat h.1.1

theorem takesReturn_trans {s t u : State} (h1 : State.takesReturn s t) (h2 : State.takesReturn t u) : State.takesReturn s u := by
  obtain ⟨hcfg, hrec, hdue⟩ := h1
  obtain ⟨hcfg', hrec', hdue'⟩ := h2
  refine ⟨hcfg'.trans hcfg, recordsKept_trans hrec hrec', fun d hd => ?_⟩
  obtain h | h := hdue' d hd
  · exact hdue d h
  · exact .inr (h.trans (congrArg (· + 1) (recordsKept_now hrec)))

theorem takesReturn_of_flt {s t : State} (hcfg : t.cfg = s.cfg) (htick : t.tick = s.tick) (hrec : t.flt.recent = s.flt.recent)
    (hdue : t.flt.due = s.flt.due) : State.takesReturn s t :=
  ⟨hcfg, recordsKept_of_recent htick (by unfold State.image; rw [hcfg]) hrec, fun _ h => .inl (hdue ▸ h)⟩

theorem takesReturn_of_same {s t : State} (hcfg : t.cfg = s.cfg) (htick : t.tick = s.tick) (hflt : t.flt = s.flt) :
    State.takesReturn s t := takesReturn_of_flt hcfg htick (by rw [hflt]) (by rw [hflt])

theorem takeAction_newDue (a : Nat) (c : BitVec 16) (s : State) :
    ∀ d ∈ (takeAction a c s).flt.due, d ∈ s.flt.due ∨ d.2.1 = s.now + 1 := by
  have happend : ∀ (l : List (Nat × Nat × BitVec 16)) (x d : Nat × Nat × BitVec 16), x.2.1 = s.now + 1 → d ∈ l ++ [x] →
      d ∈ l ∨ d.2.1 = s.now + 1 := fun l x d hx hd => by
    obtain h | h := List.mem_append.mp hd
    · exact .inl h
    · rw [List.mem_singleton.mp h]; exact .inr hx
  intro d hd
  unfold takeAction retireSource at hd
  (repeat' split at hd)
  · exact .inl hd
  · exact .inl hd
  · rw [retireLane_due] at hd; exact .inl hd
  · exact happend _ _ d (by rfl) hd
  · exact happend _ _ d (by rfl) hd
  · exact .inl hd

theorem takeAction_takesReturn (a : Nat) (c : BitVec 16) (s : State) : State.takesReturn s (takeAction a c s) :=
  ⟨(congrArg State.cfg (takeAction_only a c s) :), takeAction_records a c s, takeAction_newDue a c s⟩

theorem logReport_takesReturn (p : Bool) (c d : BitVec 16) (cl : SevClass) (s : State) : State.takesReturn s (logReport p c d cl s) :=
  ⟨(congrArg State.cfg (logReport_only p c d cl s) :), logReport_kept p c d cl s, fun x hx => by
    rw [logReport_logs p c d cl s] at hx; exact .inl hx⟩

theorem openWindow_takesReturn (c : BitVec 16) (cl : SevClass) (s : State) : State.takesReturn s (openWindow c cl s) := by
  have hmark : State.takesReturn s (markRecords c s.now (fun x => { x with action := true }) s) :=
    ⟨rfl, markRecords_records c s.now (fun x => { x with action := true }) (fun _ => ⟨rfl, rfl, rfl⟩) s, fun _ h => .inl h⟩
  unfold openWindow
  dsimp only
  split
  · exact takesReturn_refl s
  · split
    · exact takesReturn_of_flt rfl rfl rfl rfl
    · exact takesReturn_trans (takesReturn_trans (takesReturn_trans hmark (takeAction_takesReturn _ _ _))
        (logReport_takesReturn _ _ _ _ _)) (takeAction_takesReturn _ _ _)

theorem faultReport_takesReturn (c d : BitVec 16) (s : State) : State.takesReturn s (faultReport c d s) := by
  unfold faultReport reportAs
  dsimp only
  have hlog := logReport_takesReturn false c d (severityOf s c) s
  split
  · exact takesReturn_trans hlog (openWindow_takesReturn _ _ _)
  · split
    · exact takesReturn_trans hlog (takeAction_takesReturn _ _ _)
    · exact hlog

/-- The cut-over stays due at the boundary that it is due at. -/
theorem cutDue_takesReturn {s t : State} (h : State.takesReturn s t) (hfixed : t.fixed = s.fixed) (hcut : cutDue s = true) :
    cutDue t = true := by
  obtain ⟨hcfg, hrec, hdue⟩ := h
  have hnow := recordsKept_now hrec
  have hlockdown : t.flt.lockdown = s.flt.lockdown := congrArg Fixed.lockdown hfixed
  simp only [cutDue, State.locked, stopDue, Bool.and_eq_true, Bool.not_eq_true', Bool.or_eq_false_iff, List.any_eq_false,
    decide_eq_true_eq] at hcut ⊢
  obtain ⟨⟨hstate, htarget⟩, hlock, hstop⟩ := hcut
  rw [hcfg, hnow, hlockdown]
  refine ⟨⟨hstate, htarget⟩, hlock, fun d hd hlate => ?_⟩
  obtain hold | hnew := hdue d hd
  · exact hstop d hold hlate
  · omega

/-! ### The ends of a burst's owner -/

/-- `t` keeps the fabric and what a return leaves. -/
def State.keepsFab (s t : State) : Prop := State.takesReturn s t ∧ t.fab = s.fab

theorem keepsFab_of {s t : State} (hcfg : t.cfg = s.cfg) (htick : t.tick = s.tick) (hflt : t.flt = s.flt) (hfab : t.fab = s.fab) :
    State.keepsFab s t := ⟨takesReturn_of_same hcfg htick hflt, hfab⟩

theorem failStep_keepsFab (rid step status : Nat) (c : BitVec 16) (due : Nat) (s : State) :
    State.keepsFab s (failStep rid step status c due s) := by
  unfold failStep
  split
  · exact keepsFab_of rfl rfl rfl rfl
  · rename_i r hr
    split
    · obtain ⟨honly, -, -⟩ := closeRequest_only (r.failedAt step) status (failAux { r with cur := step } c) due s
      generalize closeRequest (r.failedAt step) status (failAux { r with cur := step } c) due s = t at honly
      unfold State.endedOnly at honly
      exact keepsFab_of (congrArg State.cfg honly :) (congrArg State.tick honly :) (congrArg State.flt honly :) (congrArg State.fab honly :)
    · exact keepsFab_of rfl rfl rfl rfl

theorem failEnded_keepsFab (e : Ended) (step status : Nat) (c : BitVec 16) (due : Nat) (s : State) :
    State.keepsFab s (failEnded e step status c due s) := by
  unfold failEnded
  obtain ⟨k, hk⟩ := foldl_ks (fun s (d : Desc) => if receives d then unpend e.tenant (Desc.keyB d) s else s) (fun s d => by
      split
      · exact ⟨_, rfl⟩
      · exact ⟨s.ks, rfl⟩) e.descs { s with ended := s.ended.filter (fun x => x.rid ≠ e.rid) ++ [{ e with
        status := BitVec.ofNat 8 status, due := due, outLen := (e.stepLens.take step).sum,
        auxOut := leBytes 1 step ++ [0xFF, 0, 0] ++ leBytes 2 c.toNat ++ leBytes 2 e.index.toNat }] }
  dsimp only
  rw [hk]
  exact keepsFab_of rfl rfl rfl rfl

theorem loseEntry_keepsFab (t k : Nat) (i : BitVec 16) (s : State) : State.keepsFab s (loseEntry t k i s) := keepsFab_of rfl rfl rfl rfl

/-! ### The fabric's own parts -/

/-- `g` has the bursts of `f` and the peaks and late counts of its ports. -/
def Fabric.timedAs (f g : Fabric) : Prop :=
  g.bursts = f.bursts ∧ ∀ n : Fin 4, g.ports[n].peak = f.ports[n].peak ∧ g.ports[n].late = f.ports[n].late

theorem timedAs_of_eq {f g : Fabric} (h : g = f) : Fabric.timedAs f g := h ▸ ⟨rfl, fun _ => ⟨rfl, rfl⟩⟩

theorem timedAs_trans {f g h : Fabric} (h1 : Fabric.timedAs f g) (h2 : Fabric.timedAs g h) : Fabric.timedAs f h :=
  ⟨h2.1.trans h1.1, fun n => ⟨(h2.2 n).1.trans (h1.2 n).1, (h2.2 n).2.trans (h1.2 n).2⟩⟩

theorem updPort_port (p : Nat) (f : Port → Port) (s : State) (n : Fin 4) :
    (updPort p f s).fab.ports[n] = if n = portFin p then f s.fab.ports[n] else s.fab.ports[n] := by
  unfold updPort State.updFab
  dsimp only
  by_cases h : n = portFin p
  · subst h
    rw [if_pos rfl]
    exact Vector.getElem_set_self ..
  · rw [if_neg h]
    exact Vector.getElem_set_ne _ _ (by simpa [Fin.ext_iff] using Ne.symm h)

theorem updPort_timedAs (p : Nat) {f : Port → Port} (hf : ∀ x, (f x).peak = x.peak ∧ (f x).late = x.late) (s : State) :
    Fabric.timedAs s.fab (updPort p f s).fab := by
  refine ⟨rfl, fun n => ?_⟩
  rw [updPort_port]
  split
  · exact hf _
  · exact ⟨rfl, rfl⟩

theorem updPort_takesReturn (p : Nat) (f : Port → Port) (s : State) : State.takesReturn s (updPort p f s) :=
  takesReturn_of_same rfl rfl rfl

theorem assertBlk_takesReturn (n : Nat) (s : State) : State.takesReturn s (assertBlk n s) := takesReturn_of_same rfl rfl rfl

theorem faultReport_fab (c d : BitVec 16) (s : State) : (faultReport c d s).fab = s.fab := by rw [faultReport_only c d s]

/-- The port under whose checker a burst's error is reported (08 R357, R359). -/
def errorPort (b : Burst) : Nat := if isMgmt b then 3 else b.port

/-- The state in which an error is counted and reported, before its owner takes it. -/
def errorReported (b : Burst) (s : State) : State :=
  faultReport (srcPort (errorPort b) 23) 0 (updPort (errorPort b) (fun p => { p with err := satInc 0xFFFF p.err }) s)

theorem errorReported_leaves (b : Burst) (s : State) : State.takesReturn s (errorReported b s) ∧
    (errorReported b s).reported (srcPort (errorPort b) 23) ∧
    (errorReported b s).fab = (updPort (errorPort b) (fun p => { p with err := satInc 0xFFFF p.err }) s).fab :=
  ⟨takesReturn_trans (updPort_takesReturn _ _ s) (faultReport_takesReturn _ _ _), faultReport_reported _ _ _, faultReport_fab _ _ _⟩

theorem burstError_eq (b : Burst) (s : State) : burstError b s =
    if isMgmt b then (assertBlk 19 (errorReported b s)).updFlt fun f => if b.ident = mgmtIdent 1 then { f with hostBad := true } else f
    else if b.dropped then errorReported b s
    else match b.kind with
    | .mgmt _ => errorReported b s
    | .desc t k _ => stopRing t k 3 false (errorReported b s)
    | .completion t k i => loseEntry t k i (errorReported b s)
    | .input rid step _ | .output rid step =>
      let count := (errorReported b s).updPage (tenantFin (identTenant b.ident)) fun p => { p with fabErr := satInc 0xFFFF p.fabErr }
      match (errorReported b s).req? rid, (errorReported b s).ended.find? fun e => e.rid = rid with
      | some _, _ => failStep rid step 0x31 (srcPort b.port 23) ((errorReported b s).now + 1) count
      | none, some e => if e.status = 0x31 then errorReported b s
          else failEnded e step 0x31 (srcPort b.port 23) ((errorReported b s).now + 1) count
      | none, none => if b.write then (errorReported b s).updFab fun f => { f with badOut := addNew rid f.badOut } else errorReported b s := by
  unfold burstError errorReported errorPort transferFailed
  by_cases h : isMgmt b = true
  · simp only [h, if_true]
  · simp only [h]
    rfl

/-- `t` differs from `s` in the fabric at most in the requests whose output failed late. -/
def State.endsBurst (s t : State) : Prop := State.takesReturn s t ∧ t.fab = { s.fab with badOut := t.fab.badOut }

theorem endsBurst_of_keeps {s t : State} (h : State.keepsFab s t) : State.endsBurst s t := ⟨h.1, by rw [h.2]⟩

theorem endsBurst_refl (s : State) : State.endsBurst s s := ⟨takesReturn_refl s, rfl⟩

/-- What an error leaves, but for the owner of its burst. -/
theorem burstError_ends (b : Burst) (s : State) : State.endsBurst (errorReported b s) (burstError b s) := by
  rw [burstError_eq]
  generalize errorReported b s = u
  have hcount : ∀ t, State.keepsFab (u.updPage (tenantFin (identTenant b.ident)) fun p => { p with fabErr := satInc 0xFFFF p.fabErr }) t →
      State.endsBurst u t := fun t h =>
    endsBurst_of_keeps ⟨takesReturn_trans (takesReturn_of_same rfl rfl rfl) h.1, h.2⟩
  split
  · refine ⟨takesReturn_of_flt rfl rfl ?_ ?_, rfl⟩
    all_goals
      unfold State.updFlt
      dsimp only
      split <;> rfl
  · split
    · exact endsBurst_refl u
    · cases b.kind with
      | mgmt p => exact endsBurst_refl u
      | desc t k i => exact ⟨takesReturn_of_same rfl rfl rfl, rfl⟩
      | completion t k i => exact endsBurst_of_keeps (loseEntry_keepsFab t k i u)
      | input rid step off =>
        dsimp only
        split
        · exact hcount _ (failStep_keepsFab _ _ _ _ _ _)
        · split
          · exact endsBurst_refl u
          · exact hcount _ (failEnded_keepsFab _ _ _ _ _ _)
        · split
          · exact ⟨takesReturn_of_same rfl rfl rfl, rfl⟩
          · exact endsBurst_refl u
      | output rid step =>
        dsimp only
        split
        · exact hcount _ (failStep_keepsFab _ _ _ _ _ _)
        · split
          · exact endsBurst_refl u
          · exact hcount _ (failEnded_keepsFab _ _ _ _ _ _)
        · split
          · exact ⟨takesReturn_of_same rfl rfl rfl, rfl⟩
          · exact endsBurst_refl u

/-- An error: what it leaves, its report and its count. -/
theorem burstError_leaves (b : Burst) (s : State) {t : State} (ht : t = burstError b s) :
    State.takesReturn s t ∧ t.reported (srcPort (errorPort b) 23) ∧ Fabric.timedAs s.fab t.fab ∧
      ∀ n : Fin 4, t.fab.ports[n] = if n = portFin (errorPort b) then { s.fab.ports[n] with err := satInc 0xFFFF s.fab.ports[n].err }
        else s.fab.ports[n] := by
  obtain ⟨htakes, hreported, hfab⟩ := errorReported_leaves b s
  obtain ⟨htakes', hfab'⟩ := burstError_ends b s
  rw [← ht] at htakes' hfab'
  have hports : t.fab.ports = (updPort (errorPort b) (fun p => { p with err := satInc 0xFFFF p.err }) s).fab.ports := by
    rw [hfab', ← hfab]
  have hbursts : t.fab.bursts = s.fab.bursts := by rw [hfab', hfab]; rfl
  have hport := fun n => updPort_port (errorPort b) (fun p => { p with err := satInc 0xFFFF p.err }) s n
  refine ⟨takesReturn_trans htakes htakes', reported_of_kept htakes'.2.1 hreported, ⟨hbursts, fun n => ?_⟩, fun n => ?_⟩
  · rw [hports, hport n]
    split <;> exact ⟨rfl, rfl⟩
  · rw [hports, hport n]

/-- A burst that has timed out. -/
def deadBurst (b : Burst) (x : Burst) : Burst := if x.port = b.port ∧ x.write = b.write ∧ x.tag = b.tag then { x with dead := true } else x

/-- The state in which a time-out is counted. -/
def timedOut (b : Burst) (s : State) : State :=
  assertBlk 18 (updPort b.port (fun p => { p with timeout := satInc 0xFF p.timeout })
    (s.updFab fun f => { f with bursts := f.bursts.map (deadBurst b) }))

theorem burstTimeout_eq (b : Burst) (s : State) : burstTimeout b s = burstError b (timedOut b s) := rfl

theorem timedOut_port (b : Burst) (s : State) (n : Fin 4) : (timedOut b s).fab.ports[n] =
    if n = portFin b.port then { s.fab.ports[n] with timeout := satInc 0xFF s.fab.ports[n].timeout } else s.fab.ports[n] :=
  updPort_port b.port (fun p => { p with timeout := satInc 0xFF p.timeout }) (s.updFab fun f => { f with bursts := f.bursts.map (deadBurst b) }) n

/-- A time-out: what it leaves, its report and its counts. -/
theorem burstTimeout_leaves (b : Burst) (s : State) {t : State} (ht : t = burstTimeout b s) :
    State.takesReturn s t ∧ t.reported (srcPort (errorPort b) 23) ∧ t.fab.bursts = s.fab.bursts.map (deadBurst b) ∧
      (∀ n : Fin 4, t.fab.ports[n].peak = s.fab.ports[n].peak ∧ t.fab.ports[n].late = s.fab.ports[n].late) ∧
      (∀ n : Fin 4, n = portFin b.port → t.fab.ports[n].timeout = satInc 0xFF s.fab.ports[n].timeout) ∧
      (∀ n : Fin 4, n = portFin (errorPort b) → t.fab.ports[n].err = satInc 0xFFFF s.fab.ports[n].err) := by
  rw [burstTimeout_eq] at ht
  obtain ⟨htakes, hreported, ⟨hbursts, hports⟩, hport⟩ := burstError_leaves b (timedOut b s) ht
  have htimed := timedOut_port b s
  refine ⟨takesReturn_trans (takesReturn_of_same rfl rfl rfl) htakes, hreported, hbursts, fun n => ?_, fun n hn => ?_, fun n hn => ?_⟩
  · rw [(hports n).1, (hports n).2, htimed n]
    split <;> exact ⟨rfl, rfl⟩
  · rw [hport n, htimed n, if_pos hn]
    split <;> rfl
  · rw [hport n, if_pos hn, htimed n]
    split <;> rfl

end Sys2Proof.Machine
end

section
/-! SUPPORT. Returns and the events of their cycle (08 R344, R345, R353, R360; 03 R125, R635). -/
namespace Sys2Proof.Machine

/-! ### Events -/

/-- The event of one line. -/
def lineEvent (t k kind c : Nat) (s : State) (n : Fin 16) : State :=
  if bitAt s.fab.evMap[n] 31 ∧ fieldNat s.fab.evMap[n] 26 2 = kind ∧ fieldNat s.fab.evMap[n] 16 6 = t ∧ bitAt s.fab.evMap[n] (22 + k) then
    match s.fab.evStart[n] with
    | some b =>
      if c < b + 80 then s.updFab fun f => { f with evOvr := f.evOvr ||| (BitVec.ofNat 16 1 <<< n.val) }
      else s.updFab fun f => { f with evStart := f.evStart.set n (some c) }
    | none => s.updFab fun f => { f with evStart := f.evStart.set n (some c) }
  else s

theorem fabricEvent_eq (t k kind cycle : Nat) (s : State) :
    fabricEvent t k kind cycle s = (List.finRange 16).foldl (lineEvent t k kind (320 * s.now + cycle)) s := rfl

/-- `t` differs from `s` in the event lines alone. -/
def State.linesOnly (s t : State) : Prop := t = { s with fab := { s.fab with evOvr := t.fab.evOvr, evStart := t.fab.evStart } }

theorem linesOnly_trans {s t u : State} (h1 : State.linesOnly s t) (h2 : State.linesOnly t u) : State.linesOnly s u := by
  unfold State.linesOnly at *
  rw [h2, h1]

theorem lineEvent_linesOnly (t k kind c : Nat) (s : State) (n : Fin 16) : State.linesOnly s (lineEvent t k kind c s n) := by
  unfold lineEvent
  (repeat' split) <;> rfl

theorem lineEvent_other (t k kind c : Nat) (s : State) {n m : Fin 16} (h : m ≠ n) :
    (lineEvent t k kind c s n).fab.evStart[m] = s.fab.evStart[m] := by
  have hset : ∀ x : Option Nat, (s.fab.evStart.set n x)[m] = s.fab.evStart[m] := fun x =>
    Vector.getElem_set_ne _ _ (by simpa [Fin.ext_iff] using Ne.symm h)
  unfold lineEvent State.updFab
  (repeat' split)
  · rfl
  · exact hset _
  · exact hset _
  · rfl

/-- A line that is mapped to the event, and whose last pulse is over. -/
def lineTakes (t k kind c : Nat) (s : State) (n : Fin 16) : Prop :=
  bitAt s.fab.evMap[n] 31 ∧ fieldNat s.fab.evMap[n] 26 2 = kind ∧ fieldNat s.fab.evMap[n] 16 6 = t ∧ bitAt s.fab.evMap[n] (22 + k) ∧
    ∀ a, s.fab.evStart[n] = some a → a + 80 ≤ c

theorem lineEvent_takes {t k kind c : Nat} {s : State} {n : Fin 16} (h : lineTakes t k kind c s n) :
    (lineEvent t k kind c s n).fab.evStart[n] = some c := by
  obtain ⟨h31, hkind, ht, hk, hover⟩ := h
  have hset : (s.fab.evStart.set n (some c))[n] = some c := Vector.getElem_set_self ..
  unfold lineEvent
  rw [if_pos ⟨h31, hkind, ht, hk⟩]
  cases hstart : s.fab.evStart[n] with
  | none => exact hset
  | some b =>
    dsimp only
    rw [if_neg (by have := hover b hstart; omega)]
    exact hset

theorem foldl_lineEvent_linesOnly (t k kind c : Nat) (l : List (Fin 16)) (s : State) :
    State.linesOnly s (l.foldl (lineEvent t k kind c) s) := by
  induction l generalizing s with
  | nil => rfl
  | cons n l ih => exact linesOnly_trans (lineEvent_linesOnly t k kind c s n) (ih _)

theorem foldl_lineEvent_other (t k kind c : Nat) {m : Fin 16} (l : List (Fin 16)) (hm : m ∉ l) (s : State) :
    (l.foldl (lineEvent t k kind c) s).fab.evStart[m] = s.fab.evStart[m] := by
  induction l generalizing s with
  | nil => rfl
  | cons n l ih =>
    rw [List.mem_cons, not_or] at hm
    rw [List.foldl_cons, ih hm.2, lineEvent_other t k kind c s hm.1]

theorem foldl_lineEvent_takes {t k kind c : Nat} {m : Fin 16} (l : List (Fin 16)) (hl : l.Nodup) (hm : m ∈ l) {s : State}
    (h : lineTakes t k kind c s m) : (l.foldl (lineEvent t k kind c) s).fab.evStart[m] = some c := by
  induction l generalizing s with
  | nil => exact absurd hm (by simp)
  | cons n l ih =>
    obtain ⟨hn, hl⟩ := List.nodup_cons.mp hl
    rw [List.foldl_cons]
    by_cases hmn : m = n
    · subst hmn
      rw [foldl_lineEvent_other t k kind c l hn, lineEvent_takes h]
    · have hmap : (lineEvent t k kind c s n).fab.evMap = s.fab.evMap := congrArg (fun x => x.fab.evMap) (lineEvent_linesOnly t k kind c s n)
      refine ih hl ((List.mem_cons.mp hm).resolve_left hmn) ?_
      unfold lineTakes at h ⊢
      rw [hmap, lineEvent_other t k kind c s hmn]
      exact h

/-- An event changes its lines alone, and one that its line takes starts its pulse. -/
theorem fabricEvent_leaves (t k kind cycle : Nat) (s : State) : State.linesOnly s (fabricEvent t k kind cycle s) ∧
    ∀ m, lineTakes t k kind (320 * s.now + cycle) s m → (fabricEvent t k kind cycle s).fab.evStart[m] = some (320 * s.now + cycle) := by
  rw [fabricEvent_eq]
  exact ⟨foldl_lineEvent_linesOnly _ _ _ _ _ s, fun m h => foldl_lineEvent_takes _ (List.nodup_finRange 16) (List.mem_finRange m) h⟩

/-! ### What is landed -/

/-- `t` keeps what a return leaves, and its bursts and their timing. -/
def State.landsIn (s t : State) : Prop := State.takesReturn s t ∧ Fabric.timedAs s.fab t.fab

theorem landsIn_refl (s : State) : State.landsIn s s := ⟨takesReturn_refl s, timedAs_of_eq rfl⟩

theorem landsIn_trans {s t u : State} (h1 : State.landsIn s t) (h2 : State.landsIn t u) : State.landsIn s u :=
  ⟨takesReturn_trans h1.1 h2.1, timedAs_trans h1.2 h2.2⟩

theorem landsIn_of_lines {s t : State} (h : State.linesOnly s t) : State.landsIn s t := by
  have hfab := (congrArg State.fab h :)
  exact ⟨takesReturn_of_same (congrArg State.cfg h :) (congrArg State.tick h :) (congrArg State.flt h :),
    by rw [hfab], fun n => by rw [hfab]; exact ⟨rfl, rfl⟩⟩

/-- The input that lands in a step's region. -/
def landedStep (r : Request) (step off now : Nat) (data : Bytes) (x : StepState) : StepState :=
  let x := if off < (hostAreas (r.descs.getD step []) 0).1 then
      { x with src := putBytes x.src off data, srcSym := symbolsOf (putBytes x.src off data) }
    else
      { x with aux := putBytes x.aux (off - (hostAreas (r.descs.getD step []) 0).1) data,
               auxSym := symbolsOf (putBytes x.aux (off - (hostAreas (r.descs.getD step []) 0).1) data) }
  { x with landed := x.landed + data.length, landTick := now }

theorem landedStep_landed (r : Request) (step off now : Nat) (data : Bytes) (x : StepState) :
    (landedStep r step off now data x).landed = x.landed + data.length := by
  unfold landedStep
  dsimp only
  split <;> rfl

theorem landedStep_src {r : Request} {step off : Nat} (h : off < (hostAreas (r.descs.getD step []) 0).1) (now : Nat) (data : Bytes)
    (x : StepState) : (landedStep r step off now data x).src = x.src.take off ++ data ++ x.src.drop (off + data.length) := by
  unfold landedStep
  dsimp only
  rw [if_pos h]
  rfl

/-- Input lands in its step and in nothing else but the event lines. -/
theorem landInput_leaves {s : State} {rid : Nat} {r : Request} (h : s.req? rid = some r) (step off cycle : Nat) (data : Bytes) :
    State.linesOnly (s.updReq rid fun x => x.updStep step (landedStep r step off s.now data)) (landInput rid step off cycle data s) := by
  unfold landInput
  rw [h]
  dsimp only
  change State.linesOnly _ (match (s.updReq rid fun x => x.updStep step (landedStep r step off s.now data)).req? rid with
    | some q => if q.steps.all (fun x => decide (x.landed ≥ x.need)) then
        fabricEvent q.tenant q.ring 0 cycle (s.updReq rid fun x => x.updStep step (landedStep r step off s.now data))
      else s.updReq rid fun x => x.updStep step (landedStep r step off s.now data)
    | none => s.updReq rid fun x => x.updStep step (landedStep r step off s.now data))
  split
  · split
    · exact (fabricEvent_leaves _ _ _ _ _).1
    · rfl
  · rfl

theorem landInput_landsIn (rid step off cycle : Nat) (data : Bytes) (s : State) : State.landsIn s (landInput rid step off cycle data s) := by
  cases h : s.req? rid with
  | none =>
    have hnone : landInput rid step off cycle data s = s := by
      unfold landInput
      rw [h]
    rw [hnone]
    exact landsIn_refl s
  | some r =>
    have hstep : State.landsIn s (s.updReq rid fun x => x.updStep step (landedStep r step off s.now data)) :=
      ⟨takesReturn_of_same rfl rfl rfl, timedAs_of_eq rfl⟩
    exact landsIn_trans hstep (landsIn_of_lines (landInput_leaves h step off cycle data))

/-- What a good read return brings. -/
def landRead (b : Burst) (data : Bytes) (ns cycle : Nat) (s : State) : State :=
  match b.kind with
  | .input rid step off => landInput rid step off cycle (fitTo b.len data) s
  | .desc t k i => landDescriptor b t k i data ns cycle s
  | _ => s

theorem readReturn_eq (b : Burst) (data : Bytes) (err : Bool) (ns cycle : Nat) (s : State) :
    readReturn b data err ns cycle s = takeReturn b err ns (landRead b data ns cycle) s := rfl

theorem landRead_landsIn (b : Burst) (data : Bytes) (ns cycle : Nat) (s : State) : State.landsIn s (landRead b data ns cycle s) := by
  unfold landRead
  split
  · exact landInput_landsIn _ _ _ _ _ s
  · exact ⟨takesReturn_of_same rfl rfl rfl, timedAs_of_eq rfl⟩
  · exact landsIn_refl s

/-- What a good write response brings. -/
def landWrite (b : Burst) (cycle : Nat) (s : State) : State :=
  match b.kind with
  | .completion t k _ => fabricEvent t k 2 cycle s
  | .mgmt p => if p = 1 then hostCopyDone s else s
  | .output rid _ =>
    let more := s.fab.bursts.any fun x => burstRid x == some rid && x.write
    let running := (s.req? rid).any moreToWrite
    if more || running then s
    else if s.fab.badOut.contains rid then s.updFab fun f => { f with badOut := f.badOut.filter (· ≠ rid) }
    else fabricEvent (identTenant b.ident) (identRing b.ident) 1 cycle s
  | _ => s

theorem writeReturn_eq (b : Burst) (err : Bool) (ns cycle : Nat) (s : State) :
    writeReturn b err ns cycle s = takeReturn b err ns (landWrite b cycle) s := rfl

theorem hostCopyDone_landsIn (s : State) : State.landsIn s (hostCopyDone s) := by
  unfold hostCopyDone
  dsimp only
  split
  · exact landsIn_refl s
  · exact ⟨takesReturn_of_flt rfl rfl rfl rfl, timedAs_of_eq rfl⟩

theorem landWrite_landsIn (b : Burst) (cycle : Nat) (s : State) : State.landsIn s (landWrite b cycle s) := by
  unfold landWrite
  dsimp only
  split
  · exact landsIn_of_lines (fabricEvent_leaves _ _ _ _ s).1
  · split
    · exact hostCopyDone_landsIn s
    · exact landsIn_refl s
  · split
    · exact landsIn_refl s
    · split
      · exact ⟨takesReturn_of_same rfl rfl rfl, rfl, fun _ => ⟨rfl, rfl⟩⟩
      · exact landsIn_of_lines (fabricEvent_leaves _ _ _ _ s).1
  · exact landsIn_refl s

/-! ### The timing of a return -/

/-- The state in which a late return is reported: it is counted on its port, and charged to its tenant and its request. -/
def lateCounted (b : Burst) (s : State) : State :=
  let s := updPort b.port (fun p => { p with late := satInc 0xFFFF p.late }) s
  let s := if isMgmt b then s else s.updPage (tenantFin (identTenant b.ident)) fun p => { p with fabLate := satInc 0xFFFF p.fabLate }
  match burstRid b with
  | some rid =>
    let s := { s with ended := s.ended.map fun (e : Ended) => if e.rid = rid then { e with late := true } else e }
    s.updReq rid fun r => { r with late := true }
  | none => s

/-- The state in which the time of a return is held. -/
def peakHeld (b : Burst) (ns : Nat) (s : State) : State := updPort b.port (fun p => { p with peak := max p.peak (min 255 ns) }) s

theorem timeReturn_eq (b : Burst) (ns : Nat) (s : State) : timeReturn b ns s =
    if ns ≤ 120 then peakHeld b ns s
    else assertBlk 18 (faultReport (srcPort b.port 22) (BitVec.ofNat 16 (min ns 0xFFFF)) (lateCounted b (peakHeld b ns s))) := rfl

theorem peakHeld_port (b : Burst) (ns : Nat) (s : State) (n : Fin 4) : (peakHeld b ns s).fab.ports[n] =
    if n = portFin b.port then { s.fab.ports[n] with peak := max s.fab.ports[n].peak (min 255 ns) } else s.fab.ports[n] :=
  updPort_port b.port (fun p => { p with peak := max p.peak (min 255 ns) }) s n

theorem ring_updPage_rings {f : TenantPage → TenantPage} (hf : ∀ p, (f p).rings = p.rings) (s : State) (t n : Tenant) (k : RingNo) :
    (s.updPage t f).ring n k = s.ring n k := by
  unfold State.ring
  by_cases h : n = t
  · subst h
    rw [State.page_updPage_same, hf]
  · rw [State.page_updPage_other h]

theorem lateCounted_leaves (b : Burst) (s : State) : State.takesReturn s (lateCounted b s) ∧ State.sameRids s (lateCounted b s) ∧
    (lateCounted b s).fab = (updPort b.port (fun p => { p with late := satInc 0xFFFF p.late }) s).fab ∧
    ∀ n k, (lateCounted b s).ring n k = s.ring n k := by
  unfold lateCounted
  dsimp only
  have hport : State.takesReturn s (updPort b.port (fun p => { p with late := satInc 0xFFFF p.late }) s) := updPort_takesReturn _ _ s
  have hpring : ∀ n k, (updPort b.port (fun p => { p with late := satInc 0xFFFF p.late }) s).ring n k = s.ring n k := fun _ _ => rfl
  have hpreqs : (updPort b.port (fun p => { p with late := satInc 0xFFFF p.late }) s).reqs = s.reqs := rfl
  generalize updPort b.port (fun p => { p with late := satInc 0xFFFF p.late }) s = u at hport hpring hpreqs ⊢
  have hpage : ∃ v, (if isMgmt b then u else u.updPage (tenantFin (identTenant b.ident)) fun p => { p with fabLate := satInc 0xFFFF p.fabLate }) = v ∧
      State.takesReturn s v ∧ v.reqs = s.reqs ∧ v.fab = u.fab ∧ ∀ n k, v.ring n k = s.ring n k := by
    split
    · exact ⟨u, rfl, hport, hpreqs, rfl, hpring⟩
    · exact ⟨_, rfl, takesReturn_trans hport (takesReturn_of_same rfl rfl rfl), hpreqs, rfl,
        fun n k => (ring_updPage_rings (f := fun p => { p with fabLate := satInc 0xFFFF p.fabLate }) (fun _ => rfl) u _ n k).trans (hpring n k)⟩
  obtain ⟨v, hv, htakes, hreqs, hfab, hring⟩ := hpage
  rw [hv]
  split
  · rename_i rid hrid
    exact ⟨takesReturn_trans htakes (takesReturn_of_same rfl rfl rfl),
      sameRids_trans (sameRids_of_reqs hreqs) (sameRids_map (fun r => if r.rid = rid then { r with late := true } else r)
        (fun r => by split <;> rfl) rfl), hfab, hring⟩
  · exact ⟨htakes, sameRids_of_reqs hreqs, hfab, hring⟩

/-- What the timing of a return leaves. -/
theorem timeReturn_leaves (b : Burst) (ns : Nat) (s : State) {t : State} (ht : t = timeReturn b ns s) :
    State.takesReturn s t ∧ State.sameRids s t ∧ t.fab.bursts = s.fab.bursts ∧ (∀ n k, t.ring n k = s.ring n k) ∧
      (∀ n : Fin 4, n = portFin b.port → t.fab.ports[n].peak = max s.fab.ports[n].peak (min 255 ns)) ∧
      (120 < ns → t.reported (srcPort b.port 22) ∧
        ∀ n : Fin 4, n = portFin b.port → t.fab.ports[n].late = satInc 0xFFFF s.fab.ports[n].late) := by
  have hpeak := peakHeld_port b ns s
  have hheld : State.takesReturn s (peakHeld b ns s) ∧ (peakHeld b ns s).reqs = s.reqs ∧ (peakHeld b ns s).fab.bursts = s.fab.bursts ∧
      ∀ n k, (peakHeld b ns s).ring n k = s.ring n k := ⟨updPort_takesReturn _ _ s, rfl, rfl, fun _ _ => rfl⟩
  rw [timeReturn_eq] at ht
  generalize peakHeld b ns s = u at ht hpeak hheld
  obtain ⟨htakes, hreqs, hbursts, hring⟩ := hheld
  by_cases hsoon : ns ≤ 120
  · rw [if_pos hsoon] at ht
    subst ht
    exact ⟨htakes, sameRids_of_reqs hreqs, hbursts, hring, fun n hn => by rw [hpeak n, if_pos hn], fun h => absurd h (by omega)⟩
  · rw [if_neg hsoon] at ht
    obtain ⟨hlate, hrids, hfab, hlring⟩ := lateCounted_leaves b u
    have hport := updPort_port b.port (fun p => { p with late := satInc 0xFFFF p.late }) u
    generalize lateCounted b u = v at ht hlate hrids hfab hlring
    have honly := faultReport_only (srcPort b.port 22) (BitVec.ofNat 16 (min ns 0xFFFF)) v
    have htakes' := faultReport_takesReturn (srcPort b.port 22) (BitVec.ofNat 16 (min ns 0xFFFF)) v
    have hrids' := faultReport_rids (srcPort b.port 22) (BitVec.ofNat 16 (min ns 0xFFFF)) v
    have hreported := faultReport_reported (srcPort b.port 22) (BitVec.ofNat 16 (min ns 0xFFFF)) v
    generalize faultReport (srcPort b.port 22) (BitVec.ofNat 16 (min ns 0xFFFF)) v = w at ht honly htakes' hrids' hreported
    have htfab : t.fab = (updPort b.port (fun p => { p with late := satInc 0xFFFF p.late }) u).fab := by
      rw [← hfab, ← (show w.fab = v.fab by rw [honly]), ht]
      rfl
    have htring : ∀ n k, t.ring n k = v.ring n k := fun n k => by
      rw [ht]
      change w.ring n k = _
      unfold State.ring State.page
      rw [show w.tenants = v.tenants by rw [honly]]
    refine ⟨takesReturn_trans htakes (takesReturn_trans hlate (takesReturn_trans htakes' ?_)), ?_, ?_, fun n k => ?_, fun n hn => ?_, fun _ => ⟨?_, fun n hn => ?_⟩⟩
    · rw [ht]; exact assertBlk_takesReturn 18 w
    · rw [ht]; exact sameRids_trans (sameRids_of_reqs hreqs) (sameRids_trans hrids hrids')
    · rw [htfab]; exact hbursts
    · rw [htring, hlring, hring]
    · rw [htfab, hport n, if_pos hn, hpeak n, if_pos hn]
    · rw [ht]; exact reported_assertBlk 18 hreported
    · rw [htfab, hport n, if_pos hn, hpeak n, if_pos hn]

end Sys2Proof.Machine
end

section
/-! SUPPORT. The returns of a burst, as one (08 R344, R345, R353 to R360; 03 R125; 18 R609). -/
namespace Sys2Proof.Machine

/-- Whether a burst is another than one that is answered. -/
def otherBurst (b x : Burst) : Bool := !(x.port = b.port && x.write == b.write && x.tag = b.tag)

theorem otherBurst_deadBurst (b x : Burst) : otherBurst b (deadBurst b x) = otherBurst b x := by
  unfold deadBurst
  split <;> rfl

theorem filter_deadBurst (b : Burst) (l : List Burst) : (l.map (deadBurst b)).filter (otherBurst b) = l.filter (otherBurst b) := by
  induction l with
  | nil => rfl
  | cons x l ih =>
    rw [List.map_cons, List.filter_cons, List.filter_cons, otherBurst_deadBurst, ih]
    by_cases h : otherBurst b x = true
    · have hno : ¬ (x.port = b.port ∧ x.write = b.write ∧ x.tag = b.tag) := by
        intro ⟨h1, h2, h3⟩
        simp [otherBurst, h1, h2, h3] at h
      rw [if_pos h, if_pos h, show deadBurst b x = x from if_neg hno]
    · rw [if_neg h, if_neg h]

theorem dropBurst_eq (b : Burst) (s : State) :
    dropBurst b s = { s with fab := { s.fab with bursts := s.fab.bursts.filter (otherBurst b) } } := rfl

/-- The state in which a return is timed, and its burst answered. -/
def returnTimed (b : Burst) (ns : Nat) (s : State) : State :=
  timeReturn b ns (dropBurst b (if ns > returnLimit ∧ !b.dead then burstTimeout b s else s))

theorem takeReturn_eq (b : Burst) (err : Bool) (ns : Nat) (act : State → State) (s : State) : takeReturn b err ns act s =
    if b.dead ∨ ns > returnLimit then returnTimed b ns s
    else if err then burstError b (returnTimed b ns s) else if b.dropped then returnTimed b ns s else act (returnTimed b ns s) := rfl

theorem returnTimed_leaves (b : Burst) (ns : Nat) (s : State) {v : State} (hv : v = returnTimed b ns s) :
    State.takesReturn s v ∧ v.fab.bursts = s.fab.bursts.filter (otherBurst b) ∧
      (∀ n : Fin 4, n = portFin b.port → v.fab.ports[n].peak = max s.fab.ports[n].peak (min 255 ns)) ∧
      (120 < ns → v.reported (srcPort b.port 22) ∧
        ∀ n : Fin 4, n = portFin b.port → v.fab.ports[n].late = satInc 0xFFFF s.fab.ports[n].late) ∧
      (b.dead = false → 4096 < ns → v.reported (srcPort (errorPort b) 23)) := by
  unfold returnTimed at hv
  have hfirst : ∀ u, u = (if ns > returnLimit ∧ !b.dead then burstTimeout b s else s) → State.takesReturn s u ∧
      u.fab.bursts.filter (otherBurst b) = s.fab.bursts.filter (otherBurst b) ∧
      (∀ n : Fin 4, u.fab.ports[n].peak = s.fab.ports[n].peak ∧ u.fab.ports[n].late = s.fab.ports[n].late) ∧
      (b.dead = false → 4096 < ns → u.reported (srcPort (errorPort b) 23)) := by
    intro u hu
    split at hu
    · obtain ⟨htakes, hreported, hbursts, hports, -, -⟩ := burstTimeout_leaves b s hu
      exact ⟨htakes, by rw [hbursts, filter_deadBurst], hports, fun _ _ => hreported⟩
    · rename_i hno
      subst hu
      exact ⟨takesReturn_refl u, rfl, fun _ => ⟨rfl, rfl⟩, fun hd hns => absurd ⟨hns, by rw [hd]; rfl⟩ hno⟩
  obtain ⟨htakes, hbursts, hports, hreported⟩ := hfirst _ rfl
  generalize (if ns > returnLimit ∧ !b.dead then burstTimeout b s else s) = u at hv htakes hbursts hports hreported
  obtain ⟨htakes', -, hbursts', -, hpeak, hlate⟩ := timeReturn_leaves b ns (dropBurst b u) hv
  have hdrop : State.takesReturn u (dropBurst b u) := takesReturn_of_same rfl rfl rfl
  have hall := takesReturn_trans hdrop htakes'
  refine ⟨takesReturn_trans htakes hall, hbursts'.trans hbursts, fun n hn => ?_, fun hns => ⟨(hlate hns).1, fun n hn => ?_⟩,
    fun hd hns => reported_of_kept hall.2.1 (hreported hd hns)⟩
  · rw [hpeak n hn, ← (hports n).1]; rfl
  · rw [(hlate hns).2 n hn, ← (hports n).2]; rfl

/-- Every return: what it leaves, the bursts, the port's counts and the reports. -/
theorem takeReturn_leaves (b : Burst) (err : Bool) (ns : Nat) {act : State → State} (hact : ∀ v, State.landsIn v (act v)) (s : State)
    {u : State} (hu : u = takeReturn b err ns act s) :
    State.takesReturn s u ∧ u.fab.bursts = s.fab.bursts.filter (otherBurst b) ∧
      (∀ n : Fin 4, n = portFin b.port → u.fab.ports[n].peak = max s.fab.ports[n].peak (min 255 ns)) ∧
      (120 < ns → u.reported (srcPort b.port 22) ∧
        ∀ n : Fin 4, n = portFin b.port → u.fab.ports[n].late = satInc 0xFFFF s.fab.ports[n].late) ∧
      (b.dead = false → err = true ∨ 4096 < ns → u.reported (srcPort (errorPort b) 23)) := by
  rw [takeReturn_eq] at hu
  obtain ⟨htakes, hbursts, hpeak, hlate, hlimit⟩ := returnTimed_leaves b ns s rfl
  generalize returnTimed b ns s = v at hu htakes hbursts hpeak hlate hlimit
  have hland : State.landsIn v u → State.takesReturn s u ∧ u.fab.bursts = s.fab.bursts.filter (otherBurst b) ∧
      (∀ n : Fin 4, n = portFin b.port → u.fab.ports[n].peak = max s.fab.ports[n].peak (min 255 ns)) ∧
      (120 < ns → u.reported (srcPort b.port 22) ∧
        ∀ n : Fin 4, n = portFin b.port → u.fab.ports[n].late = satInc 0xFFFF s.fab.ports[n].late) ∧
      (b.dead = false → 4096 < ns → u.reported (srcPort (errorPort b) 23)) := fun ⟨htakes', hbursts', hports'⟩ =>
    ⟨takesReturn_trans htakes htakes', hbursts'.trans hbursts, fun n hn => (hports' n).1.trans (hpeak n hn),
      fun hns => ⟨reported_of_kept htakes'.2.1 (hlate hns).1, fun n hn => (hports' n).2.trans ((hlate hns).2 n hn)⟩,
      fun hd hns => reported_of_kept htakes'.2.1 (hlimit hd hns)⟩
  split at hu
  · rename_i hdead
    subst hu
    refine ⟨htakes, hbursts, hpeak, hlate, fun hd _ => hlimit hd ?_⟩
    obtain hdead | hns := hdead
    · rw [hd] at hdead; exact absurd hdead (by decide)
    · exact hns
  · rename_i hlive
    have hns : ¬ 4096 < ns := fun h => hlive (.inr h)
    split at hu
    · obtain ⟨htakes', hreported', htimed', -⟩ := burstError_leaves b v hu
      obtain ⟨h1, h2, h3, h4, -⟩ := hland ⟨htakes', htimed'⟩
      exact ⟨h1, h2, h3, h4, fun _ _ => hreported'⟩
    · rename_i herr
      have hu' : State.landsIn v u := by
        split at hu
        · rw [hu]; exact landsIn_refl v
        · rw [hu]; exact hact v
      obtain ⟨h1, h2, h3, h4, h5⟩ := hland hu'
      refine ⟨h1, h2, h3, h4, fun hd hor => h5 hd (hor.resolve_left herr)⟩

/-! ### A return in time -/

theorem returnTimed_inTime {ns : Nat} (h : ns ≤ 4096) (b : Burst) (s : State) : returnTimed b ns s = timeReturn b ns (dropBurst b s) := by
  unfold returnTimed
  rw [if_neg (by unfold returnLimit; omega)]

theorem returnTimed_soon {ns : Nat} (h : ns ≤ 120) (b : Burst) (s : State) : returnTimed b ns s = { s with fab := { s.fab with
    bursts := (returnTimed b ns s).fab.bursts, ports := (returnTimed b ns s).fab.ports } } := by
  rw [returnTimed_inTime (by omega), timeReturn_eq, if_pos h]
  rfl

theorem takeReturn_dead {b : Burst} (h : b.dead = true) (err : Bool) (ns : Nat) (act : State → State) (s : State) :
    takeReturn b err ns act s = returnTimed b ns s := by
  rw [takeReturn_eq, if_pos (.inl h)]

theorem takeReturn_good {b : Burst} (hdead : b.dead = false) (hdropped : b.dropped = false) {ns : Nat} (h : ns ≤ 4096)
    (act : State → State) (s : State) : takeReturn b false ns act s = act (returnTimed b ns s) := by
  rw [takeReturn_eq, if_neg (by rw [hdead]; unfold returnLimit; simp; omega), if_neg Bool.false_ne_true, if_neg (by rw [hdropped]; decide)]

theorem takeReturn_dropped {b : Burst} (hdead : b.dead = false) (hdropped : b.dropped = true) {ns : Nat} (h : ns ≤ 4096)
    (act : State → State) (s : State) : takeReturn b false ns act s = returnTimed b ns s := by
  rw [takeReturn_eq, if_neg (by rw [hdead]; unfold returnLimit; simp; omega), if_neg Bool.false_ne_true, if_pos hdropped]

/-- What a return in time leaves for its owner: requests with their steps, and rings. -/
theorem returnTimed_owner {ns : Nat} (h : ns ≤ 4096) (b : Burst) (s : State) : State.sameRids s (returnTimed b ns s) ∧
    (returnTimed b ns s).now = s.now ∧ ∀ n k, (returnTimed b ns s).ring n k = s.ring n k := by
  rw [returnTimed_inTime h]
  obtain ⟨htakes, hrids, -, hring, -, -⟩ := timeReturn_leaves b ns (dropBurst b s) rfl
  exact ⟨hrids, recordsKept_now htakes.2.1, hring⟩

/-- Input that lands. -/
theorem landInput_step {s : State} {rid : Nat} {r : Request} (h : s.req? rid = some r) (i off cycle : Nat) (data : Bytes) {u : State}
    (hu : u = landInput rid i off cycle data s) :
    u.req? rid = some (r.updStep i (landedStep r i off s.now data)) ∧ u = { s with fab := u.fab, reqs := u.reqs } := by
  have hlines := landInput_leaves h i off cycle data
  rw [← hu] at hlines
  unfold State.linesOnly at hlines
  refine ⟨?_, ?_⟩
  · have hreqs : u.req? rid = (s.updReq rid fun x => x.updStep i (landedStep r i off s.now data)).req? rid := by
      unfold State.req?
      rw [(congrArg State.reqs hlines :)]
    rw [hreqs]
    exact req?_updReq_same h fun _ => rfl
  · conv => lhs; rw [hlines]
    rw [show u.reqs = (s.updReq rid fun x => x.updStep i (landedStep r i off s.now data)).reqs from (congrArg State.reqs hlines :),
      show u.fab = _ from (congrArg State.fab hlines :)]
    rfl

theorem getD_updStep_out (r : Request) (n : Nat) (f : StepState → StepState) (i : Nat) (hi : ¬ i < r.steps.length) :
    ((r.updStep n f).steps.getD i StepState.reset) = StepState.reset := by
  have hlen := length_updStep r n f
  rw [List.getD_eq_getElem?_getD, List.getElem?_eq_none (by omega)]
  rfl

/-- A descriptor that lands while its ring fetches is held. -/
theorem landDescriptor_held {s : State} {b : Burst} (hdead : b.dead = false) {n k : Nat} {i : BitVec 16}
    (hfetch : (s.ring (tenantFin n) (ringFin k)).fetching = true)
    (hnew : ∀ h ∈ (s.ring (tenantFin n) (ringFin k)).held, h.index ≠ i) (data : Bytes) (ns cycle : Nat) :
    ∃ h : HeldDesc, ((landDescriptor b n k i data ns cycle s).ring (tenantFin n) (ringFin k)).held =
      (s.ring (tenantFin n) (ringFin k)).held ++ [h] ∧ h.index = i ∧ h.bytes = fitTo 64 data ∧ h.landTick = s.now ∧ h.late = decide (120 < ns) := by
  unfold landDescriptor
  rw [ring_updRing_same, if_pos ⟨hfetch, by simpa using hnew, hdead⟩]
  exact ⟨_, rfl, rfl, rfl, rfl, rfl⟩

end Sys2Proof.Machine
end

section
/-! SUPPORT. The commands of a return (08 R344, R345, R353 to R360). -/
namespace Sys2Proof.Machine

theorem burstOf_names {s : State} {p : Nat} {w : Bool} {g : Nat} {b : Burst} (h : burstOf s p w g = some b) :
    b.port = p ∧ b.write = w ∧ b.tag = g := by
  have := List.find?_some h
  simp only [Bool.and_eq_true, beq_iff_eq, decide_eq_true_eq] at this
  exact ⟨this.1.1, this.1.2, this.2⟩

theorem portFin_val (p : Fin 4) : portFin p.val = p := Fin.ext (Nat.mod_eq_of_lt p.isLt)

theorem refillReads_full {s u : State} (hfixed : u.fixed = s.fixed) (h : s.tt.slot ≤ 5) : refillReads u = u := by
  have hslot : u.tt.slot = s.tt.slot := congrArg Fixed.slot hfixed
  unfold refillReads
  exact if_neg (by omega)

theorem refillWrites_cut {s u : State} (hfixed : u.fixed = s.fixed) (htakes : State.takesReturn s u) (h : cutDue s = true) :
    refillWrites u = u := if_pos (cutDue_takesReturn htakes hfixed h)

section
variable {s : State} {p : Fin 4} {g : Fin 256} {b : Burst}

theorem exec_burstTimeout {w : Bool} (hb : burstOf s p.val w g.val = some b) (hdead : b.dead = false) :
    exec (.burstTimeout p w g) s = .next (if overdue s b then burstTimeout b s else s) := by
  change execBurstTimeout p w g s = _
  unfold execBurstTimeout
  rw [hb]
  dsimp only
  rw [hdead, Bool.false_or]
  cases overdue s b <;> rfl

end

/-- Input data that comes in time. -/
theorem readReturn_input {s : State} {b : Burst} {rid i off ns : Nat} {r : Request} (hdead : b.dead = false) (hdropped : b.dropped = false)
    (hns : ns ≤ 4096) (hkind : b.kind = .input rid i off) (hr : s.req? rid = some r) (d : Bytes) (c : Nat) {u : State}
    (hu : u = readReturn b d false ns c s) : ∃ q, u.req? rid = some q ∧ (q.steps.getD i StepState.reset).landed =
        (if i < r.steps.length then (r.steps.getD i StepState.reset).landed + b.len else 0) ∧
      (ns ≤ 120 → u = { s with fab := u.fab, reqs := u.reqs } ∧ q = { r with steps := q.steps } ∧
        (i < r.steps.length → off < (hostAreas (r.descs.getD i []) 0).1 → (q.steps.getD i StepState.reset).src =
          (r.steps.getD i StepState.reset).src.take off ++ fitTo b.len d ++ (r.steps.getD i StepState.reset).src.drop (off + b.len))) := by
  rw [readReturn_eq, takeReturn_good hdead hdropped hns] at hu
  unfold landRead at hu
  rw [hkind] at hu
  dsimp only at hu
  obtain ⟨hrids, hnow, -⟩ := returnTimed_owner hns b s
  have hsoon := fun h : ns ≤ 120 => returnTimed_soon h b s
  generalize returnTimed b ns s = v at hu hrids hnow hsoon
  obtain ⟨r', hr', hsteps⟩ := req?_sameSteps hrids hr
  obtain ⟨hq, hframe⟩ := landInput_step hr' i off c (fitTo b.len d) hu
  have hlen : (fitTo b.len d).length = b.len := fitTo_length _ _
  refine ⟨_, hq, ?_, fun h => ?_⟩
  · split
    · rename_i hi
      rw [getD_updStep _ _ _ _ (by rw [hsteps]; exact hi), if_pos rfl, landedStep_landed, hlen, hsteps]
    · rename_i hi
      rw [getD_updStep_out _ _ _ _ (by rw [hsteps]; exact hi)]
      rfl
  · have hv := hsoon h
    have hr'' : v.req? rid = some r := by rw [hv]; exact hr
    obtain rfl : r = r' := Option.some.inj (hr''.symm.trans hr')
    refine ⟨?_, rfl, fun hi hoff => ?_⟩
    · conv => lhs; rw [hframe, hv]
    · rw [getD_updStep _ _ _ _ hi, if_pos rfl, landedStep_src hoff, hlen]

/-- A return within 120 ns changes the fabric, the owner's ring or its request. -/
theorem readReturn_soon {b : Burst} {ns : Nat} (h : ns ≤ 120) (d : Bytes) (c : Nat) (s : State) {t : State}
    (ht : t = readReturn b d false ns c s) : t = { s with fab := t.fab, tenants := t.tenants, reqs := t.reqs } := by
  have hsoon := returnTimed_soon h b s
  have hkeep : ∀ v : State, v = returnTimed b ns s → v = { s with fab := v.fab, tenants := v.tenants, reqs := v.reqs } := by
    intro v hv
    rw [← hv] at hsoon
    rw [hsoon]
  rw [readReturn_eq] at ht
  cases hdead : b.dead with
  | true => rw [takeReturn_dead hdead] at ht; exact hkeep t ht
  | false =>
    cases hdropped : b.dropped with
    | true => rw [takeReturn_dropped hdead hdropped (by omega)] at ht; exact hkeep t ht
    | false =>
      rw [takeReturn_good hdead hdropped (by omega)] at ht
      have hv := hkeep _ rfl
      generalize returnTimed b ns s = v at ht hv
      have hland : t = { v with fab := t.fab, tenants := t.tenants, reqs := t.reqs } := by
        rw [ht]
        unfold landRead
        split
        · rename_i rid i off _
          cases hr : v.req? rid with
          | none =>
            have hnone : landInput rid i off c (fitTo b.len d) v = v := by
              unfold landInput
              rw [hr]
            rw [hnone]
          | some r =>
            obtain ⟨-, hframe⟩ := landInput_step hr i off c (fitTo b.len d) rfl
            conv => lhs; rw [hframe]
            rw [show (landInput rid i off c (fitTo b.len d) v).tenants = v.tenants from (congrArg State.tenants hframe :)]
        · rfl
        · rfl
      rw [hland, hv]

/-- Settles O30, by the timing of a return and what it brings its owner. -/
theorem returnsAnswerBursts : Obligations.ReturnsAnswerBursts := by
  unfold Obligations.ReturnsAnswerBursts
  refine ⟨fun s p g d err ns c b e hb he => ⟨?_, ?_⟩, fun s p g err ns c b e hb he => ?_, fun s p w g b e hb hdead he => ⟨fun hover => ?_, fun hover => ?_⟩⟩
  · obtain ⟨hport, hwrite, htag⟩ := burstOf_names hb
    have hep : errorPort b = e := by unfold errorPort; rw [hport, he]
    have hfin : p = portFin b.port := by rw [hport, portFin_val]
    have hfixed := readReturn_fixed b d err ns c.val s
    have hexec : exec (.readBurstReturn p g d err ⟨ns, c⟩) s = .next (refillReads (readReturn b d err ns c.val s)) := exec_readBurstReturn hb
    obtain ⟨-, hbursts, hpeak, hlate, hreported⟩ := takeReturn_leaves b err ns (landRead_landsIn b d ns c.val) s (readReturn_eq b d err ns c.val s)
    have hother : otherBurst b = fun x => !(x.port = p.val && x.write == false && x.tag = g.val) := by
      unfold otherBurst; rw [hport, hwrite, htag]
    rw [hother] at hbursts
    rw [hep] at hreported
    refine ⟨_, hexec, refillReads_full hfixed, hfixed, hbursts, hpeak p hfin, fun hd hns => ?_, hreported, fun hns => ?_,
      fun rid i off r hd hdr herr hns hkind hr => ?_⟩
    · rw [readReturn_eq, takeReturn_dead hd]
      exact returnTimed_soon hns b s
    · obtain ⟨h1, h2⟩ := hlate hns
      rw [hport] at h1
      exact ⟨h1, h2 p hfin⟩
    · subst herr
      exact readReturn_input hd hdr hns hkind hr d c.val rfl
  · obtain ⟨hport, hwrite, htag⟩ := burstOf_names hb
    obtain ⟨-, hbursts, -, -, -⟩ := takeReturn_leaves b false ns (landRead_landsIn b d ns c.val) s (readReturn_eq b d false ns c.val s)
    have hother : otherBurst b = fun x => !(x.port = p.val && x.write == false && x.tag = g.val) := by
      unfold otherBurst; rw [hport, hwrite, htag]
    rw [hother] at hbursts
    refine ⟨_, exec_descriptorDataLanded hb, readReturn_fixed b d false ns c.val s, hbursts,
      fun hns => readReturn_soon hns d c.val s rfl, fun n k i hd hdr hns hkind hfetch hnew => ?_⟩
    obtain ⟨-, hnow, hring⟩ := returnTimed_owner hns b s
    rw [readReturn_eq, takeReturn_good hd hdr hns]
    unfold landRead
    rw [hkind]
    dsimp only
    generalize returnTimed b ns s = v at hnow hring
    obtain ⟨h, hheld, hindex, hbytes, htick, hlate⟩ := landDescriptor_held (s := v) (i := i) hd (by rw [hring]; exact hfetch) (by rw [hring]; exact hnew) d ns c.val
    exact ⟨h, by rw [hheld, hring], hindex, hbytes, htick.trans hnow, hlate⟩
  · obtain ⟨hport, hwrite, htag⟩ := burstOf_names hb
    have hep : errorPort b = e := by unfold errorPort; rw [hport, he]
    have hfin : p = portFin b.port := by rw [hport, portFin_val]
    have hfixed := writeReturn_fixed b err ns c.val s
    have hexec : exec (.writeResponse p g err ⟨ns, c⟩) s = .next (refillWrites (writeReturn b err ns c.val s)) := exec_writeResponse hb
    obtain ⟨htakes, hbursts, hpeak, hlate, hreported⟩ := takeReturn_leaves b err ns (landWrite_landsIn b c.val) s (writeReturn_eq b err ns c.val s)
    have hother : otherBurst b = fun x => !(x.port = p.val && x.write == true && x.tag = g.val) := by
      unfold otherBurst; rw [hport, hwrite, htag]
    rw [hother] at hbursts
    rw [hep] at hreported
    refine ⟨_, hexec, refillWrites_cut hfixed htakes, hfixed, hbursts, hpeak p hfin, fun hd hns => ?_, hreported, fun hns => ?_,
      fun hd hdr herr hns => ?_, fun n k i hd hdr herr hns hkind => ?_⟩
    · rw [writeReturn_eq, takeReturn_dead hd]
      exact returnTimed_soon hns b s
    · obtain ⟨h1, h2⟩ := hlate hns
      rw [hport] at h1
      exact ⟨h1, h2 p hfin⟩
    · subst herr
      rw [writeReturn_eq, takeReturn_dropped hd hdr (by omega)]
      exact returnTimed_soon hns b s
    · subst herr
      rw [writeReturn_eq, takeReturn_good hd hdr (by omega)]
      have hsoon := returnTimed_soon hns b s
      unfold landWrite
      rw [hkind]
      dsimp only
      generalize returnTimed b ns s = v at hsoon
      obtain ⟨hlines, htakes⟩ := fabricEvent_leaves n k 2 c.val v
      have hnow : v.now = s.now := by rw [hsoon]; rfl
      have hmap : v.fab.evMap = s.fab.evMap := by rw [hsoon]
      have hstart : v.fab.evStart = s.fab.evStart := by rw [hsoon]
      refine ⟨?_, fun l h31 h2 hn hk hover => ?_⟩
      · generalize fabricEvent n k 2 c.val v = w at hlines
        unfold State.linesOnly at hlines
        rw [hlines, hsoon]
      · have hline := htakes l ⟨by rw [hmap]; exact h31, by rw [hmap]; exact h2, by rw [hmap]; exact hn, by rw [hmap]; exact hk, fun a ha => by
          rw [hnow]; rw [hstart] at ha; exact hover a ha⟩
        rw [hnow] at hline
        exact hline
  · have hexec := exec_burstTimeout hb hdead
    rw [if_pos hover] at hexec
    obtain ⟨hport, hwrite, htag⟩ := burstOf_names hb
    have hep : errorPort b = e.val := by
      unfold errorPort
      rw [he, hport]
      split <;> rfl
    obtain ⟨-, hreported, hbursts, -, htimeout, herr⟩ := burstTimeout_leaves b s rfl
    rw [hep] at hreported herr
    refine ⟨_, hexec, burstTimeout_fixed b s, hreported, ?_, htimeout p (by rw [hport, portFin_val]), herr e (portFin_val e).symm⟩
    rw [hbursts]
    refine List.map_congr_left fun x _ => ?_
    unfold deadBurst
    rw [hport, hwrite, htag]
  · rw [exec_burstTimeout hb hdead, if_neg (by simp [hover])]

end Sys2Proof.Machine
end

section
/-! SUPPORT. Station restarts, rejoins and lockdown (12 R476, R478). -/
namespace Sys2Proof.Machine

/-- `t` is `s` after some requests have ended: the tick and the restarts stay, derived-key registers and requests can go, entries come. -/
def State.endsMore (s t : State) : Prop :=
  t.tick = s.tick ∧ t.flt.restarts = s.flt.restarts ∧
    (∀ n : Fin 7, ∃ p, t.stations[n] = { s.stations[n] with derived := s.stations[n].derived.filter p }) ∧
    (∀ q ∈ t.reqs, ∃ r ∈ s.reqs, r.rid = q.rid) ∧ ∀ e ∈ s.ended, e ∈ t.ended

theorem filter_true_derived (x : StationState) : x = { x with derived := x.derived.filter fun _ => true } := by
  have hall : x.derived.filter (fun _ => true) = x.derived := List.filter_eq_self.mpr fun _ _ => rfl
  rw [hall]

theorem endsMore_of {s t : State} (htick : t.tick = s.tick) (hflt : t.flt.restarts = s.flt.restarts) (hstn : t.stations = s.stations)
    (hreqs : ∀ q ∈ t.reqs, ∃ r ∈ s.reqs, r.rid = q.rid) (hended : ∀ e ∈ s.ended, e ∈ t.ended) : State.endsMore s t :=
  ⟨htick, hflt, fun n => ⟨fun _ => true, by rw [hstn]; exact filter_true_derived _⟩, hreqs, hended⟩

theorem endsMore_of_same {s t : State} (htick : t.tick = s.tick) (hflt : t.flt.restarts = s.flt.restarts) (hstn : t.stations = s.stations)
    (hreqs : t.reqs = s.reqs) (hended : t.ended = s.ended) : State.endsMore s t :=
  endsMore_of htick hflt hstn (fun q hq => ⟨q, hreqs ▸ hq, rfl⟩) (fun _ he => hended ▸ he)

theorem endsMore_refl (s : State) : State.endsMore s s := endsMore_of_same rfl rfl rfl rfl rfl

theorem endsMore_trans {s t u : State} (h1 : State.endsMore s t) (h2 : State.endsMore t u) : State.endsMore s u := by
  obtain ⟨htick, hflt, hstn, hreqs, hended⟩ := h1
  obtain ⟨htick', hflt', hstn', hreqs', hended'⟩ := h2
  refine ⟨htick'.trans htick, hflt'.trans hflt, fun n => ?_, fun q hq => ?_, fun e he => hended' e (hended e he)⟩
  · obtain ⟨p, hp⟩ := hstn n
    obtain ⟨p', hp'⟩ := hstn' n
    exact ⟨_, by rw [hp', hp, List.filter_filter]⟩
  · obtain ⟨r, hr, hrid⟩ := hreqs' q hq
    obtain ⟨r', hr', hrid'⟩ := hreqs r hr
    exact ⟨r', hr', hrid'.trans hrid⟩

theorem endsMore_foldl {α : Type} (f : State → α → State) (hf : ∀ s a, State.endsMore s (f s a)) (l : List α) (s : State) :
    State.endsMore s (l.foldl f s) := by
  induction l generalizing s with
  | nil => exact endsMore_refl s
  | cons a l ih => exact endsMore_trans (hf s a) (ih _)

theorem dropDerived_endsMore (sel : DerivedReg → Bool) (s : State) : State.endsMore s (dropDerived sel s) :=
  ⟨rfl, rfl, fun n => ⟨fun d => !sel d, dropDerived_station sel s n⟩, fun q hq => ⟨q, hq, rfl⟩, fun _ h => h⟩

theorem updReq_endsMore (rid : Nat) {f : Request → Request} (hf : ∀ r, (f r).rid = r.rid) (s : State) :
    State.endsMore s (s.updReq rid f) := by
  refine endsMore_of rfl rfl rfl (fun q hq => ?_) (fun _ h => h)
  obtain ⟨r, hr, hq⟩ := List.mem_map.mp hq
  refine ⟨r, hr, ?_⟩
  rw [← hq]
  split
  · exact (hf r).symm
  · rfl

theorem failRequest_endsMore (rid status : Nat) (c : BitVec 16) (due : Nat) (s : State) :
    State.endsMore s (failRequest rid status c due s) := by
  cases h : s.req? rid with
  | none =>
    have hnone : failRequest rid status c due s = s := by unfold failRequest; rw [h]
    rw [hnone]
    exact endsMore_refl s
  | some r =>
    by_cases hc : (leftOver r).isEmpty = true ∨ cutsOutput status = true
    · obtain ⟨honly, -, -⟩ := failRequest_only h status c due hc
      have hstn := failRequest_stations h status c due
      generalize failRequest rid status c due s = t at honly hstn
      unfold State.endedOnly at honly
      refine ⟨(congrArg State.tick honly :), (congrArg (fun x => x.flt.restarts) honly :), fun n => ⟨_, hstn n⟩, fun q hq => ?_, fun e he => ?_⟩
      · rw [(congrArg State.reqs honly :)] at hq
        exact ⟨q, (List.mem_filter.mp hq).1, rfl⟩
      · rw [(congrArg State.ended honly :)]
        exact List.mem_append_left _ he
    · rw [failRequest_drains h status c due hc]
      exact endsMore_trans (updReq_endsMore rid (f := fun r => r.failDraining status c) (fun _ => rfl) s) (dropDerived_endsMore _ _)

/-- A request that is ended with a status that cuts its output is gone, and its entry is owed. -/
theorem failRequest_cuts (rid status : Nat) (hcut : cutsOutput status = true) (c : BitVec 16) (due : Nat) (s : State) :
    (∀ q ∈ (failRequest rid status c due s).reqs, q.rid ≠ rid) ∧
      ((∃ r ∈ s.reqs, r.rid = rid) → ∃ e ∈ (failRequest rid status c due s).ended, e.rid = rid ∧ e.status = BitVec.ofNat 8 status) ∧
      ∀ q ∈ s.reqs, q.rid ≠ rid → q ∈ (failRequest rid status c due s).reqs := by
  cases h : s.req? rid with
  | none =>
    have hnone : failRequest rid status c due s = s := by unfold failRequest; rw [h]
    have hno : ∀ q ∈ s.reqs, q.rid ≠ rid := by simpa [State.req?] using h
    rw [hnone]
    exact ⟨hno, fun ⟨r, hr, hrid⟩ => absurd hrid (hno r hr), fun q hq _ => hq⟩
  | some r =>
    obtain ⟨honly, -, -⟩ := failRequest_only h status c due (.inr hcut)
    generalize failRequest rid status c due s = t at honly
    unfold State.endedOnly at honly
    refine ⟨fun q hq => ?_, fun _ => ⟨endedOf r status (failAux r c) due, ?_, req_rid h, rfl⟩, fun q hq hqr => ?_⟩
    · rw [(congrArg State.reqs honly :)] at hq
      simpa using (List.mem_filter.mp hq).2
    · rw [(congrArg State.ended honly :)]
      exact List.mem_append_right _ (List.mem_singleton_self _)
    · rw [(congrArg State.reqs honly :)]
      exact List.mem_filter.mpr ⟨hq, by simpa using hqr⟩

/-- The requests of a list end with `INTERNAL`. -/
def endAll (rids : List Nat) (c : BitVec 16) (tick : Nat) (s : State) : State := rids.foldl (fun s rid => failRequest rid 0x3F c tick s) s

theorem endAll_endsMore (rids : List Nat) (c : BitVec 16) (tick : Nat) (s : State) : State.endsMore s (endAll rids c tick s) :=
  endsMore_foldl _ (fun s rid => failRequest_endsMore rid 0x3F c tick s) rids s

theorem endAll_ends (rids : List Nat) (c : BitVec 16) (tick : Nat) (s : State) : ∀ rid ∈ rids,
    (∀ q ∈ (endAll rids c tick s).reqs, q.rid ≠ rid) ∧
      ((∃ r ∈ s.reqs, r.rid = rid) → ∃ e ∈ (endAll rids c tick s).ended, e.rid = rid ∧ e.status = 0x3F) := by
  induction rids generalizing s with
  | nil => exact fun rid h => absurd h (by simp)
  | cons x rids ih =>
    intro rid hrid
    obtain ⟨hgone, hend, hstay⟩ := failRequest_cuts x 0x3F (by decide) c tick s
    have hrest := endAll_endsMore rids c tick (failRequest x 0x3F c tick s)
    have hih := ih (failRequest x 0x3F c tick s)
    change (∀ q ∈ (endAll rids c tick (failRequest x 0x3F c tick s)).reqs, q.rid ≠ rid) ∧
      ((∃ r ∈ s.reqs, r.rid = rid) → ∃ e ∈ (endAll rids c tick (failRequest x 0x3F c tick s)).ended, e.rid = rid ∧ e.status = 0x3F)
    generalize failRequest x 0x3F c tick s = u at hgone hend hstay hrest hih ⊢
    obtain ⟨-, -, -, hreqs, hended⟩ := hrest
    by_cases hx : rid = x
    · subst hx
      refine ⟨fun q hq hqr => ?_, fun hr => ?_⟩
      · obtain ⟨r, hr, hrq⟩ := hreqs q hq
        exact hgone r hr (hrq.trans hqr)
      · obtain ⟨e, he, h⟩ := hend hr
        exact ⟨e, hended e he, h⟩
    · have hmem := (List.mem_cons.mp hrid).resolve_left hx
      obtain ⟨h1, h2⟩ := hih rid hmem
      exact ⟨h1, fun ⟨r, hr, hrr⟩ => h2 ⟨r, hstay r hr (fun h => hx (hrr.symm.trans h)), hrr⟩⟩

theorem updStn_station (s : State) (st n : Fin 7) (f : StationState → StationState) :
    (s.updStn st f).stations[n] = if n = st then f s.stations[n] else s.stations[n] := by
  unfold State.updStn
  dsimp only
  by_cases h : n = st
  · subst h
    rw [if_pos rfl]
    exact Vector.getElem_set_self ..
  · rw [if_neg h]
    exact Vector.getElem_set_ne _ _ (by simpa [Fin.ext_iff] using Ne.symm h)

theorem supersede_endsMore (sel : BitVec 16 → Bool) (s : State) : State.endsMore s (supersede sel s) := by
  have hone : ∀ (u : State) (w : EscTimer), State.endsMore u (supersedeOne u w) := fun u w => endsMore_of_same rfl rfl rfl rfl rfl
  exact endsMore_foldl supersedeOne hone _ s

theorem requeueCurve_endsMore (s : State) : State.endsMore s (requeueCurve s) := by
  unfold requeueCurve
  split
  · exact endsMore_refl s
  · dsimp only
    split
    · exact endsMore_refl s
    · exact endsMore_of_same rfl rfl rfl rfl rfl

theorem dropCopy_endsMore (s : State) (c : CacheSlot) : State.endsMore s (dropCopy c s) := by
  refine endsMore_of rfl rfl rfl (fun q hq => ?_) (fun _ h => h)
  obtain ⟨r, hr, hq⟩ := List.mem_map.mp hq
  refine ⟨r, hr, ?_⟩
  rw [← hq]
  split <;> rfl

theorem dropReceived_endsMore (due : Nat) (s : State) (c : CacheSlot) : State.endsMore s (dropReceived due c s) := by
  unfold dropReceived
  exact endsMore_trans (t := dropSlot c.tenant c.handle s) (endsMore_of_same rfl rfl rfl rfl rfl)
    (endsMore_foldl _ (fun s rid => failRequest_endsMore rid 0x14 0 due s) _ _)

theorem restartExtras_endsMore (st due : Nat) (s : State) : State.endsMore s (restartExtras st due s) := by
  unfold restartExtras
  split
  · exact requeueCurve_endsMore s
  · split
    · exact endsMore_of_same rfl rfl rfl rfl rfl
    · split
      · refine endsMore_trans (t := restartCache due s) ?_ (endsMore_of_same rfl rfl rfl rfl rfl)
        unfold restartCache
        exact endsMore_trans (endsMore_foldl (fun s c => dropCopy c s) dropCopy_endsMore _ s)
          (endsMore_foldl (fun s c => dropReceived due c s) (dropReceived_endsMore due) _ _)
      · exact endsMore_refl s

theorem reloadStore_frame (st : Nat) (s : State) : reloadStore st s =
    { s with cfg := (reloadStore st s).cfg, dbg := (reloadStore st s).dbg } := by
  unfold reloadStore
  dsimp only
  split <;> rfl

/-- A station that stops: what it holds is gone. -/
def stationStopped (st : Fin 7) (c : BitVec 16) (s : State) : State :=
  s.updStn st fun _ => { StationState.reset with restart := some c, started := s.now }

/-- What a restart rebuilds after its station has stopped. -/
def stationRebuilt (st : Fin 7) (tick : Nat) (s : State) : State :=
  restartExtras st.val tick (supersede (fun x => srcStation x = st.val) ((reloadStore st.val s).updDbg (zeroWords [stationGroup st.val])))

theorem restartStation_eq (st : Fin 7) (tick : Nat) (c : BitVec 16) (s : State) {u : State}
    (hu : u = stationRebuilt st tick (stationStopped st c (endAll ((s.reqs.filter (holdsState s st.val)).map Request.rid) c tick s))) :
    restartStation st tick c s = assertBlk 3 (u.updFlt fun f =>
      { f with due := f.due.filter (fun d => !(d.1 = st.val && decide (d.2.1 ≤ u.now))), restarts := f.restarts + 1,
               dumpDue := f.dumpDue ++ [(st.val, c, causeTick c tick u)], dumpState := 1,
               reportTicks := f.reportTicks.filter fun p => p.1 ≠ c }) := by
  subst hu
  rfl

theorem stationRebuilt_endsMore (st : Fin 7) (tick : Nat) (s : State) : State.endsMore s (stationRebuilt st tick s) := by
  have hreload : State.endsMore s ((reloadStore st.val s).updDbg (zeroWords [stationGroup st.val])) := by
    rw [reloadStore_frame]
    exact endsMore_of_same rfl rfl rfl rfl rfl
  exact endsMore_trans hreload (endsMore_trans (supersede_endsMore _ _) (restartExtras_endsMore _ _ _))

/-- A restart: its station is empty and restarts, the others lose derived keys of what ended alone, and what held state there ended. -/
theorem restartStation_leaves (st : Fin 7) (tick : Nat) (c : BitVec 16) (s : State) {t : State} (ht : t = restartStation st tick c s) :
    t.stations[st] = { active := [], loading := [], derived := [], restart := some c, started := s.now, rejoined := 0 } ∧
      (∀ n : Fin 7, n ≠ st → t.stations[n] = { s.stations[n] with derived := t.stations[n].derived }) ∧
      t.flt.restarts = s.flt.restarts + 1 ∧ t.flt.dumpState = 1 ∧
      (∀ r ∈ s.reqs, holdsState s st.val r = true → (∀ q ∈ t.reqs, q.rid ≠ r.rid) ∧ ∃ e ∈ t.ended, e.rid = r.rid ∧ e.status = 0x3F) := by
  have hall := endAll_endsMore ((s.reqs.filter (holdsState s st.val)).map Request.rid) c tick s
  have hends := endAll_ends ((s.reqs.filter (holdsState s st.val)).map Request.rid) c tick s
  rw [restartStation_eq st tick c s rfl] at ht
  have hmem : ∀ r ∈ s.reqs, holdsState s st.val r = true → r.rid ∈ (s.reqs.filter (holdsState s st.val)).map Request.rid :=
    fun r hr hh => List.mem_map.mpr ⟨r, List.mem_filter.mpr ⟨hr, hh⟩, rfl⟩
  generalize (s.reqs.filter (holdsState s st.val)).map Request.rid = rids at ht hall hends hmem
  generalize endAll rids c tick s = v at ht hall hends
  have hstop := updStn_station v st
  have hrebuilt := stationRebuilt_endsMore st tick (stationStopped st c v)
  generalize stationRebuilt st tick (stationStopped st c v) = u at ht hrebuilt
  obtain ⟨htick, hrestarts, hstn, hreqs, hended⟩ := hall
  obtain ⟨-, hrestarts', hstn', hreqs', hended'⟩ := hrebuilt
  have hnow : v.now = s.now := congrArg BitVec.toNat htick
  subst ht
  refine ⟨?_, fun n hn => ?_, ?_, rfl, fun r hr hh => ?_⟩
  · obtain ⟨p, hp⟩ := hstn' st
    change u.stations[st] = _
    rw [hp]
    unfold stationStopped
    rw [hstop, if_pos rfl, hnow]
    rfl
  · obtain ⟨p, hp⟩ := hstn n
    obtain ⟨p', hp'⟩ := hstn' n
    change u.stations[n] = { s.stations[n] with derived := u.stations[n].derived }
    rw [hp']
    unfold stationStopped
    rw [hstop, if_neg hn, hp]
  · exact (congrArg (· + 1) (hrestarts'.trans hrestarts))
  · obtain ⟨hgone, hend⟩ := hends r.rid (hmem r hr hh)
    obtain ⟨e, he, h⟩ := hend ⟨r, hr, rfl⟩
    refine ⟨fun q hq hqr => ?_, e, hended' e he, h⟩
    obtain ⟨r', hr', hrq⟩ := hreqs' q hq
    exact hgone r' hr' (hrq.trans hqr)

/-! ### Rejoins -/

theorem proven_recent (c : BitVec 16) (s : State) : (proven c s).flt.recent = (proofReport c s).flt.recent := by
  unfold proven State.updFlt
  dsimp only
  split <;> rfl

theorem proven_keepsProofs {c d : BitVec 16} {s : State} (h : proofIn d s.now s.flt.recent) : proofIn d s.now (proven c s).flt.recent := by
  rw [proven_recent]
  exact proofIn_record (r := { FaultRec.reset with tick := s.now, source := c, severity := 0, proof := true, count := 1 }) h rfl

/-- Checkers that are proven one after the other. -/
theorem foldl_proven_leaves (l : List (BitVec 16)) (s : State) {t : State} (ht : t = l.foldl (fun s c => proven c s) s) :
    State.fltOnly s t ∧ t.flt.due = s.flt.due ∧ t.flt.timers = s.flt.timers ∧ t.flt.roles = s.flt.roles ∧
      (∀ d, proofIn d s.now s.flt.recent → proofIn d s.now t.flt.recent) ∧ ∀ c ∈ l, proofIn c s.now t.flt.recent := by
  induction l generalizing s with
  | nil => subst ht; exact ⟨rfl, rfl, rfl, rfl, fun _ h => h, fun c hc => absurd hc (by simp)⟩
  | cons x l ih =>
    obtain ⟨honly, hproof, hdue, htimers, hroles, -, -, -⟩ := proven_leaves x s
    have hkeeps := fun d => proven_keepsProofs (c := x) (d := d) (s := s)
    obtain ⟨honly', hdue', htimers', hroles', hkeeps', hall'⟩ := ih (proven x s) ht
    have hnow : (proven x s).now = s.now := by rw [honly]; rfl
    rw [hnow] at hkeeps' hall'
    refine ⟨fltOnly_trans honly honly', hdue'.trans hdue, htimers'.trans htimers, hroles'.trans hroles,
      fun d hd => hkeeps' d (hkeeps d hd), fun c hc => ?_⟩
    obtain rfl | hc := List.mem_cons.mp hc
    · exact hkeeps' c hproof
    · exact hall' c hc

/-! ### Lockdown -/

theorem oweDump_flags (c : BitVec 16) (n : Nat) (f : Faults) :
    (oweDump c n f).lockdown = f.lockdown ∧ (oweDump c n f).toggling = f.toggling := by
  unfold oweDump
  split <;> exact ⟨rfl, rfl⟩

/-- What a lockdown does to the main domain, once the windows are superseded and but for the collector. -/
def stopEverything (s : State) : State :=
  let noHold := fun (x : CipherStation) => { x with holdUsed := 0 }
  let s := { s with reqs := [], ended := [], stations := s.stations.map clearBanks, cs := s.cs.map noHold }
  let s := (s.mapPages stopFetching).updKs fun k => { k with cache := [], system := [], commits := [], pendingH := [] }
  let s := (s.updVs fun v => { v with memUsed := 0, loads := [] }).updSs fun v => { v with memUsed := 0, waybills := [] }
  let dead := fun (b : Burst) => { b with dropped := true }
  let empty := fun (p : PlatStat) => { p with depth := 0 }
  let s := (s.updFab fun f => { f with bursts := f.bursts.map dead }).updTt fun t => { t with plats := t.plats.map empty }
  s.updDbg (zeroWords [8, 9, 10, 11, 12, 13, 14, 26])

theorem stopEverything_eq (u : State) : ∃ cs vs ss plats dbg, stopEverything u = { u with
    reqs := [], ended := [], stations := u.stations.map clearBanks, tenants := u.tenants.map stopFetching
    ks := { u.ks with cache := [], system := [], commits := [], pendingH := [] }
    fab := { u.fab with bursts := u.fab.bursts.map fun b => { b with dropped := true } }
    tt := { u.tt with plats := plats }
    cs := cs, vs := vs, ss := ss, dbg := dbg } := ⟨_, _, _, _, _, rfl⟩

/-- The main domain in lockdown, but for the collector. -/
def lockedDown (s : State) : State := stopEverything (supersede (fun _ => true) s)

theorem lockDown_eq (tick : Nat) (c : BitVec 16) (s : State) : lockDown tick c s = (lockedDown s).updFlt fun f =>
    oweDump c (causeTick c tick (lockedDown s)) { f with lockdown := true, toggling := false, due := [] } := rfl

/-- A lockdown: every request and entry, bank and cached key is gone, and every ring stands. -/
theorem lockedDown_leaves (s : State) {t : State} (ht : t = lockedDown s) :
    t.fixed = s.fixed ∧ t.reqs = [] ∧ t.ended = [] ∧ t.ks.cache = [] ∧ t.ks.system = [] ∧
      t.ks.commits = [] ∧ t.ks.kr = s.ks.kr ∧ t.nvm = s.nvm ∧ t.aon = s.aon ∧
      t.stations = s.stations.map clearBanks ∧ t.tenants = s.tenants.map stopFetching ∧
      t.fab.bursts = s.fab.bursts.map fun b => { b with dropped := true } := by
  unfold lockedDown at ht
  have hfixed := supersede_fixed (fun _ => true) s
  have honly := supersede_only (fun _ => true) s
  generalize supersede (fun _ => true) s = u at ht hfixed honly
  obtain ⟨cs, vs, ss, plats, dbg, heq⟩ := stopEverything_eq u
  rw [heq] at ht
  have hkr : u.ks.kr = s.ks.kr := (congrArg (fun x => x.ks.kr) honly :)
  have hnvm : u.nvm = s.nvm := (congrArg State.nvm honly :)
  have haon : u.aon = s.aon := (congrArg State.aon honly :)
  have hstn : u.stations = s.stations := (congrArg State.stations honly :)
  have htn : u.tenants = s.tenants := (congrArg State.tenants honly :)
  have hfab : u.fab = s.fab := (congrArg State.fab honly :)
  subst ht
  exact ⟨hfixed, rfl, rfl, rfl, rfl, rfl, hkr, hnvm, haon, congrArg (Vector.map clearBanks) hstn,
    congrArg (Vector.map stopFetching) htn,
    congrArg (fun f : Fabric => f.bursts.map fun b => { b with dropped := true }) hfab⟩

theorem updFlt_fixed_lockdown (s : State) (f : Faults → Faults) (h : (f s.flt).lockdown = true) :
    (s.updFlt f).fixed = { s.fixed with lockdown := true } := by
  unfold State.fixed State.updFlt
  dsimp only
  rw [h]

theorem exec_stationRestart {s : State} {st : Fin 7} {d : Nat × Nat × BitVec 16} (hlock : s.locked = false)
    (hd : s.flt.due.find? (fun x => x.1 = st.val && decide (x.2.1 ≤ s.now)) = some d) :
    exec (.stationRestart st) s = .next (restartStation st d.2.1 d.2.2 s) := by
  change execStationRestart st s = _
  unfold execStationRestart
  rw [hd]
  exact if_neg (by simp [hlock])

theorem exec_stationRejoin {s : State} {st : Fin 7} (h : s.stations[st].restart.isSome = true) (hslot : s.tt.slot = 0)
    (hlock : s.locked = false) : exec (.stationRejoin st) s =
      .next ((stationCheckers s st.val).foldl (fun s c => proven c s) (s.updStn st fun x => { x with restart := none, rejoined := s.now })) := by
  change execStationRejoin st s = _
  unfold execStationRejoin
  exact if_pos (by rw [h, hslot, hlock]; rfl)

theorem exec_lockdown {s : State} {d : Nat × Nat × BitVec 16} (hlock : s.flt.lockdown = false)
    (hd : s.flt.due.find? (fun x => x.1 = 7 && decide (x.2.1 ≤ s.now)) = some d) :
    exec .lockdown s = .next (lockDown d.2.1 d.2.2 s) := by
  change execLockdown s = _
  unfold execLockdown
  rw [hd]
  exact if_neg (by simp [hlock])

/-- Settles O37: a station that stops, one that rejoins, and a lockdown. -/
theorem stationsStopAndRejoin : Obligations.StationsStopAndRejoin := by
  unfold Obligations.StationsStopAndRejoin
  refine ⟨fun s st d hlock hd => ?_, fun s st hrestart hslot hlock => ?_, fun s d hlock hd => ?_⟩
  · obtain ⟨hstn, hothers, hrestarts, hdump, hends⟩ := restartStation_leaves st d.2.1 d.2.2 s rfl
    exact ⟨_, exec_stationRestart hlock hd, restartStation_fixed st d.2.1 d.2.2 s, hstn, hothers,
      by rw [restartStation_eq st d.2.1 d.2.2 s rfl]; exact assertBlk_bit 3 (by decide) _, hrestarts, hdump, hends⟩
  · have hexec := exec_stationRejoin hrestart hslot hlock
    obtain ⟨honly, hdue, htimers, hroles, -, hall⟩ := foldl_proven_leaves (stationCheckers s st.val)
      (s.updStn st fun x => { x with restart := none, rejoined := s.now }) rfl
    generalize (stationCheckers s st.val).foldl (fun s c => proven c s) (s.updStn st fun x => { x with restart := none, rejoined := s.now }) = t
      at hexec honly hdue htimers hroles hall
    exact ⟨t, hexec, honly, hdue, htimers, hroles, hall⟩
  · have hexec := exec_lockdown hlock hd
    rw [lockDown_eq] at hexec
    obtain ⟨hfixed, hreqs, hended, hcache, hsystem, hcommits, hkr, hnvm, haon, hstn, htn, hbursts⟩ := lockedDown_leaves s rfl
    generalize lockedDown s = u at hexec hfixed hreqs hended hcache hsystem hcommits hkr hnvm haon hstn htn hbursts
    obtain ⟨hflag, htoggle⟩ := oweDump_flags d.2.2 (causeTick d.2.2 d.2.1 u) { u.flt with lockdown := true, toggling := false, due := [] }
    refine ⟨_, hexec, ?_, hreqs, hended, hcache, hsystem, hcommits, hkr, hnvm, haon, htoggle, fun n => ?_, fun n k => ?_, fun b hb => ?_⟩
    · rw [updFlt_fixed_lockdown _ _ hflag, hfixed]
    · have hbank : u.stations[n] = clearBanks s.stations[n] := by
        rw [show u.stations[n] = (s.stations.map clearBanks)[n] from congrArg (fun v : Vector StationState 7 => v[n]) hstn]
        exact Vector.getElem_map ..
      change u.stations[n].active = [] ∧ u.stations[n].loading = []
      rw [hbank]
      exact ⟨rfl, rfl⟩
    · have hpage : u.page n = stopFetching (s.page n) := by
        unfold State.page
        rw [htn]
        exact Vector.getElem_map ..
      have hring : u.ring n k = settleRing false (s.ring n k) := by
        unfold State.ring
        rw [hpage]
        exact Vector.getElem_map ..
      change (u.ring n k).fetching = false ∧ (u.ring n k).enable = (s.ring n k).enable
      rw [hring]
      unfold settleRing
      rw [Bool.and_false]
      exact ⟨rfl, rfl⟩
    · change b ∈ u.fab.bursts at hb
      rw [hbursts] at hb
      obtain ⟨x, -, hx⟩ := List.mem_map.mp hb
      rw [← hx]

end Sys2Proof.Machine
end

section
/-! SUPPORT. Debug halts and debug accesses (15 R564 to R566). -/
namespace Sys2Proof.Machine

theorem fieldNat_extract {n : Nat} (v : BitVec n) (lo w : Nat) : fieldNat v lo w = (v.extractLsb' lo w).toNat := by
  simp [fieldNat]

/-- A field of a word of which a mask keeps the field and which has no bit set in it. -/
theorem fieldNat_kept {n : Nat} {a b : BitVec n} {lo w : Nat} (v : BitVec n) (ha : a.extractLsb' lo w = BitVec.allOnes w)
    (hb : b.extractLsb' lo w = 0#w) : fieldNat (v &&& a ||| b) lo w = fieldNat v lo w := by
  rw [fieldNat_extract, fieldNat_extract, BitVec.extractLsb'_or, BitVec.extractLsb'_and, ha, hb, BitVec.and_allOnes, BitVec.or_zero]

/-- A field of a word from which a mask takes the field before it is set. -/
theorem fieldNat_put {n : Nat} {a b : BitVec n} {lo w : Nat} (v : BitVec n) (ha : a.extractLsb' lo w = 0#w) :
    fieldNat (v &&& a ||| b) lo w = (b.extractLsb' lo w).toNat := by
  rw [fieldNat_extract, BitVec.extractLsb'_or, BitVec.extractLsb'_and, ha, BitVec.and_zero, BitVec.zero_or]

section Access
variable (v : BitVec 64) {op : Nat}

theorem withAccess_eq (op : Nat) : withAccess op v = v &&& 0x1FFFFFFFFFFFFFFF ||| (0x8000000000000000 ||| place op 61) :=
  BitVec.or_assoc ..

theorem withAccess_group (h : op < 3) : fieldNat (withAccess op v) 48 6 = fieldNat v 48 6 := by
  have hput : ∀ op : Fin 3, ((0x8000000000000000 : BitVec 64) ||| place op.val 61).extractLsb' 48 6 = 0#6 := by decide
  rw [withAccess_eq]
  exact fieldNat_kept v (by decide) (hput ⟨op, h⟩)

theorem withAccess_word (h : op < 3) : accessWord (withAccess op v) = accessWord v := by
  have hput : ∀ op : Fin 3, ((0x8000000000000000 : BitVec 64) ||| place op.val 61).extractLsb' 3 29 = 0#29 := by decide
  rw [withAccess_eq]
  exact fieldNat_kept v (by decide) (hput ⟨op, h⟩)

theorem withAccess_op (h : op < 3) : fieldNat (withAccess op v) 61 2 = op := by
  have hput : ∀ op : Fin 3, (((0x8000000000000000 : BitVec 64) ||| place op.val 61).extractLsb' 61 2).toNat = op.val := by decide
  rw [withAccess_eq, fieldNat_put v (by decide)]
  exact hput ⟨op, h⟩

theorem withAccess_go : bitAt (withAccess op v) 63 = true := by simp [bitAt, withAccess]

end Access

/-- A core of which the state or the rights allow the halt is one of the three of Table 15-17. -/
theorem mayHalt_core {s : State} {core : Nat} (h : mayHalt s core = true) : core = 1 ∨ core = 2 ∨ core = 3 := by
  unfold mayHalt at h
  split at h
  · omega
  · split at h
    · omega
    · cases h

theorem coreHalted_setHalt (core : Nat) (on : Bool) (d : Debug) : coreHalted (setHalt core on d) core = on := by
  unfold coreHalted setHalt
  (repeat' split) <;> rfl

theorem coreHalted_setHalt_other {core c : Nat} (h : core = 1 ∨ core = 2 ∨ core = 3) (hc : 1 ≤ c ∧ c ≤ 3) (hne : c ≠ core) (on : Bool)
    (d : Debug) : coreHalted (setHalt core on d) c = coreHalted d c := by
  unfold coreHalted setHalt
  (repeat' split) <;> first | rfl | omega

theorem coreHalted_forgetGroup (g c : Nat) (d : Debug) : coreHalted (forgetGroup g d) c = coreHalted d c := rfl

section Core
variable {s : State} {i : Ident} (h : s.mayManage i) {v : BitVec 32}

include h in
theorem exec_dbgHalt (hm : mayHalt s (fieldNat v 30 2) = true) :
    exec (.dbgHalt i v) s = .next ((s.updDbg (setHalt (fieldNat v 30 2) true)).respond 0) := by
  refine congrArg Host.Outcome.next ((supWrite_go h _ _).trans ?_)
  unfold writeDbgCore
  rw [fieldNat_kept v (by decide) (by decide), fieldNat_put v (by decide)]
  dsimp only
  rw [hm]
  rfl

include h in
theorem exec_dbgStep (hm : mayHalt s (fieldNat v 30 2) = true) (hc : coreHalted s.dbg (fieldNat v 30 2) = true) :
    exec (.dbgStep i v) s = .next (((s.updDbg (forgetGroup (coreGroup (fieldNat v 30 2)))).updProc (coreProc (fieldNat v 30 2))
      fun p => { p with stepsDone := p.stepsDone + 1 }).respond 0) := by
  refine congrArg Host.Outcome.next ((supWrite_go h _ _).trans ?_)
  unfold writeDbgCore
  rw [fieldNat_kept v (by decide) (by decide), fieldNat_put v (by decide)]
  dsimp only
  rw [hm, hc]
  rfl

theorem fieldNat_resume : fieldNat (v ||| 0x30000000#32) 30 2 = fieldNat v 30 2 := by
  have := fieldNat_kept (a := BitVec.allOnes 32) (b := 0x30000000#32) (lo := 30) (w := 2) v (by decide) (by decide)
  rwa [BitVec.and_allOnes] at this

theorem fieldNat_resumeOp : fieldNat (v ||| 0x30000000#32) 28 2 = 3 := by
  rw [fieldNat_extract, BitVec.extractLsb'_or]
  have : BitVec.extractLsb' 28 2 0x30000000#32 = BitVec.allOnes 2 := by decide
  rw [this, BitVec.or_allOnes]
  rfl

include h in
theorem exec_dbgResume (hm : mayHalt s (fieldNat v 30 2) = true) :
    exec (.dbgResume i v) s = .next ((s.updDbg fun d =>
      forgetGroup (coreGroup (fieldNat v 30 2)) (setHalt (fieldNat v 30 2) false d)).respond 0) := by
  refine congrArg Host.Outcome.next ((supWrite_go h _ _).trans ?_)
  unfold writeDbgCore
  rw [fieldNat_resume, fieldNat_resumeOp]
  dsimp only
  rw [hm]
  rfl

/-- A core that may not be halted: the write does nothing. -/
theorem writeDbgCore_not {w : BitVec 32} (hm : mayHalt s (fieldNat w 30 2) = false) : writeDbgCore w s = s := by
  unfold writeDbgCore
  dsimp only
  rw [hm]
  rfl

include h in
theorem dbgCore_not (hm : mayHalt s (fieldNat v 30 2) = false) : exec (.dbgHalt i v) s = .next { s with rsp := 0 } ∧
    exec (.dbgStep i v) s = .next { s with rsp := 0 } ∧ exec (.dbgResume i v) s = .next { s with rsp := 0 } := by
  have hkept : ∀ b : BitVec 32, b.extractLsb' 30 2 = 0#2 →
      mayHalt s (fieldNat ((v &&& 0xCFFFFFFF#32) ||| b) 30 2) = false := fun b hb => by
    rwa [fieldNat_kept v (by decide) hb]
  exact ⟨congrArg Host.Outcome.next ((supWrite_go h _ _).trans (congrArg (State.respond · 0) (writeDbgCore_not (hkept _ (by decide))))),
    congrArg Host.Outcome.next ((supWrite_go h _ _).trans (congrArg (State.respond · 0) (writeDbgCore_not (hkept _ (by decide))))),
    congrArg Host.Outcome.next ((supWrite_go h _ _).trans (congrArg (State.respond · 0)
      (writeDbgCore_not (by rwa [fieldNat_resume]))))⟩

end Core

/-! ### Memory groups -/

/-- The entry put into an association list is the one found (any lawful keys). -/
theorem assoc_finds {α β : Type} [BEq α] [LawfulBEq α] (k : α) (v : β) (l : List (α × β)) : (assoc k v l).lookup k = some v := by
  induction l with
  | nil => simp [assoc]
  | cons x l ih =>
    obtain ⟨a, b⟩ := x
    by_cases hx : a = k
    · simp [assoc, hx]
    · have hne : (k == a) = false := by simpa using fun e : k = a => hx e.symm
      simp [assoc, hx, List.lookup_cons, hne, ih]

theorem mem_addNew {α : Type} [BEq α] [LawfulBEq α] (x : α) (l : List α) : x ∈ addNew x l := by
  unfold addNew
  split
  · rename_i h
    exact List.contains_iff_mem.mp h
  · exact List.mem_append_right _ (List.mem_singleton_self x)

section Access
variable {s : State} {i : Ident} (h : s.mayManage i) {v : BitVec 64}

/-- The state with the group as the target of the access. -/
def State.aimed (s : State) (g : Nat) : State := s.updDbg fun d => { d with target := BitVec.ofNat 6 g }

include h in
theorem exec_dbgRead (hr : mayReach s false (fieldNat v 48 6) = true) : exec (.dbgRead i v) s =
    .next ((((s.aimed (fieldNat v 48 6)).updDbg fun d =>
      { d with result := 2, data := groupWord (s.aimed (fieldNat v 48 6)) (fieldNat v 48 6) (accessWord v),
               words := assoc (fieldNat v 48 6, accessWord v)
                 (groupWord (s.aimed (fieldNat v 48 6)) (fieldNat v 48 6) (accessWord v)) d.words }).draw 1).respond 0) := by
  refine congrArg Host.Outcome.next ((supWrite_go h _ _).trans ?_)
  unfold writeDbgAccess
  rw [withAccess_op v (by decide), withAccess_group v (by decide), withAccess_word v (by decide), withAccess_go]
  dsimp only
  rw [show ((0 : Nat) == 2) = false from rfl, hr]
  rfl

include h in
theorem exec_dbgWrite (hr : mayReach s false (fieldNat v 48 6) = true) : exec (.dbgWrite i v) s =
    .next (((s.aimed (fieldNat v 48 6)).updDbg fun d =>
      { d with result := 2, words := assoc (fieldNat v 48 6, accessWord v) d.data d.words }).respond 0) := by
  refine congrArg Host.Outcome.next ((supWrite_go h _ _).trans ?_)
  unfold writeDbgAccess
  rw [withAccess_op v (by decide), withAccess_group v (by decide), withAccess_word v (by decide), withAccess_go]
  dsimp only
  rw [show ((1 : Nat) == 2) = false from rfl, hr]
  rfl

include h in
theorem exec_bist (pass : Bool) (hr : mayReach s true (fieldNat v 48 6) = true) : exec (.bist i v pass) s =
    .next (((zeroGroup (fieldNat v 48 6) (s.aimed (fieldNat v 48 6))).updDbg fun d =>
      { d with result := 2, bist := if pass then 1 else 2 }).respond 0) := by
  refine congrArg Host.Outcome.next ((supWrite_go h _ _).trans ?_)
  unfold writeDbgAccess
  rw [withAccess_op v (by decide), withAccess_group v (by decide), withAccess_go]
  dsimp only
  rw [show ((2 : Nat) == 2) = true from rfl, hr]
  rfl

/-- A group that is not reached: result 3. -/
theorem writeDbgAccess_not {op : Nat} (hop : op < 2) (hr : mayReach s false (fieldNat v 48 6) = false) :
    writeDbgAccess true (withAccess op v) s = s.updDbg fun d => { d with result := 3 } := by
  unfold writeDbgAccess
  rw [withAccess_op v (by omega), withAccess_group v (by omega), withAccess_go]
  have : (op == 2) = false := by simp; omega
  dsimp only
  rw [this, hr]
  simp

include h in
theorem dbgAccess_not (hr : mayReach s false (fieldNat v 48 6) = false) :
    exec (.dbgRead i v) s = .next { s with rsp := 0, dbg := { s.dbg with result := 3 } } ∧
    exec (.dbgWrite i v) s = .next { s with rsp := 0, dbg := { s.dbg with result := 3 } } :=
  ⟨congrArg Host.Outcome.next ((supWrite_go h _ _).trans (congrArg (State.respond · 0) (writeDbgAccess_not (by decide) hr))),
    congrArg Host.Outcome.next ((supWrite_go h _ _).trans (congrArg (State.respond · 0) (writeDbgAccess_not (by decide) hr)))⟩

/-- A known word reads as it is known. -/
theorem groupWord_known {g a : Nat} {w : BitVec 64} (hw : s.dbg.words.lookup (g, a) = some w) : groupWord (s.aimed g) g a = w := by
  have : (s.aimed g).dbg.words.lookup (g, a) = some w := hw
  rw [groupWord, this]

end Access

theorem zeroGroup_leaves (g : Nat) (s : State) : (zeroGroup g s).nvm = s.nvm ∧
    (zeroGroup g s).dbg = { forgetGroup g s.dbg with zeroed := addNew g s.dbg.zeroed } := by
  unfold zeroGroup
  dsimp only
  (repeat' split) <;> exact ⟨rfl, rfl⟩

theorem zeroGroup_cache (s : State) : (zeroGroup 14 s).ks.cache = [] := rfl
theorem zeroGroup_fifo (s : State) (n : Tenant) : ((zeroGroup 24 s).page n).fifoItems = [] :=
  congrArg TenantPage.fifoItems (Vector.getElem_map ..)
theorem zeroGroup_queue (s : State) : (zeroGroup 25 s).flt.queue = [] := rfl

theorem zeroGroup_drbg (s : State) : (zeroGroup 27 s).en.fill = 0 ∧ (zeroGroup 27 s).en.seed = [] := by
  have : (zeroGroup 27 s).en = clearDrbg s.en := rfl
  rw [this]
  unfold clearDrbg trackLow
  dsimp only
  split <;> exact ⟨rfl, rfl⟩

/-- Settles O54: the holder's write reaches the register, whose field values select the operation. -/
theorem debugReachesGroups : Obligations.DebugReachesGroups := by
  unfold Obligations.DebugReachesGroups
  refine ⟨fun s i v h hm => ⟨?_, fun hc => ?_, ?_⟩, fun s i v h hm => dbgCore_not h hm, fun s i v h => ⟨fun hr => ⟨?_, ?_⟩,
    fun hr => dbgAccess_not h hr, fun pass hr => ?_⟩⟩
  · exact ⟨_, exec_dbgHalt h hm, rfl, coreHalted_setHalt .., fun c h1 h3 hne =>
      coreHalted_setHalt_other (mayHalt_core hm) ⟨h1, h3⟩ hne ..⟩
  · exact ⟨_, exec_dbgStep h hm hc, rfl, congrArg Proc.stepsDone (Vector.getElem_set_self ..), fun c => rfl⟩
  · exact ⟨_, exec_dbgResume h hm, rfl, coreHalted_setHalt .., fun c h1 h3 hne =>
      coreHalted_setHalt_other (mayHalt_core hm) ⟨h1, h3⟩ hne ..⟩
  · exact ⟨_, exec_dbgRead h hr, rfl, rfl, assoc_finds .., fun w hw => groupWord_known hw⟩
  · exact ⟨_, exec_dbgWrite h hr, rfl, rfl, assoc_finds ..⟩
  · obtain ⟨hnvm, hdbg⟩ := zeroGroup_leaves (fieldNat v 48 6) (s.aimed (fieldNat v 48 6))
    refine ⟨_, exec_bist h pass hr, (zeroGroup_fixed ..), hnvm, rfl, rfl, ?_, fun hg => ?_, fun hg => ?_, fun hg => ?_, fun hg => ?_⟩
    · have : fieldNat v 48 6 ∈ (zeroGroup (fieldNat v 48 6) (s.aimed (fieldNat v 48 6))).dbg.zeroed := by
        rw [hdbg]
        exact mem_addNew ..
      exact this
    · rw [hg]
      exact zeroGroup_cache _
    · rw [hg]
      exact zeroGroup_fifo _
    · rw [hg]
      exact zeroGroup_queue _
    · rw [hg]
      exact zeroGroup_drbg _

end Sys2Proof.Machine
end

section
/-! SUPPORT. What the taking of a message and a management transfer leave, and which box a request comes through (11 R442, R449). -/
namespace Sys2Proof.Machine

theorem requestIs_code {s : State} {code : Nat} {m : Msg} (h : s.requestIs code m) : m.code = code := h.2.1

/-- A request of the management codes comes through the management mailbox (11 R449). -/
theorem requestIs_mgmtBox {s : State} {code : Nat} {m : Msg} (h : s.requestIs code m) (hc : tenantCodes.contains code = false) :
    m.box = none := by
  obtain ⟨_, hcode, hbox, _⟩ := h
  unfold rightBox at hbox
  split at hbox
  · rw [hcode, hc] at hbox
    cases hbox
  · assumption

theorem takeMessage_frame (m : Msg) (s : State) :
    takeMessage m s = { s with tenants := (takeMessage m s).tenants, mgmt := (takeMessage m s).mgmt } := by
  unfold takeMessage notifyOut State.updMbo
  cases m.box <;> rfl

theorem takeMessage_mgmtFrame {m : Msg} (hb : m.box = none) (s : State) :
    takeMessage m s = { s with mgmt := (takeMessage m s).mgmt } := by
  unfold takeMessage notifyOut State.updMbo
  rw [hb]
  rfl

theorem updPage_challenge {f : TenantPage → TenantPage} (b : Tenant) (hf : ∀ p, (f p).challenge = p.challenge) (s : State) (n : Tenant) :
    ((s.updPage b f).page n).challenge = (s.page n).challenge := by
  by_cases hn : n = b
  · subst hn
    rw [State.page_updPage_same]
    exact hf _
  · rw [State.page_updPage_other hn]

theorem assertTn_challenge (b : Tenant) (bit : Nat) (s : State) (n : Tenant) :
    ((assertTn b bit s).page n).challenge = (s.page n).challenge :=
  updPage_challenge b (f := fun p => { p with intStatus := p.intStatus ||| (BitVec.ofNat 4 1 <<< bit) }) (fun _ => rfl) s n

theorem updMbo_challenge (b : Box) (f : MboxOut → MboxOut) (s : State) (n : Tenant) :
    ((s.updMbo b f).page n).challenge = (s.page n).challenge := by
  cases b with
  | none => rfl
  | some b => exact updPage_challenge b (f := fun p => { p with mbo := f p.mbo }) (fun _ => rfl) s n

/-- A message that is taken leaves the challenges of the tenants. -/
theorem takeMessage_challenge (m : Msg) (s : State) (n : Tenant) : ((takeMessage m s).page n).challenge = (s.page n).challenge := by
  unfold takeMessage notifyOut
  cases m.box with
  | none => rfl
  | some b => exact (assertTn_challenge b _ _ n).trans (updMbo_challenge (some b) _ s n)

theorem startRead_frame (proc addr len : Nat) (s : State) :
    startRead proc addr len s = { s with fab := { s.fab with mgmt := (startRead proc addr len s).fab.mgmt } } := by
  unfold startRead
  split <;> rfl

theorem startWrite_frame (proc addr : Nat) (data : Bytes) (s : State) :
    startWrite proc addr data s = { s with fab := { s.fab with mgmt := (startWrite proc addr data s).fab.mgmt } } := by
  unfold startWrite
  split <;> rfl

/-- The answer to a request, under the code that the message carries. -/
theorem answer_request {code : Nat} {m : Msg} (h : m.code = code) (status : Nat) (s : State) :
    (answer m status s).answered m.box code m.seq status := by
  subst h
  exact answer_answered m status s

end Sys2Proof.Machine
end

section
/-! SUPPORT. Challenges, debug passes and dump retrieval (15 R559 to R562; 12 R491). -/
namespace Sys2Proof.Machine

theorem takeBuf_fill (n : Nat) (e : Entropy) : (takeBuf n e).fill = e.fill - n := by
  unfold takeBuf trackLow
  dsimp only
  split <;> rfl

theorem drawWaits_state {s : State} (h : s.en.state = 3) (code n : Nat) : drawWaits s code n = false := by
  simp [drawWaits, h]

theorem drawWaits_filled {s : State} (h3 : s.en.state ≠ 3) (h : 32768 ≤ s.en.fill) (code n : Nat) : drawWaits s code n = false := by
  simp only [drawWaits, drawsNow, h, decide_true]
  rw [if_neg h3]
  simp

theorem drawWaits_low {s : State} {code n : Nat} {m : Msg} (hm : s.requestIs code m) (h3 : s.en.state ≠ 3) (h : s.en.fill < 32768) :
    drawWaits s code n = true := by
  obtain ⟨hnext, hcode, _⟩ := hm
  have : ¬ 32768 ≤ s.en.fill := by omega
  simp only [drawWaits, drawsNow, this, hnext, hcode, Option.any_some]
  rw [if_neg h3]
  simpa using h3

section Challenge
variable {s : State} {m : Msg} (hm : s.requestIs 0x0102 m) (hpay : m.payload = 0) (hlen : m.paylen = 0) (hpar : allZero m.params = true)

include hm hpay hlen hpar in
theorem exec_debugChallenge (hd : drawWaits s 0x0102 32 = false) : exec .debugChallenge s =
    .next (if (takeMessage m s).en.fill < 32 then
      answer m 3 ((takeMessage m s).updEn fun e => { e with noentIv := satInc 0xFFFF e.noentIv })
    else drawChallenge m (takeMessage m s)) := by
  change execDebugChallenge s = _
  unfold execDebugChallenge
  rw [hd, onRequest_go hm, hpay, hlen, hpar]
  rfl

end Challenge

theorem drawChallenge_frame (m : Msg) (s : State) : drawChallenge m s =
    { s with tenants := (drawChallenge m s).tenants, mgmt := (drawChallenge m s).mgmt, en := takeBuf 32 s.en, drawn := s.drawn + 32 } :=
  rfl

/-- The challenge drawn is put into the page of its tenant, in place of the one it holds, and given in the reply. -/
theorem drawChallenge_challenge (m : Msg) (s : State) :
    ((drawChallenge m s).page m.tenant).challenge = some (drawnBytes s.drawn 32) ∧
    (∀ n : Tenant, n ≠ m.tenant → ((drawChallenge m s).page n).challenge = (s.page n).challenge) ∧
    ∃ r, (drawChallenge m s).mgmt.replies.getLast? = some r ∧ r.tenant = m.box.map Fin.val ∧
      r.bytes = replyBytes m.code m.seq 0 (drawnBytes s.drawn 32) := by
  refine ⟨?_, fun n hn => ?_, _, List.getLast?_concat, rfl, rfl⟩
  · exact congrArg TenantPage.challenge (State.page_updPage_same ((s.updEn (takeBuf 32)).draw 32) m.tenant
      fun p => { p with challenge := some (drawnBytes s.drawn 32) })
  · exact congrArg TenantPage.challenge (State.page_updPage_other hn ((s.updEn (takeBuf 32)).draw 32)
      fun p => { p with challenge := some (drawnBytes s.drawn 32) })

/-- The state in which a pass is answered: the challenge consumed, and the transfer of its bytes begun. -/
def passTaken (m : Msg) (s : State) : State :=
  if m.paylen = 256 then startRead 2 m.payload 256 (s.updPage m.tenant fun p => { p with challenge := none })
  else s.updPage m.tenant fun p => { p with challenge := none }

theorem passTaken_frame (m : Msg) (s : State) :
    passTaken m s = { s with tenants := (passTaken m s).tenants, fab := { s.fab with mgmt := (passTaken m s).fab.mgmt } } := by
  unfold passTaken
  split
  · rw [startRead_frame]
    rfl
  · rfl

theorem passTaken_challenge (m : Msg) (s : State) : ((passTaken m s).page m.tenant).challenge = none := by
  have hpage : ((s.updPage m.tenant fun p => { p with challenge := none }).page m.tenant).challenge = none :=
    congrArg TenantPage.challenge (State.page_updPage_same s m.tenant fun p => { p with challenge := none })
  unfold passTaken
  split
  · rw [startRead_frame]
    exact hpage
  · exact hpage

section Pass
variable {s : State} {m : Msg} {b : Bytes} {c : Nat} (hst : s.lc.state = 4 ∨ s.lc.state = 5) (hpar : allZero m.params = true)
  (hwin : m.paylen ≠ 256 ∨ inWindows s m.tenant m.payload 256 true false = true)
  (hc : passCheck s m.tenant (s.page m.tenant).challenge m.paylen b = c)

include hst hpar hwin hc in
theorem presentPass_eq : presentPass m b s =
    if c ≠ 0 then answer m c (refusePass c (passTaken m s))
    else answer m 0 ((passTaken m s).updDbg fun d =>
      { d with rights := BitVec.ofNat 32 (leAt b 8 4), tenant := BitVec.ofNat 6 m.tenant.val, last := 0 }) := by
  have hlc : ¬ (s.lc.state ≠ 4 ∧ s.lc.state ≠ 5) := fun ⟨h4, h5⟩ => hst.elim h4 h5
  have hcheck : passCheck (passTaken m s) m.tenant (s.page m.tenant).challenge m.paylen b = c := by
    rw [passTaken_frame]
    exact hc
  have hin : ¬ (m.paylen = 256 ∧ (!inWindows (s.updPage m.tenant fun p => { p with challenge := none }) m.tenant m.payload 256
      true false) = true) := by
    rintro ⟨hlen, hno⟩
    have : inWindows s m.tenant m.payload 256 true false = true := hwin.resolve_left (not_not_intro hlen)
    rw [show inWindows (s.updPage m.tenant fun p => { p with challenge := none }) m.tenant m.payload 256 true false =
      inWindows s m.tenant m.payload 256 true false from rfl, this] at hno
    cases hno
  unfold presentPass
  dsimp only
  rw [if_neg (show ¬ ((s.updPage m.tenant fun p => { p with challenge := none }).lc.state ≠ 4 ∧
      (s.updPage m.tenant fun p => { p with challenge := none }).lc.state ≠ 5) from hlc),
    if_neg (not_not_intro hpar), if_neg hin]
  change (if passCheck (passTaken m s) m.tenant (s.page m.tenant).challenge m.paylen b ≠ 0 then
    answer m (passCheck (passTaken m s) m.tenant (s.page m.tenant).challenge m.paylen b)
      (refusePass (passCheck (passTaken m s) m.tenant (s.page m.tenant).challenge m.paylen b) (passTaken m s)) else _) = _
  rw [hcheck]
  rfl

end Pass

/-- A pass presented where every stage of its transfer is allowed. -/
theorem passPresented {s : State} {m : Msg} {b : Bytes} (hm : s.requestIs 0x0103 m) (hst : s.lc.state = 4 ∨ s.lc.state = 5)
    (hpar : allZero m.params = true) (hwin : m.paylen ≠ 256 ∨ inWindows s m.tenant m.payload 256 true false = true) :
    ∃ t, exec (.debugPass b) s = .next t ∧
      t = { s with tenants := t.tenants, mgmt := t.mgmt, dbg := t.dbg, fab := { s.fab with mgmt := t.fab.mgmt } } ∧
      (t.page m.tenant).challenge = none ∧
      t.answered m.box 0x0103 m.seq (passCheck s m.tenant (s.page m.tenant).challenge m.paylen b) ∧
      (passCheck s m.tenant (s.page m.tenant).challenge m.paylen b = 0 →
        t.dbg = { s.dbg with rights := BitVec.ofNat 32 (leAt b 8 4), tenant := BitVec.ofNat 6 m.tenant.val, last := 0 }) ∧
      (passCheck s m.tenant (s.page m.tenant).challenge m.paylen b ≠ 0 →
        t.dbg = { s.dbg with last := BitVec.ofNat 8 (passCheck s m.tenant (s.page m.tenant).challenge m.paylen b),
                             refused := min 255 (s.dbg.refused + 1) }) := by
  generalize hc : passCheck s m.tenant (s.page m.tenant).challenge m.paylen b = c
  have hexec : exec (.debugPass b) s = .next (presentPass m b (takeMessage m s)) := congrArg Host.Outcome.next (onRequest_go hm _)
  rw [hexec]
  have hframe := takeMessage_frame m s
  have hheld := takeMessage_challenge m s m.tenant
  generalize takeMessage m s = u at hframe hheld ⊢
  have hcu : passCheck u m.tenant (u.page m.tenant).challenge m.paylen b = c := by
    rw [hheld, hframe]
    exact hc
  rw [presentPass_eq (by rw [hframe]; exact hst) hpar (by rw [hframe]; exact hwin) hcu]
  have htaken := passTaken_frame m u
  have hnone := passTaken_challenge m u
  generalize passTaken m u = w at htaken hnone ⊢
  have hw : w = { s with tenants := w.tenants, mgmt := w.mgmt, fab := { s.fab with mgmt := w.fab.mgmt } } := by
    conv => lhs; rw [htaken]
    conv => lhs; rw [hframe]
    rw [htaken]
  have hdbg : w.dbg = s.dbg := (congrArg State.dbg hw :)
  by_cases h0 : c = 0
  · subst h0
    rw [if_neg (not_not_intro rfl)]
    refine ⟨_, rfl, ?_, hnone, answer_request (requestIs_code hm) .., fun _ => ?_, fun h => absurd rfl h⟩
    · rw [hw]
      rfl
    · rw [← hdbg]
      rfl
  · rw [if_pos h0]
    refine ⟨_, rfl, ?_, hnone, answer_request (requestIs_code hm) .., fun h => absurd h h0, fun _ => ?_⟩
    · rw [hw]
      rfl
    · rw [← hdbg]
      rfl

section Dump
variable {s : State} {m : Msg} (hm : s.requestIs 0x0209 m)
  (hsel : byteAt m.params 0 = 0 ∨ byteAt m.params 0 = 1 ∨ byteAt m.params 0 = 0xFF) (hpar : allZero (m.params.drop 1) = true)

include hm hsel hpar in
/-- A dump retrieval whose selector is of Table 11-7. -/
theorem exec_dumpRetrieval : exec (.dumpRetrieval true) s = .next (match dumpIn s.nvm (byteAt m.params 0) with
    | none => answer m 2 (takeMessage m s)
    | some b =>
      if m.paylen < b.length ∨ (!payloadOk (takeMessage m s) m.tenant m.payload m.paylen false true) = true then
        answer m 0x84 (takeMessage m s)
      else answer m 0 (startWrite 2 m.payload b (takeMessage m s))) := by
  have hbad : ¬ ((byteAt m.params 0 > 1 ∧ byteAt m.params 0 ≠ 0xFF) ∨ ¬ allZero (m.params.drop 1) = true) := by
    rintro (⟨h1, h2⟩ | h)
    · omega
    · exact h hpar
  change execDumpRetrieval true s = _
  unfold execDumpRetrieval
  dsimp only
  rw [onRequest_go hm, if_neg hbad, show (takeMessage m s).nvm = s.nvm from by rw [takeMessage_frame]]
  rfl

include hm hsel hpar in
theorem dump_retrieved {d : Bytes} (hd : dumpIn s.nvm (byteAt m.params 0) = some d) (hlen : d.length ≤ m.paylen)
    (hok : payloadOk s m.tenant m.payload m.paylen false true = true) : ∃ t, exec (.dumpRetrieval true) s = .next t ∧
      t = { s with mgmt := t.mgmt, fab := { s.fab with mgmt := t.fab.mgmt } } ∧ t.answered m.box 0x0209 m.seq 0 := by
  have hframe := takeMessage_mgmtFrame (requestIs_mgmtBox hm rfl) s
  have hgo : ¬ (m.paylen < d.length ∨ (!payloadOk (takeMessage m s) m.tenant m.payload m.paylen false true) = true) := by
    have hok' : payloadOk (takeMessage m s) m.tenant m.payload m.paylen false true = true := by
      rw [hframe]
      exact hok
    rw [hok']
    simp only [Bool.not_true, Bool.false_eq_true, or_false]
    omega
  rw [exec_dumpRetrieval hm hsel hpar, hd]
  dsimp only
  rw [if_neg hgo]
  refine ⟨_, rfl, ?_, answer_request (requestIs_code hm) ..⟩
  generalize takeMessage m s = u at hframe ⊢
  have hw := startWrite_frame 2 m.payload d u
  generalize startWrite 2 m.payload d u = w at hw ⊢
  conv => lhs; rw [hw, hframe]
  rw [hw]
  rfl

include hm hsel hpar in
theorem dump_missing (hd : dumpIn s.nvm (byteAt m.params 0) = none) : ∃ t, exec (.dumpRetrieval true) s = .next t ∧
    t = { s with mgmt := t.mgmt } ∧ t.answered m.box 0x0209 m.seq 2 := by
  have hframe := takeMessage_mgmtFrame (requestIs_mgmtBox hm rfl) s
  rw [exec_dumpRetrieval hm hsel hpar, hd]
  refine ⟨_, rfl, ?_, answer_request (requestIs_code hm) ..⟩
  conv => lhs; rw [hframe]
  rfl

end Dump

/-- Settles O55: the request is carried out on the state without its message, and each branch is the one its condition names. -/
theorem challengesAndPasses : Obligations.ChallengesAndPasses := by
  unfold Obligations.ChallengesAndPasses
  refine ⟨fun s m hm hpay hlen hpar hen => ?_, fun s m hm hpay hlen hpar => ⟨fun h3 hlow => ?_, fun h3 hlow => ?_⟩,
    fun s m b hm hst hpar hwin => passPresented hm hst hpar hwin,
    fun s m hm hsel hpar => ⟨fun d hd hlen hok => dump_retrieved hm hsel hpar hd hlen hok, fun hd => dump_missing hm hsel hpar hd⟩⟩
  · have hdraw : drawWaits s 0x0102 32 = false := by
      obtain ⟨h3, _⟩ | ⟨h3, hfill⟩ := hen
      · exact drawWaits_state h3 _ _
      · exact drawWaits_filled h3 hfill _ _
    have hfill : ¬ s.en.fill < 32 := by omega
    have hframe := takeMessage_frame m s
    have hpages := takeMessage_challenge m s
    rw [exec_debugChallenge hm hpay hlen hpar hdraw]
    generalize takeMessage m s = u at hframe hpages ⊢
    have hen' : u.en = s.en := by rw [hframe]
    have hdrawn : u.drawn = s.drawn := by rw [hframe]
    rw [hen', if_neg hfill]
    obtain ⟨hown, hothers, r, hr, hbox, hbytes⟩ := drawChallenge_challenge m u
    refine ⟨_, _, rfl, ?_, hown, drawnBytes_length _ _, ?_, ⟨r, hr, hbox, ?_⟩, fun n hn => (hothers n hn).trans (hpages n)⟩
    · rw [drawChallenge_frame, hframe]
    · rw [drawChallenge_frame, ← hen']
      exact takeBuf_fill 32 u.en
    · rw [hbytes, requestIs_code hm]
  · have hframe := takeMessage_frame m s
    have hpages := takeMessage_challenge m s
    rw [exec_debugChallenge hm hpay hlen hpar (drawWaits_state h3 _ _)]
    generalize takeMessage m s = u at hframe hpages ⊢
    have hen' : u.en = s.en := by rw [hframe]
    rw [hen', if_pos hlow]
    refine ⟨_, rfl, ?_, hpages, answer_request (requestIs_code hm) ..⟩
    conv => lhs; rw [hframe]
    rfl
  · exact if_pos (drawWaits_low hm h3 hlow)

end Sys2Proof.Machine
end

section
/-! SUPPORT. Waybills are requested, signed and answered (15 R567, R569). -/
namespace Sys2Proof.Machine

/-- What the claims say of a tenant: the count, head and reach of its audit chain (15 Table 15-10). -/
def auditOf (p : TenantPage) : BitVec 64 × Bytes × BitVec 64 := (p.auditCount, p.auditHead, p.auditThrough)

theorem updPage_auditOf {f : TenantPage → TenantPage} (b : Tenant) (hf : ∀ p, auditOf (f p) = auditOf p) (s : State) (n : Tenant) :
    auditOf ((s.updPage b f).page n) = auditOf (s.page n) := by
  by_cases hn : n = b
  · subst hn
    rw [State.page_updPage_same]
    exact hf _
  · rw [State.page_updPage_other hn]

/-- A message that is taken leaves the audit chains of the tenants. -/
theorem takeMessage_auditOf (m : Msg) (s : State) (n : Tenant) : auditOf ((takeMessage m s).page n) = auditOf (s.page n) := by
  unfold takeMessage notifyOut
  cases m.box with
  | none => rfl
  | some b =>
    exact (updPage_auditOf b (f := fun p => { p with intStatus := p.intStatus ||| (BitVec.ofNat 4 1 <<< srcMboxOut) })
      (fun _ => rfl) _ n).trans (updPage_auditOf b
        (f := fun p => { p with mbo := { p.mbo with full := false, emptied := true, unanswered := true } }) (fun _ => rfl) s n)

theorem takeMessage_claims (m : Msg) (s : State) (t : Option Nat) (nonce : Bytes) :
    claims (takeMessage m s) t nonce = claims s t nonce := by
  have hpage := takeMessage_auditOf m s
  have hframe := takeMessage_frame m s
  generalize takeMessage m s = u at hpage hframe
  cases t with
  | none =>
    rw [hframe]
    rfl
  | some n =>
    have hn := hpage (tenantFin n)
    simp only [auditOf, Prod.mk.injEq] at hn
    obtain ⟨hcount, hhead, hthrough⟩ := hn
    unfold claims
    dsimp only
    rw [hcount, hhead, hthrough, hframe]
    rfl

/-- The job of a waybill requested in a state for a tenant or the block. -/
def waybillJobOf (t : Option Nat) (m : Msg) (s : State) : WaybillJob :=
  { WaybillJob.reset with tenant := t, req := m.bytes, payload := claims s t (slice m.params 4 (byteAt m.params 0)), lastTick := s.now,
                          drawn := drawnBytes s.drawn waybillDraw }

section Request
variable {s : State} {m : Msg} (h1 : s.lc.state ≠ 1) (h7 : s.lc.state ≠ 7) (hlo : 8 ≤ byteAt m.params 0) (hhi : byteAt m.params 0 ≤ 32)
  (hres : allZero (slice m.params 1 3) = true) (hpar : allZero (m.params.drop (4 + byteAt m.params 0)) = true) (hlen : 1024 ≤ m.paylen)
  (hok : payloadOk s m.tenant m.payload m.paylen false true = true) (h3 : s.en.state ≠ 3)

include h1 h7 hlo hhi hres hpar hlen hok h3 in
/-- A waybill request that passes its checks draws for its signature, and joins the jobs that wait for theirs. -/
theorem requestWaybill_eq (t : Option Nat) : requestWaybill t m s =
    (answer m 1 ((s.updEn (takeBuf waybillDraw)).draw waybillDraw)).updSs fun v =>
      { v with waybills := v.waybills ++ [waybillJobOf t m s] } := by
  unfold requestWaybill
  dsimp only
  rw [if_neg (not_or.mpr ⟨h1, h7⟩), if_neg (show ¬ (byteAt m.params 0 < 8 ∨ byteAt m.params 0 > 32) by omega),
    if_neg (not_or.mpr ⟨not_not_intro hres, not_not_intro hpar⟩),
    if_neg (show ¬ m.paylen < 1024 by omega), hok, if_neg (show ¬ (!true) = true by decide), if_neg h3]
  rfl

end Request

theorem waybillWaits_not {s : State} (hslot : s.tt.slot = 0) (h3 : s.en.state ≠ 3) (hfill : 32768 ≤ s.en.fill) (code n : Nat) :
    waybillWaits s code n = false := by
  rw [waybillWaits, drawWaits_filled h3 hfill, hslot]
  rfl

theorem exec_waybill {s : State} {m : Msg} {code : Nat} (hm : s.requestIs code m) (hcode : code = 0x0101 ∨ code = 0x0205)
    (hwait : waybillWaits s code waybillDraw = false) :
    exec (if code = 0x0101 then .tenantWaybill else .blockWaybill) s =
      .next (requestWaybill (if code = 0x0101 then some m.tenant.val else none) m (takeMessage m s)) := by
  obtain rfl | rfl := hcode
  · change execTenantWaybill s = _
    unfold execTenantWaybill
    rw [hwait, onRequest_go hm]
    rfl
  · change execBlockWaybill s = _
    unfold execBlockWaybill
    rw [hwait, onRequest_go hm]
    rfl

theorem waybillRequested {s : State} {m : Msg} {code : Nat} (hm : s.requestIs code m) (hcode : code = 0x0101 ∨ code = 0x0205)
    (h1 : s.lc.state ≠ 1) (h7 : s.lc.state ≠ 7) (hlo : 8 ≤ byteAt m.params 0) (hhi : byteAt m.params 0 ≤ 32)
    (hres : allZero (slice m.params 1 3) = true) (hpar : allZero (m.params.drop (4 + byteAt m.params 0)) = true) (hlen : 1024 ≤ m.paylen)
    (hok : payloadOk s m.tenant m.payload m.paylen false true = true) (h3 : s.en.state ≠ 3) (hfill : 32768 ≤ s.en.fill)
    (hslot : s.tt.slot = 0) : ∃ t w,
      exec (if code = 0x0101 then .tenantWaybill else .blockWaybill) s = .next t ∧
      t = { s with tenants := t.tenants, mgmt := t.mgmt, en := t.en, ss := { s.ss with waybills := s.ss.waybills ++ [w] },
                   drawn := s.drawn + 264 } ∧
      t.answered m.box code m.seq 1 ∧ t.en.fill = s.en.fill - 264 ∧
      w.tenant = (if code = 0x0101 then some m.tenant.val else none) ∧
      w.payload = claims s w.tenant (slice m.params 4 (byteAt m.params 0)) ∧ w.req = m.bytes ∧ w.drawn.length = 264 := by
  rw [exec_waybill hm hcode (waybillWaits_not hslot h3 hfill _ _)]
  generalize (if code = 0x0101 then some m.tenant.val else none) = who
  have hclaims := takeMessage_claims m s
  have hframe := takeMessage_frame m s
  generalize takeMessage m s = u at hframe hclaims ⊢
  rw [requestWaybill_eq (by rw [hframe]; exact h1) (by rw [hframe]; exact h7) hlo hhi hres hpar hlen (by rw [hframe]; exact hok)
    (by rw [hframe]; exact h3)]
  refine ⟨_, waybillJobOf who m u, rfl, ?_, answer_request (requestIs_code hm) .., ?_, rfl, hclaims _ _, rfl, drawnBytes_length _ _⟩
  · generalize waybillJobOf who m u = w
    rw [hframe]
    rfl
  · have hen : u.en = s.en := by rw [hframe]
    rw [← hen]
    exact takeBuf_fill _ _

section Signed
variable {s : State} {w : WaybillJob} {l : List WaybillJob} (hw : s.ss.waybills = w :: l)

include hw in
theorem exec_waybillSigned (hready : waybillReady s w = true) (hproc : procWorks s 2 = true) :
    exec (.waybillSigned true) s = .next (answerWaybill w s) := by
  change execWaybillSigned true s = _
  unfold execWaybillSigned
  rw [hw]
  dsimp only
  rw [hready, hproc]
  rfl

include hw in
theorem exec_waybillSigned_waits (hready : waybillReady s w = false) : exec (.waybillSigned true) s = .next s := by
  change execWaybillSigned true s = _
  unfold execWaybillSigned
  rw [hw]
  dsimp only
  rw [hready]
  rfl

include hw in
theorem answerWaybill_frame : answerWaybill w s = { s with mgmt := (answerWaybill w s).mgmt, ss := { s.ss with waybills := l },
                                                             fab := { s.fab with mgmt := (answerWaybill w s).fab.mgmt } } := by
  have hl : s.ss.waybills.drop 1 = l := by rw [hw]; rfl
  have hwr := startWrite_frame 2 (leAt w.req 8 8) (waybillBytes s w) s
  subst hl
  unfold answerWaybill
  dsimp only
  generalize waybillBytes s w = b at hwr ⊢
  generalize startWrite 2 (leAt w.req 8 8) b s = u at hwr ⊢
  rw [hwr]
  rfl

end Signed

/-- Settles O56: the claims and the draws are those of the state in which the request is taken. -/
theorem waybillsAreIssued : Obligations.WaybillsAreIssued := by
  unfold Obligations.WaybillsAreIssued
  refine ⟨fun s m code hm hcode h1 h7 hlo hhi hres hpar hlen hok h3 hfill hslot =>
      waybillRequested hm hcode h1 h7 hlo hhi hres hpar hlen hok h3 hfill hslot,
    fun s w l hw hready hproc => ⟨_, exec_waybillSigned hw hready hproc, answerWaybill_frame hw, reply_answered ..⟩,
    fun s w l hw hready => exec_waybillSigned_waits hw hready⟩

end Sys2Proof.Machine
end

section
/-! SUPPORT. Curves are loaded and retired (06 R286 to R290). -/
namespace Sys2Proof.Machine

/-! ### Loads asked for -/

/-- A record is admitted only for an entry of the table (06 Table 06-9). -/
theorem arrivalCheck_index {s : State} {r : Bytes} (h : arrivalCheck s r = 0) : recordIndex r < 32 := by
  unfold arrivalCheck at h
  dsimp only at h
  split at h
  · cases h
  · split at h
    · cases h
    · omega

theorem curveEntry_lt (s : State) {i : Nat} (h : i < 32) : s.curveEntry i = s.vs.curves[i] := by
  simp [State.curveEntry, h]

theorem queueCurve_frame (r : Bytes) (origin : BitVec 2) (seq : Option (BitVec 16)) (s : State) :
    queueCurve r origin seq s = { s with vs := (queueCurve r origin seq s).vs } := rfl

theorem queueCurve_entry {r : Bytes} (h : recordIndex r < 32) (origin : BitVec 2) (seq : Option (BitVec 16)) (s : State) :
    (queueCurve r origin seq s).curveEntry (recordIndex r) = checkingEntry r origin := by
  have hcurves : (queueCurve r origin seq s).vs.curves = s.vs.curves.set (recordIndex r) (checkingEntry r origin) := dif_pos h
  rw [curveEntry_lt _ h]
  simp only [hcurves]
  exact Vector.getElem_set_self ..

section Load
variable {s : State} {m : Msg} {b : Bytes} (hm : s.requestIs 0x0201 m) (hlen : m.paylen = 448) (hpar : allZero m.params = true)
  (hwin : inWindows s m.tenant m.payload 448 true false = true)

/-- The state in which an arriving record is checked: its message taken, and its read begun. -/
def recordTaken (m : Msg) (s : State) : State := startRead 2 m.payload m.paylen (takeMessage m s)

include hm in
theorem recordTaken_frame : recordTaken m s =
    { s with mgmt := (recordTaken m s).mgmt, fab := { s.fab with mgmt := (recordTaken m s).fab.mgmt } } := by
  have hmsg := takeMessage_mgmtFrame (requestIs_mgmtBox hm rfl) s
  have hread := startRead_frame 2 m.payload m.paylen (takeMessage m s)
  unfold recordTaken
  generalize takeMessage m s = u at hmsg hread ⊢
  generalize startRead 2 m.payload m.paylen u = w at hread ⊢
  rw [hread, hmsg]

include hm hlen hpar hwin in
theorem exec_curveLoad : exec (.curveLoad b) s = .next (if arrivalCheck s (fitTo 448 b) ≠ 0 then
      answer m 0x19 (noteLoad (recordIndex (fitTo 448 b)) (arrivalCheck s (fitTo 448 b)) (recordTaken m s))
    else queueCurve (fitTo 448 b) 2 (some (BitVec.ofNat 16 m.seq)) (answer m 1 (recordTaken m s))) := by
  have hcheck : arrivalCheck (recordTaken m s) (fitTo 448 b) = arrivalCheck s (fitTo 448 b) := by
    rw [recordTaken_frame hm]
    rfl
  have hin : inWindows (takeMessage m s) m.tenant m.payload m.paylen true false = true := by
    rw [takeMessage_mgmtFrame (requestIs_mgmtBox hm rfl), hlen]
    exact hwin
  rw [← hcheck]
  refine congrArg Host.Outcome.next ((onRequest_go hm _).trans ?_)
  rw [if_neg (not_or.mpr ⟨not_not_intro hlen, not_not_intro hpar⟩), hin]
  rfl

include hm hlen hpar hwin in
theorem record_queued (hc : arrivalCheck s (fitTo 448 b) = 0) : ∃ t x, exec (.curveLoad b) s = .next t ∧
    t = { s with mgmt := t.mgmt, vs := t.vs, fab := { s.fab with mgmt := t.fab.mgmt } } ∧
    t.answered m.box 0x0201 m.seq 1 ∧ t.vs.loads = s.vs.loads ++ [x] ∧ x.record = fitTo 448 b ∧
    x.seq = some (BitVec.ofNat 16 m.seq) ∧ t.curveEntry (recordIndex (fitTo 448 b)) = checkingEntry (fitTo 448 b) 2 := by
  rw [exec_curveLoad hm hlen hpar hwin, if_neg (not_not_intro hc)]
  have hframe := recordTaken_frame hm
  generalize recordTaken m s = u at hframe ⊢
  have hvs : u.vs = s.vs := by rw [hframe]
  have hnow : u.now = s.now := by rw [hframe]; rfl
  refine ⟨_, { CurveLoad.reset with record := fitTo 448 b, origin := 2, seq := some (BitVec.ofNat 16 m.seq), startTick := s.now }, rfl,
    ?_, answer_request (requestIs_code hm) 1 u, ?_, rfl, rfl, queueCurve_entry (arrivalCheck_index hc) ..⟩
  · rw [queueCurve_frame, hframe]
    rfl
  · rw [← hvs, ← hnow]
    rfl

include hm hlen hpar hwin in
theorem record_refused (hc : arrivalCheck s (fitTo 448 b) ≠ 0) : ∃ t, exec (.curveLoad b) s = .next t ∧
    t = { s with mgmt := t.mgmt, vs := t.vs, fab := { s.fab with mgmt := t.fab.mgmt } } ∧
    t.answered m.box 0x0201 m.seq 0x19 ∧ t.vs.loads = s.vs.loads ∧ t.vs.curves = s.vs.curves := by
  rw [exec_curveLoad hm hlen hpar hwin, if_pos hc]
  have hframe := recordTaken_frame hm
  generalize recordTaken m s = u at hframe ⊢
  have hvs : u.vs = s.vs := by rw [hframe]
  refine ⟨_, rfl, ?_, answer_request (requestIs_code hm) .., ?_, ?_⟩
  · rw [hframe]
    rfl
  · rw [← hvs]
    rfl
  · rw [← hvs]
    rfl

end Load

end Sys2Proof.Machine
end

section
/-! SUPPORT. Curve loads end, and entries are unloaded and retired (06 R257, R286 to R290). -/
namespace Sys2Proof.Machine

theorem loadLost_iff (s : State) (x : CurveLoad) : loadLost s x = true ↔ x.startTick + 78125 ≤ s.now ∨ 3 ≤ x.reruns := by
  simp [loadLost, loadLimit]

theorem exec_curveLoadComplete {s : State} {x : CurveLoad} {late : Bool} (hx : s.vs.loads[nextLoad s]? = some x)
    (hbegun : loadBegun s x = true) (hlate : late = true → x.startTick + 78125 ≤ s.now ∨ 3 ≤ x.reruns) :
    exec (.curveLoadComplete late) s =
      .next (completeLoad (if x.startTick + 78125 ≤ s.now ∨ 3 ≤ x.reruns then 0x0C else curveChecks x.record) s) := by
  change execCurveLoadComplete late s = _
  unfold execCurveLoadComplete
  rw [hx]
  dsimp only
  rw [hbegun, if_neg (show ¬ (!true) = true by decide)]
  by_cases hlost : x.startTick + 78125 ≤ s.now ∨ 3 ≤ x.reruns
  · rw [if_pos ((loadLost_iff s x).mpr hlost), if_pos hlost]
    rfl
  · rw [if_neg (fun h => hlost ((loadLost_iff s x).mp h)), if_neg (fun h => hlost (hlate h)), if_neg hlost]
    rfl

/-- A load whose time is not over does not end as late. -/
theorem exec_curveLoadComplete_early {s : State} {x : CurveLoad} (hx : s.vs.loads[nextLoad s]? = some x)
    (hnow : s.now < x.startTick + 78125) (hreruns : x.reruns < 3) : exec (.curveLoadComplete true) s = .next s := by
  change execCurveLoadComplete true s = _
  unfold execCurveLoadComplete
  rw [hx]
  dsimp only
  split
  · rfl
  · rw [if_neg (fun h => by have := (loadLost_iff s x).mp h; omega)]
    rfl

/-- The state with a load taken from those under check, the choice of the one that ends drawn. -/
def loadTaken (s : State) : State :=
  (if s.tt.started then s else s.draw 1).updVs fun v => { v with loads := s.vs.loads.eraseIdx (nextLoad s) }

theorem loadTaken_frame (s : State) : loadTaken s =
    { s with vs := { s.vs with loads := s.vs.loads.eraseIdx (nextLoad s) }, drawn := (loadTaken s).drawn } := by
  unfold loadTaken
  split <;> rfl

/-- The state with a load ended: its entry written, its outcome noted and source 14 asserted. -/
def loadEnded (x : CurveLoad) (code : Nat) (s : State) : State := assertBlk 14 (endCurveLoad x code (loadTaken s))

theorem completeLoad_eq {s : State} {x : CurveLoad} (hx : s.vs.loads[nextLoad s]? = some x) (code : Nat) : completeLoad code s =
    match x.seq with
    | none => loadEnded x code s
    | some q => reply none 0x0201 q.toNat (loadStatus code) [] (loadEnded x code s) := by
  unfold completeLoad
  rw [hx]
  rfl

/-- The reply to a load request changes only the replies that wait. -/
theorem completeLoad_same {s : State} {x : CurveLoad} (hx : s.vs.loads[nextLoad s]? = some x) (code : Nat) :
    completeLoad code s = { loadEnded x code s with mgmt := (completeLoad code s).mgmt } ∧
    (completeLoad code s).mgmt.intStatus = (loadEnded x code s).mgmt.intStatus := by
  rw [completeLoad_eq hx]
  split <;> exact ⟨rfl, rfl⟩

theorem loadEnded_frame (x : CurveLoad) (code : Nat) (s : State) : loadEnded x code s =
    { s with mgmt := (loadEnded x code s).mgmt, vs := (loadEnded x code s).vs, drawn := (loadEnded x code s).drawn } := by
  have h := loadTaken_frame s
  unfold loadEnded
  generalize loadTaken s = u at h ⊢
  rw [h]
  rfl

/-- The entry that a load leaves in the table: READY, EMPTY again, or as it was (06 R286). -/
theorem loadEnded_vs (x : CurveLoad) (code : Nat) (s : State) : (loadEnded x code s).vs.loads = s.vs.loads.eraseIdx (nextLoad s) ∧
    (loadEnded x code s).vs.lastResult = BitVec.ofNat 8 code ∧ (loadEnded x code s).vs.curves =
      if code = 1 then
        if h : recordIndex x.record < 32 then s.vs.curves.set (recordIndex x.record)
          { state := 2, origin := x.origin, h := recordH x.record, fbits := recordFbits x.record, record := x.record,
            recordSym := symbolsOf x.record } else s.vs.curves
      else if (s.curveEntry (recordIndex x.record)).state = 1 then
        if h : recordIndex x.record < 32 then s.vs.curves.set (recordIndex x.record) CurveEntry.reset else s.vs.curves
      else s.vs.curves := by
  have h := loadTaken_frame s
  unfold loadEnded
  generalize loadTaken s = u at h ⊢
  rw [h]
  exact ⟨rfl, rfl, rfl⟩

theorem set_entry_other {v : Vector CurveEntry 32} {i : Nat} (h : i < 32) (e : CurveEntry) (j : Fin 32) (hj : j.val ≠ i) :
    (v.set i e)[j] = v[j] := Vector.getElem_set_ne _ _ (Ne.symm hj)

theorem loadCompleted {s : State} {x : CurveLoad} {late : Bool} {code : Nat} (hx : s.vs.loads[nextLoad s]? = some x)
    (hix : recordIndex x.record < 32) (hbegun : loadBegun s x = true)
    (hcode : code = (if x.startTick + 78125 ≤ s.now ∨ 3 ≤ x.reruns then 0x0C else curveChecks x.record))
    (hlate : late = true → x.startTick + 78125 ≤ s.now ∨ 3 ≤ x.reruns) : ∃ t, exec (.curveLoadComplete late) s = .next t ∧
      t = { s with mgmt := t.mgmt, vs := t.vs, drawn := t.drawn } ∧ t.vs.loads = s.vs.loads.eraseIdx (nextLoad s) ∧
      t.vs.lastResult = BitVec.ofNat 8 code ∧ t.mgmt.intStatus.getLsbD 14 = true ∧
      (∀ j : Fin 32, j.val ≠ recordIndex x.record → t.vs.curves[j] = s.vs.curves[j]) ∧
      (code = 1 → t.curveEntry (recordIndex x.record) =
        { state := 2, origin := x.origin, h := recordH x.record, fbits := recordFbits x.record, record := x.record,
          recordSym := symbolsOf x.record }) ∧
      (code ≠ 1 → (s.curveEntry (recordIndex x.record)).state = 1 → t.curveEntry (recordIndex x.record) = CurveEntry.reset) ∧
      (∀ q, x.seq = some q →
        t.answered none 0x0201 q.toNat (if code = 1 then 0 else if code = 0x0C then 0x3F else 0x19)) := by
  rw [exec_curveLoadComplete hx hbegun hlate, ← hcode]
  obtain ⟨hsame, hint⟩ := completeLoad_same hx code
  have hreply : ∀ q, x.seq = some q → (completeLoad code s).answered none 0x0201 q.toNat (loadStatus code) := fun q hq => by
    rw [completeLoad_eq hx, hq]
    exact reply_answered ..
  have hframe := loadEnded_frame x code s
  obtain ⟨hloads, hres, hcurves⟩ := loadEnded_vs x code s
  have h14 : (loadEnded x code s).mgmt.intStatus.getLsbD 14 = true := assertBlk_bit 14 (by decide) _
  generalize completeLoad code s = t at hsame hint hreply ⊢
  generalize loadEnded x code s = u at hsame hint hframe hloads hres hcurves h14
  have hvs : t.vs = u.vs := by rw [hsame]
  have hentry : t.curveEntry (recordIndex x.record) = u.vs.curves[recordIndex x.record] := by
    rw [curveEntry_lt _ hix, hvs]
  rw [dif_pos hix, dif_pos hix] at hcurves
  refine ⟨t, rfl, ?_, hvs ▸ hloads, hvs ▸ hres, hint ▸ h14, fun j hj => ?_, fun h1 => ?_, fun h1 hst => ?_, hreply⟩
  · rw [hsame, hframe]
  · rw [hvs, hcurves]
    split
    · exact set_entry_other hix _ j hj
    · split
      · exact set_entry_other hix _ j hj
      · rfl
  · rw [if_pos h1] at hcurves
    simp only [hentry, hcurves]
    exact Vector.getElem_set_self ..
  · rw [if_neg h1, if_pos hst] at hcurves
    simp only [hentry, hcurves]
    exact Vector.getElem_set_self ..

section Unload
variable {s : State} {m : Msg} (hm : s.requestIs 0x0202 m) (hpay : m.payload = 0) (hlen : m.paylen = 0) (hlo : 8 ≤ byteAt m.params 0)
  (hhi : byteAt m.params 0 < 32) (hpar : allZero (m.params.drop 1) = true)

include hm hpay hlen hlo hhi hpar in
theorem exec_curveUnload : exec .curveUnload s = .next (if (s.curveEntry (byteAt m.params 0)).state ≠ 2 then
    answer m 2 (takeMessage m s)
    else answer m 0 ((takeMessage m s).updVs fun v => { v with unload := addNew (byteAt m.params 0) v.unload })) := by
  have hentry : (takeMessage m s).curveEntry (byteAt m.params 0) = s.curveEntry (byteAt m.params 0) := by
    rw [takeMessage_mgmtFrame (requestIs_mgmtBox hm rfl)]
    rfl
  rw [← hentry]
  refine congrArg Host.Outcome.next ((onRequest_go hm _).trans ?_)
  dsimp only
  rw [if_neg (by rintro (h | h | h | h | h) <;> first | omega | exact h hpar)]

end Unload

theorem curveRetired_retires {s : State} {ix : Fin 32} (h3 : s.vs.curves[ix].state = 3) (hslot : s.tt.slot = 0)
    (hfree : ∀ r ∈ s.reqs, holdsCurve r ix.val = false) : exec (.curveRetired ix) s =
      .next (assertBlk 14 (s.updVs fun v => { v with curves := v.curves.set ix CurveEntry.reset })) := by
  refine if_pos ⟨hslot, h3, ?_⟩
  simpa using hfree

theorem curveRetired_waits {s : State} {ix : Fin 32} (h : s.tt.slot ≠ 0 ∨ ∃ r ∈ s.reqs, holdsCurve r ix.val = true) :
    exec (.curveRetired ix) s = .next s := by
  refine if_neg ?_
  rintro ⟨hslot, _, hfree⟩
  obtain h | ⟨r, hr, hheld⟩ := h
  · exact h hslot
  · exact hfree (List.any_eq_true.mpr ⟨r, hr, hheld⟩)

/-- Settles O53: an arriving record is checked once, and the load that ends writes its own entry alone. -/
theorem curvesLoadAndRetire : Obligations.CurvesLoadAndRetire := by
  unfold Obligations.CurvesLoadAndRetire
  refine ⟨fun s m b hm hlen hpar hwin => ⟨record_queued hm hlen hpar hwin, record_refused hm hlen hpar hwin⟩,
    fun s x l late code hx hl hix hbegun hcode hlate => ?_, fun s m hm hpay hlen hlo hhi hpar => ⟨fun h2 => ?_, fun h2 => ?_⟩,
    fun s x hx hnow hreruns => exec_curveLoadComplete_early hx hnow hreruns,
    fun s ix h3 => ⟨fun hslot hfree => ?_, curveRetired_waits⟩⟩
  · subst hl
    exact loadCompleted hx hix hbegun hcode hlate
  · rw [exec_curveUnload hm hpay hlen hlo hhi hpar, if_neg (not_not_intro h2)]
    have hframe := takeMessage_mgmtFrame (requestIs_mgmtBox hm rfl) s
    refine ⟨_, rfl, ?_, answer_request (requestIs_code hm) .., mem_addNew ..⟩
    rw [hframe]
    rfl
  · rw [exec_curveUnload hm hpay hlen hlo hhi hpar, if_pos h2]
    have hframe := takeMessage_mgmtFrame (requestIs_mgmtBox hm rfl) s
    refine ⟨_, rfl, ?_, answer_request (requestIs_code hm) ..⟩
    rw [hframe]
    rfl
  · exact ⟨_, curveRetired_retires h3 hslot hfree, rfl, assertBlk_bit 14 (by decide) _⟩

end Sys2Proof.Machine
end

section
/-! SUPPORT. What the end of requests, fault reports and the issue of bursts leave at a tick boundary. -/
namespace Sys2Proof.Machine

/-- A station without its derived-key registers: its key banks and its restart. -/
def StationState.underived (x : StationState) : StationState := { x with derived := [] }

/-- What only a boundary, a slot or a cut-over changes: the configuration, the timetable but for the hold chunks given back, the supplies,
the lease, the key banks, the reads of the tick, and source 12. -/
structure Steady where
  cfg : Config
  tt : Timetable
  pwr : Power
  remain : Nat
  stations : Vector StationState 7
  rdUsed : List ((Nat × Nat) × Nat)
  vsUsed : List ((Nat × Nat) × Nat)
  mgRd : Nat
  switched : Bool

def State.steady (s : State) : Steady :=
  { cfg := s.cfg, tt := { s.tt with holdFreed := [] }, pwr := s.pwr, remain := s.mgmt.remain, stations := s.stations.map StationState.underived,
    rdUsed := s.fab.rdUsed, vsUsed := s.fab.vsUsed, mgRd := s.fab.mgRd, switched := s.mgmt.intStatus.getLsbD 12 }

theorem foldl_steady {α : Type} (f : State → α → State) (h : ∀ s x, (f s x).steady = s.steady) (l : List α) (s : State) :
    (l.foldl f s).steady = s.steady := by
  induction l generalizing s with
  | nil => rfl
  | cons x l ih => rw [List.foldl_cons, ih, h]

section Writers
variable (s : State)

@[simp] theorem updReq_steady (rid : Nat) (f : Request → Request) : (s.updReq rid f).steady = s.steady := rfl
@[simp] theorem mapReqs_steady (f : Request → Request) : (s.mapReqs f).steady = s.steady := rfl
@[simp] theorem updPage_steady (t : Tenant) (f : TenantPage → TenantPage) : (s.updPage t f).steady = s.steady := rfl
@[simp] theorem updRing_steady (t : Tenant) (k : RingNo) (f : Ring → Ring) : (s.updRing t k f).steady = s.steady := rfl
@[simp] theorem updVs_steady (f : Verify → Verify) : (s.updVs f).steady = s.steady := rfl
@[simp] theorem updSs_steady (f : Sealed → Sealed) : (s.updSs f).steady = s.steady := rfl
@[simp] theorem updKs_steady (f : Custody → Custody) : (s.updKs f).steady = s.steady := rfl
@[simp] theorem updEn_steady (f : Entropy → Entropy) : (s.updEn f).steady = s.steady := rfl
@[simp] theorem updCs_steady (n : Fin 2) (f : CipherStation → CipherStation) : (s.updCs n f).steady = s.steady := rfl
@[simp] theorem updFlt_steady (f : Faults → Faults) : (s.updFlt f).steady = s.steady := rfl
@[simp] theorem updNvm_steady (f : Nvm → Nvm) : (s.updNvm f).steady = s.steady := rfl
@[simp] theorem setRole_steady (key lane : Nat) (r : BitVec 4) : (setRole key lane r s).steady = s.steady := rfl
@[simp] theorem assertTn_steady (t : Tenant) (n : Nat) : (assertTn t n s).steady = s.steady := rfl

@[simp] theorem updFab_steady (f : Fabric → Fabric) (hrd : (f s.fab).rdUsed = s.fab.rdUsed) (hvs : (f s.fab).vsUsed = s.fab.vsUsed)
    (hmg : (f s.fab).mgRd = s.fab.mgRd) : (s.updFab f).steady = s.steady := by
  simp only [State.steady, State.updFab, hrd, hvs, hmg]

theorem assertBlk_steady {n : Nat} (h : n ≠ 12) : (assertBlk n s).steady = s.steady := by
  have hbit : (assertBlk n s).mgmt.intStatus.getLsbD 12 = s.mgmt.intStatus.getLsbD 12 := by
    have : (BitVec.ofNat 64 1 <<< n).getLsbD 12 = false := by
      have hone : (BitVec.ofNat 64 1) = BitVec.twoPow 64 0 := rfl
      rw [hone, BitVec.getLsbD_shiftLeft, BitVec.getLsbD_twoPow]
      simp
      omega
    simp only [assertBlk, State.updMgmt, BitVec.getLsbD_or, this, Bool.or_false]
  simp only [State.steady, hbit]
  rfl

end Writers

/-! ### Fault reports -/

@[simp] theorem takeAction_steady (action : Nat) (c : BitVec 16) (s : State) : (takeAction action c s).steady = s.steady := by
  unfold takeAction retireSource retireLane discardInternal
  dsimp only
  (repeat' split) <;> rfl

@[simp] theorem logReport_steady (proof : Bool) (c d : BitVec 16) (cl : SevClass) (s : State) :
    (logReport proof c d cl s).steady = s.steady := by
  unfold logReport
  dsimp only
  split
  · rw [assertBlk_steady _ (by decide)]
    rfl
  · rfl

@[simp] theorem openWindow_steady (c : BitVec 16) (cl : SevClass) (s : State) : (openWindow c cl s).steady = s.steady := by
  unfold openWindow
  dsimp only
  split
  · rfl
  · split
    · rfl
    · rw [takeAction_steady, logReport_steady, takeAction_steady]
      rfl

@[simp] theorem faultReport_steady (c d : BitVec 16) (s : State) : (faultReport c d s).steady = s.steady := by
  unfold faultReport reportAs
  dsimp only
  (repeat' split) <;> simp

/-! ### Ends of requests -/

theorem steady_of_ks {s t : State} (h : ∃ k, t = { s with ks := k }) : t.steady = s.steady := by
  obtain ⟨k, rfl⟩ := h
  rfl

@[simp] theorem evictFor_steady (keep fuel : Nat) (s : State) : (evictFor keep fuel s).steady = s.steady :=
  steady_of_ks (evictFor_ks keep fuel s)

@[simp] theorem cachePut_steady (c : CacheSlot) (s : State) : (cachePut c s).steady = s.steady := steady_of_ks (cachePut_ks c s)

@[simp] theorem dropDerived_steady (sel : DerivedReg → Bool) (s : State) : (dropDerived sel s).steady = s.steady := by
  have : (dropDerived sel s).stations.map StationState.underived = s.stations.map StationState.underived := by
    simp only [dropDerived, Vector.map_map]
    rfl
  simp only [State.steady, this]
  rfl

@[simp] theorem freeHold_steady (r : Request) (s : State) (i : Nat) : (freeHold r s i).steady = s.steady := by
  unfold freeHold
  dsimp only
  split <;> rfl

@[simp] theorem unpend_steady (t h : Nat) (s : State) : (unpend t h s).steady = s.steady := rfl

@[simp] theorem unpin_steady (rid : Nat) (s : State) : (unpin rid s).steady = s.steady := steady_of_ks (unpin_ks rid s)

@[simp] theorem freeRegions_steady (r : Request) (s : State) : (freeRegions r s).steady = s.steady := by
  unfold freeRegions
  rw [foldl_steady _ (freeHold_steady r)]
  simp

@[simp] theorem closeRequest_steady (r : Request) (status : Nat) (aux : Bytes) (due : Nat) (s : State) :
    (closeRequest r status aux due s).steady = s.steady := by
  have hfree := freeRegions_steady r s
  unfold closeRequest
  generalize freeRegions r s = u at hfree ⊢
  dsimp only
  rw [unpin_steady]
  split
  · exact hfree
  · rw [foldl_steady _ (fun s d => by split <;> rfl)]
    exact hfree

@[simp] theorem failRequest_steady (rid status : Nat) (source : BitVec 16) (due : Nat) (s : State) :
    (failRequest rid status source due s).steady = s.steady := by
  unfold failRequest
  (repeat' split) <;> simp

@[simp] theorem failStep_steady (rid step status : Nat) (source : BitVec 16) (due : Nat) (s : State) :
    (failStep rid step status source due s).steady = s.steady := by
  unfold failStep
  (repeat' split) <;> simp

@[simp] theorem closeDrained_steady (rid due : Nat) (s : State) : (closeDrained rid due s).steady = s.steady := by
  unfold closeDrained
  (repeat' split) <;> simp

/-! ### The issue of bursts -/

@[simp] theorem issueBurst_steady (port : Nat) (write : Bool) (addr len : Nat) (ident : Ident) (kind : BurstKind) (data sym : Bytes)
    (s : State) : (issueBurst port write addr len ident kind data sym s).steady = s.steady := rfl

@[simp] theorem windowFail_steady (r : Request) (step : Nat) (s : State) : (windowFail r step s).steady = s.steady :=
  failStep_steady ..

@[simp] theorem testOutput_steady (r : Request) (o : OutPart) (s : State) : (testOutput r o s).1.steady = s.steady := by
  unfold testOutput
  dsimp only
  (repeat' split) <;> simp

@[simp] theorem testMgmt_steady (x : MgmtXfer) (s : State) : (testMgmt x s).1.steady = s.steady := by
  unfold testMgmt
  (repeat' split) <;> simp

/-- A management burst changes of these only the bytes read in the tick. -/
theorem mgmtTurn_steady (write : Bool) (s : State) :
    (mgmtTurn write s).steady = { s.steady with mgRd := (mgmtTurn write s).fab.mgRd } ∧
    (write = true → (mgmtTurn write s).fab.mgRd = s.fab.mgRd) := by
  have hnone : s.steady = { s.steady with mgRd := s.fab.mgRd } ∧ (write = true → s.fab.mgRd = s.fab.mgRd) := ⟨rfl, fun _ => rfl⟩
  unfold mgmtTurn
  dsimp only
  split
  · exact hnone
  · rename_i x _
    have htest := testMgmt_steady x s
    generalize min (80 * s.image.mgmtCap - if write = true then s.fab.mgWr else s.fab.mgRd) (burstLen x.addr.toNat x.left) = len
    split
    · exact hnone
    · generalize testMgmt x s = p at htest ⊢
      obtain ⟨u, b⟩ := p
      dsimp only at htest
      have hmg : u.fab.mgRd = s.fab.mgRd := congrArg Steady.mgRd htest
      cases b with
      | true => exact ⟨by rw [htest, hmg]; rfl, fun _ => hmg⟩
      | false =>
        refine ⟨?_, fun hw => ?_⟩
        · rw [← htest]
          rfl
        · rw [hw]
          exact hmg

theorem issueMgmt_steady_write (s : State) : (issueMgmt true s).steady = s.steady := by
  refine foldl_steady _ (fun u _ => ?_) _ s
  obtain ⟨h, hrd⟩ := mgmtTurn_steady true u
  rw [h, hrd rfl]
  rfl

/-- The reads of management transfers change of these only the bytes read in the tick. -/
theorem issueMgmt_steady_read (s : State) : ∃ n, (issueMgmt false s).steady = { s.steady with mgRd := n } := by
  unfold issueMgmt
  generalize List.range 16 = l
  induction l generalizing s with
  | nil => exact ⟨s.steady.mgRd, rfl⟩
  | cons x l ih =>
    obtain ⟨n, hn⟩ := ih (mgmtTurn false s)
    exact ⟨n, by rw [List.foldl_cons, hn, (mgmtTurn_steady false s).1]⟩

@[simp] theorem writeTurn_steady (port t : Nat) (s : State) : (writeTurn port t s).steady = s.steady := by
  unfold writeTurn
  dsimp only
  split
  · rfl
  · rename_i r o _
    have htest := testOutput_steady r o s
    split
    · simp
    · split
      · rfl
      · split
        · simp
        · generalize testOutput r o s = p at htest ⊢
          obtain ⟨u, b⟩ := p
          dsimp only at htest
          cases b with
          | true => exact htest
          | false =>
            dsimp only
            rw [closeDrained_steady]
            exact htest

theorem takeTurn_steady (turn : Nat → Nat → State → State) (note : Nat → Nat → Fabric → Fabric) (p t : Nat) (s : State)
    (hturn : ∀ p t s, (turn p t s).steady = s.steady)
    (hnote : ∀ p t (u : State), (u.updFab (note p t)).steady = u.steady) : (takeTurn turn note p t s).steady = s.steady := by
  unfold takeTurn
  dsimp only
  split
  · exact hturn p t s
  · rw [hnote, hturn]

theorem issueAll_steady (last : State → List (Nat × Nat)) (turn : Nat → Nat → State → State) (note : Nat → Nat → Fabric → Fabric)
    (s : State) (hturn : ∀ p t s, (turn p t s).steady = s.steady)
    (hnote : ∀ p t (u : State), (u.updFab (note p t)).steady = u.steady) : (issueAll last turn note s).steady = s.steady := by
  unfold issueAll
  refine foldl_steady _ (fun s p => ?_) _ s
  dsimp only
  split
  · rfl
  · exact foldl_steady _ (fun s _ => foldl_steady _ (fun s t => takeTurn_steady turn note p t s hturn hnote) _ s) _ s

@[simp] theorem closeIdle_steady (s : State) : (closeIdle s).steady = s.steady := foldl_steady _ (fun _ _ => closeDrained_steady ..) _ s

@[simp] theorem issueWrites_steady (s : State) : (issueWrites s).steady = s.steady := by
  unfold issueWrites
  dsimp only
  rw [foldl_steady _ (fun s r => foldl_steady _ (freeHold_steady r) _ s), issueMgmt_steady_write,
    issueAll_steady _ _ _ _ writeTurn_steady (fun _ _ _ => rfl), closeIdle_steady]

@[simp] theorem dropKept_steady (s : State) : (dropKept s).steady = s.steady := by
  unfold dropKept
  exact foldl_steady _ (fun s p => updRing_steady s _ _ _) _ s

@[simp] theorem issueDescReads_steady (s : State) : (issueDescReads s).steady = s.steady := by
  unfold issueDescReads
  dsimp only
  split
  · rfl
  · refine (foldl_steady _ (fun s p => ?_) _ _).trans (dropKept_steady s)
    exact foldl_steady _ (fun s i => issueBurst_steady ..) _ s

end Sys2Proof.Machine
end

section
/-! SUPPORT. The keys, the rings and the lock at a cut-over (09 R400; 03 R127; 11 R453). -/
namespace Sys2Proof.Machine

@[simp] theorem dropCounters_steady (s : State) : (dropCounters s).steady = s.steady := by
  unfold dropCounters
  split <;> rfl

@[simp] theorem addCounter_steady (s : State) (c : CacheSlot) : (addCounter s c).steady = s.steady := by
  unfold addCounter
  split <;> rfl

@[simp] theorem switchKeys_steady (missed : List CacheSlot) (s : State) : (switchKeys missed s).steady = s.steady := by
  unfold switchKeys
  dsimp only
  split
  · rfl
  · rw [evictFor_steady, foldl_steady _ addCounter_steady, dropCounters_steady]
    rfl

@[simp] theorem stopOutside_steady (s : State) : (stopOutside s).steady = s.steady := by
  unfold stopOutside
  refine foldl_steady _ (fun s p => ?_) _ s
  split
  · rfl
  · rfl

@[simp] theorem retireOldCurves_steady (l : List Bytes) (s : State) : (retireOldCurves l s).steady = s.steady := rfl
@[simp] theorem switchProcs_steady (s : State) : (switchProcs s).steady = s.steady := rfl

/-- The state with the new set in force: its bank, its image, its timetable and the levels of its rails (16 R593). -/
def setInForce (s : State) : State :=
  ((((otherBank s).updCfg fun c =>
    { c with image := c.newImage, hash := c.newHash, seq := (otherBank s).image.seq, area := (otherBank s).nvm.imgPtr.area, coState := 5,
             armed := 0, target := 0 }).updTt fun t =>
    if s.cfg.handover then switchPlats s.image (otherBank s).image t
    else { switchPlats s.image (otherBank s).image t with active := 0, causeV := false, cause := 0 }).updPwr fun p =>
    { p with oldLevels := some (s.now, s.image.offsets) })

/-- The state in which its lock and its keys are those of the new set. -/
def ownersSwitched (missed : List CacheSlot) (s : State) : State :=
  switchProcs (stopOutside (retireOldCurves ((switchLock s).updAon fun a => { a with talarm := calValue s 0x19 }).image.curves
    (switchKeys missed ((switchLock s).updAon fun a => { a with talarm := calValue s 0x19 }))))

/-- What becomes of the request at a switch: lost with a Registrar that is handed over, else answered. -/
def switchTold (lost : Bool) (w : State) : State := if lost then clearOutboxes w else answerCutover 0 [] w

theorem switchOwners_eq (s : State) : switchOwners s = assertBlk 12
    (switchTold ((s.procs[(2 : Fin 3)]).halted && (s.procs[(2 : Fin 3)]).newPatch.isSome)
      (ownersSwitched (missedNodes s) (setInForce s))) := rfl

/-! ### What the new set leaves -/

theorem setInForce_fixed (s : State) : (setInForce s).fixed = { s.fixed with coState := 5 } := by
  unfold setInForce
  rw [State.updPwr_fixed, State.updTt_fixed _ _ (by split <;> simp) (by split <;> simp), updCfg_fixed_eq, otherBank_fixed]
  rfl

theorem setInForce_cfg (s : State) : (setInForce s).cfg =
    { s.cfg with bank := !s.cfg.bank, image := s.cfg.newImage, hash := s.cfg.newHash, seq := (otherBank s).image.seq, area := s.nvm.imgPtr.area, coState := 5, armed := 0, target := 0 } := rfl

theorem setInForce_image {s : State} {m : Image} (h : s.nextImage? = some m) : (setInForce s).image = m ∧ (otherBank s).image = m := by
  have : (otherBank s).image = m := by
    unfold State.nextImage? at h
    unfold State.image otherBank State.updCfg
    dsimp only
    obtain hb | hb := Bool.eq_false_or_eq_true s.cfg.bank <;> simp [hb] at h ⊢ <;> simp [h]
  exact ⟨this, this⟩

theorem switchPlats_level (old new : Image) (t : Timetable) (p : Fin 1024) : ((switchPlats old new t).plats[p]).level ≤ (t.plats[p]).level := by
  unfold switchPlats
  dsimp only
  rw [show (Vector.ofFn _)[p] = _ from Vector.getElem_ofFn ..]
  split <;> exact Nat.min_le_left ..

theorem switchPlats_active (old new : Image) (t : Timetable) : (switchPlats old new t).active = t.active := by
  simp only [switchPlats]

theorem setInForce_level (s : State) (p : Fin 1024) : ((setInForce s).tt.plats[p]).level ≤ (s.tt.plats[p]).level := by
  have htt : (setInForce s).tt.plats = (switchPlats s.image (otherBank s).image s.tt).plats := by
    unfold setInForce
    dsimp only [State.updPwr, State.updTt, State.updCfg, otherBank]
    split <;> rfl
  rw [htt]
  exact switchPlats_level ..

theorem setInForce_active (s : State) : (s.cfg.handover = false → (setInForce s).tt.active = 0 ∧ (setInForce s).tt.causeV = false) ∧
    (s.cfg.handover = true → (setInForce s).tt.active = s.tt.active) := by
  have htt : (setInForce s).tt = if s.cfg.handover then switchPlats s.image (otherBank s).image s.tt
      else { switchPlats s.image (otherBank s).image s.tt with active := 0, causeV := false, cause := 0 } := rfl
  refine ⟨fun h => ?_, fun h => ?_⟩
  · rw [htt, h]
    exact ⟨rfl, rfl⟩
  · rw [htt, h]
    exact switchPlats_active ..

/-- The lock at a cut-over: freed, or kept by a host that may hold it in the new map (11 R453). -/
theorem switchLock_cases (s : State) : switchLock s = s.updMgmt freeLock ∨
    switchLock s = s ∧ (s.mgmt.src = false → s.mgmt.held = true → s.roleOf s.mgmt.holder = 3) := by
  unfold switchLock
  dsimp only
  generalize hlost : (if s.mgmt.src = true then _ else _ : Bool) = lost
  by_cases hgo : (s.mgmt.held && lost) = true
  · exact .inl (if_pos hgo)
  · refine .inr ⟨if_neg hgo, fun hsrc hheld => ?_⟩
    rw [hsrc] at hlost
    rw [hheld] at hgo
    have : lost = false := by simpa using hgo
    rw [this] at hlost
    simpa using hlost

theorem switchLock_holds {s : State} (hsrc : s.mgmt.src = false) (hheld : (switchLock s).mgmt.held = true) :
    s.roleOf (switchLock s).mgmt.holder = 3 := by
  obtain h | ⟨h, hrole⟩ := switchLock_cases s
  · rw [h] at hheld
    cases hheld
  · rw [h] at hheld ⊢
    exact hrole hsrc hheld

theorem switchLock_frame (s : State) : switchLock s = { s with mgmt := (switchLock s).mgmt } := by
  obtain h | ⟨h, _⟩ := switchLock_cases s
  · rw [h]
    rfl
  · rw [h]

theorem switchLock_fixed (s : State) : (switchLock s).fixed =
    { s.fixed with lock := ((switchLock s).mgmt.held, (switchLock s).mgmt.src, (switchLock s).mgmt.holder) } := by
  have h := switchLock_frame s
  generalize switchLock s = u at h ⊢
  rw [h]
  rfl

/-- What the notice of the switch leaves: its own request alone is dropped (16 R593). -/
theorem switchTold_leaves (lost : Bool) (w : State) : (switchTold lost w).fixed = w.fixed ∧ (switchTold lost w).tt = w.tt ∧
    ∃ x, (switchTold lost w).cfg = { w.cfg with coSeq := x } := by
  unfold switchTold
  cases lost with
  | true =>
    refine ⟨clearOutboxes_fixed w, ?_⟩
    have h := foldl_abortBox_boxesOnly boxes w
    obtain ⟨v, k, x, l, hlose⟩ := loseRequests_frame (boxes.foldl abortBox w)
    rw [if_pos rfl, clearOutboxes, hlose]
    generalize boxes.foldl abortBox w = u at h
    exact ⟨(congrArg State.tt h :), none, (congrArg (fun s => { s.cfg with coSeq := none }) h :)⟩
  | false =>
    refine ⟨answerCutover_fixed 0 [] w, ?_⟩
    rw [if_neg (by decide)]
    unfold answerCutover
    split
    · exact ⟨rfl, w.cfg.coSeq, rfl⟩
    · exact ⟨rfl, none, rfl⟩

theorem ownersSwitched_leaves (missed : List CacheSlot) (u : State) :
    (ownersSwitched missed u).fixed = (switchLock u).fixed ∧ (ownersSwitched missed u).cfg = u.cfg ∧
    { (ownersSwitched missed u).tt with holdFreed := [] } = { u.tt with holdFreed := [] } := by
  have hsteady : (ownersSwitched missed u).steady = ((switchLock u).updAon fun a => { a with talarm := calValue u 0x19 }).steady := by
    simp [ownersSwitched]
  have hlock := switchLock_frame u
  refine ⟨?_, (congrArg Steady.cfg hsteady).trans (congrArg State.cfg hlock :), (congrArg Steady.tt hsteady).trans ?_⟩
  · simp only [ownersSwitched, switchProcs_fixed, stopOutside_fixed, retireOldCurves_fixed, switchKeys_fixed]
    exact State.updAon_fixed _ _ rfl
  · exact (congrArg (fun s => { s.tt with holdFreed := [] }) hlock :)

/-- The switch at p: the new set, its timetable, the lock and source 12. -/
theorem switchOwners_leaves (s : State) :
    (switchOwners s).fixed = { s.fixed with coState := 5, lock := ((switchLock (setInForce s)).mgmt.held,
      (switchLock (setInForce s)).mgmt.src, (switchLock (setInForce s)).mgmt.holder) } ∧
    (∃ x, (switchOwners s).cfg = { (setInForce s).cfg with coSeq := x }) ∧
    { (switchOwners s).tt with holdFreed := [] } = { (setInForce s).tt with holdFreed := [] } ∧
    (switchOwners s).mgmt.intStatus.getLsbD 12 = true := by
  rw [switchOwners_eq]
  obtain ⟨hfix, hcfg, htt⟩ := ownersSwitched_leaves (missedNodes s) (setInForce s)
  obtain ⟨hfixn, httn, x, hcfgn⟩ := switchTold_leaves ((s.procs[(2 : Fin 3)]).halted && (s.procs[(2 : Fin 3)]).newPatch.isSome)
    (ownersSwitched (missedNodes s) (setInForce s))
  generalize switchTold _ _ = w at hfixn httn hcfgn ⊢
  refine ⟨?_, ⟨x, hcfgn.trans (by rw [hcfg])⟩, ?_, assertBlk_bit 12 (by decide) w⟩
  · rw [assertBlk_fixed, hfixn, hfix, switchLock_fixed, setInForce_fixed]
  · rw [← htt, ← httn]
    rfl

theorem image_of_cfg {s t : State} {x : Option (BitVec 16)} (h : t.cfg = { s.cfg with coSeq := x }) : t.image = s.image := by
  unfold State.image
  rw [h]

/-- The role of an identity is a matter of the configuration, and of the fuses. -/
theorem roleOf_of_cfg {s t : State} {x : Option (BitVec 16)} (h : t.cfg = { s.cfg with coSeq := x }) (hotp : t.otp = s.otp) (i : Ident) :
    t.roleOf i = s.roleOf i := by
  have hadmin : t.adminId = s.adminId := by simp only [State.adminId, hotp]
  simp only [State.roleOf, State.identEntry, image_of_cfg h, hadmin, h]

/-- A cut-over with no contingency due: every owner switches, and the bursts follow. -/
theorem exec_cutoverSwitch {s : State} (hdue : cutDue s = true) (hcases : dueCases s = []) :
    exec .cutoverSwitch s = .next (issueWrites (issueDescReads (switchOwners s))) := by
  change execCutoverSwitch s = _
  unfold execCutoverSwitch
  rw [hdue, hcases]
  rfl

theorem cutover_switches {s : State} {m : Image} (hdue : cutDue s = true) (hcases : dueCases s = []) (hm : s.nextImage? = some m) :
    ∃ t, exec .cutoverSwitch s = .next t ∧
      t.fixed = { s.fixed with coState := 5, lock := (t.mgmt.held, t.mgmt.src, t.mgmt.holder) } ∧ t.image = m ∧
      t.cfg.bank = !s.cfg.bank ∧ t.cfg.seq = m.seq ∧ t.cfg.image = s.cfg.newImage ∧ t.cfg.armed = 0 ∧
      (s.cfg.handover = false → t.tt.active = 0 ∧ t.tt.causeV = false) ∧ (s.cfg.handover = true → t.tt.active = s.tt.active) ∧
      t.mgmt.intStatus.getLsbD 12 = true ∧ (∀ p : Fin 1024, (t.tt.plats[p]).level ≤ (s.tt.plats[p]).level) ∧
      (s.mgmt.src = false → s.mgmt.held = true → t.mgmt.held = true → t.roleOf t.mgmt.holder = 3) := by
  obtain ⟨hfix, ⟨x, hcfg⟩, htt, h12⟩ := switchOwners_leaves s
  obtain ⟨himage, hother⟩ := setInForce_image hm
  have hsteady : (issueWrites (issueDescReads (switchOwners s))).steady = (switchOwners s).steady := by simp
  have hfixt : (issueWrites (issueDescReads (switchOwners s))).fixed = (switchOwners s).fixed := by simp
  refine ⟨_, exec_cutoverSwitch hdue hcases, ?_⟩
  generalize issueWrites (issueDescReads (switchOwners s)) = t at hsteady hfixt ⊢
  rw [hfix] at hfixt
  have hcfgt : t.cfg = { (setInForce s).cfg with coSeq := x } := (congrArg Steady.cfg hsteady).trans hcfg
  have httt : { t.tt with holdFreed := [] } = { (setInForce s).tt with holdFreed := [] } := (congrArg Steady.tt hsteady).trans htt
  have himaget : t.image = (setInForce s).image := image_of_cfg hcfgt
  have hlock : (t.mgmt.held, t.mgmt.src, t.mgmt.holder) = _ := congrArg Fixed.lock hfixt
  have hactive : t.tt.active = (setInForce s).tt.active := (congrArg Timetable.active httt :)
  have hcause : t.tt.causeV = (setInForce s).tt.causeV := (congrArg Timetable.causeV httt :)
  have hplats : t.tt.plats = (setInForce s).tt.plats := (congrArg Timetable.plats httt :)
  have hotp : t.otp = (setInForce s).otp :=
    (congrArg Fixed.otp hfixt).trans (congrArg Fixed.otp (setInForce_fixed s)).symm
  obtain ⟨hmain, hhand⟩ := setInForce_active s
  refine ⟨?_, himaget.trans himage, ?_, ?_, ?_, ?_, fun h => ?_, fun h => ?_, (congrArg Steady.switched hsteady).trans h12, fun p => ?_,
    fun hsrc _ hheld => ?_⟩
  · rw [hfixt, hlock]
  · rw [hcfgt]
    rfl
  · rw [hcfgt, ← hother]
    rfl
  · rw [hcfgt]
    rfl
  · rw [hcfgt]
    rfl
  · rw [hactive, hcause]
    exact hmain h
  · rw [hactive]
    exact hhand h
  · rw [hplats]
    exact setInForce_level s p
  · obtain ⟨hheldt, _, hholder⟩ : t.mgmt.held = (switchLock (setInForce s)).mgmt.held ∧ _ ∧
        t.mgmt.holder = (switchLock (setInForce s)).mgmt.holder := by simpa using hlock
    rw [hholder, roleOf_of_cfg hcfgt hotp]
    exact switchLock_holds hsrc (hheldt ▸ hheld)

/-! ### The test before a boundary -/

theorem exec_cutoverArmCheck {s : State} (hco : s.cfg.coState = 3) (hnow : s.now + 256 = s.cfg.target) (hlock : s.locked = false) :
    exec .cutoverArmCheck s = .next (armCheck s) := by
  refine if_pos ⟨hco, by omega, ?_⟩
  rw [hlock]
  decide

/-- The state with an attempt counted. -/
def attempted (s : State) : State := s.updCfg fun c => { c with attempts := c.attempts + 1 }

theorem armCheck_armed {s : State} (hnow : s.now + 256 = s.cfg.target) (hall : allArmed s = true) :
    armCheck s = assertBlk 11 ((attempted s).updCfg fun c => { c with coState := 4 }) := if_pos ⟨hnow, hall⟩

theorem armCheck_cancelled {s : State} (hall : allArmed s = false) : armCheck s = cancelCutover (attempted s) :=
  if_neg fun h => by
    have : allArmed s = true := h.2
    rw [hall] at this
    cases this

/-- The state with the halted processors on their old code again, and source 13 asserted. -/
def oldResumed (s : State) : State := assertBlk 13 (resumeOld s)

theorem oldResumed_proc (s : State) (p : Fin 3) : (oldResumed s).procs[p] = { s.procs[p] with halted := false } := Vector.getElem_map ..

theorem cancelCutover_retries {s : State} (h : s.cfg.attempts < 8) : cancelCutover s =
    (oldResumed s).updCfg fun c => { c with coState := 3, target := c.target + 4096, armed := armedBits c } :=
  if_neg (show ¬ s.cfg.attempts ≥ 8 by omega)

/-- A cut-over that is prepared stays prepared as its next boundary is set. -/
theorem retried_cfg {c : Config} (h : c.coState = 3) (n target : Nat) (armed : BitVec 8) :
    { c with attempts := n, coState := 3, target := target, armed := armed } = { c with attempts := n, target := target, armed := armed } := by
  rw [← h]

/-- The old image's pointer, written or owed (16 R592; 13 R506). -/
def pointerBack (s : State) : State := if s.pwr.nvmLow then s.updCfg fun c => { c with ptrWaits := true } else restorePointer s

theorem cancelCutover_ends {s : State} (h : 8 ≤ s.cfg.attempts) :
    cancelCutover s = answerCutover 3 (leBytes 1 0x0D) (endCutover 6 0x0D (pointerBack (oldResumed s))) := if_pos h

theorem pointerBack_frame (s : State) :
    pointerBack s = { s with cfg := { s.cfg with ptrWaits := (pointerBack s).cfg.ptrWaits }, nvm := (pointerBack s).nvm } := by
  unfold pointerBack
  split <;> rfl

theorem pointerBack_nvm (s : State) :
    (s.pwr.nvmLow = false → (pointerBack s).nvm = writeImgPtr { s.cfg.oldPtr with seq := s.nvm.imgPtr.seq + 1 } s.nvm) ∧
    (s.pwr.nvmLow = true → (pointerBack s).nvm = s.nvm ∧ (pointerBack s).cfg.ptrWaits = true) := by
  unfold pointerBack
  refine ⟨fun h => ?_, fun h => ?_⟩
  · rw [h]
    rfl
  · rw [h]
    exact ⟨rfl, rfl⟩

theorem dropCounters_frame (s : State) : dropCounters s = { s with ks := (dropCounters s).ks } := by
  unfold dropCounters
  split <;> rfl

theorem endCutover_frame (n : BitVec 4) (cause : Nat) (s : State) : endCutover n cause s =
    { s with ks := (endCutover n cause s).ks, procs := (endCutover n cause s).procs,
             cfg := { s.cfg with coState := n, coCause := BitVec.ofNat 8 cause, armed := 0, target := 0, bankBad := [] } } := by
  have h := dropCounters_frame s
  unfold endCutover
  generalize dropCounters s = u at h ⊢
  rw [h]
  rfl

theorem endCutover_fixed (n : BitVec 4) (cause : Nat) (s : State) : (endCutover n cause s).fixed = { s.fixed with coState := n } := by
  rw [endCutover_frame]
  rfl

theorem answerCutover_frame (status : Nat) (params : Bytes) (s : State) : answerCutover status params s =
    { s with mgmt := (answerCutover status params s).mgmt, cfg := { s.cfg with coSeq := none } } := by
  unfold answerCutover
  split
  · rename_i h
    rw [← h]
  · rfl

/-- The request of a cut-over that ends is answered. -/
theorem answerCutover_answered {s : State} {q : BitVec 16} (h : s.cfg.coSeq = some q) (status : Nat) (params : Bytes) :
    (answerCutover status params s).answered none (cutCode s) q.toNat status := by
  unfold answerCutover
  rw [h]
  exact reply_answered none (cutCode s) q.toNat status params _

/-- The eighth attempt ends the amendment. -/
theorem cancelled_ends {s : State} (h : 8 ≤ s.cfg.attempts) : (cancelCutover s).fixed = { s.fixed with coState := 6 } ∧
    (cancelCutover s).cfg.coCause = 0x0D ∧
    (s.pwr.nvmLow = false → (cancelCutover s).nvm = writeImgPtr { s.cfg.oldPtr with seq := s.nvm.imgPtr.seq + 1 } s.nvm) ∧
    (s.pwr.nvmLow = true → (cancelCutover s).nvm = s.nvm ∧ (cancelCutover s).cfg.ptrWaits = true) ∧
    (cancelCutover s).image = s.image ∧
    ∀ q, s.cfg.coSeq = some q → (cancelCutover s).answered none (cutCode s) q.toNat 3 := by
  rw [cancelCutover_ends h]
  have hptr := pointerBack_frame (oldResumed s)
  obtain ⟨hnvm, hlow⟩ := pointerBack_nvm (oldResumed s)
  generalize pointerBack (oldResumed s) = u at hptr hnvm hlow ⊢
  have hend := endCutover_frame 6 0x0D u
  have hfix : (endCutover 6 0x0D u).fixed = { s.fixed with coState := 6 } := by
    rw [endCutover_fixed, hptr]
    rfl
  generalize endCutover 6 0x0D u = w at hend hfix ⊢
  have hans := answerCutover_frame 3 (leBytes 1 0x0D) w
  have hcode : cutCode w = cutCode s := by
    unfold cutCode
    rw [hend, hptr]
    rfl
  have hseq : w.cfg.coSeq = s.cfg.coSeq := by
    rw [hend, hptr]
    rfl
  have htold : ∀ q, s.cfg.coSeq = some q → (answerCutover 3 (leBytes 1 0x0D) w).answered none (cutCode s) q.toNat 3 := fun q hq => by
    rw [← hcode]
    exact answerCutover_answered (hseq.trans hq) 3 _
  have hfixt := answerCutover_fixed 3 (leBytes 1 0x0D) w
  generalize answerCutover 3 (leBytes 1 0x0D) w = t at hans htold hfixt ⊢
  refine ⟨hfixt.trans hfix, ?_, fun hl => ?_, fun hl => ⟨?_, ?_⟩, ?_, htold⟩
  · rw [hans, hend]
    rfl
  · rw [hans, hend]
    exact hnvm hl
  · rw [hans, hend]
    exact (hlow hl).1
  · rw [hans, hend]
    exact (hlow hl).2
  · rw [hans, hend, hptr]
    rfl

/-! ### Processors handed over -/

theorem exec_handoverHalt {s : State} {p : Fin 3} (hco : s.cfg.coState = 3) (hnow : s.now + 256 = s.cfg.target)
    (hnew : s.procs[p].newPatch.isSome = true) (hworks : procWorks s p = true) (hlock : s.locked = false) :
    exec (.handoverHalt p) s = .next (s.updProc p fun x => { x with halted := true }) := by
  refine if_pos ⟨hco, hnow, hnew, hworks, ?_⟩
  rw [hlock]
  decide

section Resume
variable {s : State} {p : Fin 3} {k : Nat} (hres : s.procs[p].resuming = some k)

include hres in
theorem exec_handoverResume (good : Bool) (hnow : s.now ≤ k + 128) : exec (.handoverResume p good) s =
    .next (if good then assertBlk 5 (s.updProc p fun x => { x with resuming := none }) else s) := by
  change execHandoverResume p good s = _
  unfold execHandoverResume
  rw [hres]
  dsimp only
  rw [decide_eq_false (show ¬ s.now > k + 128 by omega)]
  cases good <;> rfl

include hres in
theorem exec_handoverResume_late (hnow : k + 128 < s.now) : exec (.handoverResume p true) s =
    .next (assertBlk 5 ((faultReport (sourceId 7 4 p.val 21) 0 s).updProc p fun x => { x with resuming := none })) := by
  change execHandoverResume p true s = _
  unfold execHandoverResume
  rw [hres]
  dsimp only
  rw [decide_eq_true (show s.now > k + 128 by omega)]
  rfl

end Resume

/-- Settles O59: the test and the switch are one operation each, and what follows the switch leaves the new set as it is. -/
theorem cutoverSwitchesAtBoundary : Obligations.CutoverSwitchesAtBoundary := by
  unfold Obligations.CutoverSwitchesAtBoundary
  refine ⟨fun s hco hnow hlock => ⟨fun hall => ?_, fun hall hatt => ?_, fun hall hatt => ?_⟩,
    fun s m hdue hcases hm => cutover_switches hdue hcases hm,
    fun s p hco hnow hnew hworks hlock => exec_handoverHalt hco hnow hnew hworks hlock,
    fun s p k hres => ⟨fun hnow => ⟨?_, ?_⟩, fun hnow hup hlc => ?_⟩⟩
  · rw [exec_cutoverArmCheck hco hnow hlock, armCheck_armed hnow hall]
    exact ⟨_, rfl, rfl, rfl, assertBlk_bit 11 (by decide) _⟩
  · rw [exec_cutoverArmCheck hco hnow hlock, armCheck_cancelled hall,
      cancelCutover_retries (s := attempted s) (show s.cfg.attempts + 1 < 8 by omega)]
    refine ⟨_, rfl, rfl, ?_, assertBlk_bit 13 (by decide) (resumeOld (attempted s)), oldResumed_proc (attempted s)⟩
    exact retried_cfg hco _ _ _
  · rw [exec_cutoverArmCheck hco hnow hlock, armCheck_cancelled hall]
    exact ⟨_, rfl, cancelled_ends (s := attempted s) (show 8 ≤ s.cfg.attempts + 1 by omega)⟩
  · rw [exec_handoverResume hres true hnow]
    exact ⟨BitVec.ofNat 64 1 <<< 5, rfl, by decide⟩
  · exact exec_handoverResume hres false hnow
  · rw [exec_handoverResume_late hres hnow]
    have hreported := faultReport_reported (sourceId 7 4 p.val 21) 0 s
    have hfix := faultReport_fixed (sourceId 7 4 p.val 21) 0 s
    generalize faultReport (sourceId 7 4 p.val 21) 0 s = u at hreported hfix ⊢
    exact ⟨_, rfl, reported_assertBlk 5 hreported, congrArg Proc.resuming (Vector.getElem_set_self ..), hfix⟩

end Sys2Proof.Machine
end

section
/-! SUPPORT. Amendments are taken, checked and prepared (16 R590 to R592, R595; 12 Table 12-7). -/
namespace Sys2Proof.Machine

theorem none_of_three {a b c : Prop} (ha : ¬ a) (hb : ¬ b) (hc : ¬ c) : ¬ (a ∨ b ∨ c) := not_or.mpr ⟨ha, not_or.mpr ⟨hb, hc⟩⟩

/-! ### The request -/

/-- Request code of an amendment, or of a handover. -/
def amendCode (hand : Bool) : Nat := if hand then 0x0208 else 0x0207

theorem exec_amendment {s : State} {m : Msg} (hand : Bool) (hm : s.requestIs (amendCode hand) m) (hst : s.cfg.stage ≠ stageUnconfigured) :
    exec (if hand then .firmwareHandover else .configurationAmendment) s = .next (startAmendment hand m (takeMessage m s)) := by
  cases hand with
  | true => exact congrArg Host.Outcome.next (onRequest_go hm _)
  | false => exact (if_neg fun h => hst h.1).trans (congrArg Host.Outcome.next (onRequest_go hm _))

theorem amendCode_mgmt (hand : Bool) : tenantCodes.contains (amendCode hand) = false := by cases hand <;> rfl

section Start
variable {u : State} {m : Msg} (hand : Bool)

theorem startAmendment_busy (h : amending u = true) : startAmendment hand m u = answer m 0x83 u := if_pos h

theorem startAmendment_begins (h : amending u = false) (hpay : m.payload = 0) (hlen : m.paylen = 0)
    (hpar : allZero (m.params.drop 12) = true)
    (hwin : inWindows u m.tenant (leAt m.params 0 8) (leAt m.params 8 4) true false = true) : startAmendment hand m u =
    (startRead 2 (leAt m.params 0 8) (leAt m.params 8 4) (eraseImage (answer m 1 u))).updCfg fun c =>
      { c with coState := 1, coCause := 0, attempts := 0, armed := 0, target := 0, handover := hand, coLen := leAt m.params 8 4,
               coSeq := some (BitVec.ofNat 16 m.seq) } := by
  unfold startAmendment
  dsimp only
  rw [h, if_neg (by decide), if_neg (none_of_three (not_not_intro hpay) (not_not_intro hlen) (not_not_intro hpar)), hwin]
  rfl

end Start

theorem eraseImage_frame (s : State) : eraseImage s = { s with nvm := (eraseImage s).nvm } := by
  unfold eraseImage
  split <;> rfl

theorem eraseImage_nvm (s : State) : (eraseImage s).nvm = if s.pwr.nvmLow then s.nvm else putImage (!s.cfg.area) [] s.nvm := by
  unfold eraseImage
  split <;> rfl

theorem amendment_taken {s : State} {m : Msg} (hand : Bool) (hm : s.requestIs (amendCode hand) m) (hst : s.cfg.stage ≠ stageUnconfigured) :
    (amending s = true → ∃ t, exec (if hand then .firmwareHandover else .configurationAmendment) s = .next t ∧
      t = { s with mgmt := t.mgmt } ∧ t.answered m.box (amendCode hand) m.seq 0x83) ∧
    (amending s = false → m.payload = 0 → m.paylen = 0 → allZero (m.params.drop 12) = true →
      inWindows s m.tenant (leAt m.params 0 8) (leAt m.params 8 4) true false = true → ∃ t,
        exec (if hand then .firmwareHandover else .configurationAmendment) s = .next t ∧
        t = { s with mgmt := t.mgmt, cfg := t.cfg, fab := { s.fab with mgmt := t.fab.mgmt }, nvm := t.nvm } ∧
        t.nvm = (if s.pwr.nvmLow then s.nvm else putImage (!s.cfg.area) [] s.nvm) ∧ t.answered m.box (amendCode hand) m.seq 1 ∧
        t.cfg = { s.cfg with coState := 1, coCause := 0, attempts := 0, armed := 0, target := 0, handover := hand,
                             coLen := leAt m.params 8 4, coSeq := some (BitVec.ofNat 16 m.seq) }) := by
  rw [exec_amendment hand hm hst]
  have hframe := takeMessage_mgmtFrame (requestIs_mgmtBox hm (amendCode_mgmt hand)) s
  generalize takeMessage m s = u at hframe ⊢
  have hamend : amending u = amending s := by rw [hframe]; rfl
  refine ⟨fun h => ?_, fun h hpay hlen hpar hwin => ?_⟩
  · rw [startAmendment_busy hand (hamend.trans h)]
    exact ⟨_, rfl, by rw [hframe]; rfl, answer_request (requestIs_code hm) ..⟩
  · rw [startAmendment_begins hand (hamend.trans h) hpay hlen hpar (by rw [hframe]; exact hwin)]
    have hans : (answer m 1 u).answered m.box (amendCode hand) m.seq 1 := answer_request (requestIs_code hm) 1 u
    have herase := eraseImage_frame (answer m 1 u)
    have hnvm := eraseImage_nvm (answer m 1 u)
    generalize eraseImage (answer m 1 u) = v at herase hnvm ⊢
    have hread := startRead_frame 2 (leAt m.params 0 8) (leAt m.params 8 4) v
    generalize startRead 2 (leAt m.params 0 8) (leAt m.params 8 4) v = w at hread ⊢
    have hreplies : w.mgmt.replies = (answer m 1 u).mgmt.replies := by
      rw [hread, herase]
    refine ⟨_, rfl, ?_, ?_, answered_of_replies hreplies hans, ?_⟩
    · rw [hread, herase, hframe]
      rfl
    · change w.nvm = _
      rw [hread, hframe] at *
      exact hnvm
    · have hcfg : w.cfg = s.cfg := by
        rw [hread, herase, hframe]
        rfl
      rw [← hcfg]
      rfl

/-! ### The image -/

theorem imageArea_putImage (a : Bool) (b : Bytes) (s : State) : imageArea (s.updNvm (putImage a b)) a = b.take 4194304 ∧
    imageArea (s.updNvm (putImage a b)) (!a) = imageArea s (!a) := by
  cases a <;> exact ⟨rfl, rfl⟩

theorem imageArea_of_nvm {s t : State} (h : t.nvm = s.nvm) (a : Bool) : imageArea t a = imageArea s a := by
  unfold imageArea
  rw [h]

theorem imageCause_putImage (a : Bool) (b c : Bytes) (s : State) (use : ImageUse) :
    imageCause (s.updNvm (putImage a b)) use c = imageCause s use c := rfl

theorem exec_amendmentImageLoaded {s : State} {b : Bytes} (good : Bool) (hco : s.cfg.coState = 1) (hlock : s.locked = false)
    (hlen : b.length = s.cfg.coLen) (hlow : s.pwr.nvmLow = false) :
    exec (.amendmentImageLoaded (some b) good) s = .next (loadAmendment b good s) := by
  have hgo : ¬ (s.cfg.coState ≠ 1 ∨ s.locked = true) := by
    rw [hlock]
    rintro (h | h)
    · exact h hco
    · cases h
  have hfit : ¬ (b.length ≠ s.cfg.coLen ∨ s.pwr.nvmLow = true) := by
    rw [hlow]
    rintro (h | h)
    · exact h hlen
    · cases h
  exact (if_neg hgo).trans (if_neg hfit)

/-- What a refused amendment leaves: its cause, and the answer of its request (16 R591). -/
theorem refuseAmendment_leaves (cause : Nat) (s : State) : (refuseAmendment cause s).fixed = { s.fixed with coState := 6 } ∧
    (refuseAmendment cause s).cfg.coCause = BitVec.ofNat 8 cause ∧ (refuseAmendment cause s).nvm = s.nvm ∧
    (refuseAmendment cause s).cfg.area = s.cfg.area ∧
    ∀ q, s.cfg.coSeq = some q → (refuseAmendment cause s).answered none (cutCode s) q.toNat 2 := by
  have hend := endCutover_frame 6 cause s
  have hfix := endCutover_fixed 6 cause s
  unfold refuseAmendment
  generalize endCutover 6 cause s = w at hend hfix ⊢
  have hans := answerCutover_frame 2 (leBytes 1 cause) w
  have hcode : cutCode w = cutCode s := by
    unfold cutCode
    rw [hend]
  have hseq : w.cfg.coSeq = s.cfg.coSeq := by rw [hend]
  have htold : ∀ q, s.cfg.coSeq = some q → (answerCutover 2 (leBytes 1 cause) w).answered none (cutCode s) q.toNat 2 := fun q hq => by
    rw [← hcode]
    exact answerCutover_answered (hseq.trans hq) 2 _
  have hfixt := answerCutover_fixed 2 (leBytes 1 cause) w
  generalize answerCutover 2 (leBytes 1 cause) w = t at hans htold hfixt ⊢
  refine ⟨hfixt.trans hfix, ?_, ?_, ?_, htold⟩ <;> rw [hans, hend]

theorem amendment_loaded {s : State} {b : Bytes} {cause : Nat} (hco : s.cfg.coState = 1) (hlock : s.locked = false)
    (hlen : b.length = s.cfg.coLen) (hlow : s.pwr.nvmLow = false)
    (hcause : cause = imageCause s (if s.cfg.handover then .handover else .amendment) b) :
    (∃ t, exec (.amendmentImageLoaded (some b) true) s = .next t ∧ imageArea t (!s.cfg.area) = b.take 4194304 ∧
      imageArea t s.cfg.area = imageArea s s.cfg.area ∧
      (cause = 0 → t = { s with nvm := t.nvm, cfg := { s.cfg with coState := 2, newImage := b, newHash := sha384 b } }) ∧
      (cause ≠ 0 → t.fixed = { s.fixed with coState := 6 } ∧ t.cfg.coCause = BitVec.ofNat 8 cause ∧
        ∀ q, s.cfg.coSeq = some q → t.answered none (cutCode s) q.toNat 2)) ∧
    (∃ t, exec (.amendmentImageLoaded (some b) false) s = .next t ∧ t.fixed = { s.fixed with coState := 6 } ∧
      t.cfg.coCause = 0x0E ∧ t.nvm.errors = min 0xFFFF (s.nvm.errors + 1)) := by
  obtain ⟨hput, hkept⟩ := imageArea_putImage (!s.cfg.area) b s
  rw [Bool.not_not] at hkept
  refine ⟨?_, ?_⟩
  · rw [exec_amendmentImageLoaded true hco hlock hlen hlow]
    have hload : loadAmendment b true s = if cause ≠ 0 then refuseAmendment cause (s.updNvm (putImage (!s.cfg.area) b))
        else (s.updNvm (putImage (!s.cfg.area) b)).updCfg fun x => { x with coState := 2, newImage := b, newHash := sha384 b } := by
      rw [hcause, ← imageCause_putImage (!s.cfg.area) b]
      rfl
    rw [hload]
    by_cases h0 : cause = 0
    · rw [if_neg (not_not_intro h0)]
      exact ⟨_, rfl, hput, hkept, fun _ => rfl, fun h => absurd h0 h⟩
    · rw [if_pos h0]
      obtain ⟨hfix, hcoCause, hnvm, harea, htold⟩ := refuseAmendment_leaves cause (s.updNvm (putImage (!s.cfg.area) b))
      refine ⟨_, rfl, ?_, ?_, fun h => absurd h h0, fun _ => ⟨hfix, hcoCause, htold⟩⟩
      · rw [← hput]
        exact imageArea_of_nvm hnvm _
      · rw [← hkept]
        exact imageArea_of_nvm hnvm _
  · rw [exec_amendmentImageLoaded false hco hlock hlen hlow]
    obtain ⟨hfix, hcoCause, hnvm, _, _⟩ := refuseAmendment_leaves 0x0E (nvmFailed (s.updNvm (putImage (!s.cfg.area) b)))
    refine ⟨_, rfl, hfix, hcoCause, (congrArg Nvm.errors hnvm).trans ?_⟩
    cases s.cfg.area <;> rfl

/-! ### Preparation -/

theorem exec_amendmentPrepared {s : State} (good : Bool) (hco : s.cfg.coState = 2) (hlock : s.locked = false) (hlow : s.pwr.nvmLow = false) :
    exec (.amendmentPrepared good) s = .next (prepareAmendment good s) := by
  refine if_neg ?_
  rw [hlock, hlow]
  rintro (h | h | h)
  · exact h hco
  · cases h
  · cases h

/-- The state with the new image in every owner's bank, and with the keys and the curves that it adds. -/
def imagePrepared (s : State) : State :=
  if (loadBanks (parseImage s.cfg.newImage) s).cfg.handover then
    loadPatches (parseImage s.cfg.newImage) (loadBanks (parseImage s.cfg.newImage) s)
  else submitNewCurves s.image.curves (parseImage s.cfg.newImage).curves
    (prepareCounters (loadPatches (parseImage s.cfg.newImage) (loadBanks (parseImage s.cfg.newImage) s)))

theorem loadBanks_frame (m : Image) (s : State) : loadBanks m s = { s with cfg := (loadBanks m s).cfg } := rfl

theorem loadBanks_banks (m : Image) (s : State) : (loadBanks m s).image = s.image ∧ (loadBanks m s).nextImage? = some m ∧
    (loadBanks m s).cfg = { s.cfg with bank0 := (loadBanks m s).cfg.bank0, bank1 := (loadBanks m s).cfg.bank1 } := by
  unfold loadBanks State.image State.nextImage? State.updCfg
  obtain hb | hb := Bool.eq_false_or_eq_true s.cfg.bank <;> simp [hb]

/-- New counters leave the image pointer. -/
theorem addCounter_imgPtr (s : State) (c : CacheSlot) : (addCounter s c).nvm.imgPtr = s.nvm.imgPtr := by
  unfold addCounter
  split <;> rfl

theorem foldl_addCounter_imgPtr (l : List CacheSlot) (s : State) : (l.foldl addCounter s).nvm.imgPtr = s.nvm.imgPtr := by
  induction l generalizing s with
  | nil => rfl
  | cons c l ih => rw [List.foldl_cons, ih, addCounter_imgPtr]

theorem prepareCounters_leaves (s : State) : (prepareCounters s).cfg = s.cfg ∧ (prepareCounters s).nvm.imgPtr = s.nvm.imgPtr := by
  unfold prepareCounters
  dsimp only
  split
  · exact ⟨rfl, rfl⟩
  · generalize List.filter _ _ = l
    exact ⟨congrArg Steady.cfg (foldl_steady _ addCounter_steady l s), foldl_addCounter_imgPtr l s⟩

theorem submitCurve_nvm (s : State) (r : Bytes) : (submitCurve s r).nvm = s.nvm := by
  unfold submitCurve
  dsimp only
  split <;> rfl

theorem submitNewCurves_leaves (old new : List Bytes) (s : State) : (submitNewCurves old new s).cfg = s.cfg ∧
    (submitNewCurves old new s).nvm = s.nvm := by
  unfold submitNewCurves
  generalize sortBy _ _ = l
  refine ⟨foldl_cfg _ submitCurve_cfg _ _, ?_⟩
  induction l generalizing s with
  | nil => rfl
  | cons r l ih => rw [List.foldl_cons, ih, submitCurve_nvm]

theorem imagePrepared_leaves (s : State) : (imagePrepared s).fixed = s.fixed ∧
    (imagePrepared s).cfg = (loadBanks (parseImage s.cfg.newImage) s).cfg ∧ (imagePrepared s).nvm.imgPtr = s.nvm.imgPtr := by
  obtain ⟨_, _, hcfg⟩ := loadBanks_banks (parseImage s.cfg.newImage) s
  have hfix : (loadPatches (parseImage s.cfg.newImage) (loadBanks (parseImage s.cfg.newImage) s)).fixed = s.fixed := by
    rw [loadPatches_fixed]
    exact State.updCfg_fixed _ _ (congrArg Config.stage hcfg :) (congrArg Config.coState hcfg :)
  unfold imagePrepared
  split
  · exact ⟨hfix, rfl, rfl⟩
  · generalize hu : loadPatches (parseImage s.cfg.newImage) (loadBanks (parseImage s.cfg.newImage) s) = u at hfix
    have hcfgu : u.cfg = (loadBanks (parseImage s.cfg.newImage) s).cfg := by rw [← hu]; rfl
    have hptr : u.nvm.imgPtr = s.nvm.imgPtr := by rw [← hu]; rfl
    obtain ⟨hcfg1, hptr1⟩ := prepareCounters_leaves u
    obtain ⟨hcfg2, hnvm2⟩ := submitNewCurves_leaves s.image.curves (parseImage s.cfg.newImage).curves (prepareCounters u)
    exact ⟨by rw [submitNewCurves_fixed, prepareCounters_fixed, hfix], hcfg2.trans (hcfg1.trans hcfgu),
      (congrArg Nvm.imgPtr hnvm2).trans (hptr1.trans hptr)⟩

/-- The pointer that a preparation writes: the new area, under the next sequence. -/
def newPointer (s : State) : ImagePtr :=
  { area := !(imagePrepared s).cfg.area, seq := (imagePrepared s).nvm.imgPtr.seq + 1, imgSeq := (parseImage s.cfg.newImage).seq,
    length := (imagePrepared s).cfg.newImage.length }

theorem prepareAmendment_eq (s : State) : prepareAmendment true s =
    ((imagePrepared s).updNvm (writeImgPtr (newPointer s))).updCfg fun c =>
      { c with coState := 3, oldPtr := (imagePrepared s).nvm.imgPtr, target := firstTarget (imagePrepared s).now, armed := armedBits c } := by
  unfold prepareAmendment newPointer imagePrepared
  dsimp only
  rfl

/-- The image in the bank in force, and that in the other one. -/
def bankInForce (c : Config) : Image := (if c.bank then c.bank1 else c.bank0).getD Image.reset
def bankInWait (c : Config) : Option Image := if c.bank then c.bank0 else c.bank1

/-- The first period boundary at least 4,096 ticks after a tick. -/
theorem firstTarget_bounds (n : Nat) : n + 4096 ≤ firstTarget n ∧ firstTarget n < n + 8192 ∧ firstTarget n % 4096 = 0 := by
  unfold firstTarget ceilDiv
  omega

theorem writeImgPtr_imgPtr (p : ImagePtr) (n : Nvm) : (writeImgPtr p n).imgPtr = p := congrArg Nvm.imgPtr (writeImgPtr_frame p n)

theorem writeImgPtr_newest (p : ImagePtr) (n : Nvm) : ((writeImgPtr p n).boot[1]).getLast? = some (imgPtrRecord p) :=
  bootWrite_newest 0 (imgPtrRecord p) { n with imgPtr := p }

theorem amendment_prepared {s : State} (hco : s.cfg.coState = 2) (hlock : s.locked = false) (hlow : s.pwr.nvmLow = false) :
    ∃ t, exec (.amendmentPrepared true) s = .next t ∧
      t.fixed = { s.fixed with coState := 3 } ∧ t.image = s.image ∧ s.now + 4096 ≤ t.cfg.target ∧ t.cfg.target < s.now + 8192 ∧
      t.cfg.target % 4096 = 0 ∧ t.nextImage? = some (parseImage s.cfg.newImage) ∧ t.nvm.imgPtr.area = !s.cfg.area ∧
      t.nvm.imgPtr.length = s.cfg.newImage.length ∧ t.cfg.oldPtr = s.nvm.imgPtr ∧
      (t.nvm.boot[1]).getLast? = some (imgPtrRecord t.nvm.imgPtr) := by
  rw [exec_amendmentPrepared true hco hlock hlow, prepareAmendment_eq]
  obtain ⟨hfix, hcfg, hptr⟩ := imagePrepared_leaves s
  obtain ⟨himage, hnext, hbanks⟩ := loadBanks_banks (parseImage s.cfg.newImage) s
  have hnow : (imagePrepared s).now = s.now := congrArg (fun f => f.tick.toNat) hfix
  have harea : (newPointer s).area = !s.cfg.area := by
    change (!(imagePrepared s).cfg.area) = _
    rw [hcfg, hbanks]
  have hlen : (newPointer s).length = s.cfg.newImage.length := by
    change (imagePrepared s).cfg.newImage.length = _
    rw [hcfg, hbanks]
  obtain ⟨hlo, hhi, hmod⟩ := firstTarget_bounds (imagePrepared s).now
  rw [hnow] at hlo hhi hmod ⊢
  generalize newPointer s = p at harea hlen ⊢
  generalize imagePrepared s = u at hfix hcfg hptr ⊢
  refine ⟨_, rfl, ?_, ?_, hlo, hhi, hmod, ?_, ?_, ?_, hptr, ?_⟩
  · rw [← hfix]
    rfl
  · exact (congrArg bankInForce hcfg).trans himage
  · exact (congrArg bankInWait hcfg).trans hnext
  · change (writeImgPtr p u.nvm).imgPtr.area = _
    rw [writeImgPtr_imgPtr, harea]
  · change (writeImgPtr p u.nvm).imgPtr.length = _
    rw [writeImgPtr_imgPtr, hlen]
  · change ((writeImgPtr p u.nvm).boot[1]).getLast? = some (imgPtrRecord (writeImgPtr p u.nvm).imgPtr)
    rw [writeImgPtr_imgPtr]
    exact writeImgPtr_newest p u.nvm

/-! ### Installation and reloaded banks -/

theorem resetMain_leaves (s : State) : (resetMain s).nvm = keepNvm s.nvm ∧ (resetMain s).mainUp = false ∧ (resetMain s).reqs = [] ∧
    (resetMain s).aon = s.aon ∧ otpKept s (resetMain s) :=
  ⟨resetMain_nvm s, rfl, rfl, resetMain_aon s, (keeps_resetMain s).otp⟩

section Install
variable {s : State} {m : Msg} {b : Bytes} (hm : s.requestIs 0x0207 m) (hst : s.cfg.stage = stageUnconfigured) (hring : ringless s = false)
  (hfields : installFields m = true)

include hm hst hring hfields in
theorem exec_configInstall_starts (hbegun : s.cfg.instBegun = false) : exec (.configInstall (some b) true) s = .next (startInstall m s) := by
  obtain ⟨hnext, hcode, hbox, _⟩ := hm
  change execConfigInstall (some b) true s = _
  unfold execConfigInstall
  rw [hnext]
  dsimp only
  rw [if_neg (none_of_three (not_not_intro hcode) (not_not_intro hst) (ne_true_of_eq_false hring)),
    if_pos ⟨by rw [hbegun]; rfl, hbox, hfields⟩]
  rfl

include hm hst hring in
theorem exec_configInstall_reads (hbegun : s.cfg.instBegun = true) (hread : mgmtReading s = true) :
    exec (.configInstall (some b) true) s = .next s := by
  obtain ⟨hnext, hcode, _⟩ := hm
  change execConfigInstall (some b) true s = _
  unfold execConfigInstall
  rw [hnext]
  dsimp only
  rw [if_neg (none_of_three (not_not_intro hcode) (not_not_intro hst) (ne_true_of_eq_false hring)),
    if_neg (by rintro ⟨h, _⟩; rw [hbegun] at h; cases h), if_pos ⟨hbegun, hread⟩]
  rfl

include hm hst hring in
omit hfields in
theorem exec_configInstall (hbegun : s.cfg.instBegun = true) (hread : mgmtReading s = false) (hlen : b.length = leAt m.params 8 4)
    (hlow : s.pwr.nvmLow = false) : exec (.configInstall (some b) true) s =
      .next (installImage b true m (takeMessage m (s.updCfg fun c => { c with instBegun := false }))) := by
  have hm' : (s.updCfg fun c => { c with instBegun := false }).requestIs 0x0207 m := hm
  obtain ⟨hnext, hcode, _⟩ := hm
  change execConfigInstall (some b) true s = _
  unfold execConfigInstall
  rw [hnext]
  dsimp only
  rw [if_neg (none_of_three (not_not_intro hcode) (not_not_intro hst) (ne_true_of_eq_false hring)),
    if_neg (by rintro ⟨h, _⟩; rw [hbegun] at h; cases h), if_neg (by rintro ⟨_, h⟩; rw [hread] at h; cases h),
    if_neg (not_or.mpr ⟨not_not_intro hlen, ne_true_of_eq_false hlow⟩), onRequest_go hm']
  rfl

include hm hst hring hfields in
theorem config_installed (hbegun : s.cfg.instBegun = true) (hread : mgmtReading s = false) (hlen : b.length = leAt m.params 8 4)
    (hlow : s.pwr.nvmLow = false) : ∃ t, exec (.configInstall (some b) true) s = .next t ∧ t.nvm.imageA = b.take 4194304 ∧
      t.nvm.imgPtr.area = false ∧ t.nvm.imgPtr.length = b.length ∧ t.mainUp = false ∧ t.reqs = [] ∧ t.aon = s.aon ∧ otpKept s t := by
  rw [exec_configInstall hm hst hring hbegun hread hlen hlow]
  have hframe := takeMessage_mgmtFrame (requestIs_mgmtBox hm rfl) (s.updCfg fun c => { c with instBegun := false })
  generalize takeMessage m (s.updCfg fun c => { c with instBegun := false }) = u at hframe ⊢
  have hinst : installImage b true m u = resetMain ((u.updNvm (putImage false b)).updNvm fun n =>
      writeImgPtr { area := false, seq := n.imgPtr.seq + 1, imgSeq := BitVec.ofNat 32 (leAt b 12 4), length := b.length } n) := by
    unfold installImage
    rw [hfields]
    rfl
  rw [hinst]
  generalize hv : (u.updNvm (putImage false b)).updNvm _ = v
  have hnvm : v.nvm.imageA = b.take 4194304 ∧ v.nvm.imgPtr.area = false ∧ v.nvm.imgPtr.length = b.length := by
    rw [← hv]
    dsimp only [State.updNvm]
    rw [writeImgPtr_frame]
    exact ⟨rfl, rfl, rfl⟩
  have haon : v.aon = s.aon := by
    rw [← hv, hframe]
    rfl
  have hotp : v.otp = s.otp := by
    rw [← hv, hframe]
    rfl
  obtain ⟨himg, harea, hplen⟩ := hnvm
  obtain ⟨hn, hup, hreqs, ha, ho⟩ := resetMain_leaves v
  refine ⟨_, rfl, ?_, ?_, ?_, hup, hreqs, ha.trans haon, fun row bit h => ho row bit ?_⟩
  · rw [hn]
    exact himg
  · rw [hn]
    exact harea
  · rw [hn]
    exact hplen
  · rw [hotp]
    exact h

end Install

theorem exec_inactiveBankReload {s : State} {o : Fin 8} (hbad : o.val ∈ s.cfg.bankBad) (hworks : procWorks s 1 = true) :
    exec (.inactiveBankReload o true) s = .next (s.updCfg fun c =>
      { c with bankBad := c.bankBad.filter (· ≠ o.val),
               armed := if c.coState = 3 then armedBits { c with bankBad := c.bankBad.filter (· ≠ o.val) } else c.armed }) := by
  refine if_neg ?_
  rw [hworks]
  simpa using hbad

/-- A sum of powers of two has the bits that it sums, and no others. -/
theorem testBit_sum_range (p : Nat → Bool) (n i : Nat) :
    (((List.range n).filter p).map fun i => 2 ^ i).sum < 2 ^ n ∧
      ((((List.range n).filter p).map fun i => 2 ^ i).sum.testBit i = (decide (i < n) && p i)) := by
  induction n with
  | zero => simp
  | succ n ih =>
    obtain ⟨hlt, hbit⟩ := ih
    rw [List.range_succ, List.filter_append, List.map_append, List.sum_append, Nat.pow_succ]
    generalize (((List.range n).filter p).map fun i => 2 ^ i).sum = x at hlt hbit ⊢
    cases hp : p n with
    | false =>
      have hnone : [n].filter p = [] := by simp [hp]
      rw [hnone, List.map_nil, List.sum_nil, Nat.add_zero, hbit]
      refine ⟨by omega, ?_⟩
      by_cases hi : i = n
      · simp [hi, hp]
      · rw [decide_eq_decide.mpr (show i < n ↔ i < n + 1 by omega)]
    | true =>
      have hone : [n].filter p = [n] := by simp [hp]
      rw [hone, List.map_singleton, List.sum_singleton, Nat.add_comm x]
      refine ⟨by omega, ?_⟩
      obtain hi | rfl | hi := Nat.lt_trichotomy i n
      · rw [Nat.testBit_two_pow_add_gt hi, hbit, decide_eq_decide.mpr (show i < n ↔ i < n + 1 by omega)]
      · rw [Nat.testBit_two_pow_add_eq, hbit]
        simp [hp]
      · have hbig : 2 ^ n + x < 2 ^ i := Nat.lt_of_lt_of_le (by omega : 2 ^ n + x < 2 ^ (n + 1)) (Nat.pow_le_pow_right (by decide) hi)
        rw [Nat.testBit_lt_two_pow hbig]
        simp [show ¬ i < n + 1 by omega]

/-- An owner whose bank is good is armed. -/
theorem armedBits_good {c : Config} {o : Fin 8} (h : o.val ∉ c.bankBad) : (armedBits c).getLsbD o.val = true := by
  have hbit : ((((List.range 8).filter fun i => !c.bankBad.contains i).map fun i => 2 ^ i).sum).testBit o.val = true := by
    rw [(testBit_sum_range _ 8 o.val).2]
    simp [o.isLt, h]
  rw [armedBits, BitVec.getLsbD_ofNat, hbit]
  simp [o.isLt]

/-- Settles O58: what a request starts, what its image is checked for, and what a preparation writes, each by its own operation. -/
theorem amendmentsArePrepared : Obligations.AmendmentsArePrepared := by
  unfold Obligations.AmendmentsArePrepared
  refine ⟨fun s m hand hm hst => amendment_taken hand hm hst,
    fun s b cause hco hlock hlen hlow hcause => amendment_loaded hco hlock hlen hlow hcause,
    fun s hco hlock hlow => amendment_prepared hco hlock hlow,
    fun s m b hm hst hring hlen hlow hpay hplen hpar => ?_, fun s o hbad hworks => ?_⟩
  · have hfields : installFields m = true := by simp [installFields, hpay, hplen, hpar]
    exact ⟨exec_configInstall_starts hm hst hring hfields, exec_configInstall_reads hm hst hring,
      fun hbegun hread => config_installed hm hst hring hfields hbegun hread hlen hlow⟩
  · refine ⟨_, exec_inactiveBankReload hbad hworks, rfl, fun h3 => ?_⟩
    have : o.val ∉ s.cfg.bankBad.filter (· ≠ o.val) := by simp
    exact (congrArg (fun v : BitVec 8 => v.getLsbD o.val) (if_pos h3)).trans
      (armedBits_good (c := { s.cfg with bankBad := s.cfg.bankBad.filter (· ≠ o.val) }) this)

end Sys2Proof.Machine
end

section
/-! SUPPORT. What the work that ends a tick leaves of the supplies, the lease and the stations. -/
namespace Sys2Proof.Machine

/-- The supplies, the lease, and the stations without their derived-key registers. -/
def State.lasting (s : State) : Power × Nat × Vector StationState 7 := (s.pwr, s.mgmt.remain, s.stations.map StationState.underived)

theorem lasting_of_steady {s t : State} (h : t.steady = s.steady) : t.lasting = s.lasting := by
  have hp : t.pwr = s.pwr := congrArg Steady.pwr h
  have hr : t.mgmt.remain = s.mgmt.remain := congrArg Steady.remain h
  have hs : t.stations.map StationState.underived = s.stations.map StationState.underived := congrArg Steady.stations h
  unfold State.lasting
  rw [hp, hr, hs]

@[simp ↓] theorem foldl_lasting {α : Type} (f : State → α → State) (h : ∀ s x, (f s x).lasting = s.lasting) (l : List α) (s : State) :
    (l.foldl f s).lasting = s.lasting := by
  induction l generalizing s with
  | nil => rfl
  | cons x l ih => rw [List.foldl_cons, ih, h]

@[simp ↓] theorem ite_lasting {c : Prop} [Decidable c] (s t : State) :
    (if c then s else t).lasting = if c then s.lasting else t.lasting := by split <;> rfl

section Writers
variable (s : State)

@[simp ↓] theorem updReq_lasting (rid : Nat) (f : Request → Request) : (s.updReq rid f).lasting = s.lasting := rfl
@[simp ↓] theorem mapReqs_lasting (f : Request → Request) : (s.mapReqs f).lasting = s.lasting := rfl
@[simp ↓] theorem updRing_lasting (t : Tenant) (k : RingNo) (f : Ring → Ring) : (s.updRing t k f).lasting = s.lasting := rfl
@[simp ↓] theorem updPage_lasting (t : Tenant) (f : TenantPage → TenantPage) : (s.updPage t f).lasting = s.lasting := rfl
@[simp ↓] theorem updTt_lasting (f : Timetable → Timetable) : (s.updTt f).lasting = s.lasting := rfl
@[simp ↓] theorem updFab_lasting (f : Fabric → Fabric) : (s.updFab f).lasting = s.lasting := rfl
@[simp ↓] theorem updVs_lasting (f : Verify → Verify) : (s.updVs f).lasting = s.lasting := rfl
@[simp ↓] theorem updSs_lasting (f : Sealed → Sealed) : (s.updSs f).lasting = s.lasting := rfl
@[simp ↓] theorem updKs_lasting (f : Custody → Custody) : (s.updKs f).lasting = s.lasting := rfl
@[simp ↓] theorem updEn_lasting (f : Entropy → Entropy) : (s.updEn f).lasting = s.lasting := rfl
@[simp ↓] theorem updCs_lasting (n : Fin 2) (f : CipherStation → CipherStation) : (s.updCs n f).lasting = s.lasting := rfl
@[simp ↓] theorem updDs_lasting (n : Fin 2) (f : DigestStation → DigestStation) : (s.updDs n f).lasting = s.lasting := rfl
@[simp ↓] theorem updFlt_lasting (f : Faults → Faults) : (s.updFlt f).lasting = s.lasting := rfl
@[simp ↓] theorem updPlat_lasting (p : Nat) (f : PlatStat → PlatStat) : (s.updPlat p f).lasting = s.lasting := by
  unfold State.updPlat
  split <;> rfl
@[simp ↓] theorem draw_lasting (n : Nat) : (s.draw n).lasting = s.lasting := rfl
@[simp ↓] theorem assertTn_lasting (t : Tenant) (n : Nat) : (assertTn t n s).lasting = s.lasting := rfl
@[simp ↓] theorem assertBlk_lasting (n : Nat) : (assertBlk n s).lasting = s.lasting := rfl
@[simp ↓] theorem setRole_lasting (key lane : Nat) (r : BitVec 4) : (setRole key lane r s).lasting = s.lasting := rfl

@[simp ↓] theorem faultReport_lasting (c d : BitVec 16) : (faultReport c d s).lasting = s.lasting := lasting_of_steady (faultReport_steady c d s)
@[simp ↓] theorem takeAction_lasting (action : Nat) (c : BitVec 16) : (takeAction action c s).lasting = s.lasting :=
  lasting_of_steady (takeAction_steady action c s)
@[simp ↓] theorem failRequest_lasting (rid status : Nat) (source : BitVec 16) (due : Nat) :
    (failRequest rid status source due s).lasting = s.lasting := lasting_of_steady (failRequest_steady rid status source due s)
@[simp ↓] theorem closeRequest_lasting (r : Request) (status : Nat) (aux : Bytes) (due : Nat) :
    (closeRequest r status aux due s).lasting = s.lasting := lasting_of_steady (closeRequest_steady r status aux due s)
@[simp ↓] theorem unpin_lasting (rid : Nat) : (unpin rid s).lasting = s.lasting := lasting_of_steady (unpin_steady rid s)
@[simp ↓] theorem cachePut_lasting (c : CacheSlot) : (cachePut c s).lasting = s.lasting := lasting_of_steady (cachePut_steady c s)
@[simp ↓] theorem evictFor_lasting (keep fuel : Nat) : (evictFor keep fuel s).lasting = s.lasting :=
  lasting_of_steady (evictFor_steady keep fuel s)
@[simp ↓] theorem unpend_lasting (t h : Nat) : (unpend t h s).lasting = s.lasting := rfl

end Writers

/-! ### Admission -/

@[simp ↓] theorem takeMarks_lasting (t : Tenant) (k : RingNo) (idx : List (BitVec 16)) (rid : Nat) (acted : Bool) (s : State) :
    (takeMarks t k idx rid acted s).lasting = s.lasting := rfl

@[simp ↓] theorem pinSlot_lasting (rid t h : Nat) (s : State) : (pinSlot rid t h s).lasting = s.lasting := by simp [pinSlot]

@[simp ↓] theorem refuseChain_lasting (t : Tenant) (k : RingNo) (ds : List Desc) (index : BitVec 16) (status check step : Nat) (late : Bool)
    (s : State) : (refuseChain t k ds index status check step late s).lasting = s.lasting := rfl

@[simp ↓] theorem queueChain_lasting (t : Tenant) (k : RingNo) (ds : List Desc) (index : BitVec 16) (cls : ClassDef) (p : Nat)
    (rate : RateClass) (got : List ((Nat × Bool) × Bytes × Bytes)) (late : Bool) (s : State) :
    (queueChain t k ds index cls p rate got late s).lasting = s.lasting := by
  unfold queueChain
  dsimp only
  generalize hu : ({ s with reqs := _, nextRid := s.nextRid + 1 } : State) = u
  have hlast : u.lasting = s.lasting := by
    rw [← hu]
    rfl
  simp [hlast]

@[simp ↓] theorem admitChain_lasting (t : Tenant) (k : RingNo) (held : List HeldDesc) (linkOk : Bool) (s : State) :
    (admitChain t k held linkOk s).lasting = s.lasting := by
  unfold admitChain
  dsimp only
  (repeat' split) <;> simp

@[simp ↓] theorem takeChain_lasting (t : Tenant) (k : RingNo) (held : List HeldDesc) (s : State) : (takeChain t k held s).lasting = s.lasting :=
  rfl

@[simp ↓] theorem admitWaiting_lasting (s : State) : (admitWaiting s).lasting = s.lasting := by
  unfold admitWaiting
  refine foldl_lasting _ (fun s p => ?_) _ s
  split <;> simp

/-! ### Steps that end -/

@[simp ↓] theorem dropDerived_lasting (sel : DerivedReg → Bool) (s : State) : (dropDerived sel s).lasting = s.lasting :=
  lasting_of_steady (dropDerived_steady sel s)

@[simp ↓] theorem countStep_lasting (r : Request) (status : Nat) (s : State) : (countStep r status s).lasting = s.lasting := by
  unfold countStep
  dsimp only
  (repeat' split) <;> rfl

@[simp ↓] theorem settleStep_lasting (rid : Nat) (res : StepResult) (tick : Nat) (s : State) :
    (settleStep rid res tick s).lasting = s.lasting := by
  unfold settleStep
  split <;> simp

@[simp ↓] theorem receiveSlot_lasting (c : CacheSlot) (s : State) : (receiveSlot c s).lasting = s.lasting := by simp [receiveSlot]

@[simp ↓] theorem storeKey_lasting (r : Request) (value pub : Bytes) (exp alsoCache : Bool) (s : State) :
    (storeKey r value pub exp alsoCache s).lasting = s.lasting := by
  unfold storeKey
  dsimp only
  split <;> simp

@[simp ↓] theorem placeImport_lasting (r : Request) (v p : Bytes) (exp : Bool) (tick : Nat) (s : State) :
    (placeImport r v p exp tick s).lasting = s.lasting := by simp [placeImport]

@[simp ↓] theorem finishImport_lasting (rid tick : Nat) (s : State) : (finishImport rid tick s).lasting = s.lasting := by
  unfold finishImport
  (repeat' split) <;> simp

@[simp ↓] theorem finishKeyCheck_lasting (r : Request) (tick : Nat) (s : State) : (finishKeyCheck r tick s).lasting = s.lasting := by
  unfold finishKeyCheck
  (repeat' split) <;> simp

@[simp ↓] theorem finishCustody_lasting (rid tick : Nat) (s : State) : (finishCustody rid tick s).lasting = s.lasting := by
  unfold finishCustody
  split <;> simp

@[simp ↓] theorem finishCipher_lasting (r : Request) (tick : Nat) (s : State) : (finishCipher r tick s).lasting = s.lasting := by
  simp [finishCipher]

@[simp ↓] theorem restartSs_lasting (rid tick : Nat) (s : State) : (restartSs rid tick s).lasting = s.lasting := rfl

@[simp ↓] theorem ssDisagree_lasting (src : BitVec 16) (s : State) (rid : Nat) : (ssDisagree src s rid).lasting = s.lasting := by
  simp [ssDisagree]

@[simp ↓] theorem finishSealed_lasting (r : Request) (tick : Nat) (s : State) : (finishSealed r tick s).lasting = s.lasting := by
  unfold finishSealed
  dsimp only
  (repeat' split) <;> simp

@[simp ↓] theorem finishOne_lasting (tick : Nat) (s : State) (rid : Nat) : (finishOne tick s rid).lasting = s.lasting := by
  unfold finishOne
  split <;> simp

@[simp ↓] theorem streamOne_lasting (tick : Nat) (s : State) (rid : Nat) : (streamOne tick s rid).lasting = s.lasting := by
  unfold streamOne
  split <;> simp

@[simp ↓] theorem countOpened_lasting (s : State) (rid : Nat) : (countOpened s rid).lasting = s.lasting := by
  unfold countOpened
  (repeat' split) <;> rfl

@[simp ↓] theorem finishSteps_lasting (s : State) : (finishSteps s).lasting = s.lasting := by
  unfold finishSteps
  dsimp only
  rw [foldl_lasting _ (finishOne_lasting _), foldl_lasting _ (streamOne_lasting _), foldl_lasting _ countOpened_lasting]

/-! ### What closes a tick -/

@[simp ↓] theorem releasePins_lasting (s : State) : (releasePins s).lasting = s.lasting :=
  foldl_lasting (fun s (r : Request) => unpinCarried r.rid s) (fun s _ => updKs_lasting s _) _ s
@[simp ↓] theorem closeLevels_lasting (s : State) : (closeLevels s).lasting = s.lasting := by simp [closeLevels]
@[simp ↓] theorem closeRegions_lasting (s : State) : (closeRegions s).lasting = s.lasting := rfl

@[simp ↓] theorem replaceLane_lasting (tick : Nat) (s : State) (x : Nat × Nat × BitVec 16 × Nat) : (replaceLane tick s x).lasting = s.lasting := by
  unfold replaceLane
  dsimp only
  (repeat' split) <;> simp

@[simp ↓] theorem settleRetirements_lasting (s : State) : (settleRetirements s).lasting = s.lasting := by simp [settleRetirements]

@[simp ↓] theorem expireWindows_lasting (s : State) : (expireWindows s).lasting = s.lasting := by
  simp [expireWindows, expireWindow, closeWindow, markRecords]

@[simp ↓] theorem retireSource_lasting (n : Fin 4) (cause : BitVec 8) (s : State) : (retireSource n cause s).lasting = s.lasting := by
  unfold retireSource
  dsimp only
  split <;> rfl

@[simp ↓] theorem sampleTick_lasting (units : Nat) (s : State) : (sampleTick units s).lasting = s.lasting := by
  simp [sampleTick, failSource]

theorem closeTick_lasting (s : State) : (closeTick s).lasting = s.lasting := by
  unfold closeTick
  dsimp only
  generalize hu : (if engineRuns s = true then admitWaiting s else s) = u
  have hlast : u.lasting = s.lasting := by
    rw [← hu]
    simp
  rw [updFlt_lasting, settleRetirements_lasting, expireWindows_lasting, sampleTick_lasting, closeLevels_lasting, closeRegions_lasting,
    releasePins_lasting, finishSteps_lasting, updTt_lasting, updVs_lasting]
  exact hlast

end Sys2Proof.Machine
end

section
/-! SUPPORT. What opens a tick, and what a tick boundary counts (02 R62, R63; 04 R173; 08 R338; 11 R452; 13 R499). -/
namespace Sys2Proof.Machine

@[simp] theorem entropyBoundary_steady (s : State) : (entropyBoundary s).steady = s.steady := by
  have hclear : ∀ u : State, (u.updMgmt fun m => { m with intStatus := m.intStatus &&& ~~~ (BitVec.ofNat 64 64) }).steady = u.steady := by
    intro u
    have : (u.mgmt.intStatus &&& ~~~ (BitVec.ofNat 64 64)).getLsbD 12 = u.mgmt.intStatus.getLsbD 12 := by
      rw [BitVec.getLsbD_and, show (~~~ (BitVec.ofNat 64 64)).getLsbD 12 = true from by decide, Bool.and_true]
    simp only [State.steady, State.updMgmt, this]
  unfold entropyBoundary
  dsimp only
  generalize hu : s.updEn _ = u
  have hen : u.steady = s.steady := by
    rw [← hu]
    rfl
  generalize hv : (if nextEntropyState s.en = 2 ∧ s.en.state ≠ 2 then assertBlk 6 u else u) = v
  have hdegr : v.steady = u.steady := by
    rw [← hv]
    split
    · exact assertBlk_steady u (by decide)
    · rfl
  generalize hw : (if nextEntropyState s.en = 3 ∧ s.en.state ≠ 3 then assertBlk 7 v else v) = w
  have hexh : w.steady = v.steady := by
    rw [← hw]
    split
    · exact assertBlk_steady v (by decide)
    · rfl
  have hall : w.steady = s.steady := hexh.trans (hdegr.trans hen)
  split
  · rw [hclear, hall]
  · exact hall

@[simp] theorem ownerOutcome_steady (c d : BitVec 16) (owner : WordOwner) (s : State) : (ownerOutcome c d owner s).steady = s.steady := by
  unfold ownerOutcome dropReceived
  (repeat' split) <;> first | rfl | exact foldl_steady _ (fun s rid => failRequest_steady ..) _ _

@[simp] theorem settleWords_steady (s : State) : (settleWords s).steady = s.steady := by
  unfold settleWords
  dsimp only
  rw [foldl_steady _ (fun s w => ownerOutcome_steady ..)]
  rfl

@[simp] theorem openTimers_steady (s : State) : (openTimers s).steady = s.steady := by
  unfold openTimers
  split
  · exact assertBlk_steady s (by decide)
  · rfl

@[simp] theorem settleHandles_steady (s : State) : (settleHandles s).steady = s.steady := rfl
@[simp] theorem retireCurves_steady (s : State) : (retireCurves s).steady = s.steady := rfl

@[simp] theorem countHoldWaits_steady (s : State) : (countHoldWaits s).steady = s.steady := by
  unfold countHoldWaits
  refine foldl_steady _ (fun s r => ?_) _ s
  dsimp only
  split <;> rfl

theorem openTick_steady (s : State) : (openTick s).steady = s.steady := by simp [openTick]

theorem refill_frame (s : State) :
    refill s = { s with tt := { s.tt with plats := (refill s).tt.plats, shown := (refill s).tt.shown } } := by
  unfold refill
  split <;> rfl

theorem sampleDomain_bbk (p : Bool) (n : Nat) (a : Aon) : (sampleDomain p n a).bbk = a.bbk := rfl

/-- The state of a tick that begins, before its plats are refilled: time, supplies and the lease. -/
def tickTimed (s : State) : State :=
  ((((({ s with wall := s.wall + tickUnits s, tick := s.tick + 1 } : State).updPwr
    (powerBoundary (Config.supplySample s.drawn) (decide (recoveryLevel { s with wall := s.wall + tickUnits s, tick := s.tick + 1 } ≤
      (Config.supplyLowest s.drawn).toNat)) (s.pwr.caution && s.pwr.began == s.now))).updAon fun a =>
    sampleDomain (({ s with wall := s.wall + tickUnits s, tick := s.tick + 1 } : State).pos = 0) s.drawn
      { a with rtc := a.rtc + Config.clockStep (calValue (({ s with wall := s.wall + tickUnits s, tick := s.tick + 1 } : State)) 0x20) s.drawn }).draw 1).updMgmt
    countLease)

/-- What follows the refill of a tick that begins. -/
def tickOpened (s : State) : State :=
  let s := swapBanks s
  let s := s.updKs fun k => { k with ivs := k.ivs.map fun v => { v with shown := (v.c, v.mark) } }
  let s := s.updFab fun f => { f with rdUsed := [], wrUsed := [], rdTurn := [], wrTurn := [], vsUsed := [], mgRd := 0, mgWr := 0 }
  let s := s.updTt fun t => { t with slot := 0, taken := 0, passes := [], platTaken := [], busDone := [], parts := [], running := [] }
  let s := s.updFlt fun f => { f with alive := aliveLevel s, inPlace := if s.pos = 0 then [] else f.inPlace }
  { s with tenants := s.tenants.map fun p => { p with rings := p.rings.map (settleRing (takesWork s && !p.resetBusy)) } }

theorem beginTick_eq (s : State) : beginTick s = tickOpened (refill (tickTimed s)) := rfl

theorem countLease_eq (m : Mgmt) : countLease m = { m with remain := if m.held then m.remain - 1 else m.remain } := by
  unfold countLease
  split <;> rfl

theorem tickTimed_mgmt (s : State) :
    (tickTimed s).mgmt = { s.mgmt with remain := if s.mgmt.held then s.mgmt.remain - 1 else s.mgmt.remain } := countLease_eq s.mgmt

theorem tickTimed_fixed (s : State) : (tickTimed s).fixed = { s.fixed with tick := s.tick + 1, wall := s.wall + tickUnits s } := by
  have hm := tickTimed_mgmt s
  unfold State.fixed
  rw [hm]
  rfl

theorem refill_fixed_eq (s : State) : (refill s).fixed = s.fixed := by
  rw [refill_frame]
  rfl

theorem tickOpened_fixed (s : State) : (tickOpened s).fixed = { s.fixed with slot := 0 } := by
  unfold tickOpened
  dsimp only
  rw [with_tenants_fixed, State.updFlt_fixed _ _ rfl]
  rfl

/-- A tick that begins: time runs on, the slots are opened, and the other fixed parts stay. -/
theorem beginTick_fixed (s : State) :
    (beginTick s).fixed = { s.fixed with tick := s.tick + 1, wall := s.wall + tickUnits s, slot := 0 } := by
  rw [beginTick_eq, tickOpened_fixed, refill_fixed_eq, tickTimed_fixed]

theorem tickOpened_counts (s : State) : (tickOpened s).tt.taken = 0 ∧ (tickOpened s).tt.passes = [] ∧ (tickOpened s).tt.busDone = [] ∧
    (tickOpened s).tt.parts = [] ∧ (tickOpened s).tt.running = [] ∧ (tickOpened s).fab.rdUsed = [] ∧ (tickOpened s).fab.vsUsed = [] ∧
    (tickOpened s).fab.mgRd = 0 := ⟨rfl, rfl, rfl, rfl, rfl, rfl, rfl, rfl⟩

/-- The lease, the key banks and the clock of a tick that begins. -/
theorem beginTick_leaves (s : State) :
    (beginTick s).mgmt.remain = (if s.mgmt.held then s.mgmt.remain - 1 else s.mgmt.remain) ∧
    (beginTick s).stations = s.stations.map (fun x => { x with active := x.loading, loading := [] }) ∧
    (beginTick s).pwr.fast = s.pwr.nextFast := by
  have hframe := refill_frame (tickTimed s)
  rw [beginTick_eq]
  generalize refill (tickTimed s) = u at hframe ⊢
  have hm : u.mgmt = (tickTimed s).mgmt := (congrArg State.mgmt hframe :)
  have hst : u.stations = s.stations := (congrArg State.stations hframe :)
  have hp : u.pwr.fast = s.pwr.nextFast := (congrArg (fun x => x.pwr.fast) hframe :)
  refine ⟨?_, ?_, hp⟩
  · change u.mgmt.remain = _
    rw [hm, tickTimed_mgmt]
  · change u.stations.map (fun x => { x with active := x.loading, loading := [] }) = _
    rw [hst]

/-- The counts of a tick that has just opened, as later operations of the boundary leave them. -/
def State.opened (s : State) (t : State) : Prop :=
  ∃ n, t.steady = { s.steady with mgRd := n } ∧ (s.tt.started = true → n = s.fab.mgRd)

/-- What follows the opening of a tick at its boundary: the writes of the tick, and its reads before the timetable has started. -/
def tickIssued (s : State) : State :=
  if cutDue s then s
  else if (issueWrites (issueDescReads s)).tt.started then issueWrites (issueDescReads s)
  else issueMgmt false (issueWrites (issueDescReads s))

theorem tickBoundary_eq (s : State) : tickBoundary s = tickIssued (openTick (beginTick (closeTick s))) := rfl

theorem tickIssued_fixed (s : State) : (tickIssued s).fixed = s.fixed := by
  unfold tickIssued
  split
  · rfl
  · split <;> simp

theorem started_of_steady {s t : State} (h : t.steady = s.steady) : t.tt.started = s.tt.started :=
  (congrArg (fun x : Steady => x.tt.started) h :)

theorem tickIssued_opened (s : State) : State.opened s (tickIssued s) := by
  have hissue : (issueWrites (issueDescReads s)).steady = s.steady := by simp
  have hstarted : (issueWrites (issueDescReads s)).tt.started = s.tt.started := started_of_steady hissue
  unfold tickIssued
  split
  · exact ⟨s.fab.mgRd, rfl, fun _ => rfl⟩
  · split
    · exact ⟨s.fab.mgRd, hissue, fun _ => rfl⟩
    · rename_i hnot
      obtain ⟨n, hn⟩ := issueMgmt_steady_read (issueWrites (issueDescReads s))
      exact ⟨n, by rw [hn, hissue], fun h => absurd (hstarted.trans h) hnot⟩

theorem exec_tickBoundary {s : State} (hup : s.mainUp = true) (hlc : s.lc.state ≠ lcScrap) :
    exec .tickBoundary s = .next (markOverdue (tickBoundary s)) := by
  refine if_neg ?_
  simp [hup, hlc]

theorem exec_tickBoundary_stopped {s : State} (h : s.mainUp = false ∨ s.lc.state = lcScrap) : exec .tickBoundary s = .next s := by
  refine if_pos ?_
  obtain h | h := h <;> simp [h]

/-- The age of the proofs marks a flag alone. -/
theorem markOverdue_frame (s : State) : markOverdue s = { s with flt := { s.flt with overdue := (markOverdue s).flt.overdue } } := by
  unfold markOverdue
  dsimp only
  split <;> rfl

/-- A station whose banks have been swapped, but for the derived-key registers that requests release. -/
theorem station_of_underived {a b : StationState} (h : a.underived = b.underived) : a = { b with derived := a.derived } := by
  cases a
  cases b
  simp only [StationState.underived, StationState.mk.injEq] at h
  obtain ⟨rfl, rfl, _, rfl, rfl, rfl⟩ := h
  rfl

/-- Settles O20: the work that ends a tick and the bursts that follow its opening leave what the opening counts. -/
theorem tickBoundaryCounts : Obligations.TickBoundaryCounts := by
  unfold Obligations.TickBoundaryCounts
  refine ⟨fun s hup hlc => ⟨_, exec_tickBoundary hup hlc, ?_⟩, fun s h => exec_tickBoundary_stopped h⟩
  rw [tickBoundary_eq]
  have hclose := closeTick_lasting s
  have hcloseFix := closeTick_fixed s
  generalize closeTick s = u at hclose hcloseFix ⊢
  obtain ⟨hremain, hbanks, hfast⟩ := beginTick_leaves u
  have hbeginFix := beginTick_fixed u
  obtain ⟨htaken, hpasses, hbus, hparts, hrun, hrd, hvs, hmg⟩ := tickOpened_counts (refill (tickTimed u))
  rw [← beginTick_eq] at htaken hpasses hbus hparts hrun hrd hvs hmg
  generalize beginTick u = v at hremain hbanks hfast hbeginFix htaken hpasses hbus hparts hrun hrd hvs hmg ⊢
  have hopen := openTick_steady v
  have hopenFix := openTick_fixed v
  generalize openTick v = w at hopen hopenFix ⊢
  obtain ⟨n, hsteady, hn⟩ := tickIssued_opened w
  have hissueFix := tickIssued_fixed w
  have hmark := markOverdue_frame (tickIssued w)
  have hmarkSteady : (markOverdue (tickIssued w)).steady = (tickIssued w).steady := by rw [hmark]; rfl
  have hmarkFix : (markOverdue (tickIssued w)).fixed = (tickIssued w).fixed := by rw [hmark]; rfl
  rw [← hmarkSteady] at hsteady
  rw [← hmarkFix] at hissueFix
  generalize markOverdue (tickIssued w) = t at hsteady hissueFix ⊢
  rw [hopen] at hsteady
  have hunits : tickUnits u = 4 * s.pwr.fast + 5 * (320 - s.pwr.fast) := by
    have : u.pwr = s.pwr := congrArg Prod.fst hclose
    rw [tickUnits, this]
  have hfix : t.fixed = { s.fixed with tick := s.tick + 1, wall := s.wall + (4 * s.pwr.fast + 5 * (320 - s.pwr.fast)), slot := 0 } := by
    rw [hissueFix, hopenFix, hbeginFix, hunits, show u.tick = s.tick from congrArg Fixed.tick hcloseFix,
      show u.wall = s.wall from congrArg Fixed.wall hcloseFix, hcloseFix]
  have htt : { t.tt with holdFreed := [] } = { v.tt with holdFreed := [] } := congrArg Steady.tt hsteady
  refine ⟨hfix, fun i => ?_, ?_, ?_, (congrArg Timetable.taken htt :).trans htaken, (congrArg Timetable.passes htt :).trans hpasses,
    (congrArg Timetable.busDone htt :).trans hbus, (congrArg Timetable.parts htt :).trans hparts,
    (congrArg Timetable.running htt :).trans hrun, (congrArg Steady.rdUsed hsteady).trans hrd, (congrArg Steady.vsUsed hsteady).trans hvs,
    fun hs => ?_⟩
  · have hst : (t.stations[i]).underived = (v.stations[i]).underived := by
      have := congrArg (fun x : Steady => x.stations[i]) hsteady
      simpa [State.steady] using this
    have hold : (u.stations[i]).underived = (s.stations[i]).underived := by
      have := congrArg (fun x : Power × Nat × Vector StationState 7 => x.2.2[i]) hclose
      simpa [State.lasting] using this
    have hv : v.stations[i] = { u.stations[i] with active := (u.stations[i]).loading, loading := [] } := by
      rw [hbanks]
      exact Vector.getElem_map ..
    rw [station_of_underived hst, hv, station_of_underived hold]
  · have hheld : u.mgmt.held = s.mgmt.held := congrArg (fun f => f.lock.1) hcloseFix
    have hrem : u.mgmt.remain = s.mgmt.remain := congrArg (fun x => x.2.1) hclose
    rw [show t.mgmt.remain = v.mgmt.remain from congrArg Steady.remain hsteady, hremain, hheld, hrem]
  · rw [show t.pwr = v.pwr from congrArg Steady.pwr hsteady, hfast, show u.pwr = s.pwr from congrArg Prod.fst hclose]
  · rw [show t.fab.mgRd = n from congrArg Steady.mgRd hsteady, hn ?_]
    · exact (congrArg Steady.mgRd hopen).trans hmg
    · rw [show w.tt.started = v.tt.started from congrArg Fixed.started hopenFix,
        show v.tt.started = u.tt.started from congrArg Fixed.started hbeginFix,
        show u.tt.started = s.tt.started from congrArg Fixed.started hcloseFix]
      exact hs

end Sys2Proof.Machine
end

section
/-! SUPPORT. A slot in which nothing is ready (02 R63, R76; 12 R485). -/
namespace Sys2Proof.Machine

/-- Nothing is there to run: no request, no curve load, no waybill, no rotation of the storage key. -/
def State.nothingRuns (s : State) : Prop := s.reqs = [] ∧ s.vs.loads = [] ∧ s.ss.waybills = [] ∧ s.ks.rot ≠ 1

/-- `t` differs from `s` in the positions whose lanes a proof has taken the place of, each of them served and without a siding in
reserve (12 R485). -/
def State.provesOnly (s t : State) : Prop :=
  t = { s with flt := { s.flt with inPlace := t.flt.inPlace } } ∧ (∀ x ∈ s.flt.inPlace, x ∈ t.flt.inPlace) ∧
    ∀ x ∈ t.flt.inPlace, x ∈ s.flt.inPlace ∨ (posServed s x.1 x.2 = true ∧ spareCount s (engineOf x.1 x.2) = 0)

theorem provesOnly_refl (s : State) : State.provesOnly s s := ⟨rfl, fun _ h => h, fun _ h => .inl h⟩

theorem provesOnly_posServed {s t : State} (h : State.provesOnly s t) (st pos : Nat) : posServed t st pos = posServed s st pos := by
  rw [h.1]
  rfl

theorem provesOnly_spareCount {s t : State} (h : State.provesOnly s t) (key : Nat) : spareCount t key = spareCount s key := by
  rw [h.1]
  rfl

theorem provesOnly_trans {s t u : State} (h1 : State.provesOnly s t) (h2 : State.provesOnly t u) : State.provesOnly s u := by
  obtain ⟨heq, hold, hnew⟩ := h2
  obtain ⟨heq1, hold1, hnew1⟩ := id h1
  refine ⟨by rw [heq, heq1], fun x hx => hold x (hold1 x hx), fun x hx => ?_⟩
  obtain hx | ⟨hserved, hspare⟩ := hnew x hx
  · exact hnew1 x hx
  · rw [provesOnly_posServed h1] at hserved
    rw [provesOnly_spareCount h1] at hspare
    exact .inr ⟨hserved, hspare⟩

theorem provesOnly_nothingRuns {s t : State} (h : State.provesOnly s t) (hs : s.nothingRuns) : t.nothingRuns := by
  rw [h.1]
  exact hs

section Idle
variable {s : State} (hs : s.nothingRuns)

include hs in
theorem pickOf_noRequest (st pos p : Nat) : pickOf s st pos p = none := by
  obtain ⟨hreqs, _⟩ := hs
  simp [pickOf, hreqs]

include hs in
theorem internalPending_false (st pos : Nat) : internalPending s st pos = false := by
  obtain ⟨_, hloads, hways, _⟩ := hs
  simp [internalPending, hloads, hways]

include hs in
theorem idlePick_idle (pos : Nat) : idlePick s pos = .idle := by
  obtain ⟨hreqs, _, _, hrot⟩ := hs
  have hgo : ¬ (s.ks.rot = 1 ∧ rootHere s = true) := fun h => hrot h.1
  simp only [idlePick, hreqs, List.find?_nil]
  rw [if_neg]
  simp only [Bool.and_eq_true, decide_eq_true_eq]
  exact fun h => hgo h.1

include hs in
theorem pick_idle (st pos : Nat) (e : BitVec 16) (done : Bool) : pick s st pos e done = .idle := by
  have hown : ∀ p, ownDerivation s pos p = none := fun p => by simp [ownDerivation, hs.1]
  have hcheck : keyCheckPick s st pos = .idle := by simp [keyCheckPick, hs.1]
  have hlent : ∀ l : List Nat, l.findSome? (fun _ => (none : Option Request)) = none := fun l =>
    List.findSome?_eq_none_iff.mpr fun _ _ => rfl
  simp [pick, hlent, pickOf_noRequest hs, internalPending_false hs, hown, idlePick_idle hs, hcheck]

end Idle

/-- An entry with nothing to run leaves its slot idle, or to the proof that takes the place of its lanes. -/
theorem runEntry_proves {s u : State} (hs : s.nothingRuns) (h : State.provesOnly s u) (st pos : Nat) (done : Bool) :
    State.provesOnly s (runEntry st pos (u, done)).1 := by
  have hu := provesOnly_nothingRuns h hs
  unfold runEntry
  dsimp only
  split
  · exact h
  · rename_i hgo
    split
    · rename_i hproves
      refine provesOnly_trans h ⟨rfl, fun x hx => List.mem_append_left _ hx, fun x hx => ?_⟩
      obtain hx | hx := List.mem_append.mp hx
      · exact .inl hx
      · rw [List.mem_singleton] at hx
        subst hx
        refine .inr ⟨?_, ?_⟩
        · simp only [Bool.or_eq_true, not_or] at hgo
          simpa using hgo.1
        · simp only [provesInPlace, Bool.and_eq_true] at hproves
          simpa using hproves.1.1.2
    · simp only [pick_idle hu, runPick]
      (repeat' split) <;> exact h

theorem runPositions_proves {s u : State} (hs : s.nothingRuns) (h : State.provesOnly s u) (st : Nat) (ps : List Nat) :
    State.provesOnly s (runPositions st ps u) := by
  unfold runPositions
  dsimp only
  generalize ps.filter _ ++ ps.filter _ = l
  generalize false = done
  induction l generalizing u done with
  | nil => exact h
  | cons q l ih =>
    have := runEntry_proves hs h st q done
    rw [List.foldl_cons]
    generalize runEntry st q (u, done) = acc at this
    exact ih this acc.2

theorem runStation_proves {s u : State} (hs : s.nothingRuns) (h : State.provesOnly s u) (st : Nat) : State.provesOnly s (runStation u st) :=
  runPositions_proves hs h st _

/-! ### The slot -/

section Slot
variable {s : State} (hs : s.nothingRuns)

include hs in
theorem redrawStarting_same : redrawStarting s = s := by
  have hways : (runStation s 5).ss.waybills = [] := (provesOnly_nothingRuns (runStation_proves hs (provesOnly_refl s) 5) hs).2.2.1
  unfold redrawStarting
  dsimp only
  rw [hs.1, hways]
  rfl

include hs in
theorem ivAhead_zero (slot : Nat) : ivAhead slot s = 0 := by
  rw [ivAhead, hs.1]
  rfl

end Slot

/-- The state of a slot with nothing running and nothing drawn ahead. -/
def slotCleared (s : State) : State := s.updTt fun t => { t with running := [], ivAhead := 0 }

theorem provesOnly_updTt {s u : State} (h : State.provesOnly s u) (f : Timetable → Timetable) :
    State.provesOnly (s.updTt f) (u.updTt f) := by
  obtain ⟨heq, hold, hnew⟩ := h
  refine ⟨?_, hold, hnew⟩
  have htt : u.tt = s.tt := by rw [heq]
  rw [heq]
  rfl

/-- A slot with nothing to run leaves its positions idle, or to proofs. -/
theorem runSlot_proves {s : State} (hs : s.nothingRuns) : State.provesOnly (slotCleared s) (runSlot s) := by
  have hbase : (s.updTt fun t => { t with running := [] }).nothingRuns := hs
  have hfirst : ∀ l : List Nat, State.provesOnly (s.updTt fun t => { t with running := [] })
      (l.foldl runStation (s.updTt fun t => { t with running := [] })) := fun l => by
    have hrefl := provesOnly_refl (s.updTt fun t => { t with running := [] })
    generalize s.updTt (fun t => { t with running := [] }) = b at hbase hrefl ⊢
    generalize hu : b = u at hrefl ⊢
    conv at hrefl => enter [1]; rw [← hu]
    conv => enter [1]; rw [← hu]
    clear hu
    induction l generalizing u with
    | nil => exact hrefl
    | cons st l ih => exact ih _ (runStation_proves hbase hrefl st)
  unfold runSlot
  dsimp only
  have h5 := hfirst [0, 1, 2, 3, 4]
  generalize [0, 1, 2, 3, 4].foldl runStation (s.updTt fun t => { t with running := [] }) = u at h5 ⊢
  have hu := provesOnly_nothingRuns h5 hbase
  rw [redrawStarting_same hu]
  have hcleared : State.provesOnly (slotCleared s) (u.updTt fun t => { t with ivAhead := ivAhead t.slot u }) := by
    have hz : (u.updTt fun t => { t with ivAhead := ivAhead t.slot u }) = u.updTt fun t => { t with ivAhead := 0 } := by
      simp only [ivAhead_zero hu]
    rw [hz]
    exact provesOnly_updTt h5 fun t => { t with ivAhead := 0 }
  have hs' : (slotCleared s).nothingRuns := hs
  exact runPositions_proves hs' (runStation_proves hs' (runPositions_proves hs' hcleared 6 [0, 1, 2]) 5) 6 [3]

section Tests
variable {s : State} (hs : s.nothingRuns)

include hs in
theorem mismatchAt_same (x : Nat × Nat) : mismatchAt s x = s := by
  obtain ⟨hreqs, hloads, hways, _⟩ := hs
  have hrids : ∀ st pos, ridsAt s st pos = [] := fun st pos => by simp [ridsAt, hreqs]
  have hload : loadAt s x.2 = false := by simp [loadAt, hloads]
  have hway : waybillEnds s x.2 = false := by simp [waybillEnds, hways]
  simp [mismatchAt, vsMismatch, ssMismatch, laneMismatch, hrids, hload, hway]

include hs in
theorem foldl_mismatchAt_same (bad : List (Nat × Nat)) : bad.foldl mismatchAt s = s := by
  induction bad with
  | nil => rfl
  | cons x l ih => rw [List.foldl_cons, mismatchAt_same hs, ih]

theorem readTests_same (hrun : s.tt.running = []) : readTests s = s := by
  simp [readTests, runningNow, hrun]

include hs in
theorem issueAll_same (last : State → List (Nat × Nat)) (turn : Nat → Nat → State → State) (note : Nat → Nat → Fabric → Fabric) :
    issueAll last turn note s = s := by
  have hrot : ∀ p, rotation (last s) p s = [] := fun p => by simp [rotation, hs.1, sortBy]
  simp [issueAll, hrot, List.range, List.range.loop]

theorem issueMgmt_same (hm : s.fab.mgmt = []) (write : Bool) : issueMgmt write s = s := by
  have hturn : mgmtTurn write s = s := by simp [mgmtTurn, hm]
  unfold issueMgmt
  generalize List.range 16 = l
  induction l with
  | nil => rfl
  | cons x l ih => rw [List.foldl_cons, hturn, ih]

include hs in
theorem issueReads_same (hm : s.fab.mgmt = []) : issueReads s = s := by
  rw [issueReads, issueAll_same hs, issueMgmt_same hm]

end Tests

theorem settleCaution_same {s : State} (hc : s.pwr.caution = false) : settleCaution (settleHold s) = s := by
  have hhold : settleHold s = s := if_neg (by simp [hc])
  rw [hhold]
  exact if_neg (by simp [hc])

theorem exec_slotStart_stays {s : State} {bad : List (Nat × Nat)}
    (h : s.tt.started = false ∨ 8 ≤ s.tt.slot ∨ s.locked = true ∨ cutDue s = true) : exec (.slotStart bad) s = .next s := by
  refine congrArg Host.Outcome.next (if_pos ?_)
  obtain h | h | h | h := h
  · exact .inl (by rw [h]; rfl)
  · exact .inr (.inl h)
  · exact .inr (.inr (.inl h))
  · exact .inr (.inr (.inr h))

/-- The work of a slot that starts, before it is passed. -/
def slotWork (bad : List (Nat × Nat)) (s : State) : State :=
  let s := if s.tt.slot = 0 then settleCaution (settleHold s) else s
  let s := if s.tt.slot = 5 then issueReads s else s
  bad.foldl mismatchAt (readTests (runSlot s))

theorem exec_slotStart {s : State} {bad : List (Nat × Nat)} (h1 : s.tt.started = true) (h2 : s.tt.slot < 8) (h3 : s.locked = false)
    (h4 : cutDue s = false) : exec (.slotStart bad) s = .next ((slotWork bad s).updTt fun t => { t with slot := t.slot + 1 }) := by
  refine congrArg Host.Outcome.next (if_neg ?_)
  rw [h1, h3, h4]
  simp
  omega

theorem slotWork_fixed (bad : List (Nat × Nat)) (s : State) : (slotWork bad s).fixed = s.fixed := by
  simp [slotWork]

theorem slotWork_idle {s : State} (bad : List (Nat × Nat)) (hs : s.nothingRuns) (hc : s.pwr.caution = false)
    (hm : s.fab.mgmt = [] ∨ s.tt.slot ≠ 5) : State.provesOnly (slotCleared s) (slotWork bad s) := by
  have hfirst : (if s.tt.slot = 0 then settleCaution (settleHold s) else s) = s := by
    split
    · exact settleCaution_same hc
    · rfl
  have hread : (if s.tt.slot = 5 then issueReads s else s) = s := by
    split
    · rename_i h5
      exact issueReads_same hs (hm.resolve_right fun h => h h5)
    · rfl
  have hrun := runSlot_proves hs
  have hu := provesOnly_nothingRuns hrun (show (slotCleared s).nothingRuns from hs)
  have hrunning : (runSlot s).tt.running = [] := by
    rw [hrun.1]
    rfl
  unfold slotWork
  dsimp only
  rw [hfirst, hread, readTests_same hrunning, foldl_mismatchAt_same hu]
  exact hrun

/-- Settles O21: with nothing to run every entry picks nothing, and only the proofs in place of a lane are noted. -/
theorem slotRuns : Obligations.SlotRuns := by
  unfold Obligations.SlotRuns
  refine ⟨fun s bad h1 h2 h3 h4 => ⟨_, exec_slotStart h1 h2 h3 h4, ?_, fun hc hreqs hloads hways hrot hm => ?_⟩,
    fun s bad h => exec_slotStart_stays h⟩
  · have hfix := slotWork_fixed bad s
    generalize slotWork bad s = u at hfix ⊢
    have hslot : u.tt.slot = s.tt.slot := congrArg Fixed.slot hfix
    rw [← hslot, ← hfix]
    rfl
  · obtain ⟨heq, hold, hnew⟩ := slotWork_idle bad (s := s) ⟨hreqs, hloads, hways, hrot⟩ hc hm
    generalize slotWork bad s = u at heq hold hnew ⊢
    refine ⟨?_, hold, hnew⟩
    rw [heq]
    rfl

end Sys2Proof.Machine
end

section
/-! SUPPORT. The key-entry unit: what a write of TN_KE_CTRL starts, and what it leaves unchanged (09 R391, R399; 13 R501). -/
namespace Sys2Proof.Machine

/-! ### The value of TN_KE_CTRL -/

theorem keOp_withOp {op : Nat} (h : op < 8) (v : BitVec 64) : keOp (withOp op v) = op := by
  have hall : ∀ op : Fin 8, (place op.val 28).extractLsb' 28 4 = BitVec.ofNat 4 op.val := by decide
  have hput : (place op 28).extractLsb' 28 4 = BitVec.ofNat 4 op := hall ⟨op, h⟩
  rw [keOp, withOp, fieldNat_put v (by decide), hput, BitVec.toNat_ofNat]
  omega

theorem field_withOp {op lo w : Nat} (ha : (0x0FFFFFFF : BitVec 64).extractLsb' lo w = BitVec.allOnes w)
    (hb : (place op 28).extractLsb' lo w = 0#w) (v : BitVec 64) : fieldNat (withOp op v) lo w = fieldNat v lo w :=
  fieldNat_kept v ha hb

theorem keHandle_withOp {op : Nat} (h : op < 8) (v : BitVec 64) : keHandle (withOp op v) = keHandle v := by
  have hput : ∀ op : Fin 8, (place op.val 28).extractLsb' 0 20 = 0#20 := by decide
  exact field_withOp (by decide) (hput ⟨op, h⟩) v

theorem ncomp_withOp (v : BitVec 64) : fieldNat (withOp 1 v) 26 2 = fieldNat v 26 2 :=
  field_withOp (by decide) (by decide) v

theorem bitAt_withOp (v : BitVec 64) : bitAt (withOp 1 v) 25 = v.getLsbD 25 := by
  have ha : (0x0FFFFFFF : BitVec 64).getLsbD 25 = true := by decide
  have hb : (place 1 28).getLsbD 25 = false := by decide
  rw [bitAt, withOp, BitVec.getLsbD_or, BitVec.getLsbD_and, ha, hb, Bool.and_true, Bool.or_false]

/-! ### The write -/

/-- The window once a write of TN_KE_CTRL has zeroised its data registers, its open session having seen the write. -/
def State.touched (s : State) (n : Tenant) : State := s.updKe n fun e => touchSession s.now (clearEntry e)

section
variable {s : State} {i : Ident} {n : Tenant} {v : BitVec 64}

theorem touched_keyEntryOnly : keyEntryOnly n s (s.touched n) := updKe_keyEntryOnly _ s

theorem touched_ke : ((s.touched n).page n).ke = touchSession s.now (clearEntry (s.page n).ke) := by
  rw [State.touched, page_updKe]

theorem touched_page : (s.touched n).page n = { s.page n with ke := touchSession s.now (clearEntry (s.page n).ke) } :=
  page_updKe _ s

/-- What the operation of a write does once the window has taken the write. -/
def keCtrlDoes (n : Tenant) (j : KeJob) (s : State) : State :=
  if j.op = 4 then cancelSession n s
  else if s.pwr.keHeld || !(s.page n).ke.heldOps.isEmpty || !keWorks s ||
      (j.op ≠ 5 && ((s.page n).ke.job.isSome || keCommitting s n)) then
    s.updKe n fun e => { e with heldOps := e.heldOps ++ [j] }
  else if j.op = 1 ∨ j.op = 5 then performKe n j s
  else s.updKe n fun e => { e with job := some j }

theorem writeKeCtrl_eq (hlo : keOp v ≠ 0) (hhi : keOp v ≤ 5) :
    writeKeCtrl i n v s = showKe n (keCtrlDoes n (keJobOf i n v s) (s.touched n)) := by
  have hop : ¬ ((keJobOf i n v s).op = 0 ∨ (keJobOf i n v s).op > 5) := by
    have : (keJobOf i n v s).op = keOp v := rfl
    omega
  unfold writeKeCtrl
  exact if_neg hop

theorem keCtrlDoes_cancels {j : KeJob} (h : j.op = 4) : keCtrlDoes n j s = cancelSession n s := if_pos h

/-- What lets an operation begin at once (09 R391; 13 R501). -/
def keFree (s : State) (n : Tenant) : Prop := s.pwr.keHeld = false ∧ (s.page n).ke.heldOps = [] ∧ keWorks s = true

theorem keFree_touched (h : keFree s n) : keFree (s.touched n) n := by
  obtain ⟨hheld, hops, hworks⟩ := h
  refine ⟨hheld, ?_, hworks⟩
  rw [touched_ke]
  exact hops

theorem keCtrlDoes_invalidates {j : KeJob} (h : keFree s n) (hj : j.op = 5) : keCtrlDoes n j s = performKe n j s := by
  obtain ⟨hheld, hops, hworks⟩ := h
  simp [keCtrlDoes, hheld, hops, hworks, hj]

theorem keCtrlDoes_starts {j : KeJob} (h : keFree s n) (hj : j.op = 1) (hjob : (s.page n).ke.job = none)
    (hc : keCommitting s n = false) : keCtrlDoes n j s = performKe n j s := by
  obtain ⟨hheld, hops, hworks⟩ := h
  simp [keCtrlDoes, hheld, hops, hworks, hj, hjob, hc]

theorem keCtrlDoes_queues {j : KeJob} (h : keFree s n) (hj : j.op = 2 ∨ j.op = 3) (hjob : (s.page n).ke.job = none)
    (hc : keCommitting s n = false) : keCtrlDoes n j s = s.updKe n fun e => { e with job := some j } := by
  obtain ⟨hheld, hops, hworks⟩ := h
  obtain hj | hj := hj <;> simp [keCtrlDoes, hheld, hops, hworks, hj, hjob, hc]

theorem touched_job : ((s.touched n).page n).ke.job = (s.page n).ke.job := by
  rw [touched_ke]
  rfl

theorem touched_committing : keCommitting (s.touched n) n = keCommitting s n := rfl

/-- An OFFICER's write of TN_KE_CTRL is made (11 Table 11-3). -/
theorem keCtrlWrite_go (h : s.mayWrite i n true) (eff : State → State) : pageWrite i n 0x300 eff s = (eff s).respond 0 :=
  pageWrite_go h 0x300 eff (by decide) (by decide)

/-- A write of TN_KE_CTRL with an operation, in full. -/
theorem keCtrlWrite_eq (h : s.mayWrite i n true) {op : Nat} (hlo : op ≠ 0) (hhi : op ≤ 5) :
    pageWrite i n 0x300 (writeKeCtrl i n (withOp op v)) s =
      (showKe n (keCtrlDoes n (keJobOf i n (withOp op v) s) (s.touched n))).respond 0 := by
  have hop : keOp (withOp op v) = op := keOp_withOp (by omega) v
  rw [keCtrlWrite_go h, writeKeCtrl_eq (by rw [hop]; exact hlo) (by rw [hop]; exact hhi)]

theorem keJobOf_op {op : Nat} (h : op < 8) : (keJobOf i n (withOp op v) s).op = op := keOp_withOp h v

/-! ### Results -/

theorem showKe_page : (showKe n s).page n =
    { s.page n with ke := { (s.page n).ke with state := ((showKe n s).page n).ke.state } } := by
  unfold showKe
  dsimp only
  rw [page_updKe]

theorem showKe_result : ((showKe n s).page n).ke.result = (s.page n).ke.result := by
  rw [showKe_page]

theorem showKe_ks : (showKe n s).ks = s.ks := rfl

theorem showKe_frame : showKe n s = { s with tenants := (showKe n s).tenants } := rfl

theorem keResult_result (code : Nat) : ((keResult n code s).page n).ke.result = BitVec.ofNat 4 code := by
  unfold keResult
  dsimp only
  split
  · rw [assertTn, State.page_updPage_same, page_updKe]
  · rw [page_updKe]

/-- A result changes nothing else of the window, and of the page the tenant's error source from 4 upward. -/
theorem keResult_ke (code : Nat) : ((keResult n code s).page n).ke = { (s.page n).ke with result := BitVec.ofNat 4 code } := by
  unfold keResult
  dsimp only
  split
  · rw [assertTn, State.page_updPage_same, page_updKe]
  · rw [page_updKe]

theorem keResult_frame (code : Nat) : keResult n code s = { s with tenants := (keResult n code s).tenants } := by
  unfold keResult
  dsimp only
  split <;> rfl

/-- STATE, once an operation is under way, is 2 (09 Table 09-20). -/
theorem showKe_busy (h : (s.page n).ke.job.isSome = true) : ((showKe n s).page n).ke.state = 2 := by
  unfold showKe
  dsimp only
  rw [page_updKe]
  simp [h]

/-- STATE, while a session is open and nothing is under way, is 1 (09 Table 09-20). -/
theorem showKe_open (hj : (s.page n).ke.job = none) (hops : (s.page n).ke.heldOps = []) (hc : keCommitting s n = false)
    (h : (s.page n).ke.session.isSome = true) : ((showKe n s).page n).ke.state = 1 := by
  unfold showKe
  dsimp only
  rw [page_updKe]
  simp [h, hj, hops, hc]

/-! ### The end of a session -/

theorem pendingFilter_eq (l : List (Nat × BitVec 20)) (h : BitVec 20) :
    (l.filter fun p => !(p.1 = n.val && p.2.toNat = h.toNat)) = l.filter fun p => ¬ p = (n.val, h) := by
  refine List.filter_congr fun p _ => ?_
  obtain ⟨a, b⟩ := p
  simp [BitVec.toNat_inj]

theorem endSession_frame : endSession n s = { s with tenants := (endSession n s).tenants, ks := (endSession n s).ks } := by
  unfold endSession
  split <;> rfl

theorem endSession_ks {x : KeSession} (h : (s.page n).ke.session = some x) :
    (endSession n s).ks = { s.ks with pendingH := s.ks.pendingH.filter fun p => ¬ p = (n.val, x.handle) } := by
  rw [endSession, h]
  exact congrArg (fun l => { s.ks with pendingH := l }) (pendingFilter_eq s.ks.pendingH x.handle)

/-- A session that ends with a result (09 R391). -/
theorem endedWith_leaves {code : Nat} {u : State} {x : KeSession} (hu : u.ks = s.ks)
    (hframe : u = { s with tenants := u.tenants }) (hother : ∀ m : Tenant, m ≠ n → u.page m = s.page m)
    (h : (u.page n).ke.session = some x) : ∃ t, t = showKe n (keResult n code (endSession n u)) ∧
      t = { s with tenants := t.tenants, ks := t.ks } ∧ (∀ m : Tenant, m ≠ n → t.page m = s.page m) ∧
      (t.page n).ke.session = none ∧ (t.page n).ke.result = BitVec.ofNat 4 code ∧
      t.ks = { s.ks with pendingH := s.ks.pendingH.filter fun p => ¬ p = (n.val, x.handle) } := by
  have honly : keyEntryOnly n u (showKe n (keResult n code (endSession n u))) :=
    keyEntryOnly_trans (keyEntryOnly_trans (endSession_keyEntryOnly u) (keResult_keyEntryOnly code _)) (showKe_keyEntryOnly _)
  obtain ⟨hall, hpages, -⟩ := honly
  refine ⟨_, rfl, ?_, fun m hm => (hpages m hm).trans (hother m hm), ?_, ?_, ?_⟩
  · rw [hall, hframe]
  · rw [showKe_session, keResult_session, endSession_session]
  · rw [showKe_result, keResult_result]
  · have hks : (keResult n code (endSession n u)).ks = (endSession n u).ks := by rw [keResult_frame]
    rw [showKe_ks, hks, endSession_ks h, hu]

end

end Sys2Proof.Machine
end

section
/-! PROOF. Key-entry sessions (09 R391, R392; 13 R501). -/
namespace Sys2Proof.Machine

section
variable {s : State} {i : Ident} {n : Tenant} {v : BitVec 64}

/-! ### The rest of the page -/

/-- `u` has the page of `s` but for the window of tenant `n`. -/
def windowOnly (n : Tenant) (s u : State) : Prop := u.page n = { s.page n with ke := (u.page n).ke }

theorem windowOnly_trans {u w : State} (hu : windowOnly n s u) (hw : windowOnly n u w) : windowOnly n s w := by
  unfold windowOnly at hu hw ⊢
  rw [hw, hu]

theorem windowOnly_updKe (f : KeyEntry → KeyEntry) (s : State) : windowOnly n s (s.updKe n f) := by
  unfold windowOnly
  rw [page_updKe]

theorem windowOnly_showKe (s : State) : windowOnly n s (showKe n s) := by
  unfold showKe
  exact windowOnly_updKe _ s

/-! ### START -/

/-- The session that a START opens (09 R391). -/
def openedBy (v : BitVec 64) (s : State) : KeSession :=
  { KeSession.reset with
    ncomp := fieldNat v 26 2, replace := bitAt v 25, handle := BitVec.ofNat 20 (keHandle v), lastTick := s.now }

/-- What START does where no session is open and its operands allow it (09 R391, R392). -/
def sessionOpened (n : Tenant) (v : BitVec 64) (s : State) : State :=
  (s.updKe n fun e => { e with session := some (openedBy v s), handle := (openedBy v s).handle }).updKs fun k =>
    { k with pendingH := addNew (n.val, (openedBy v s).handle) k.pendingH }

theorem startSession_open (h : (s.page n).ke.session.isSome = true) : startSession n v s = keResult n 7 s :=
  if_pos (by simp [h])

theorem startSession_opens (hnone : (s.page n).ke.session = none) (hc : keCommitting s n = false) (hroot : rootHere s = true)
    (hn : fieldNat v 26 2 = 2 ∨ fieldNat v 26 2 = 3) (ht : (templateOf s n.val (keHandle v)).any Template.clear = true)
    (hvacant : bitAt v 25 = false → isVacant s n.val (keHandle v) = true)
    (hoccupied : bitAt v 25 = true → isOccupied s n.val (keHandle v) = true ∧ mayReplace s = true) :
    startSession n v s = sessionOpened n v s := by
  have hbusy : ¬ ((s.page n).ke.session.isSome || keCommitting s n) = true := by simp [hnone, hc]
  have hright : (if bitAt v 25 = true then isOccupied s n.val (keHandle v) && mayReplace s
      else isVacant s n.val (keHandle v)) = true := by
    cases hb : bitAt v 25
    · exact hvacant hb
    · obtain ⟨ho, hr⟩ := hoccupied hb
      simp [ho, hr]
  unfold startSession
  dsimp only
  rw [if_neg hbusy, if_neg (by simp [hroot]), if_pos ⟨hn, ht, hright⟩]
  rfl

theorem sessionOpened_ke : ((sessionOpened n v s).page n).ke =
    { (s.page n).ke with session := some (openedBy v s), handle := (openedBy v s).handle } := by
  unfold sessionOpened
  exact congrArg TenantPage.ke
    (page_updKe (fun e => { e with session := some (openedBy v s), handle := (openedBy v s).handle }) s)

theorem sessionOpened_window : windowOnly n s (sessionOpened n v s) :=
  windowOnly_updKe (fun e => { e with session := some (openedBy v s), handle := (openedBy v s).handle }) s

theorem sessionOpened_keyEntryOnly : keyEntryOnly n s (sessionOpened n v s) :=
  keyEntryOnly_trans (updKe_keyEntryOnly (fun e => { e with session := some (openedBy v s), handle := (openedBy v s).handle }) s)
    ⟨rfl, fun _ _ => rfl, rfl⟩

/-- START of an OFFICER opens a session (09 R391, R392). -/
theorem exec_start_opens (h : s.mayWrite i n true) (hfree : keFree s n) (hjob : (s.page n).ke.job = none)
    (hc : keCommitting s n = false) (hnone : (s.page n).ke.session = none) (hroot : rootHere s = true)
    (hn : fieldNat v 26 2 = 2 ∨ fieldNat v 26 2 = 3) (ht : (templateOf s n.val (keHandle v)).any Template.clear = true)
    (hvacant : v.getLsbD 25 = false → isVacant s n.val (keHandle v) = true)
    (hoccupied : v.getLsbD 25 = true → isOccupied s n.val (keHandle v) = true ∧ mayReplace s = true) :
    exec (.start i n v) s = .next ((showKe n (sessionOpened n (withOp 1 v) (s.touched n))).respond 0) := by
  have hop : (keJobOf i n (withOp 1 v) s).op = 1 := keJobOf_op (by decide)
  have hnone' : ((s.touched n).page n).ke.session = none := by
    rw [touched_ke, touchSession, clearEntry, hnone]
    rfl
  have hperform : performKe n (keJobOf i n (withOp 1 v) s) (s.touched n) = startSession n (withOp 1 v) (s.touched n) :=
    if_pos hop
  refine congrArg Host.Outcome.next ((keCtrlWrite_eq h (by decide) (by decide)).trans ?_)
  rw [keCtrlDoes_starts (keFree_touched hfree) hop (touched_job.trans hjob) hc, hperform,
    startSession_opens hnone' hc hroot (by rw [ncomp_withOp]; exact hn) (by rw [keHandle_withOp (by decide)]; exact ht)
      (by rw [bitAt_withOp, keHandle_withOp (by decide)]; exact hvacant)
      (by rw [bitAt_withOp, keHandle_withOp (by decide)]; exact hoccupied)]

/-- The window of a session just opened shows it. -/
theorem sessionOpened_leaves (hfree : keFree s n) (hjob : (s.page n).ke.job = none) (hc : keCommitting s n = false) :
    ∃ t, t = (showKe n (sessionOpened n (withOp 1 v) (s.touched n))).respond 0 ∧
      t = { s with rsp := 0, tenants := t.tenants, ks := t.ks } ∧ (∀ m : Tenant, m ≠ n → t.page m = s.page m) ∧
      t.page n = { s.page n with ke := (t.page n).ke } ∧
      (t.page n).ke.session = some { ncomp := fieldNat v 26 2, replace := v.getLsbD 25, comps := [], compSym := [], idents := [],
                                     handle := BitVec.ofNat 20 (keHandle v), lastTick := s.now } ∧
      (t.page n).ke.state = 1 ∧ (n.val, BitVec.ofNat 20 (keHandle v)) ∈ t.ks.pendingH := by
  have hopened : openedBy (withOp 1 v) (s.touched n) =
      ⟨fieldNat v 26 2, v.getLsbD 25, [], [], [], BitVec.ofNat 20 (keHandle v), s.now⟩ := by
    rw [openedBy, ncomp_withOp, bitAt_withOp, keHandle_withOp (by decide)]
    rfl
  obtain ⟨-, hother, -⟩ := keyEntryOnly_trans (keyEntryOnly_trans (touched_keyEntryOnly (n := n) (s := s))
    (sessionOpened_keyEntryOnly (v := withOp 1 v))) (showKe_keyEntryOnly _)
  obtain ⟨-, hops, -⟩ := keFree_touched hfree
  refine ⟨_, rfl, rfl, hother, ?_, ?_, ?_, ?_⟩
  · exact windowOnly_trans (windowOnly_trans (windowOnly_updKe _ s) sessionOpened_window) (windowOnly_showKe _)
  · change ((showKe n _).page n).ke.session = _
    rw [showKe_session, sessionOpened_ke, hopened]
  · refine showKe_open ?_ ?_ hc ?_ <;> rw [sessionOpened_ke]
    · exact touched_job.trans hjob
    · exact hops
    · rfl
  · change _ ∈ addNew (n.val, (openedBy (withOp 1 v) (s.touched n)).handle) s.ks.pendingH
    rw [hopened]
    exact mem_addNew _ _

/-- START while a session is open (09 R391). -/
theorem exec_start_open (h : s.mayWrite i n true) (hfree : keFree s n) (hjob : (s.page n).ke.job = none)
    (hc : keCommitting s n = false) (hsome : (s.page n).ke.session.isSome = true) :
    ∃ t, exec (.start i n v) s = .next t ∧ (t.page n).ke.result = 7 ∧ t.ks = s.ks := by
  have hop : (keJobOf i n (withOp 1 v) s).op = 1 := keJobOf_op (by decide)
  have hsome' : ((s.touched n).page n).ke.session.isSome = true := by
    rw [touched_ke, touchSession, clearEntry]
    simpa using hsome
  have hperform : performKe n (keJobOf i n (withOp 1 v) s) (s.touched n) = startSession n (withOp 1 v) (s.touched n) :=
    if_pos hop
  refine ⟨(showKe n (keResult n 7 (s.touched n))).respond 0,
    congrArg Host.Outcome.next ((keCtrlWrite_eq h (by decide) (by decide)).trans ?_), ?_, ?_⟩
  · rw [keCtrlDoes_starts (keFree_touched hfree) hop (touched_job.trans hjob) hc, hperform, startSession_open hsome']
  · exact showKe_result.trans (keResult_result 7)
  · change (keResult n 7 (s.touched n)).ks = s.ks
    rw [keResult_frame]
    rfl

/-! ### COMPONENT and FINISH -/

/-- A write of COMPONENT or FINISH hands the registers to the unit (09 R391). -/
theorem keCtrlWrite_queues {op : Nat} (h : s.mayWrite i n true) (hfree : keFree s n) (hjob : (s.page n).ke.job = none)
    (hc : keCommitting s n = false) (hop : op = 2 ∨ op = 3) :
    ∃ t, Host.Outcome.next (pageWrite i n 0x300 (writeKeCtrl i n (withOp op v)) s) =
        (.next t : Host.Outcome State Fault Refusal) ∧
      t = { s with rsp := 0, tenants := t.tenants } ∧ (∀ m : Tenant, m ≠ n → t.page m = s.page m) ∧
      t.page n = { s.page n with ke := (t.page n).ke } ∧ (t.page n).ke.job = some (keJobOf i n (withOp op v) s) ∧
      (t.page n).ke.data = Vector.replicate 8 0 ∧ (t.page n).ke.state = 2 := by
  have hj : (keJobOf i n (withOp op v) s).op = 2 ∨ (keJobOf i n (withOp op v) s).op = 3 := by
    rw [keJobOf_op (by omega)]
    exact hop
  refine ⟨_, congrArg Host.Outcome.next (keCtrlWrite_eq h (by omega) (by omega)), ?_⟩
  rw [keCtrlDoes_queues (keFree_touched hfree) hj (touched_job.trans hjob) hc]
  generalize keJobOf i n (withOp op v) s = j
  have hke : (((s.touched n).updKe n fun e => { e with job := some j }).page n).ke =
      { touchSession s.now (clearEntry (s.page n).ke) with job := some j } := by rw [page_updKe, touched_page]
  obtain ⟨-, hother, -⟩ := keyEntryOnly_trans (keyEntryOnly_trans (touched_keyEntryOnly (n := n) (s := s))
    (updKe_keyEntryOnly (fun e => { e with job := some j }) _)) (showKe_keyEntryOnly _)
  refine ⟨rfl, hother, ?_, ?_, ?_, ?_⟩
  · exact windowOnly_trans (windowOnly_trans (windowOnly_updKe _ s) (windowOnly_updKe _ _)) (windowOnly_showKe _)
  · change ((showKe n _).page n).ke.job = _
    rw [showKe_page, hke]
  · change ((showKe n _).page n).ke.data = _
    rw [showKe_page, hke]
    rfl
  · refine showKe_busy ?_
    rw [hke]
    rfl

/-! ### CANCEL and the end for want of a write -/

/-- The window of a session that is cancelled keeps only an operation that is not of a session. -/
def State.uncomposed (s : State) (n : Tenant) : State :=
  (s.touched n).updKe n fun e => { e with job := e.job.filter fun j => j.op ≠ 2 ∧ j.op ≠ 3 }

theorem cancelSession_some (h : ((s.touched n).page n).ke.session.isSome = true) :
    cancelSession n (s.touched n) = keResult n 9 (endSession n (s.uncomposed n)) := by
  refine if_neg ?_
  rw [Option.isNone_iff_eq_none, ← Option.not_isSome_iff_eq_none]
  simp [h]

theorem uncomposed_session {x : KeSession} (h : (s.page n).ke.session = some x) :
    ((s.uncomposed n).page n).ke.session = some { x with lastTick := s.now } := by
  rw [State.uncomposed, page_updKe, touched_ke, touchSession, clearEntry, h]
  rfl

theorem exec_cancel {x : KeSession} (h : s.mayWrite i n true) (hx : (s.page n).ke.session = some x) :
    exec (.cancel i n v) s = .next ((showKe n (keResult n 9 (endSession n (s.uncomposed n)))).respond 0) := by
  have hsome : ((s.touched n).page n).ke.session.isSome = true := by
    rw [touched_ke, touchSession, clearEntry, hx]
    rfl
  refine congrArg Host.Outcome.next ((keCtrlWrite_eq h (by decide) (by decide)).trans ?_)
  rw [keCtrlDoes_cancels (keJobOf_op (by decide)), cancelSession_some hsome]

theorem exec_keSessionTimeout {x : KeSession} (hx : (s.page n).ke.session = some x) (hjob : (s.page n).ke.job = none)
    (hops : (s.page n).ke.heldOps = []) (hlate : x.lastTick + 268435456 ≤ s.now) :
    exec (.keSessionTimeout n) s = .next (showKe n (keResult n 8 (endSession n s))) := by
  change Host.Outcome.next (timeoutSession n s) = _
  unfold timeoutSession
  rw [hx]
  dsimp only
  rw [if_pos ⟨hlate, by simp [hjob], by simp [hops]⟩]

/-! ### The comparison ends -/

theorem startNextKe_idle (h : (s.page n).ke.heldOps = []) : startNextKe n s = s := by
  unfold startNextKe
  dsimp only
  rw [h]

/-- The window whose operation under way has been taken by the unit. -/
def State.jobTaken (s : State) (n : Tenant) : State := s.updKe n fun e => { e with job := none }

theorem jobTaken_ke : ((s.jobTaken n).page n).ke = { (s.page n).ke with job := none } := by
  rw [State.jobTaken, page_updKe]

theorem jobTaken_session : ((s.jobTaken n).page n).ke.session = (s.page n).ke.session := by rw [jobTaken_ke]

theorem postKeResult_eq {j : KeJob} (hops : (s.page n).ke.heldOps = []) (hj : (s.page n).ke.job = some j)
    (hw : keWorks s = true) (hop : j.op ≠ 6) :
    postKeResult n s = showKe n (startNextKe n (performKe n j (s.jobTaken n))) := by
  unfold postKeResult
  dsimp only
  rw [startNextKe_idle hops, hj]
  dsimp only
  exact if_neg (by simp [hw, hop])

section
variable {x : KeSession} {j : KeJob} {p : Template}

theorem submitComponent_same (hx : (s.page n).ke.session = some x) (hp : templateOf s n.val x.handle.toNat = some p)
    (hroom : x.comps.length < x.ncomp) (hsame : j.mixed = true ∨ j.ident ∈ x.idents) :
    submitComponent n j s = keResult n 6 s := by
  unfold submitComponent
  rw [hx]
  dsimp only
  rw [hp]
  dsimp only
  rw [if_neg (by omega), if_pos (by simpa using hsame)]

/-- The session that has accepted component `c` from identity `i` (09 R391). -/
def KeSession.with (x : KeSession) (c : Bytes) (i : Ident) : KeSession :=
  { x with comps := x.comps ++ [c], compSym := x.compSym ++ [symbolsOf c], idents := x.idents ++ [i] }

theorem submitComponent_kept (hx : (s.page n).ke.session = some x) (hp : templateOf s n.val x.handle.toNat = some p)
    (hroom : x.comps.length < x.ncomp) (hmixed : j.mixed = false) (hnew : j.ident ∉ x.idents)
    (hshort : templateBytes s p.alg.toNat p.size ≤ 64)
    (hkcv : kcvBits (keyKcv p.alg.toNat (keyForm p.alg.toNat (componentBytes s j (templateBytes s p.alg.toNat p.size))) []) = j.kcv) :
    submitComponent n j s = keResult n 1 (s.updKe n fun e =>
      { e with session := some (x.with (componentBytes s j (templateBytes s p.alg.toNat p.size)) j.ident) }) := by
  unfold submitComponent
  rw [hx]
  dsimp only
  rw [hp]
  dsimp only
  rw [if_neg (by omega), if_neg (by simp [hmixed, hnew]), if_pos hkcv, Nat.sub_eq_zero_of_le hshort]
  rfl

theorem submitComponent_wrong (hx : (s.page n).ke.session = some x) (hp : templateOf s n.val x.handle.toNat = some p)
    (hroom : x.comps.length < x.ncomp) (hmixed : j.mixed = false) (hnew : j.ident ∉ x.idents)
    (hshort : templateBytes s p.alg.toNat p.size ≤ 64)
    (hkcv : kcvBits (keyKcv p.alg.toNat (keyForm p.alg.toNat (componentBytes s j (templateBytes s p.alg.toNat p.size))) []) ≠ j.kcv) :
    submitComponent n j s = keResult n 4 s := by
  unfold submitComponent
  rw [hx]
  dsimp only
  rw [hp]
  dsimp only
  rw [if_neg (by omega), if_neg (by simp [hmixed, hnew]), if_neg hkcv, Nat.sub_eq_zero_of_le hshort]
  rfl

end

theorem performKe_component {j : KeJob} (h : j.op = 2) : performKe n j s = submitComponent n j s := by
  simp [performKe, h]

theorem performKe_finish {j : KeJob} (h : j.op = 3) : performKe n j s = finishSession n j s := by
  simp [performKe, h]

/-- What a comparison that only posts a result leaves: `w` is the state but for the result and STATE. -/
def postsOnly (n : Tenant) (code : Nat) (s w t : State) : Prop :=
  t = { s with tenants := t.tenants } ∧ (∀ m : Tenant, m ≠ n → t.page m = s.page m) ∧ (t.page n).ke.result = BitVec.ofNat 4 code ∧
    (t.page n).ke.job = (w.page n).ke.job ∧ (t.page n).ke.session = (w.page n).ke.session

theorem keResult_posts {code : Nat} {w : State} (hframe : w = { s with tenants := w.tenants })
    (hother : ∀ m : Tenant, m ≠ n → w.page m = s.page m) : postsOnly n code s w (showKe n (keResult n code w)) := by
  obtain ⟨-, hpages, -⟩ := keyEntryOnly_trans (keResult_keyEntryOnly (n := n) code w) (showKe_keyEntryOnly _)
  refine ⟨?_, fun m hm => (hpages m hm).trans (hother m hm), ?_, ?_, ?_⟩
  · rw [showKe_frame, keResult_frame, hframe]
  · rw [showKe_result, keResult_result]
  · rw [showKe_page, keResult_ke]
  · rw [showKe_session, keResult_session]

/-- The unit posts the result of the operation under way (09 R391). -/
theorem postKeResult_posts {j : KeJob} {w : State} {code : Nat} (hops : (s.page n).ke.heldOps = [])
    (hj : (s.page n).ke.job = some j) (hw : keWorks s = true) (hop : j.op ≠ 6)
    (hperform : performKe n j (s.jobTaken n) = keResult n code w) (hheld : (w.page n).ke.heldOps = [])
    (hframe : w = { s with tenants := w.tenants }) (hother : ∀ m : Tenant, m ≠ n → w.page m = s.page m) :
    ∃ t, exec (.keCompareResult n) s = .next t ∧ postsOnly n code s w t := by
  have hidle : ((keResult n code w).page n).ke.heldOps = [] := by rw [keResult_ke]; exact hheld
  refine ⟨_, congrArg Host.Outcome.next ((postKeResult_eq hops hj hw hop).trans ?_), keResult_posts hframe hother⟩
  rw [hperform, startNextKe_idle hidle]

theorem jobTaken_frame : s.jobTaken n = { s with tenants := (s.jobTaken n).tenants } := rfl

theorem jobTaken_other {m : Tenant} (h : m ≠ n) : (s.jobTaken n).page m = s.page m := by
  obtain ⟨-, hother, -⟩ := updKe_keyEntryOnly (n := n) (fun e => { e with job := none }) s
  exact hother m h

theorem jobTaken_held : ((s.jobTaken n).page n).ke.heldOps = (s.page n).ke.heldOps := by rw [jobTaken_ke]

/-! ### FINISH -/

section
variable {x : KeSession} {j : KeJob} {p : Template}

/-- The key that the accepted components give (09 R391). -/
def wholeKey (s : State) (p : Template) (x : KeSession) : Bytes :=
  keyForm p.alg.toNat (x.components.foldl xorBytes (fillBytes (templateBytes s p.alg.toNat p.size) 0))

/-- The window once FINISH has compared: its data is zeroised, and `x` is what is left of the session. -/
def State.finished (s : State) (n : Tenant) (x : Option KeSession) : State :=
  s.updKe n fun e => { clearEntry e with session := x }

theorem finishSession_wrong (hx : (s.page n).ke.session = some x) (hp : templateOf s n.val x.handle.toNat = some p)
    (hall : x.ncomp ≤ x.comps.length) (hkcv : kcvBits (keyKcv p.alg.toNat (wholeKey s p x) []) ≠ j.kcv) :
    finishSession n j s = keResult n 4 (s.finished n (some { x with comps := [], compSym := [], idents := [] })) := by
  unfold finishSession
  rw [hx]
  dsimp only
  rw [hp]
  dsimp only
  rw [if_neg (by omega)]
  exact if_pos hkcv

/-- The write that FINISH queues (09 R391). -/
def finishedCommit (s : State) (p : Template) (x : KeSession) : Commit :=
  { Commit.reset with
    record := newRecord s p x.handle.toNat (wholeKey s p x) [] p.exp, ke := true, replace := x.replace }

theorem finishSession_queues (hx : (s.page n).ke.session = some x) (hp : templateOf s n.val x.handle.toNat = some p)
    (hall : x.ncomp ≤ x.comps.length) (hkcv : kcvBits (keyKcv p.alg.toNat (wholeKey s p x) []) = j.kcv)
    (hrec : (recordNo s n.val x.handle.toNat).isSome = true) :
    finishSession n j s =
      (s.finished n none).updKs fun k => { k with commits := k.commits ++ [finishedCommit s p x] } := by
  unfold finishSession
  rw [hx]
  dsimp only
  rw [hp]
  dsimp only
  rw [if_neg (by omega)]
  refine (if_neg (not_not_intro hkcv)).trans (if_neg ?_)
  rw [show recordNo (s.updKe n _) n.val x.handle.toNat = recordNo s n.val x.handle.toNat from rfl, Option.isNone_iff_eq_none,
    ← Option.not_isSome_iff_eq_none]
  simp [hrec]

end

end

end Sys2Proof.Machine
end

section
/-! PROOF. Key-entry sessions settled (09 R391, R392; 13 R501). -/
namespace Sys2Proof.Machine

section
variable {s : State} {n : Tenant} {x : KeSession} {j : KeJob} {p : Template}

/-- The state of a unit whose operation under way can end. -/
def comparing (s : State) (n : Tenant) (x : KeSession) (j : KeJob) : Prop :=
  (s.page n).ke.session = some x ∧ (s.page n).ke.job = some j ∧ (s.page n).ke.heldOps = [] ∧ keWorks s = true

theorem templateBytes_jobTaken (a size : Nat) : templateBytes (s.jobTaken n) a size = templateBytes s a size := by
  have hcurve : ∀ id, (s.jobTaken n).curveBytes id = s.curveBytes id := fun _ => rfl
  simp only [templateBytes, hcurve]

theorem componentBytes_jobTaken (k : Nat) : componentBytes (s.jobTaken n) j k = componentBytes s j k := rfl

theorem wholeKey_jobTaken : wholeKey (s.jobTaken n) p x = wholeKey s p x := by
  rw [wholeKey, templateBytes_jobTaken]
  rfl

theorem finishedCommit_record : (finishedCommit s p x).record.value = wholeKey s p x ∧ (finishedCommit s p x).record.handle = x.handle := by
  unfold finishedCommit newRecord
  exact ⟨rfl, (BitVec.ofNat_toNat (m := 20) (x := x.handle)).trans (BitVec.setWidth_eq _)⟩

theorem componentCompared (h : comparing s n x j) (hp : templateOf s n.val x.handle.toNat = some p) (hop : j.op = 2)
    (hroom : x.comps.length < x.ncomp) (hshort : templateBytes s p.alg.toNat p.size ≤ 64) : ∃ t,
      exec (.keCompareResult n) s = .next t ∧ t = { s with tenants := t.tenants } ∧ (∀ m : Tenant, m ≠ n → t.page m = s.page m) ∧
      (t.page n).ke.job = none ∧
      (j.mixed = true ∨ j.ident ∈ x.idents → (t.page n).ke.session = some x ∧ (t.page n).ke.result = 6) ∧
      (j.mixed = false → j.ident ∉ x.idents →
        kcvBits (keyKcv p.alg.toNat (keyForm p.alg.toNat (componentBytes s j (templateBytes s p.alg.toNat p.size))) []) = j.kcv →
        (t.page n).ke.result = 1 ∧ (t.page n).ke.session =
          some (x.with (componentBytes s j (templateBytes s p.alg.toNat p.size)) j.ident)) ∧
      (j.mixed = false → j.ident ∉ x.idents →
        kcvBits (keyKcv p.alg.toNat (keyForm p.alg.toNat (componentBytes s j (templateBytes s p.alg.toNat p.size))) []) ≠ j.kcv →
        (t.page n).ke.result = 4 ∧ (t.page n).ke.session = some x) := by
  obtain ⟨hx, hj, hops, hw⟩ := h
  have hx' : ((s.jobTaken n).page n).ke.session = some x := jobTaken_session.trans hx
  have hheld : ((s.jobTaken n).page n).ke.heldOps = [] := jobTaken_held.trans hops
  have hjob : ((s.jobTaken n).page n).ke.job = none := by rw [jobTaken_ke]
  have hsame := submitComponent_same (s := s.jobTaken n) (j := j) hx' hp hroom
  have hkept := submitComponent_kept (s := s.jobTaken n) (j := j) hx' hp hroom
  have hwrong := submitComponent_wrong (s := s.jobTaken n) (j := j) hx' hp hroom
  have hop6 : j.op ≠ 6 := by omega
  rw [← performKe_component hop] at hsame hkept hwrong
  rw [templateBytes_jobTaken, componentBytes_jobTaken] at hkept hwrong
  generalize componentBytes s j (templateBytes s p.alg.toNat p.size) = c at hkept hwrong ⊢
  generalize kcvBits (keyKcv p.alg.toNat (keyForm p.alg.toNat c) []) = k at hkept hwrong ⊢
  by_cases hseen : j.mixed = true ∨ j.ident ∈ x.idents
  · obtain ⟨t, ht, hframe, hother, hres, hjobt, hsess⟩ := postKeResult_posts hops hj hw hop6 (hsame hseen) hheld jobTaken_frame
      fun m hm => jobTaken_other hm
    refine ⟨t, ht, hframe, hother, hjobt.trans hjob, fun _ => ⟨hsess.trans hx', hres⟩, fun hm hn => ?_, fun hm hn => ?_⟩ <;>
      simp [hm, hn] at hseen
  · rw [not_or, Bool.not_eq_true] at hseen
    obtain ⟨hmixed, hnew⟩ := hseen
    have hnot : ¬ (j.mixed = true ∨ j.ident ∈ x.idents) := by simp [hmixed, hnew]
    by_cases hkcv : k = j.kcv
    · have hke : ((s.jobTaken n).updKe n fun e => { e with session := some (x.with c j.ident) } : State).page n =
          { (s.jobTaken n).page n with ke := { ((s.jobTaken n).page n).ke with session := some (x.with c j.ident) } } :=
        page_updKe _ _
      obtain ⟨t, ht, hframe, hother, hres, hjobt, hsess⟩ := postKeResult_posts hops hj hw hop6
        (hkept hmixed hnew hshort hkcv) (by rw [hke]; exact hheld) rfl fun m hm =>
          ((updKe_keyEntryOnly _ _).2.1 m hm).trans (jobTaken_other hm)
      refine ⟨t, ht, hframe, hother, ?_, fun h => absurd h hnot, fun _ _ _ => ⟨hres, ?_⟩, fun _ _ h => absurd hkcv h⟩
      · rw [hjobt, hke]
        exact hjob
      · rw [hsess, hke]
    · obtain ⟨t, ht, hframe, hother, hres, hjobt, hsess⟩ := postKeResult_posts hops hj hw hop6
        (hwrong hmixed hnew hshort hkcv) hheld jobTaken_frame fun m hm => jobTaken_other hm
      exact ⟨t, ht, hframe, hother, hjobt.trans hjob, fun h => absurd h hnot, fun _ _ h => absurd h hkcv,
        fun _ _ _ => ⟨hres, hsess.trans hx'⟩⟩

theorem finishCompared (h : comparing s n x j) (hp : templateOf s n.val x.handle.toNat = some p) (hop : j.op = 3)
    (hall : x.ncomp ≤ x.comps.length) :
    (kcvBits (keyKcv p.alg.toNat (wholeKey s p x) []) = j.kcv → (recordNo s n.val x.handle.toNat).isSome = true → ∃ t c,
      exec (.keCompareResult n) s = .next t ∧ t = { s with tenants := t.tenants, ks := { s.ks with commits := s.ks.commits ++ [c] } } ∧
      (t.page n).ke.session = none ∧ c.ke = true ∧ c.rid = none ∧ c.record.value = wholeKey s p x ∧ c.record.handle = x.handle) ∧
    (kcvBits (keyKcv p.alg.toNat (wholeKey s p x) []) ≠ j.kcv → ∃ t, exec (.keCompareResult n) s = .next t ∧
      t = { s with tenants := t.tenants } ∧ (t.page n).ke.result = 4 ∧
      (t.page n).ke.session = some { x with comps := [], compSym := [], idents := [] }) := by
  obtain ⟨hx, hj, hops, hw⟩ := h
  have hx' : ((s.jobTaken n).page n).ke.session = some x := jobTaken_session.trans hx
  have hop6 : j.op ≠ 6 := by omega
  have hfinished : ∀ y, (((s.jobTaken n).finished n y).page n).ke = { clearEntry ((s.jobTaken n).page n).ke with session := y } := by
    intro y
    rw [State.finished, page_updKe]
  have hheld : ∀ y, (((s.jobTaken n).finished n y).page n).ke.heldOps = [] := by
    intro y
    rw [hfinished]
    exact jobTaken_held.trans hops
  refine ⟨fun hkcv hrec => ?_, fun hkcv => ?_⟩
  · have hperform := finishSession_queues (s := s.jobTaken n) (j := j) hx' hp hall (by rw [wholeKey_jobTaken]; exact hkcv) hrec
    rw [← performKe_finish hop] at hperform
    obtain ⟨hvalue, hhandle⟩ := finishedCommit_record (s := s.jobTaken n) (p := p) (x := x)
    rw [wholeKey_jobTaken] at hvalue
    have hflags : (finishedCommit (s.jobTaken n) p x).ke = true ∧ (finishedCommit (s.jobTaken n) p x).rid = none := ⟨rfl, rfl⟩
    generalize finishedCommit (s.jobTaken n) p x = c at hperform hvalue hhandle hflags
    refine ⟨showKe n (((s.jobTaken n).finished n none).updKs fun k => { k with commits := k.commits ++ [c] }),
      c, congrArg Host.Outcome.next ?_, rfl, ?_, hflags.1, hflags.2, hvalue, hhandle⟩
    · rw [postKeResult_eq hops hj hw hop6, hperform]
      exact congrArg (showKe n) (startNextKe_idle (hheld none))
    · rw [showKe_session]
      exact congrArg KeyEntry.session (hfinished none)
  · have hperform := finishSession_wrong (s := s.jobTaken n) (j := j) hx' hp hall (by rw [wholeKey_jobTaken]; exact hkcv)
    rw [← performKe_finish hop] at hperform
    obtain ⟨t, ht, hframe, -, hres, -, hsess⟩ := postKeResult_posts hops hj hw hop6 hperform (hheld _) rfl
      fun m hm => ((updKe_keyEntryOnly _ _).2.1 m hm).trans (jobTaken_other hm)
    exact ⟨t, ht, hframe, hres, hsess.trans (by rw [hfinished])⟩

end

/-- Settles O45, by the equation of each write of TN_KE_CTRL and of each comparison that the unit ends. -/
theorem keyEntrySessions : Obligations.KeyEntrySessions := by
  unfold Obligations.KeyEntrySessions
  refine ⟨fun s i n v h hw hheld hops hjob hc => ?_, fun s i n v x h hx => ?_, fun s n x hx hjob hops hlate => ?_,
    fun s n x j p hx hj hops hw hp => ?_⟩
  · have hfree : keFree s n := ⟨hheld, hops, hw⟩
    refine ⟨fun hnone hroot hn ht hvacant hoccupied => ?_, exec_start_open h hfree hjob hc,
      keCtrlWrite_queues h hfree hjob hc (.inl rfl), keCtrlWrite_queues h hfree hjob hc (.inr rfl)⟩
    obtain ⟨t, ht', hleaves⟩ := sessionOpened_leaves (v := v) hfree hjob hc
    refine ⟨t, ?_, hleaves⟩
    rw [ht']
    exact exec_start_opens h hfree hjob hc hnone hroot hn ht hvacant hoccupied
  · obtain ⟨t, ht, hframe, hother, hsess, hres, hks⟩ := endedWith_leaves (n := n) (code := 9) (s := s) (u := s.uncomposed n) rfl rfl
      (fun m hm => ((updKe_keyEntryOnly _ _).2.1 m hm).trans (touched_keyEntryOnly.2.1 m hm)) (uncomposed_session hx)
    refine ⟨t.respond 0, ?_, ?_, hother, hsess, hres, hks⟩
    · rw [ht]
      exact exec_cancel h hx
    · rw [hframe]
      rfl
  · obtain ⟨t, ht, hleaves⟩ := endedWith_leaves (n := n) (code := 8) (s := s) rfl rfl (fun _ _ => rfl) hx
    refine ⟨t, ?_, hleaves⟩
    rw [ht]
    exact exec_keSessionTimeout hx hjob hops hlate
  · have hcomparing : comparing s n x j := ⟨hx, hj, hops, hw⟩
    refine ⟨fun hop hroom hshort => componentCompared hcomparing hp hop hroom hshort, fun value hop hall hvalue => ?_⟩
    subst hvalue
    exact finishCompared hcomparing hp hop hall

end Sys2Proof.Machine
end

section
/-! PROOF. INVALIDATE (09 R399, Table 09-7; 13 R506; 01 R47). -/
namespace Sys2Proof.Machine

section
variable {s : State} {i : Ident} {n : Tenant} {v : BitVec 64} {j : KeJob}

/-- The state once INVALIDATE has taken its handle, from the next boundary on (09 R399). -/
def handleTaken (n : Tenant) (h : Nat) (s : State) : State :=
  (s.updKe n fun e => { e with handle := BitVec.ofNat 20 h }).updKs fun k =>
    { k with inval := satInc 0xFFFF k.inval, invalNext := addNew (n.val, BitVec.ofNat 20 h) k.invalNext }

/-- The write of a record's tomb (09 R399). -/
def tombCommit (r : StoreRec) : Commit :=
  { Commit.reset with record := { r with tomb := true, value := [], pub := [] }, ke := true }

/-- What is left to do once the handle is taken: a tomb, a list entry, or nothing (09 R399). -/
def endHandle (n : Tenant) (j : KeJob) (s : State) : State :=
  if isRecordHandle (keHandle j.value) then
    match recordOf s n.val (keHandle j.value) with
    | some r => s.updKs fun k => { k with commits := k.commits ++ [tombCommit r] }
    | none => keResult n 3 s
  else if s.pwr.nvmLow || !procWorks s 0 then s.updKe n (waitForList { j with op := 6 })
  else listNode n (keHandle j.value) s

theorem invalidateHandle_unrooted (h : rootHere s = false) : invalidateHandle n j s = keResult n 12 s :=
  if_pos (by simp [h])

theorem invalidateHandle_refused (h : rootHere s = true) (hm : mayInvalidate s n (keHandle j.value) = false) :
    invalidateHandle n j s = keResult n 5 s :=
  (if_neg (by simp [h])).trans (if_pos (by simp [hm]))

theorem invalidateHandle_full (h : rootHere s = true) (hm : mayInvalidate s n (keHandle j.value) = true)
    (hnode : isRecordHandle (keHandle j.value) = false) (hfull : 65536 ≤ s.store.inval.length) :
    invalidateHandle n j s = keResult n 11 s :=
  (if_neg (by simp [h])).trans ((if_neg (by simp [hm])).trans (if_pos ⟨by simp [hnode], hfull⟩))

theorem invalidateHandle_taken (h : rootHere s = true) (hm : mayInvalidate s n (keHandle j.value) = true)
    (hroom : isRecordHandle (keHandle j.value) = true ∨ s.store.inval.length < 65536) :
    invalidateHandle n j s = endHandle n j (handleTaken n (keHandle j.value) s) := by
  have hfits : ¬ ((!isRecordHandle (keHandle j.value)) = true ∧ s.store.inval.length ≥ 65536) := by
    rintro ⟨hnode, hfull⟩
    obtain hr | hr := hroom
    · simp [hr] at hnode
    · omega
  exact (if_neg (by simp [h])).trans ((if_neg (by simp [hm])).trans (if_neg hfits))

/-- INVALIDATE of an OFFICER whose operation nothing holds (09 R391, R399). -/
theorem exec_invalidate (h : s.mayWrite i n true) (hfree : keFree s n) : exec (.invalidate i n v) s =
    .next ((showKe n (invalidateHandle n (keJobOf i n (withOp 5 v) s) (s.touched n))).respond 0) := by
  have hop : (keJobOf i n (withOp 5 v) s).op = 5 := keJobOf_op (by decide)
  refine congrArg Host.Outcome.next ((keCtrlWrite_eq h (by decide) (by decide)).trans ?_)
  rw [keCtrlDoes_invalidates (keFree_touched hfree) hop]
  simp [performKe, hop]

theorem keHandle_job : keHandle (keJobOf i n (withOp 5 v) s).value = keHandle v := keHandle_withOp (by decide) v

theorem mayInvalidate_touched (h : Nat) : mayInvalidate (s.touched n) n h = mayInvalidate s n h := rfl

/-- A refusal posts its result and leaves custody alone (09 R399). -/
theorem refusedWith_leaves (code : Nat) : ∃ t, t = (showKe n (keResult n code (s.touched n))).respond 0 ∧
    t = { s with rsp := 0, tenants := t.tenants } ∧ (t.page n).ke.result = BitVec.ofNat 4 code := by
  refine ⟨_, rfl, ?_, showKe_result.trans (keResult_result code)⟩
  rw [showKe_frame, keResult_frame]
  rfl

/-! ### What is left of a handle that is taken -/

theorem endHandle_record {r : StoreRec} (hrec : isRecordHandle (keHandle j.value) = true)
    (hr : recordOf s n.val (keHandle j.value) = some r) :
    endHandle n j s = s.updKs fun k => { k with commits := k.commits ++ [tombCommit r] } := by
  rw [endHandle, if_pos hrec, hr]

theorem endHandle_received (hrec : isRecordHandle (keHandle j.value) = true) (hr : recordOf s n.val (keHandle j.value) = none) :
    endHandle n j s = keResult n 3 s := by
  rw [endHandle, if_pos hrec, hr]

theorem endHandle_waits (hrec : isRecordHandle (keHandle j.value) = false) (h : s.pwr.nvmLow = true ∨ procWorks s 0 = false) :
    endHandle n j s = s.updKe n (waitForList { j with op := 6 }) := by
  rw [endHandle, if_neg (by simp [hrec]), if_pos (by simpa using h)]

theorem endHandle_lists (hrec : isRecordHandle (keHandle j.value) = false) (hlow : s.pwr.nvmLow = false)
    (hp : procWorks s 0 = true) : endHandle n j s = listNode n (keHandle j.value) s := by
  rw [endHandle, if_neg (by simp [hrec]), if_neg (by simp [hlow, hp])]

theorem listNode_frame (h : Nat) : listNode n h s = { s with tenants := (listNode n h s).tenants, nvm := (listNode n h s).nvm } := by
  unfold listNode
  split <;> exact (keResult_frame 3).trans rfl

theorem listNode_other (h : Nat) {m : Tenant} (hm : m ≠ n) : (listNode n h s).page m = s.page m := by
  unfold listNode
  split
  · exact (keResult_keyEntryOnly 3 _).2.1 m hm
  · exact (keResult_keyEntryOnly 3 _).2.1 m hm

/-- The list of the area in force, with an entry (09 R399). -/
theorem store_updStore (f : StoreArea → StoreArea) : (s.updStore f).store = f s.store := by
  by_cases h : s.nvm.ksArea = true <;> simp [State.updStore, State.store, State.updNvm, h]

theorem listNode_node {h x : Nat} {nd : Node} (hn : nodeOf s n.val h = some (x, nd)) :
    (x, labelDigest nd) ∈ (listNode n h s).store.inval ∧ ((listNode n h s).page n).ke.result = 3 := by
  rw [listNode, hn]
  dsimp only
  refine ⟨?_, keResult_result 3⟩
  have hstore : (keResult n 3 (s.updStore fun a => { a with inval := addNew (x, labelDigest nd) a.inval })).store =
      (s.updStore fun a => { a with inval := addNew (x, labelDigest nd) a.inval }).store := by
    rw [keResult_frame]
    rfl
  rw [hstore, store_updStore]
  exact mem_addNew _ _

theorem endHandle_frame : endHandle n j s = { s with
    tenants := (endHandle n j s).tenants, nvm := (endHandle n j s).nvm,
    ks := { s.ks with commits := (endHandle n j s).ks.commits } } := by
  unfold endHandle
  (repeat' split)
  · rfl
  · rw [keResult_frame]
  · rfl
  · rw [listNode_frame]

theorem endHandle_other {m : Tenant} (h : m ≠ n) : (endHandle n j s).page m = s.page m := by
  unfold endHandle
  (repeat' split)
  · rfl
  · exact (keResult_keyEntryOnly 3 _).2.1 m h
  · exact (updKe_keyEntryOnly _ _).2.1 m h
  · exact listNode_other _ h

theorem waitForList_holds (j : KeJob) (e : KeyEntry) : (waitForList j e).job = some j ∨ j ∈ (waitForList j e).heldOps := by
  unfold waitForList
  split <;> simp

/-! ### The state of a handle just taken -/

/-- The state in which INVALIDATE has taken handle `h`. -/
def State.taking (s : State) (n : Tenant) (h : Nat) : State := handleTaken n h (s.touched n)

theorem taking_frame (h : Nat) : s.taking n h = { s with tenants := (s.taking n h).tenants, ks := (s.taking n h).ks } := rfl

theorem taking_other (h : Nat) {m : Tenant} (hm : m ≠ n) : (s.taking n h).page m = s.page m :=
  ((updKe_keyEntryOnly (n := n) (fun e => { e with handle := BitVec.ofNat 20 h }) (s.touched n)).2.1 m hm).trans
    (touched_keyEntryOnly.2.1 m hm)

theorem taking_ks (h : Nat) : (s.taking n h).ks = { s.ks with
    inval := min 0xFFFF (s.ks.inval + 1), invalNext := addNew (n.val, BitVec.ofNat 20 h) s.ks.invalNext } := rfl

/-- What INVALIDATE leaves of a handle that it takes (09 R399). -/
theorem taken_leaves {h : Nat} (hj : keHandle j.value = h) {t : State}
    (ht : t = (showKe n (endHandle n j (s.taking n h))).respond 0) :
    t = { s with rsp := 0, tenants := t.tenants, ks := t.ks, nvm := t.nvm } ∧ (∀ m : Tenant, m ≠ n → t.page m = s.page m) ∧
      (n.val, BitVec.ofNat 20 h) ∈ t.ks.invalNext ∧ t.ks.inval = min 0xFFFF (s.ks.inval + 1) ∧
      t.ks = { s.ks with invalNext := t.ks.invalNext, inval := t.ks.inval, commits := t.ks.commits } ∧
      (∀ r, isRecordHandle h = true → recordOf s n.val h = some r → t.nvm = s.nvm ∧
        ∃ c, t.ks.commits = s.ks.commits ++ [c] ∧ c.ke = true ∧ c.record = { r with tomb := true, value := [], pub := [] }) ∧
      (isRecordHandle h = true → recordOf s n.val h = none →
        t.nvm = s.nvm ∧ t.ks.commits = s.ks.commits ∧ (t.page n).ke.result = 3) ∧
      (∀ x nd, isRecordHandle h = false → s.pwr.nvmLow = false → procWorks s 0 = true → nodeOf s n.val h = some (x, nd) →
        t.ks.commits = s.ks.commits ∧ (x, labelDigest nd) ∈ t.store.inval ∧ (t.page n).ke.result = 3) ∧
      (isRecordHandle h = false → s.pwr.nvmLow = true ∨ procWorks s 0 = false →
        t.nvm = s.nvm ∧ t.ks.commits = s.ks.commits ∧ ∃ j, j.op = 6 ∧ keHandle j.value = h ∧
          ((t.page n).ke.job = some j ∨ j ∈ (t.page n).ke.heldOps)) := by
  subst hj
  have hframe := endHandle_frame (n := n) (j := j) (s := s.taking n (keHandle j.value))
  have hks := taking_ks (s := s) (n := n) (keHandle j.value)
  have hout : t.ks = (endHandle n j (s.taking n (keHandle j.value))).ks ∧ t.nvm = (endHandle n j (s.taking n (keHandle j.value))).nvm ∧
      t.store = (endHandle n j (s.taking n (keHandle j.value))).store := by subst ht; exact ⟨rfl, rfl, rfl⟩
  have hke : (t.page n).ke = { ((endHandle n j (s.taking n (keHandle j.value))).page n).ke with state := (t.page n).ke.state } := by
    subst ht
    exact congrArg TenantPage.ke showKe_page
  have hall : t.ks = { (s.taking n (keHandle j.value)).ks with commits := t.ks.commits } := by
    rw [hout.1]
    exact congrArg State.ks hframe
  refine ⟨?_, fun m hm => ?_, ?_, ?_, ?_, fun r hrec hr => ?_, fun hrec hr => ?_, fun x nd hrec hlow hp hn => ?_, fun hrec hwait => ?_⟩
  · subst ht
    rw [showKe_frame, hframe]
    rfl
  · subst ht
    exact ((showKe_keyEntryOnly _).2.1 m hm).trans ((endHandle_other hm).trans (taking_other _ hm))
  · rw [hall, hks]
    exact mem_addNew _ _
  · rw [hall, hks]
  · rw [hall, hks]
  · have heq := endHandle_record (n := n) (s := s.taking n (keHandle j.value)) hrec hr
    refine ⟨?_, tombCommit r, ?_, rfl, rfl⟩
    · rw [hout.2.1, heq]
      rfl
    · rw [hout.1, heq]
      rfl
  · have heq := endHandle_received (n := n) (s := s.taking n (keHandle j.value)) hrec hr
    refine ⟨?_, ?_, ?_⟩
    · rw [hout.2.1, heq, keResult_frame]
      rfl
    · rw [hout.1, heq, keResult_frame]
      rfl
    · rw [hke, heq]
      exact keResult_result 3
  · have heq := endHandle_lists (n := n) (s := s.taking n (keHandle j.value)) hrec hlow hp
    obtain ⟨hlist, hres⟩ := listNode_node (s := s.taking n (keHandle j.value)) hn
    refine ⟨?_, ?_, ?_⟩
    · rw [hout.1, heq, listNode_frame]
      rfl
    · rw [hout.2.2, heq]
      exact hlist
    · rw [hke, heq]
      exact hres
  · have heq := endHandle_waits (n := n) (s := s.taking n (keHandle j.value)) hrec hwait
    refine ⟨?_, ?_, { j with op := 6 }, rfl, rfl, ?_⟩
    · rw [hout.2.1, heq]
      rfl
    · rw [hout.1, heq]
      rfl
    · rw [hke, heq, page_updKe]
      exact waitForList_holds _ _

end

/-- Settles O46, by the outcome of INVALIDATE in each of its cases. -/
theorem invalidationTakesHandles : Obligations.InvalidationTakesHandles := by
  unfold Obligations.InvalidationTakesHandles
  intro s i n v h hmay hw hheld hops hh
  have hexec := exec_invalidate (v := v) hmay ⟨hheld, hops, hw⟩
  have hj : keHandle (keJobOf i n (withOp 5 v) s).value = h := keHandle_job.trans hh.symm
  generalize keJobOf i n (withOp 5 v) s = j at hexec hj
  subst hh
  rw [← hj]
  refine ⟨fun hroot => ?_, fun hroot hm => ?_, fun hroot hm hnode hfull => ?_, fun hroot hm hroom => ?_⟩
  · obtain ⟨t, ht, hleaves⟩ := refusedWith_leaves (n := n) (s := s) 12
    refine ⟨t, ?_, hleaves⟩
    rw [hexec, ht, invalidateHandle_unrooted (s := s.touched n) hroot]
  · obtain ⟨t, ht, hleaves⟩ := refusedWith_leaves (n := n) (s := s) 5
    refine ⟨t, ?_, hleaves⟩
    rw [hexec, ht, invalidateHandle_refused (s := s.touched n) hroot hm]
  · obtain ⟨t, ht, hleaves⟩ := refusedWith_leaves (n := n) (s := s) 11
    refine ⟨t, ?_, hleaves⟩
    rw [hexec, ht, invalidateHandle_full (s := s.touched n) hroot hm hnode hfull]
  · refine ⟨_, ?_, taken_leaves rfl rfl⟩
    rw [hexec, invalidateHandle_taken (s := s.touched n) hroot hm hroom]
    rfl

end Sys2Proof.Machine
end

section
/-! PROOF. Life-cycle transitions and seals (15 R550 to R557; 18 R620). -/
namespace Sys2Proof.Machine

/-! ### Requests -/

section
variable {s : State} {m : Msg}

/-- The life cycle once a transition to `x` is taken (15 R551). -/
def transitionTaken (seq x : Nat) (s : State) : State := s.updLc fun l =>
  { l with next := BitVec.ofNat 4 x, phase := 0, slot := (freeSlot s x).getD 0, burning := 1, wiped := false,
           seq := some (BitVec.ofNat 16 seq) }

theorem startTransition_stays {x : Nat} (h : wipes x = false) (seq : Nat) (s : State) :
    startTransition seq x s = transitionTaken seq x s := if_neg (by simp [h])

theorem startTransition_wipes {x : Nat} (h : wipes x = true) (seq : Nat) (s : State) :
    startTransition seq x s = quiesce (transitionTaken seq x s) := if_pos h

/-- A request once the block is quiesced: it stops, unless its end is awaited. -/
theorem quiesce_stops (s : State) : ∀ r ∈ (quiesce s).reqs, pastAbort true r = true ∨ r.stopAt ≠ none := by
  intro r hr
  obtain ⟨q, -, rfl⟩ := List.mem_map.mp hr
  have hreset : ∀ u : State, abortedByReset (u.updLc fun l => { l with quiesced := true }) q = true := fun u => by
    simp [abortedByReset, State.updLc]
  rw [hreset]
  dsimp only
  split
  · exact .inr (by simp)
  case isFalse h =>
    obtain hp | hp := Bool.eq_false_or_eq_true (pastAbort true q)
    · exact .inl hp
    · exact .inr fun hs => h (by simp [hp, hs])

theorem quiesce_frame (s : State) : quiesce s = { s with reqs := (quiesce s).reqs, lc := { s.lc with quiesced := true } } := rfl

section
variable {x : Nat} (hm : s.requestIs 0x0206 m) (hop : byteAt m.params 0 = 1) (hx : x = byteAt m.params 1) (hpay : m.payload = 0)
  (hlen : m.paylen = 0) (hpar : allZero (m.params.drop 3) = true)

include hm hop hx hpay hlen hpar in
theorem exec_lifeCycleTransition : exec .lifeCycleTransition s =
    .next (if transitionCheck s x (byteAt m.params 2) ≠ 0 then
        answer m (transitionCheck s x (byteAt m.params 2)) (takeMessage m s)
      else startTransition m.seq x (answer m 1 (takeMessage m s))) := by
  have hcheck : transitionCheck (takeMessage m s) x (byteAt m.params 2) = transitionCheck s x (byteAt m.params 2) := by
    rw [takeMessage_mgmtFrame (requestIs_mgmtBox hm rfl)]
    rfl
  change execLifeCycleTransition s = _
  unfold execLifeCycleTransition
  rw [hm.1]
  dsimp only
  rw [if_neg (by omega), onRequest_go hm]
  rw [if_neg (by rintro (h | h | h | h) <;> first | omega | exact h hpar), ← hx, hcheck]
  rfl

/-- The check that a transition needs a free slot for passes only with one (15 R549). -/
theorem freeSlot_checked {s : State} {x comp : Nat} (h : transitionCheck s x comp = 0) : some ((freeSlot s x).getD 0) = freeSlot s x := by
  cases hs : freeSlot s x with
  | some k => rfl
  | none =>
    exfalso
    unfold transitionCheck at h
    (repeat' split at h) <;> simp_all

include hm hop hx hpay hlen hpar in
/-- A transition that passes its checks (15 R551, R552). -/
theorem transitionBegins (hc : transitionCheck s x (byteAt m.params 2) = 0) : ∃ t, exec .lifeCycleTransition s = .next t ∧
    t = { s with mgmt := t.mgmt, lc := t.lc, reqs := t.reqs } ∧ t.answered m.box 0x0206 m.seq 1 ∧ t.lc.burning = 1 ∧
    t.lc.next = BitVec.ofNat 4 x ∧ t.lc.state = s.lc.state ∧ some t.lc.slot = freeSlot s x ∧
    t.lc.quiesced = (s.lc.quiesced || wipes x) ∧ (wipes x = false → t.reqs = s.reqs) ∧
    (wipes x = true → ∀ r ∈ t.reqs, pastAbort true r = true ∨ r.stopAt ≠ none) := by
  have hexec := exec_lifeCycleTransition hm hop hx hpay hlen hpar
  rw [if_neg (not_not_intro hc)] at hexec
  have hans : (answer m 1 (takeMessage m s)).answered m.box 0x0206 m.seq 1 := answer_request (requestIs_code hm) _ _
  have hframe : answer m 1 (takeMessage m s) = { s with mgmt := (answer m 1 (takeMessage m s)).mgmt } := by
    rw [takeMessage_mgmtFrame (requestIs_mgmtBox hm rfl)]
    rfl
  generalize answer m 1 (takeMessage m s) = u at hexec hans hframe
  have hslot : some ((freeSlot u x).getD 0) = freeSlot s x := by
    rw [hframe]
    exact freeSlot_checked hc
  have htaken : transitionTaken m.seq x u = { s with mgmt := u.mgmt, lc := (transitionTaken m.seq x u).lc } := by
    rw [hframe]
    rfl
  have hstate : u.lc.state = s.lc.state := by rw [hframe]
  have hquiet : u.lc.quiesced = s.lc.quiesced := by rw [hframe]
  cases hw : wipes x with
  | false =>
    rw [startTransition_stays hw] at hexec
    refine ⟨_, hexec, ?_, answered_of_replies rfl hans, rfl, rfl, hstate, hslot,
      hquiet.trans (by simp), fun _ => ?_, by simp⟩
    · rw [htaken]
    · rw [htaken]
  | true =>
    rw [startTransition_wipes hw] at hexec
    refine ⟨_, hexec, ?_, answered_of_replies rfl hans, rfl, rfl, hstate, hslot, (Bool.or_true _).symm,
      by simp, fun _ => quiesce_stops _⟩
    rw [quiesce_frame, htaken]

include hm hop hx hpay hlen hpar in
/-- A transition that fails a check (15 R551, Table 15-4). -/
theorem transitionRefused (hc : transitionCheck s x (byteAt m.params 2) ≠ 0) : ∃ t, exec .lifeCycleTransition s = .next t ∧
    t = { s with mgmt := t.mgmt } ∧ t.answered m.box 0x0206 m.seq (transitionCheck s x (byteAt m.params 2)) := by
  have hexec := exec_lifeCycleTransition hm hop hx hpay hlen hpar
  rw [if_pos hc] at hexec
  refine ⟨_, hexec, ?_, answer_request (requestIs_code hm) _ _⟩
  rw [takeMessage_mgmtFrame (requestIs_mgmtBox hm rfl)]
  rfl

end

/-- The state in which the payload of a seal has been read (15 R557). -/
def sealRead (m : Msg) (s : State) : State := startRead 2 m.payload 97 (takeMessage m s)

theorem sealRead_frame (hb : m.box = none) : sealRead m s =
    { s with mgmt := (sealRead m s).mgmt, fab := { s.fab with mgmt := (sealRead m s).fab.mgmt } } := by
  unfold sealRead
  rw [startRead_frame, takeMessage_mgmtFrame hb]

theorem sealRead_replies (hb : m.box = none) : (sealRead m s).mgmt.replies = s.mgmt.replies := by
  have hread : ∀ u : State, (startRead 2 m.payload 97 u).mgmt = u.mgmt := fun u => by rw [startRead_frame]
  rw [sealRead, hread, takeMessage, hb]
  rfl

/-- The authority set whose rows a seal burns next (15 R557). -/
def sealTaken (m : Msg) (k : Nat) (b : Bytes) (s : State) : State := s.updLc fun l =>
  { l with sealJob := some (byteAt m.params 1, 0, sha384 (b.take 97)), sealSet := k, burning := 3, seq := some (BitVec.ofNat 16 m.seq) }

theorem exec_authoritySeal {b : Bytes} {k : Nat} (hm : s.requestIs 0x0206 m) (hop : byteAt m.params 0 = 2) (hst : s.lc.state = 4)
    (hkind : byteAt m.params 1 = 1 ∨ byteAt m.params 1 = 2) (hlen : m.paylen = 97) (hpar : allZero (m.params.drop 2) = true)
    (hpay : payloadOk s m.tenant m.payload 97 true false = true) (hfree : freeSet s (byteAt m.params 1) = some k)
    (hseal : sealedHash s (byteAt m.params 1) = none) (hphase : s.lc.phase ≠ 3) : exec (.authoritySeal b) s =
    .next (if (!validP384 s (b.take 97)) = true then answer m 8 (sealRead m s) else sealTaken m k b (sealRead m s)) := by
  have hmsg := takeMessage_mgmtFrame (requestIs_mgmtBox hm rfl) s
  have hread := sealRead_frame (s := s) (requestIs_mgmtBox hm rfl)
  have hlc : (takeMessage m s).lc = s.lc := by rw [hmsg]
  have hpay' : payloadOk (takeMessage m s) m.tenant m.payload 97 true false = true := by rw [hmsg]; exact hpay
  have hfree' : freeSet (sealRead m s) (byteAt m.params 1) = some k := by rw [hread]; exact hfree
  have hseal' : sealedHash (sealRead m s) (byteAt m.params 1) = none := by rw [hread]; exact hseal
  have hvalid : validP384 (sealRead m s) (b.take 97) = validP384 s (b.take 97) := by rw [hread]; rfl
  have hkind' : ¬ ((byteAt m.params 1 ≠ 1 ∧ byteAt m.params 1 ≠ 2) ∨ m.paylen ≠ 97 ∨ ¬ allZero (m.params.drop 2) = true) := by
    rintro (⟨h1, h2⟩ | h | h)
    · omega
    · exact h hlen
    · exact h hpar
  change execAuthoritySeal b s = _
  unfold execAuthoritySeal
  rw [hm.1]
  dsimp only
  rw [if_neg (by omega), onRequest_go hm]
  rw [hlc, if_neg (not_not_intro hst), if_neg hphase, if_neg hkind', if_neg (by simp [hpay'])]
  change Host.Outcome.next (match freeSet (sealRead m s) (byteAt m.params 1) with
    | none => _
    | some k => _) = _
  rw [hfree']
  dsimp only
  change Host.Outcome.next (if (sealedHash (sealRead m s) (byteAt m.params 1)).isSome = true then _ else
    if (!validP384 (sealRead m s) (b.take 97)) = true then answer m 8 (sealRead m s) else sealTaken m k b (sealRead m s)) = _
  rw [hseal', hvalid]
  rfl

end

end Sys2Proof.Machine
end

section
/-! PROOF. The programs of a transition or of a seal (14 R535; 15 R551 to R557; 18 R620). -/
namespace Sys2Proof.Machine

section
variable {s : State} {r : Fin 128} {d : BitVec 64}

theorem burnRow_eq (d : BitVec 64) (s : State) : burnRow r.val d s = s.burn r d := by
  have hr : (⟨r.val % 128, Nat.mod_lt _ (by decide)⟩ : Fin 128) = r := Fin.ext (Nat.mod_eq_of_lt r.isLt)
  rw [burnRow, hr]

/-- The state in which the program of row `r` has ended short of bits (18 R620). -/
def State.burntShort (s : State) (r : Fin 128) (d : BitVec 64) : State := (s.burn r (d &&& Config.burntBits s.drawn)).draw 1

theorem burnPart_eq (hp : programNow s = some (r.val, d)) : burnPart s = s.burntShort r d := by
  unfold burnPart
  rw [hp]
  dsimp only
  rw [burnRow_eq]
  rfl

theorem burn_otpKept (d : BitVec 64) : otpKept s (s.burn r d) := by
  intro row bit hbit
  unfold State.burn
  by_cases h : r = row
  · subst h
    simpa using .inl hbit
  · rw [show (s.otp.set r (s.otp[r] ||| d))[row] = s.otp[row] from Vector.getElem_set_ne _ _ (Fin.val_ne_of_ne h)]
    exact hbit

theorem burn_other (d : BitVec 64) {i : Fin 128} (h : i ≠ r) : (s.burn r d).otp[i] = s.otp[i] :=
  Vector.getElem_set_ne r.isLt i.isLt (Fin.val_ne_of_ne (Ne.symm h))

/-- What is done once a program has been acknowledged (15 R551, R557). -/
def programEnds (err : Bool) (l : LifeCycle) (s : State) : State :=
  if l.burning = 1 then goOn (targetBurnt err s)
  else if l.burning = 2 then goOn (commitBurnt err s)
  else authorityBurnt err s

/-- The program under way may end now: nothing that it waits for is left (15 R551, R552). -/
theorem exec_otpProgramComplete (hp : programNow s = some (r.val, d)) (hup : s.mainUp = true) (hlock : s.locked = false)
    (hq : s.lc.burning = 1 → s.lc.quiesced = true → s.ks.commits = []) (hw : s.lc.burning = 2 → s.lc.wiped = true) (err : Bool) :
    exec (.otpProgramComplete err) s =
      .next (programEnds err s.lc (if err then s.burntShort r d else s.burn r d)) := by
  have hgo : ¬ (!s.mainUp || (s.lc.burning == 1 && s.lc.quiesced && !s.ks.commits.isEmpty) ||
      (s.lc.burning == 2 && !s.lc.wiped)) = true := by
    intro h
    simp only [hup, Bool.not_true, Bool.false_or, Bool.or_eq_true, Bool.and_eq_true, beq_iff_eq, Bool.not_eq_true',
      List.isEmpty_eq_false_iff] at h
    obtain ⟨⟨h1, h2⟩, h3⟩ | ⟨h1, h2⟩ := h
    · exact h3 (hq h1 h2)
    · simp [hw h1] at h2
  change execOtpProgramComplete err s = _
  unfold execOtpProgramComplete
  rw [hp]
  dsimp only
  rw [if_neg hgo, burnPart_eq hp, burnRow_eq]
  have hlocked : (if err = true then s.burntShort r d else s.burn r d).locked = false := by cases err <;> exact hlock
  rw [if_neg (by simp [hlocked]), programEnds]
  split
  · rfl
  · split <;> rfl

theorem goOn_started (h : s.cfg.stage ≠ 0) : goOn s = s := if_neg fun hs => h hs.1

theorem rollingForward_started (h : s.cfg.stage ≠ 0) : rollingForward s = false := by
  rw [rollingForward, decide_eq_false h, Bool.and_false, Bool.false_and]

/-! ### The target row -/

/-- The transition once its target row stands (15 R551). -/
def targetStands (s : State) : State := s.updLc fun l => { l with burning := 2, phase := if l.phase = 2 then 2 else 1 }

theorem targetBurnt_good (h : s.cfg.stage ≠ 0) : targetBurnt false s = makeWipe s.lc.next.toNat (targetStands s) :=
  if_neg (Bool.eq_false_iff.mp (rollingForward_started (s := targetStands s) h))

theorem targetBurnt_failed (h : s.cfg.stage ≠ 0) : targetBurnt true s =
    endLcRequest 6 (s.updLc fun l => { l with next := 0, phase := 0, burning := 0 }) :=
  if_neg (by simp [rollingForward_started h])

theorem targetStands_leaves (h : s.cfg.stage ≠ 0) : goOn (makeWipe s.lc.next.toNat (targetStands s)) =
    makeWipe s.lc.next.toNat (targetStands s) := by
  obtain ⟨-, -, hcfg, -⟩ := makeWipe_leaves s.lc.next.toNat (targetStands s)
  refine goOn_started ?_
  rw [hcfg]
  exact h

/-- A wipe, once the target row stands, goes on or ends its request with 6 (15 R553, R554). -/
theorem makeWipe_outcome {t : Nat} (h : wipes t = true) (s : State) : (makeWipe t s).lc.phase = 2 ∧
    ((makeWipe t s).lc.burning = s.lc.burning ∨
      (makeWipe t s).lc.burning = 0 ∧ ∀ q, s.lc.seq = some q → (makeWipe t s).answered none 0x0206 q.toNat 6) := by
  rw [makeWipe_wiping h]
  split
  · exact ⟨rfl, .inl rfl⟩
  · refine ⟨?_, ?_⟩
    · rw [eraseAreas_frame]
      rfl
    · by_cases hdone : s.lineErased.nvm.present = true ∧
          (rollingForward s.lineErased = true ∨ Config.erasesBack s.lineErased.drawn = true)
      · obtain ⟨hlc, -⟩ := eraseAreas_done hdone t
        exact .inl (by rw [hlc]; rfl)
      · obtain ⟨u, hlc, -, hu⟩ := eraseAreas_fails hdone t
        refine .inr ⟨?_, fun q hq => ?_⟩
        · rw [hu, endLcRequest_frame, hlc]
        · rw [hu]
          exact endLcRequest_answered (by rw [hlc]; exact hq) 6

/-! ### The commit row and the rows of a seal -/

theorem beginLog_begins (hb : s.aon.begun = false) : (beginLog 2 s).aon.begun = true ∧
    (s.aon.marker = true → (beginLog 2 s).aon.count = 0 ∧ (beginLog 2 s).aon.head = fillBytes 32 0 ∧
      (beginLog 2 s).aon.pendLog = []) := by
  rw [beginLog, if_neg (by simp [hb])]
  split
  · exact ⟨rfl, fun _ => ⟨rfl, rfl, rfl⟩⟩
  case isFalse h => exact ⟨rfl, fun hm => absurd hm h⟩

/-- The transition once its commit row stands (15 R551, R554). -/
def commitStands (s : State) : State := (beginLog s.lc.next s).updLc fun l => { l with burning := 0, phase := 3 }

theorem commitBurnt_good (h : s.cfg.stage ≠ 0) : commitBurnt false s = endLcRequest 0 (commitStands s) := by
  have hroll : rollingForward (beginLog s.lc.next s) = false := by
    rw [beginLog_frame]
    exact rollingForward_started (s := { s with aon := _ }) h
  exact if_neg (Bool.eq_false_iff.mp hroll)

theorem commitBurnt_failed (h : s.cfg.stage ≠ 0) : commitBurnt true s =
    endLcRequest 6 (s.updLc fun l => { l with burning := 0 }) :=
  (if_neg (by simp [rollingForward_started h])).trans (if_pos rfl)

theorem endLcRequest_goOn (h : s.cfg.stage ≠ 0) (status : Nat) : goOn (endLcRequest status s) = endLcRequest status s := by
  refine goOn_started ?_
  rw [endLcRequest_frame]
  exact h

end

end Sys2Proof.Machine
end

section
/-! PROOF. The acknowledged programs of transitions and seals, and the transitions settled (15 R550 to R557; 18 R620). -/
namespace Sys2Proof.Machine

section
variable {s : State} {r : Fin 128} {d : BitVec 64}

/-! ### Good programs -/

/-- The target row has taken its bits (15 R551 to R554). -/
theorem targetProgram_leaves (hst : s.cfg.stage ≠ 0) {t : State} (h1 : s.lc.burning = 1)
    (ht : t = programEnds false s.lc (s.burn r d)) : t.otp = s.otp.set r (s.otp[r] ||| d) ∧ t.lc.state = s.lc.state ∧
      (wipes s.lc.next.toNat = true → t.aon.bbk = none ∧ t.lc.phase = 2 ∧
        (t.lc.burning = 2 ∨ t.lc.burning = 0 ∧ ∀ q, s.lc.seq = some q → t.answered none 0x0206 q.toNat 6)) ∧
      (wipes s.lc.next.toNat = false → t.lc.burning = 2 ∧ t = { s with otp := t.otp, lc := t.lc }) := by
  have heq : t = makeWipe s.lc.next.toNat (targetStands (s.burn r d)) := by
    rw [ht, programEnds, if_pos h1, targetBurnt_good (s := s.burn r d) hst]
    exact targetStands_leaves (s := s.burn r d) hst
  clear ht
  subst heq
  obtain ⟨-, hotp, -, -, hstate, -, -, herased⟩ := makeWipe_leaves s.lc.next.toNat (targetStands (s.burn r d))
  refine ⟨hotp, hstate, fun hw => ?_, fun hw => ?_⟩
  · obtain ⟨hphase, hburn⟩ := makeWipe_outcome hw (targetStands (s.burn r d))
    exact ⟨(herased hw).1, hphase, hburn⟩
  · rw [makeWipe_plain hw]
    exact ⟨rfl, rfl⟩

/-- The commit row has taken its bits (14 R535; 15 R551, R554). -/
theorem commitProgram_leaves (hst : s.cfg.stage ≠ 0) {t : State} (h2 : s.lc.burning = 2)
    (ht : t = programEnds false s.lc (s.burn r d)) : t.otp = s.otp.set r (s.otp[r] ||| d) ∧ t.lc.state = s.lc.state ∧
      t = { s with otp := t.otp, lc := t.lc, mgmt := t.mgmt, aon := t.aon } ∧ t.lc.burning = 0 ∧ t.lc.phase = 3 ∧
      (s.lc.next ≠ 2 ∨ s.aon.begun = true → t.aon = s.aon) ∧ (s.lc.next = 2 → s.aon.begun = false → t.aon.begun = true ∧
        (s.aon.marker = true → t.aon.count = 0 ∧ t.aon.head = fillBytes 32 0 ∧ t.aon.pendLog = [])) ∧
      ∀ q, s.lc.seq = some q → t.answered none 0x0206 q.toNat 0 := by
  have hstands : commitStands (s.burn r d) = { s.burn r d with
      aon := (commitStands (s.burn r d)).aon, lc := { s.lc with burning := 0, phase := 3 } } := by
    rw [commitStands, beginLog_frame]
    rfl
  have haon : (commitStands (s.burn r d)).aon = (beginLog s.lc.next (s.burn r d)).aon := rfl
  have heq : t = endLcRequest 0 (commitStands (s.burn r d)) := by
    rw [ht, programEnds, if_neg (by rw [h2]; decide), if_pos h2, commitBurnt_good (s := s.burn r d) hst]
    refine endLcRequest_goOn ?_ 0
    rw [hstands]
    exact hst
  have hans : ∀ q, s.lc.seq = some q → t.answered none 0x0206 q.toNat 0 := fun q hq => by
    rw [heq]
    refine endLcRequest_answered ?_ 0
    rw [hstands]
    exact hq
  rw [endLcRequest_frame] at heq
  have htaon : t.aon = (beginLog s.lc.next (s.burn r d)).aon := (congrArg State.aon heq).trans haon
  generalize commitStands (s.burn r d) = u at hstands heq haon
  generalize (endLcRequest 0 u).mgmt = g at heq
  rw [hstands] at heq
  refine ⟨congrArg State.otp heq, congrArg (fun u => u.lc.state) heq, ?_, congrArg (fun u => u.lc.burning) heq,
    congrArg (fun u => u.lc.phase) heq, fun h => ?_, fun h hb => ?_, hans⟩
  · rw [heq]
    rfl
  · rw [htaon, beginLog_eq_self (s := s.burn r d) h]
    rfl
  · rw [htaon, h]
    exact beginLog_begins (s := s.burn r d) hb

/-- A row of a seal has taken its bits (15 R557). -/
theorem sealProgram_leaves {t : State} {kind n : Nat} {h : Bytes} (h3 : s.lc.burning = 3) (hjob : s.lc.sealJob = some (kind, n, h))
    (ht : t = programEnds false s.lc (s.burn r d)) : t.otp = s.otp.set r (s.otp[r] ||| d) ∧ t.lc.state = s.lc.state ∧
      t = { s with otp := t.otp, lc := t.lc, mgmt := t.mgmt } ∧ (n ≠ 6 → t.lc = { s.lc with sealJob := some (kind, n + 1, h) }) ∧
      (n = 6 → t.lc.burning = 0 ∧ t.lc.sealJob = none ∧ ∀ q, s.lc.seq = some q → t.answered none 0x0206 q.toNat 0) := by
  have hends : programEnds false s.lc (s.burn r d) = authorityBurnt false (s.burn r d) := by
    rw [programEnds, if_neg (by rw [h3]; decide), if_neg (by rw [h3]; decide)]
  have hjob' : (s.burn r d).lc.sealJob = some (kind, n, h) := hjob
  rw [hends, authorityBurnt, hjob'] at ht
  dsimp only at ht
  rw [if_neg (by decide)] at ht
  by_cases h6 : n = 6
  · rw [if_pos h6] at ht
    have hframe := endLcRequest_frame 0 ((s.burn r d).updLc fun l => { l with burning := 0, sealJob := none })
    have hans : ∀ q, s.lc.seq = some q → t.answered none 0x0206 q.toNat 0 := fun q hq => by
      rw [ht]
      refine endLcRequest_answered ?_ 0
      exact hq
    rw [← ht] at hframe
    refine ⟨congrArg State.otp hframe, congrArg (fun u => u.lc.state) hframe, ?_, fun hn => absurd h6 hn,
      fun _ => ⟨congrArg (fun u => u.lc.burning) hframe, congrArg (fun u => u.lc.sealJob) hframe, hans⟩⟩
    rw [hframe]
    rfl
  · rw [if_neg h6] at ht
    subst ht
    exact ⟨rfl, rfl, rfl, fun _ => rfl, fun hn => absurd hn h6⟩

/-! ### Failed programs -/

/-- A failed program ends its request with 6 (15 R554, R557). -/
theorem failedProgram_ends (hst : s.cfg.stage ≠ 0) (h3 : s.lc.burning = 3 → s.lc.sealJob ≠ none)
    (hb : s.lc.burning = 1 ∨ s.lc.burning = 2 ∨ s.lc.burning = 3) (u : State) (hlc : u.lc = s.lc) (hcfg : u.cfg = s.cfg) :
    ∃ l : LifeCycle, programEnds true s.lc u = endLcRequest 6 { u with lc := l } ∧ l.burning = 0 ∧ l.state = s.lc.state ∧
      l.seq = s.lc.seq := by
  have hu : u.cfg.stage ≠ 0 := by rw [hcfg]; exact hst
  have hstate : u.lc.state = s.lc.state := by rw [hlc]
  have hseq : u.lc.seq = s.lc.seq := by rw [hlc]
  obtain hb | hb | hb := hb
  · refine ⟨{ u.lc with next := 0, phase := 0, burning := 0 }, ?_, rfl, hstate, hseq⟩
    rw [programEnds, if_pos hb, targetBurnt_failed hu]
    exact endLcRequest_goOn (s := u.updLc _) hu 6
  · refine ⟨{ u.lc with burning := 0 }, ?_, rfl, hstate, hseq⟩
    rw [programEnds, if_neg (by rw [hb]; decide), if_pos hb, commitBurnt_failed hu]
    exact endLcRequest_goOn (s := u.updLc _) hu 6
  · refine ⟨{ u.lc with burning := 0, sealJob := none }, ?_, rfl, hstate, hseq⟩
    rw [programEnds, if_neg (by rw [hb]; decide), if_neg (by rw [hb]; decide), authorityBurnt, hlc]
    cases hjob : s.lc.sealJob with
    | none => exact absurd hjob (h3 hb)
    | some j =>
      rw [← hlc]
      rfl

/-- A program under way is one of a target row, a commit row or a seal. -/
theorem programNow_burning {x : Nat × BitVec 64} (h : programNow s = some x) :
    (s.lc.burning = 1 ∨ s.lc.burning = 2 ∨ s.lc.burning = 3) ∧ (s.lc.burning = 3 → s.lc.sealJob ≠ none) := by
  unfold programNow at h
  dsimp only at h
  split at h
  case isTrue h1 => exact ⟨.inl h1, fun h3 => absurd (h1.symm.trans h3) (by decide)⟩
  split at h
  case isTrue h2 => exact ⟨.inr (.inl h2), fun h3 => absurd (h2.symm.trans h3) (by decide)⟩
  split at h
  case isTrue h3 => exact ⟨.inr (.inr h3), fun _ hn => by simp [hn] at h⟩
  cases h

end

/-- Settles O57: a request starts its program, and each program that ends leaves the next one or the answer. -/
theorem transitionsBurnTheirRows : Obligations.TransitionsBurnTheirRows := by
  unfold Obligations.TransitionsBurnTheirRows
  refine ⟨fun s m x hm hop hx hpay hlen hpar => ⟨transitionBegins hm hop hx hpay hlen hpar,
      transitionRefused hm hop hx hpay hlen hpar⟩,
    fun s m b k hm hop hst hkind hlen hpar hpay hfree hseal hphase => ?_, fun s r d hp hup hst hlock hq hw => ⟨?_, ?_⟩⟩
  · have hexec := exec_authoritySeal (b := b) hm hop hst hkind hlen hpar hpay hfree hseal hphase
    have hframe := sealRead_frame (s := s) (requestIs_mgmtBox hm rfl)
    have hreplies := sealRead_replies (s := s) (requestIs_mgmtBox hm rfl)
    have hans := answer_request (requestIs_code hm) 8 (sealRead m s)
    refine ⟨_, hexec, ?_⟩
    generalize sealRead m s = u at hframe hreplies hans
    have hlc : u.lc = s.lc := by rw [hframe]
    cases hv : validP384 s (b.take 97) with
    | true =>
      refine ⟨?_, fun _ => ⟨hreplies, ?_⟩, by simp⟩
      · rw [if_neg (by decide), hframe]
        rfl
      · rw [← hlc]
        rfl
    | false =>
      refine ⟨?_, by simp, fun _ => ⟨hlc, hans⟩⟩
      rw [if_pos (by decide), hframe]
      rfl
  · have hexec := exec_otpProgramComplete hp hup hlock hq hw false
    refine ⟨_, hexec, ?_⟩
    rw [if_neg (by decide)]
    generalize hends : programEnds false s.lc (s.burn r d) = t
    obtain ⟨h1 | h2 | h3, hjob⟩ := programNow_burning hp
    · obtain ⟨hotp, hstate, hwipes, hstays⟩ := targetProgram_leaves hst h1 hends.symm
      exact ⟨hotp, hstate, fun _ => ⟨hwipes, hstays⟩, fun h => absurd (h1.symm.trans h) (by decide),
        fun _ _ _ h => absurd (h1.symm.trans h) (by decide)⟩
    · obtain ⟨hotp, hstate, hcommit⟩ := commitProgram_leaves hst h2 hends.symm
      exact ⟨hotp, hstate, fun h => absurd (h2.symm.trans h) (by decide), fun _ => hcommit,
        fun _ _ _ h => absurd (h2.symm.trans h) (by decide)⟩
    · obtain ⟨⟨kind, n, h⟩, hsome⟩ := Option.ne_none_iff_exists'.mp (hjob h3)
      obtain ⟨hotp, hstate, hseal⟩ := sealProgram_leaves h3 hsome hends.symm
      refine ⟨hotp, hstate, fun h => absurd (h3.symm.trans h) (by decide), fun h => absurd (h3.symm.trans h) (by decide),
        fun kind' n' h' _ hj => ?_⟩
      cases hsome.symm.trans hj
      exact hseal
  · have hexec := exec_otpProgramComplete hp hup hlock hq hw true
    rw [if_pos rfl] at hexec
    obtain ⟨hb, hjob⟩ := programNow_burning hp
    obtain ⟨l, hl, hburn, hstate, hseq⟩ := failedProgram_ends hst hjob hb (s.burntShort r d) rfl rfl
    rw [hl] at hexec
    have hans : ∀ q, s.lc.seq = some q →
        (endLcRequest 6 { s.burntShort r d with lc := l }).answered none 0x0206 q.toNat 6 := fun q hq =>
      endLcRequest_answered (hseq.trans hq) 6
    have hframe := endLcRequest_frame 6 { s.burntShort r d with lc := l }
    refine ⟨_, hexec, ?_⟩
    generalize endLcRequest 6 { s.burntShort r d with lc := l } = t at hframe hans
    have hotp : t.otp = (s.burn r (d &&& Config.burntBits s.drawn)).otp := by
      rw [hframe]
      rfl
    refine ⟨fun row bit hbit => ?_, fun i hi => ?_, ?_, ?_, ?_, hans⟩
    · rw [hotp]
      exact burn_otpKept (r := r) (d &&& Config.burntBits s.drawn) row bit hbit
    · rw [hotp]
      exact burn_other _ hi
    · rw [hframe]
      rfl
    · rw [hframe]
      exact hburn
    · rw [hframe]
      exact hstate

end Sys2Proof.Machine
end

section
/-! SUPPORT. The areas of the key store, and what a rotation or a reroot writes of them (09 R402, R404, R405). -/
namespace Sys2Proof.Machine

/-! ### The areas -/

theorem otherStore_updOtherStore (f : StoreArea → StoreArea) (s : State) : (s.updOtherStore f).otherStore = f s.otherStore := by
  by_cases h : s.nvm.ksArea = true <;> simp [State.updOtherStore, State.otherStore, State.updNvm, h]

theorem store_updOtherStore (f : StoreArea → StoreArea) (s : State) : (s.updOtherStore f).store = s.store := by
  by_cases h : s.nvm.ksArea = true <;> simp [State.updOtherStore, State.store, State.updNvm, h]

theorem updOtherStore_nvm (f : StoreArea → StoreArea) (s : State) : (s.updOtherStore f).nvm =
    { s.nvm with storeA := (s.updOtherStore f).nvm.storeA, storeB := (s.updOtherStore f).nvm.storeB } := by
  unfold State.updOtherStore State.updNvm
  dsimp only
  split <;> rfl

/-- The area in force and the other one are a matter of the areas and of the pointer's choice. -/
theorem stores_of_nvm {s t : State} (ha : t.nvm.storeA = s.nvm.storeA) (hb : t.nvm.storeB = s.nvm.storeB)
    (hk : t.nvm.ksArea = s.nvm.ksArea) : t.store = s.store ∧ t.otherStore = s.otherStore := by
  unfold State.store State.otherStore
  rw [ha, hb, hk]
  exact ⟨rfl, rfl⟩

/-- A flip puts the other area in force. -/
theorem stores_flipped {s t : State} (ha : t.nvm.storeA = s.nvm.storeA) (hb : t.nvm.storeB = s.nvm.storeB)
    (hk : t.nvm.ksArea = !s.nvm.ksArea) : t.store = s.otherStore ∧ t.otherStore = s.store := by
  unfold State.store State.otherStore
  rw [ha, hb, hk]
  cases s.nvm.ksArea <;> exact ⟨rfl, rfl⟩

theorem putKsPtr_frame (copy : Bool) (p : KsPtr) (n : Nvm) : putKsPtr copy p n =
    { n with boot := (putKsPtr copy p n).boot, ksPtr0 := if copy then n.ksPtr0 else p, ksPtr1 := if copy then p else n.ksPtr1 } := by
  unfold putKsPtr
  rw [bootPut_frame]
  cases copy <;> rfl

/-! ### A block of a rotation -/

/-- The record that a rotation writes for `x` at the `i`th free value: its value under the next generation (09 R402). -/
def rewrapped (s : State) (x : StoreRec) : StoreRec := hashed s { x with gen := s.ks.gen + 1, iv := drawnBytes s.drawn 12 }

theorem copyRewrapped_eq (x : StoreRec) (s : State) : copyRewrapped x s =
    (((s.updEn (takeBuf 12)).updOtherStore fun a => a.put (rewrapped s x))).draw 12 := rfl

theorem copyRewrapped_frame (x : StoreRec) (s : State) : copyRewrapped x s =
    { s with nvm := { s.nvm with storeA := (copyRewrapped x s).nvm.storeA, storeB := (copyRewrapped x s).nvm.storeB },
             en := (copyRewrapped x s).en, drawn := (copyRewrapped x s).drawn } := by
  have hnvm := updOtherStore_nvm (fun a => a.put (rewrapped s x)) (s.updEn (takeBuf 12))
  have hframe : copyRewrapped x s =
      { s with
        nvm := ((s.updEn (takeBuf 12)).updOtherStore fun a => a.put (rewrapped s x)).nvm,
        en := (copyRewrapped x s).en, drawn := (copyRewrapped x s).drawn } := rfl
  refine hframe.trans ?_
  rw [hnvm]
  rfl

theorem copyRewrapped_store (x : StoreRec) (s : State) : (copyRewrapped x s).store = s.store :=
  store_updOtherStore (fun a => a.put (rewrapped s x)) (s.updEn (takeBuf 12))

theorem copyRewrapped_otherStore (x : StoreRec) (s : State) : (copyRewrapped x s).otherStore = s.otherStore.put (rewrapped s x) :=
  otherStore_updOtherStore (fun a => a.put (rewrapped s x)) (s.updEn (takeBuf 12))

theorem mem_put {a : StoreArea} {x y : StoreRec} : y ∈ (a.put x).recs ↔
    (y ∈ a.recs ∧ y.recno ≠ x.recno) ∨ y = { x with off := a.heapUsed / 64, crc := indexCrc { x with off := a.heapUsed / 64 } } := by
  unfold StoreArea.put StoreArea.append StoreArea.index
  dsimp only
  rw [List.mem_append, List.mem_filter, List.mem_singleton, decide_eq_true_eq]

/-- `y` is the copy of `x` under generation `g` (09 R402). -/
def copyOf (g : BitVec 32) (x y : StoreRec) : Prop := y = { x with gen := g, iv := y.iv, off := y.off, hash := y.hash, crc := y.crc }

theorem rewrapped_copyOf (s : State) (x : StoreRec) (off : Nat) (crc : BitVec 16) :
    copyOf (s.ks.gen + 1) x { rewrapped s x with off := off, crc := crc } := by
  obtain ⟨i, h, hr⟩ : ∃ i h, rewrapped s x = { x with gen := s.ks.gen + 1, iv := i, hash := h } := ⟨_, _, rfl⟩
  rw [hr]
  rfl

/-- What a rotation's copies of `l` leave: only the other area changes, and there each of them stands (09 R402). -/
def copiesOnly (l : List StoreRec) (s t : State) : Prop :=
  t = { s with nvm := { s.nvm with storeA := t.nvm.storeA, storeB := t.nvm.storeB }, en := t.en, drawn := t.drawn } ∧
    t.store = s.store ∧ (∀ x ∈ l, ∃ y ∈ t.otherStore.recs, y.recno = x.recno) ∧
    (∀ y ∈ s.otherStore.recs, ∃ z ∈ t.otherStore.recs, z.recno = y.recno) ∧
    (∀ y ∈ t.otherStore.recs, y ∈ s.otherStore.recs ∨ ∃ x ∈ l, copyOf (s.ks.gen + 1) x y)

theorem copiesOnly_nil (s : State) : copiesOnly [] s s :=
  ⟨rfl, rfl, fun x hx => by simp at hx, fun y hy => ⟨y, hy, rfl⟩, fun y hy => .inl hy⟩

theorem copiesOnly_one (x : StoreRec) (s : State) : copiesOnly [x] s (copyRewrapped x s) := by
  have hput := copyRewrapped_otherStore x s
  refine ⟨copyRewrapped_frame x s, copyRewrapped_store x s, fun y hy => ?_, fun y hy => ?_, fun y hy => ?_⟩
  · rw [List.mem_singleton] at hy
    subst hy
    rw [hput]
    exact ⟨_, mem_put.mpr (.inr rfl), rfl⟩
  · rw [hput]
    by_cases h : y.recno = (rewrapped s x).recno
    · exact ⟨_, mem_put.mpr (.inr rfl), h.symm⟩
    · exact ⟨y, mem_put.mpr (.inl ⟨hy, h⟩), rfl⟩
  · rw [hput] at hy
    obtain ⟨hy, -⟩ | hy := mem_put.mp hy
    · exact .inl hy
    · refine .inr ⟨x, List.mem_singleton_self x, ?_⟩
      rw [hy]
      exact rewrapped_copyOf ..

theorem copiesOnly_append {l k : List StoreRec} {s t u : State} (ht : copiesOnly l s t) (hu : copiesOnly k t u) :
    copiesOnly (l ++ k) s u := by
  obtain ⟨hframe, hstore, hall, hkept, honly⟩ := ht
  obtain ⟨hframe', hstore', hall', hkept', honly'⟩ := hu
  refine ⟨?_, hstore'.trans hstore, fun x hx => ?_, fun y hy => ?_, fun y hy => ?_⟩
  · rw [hframe', hframe]
  · obtain hx | hx := List.mem_append.mp hx
    · obtain ⟨y, hy, hxy⟩ := hall x hx
      obtain ⟨z, hz, hyz⟩ := hkept' y hy
      exact ⟨z, hz, hyz.trans hxy⟩
    · exact hall' x hx
  · obtain ⟨z, hz, hyz⟩ := hkept y hy
    obtain ⟨w, hw, hzw⟩ := hkept' z hz
    exact ⟨w, hw, hzw.trans hyz⟩
  · have hgen : t.ks.gen = s.ks.gen := by rw [hframe]
    obtain hy | ⟨x, hx, hcopy⟩ := honly' y hy
    · obtain hy | ⟨x, hx, hcopy⟩ := honly y hy
      · exact .inl hy
      · exact .inr ⟨x, List.mem_append_left _ hx, hcopy⟩
    · exact .inr ⟨x, List.mem_append_right _ hx, by rw [← hgen]; exact hcopy⟩

theorem foldl_copiesOnly (l : List StoreRec) (s : State) : copiesOnly l s (l.foldl (fun s r => copyRewrapped r s) s) := by
  induction l generalizing s with
  | nil => exact copiesOnly_nil s
  | cons x l ih => exact copiesOnly_append (l := [x]) (copiesOnly_one x s) (ih _)

theorem mem_insertBy {α : Type} (key : α → Nat) (x y : α) (l : List α) : y ∈ insertBy key x l ↔ y = x ∨ y ∈ l := by
  induction l with
  | nil => simp [insertBy]
  | cons z l ih =>
    unfold insertBy
    split
    · simp
    · rw [List.mem_cons, ih, List.mem_cons]
      exact or_left_comm

theorem mem_sortBy {α : Type} (key : α → Nat) (y : α) (l : List α) : y ∈ sortBy key l ↔ y ∈ l := by
  have hfold : ∀ (l acc : List α), y ∈ l.foldl (fun acc x => insertBy key x acc) acc ↔ y ∈ acc ∨ y ∈ l := by
    intro l
    induction l with
    | nil => simp
    | cons x l ih =>
      intro acc
      rw [List.foldl_cons, ih, mem_insertBy, List.mem_cons, or_comm (a := y = x), or_assoc]
  simp [sortBy, hfold]

/-- The live records of a block (09 R402). -/
theorem mem_liveIn {s : State} {j : Nat} {x : StoreRec} : x ∈ liveIn s j ↔
    x ∈ s.store.recs ∧ x.recno / 4096 = j ∧ x.tomb = false ∧ indexGood x = true := by
  simp [liveIn, mem_sortBy, and_assoc]

end Sys2Proof.Machine
end

section
/-! PROOF. The rotation of the storage key (09 R402, R404). -/
namespace Sys2Proof.Machine

section
variable {s : State} {m : Msg}

/-! ### The request -/

section
variable (hm : s.requestIs 0x0203 m) (hpay : m.payload = 0) (hlen : m.paylen = 0) (hpar : allZero m.params = true)

include hm hpay hlen hpar in
theorem exec_storageKeyRotation : exec .storageKeyRotation s = .next (if s.ks.rot ≠ 0 then answer m 0x83 (takeMessage m s)
    else if (!rootHere s) = true then answer m 0x85 (takeMessage m s)
    else startRotation m.seq (answer m 1 (takeMessage m s))) := by
  have hks : (takeMessage m s).ks = s.ks := by rw [takeMessage_mgmtFrame (requestIs_mgmtBox hm rfl)]
  have hroot : rootHere (takeMessage m s) = rootHere s := by rw [rootHere, hks, rootHere]
  refine congrArg Host.Outcome.next ((onRequest_go hm _).trans ?_)
  rw [if_neg (by rintro (h | h | h) <;> first | omega | exact h hpar), hks, hroot]

/-- An answer to the request in hand changes what waits in the management mailbox only. -/
theorem answered_mgmtOnly (hb : m.box = none) (status : Nat) :
    answer m status (takeMessage m s) = { s with mgmt := (answer m status (takeMessage m s)).mgmt } := by
  rw [takeMessage_mgmtFrame hb]
  rfl

theorem startRotation_frame (seq : Nat) (s : State) : startRotation seq s = { s with
    ks := (startRotation seq s).ks, nvm := (startRotation seq s).nvm } := by
  unfold startRotation State.updOtherStore
  rfl

theorem startRotation_ks (seq : Nat) (s : State) : (startRotation seq s).ks.rot = 1 ∧ (startRotation seq s).ks.rotBlock = 0 ∧
    (startRotation seq s).ks.rotSeq = some (BitVec.ofNat 16 seq) ∧ (startRotation seq s).nvm.rotCkpt = none :=
  ⟨rfl, rfl, rfl, rfl⟩

theorem startRotation_stores (seq : Nat) (s : State) :
    (startRotation seq s).store = s.store ∧ (startRotation seq s).otherStore = StoreArea.reset := by
  obtain ⟨hstore, hother⟩ := stores_of_nvm (s := s.updOtherStore fun _ => StoreArea.reset) (t := startRotation seq s) rfl rfl rfl
  rw [hstore, hother, store_updOtherStore, otherStore_updOtherStore]
  exact ⟨rfl, rfl⟩

include hm hpay hlen hpar in
theorem rotationStarts (h0 : s.ks.rot = 0) (hroot : rootHere s = true) : ∃ t, exec .storageKeyRotation s = .next t ∧
    t = { s with mgmt := t.mgmt, ks := t.ks, nvm := t.nvm } ∧ t.answered m.box 0x0203 m.seq 1 ∧ t.ks.rot = 1 ∧
    t.ks.rotBlock = 0 ∧ t.ks.rotSeq = some (BitVec.ofNat 16 m.seq) ∧ t.store = s.store ∧ t.otherStore = StoreArea.reset ∧
    t.nvm.rotCkpt = none := by
  have hexec := exec_storageKeyRotation hm hpay hlen hpar
  rw [if_neg (not_not_intro h0), if_neg (by simp [hroot])] at hexec
  have hans := answer_request (requestIs_code hm) 1 (takeMessage m s)
  have hframe := answered_mgmtOnly (s := s) (requestIs_mgmtBox hm rfl) 1
  generalize answer m 1 (takeMessage m s) = u at hexec hans hframe
  obtain ⟨hrot, hblock, hseq, hckpt⟩ := startRotation_ks m.seq u
  obtain ⟨hstore, hother⟩ := startRotation_stores m.seq u
  have hmgmt : (startRotation m.seq u).mgmt = u.mgmt := by rw [startRotation_frame]
  refine ⟨_, hexec, ?_, answered_of_replies (congrArg Mgmt.replies hmgmt) hans, hrot, hblock, hseq, hstore.trans ?_, hother, hckpt⟩
  · rw [startRotation_frame, hframe]
  · rw [hframe]
    rfl

end

/-! ### A block -/

/-- A block whose copies stand, or not, is noted (09 R402). -/
def blockNoted (good : Bool) (j : Nat) (h : Bytes) (s : State) : State :=
  let s := s.updKs fun k => { k with rotLevels := 0 }
  if !good then nvmFailed s
  else
    (s.updNvm fun n => { n with rotCkpt := some (j, h, s.ks.seq) }).updKs fun k =>
      { k with rotHash := h, ckpt := j, rotBlock := j + 1, rot := if j ≥ 255 then 2 else 1 }

theorem copyBlock_eq (good : Bool) (s : State) : ∃ h, copyBlock good s =
    blockNoted good s.ks.rotBlock h ((liveIn s s.ks.rotBlock).foldl (fun s r => copyRewrapped r s) s) := ⟨_, rfl⟩

theorem blockNoted_leaves (good : Bool) (h : Bytes) {j : Nat} (s : State) (hj : j ≤ 255) {t : State}
    (ht : t = blockNoted good j h s) : t = { s with
        ks := t.ks, nvm := { s.nvm with rotCkpt := t.nvm.rotCkpt, errors := t.nvm.errors } } ∧
      t.ks = (if good = true then
        { s.ks with rotHash := t.ks.rotHash, rotLevels := 0, ckpt := j, rotBlock := j + 1, rot := if j = 255 then 2 else 1 }
        else { s.ks with rotLevels := 0 }) ∧
      t.nvm.rotCkpt = (if good = true then some (j, t.ks.rotHash, s.ks.seq) else s.nvm.rotCkpt) ∧
      t.nvm.errors = (if good = true then s.nvm.errors else min 0xFFFF (s.nvm.errors + 1)) := by
  subst ht
  cases good with
  | false => exact ⟨rfl, rfl, rfl, rfl⟩
  | true =>
    refine ⟨rfl, ?_, rfl, rfl⟩
    have hlast : (if j ≥ 255 then 2 else 1) = (if j = 255 then 2 else 1 : BitVec 2) :=
      ite_congr (propext ⟨fun hl => by omega, fun hl => by omega⟩) (fun _ => rfl) fun _ => rfl
    rw [if_pos rfl, ← hlast]
    rfl

theorem exec_rotationBlockCopy (hrot : s.ks.rot = 1) (hj : s.ks.rotBlock ≤ 255) (hneed : rotNeed s ≤ s.ks.rotLevels)
    (hroot : rootHere s = true) (hc : custodyWrites s = true) (hw : keWorks s = true) :
    exec .rotationBlockCopy s = .next (copyBlock (Config.readsBack s.drawn) (s.draw 1)) :=
  if_pos ⟨hrot, hj, hneed, hroot, hc, hw⟩

/-- A block of live records is copied to the other area (09 R402). -/
theorem blockCopied (hj : s.ks.rotBlock ≤ 255) {t : State} (ht : t = copyBlock (Config.readsBack s.drawn) (s.draw 1)) :
    t = { s with ks := t.ks, nvm := t.nvm, en := t.en, drawn := t.drawn } ∧ t.store = s.store ∧
    t.ks = (if Config.readsBack s.drawn = true then
      { s.ks with rotHash := t.ks.rotHash, rotLevels := 0, ckpt := s.ks.rotBlock, rotBlock := s.ks.rotBlock + 1,
                  rot := if s.ks.rotBlock = 255 then 2 else 1 } else { s.ks with rotLevels := 0 }) ∧
    t.nvm.rotCkpt = (if Config.readsBack s.drawn = true then some (s.ks.rotBlock, t.ks.rotHash, s.ks.seq) else s.nvm.rotCkpt) ∧
    t.nvm.errors = (if Config.readsBack s.drawn = true then s.nvm.errors else min 0xFFFF (s.nvm.errors + 1)) ∧
    (∀ x ∈ s.store.recs, x.recno / 4096 = s.ks.rotBlock → x.tomb = false → indexGood x = true →
      ∃ y ∈ t.otherStore.recs, y.recno = x.recno) ∧
    (∀ y ∈ t.otherStore.recs, y ∈ s.otherStore.recs ∨ ∃ x ∈ s.store.recs, x.recno / 4096 = s.ks.rotBlock ∧ x.tomb = false ∧
      y = { x with gen := s.ks.gen + 1, iv := y.iv, off := y.off, hash := y.hash, crc := y.crc }) := by
  obtain ⟨h, heq⟩ := copyBlock_eq (Config.readsBack s.drawn) (s.draw 1)
  obtain ⟨hframe, hstore, hall, -, honly⟩ := foldl_copiesOnly (liveIn (s.draw 1) (s.draw 1).ks.rotBlock) (s.draw 1)
  rw [← ht] at heq
  generalize (liveIn (s.draw 1) (s.draw 1).ks.rotBlock).foldl (fun s r => copyRewrapped r s) (s.draw 1) = u
    at heq hframe hstore hall honly
  obtain ⟨hnoted, hks, hckpt, herrors⟩ := blockNoted_leaves _ h (j := s.ks.rotBlock) u hj heq
  have huks : u.ks = s.ks := by rw [hframe]; rfl
  have hunvm : u.nvm.rotCkpt = s.nvm.rotCkpt ∧ u.nvm.errors = s.nvm.errors := by rw [hframe]; exact ⟨rfl, rfl⟩
  obtain ⟨htstore, htother⟩ := stores_of_nvm (s := u) (t := t) (by rw [hnoted]) (by rw [hnoted]) (by rw [hnoted])
  rw [huks] at hks hckpt
  rw [hunvm.1] at hckpt
  rw [hunvm.2] at herrors
  refine ⟨?_, htstore.trans hstore, hks, hckpt, herrors, fun x hx hb htomb hgood => ?_, fun y hy => ?_⟩
  · rw [hnoted, hframe]
    rfl
  · rw [htother]
    exact hall x (mem_liveIn.mpr ⟨hx, hb, htomb, hgood⟩)
  · rw [htother] at hy
    obtain hy | ⟨x, hx, hcopy⟩ := honly y hy
    · exact .inl hy
    · obtain ⟨hx, hb, htomb, -⟩ := mem_liveIn.mp hx
      exact .inr ⟨x, hx, hb, htomb, hcopy⟩

/-! ### The flip -/

theorem exec_pointerFlip (hrot : s.ks.rot = 2) (hroot : rootHere s = true) (hc : custodyWrites s = true) (hw : keWorks s = true)
    (hv : rotationVerified s = true) :
    exec .pointerFlip s = .next (if s.nvm.ksPtr0 = nextPointer s then flipPointer s else writePointer0 s) :=
  if_pos ⟨hrot, hroot, hc, hw, hv⟩

theorem writePointer0_nvm (s : State) : (writePointer0 s).nvm =
    { s.nvm with
      storeA := (writePointer0 s).nvm.storeA, storeB := (writePointer0 s).nvm.storeB, boot := (writePointer0 s).nvm.boot,
      ksPtr0 := nextPointer s } := by
  have hother := updOtherStore_nvm (fun a => { a with inval := s.store.inval }) s
  have hput : (writePointer0 s).nvm =
      putKsPtr false (nextPointer s) (s.updOtherStore fun a => { a with inval := s.store.inval }).nvm := rfl
  rw [hput, putKsPtr_frame, hother]
  rfl

theorem writePointer0_frame (s : State) : writePointer0 s = { s with nvm := (writePointer0 s).nvm } := by
  unfold writePointer0 State.updOtherStore
  rfl

theorem writePointer0_stores (s : State) : (writePointer0 s).store = s.store ∧
    (writePointer0 s).otherStore = { s.otherStore with inval := s.store.inval } := by
  have hput : (writePointer0 s).nvm =
      putKsPtr false (nextPointer s) (s.updOtherStore fun a => { a with inval := s.store.inval }).nvm := rfl
  have hframe := putKsPtr_frame false (nextPointer s) (s.updOtherStore fun a => { a with inval := s.store.inval }).nvm
  rw [← hput] at hframe
  obtain ⟨hstore, hother⟩ := stores_of_nvm (s := s.updOtherStore fun a => { a with inval := s.store.inval })
    (t := writePointer0 s) (by rw [hframe]) (by rw [hframe]) (by rw [hframe])
  rw [hstore, hother, store_updOtherStore, otherStore_updOtherStore]
  exact ⟨rfl, rfl⟩

/-- The state in which both copies of the pointer stand (09 R404). -/
def pointerStands (s : State) : State := (writePointer0 s).updNvm fun n =>
  { putKsPtr true (nextPointer s) n with
    ksPtrSeq := (nextPointer s).seq, ksArea := (nextPointer s).area, ksGen := (nextPointer s).gen, ksSeq := (nextPointer s).sseq,
    rotCkpt := none }

/-- Custody once the rotation has ended (09 R402, R404). -/
def rotationEnded (s : State) : State := loadSystem <| s.updKs fun k =>
  { k with area := s.nvm.ksArea, gen := s.nvm.ksGen, rot := 0, ckpt := 0, rotBlock := 0, rotLevels := 0, rotHalf := 0, rotLog := [],
           rotHash := [], rotSeq := none }

/-- What the end of a rotation leaves once both copies of the pointer stand. -/
theorem rotationEnded_leaves (q : BitVec 16) {u t : State} (ht : t = reply none 0x0203 q.toNat 0 [] (assertBlk 15 (rotationEnded u))) :
    t = { u with ks := t.ks, mgmt := t.mgmt } ∧ t.answered none 0x0203 q.toNat 0 ∧ t.mgmt.intStatus.getLsbD 15 = true ∧
      t.ks.rot = 0 ∧ t.ks.gen = u.nvm.ksGen ∧ t.ks.area = u.nvm.ksArea := by
  subst ht
  exact ⟨rfl, reply_answered .., assertBlk_bit 15 (by decide) (rotationEnded u), rfl, rfl, rfl⟩

theorem pointerStands_frame (s : State) : pointerStands s = { s with nvm := (pointerStands s).nvm } := by
  rw [pointerStands, writePointer0_frame]
  rfl

theorem flipPointer_eq {q : BitVec 16} (hq : s.ks.rotSeq = some q) :
    flipPointer s = reply none 0x0203 q.toNat 0 [] (assertBlk 15 (rotationEnded (pointerStands s))) := by
  have hseq : (pointerStands s).ks.rotSeq = some q := hq
  have hflip : flipPointer s = match (pointerStands s).ks.rotSeq with
    | none => assertBlk 15 (rotationEnded (pointerStands s))
    | some n => reply none 0x0203 n.toNat 0 [] (assertBlk 15 (rotationEnded (pointerStands s))) := rfl
  rw [hflip, hseq]

theorem pointerStands_nvm (s : State) : (pointerStands s).nvm =
    { (writePointer0 s).nvm with
      boot := (pointerStands s).nvm.boot, ksPtr1 := nextPointer s, ksPtrSeq := (nextPointer s).seq, ksArea := !s.nvm.ksArea,
      ksGen := s.ks.gen + 1, ksSeq := (nextPointer s).sseq, rotCkpt := none } := by
  have hframe := putKsPtr_frame true (nextPointer s) (writePointer0 s).nvm
  have hput : (pointerStands s).nvm = { putKsPtr true (nextPointer s) (writePointer0 s).nvm with
    ksPtrSeq := (nextPointer s).seq, ksArea := (nextPointer s).area, ksGen := (nextPointer s).gen, ksSeq := (nextPointer s).sseq,
    rotCkpt := none } := rfl
  rw [hput, hframe]
  rfl

/-- Both copies of the pointer name the other area, which is in force from then on (09 R404). -/
theorem pointerFlipped {q : BitVec 16} (hq : s.ks.rotSeq = some q) {t : State} (ht : t = flipPointer s) :
    t = { s with ks := t.ks, nvm := t.nvm, mgmt := t.mgmt } ∧ t.answered none 0x0203 q.toNat 0 ∧
    t.mgmt.intStatus.getLsbD 15 = true ∧ t.store = { s.otherStore with inval := s.store.inval } ∧
    t.otherStore = s.store ∧ t.ks.rot = 0 ∧ t.ks.gen = s.ks.gen + 1 ∧ t.ks.area = !s.nvm.ksArea ∧
    t.nvm.ksPtr0 = nextPointer s ∧ t.nvm.ksPtr1 = nextPointer s := by
  obtain ⟨hframe, hans, hbit, hrot, hgen, harea⟩ := rotationEnded_leaves q (ht.trans (flipPointer_eq hq))
  have hstands := pointerStands_frame s
  have hw0 := writePointer0_nvm s
  have hnvm := pointerStands_nvm s
  obtain ⟨hstore0, hother0⟩ := writePointer0_stores s
  generalize pointerStands s = u at hframe hgen harea hstands hnvm
  generalize writePointer0 s = w at hw0 hnvm hstore0 hother0
  have htnvm : t.nvm = u.nvm := by rw [hframe]
  obtain ⟨hstore, hother⟩ := stores_flipped (s := w) (t := t) (by rw [htnvm, hnvm]) (by rw [htnvm, hnvm])
    (by rw [htnvm, hnvm, hw0])
  refine ⟨?_, hans, hbit, hstore.trans hother0, hother.trans hstore0, hrot, ?_, ?_, ?_, ?_⟩
  · rw [hframe, hstands]
  · rw [hgen, hnvm]
  · rw [harea, hnvm]
  · rw [htnvm, hnvm, hw0]
  · rw [htnvm, hnvm]

end

end Sys2Proof.Machine
end

section
/-! PROOF. Reroots, and the rotation of the storage key settled (09 R402, R404, R405). -/
namespace Sys2Proof.Machine

section
variable {s : State} {m : Msg}

/-! ### A reroot -/

/-- The state in which a reroot has a new BBK and an empty store (09 R405). -/
def storeEmptied (s : State) : State :=
  (((s.updEn (takeBuf 32)).draw 32).updAon fun a =>
    { a with bbk := some (drawnBytes s.drawn 32), storeCounter := 0, rootClr := false }).updNvm emptyStore

/-- Custody with a new root and no key (09 R405). -/
def rootMade (s : State) : State := loadSystem <| (storeEmptied s).updKs fun k =>
  { k with kr := some (deriveRoot (drawnBytes s.drawn 32) s.fds), root := 1, rot := 0, ckpt := 0, rotBlock := 0, rotLevels := 0,
           rotHalf := 0, rotLog := [], rotHash := [], rotSeq := none,
           gen := 1, seq := 0, cache := [], lost := [], pendingH := [], invalNext := [], invalid := [], commits := [] }

theorem reroot_eq (s : State) : ∃ f : List IvCtr → List IvCtr,
    reroot s = (loadResidents (rootMade s)).updKs fun k => { k with ivs := f k.ivs } := by
  refine ⟨fun l => l.filter fun v => (loadResidents (rootMade s)).ks.cache.any fun c =>
    c.tenant = v.tenant && c.handle == v.handle && slotCounts (loadResidents (rootMade s)) c, ?_⟩
  rfl

theorem emptyStore_areas (n : Nvm) : (emptyStore n).storeA = StoreArea.reset ∧ (emptyStore n).storeB = StoreArea.reset :=
  ⟨rfl, rfl⟩

theorem rootMade_stores (s : State) : (rootMade s).store = StoreArea.reset ∧ (rootMade s).otherStore = StoreArea.reset := by
  obtain ⟨ha, hb⟩ := emptyStore_areas s.nvm
  have hnvm : (rootMade s).nvm = emptyStore s.nvm := rfl
  unfold State.store State.otherStore
  rw [hnvm, ha, hb]
  exact ⟨ite_self _, ite_self _⟩

/-- An empty store has no resident record (09 R384). -/
theorem residentRecords_empty (h : s.store.recs = []) : residentRecords s = [] := by
  have hnone : ∀ a b, recordOf s a b = none := fun a b => by
    unfold recordOf
    cases recordNo s a b with
    | none => rfl
    | some k => simp [StoreArea.live, h]
  simp [residentRecords, hnone]

/-- With an empty store the resident nodes enter the cache, and nothing is reported (09 R384, R405). -/
theorem loadResidents_empty (h : s.store.recs = []) : loadResidents s = { s with
    ks := { s.ks with cache := (loadResidents s).ks.cache } } := by
  unfold loadResidents
  dsimp only
  rw [residentRecords_empty h]
  rfl

/-- What the counters of a reroot's resident keys change: themselves, and their marks in NVM (04 R188, R193). -/
def countersOnly (s t : State) : Prop :=
  t = { s with ks := { s.ks with ivs := t.ks.ivs }, nvm := { s.nvm with marks0 := t.nvm.marks0, marks1 := t.nvm.marks1 } }

theorem addCounter_countersOnly (s : State) (c : CacheSlot) : countersOnly s (addCounter s c) := by
  unfold addCounter countersOnly
  split <;> rfl

theorem countersOnly_trans {s t u : State} (ht : countersOnly s t) (hu : countersOnly t u) : countersOnly s u := by
  unfold countersOnly at ht hu ⊢
  rw [hu, ht]

theorem foldl_countersOnly (l : List CacheSlot) (s : State) : countersOnly s (l.foldl addCounter s) := by
  induction l generalizing s with
  | nil => exact rfl
  | cons c l ih => exact countersOnly_trans (addCounter_countersOnly s c) (ih _)

theorem serviceCounters_countersOnly (s : State) : countersOnly s (serviceCounters s) := foldl_countersOnly _ s

/-- A reroot leaves an empty store of generation 1 under a new root (09 R405). -/
theorem reroot_leaves {t : State} (ht : t = serviceCounters (reroot s)) : t.ks.root = 1 ∧ t.ks.gen = 1 ∧ t.ks.seq = 0 ∧
    t.store = StoreArea.reset ∧ t.otherStore = StoreArea.reset ∧ t.aon.rootClr = false ∧ t.aon.storeCounter = 0 := by
  have hcount := serviceCounters_countersOnly (reroot s)
  rw [← ht] at hcount
  obtain ⟨f, hroot⟩ := reroot_eq s
  obtain ⟨hstore, hother⟩ := rootMade_stores s
  have hload := loadResidents_empty (s := rootMade s) (by rw [hstore]; rfl)
  have hmade : (rootMade s).ks.root = 1 ∧ (rootMade s).ks.gen = 1 ∧ (rootMade s).ks.seq = 0 ∧ (rootMade s).aon.rootClr = false ∧
      (rootMade s).aon.storeCounter = 0 := ⟨rfl, rfl, rfl, rfl, rfl⟩
  generalize rootMade s = u at hroot hstore hother hload hmade
  rw [hload] at hroot
  generalize (loadResidents u).ks.cache = k at hroot
  rw [hroot] at hcount
  obtain ⟨hst, hot⟩ := stores_of_nvm (s := u) (t := t) (by rw [hcount]; rfl) (by rw [hcount]; rfl) (by rw [hcount]; rfl)
  obtain ⟨h1, h2, h3, h4, h5⟩ := hmade
  refine ⟨?_, ?_, ?_, hst.trans hstore, hot.trans hother, ?_, ?_⟩ <;> rw [hcount] <;> assumption

/-- The answer to a reroot leaves the store, the key custody and the always-on domain. -/
theorem rerootAnswered_leaves (m : Msg) (v : State) {t : State} (ht : t = answer m 0 (assertBlk 15 v)) :
    t.ks = v.ks ∧ t.store = v.store ∧ t.otherStore = v.otherStore ∧ t.aon = v.aon ∧ t.mgmt.intStatus.getLsbD 15 = true := by
  subst ht
  exact ⟨rfl, rfl, rfl, rfl, assertBlk_bit 15 (by decide) v⟩

section
variable (hm : s.requestIs 0x0204 m) (hpay : m.payload = 0) (hlen : m.paylen = 0) (hpar : allZero m.params = true)

include hm hpay hlen hpar in
theorem exec_reroot (hdue : s.ks.root.toNat < 2 ∨ s.lc.state = 6 ∨ s.en.state = 3 ∨
      rerootReady s = true ∧ custodyWrites s = true) :
    exec .reroot s = .next (if (s.ks.root.toNat < 2 || s.lc.state == 6 || s.en.state == 3) = true then
      answer m 0x85 (takeMessage m s)
      else answer m 0 (assertBlk 15 (serviceCounters (reroot (takeMessage m s))))) := by
  have hgo : ¬ ((!(decide (s.ks.root.toNat < 2) || s.lc.state == 6 || s.en.state == 3) && (!rerootReady s || !custodyWrites s) &&
      (nextMessage s).any fun m => m.code == 0x0204) = true) := by
    intro h
    obtain hd | hd | hd | ⟨hr, hc⟩ := hdue <;> simp_all
  refine (if_neg hgo).trans (congrArg Host.Outcome.next ((onRequest_go hm _).trans ?_))
  exact if_neg (by rintro (h | h | h) <;> first | omega | exact h hpar)

end

end

/-- Settles O49, by the copies that a block leaves, and by the areas that the pointer and a reroot leave. -/
theorem storageKeyRotates : Obligations.StorageKeyRotates := by
  unfold Obligations.StorageKeyRotates
  refine ⟨fun s m hm hpay hlen hpar => ⟨rotationStarts hm hpay hlen hpar, fun h0 => ?_, fun h0 hroot => ?_⟩,
    fun s hrot hj hneed hroot hc hw => ⟨_, exec_rotationBlockCopy hrot hj hneed hroot hc hw, blockCopied hj rfl⟩,
    fun s q hrot hroot hq hc hw hv => ⟨fun hp => ?_, fun hp => ?_⟩,
    fun s m hm hpay hlen hpar => ⟨fun hlost hlc hen hready hc => ?_, fun href => ?_⟩⟩
  · have hexec := exec_storageKeyRotation hm hpay hlen hpar
    rw [if_pos h0] at hexec
    exact ⟨_, hexec, answered_mgmtOnly (requestIs_mgmtBox hm rfl) _, answer_request (requestIs_code hm) _ _⟩
  · have hexec := exec_storageKeyRotation hm hpay hlen hpar
    rw [if_neg (not_not_intro h0), if_pos (by simp [hroot])] at hexec
    exact ⟨_, hexec, answered_mgmtOnly (requestIs_mgmtBox hm rfl) _, answer_request (requestIs_code hm) _ _⟩
  · have hexec := exec_pointerFlip hrot hroot hc hw hv
    rw [if_pos hp] at hexec
    exact ⟨_, hexec, pointerFlipped hq rfl⟩
  · have hexec := exec_pointerFlip hrot hroot hc hw hv
    rw [if_neg hp] at hexec
    obtain ⟨hstore, hother⟩ := writePointer0_stores s
    exact ⟨_, hexec, writePointer0_frame s, hstore, hother, by rw [writePointer0_nvm], by rw [writePointer0_nvm]⟩
  · have hexec := exec_reroot hm hpay hlen hpar (.inr (.inr (.inr ⟨hready, hc⟩)))
    have hgo : ¬ (decide (s.ks.root.toNat < 2) || s.lc.state == 6 || s.en.state == 3) = true := by
      rw [Bool.or_eq_true, Bool.or_eq_true, decide_eq_true_eq, beq_iff_eq, beq_iff_eq]
      rintro ((h | h) | h)
      · omega
      · exact hlc h
      · exact hen h
    rw [if_neg hgo] at hexec
    have hfixed : (answer m 0 (assertBlk 15 (serviceCounters (reroot (takeMessage m s))))).fixed =
        { s.fixed with bbk := some (drawnBytes (takeMessage m s).drawn 32) } := by
      have htake : (takeMessage m s).fixed = s.fixed := by simp
      rw [← htake, ← reroot_fixed_eq]
      simp
    generalize takeMessage m s = u at hexec hfixed
    obtain ⟨h1, h2, h3, h4, h5, h6, h7⟩ := reroot_leaves (s := u) rfl
    generalize serviceCounters (reroot u) = v at hexec hfixed h1 h2 h3 h4 h5 h6 h7
    obtain ⟨hks, hstore, hother, haon, hbit⟩ := rerootAnswered_leaves m v rfl
    refine ⟨_, drawnBytes u.drawn 32, hexec, hfixed, drawnBytes_length .., answer_request (requestIs_code hm) _ _, ?_⟩
    rw [hks, hstore, hother, haon]
    exact ⟨h1, h2, h3, h4, h5, h6, h7, hbit⟩
  · have hexec := exec_reroot hm hpay hlen hpar (href.imp_right (Or.imp_right .inl))
    rw [if_pos (by simpa [or_assoc] using href)] at hexec
    exact ⟨_, hexec, answered_mgmtOnly (requestIs_mgmtBox hm rfl) _, answer_request (requestIs_code hm) _ _⟩

end Sys2Proof.Machine
end

section
/-! SUPPORT. Pinned slots of the key cache, and the keys that misses bring (09 R382 to R384). -/
namespace Sys2Proof.Machine

/-! ### Pinned slots -/

/-- A slot of a key is pinned for a request (09 R382). -/
def pinnedFor (r : Request) (h : BitVec 20) (s : State) : Prop :=
  ∃ c ∈ s.ks.cache, c.tenant = r.tenant ∧ c.handle = h ∧ r.rid ∈ c.pins

section
variable {s : State} {c x : CacheSlot}

theorem evictFor_keeps (need fuel : Nat) (s : State) (hc : c ∈ s.ks.cache) (hp : c.pins ≠ []) :
    c ∈ (evictFor need fuel s).ks.cache := by
  induction fuel generalizing s with
  | zero => exact hc
  | succ fuel ih =>
    unfold evictFor
    split
    · exact hc
    · split
      · exact hc
      · refine ih _ (List.mem_filter.mpr ⟨hc, ?_⟩)
        simp [hp]

/-- A slot that is pinned is neither replaced nor evicted (09 R382, R383). -/
theorem cachePut_keeps (x : CacheSlot) (hc : c ∈ s.ks.cache) (hp : c.pins ≠ []) : c ∈ (cachePut x s).ks.cache := by
  have hfilter : c ∈ (s.updKs fun k =>
      { k with cache := k.cache.filter fun y => y.old || !y.pins.isEmpty || !(y.tenant = x.tenant && y.handle = x.handle) }).ks.cache :=
    List.mem_filter.mpr ⟨hc, by simp [hp]⟩
  unfold cachePut
  dsimp only
  split
  · split
    · exact List.mem_append_left _ (evictFor_keeps _ _ _ hfilter hp)
    · exact evictFor_keeps _ _ _ hfilter hp
  · exact List.mem_append_left _ hfilter

/-- Only the pool can lack room for a slot (09 R383). -/
theorem cachePut_enters (h : x.part ≠ .pool) : x ∈ (cachePut x s).ks.cache := by
  unfold cachePut
  dsimp only
  rw [if_neg (by simpa using h)]
  exact List.mem_append_right _ (List.mem_singleton_self x)

theorem evictFor_frame (need fuel : Nat) (s : State) : evictFor need fuel s =
    { s with ks := { s.ks with cache := (evictFor need fuel s).ks.cache, evict := (evictFor need fuel s).ks.evict } } := by
  induction fuel generalizing s with
  | zero => rfl
  | succ fuel ih =>
    unfold evictFor
    split
    · rfl
    · split
      · rfl
      · rw [ih]
        rfl

theorem cachePut_frame (x : CacheSlot) (s : State) : cachePut x s =
    { s with ks := { s.ks with cache := (cachePut x s).ks.cache, evict := (cachePut x s).ks.evict } } := by
  unfold cachePut
  dsimp only
  split
  · split <;> rw [evictFor_frame] <;> rfl
  · rfl

/-- A slot that the pool does not hold enters the cache without an eviction (09 R383). -/
theorem cachePut_frame_other (h : x.part ≠ .pool) (s : State) : cachePut x s =
    { s with ks := { s.ks with cache := (cachePut x s).ks.cache } } := by
  unfold cachePut
  dsimp only
  rw [if_neg (by simpa using h)]
  rfl

end

/-! ### What a missed key that comes in changes -/

/-- What bringing a missed key changes: the cache with its counts, and the requests. -/
def State.missOnly (s t : State) : Prop :=
  t = { s with
    ks := { s.ks with cache := t.ks.cache, miss := t.ks.miss, useSeq := t.ks.useSeq, evict := t.ks.evict }, reqs := t.reqs }

theorem missOnly_refl (s : State) : s.missOnly s := rfl

theorem missOnly_trans {s t u : State} (ht : s.missOnly t) (hu : t.missOnly u) : s.missOnly u := by
  unfold State.missOnly at ht hu ⊢
  rw [hu, ht]

theorem missOnly_cachePut (x : CacheSlot) (s : State) : s.missOnly (cachePut x s) := by
  unfold State.missOnly
  rw [cachePut_frame]

/-- What bringing the missed key `h` of request `r` does: it may leave the misses, pinned then, and no other key does. -/
def bringsKey (r : Request) (h : BitVec 20) (s t : State) : Prop :=
  s.missOnly t ∧ (∀ k, pinnedFor r k s → pinnedFor r k t) ∧
    ∀ q, s.req? r.rid = some q → ∃ p, t.req? r.rid = some p ∧ p = { q with misses := p.misses, missRun := p.missRun } ∧
      (∀ k ∈ p.misses, k ∈ q.misses ∨ k = h) ∧ (∀ k ∈ q.misses, k ≠ h → k ∈ p.misses) ∧
      (h ∈ q.misses → h ∉ p.misses → pinnedFor r h t)

theorem bringsKey_refl (r : Request) (h : BitVec 20) (s : State) : bringsKey r h s s :=
  ⟨missOnly_refl s, fun _ hp => hp, fun q hq => ⟨q, hq, rfl, fun _ hk => .inl hk, fun _ hk _ => hk, fun hk hn => absurd hk hn⟩⟩

section
variable {s : State} {r : Request} {h : BitVec 20}

/-- A request whose missed key is settled (09 R382). -/
def Request.settled (levels : Nat) (h : BitVec 20) (q : Request) : Request :=
  { q with misses := q.misses.filter (· ≠ h), missRun := q.missRun - levels }

theorem req?_settleMiss {rid : Nat} {q : Request} (hq : s.req? rid = some q) (levels : Nat) (h : BitVec 20) :
    (settleMiss rid levels h s).req? rid = some (q.settled levels h) :=
  req?_updReq_same hq fun _ => rfl

theorem mem_settled {levels : Nat} {k : BitVec 20} {q : Request} : k ∈ (q.settled levels h).misses ↔ k ∈ q.misses ∧ k ≠ h := by
  simp [Request.settled]

theorem pinnedFor_of_keeps {t : State} (hk : ∀ c ∈ s.ks.cache, c.pins ≠ [] → c ∈ t.ks.cache) {k : BitVec 20}
    (hp : pinnedFor r k s) : pinnedFor r k t := by
  obtain ⟨c, hc, ht, hh, hr⟩ := hp
  exact ⟨c, hk c hc (List.ne_nil_of_mem hr), ht, hh, hr⟩

/-- The state in which a missed key has been put into the cache, pinned for its request (09 R382). -/
def missPut (rid levels nodes : Nat) (c : CacheSlot) (s : State) : State :=
  (cachePut { c with pins := [rid], lastUse := s.ks.useSeq } (settleMiss rid levels c.handle s)).updKs fun k =>
    { k with miss := satAdd 0xFFFF k.miss nodes, useSeq := k.useSeq + 1 }

/-- Whether the slot put for a missed key has found room. -/
def missFound (rid : Nat) (c : CacheSlot) (s : State) : Bool :=
  s.ks.cache.any fun x => x.tenant = c.tenant && x.handle == c.handle && x.pins.contains rid

theorem bringKey_eq (rid levels nodes : Nat) (c : CacheSlot) (s : State) : bringKey rid levels nodes c s =
    if missFound rid c (missPut rid levels nodes c s) then missPut rid levels nodes c s
    else (missPut rid levels nodes c s).updReq rid fun r => { r with misses := r.misses ++ [c.handle] } := rfl

theorem missPut_missOnly (rid levels nodes : Nat) (c : CacheSlot) (s : State) : s.missOnly (missPut rid levels nodes c s) := by
  have hsettle : s.missOnly (settleMiss rid levels c.handle s) := rfl
  refine missOnly_trans (missOnly_trans hsettle (missOnly_cachePut { c with pins := [rid], lastUse := s.ks.useSeq } _)) ?_
  rfl

theorem missPut_req? {rid : Nat} {q : Request} (hq : s.req? rid = some q) (levels nodes : Nat) (c : CacheSlot) :
    (missPut rid levels nodes c s).req? rid = some (q.settled levels c.handle) := by
  have hreqs : (missPut rid levels nodes c s).reqs = (settleMiss rid levels c.handle s).reqs := by
    unfold missPut
    rw [cachePut_frame]
    rfl
  rw [State.req?, hreqs]
  exact req?_settleMiss hq levels c.handle

theorem missPut_pinned (levels nodes : Nat) (c : CacheSlot) {k : BitVec 20} (hp : pinnedFor r k s) :
    pinnedFor r k (missPut r.rid levels nodes c s) := by
  refine pinnedFor_of_keeps (s := s) (fun x hx hpins => ?_) hp
  exact cachePut_keeps (s := settleMiss r.rid levels c.handle s) { c with pins := [r.rid], lastUse := s.ks.useSeq } hx hpins

theorem missFound_pinned {c : CacheSlot} (hc : c.tenant = r.tenant) (hf : missFound r.rid c s = true) : pinnedFor r c.handle s := by
  obtain ⟨x, hx, hall⟩ := List.any_eq_true.mp hf
  simp only [Bool.and_eq_true, decide_eq_true_eq, beq_iff_eq, List.contains_iff_mem] at hall
  obtain ⟨⟨ht, hh⟩, hr⟩ := hall
  exact ⟨x, hx, ht.trans hc, hh, hr⟩

/-- A key that comes in is pinned, or is still awaited where the pool lacks room (09 R382). -/
theorem bringKey_brings {c : CacheSlot} (hc : c.tenant = r.tenant) (levels nodes : Nat) (s : State) :
    bringsKey r c.handle s (bringKey r.rid levels nodes c s) := by
  have honly := missPut_missOnly r.rid levels nodes c s
  have hpinned : ∀ k, pinnedFor r k s → pinnedFor r k (missPut r.rid levels nodes c s) := fun k hp => missPut_pinned levels nodes c hp
  have hreq := fun (q : Request) (hq : s.req? r.rid = some q) => missPut_req? hq levels nodes c
  rw [bringKey_eq]
  generalize missPut r.rid levels nodes c s = u at honly hpinned hreq
  split
  case isTrue hf =>
    refine ⟨honly, hpinned, fun q hq => ⟨_, hreq q hq, rfl, fun k hk => .inl (mem_settled.mp hk).1, fun k hk hne =>
      mem_settled.mpr ⟨hk, hne⟩, fun _ _ => missFound_pinned hc hf⟩⟩
  case isFalse =>
    refine ⟨missOnly_trans honly rfl, hpinned, fun q hq => ?_⟩
    refine ⟨_, req?_updReq_same (hreq q hq) fun _ => rfl, rfl, fun k hk => ?_, fun k hk hne => ?_, fun _ hn => ?_⟩
    · obtain hk | hk := List.mem_append.mp hk
      · exact .inl (mem_settled.mp hk).1
      · exact .inr (List.mem_singleton.mp hk)
    · exact List.mem_append_left _ (mem_settled.mpr ⟨hk, hne⟩)
    · exact absurd (List.mem_append_right _ (List.mem_singleton_self _)) hn

/-- A key whose slot the pool does not hold is awaited no more (09 R383). -/
theorem bringKey_settles {c : CacheSlot} (hpart : c.part ≠ .pool) {levels nodes : Nat} {p q : Request} (hq : s.req? r.rid = some q)
    (hp : (bringKey r.rid levels nodes c s).req? r.rid = some p) : c.handle ∉ p.misses := by
  have hput : { c with pins := [r.rid], lastUse := s.ks.useSeq } ∈ (missPut r.rid levels nodes c s).ks.cache :=
    cachePut_enters (x := { c with pins := [r.rid], lastUse := s.ks.useSeq }) (s := settleMiss r.rid levels c.handle s) hpart
  have hfound : missFound r.rid c (missPut r.rid levels nodes c s) = true :=
    List.any_eq_true.mpr ⟨_, hput, by simp⟩
  rw [bringKey_eq, if_pos hfound, missPut_req? hq] at hp
  cases hp
  intro hm
  exact (mem_settled.mp hm).2 rfl

/-- The value that a cut-over kept for a request stays pinned for it (09 R400). -/
theorem bringOld_brings (hold : keptOld s r h = true) (levels : Nat) : bringsKey r h s (bringOld r.rid levels h s) := by
  have hpinned : ∀ k, pinnedFor r k s → pinnedFor r k (bringOld r.rid levels h s) := by
    rintro k ⟨c, hc, ht, hh, hr⟩
    refine ⟨_, List.mem_map.mpr ⟨c, hc, rfl⟩, ?_⟩
    split <;> exact ⟨ht, hh, hr⟩
  refine ⟨rfl, hpinned, fun q hq => ⟨_, req?_settleMiss hq levels h, rfl, fun k hk => .inl (mem_settled.mp hk).1,
    fun k hk hne => mem_settled.mpr ⟨hk, hne⟩, fun _ _ => hpinned h ?_⟩⟩
  obtain ⟨x, hx, hall⟩ := List.any_eq_true.mp hold
  simp only [Bool.and_eq_true, decide_eq_true_eq, beq_iff_eq, List.contains_iff_mem] at hall
  obtain ⟨⟨⟨-, ht⟩, hh⟩, hr⟩ := hall
  exact ⟨x, hx, ht, hh, hr⟩

theorem bringOld_settles {levels : Nat} {p q : Request} (hq : s.req? r.rid = some q)
    (hp : (bringOld r.rid levels h s).req? r.rid = some p) : h ∉ p.misses := by
  have hp' := (req?_settleMiss hq levels h).symm.trans hp
  cases hp'
  intro hm
  exact (mem_settled.mp hm).2 rfl

/-! ### Nodes and records of a missed key -/

/-- A node is found under its own handle. -/
theorem nodeOf_key {t k i : Nat} {nd : Node} (hn : nodeOf s t k = some (i, nd)) : nd.tenant = t ∧ nd.handle.toNat = k := by
  obtain ⟨⟨x, j⟩, hfind, heq⟩ := Option.map_eq_some_iff.mp hn
  cases heq
  simpa using List.find?_some hfind

theorem nodeSlot_key (s : State) (i : Nat) (nd : Node) (part : Partition) (plat avail : Nat) :
    (nodeSlot s i nd part plat avail).tenant = nd.tenant ∧ (nodeSlot s i nd part plat avail).handle = nd.handle ∧
      (nodeSlot s i nd part plat avail).part = part := ⟨rfl, rfl, rfl⟩

end

end Sys2Proof.Machine
end

section
/-! PROOF. Missed and lost keys (09 R382 to R384, Table 09-7; 12 Table 12-7). -/
namespace Sys2Proof.Machine

section
variable {s : State} {r : Request}

/-- What a missed key turns on does not change while others come in. -/
theorem missOnly_image {t : State} (h : s.missOnly t) : t.image = s.image := by
  unfold State.missOnly at h
  rw [h]
  rfl

theorem missOnly_nodeOf {t : State} (h : s.missOnly t) (a b : Nat) : nodeOf t a b = nodeOf s a b := by
  unfold State.missOnly at h
  rw [h]
  rfl

theorem missOnly_recordOf {t : State} (h : s.missOnly t) (a b : Nat) : recordOf t a b = recordOf s a b := by
  unfold State.missOnly at h
  rw [h]
  rfl

theorem missOnly_recordGood {t : State} (h : s.missOnly t) (x : StoreRec) : recordGood t x = recordGood s x := by
  unfold State.missOnly at h
  rw [h]
  rfl

/-! ### Nodes of a through platform -/

theorem deriveMiss_brings (h : BitVec 20) (s : State) : bringsKey r h s (deriveMiss r s h) := by
  unfold deriveMiss
  split
  case isTrue hold => exact bringOld_brings hold 1
  case isFalse =>
    split
    case h_1 => exact bringsKey_refl r h s
    case h_2 i nd hn =>
      obtain ⟨htenant, hhandle⟩ := nodeOf_key hn
      have hh : nd.handle = h := BitVec.eq_of_toNat_eq hhandle
      have hbrings := bringKey_brings (r := r) (c := nodeSlot s i nd (if r.rate = .inRate then .miss else .pool) r.plat (missAvail s))
        htenant 1 1 s
      rw [(nodeSlot_key ..).2.1, hh] at hbrings
      exact hbrings

theorem deriveMiss_settles (hrate : r.rate = .inRate) {h : BitVec 20} (hn : (nodeOf s r.tenant h.toNat).isSome = true)
    {p q : Request} (hq : s.req? r.rid = some q) (hp : (deriveMiss r s h).req? r.rid = some p) : h ∉ p.misses := by
  unfold deriveMiss at hp
  split at hp
  case isTrue => exact bringOld_settles hq hp
  case isFalse =>
    split at hp
    case h_1 hnone => simp [hnone] at hn
    case h_2 i nd hsome =>
      have hh : nd.handle = h := BitVec.eq_of_toNat_eq (nodeOf_key hsome).2
      obtain ⟨-, hhandle, hpart⟩ := nodeSlot_key s i nd .miss r.plat (missAvail s)
      generalize nodeSlot s i nd .miss r.plat (missAvail s) = c at hp hhandle hpart
      rw [← hh, ← hhandle]
      exact bringKey_settles (by rw [hpart]; decide) hq hp

/-! ### Keys of freight -/

theorem loadMiss_brings (h : BitVec 20) (s : State)
    (hgood : ∀ x, recordOf s r.tenant h.toNat = some x → recordGood s x = true) : bringsKey r h s (loadMiss r s h) := by
  unfold loadMiss
  dsimp only
  split
  case isTrue hold => exact bringOld_brings hold _
  case isFalse =>
    split
    case isTrue =>
      split
      case h_1 => exact bringsKey_refl r h s
      case h_2 x hx =>
        rw [if_pos (hgood x hx)]
        exact bringKey_brings (r := r) (c := { recordSlot x .pool (missAvail s) with tenant := r.tenant, handle := h }) rfl _ 0 s
    case isFalse =>
      split
      case h_1 => exact bringsKey_refl r h s
      case h_2 i nd hn =>
        obtain ⟨htenant, hhandle⟩ := nodeOf_key hn
        have hh : nd.handle = h := BitVec.eq_of_toNat_eq hhandle
        have hbrings := bringKey_brings (r := r) (c := nodeSlot s i nd .pool r.plat (missAvail s)) htenant
          (missLevels s r h) (missLevels s r h) s
        rw [(nodeSlot_key ..).2.1, hh] at hbrings
        exact hbrings

/-! ### All that are due -/

/-- What bringing the keys `l` of request `r` leaves of `s`: `r` awaits no other than before, and lacks only what is pinned. -/
def bringsKeys (r : Request) (l : List (BitVec 20)) (s t : State) : Prop :=
  s.missOnly t ∧ (∀ k, pinnedFor r k s → pinnedFor r k t) ∧
    ∀ q, s.req? r.rid = some q → ∃ p, t.req? r.rid = some p ∧ p = { q with misses := p.misses, missRun := p.missRun } ∧
      (∀ k ∈ p.misses, k ∈ q.misses ∨ k ∈ l) ∧ (∀ k ∈ q.misses, k ∉ l → k ∈ p.misses) ∧
      (∀ k ∈ q.misses, k ∉ p.misses → pinnedFor r k t)

theorem bringsKeys_nil (r : Request) (s : State) : bringsKeys r [] s s :=
  ⟨missOnly_refl s, fun _ hp => hp, fun q hq => ⟨q, hq, rfl, fun _ hk => .inl hk, fun _ hk _ => hk, fun _ hk hn => absurd hk hn⟩⟩

theorem bringsKeys_cons {h : BitVec 20} {l : List (BitVec 20)} {t u : State} (ht : bringsKey r h s t) (hu : bringsKeys r l t u) :
    bringsKeys r (h :: l) s u := by
  obtain ⟨honly, hpin, hreq⟩ := ht
  obtain ⟨honly', hpin', hreq'⟩ := hu
  refine ⟨missOnly_trans honly honly', fun k hp => hpin' k (hpin k hp), fun q hq => ?_⟩
  obtain ⟨p, hp, heq, hsub, hkept, hbrought⟩ := hreq q hq
  obtain ⟨p', hp', heq', hsub', hkept', hbrought'⟩ := hreq' p hp
  refine ⟨p', hp', by rw [heq', heq], fun k hk => ?_, fun k hk hne => ?_, fun k hk hn => ?_⟩
  · obtain hk | hk := hsub' k hk
    · obtain hk | rfl := hsub k hk
      · exact .inl hk
      · exact .inr (List.mem_cons_self ..)
    · exact .inr (List.mem_cons_of_mem _ hk)
  · rw [List.mem_cons, not_or] at hne
    exact hkept' k (hkept k hk hne.1) hne.2
  · by_cases hkp : k ∈ p.misses
    · exact hbrought' k hkp hn
    · by_cases hkh : k = h
      · subst hkh
        exact hpin' k (hbrought hk hkp)
      · exact absurd (hkept k hk hkh) hkp

theorem foldl_deriveMiss (r : Request) (l : List (BitVec 20)) (s : State) : bringsKeys r l s (l.foldl (deriveMiss r) s) := by
  induction l generalizing s with
  | nil => exact bringsKeys_nil r s
  | cons h l ih => exact bringsKeys_cons (deriveMiss_brings h s) (ih _)

theorem foldl_loadMiss (r : Request) (l : List (BitVec 20)) (s : State)
    (hgood : ∀ h ∈ l, ∀ x, recordOf s r.tenant h.toNat = some x → recordGood s x = true) :
    bringsKeys r l s (l.foldl (loadMiss r) s) := by
  induction l generalizing s with
  | nil => exact bringsKeys_nil r s
  | cons h l ih =>
    have hone := loadMiss_brings (r := r) h s (hgood h (List.mem_cons_self ..))
    refine bringsKeys_cons hone (ih _ fun k hk x hx => ?_)
    rw [missOnly_recordOf hone.1] at hx
    rw [missOnly_recordGood hone.1]
    exact hgood k (List.mem_cons_of_mem _ hk) x hx

/-- A due node of a request in rate is awaited no more, whatever comes in after it (09 R383). -/
theorem foldl_deriveMiss_settles (hrate : r.rate = .inRate) (l : List (BitVec 20)) (s : State) {q : Request}
    (hq : s.req? r.rid = some q) {p : Request} (hp : (l.foldl (deriveMiss r) s).req? r.rid = some p) :
    (∀ h, (nodeOf s r.tenant h.toNat).isSome = true → h ∈ l ∨ h ∉ q.misses → h ∉ p.misses) := by
  induction l generalizing s q with
  | nil =>
    intro h _ hor
    cases hq.symm.trans hp
    obtain hmem | hnot := hor
    · simp at hmem
    · exact hnot
  | cons k l ih =>
    intro h hn hor
    have hone := deriveMiss_brings (r := r) k s
    obtain ⟨p', hp', -, hsub, -, -⟩ := hone.2.2 q hq
    refine ih (deriveMiss r s k) hp' hp h (by rw [missOnly_nodeOf hone.1]; exact hn) ?_
    by_cases hkh : h = k
    · subst hkh
      exact .inr (deriveMiss_settles hrate hn hq hp')
    · obtain hmem | hnot := hor
      · exact .inl ((List.mem_cons.mp hmem).resolve_left hkh)
      · exact .inr fun hmem => (hsub h hmem).elim hnot hkh

/-! ### The commands -/

theorem dueMisses_mem {h : BitVec 20} (hd : h ∈ dueMisses s r) : h ∈ r.misses := by
  have hcovered : ∀ (cost : BitVec 20 → Nat) (n : Nat) (l : List (BitVec 20)), h ∈ coveredMisses cost n l → h ∈ l := by
    intro cost n l
    induction l generalizing n with
    | nil => simp [coveredMisses]
    | cons x l ih =>
      unfold coveredMisses
      split
      · intro hx
        obtain rfl | hx := List.mem_cons.mp hx
        · exact List.mem_cons_self ..
        · exact List.mem_cons_of_mem _ (ih _ hx)
      · simp
  exact hcovered _ _ _ hd

theorem exec_missDerivation (hr : s.req? r.rid = some r) (hrate : r.rate ≠ .freight) (hnow : r.admitTick < s.now)
    (hw : keWorks s = true) (hroot : rootHere s = true) :
    exec (.missDerivation r.rid) s = .next ((dueMisses s r).foldl (deriveMiss r) s) := by
  change execMissDerivation r.rid s = _
  unfold execMissDerivation
  rw [hr]
  dsimp only
  refine if_neg ?_
  rintro (h | h | h | h)
  · exact hrate h
  · omega
  · exact h hw
  · simp [hroot] at h

theorem exec_freightKeyLoad (hr : s.req? r.rid = some r) (hrate : r.rate = .freight) (hnow : r.admitTick < s.now)
    (hw : keWorks s = true) (hroot : rootHere s = true) (hp : procWorks s 0 = true) :
    exec (.freightKeyLoad r.rid) s = .next ((dueMisses s r).foldl (loadMiss r) s) := by
  change execFreightKeyLoad r.rid s = _
  unfold execFreightKeyLoad
  rw [hr]
  dsimp only
  refine if_neg ?_
  rintro (h | h | h | h | h)
  · exact h hrate
  · omega
  · exact h hw
  · simp [hroot] at h
  · exact h.1 hp

/-- What the keys that are due leave of their request. -/
theorem bringsKeys_leaves {t : State} (hr : s.req? r.rid = some r) (h : bringsKeys r (dueMisses s r) s t) : ∃ q,
    t = { s with ks := t.ks, reqs := t.reqs } ∧ t.req? r.rid = some q ∧
      q = { r with misses := q.misses, missRun := q.missRun } ∧ (∀ h ∈ q.misses, h ∈ r.misses) ∧
      (∀ h ∈ r.misses, h ∉ dueMisses s r → h ∈ q.misses) ∧
      (∀ h ∈ r.misses, h ∉ q.misses → ∃ c ∈ t.ks.cache, c.tenant = r.tenant ∧ c.handle = h ∧ r.rid ∈ c.pins) := by
  obtain ⟨honly, -, hreq⟩ := h
  obtain ⟨q, hq, heq, hsub, hkept, hpinned⟩ := hreq r hr
  refine ⟨q, ?_, hq, heq, fun h hh => ?_, hkept, hpinned⟩
  · unfold State.missOnly at honly
    rw [honly]
  · obtain hh | hh := hsub h hh
    · exact hh
    · exact dueMisses_mem hh

/-! ### Lost slots -/

section
variable {n : Tenant} {h : Handle}

/-- The state in which a lost slot has been made again as `c` (12 Table 12-7). -/
def slotBack (n : Tenant) (h : Handle) (c : CacheSlot) (s : State) : State :=
  (cachePut c s).updKs fun k => { k with lost := k.lost.filter fun p => p ≠ (n.val, h) }

/-- A lost slot of which nothing can be made is lost no more. -/
def slotGone (n : Tenant) (h : Handle) (s : State) : State :=
  s.updKs fun k => { k with lost := k.lost.filter fun p => p ≠ (n.val, h) }

theorem exec_cacheSlotReload (hlost : (n.val, h) ∈ s.ks.lost) (hroot : rootHere s = true) (hp : procWorks s 0 = true)
    (hr : isRestarting s 6 = false) (hl : s.locked = false)
    (hgood : ∀ x, recordOf s n.val h.toNat = some x → recordGood (loadSystem s) x = true) :
    exec (.cacheSlotReload n h) s = .next (if isRecordHandle h.toNat then
        match recordOf s n.val h.toNat with
        | some x => slotBack n h (recordSlot x .resident (s.now + 1)) (loadSystem s)
        | none => slotGone n h (loadSystem s)
      else
        match nodeOf s n.val h.toNat with
        | some (i, nd) => slotBack n h (nodeSlot (loadSystem s) i nd .resident 0 (s.now + 1)) (loadSystem s)
        | none => slotGone n h (loadSystem s)) := by
  have hlost' : (n.val, h) ∈ (loadSystem s).ks.lost := hlost
  have hroot' : rootHere (loadSystem s) = true := hroot
  have hrec : recordOf (loadSystem s) n.val h.toNat = recordOf s n.val h.toNat := rfl
  have hnode : nodeOf (loadSystem s) n.val h.toNat = nodeOf s n.val h.toNat := rfl
  change execCacheSlotReload n h s = _
  unfold execCacheSlotReload
  rw [if_neg (by simp [hp, hr, hl])]
  dsimp only
  rw [if_neg (by simp [hlost', hroot']), hrec, hnode]
  split
  · cases hx : recordOf s n.val h.toNat with
    | none => rfl
    | some x =>
      dsimp only
      rw [if_pos (hgood x hx)]
      rfl
  · cases nodeOf s n.val h.toNat <;> rfl

theorem recordSlot_part (x : StoreRec) (part : Partition) (avail : Nat) : (recordSlot x part avail).part = part := rfl

theorem slotGone_leaves {t : State} (ht : t = slotGone n h (loadSystem s)) : t = { s with ks := t.ks } ∧
    t.ks = { s.ks with cache := t.ks.cache, lost := s.ks.lost.filter (· ≠ (n.val, h)), system := systemKeys s.ks } := by
  subst ht
  exact ⟨rfl, rfl⟩

theorem slotBack_leaves {c : CacheSlot} (hc : c.part ≠ .pool) {t : State} (ht : t = slotBack n h c (loadSystem s)) :
    t = { s with ks := t.ks } ∧
      t.ks = { s.ks with cache := t.ks.cache, lost := s.ks.lost.filter (· ≠ (n.val, h)), system := systemKeys s.ks } ∧
      c ∈ t.ks.cache := by
  have hin : c ∈ (cachePut c (loadSystem s)).ks.cache := cachePut_enters hc
  have hframe := cachePut_frame_other hc (loadSystem s)
  unfold slotBack at ht
  generalize cachePut c (loadSystem s) = u at ht hin hframe
  subst ht
  refine ⟨?_, ?_, hin⟩ <;> rw [hframe] <;> rfl

end

end

/-- Settles O48, by induction on the keys that are due, and by the slot that a lost key is made into. -/
theorem missesComeIn : Obligations.MissesComeIn := by
  unfold Obligations.MissesComeIn
  refine ⟨fun s rid r hr hnow hw hroot => ?_, fun s n h hlost hroot hp hrest hl hgood => ?_⟩
  · have hrid : r.rid = rid := req_rid hr
    subst hrid
    refine ⟨fun hrate => ?_, fun hrate hp hgood => ?_⟩
    · obtain ⟨q, hframe, hq, hleaves⟩ := bringsKeys_leaves hr (foldl_deriveMiss r (dueMisses s r) s)
      obtain ⟨heq, hsub, hkept, hpinned⟩ := hleaves
      exact ⟨_, q, exec_missDerivation hr hrate hnow hw hroot, hframe, hq, heq, hsub, hkept, hpinned,
        fun hin h hd hn => foldl_deriveMiss_settles hin _ s hr hq h hn (.inl hd)⟩
    · obtain ⟨q, hleaves⟩ := bringsKeys_leaves hr
        (foldl_loadMiss r (dueMisses s r) s fun h hd => hgood h (dueMisses_mem hd))
      exact ⟨_, q, exec_freightKeyLoad hr hrate hnow hw hroot hp, hleaves⟩
  · have hexec := exec_cacheSlotReload hlost hroot hp hrest hl hgood
    refine ⟨_, hexec, ?_⟩
    split
    case isTrue hrec =>
      cases hx : recordOf s n.val h.toNat with
      | none =>
        obtain ⟨hframe, hks⟩ := slotGone_leaves (n := n) (h := h) (s := s) rfl
        exact ⟨hframe, hks, fun _ _ hx => absurd hx (by simp), fun _ _ hrec' => absurd (hrec.symm.trans hrec') (by decide)⟩
      | some x =>
        obtain ⟨hframe, hks, hin⟩ := slotBack_leaves (n := n) (h := h) (s := s) (c := recordSlot x .resident (s.now + 1))
          (by rw [recordSlot_part]; decide) rfl
        refine ⟨hframe, hks, fun y _ hy => ?_, fun _ _ hrec' => absurd (hrec.symm.trans hrec') (by decide)⟩
        cases hy
        exact hin
    case isFalse hrec =>
      cases hnode : nodeOf s n.val h.toNat with
      | none =>
        obtain ⟨hframe, hks⟩ := slotGone_leaves (n := n) (h := h) (s := s) rfl
        exact ⟨hframe, hks, fun _ hrec' => absurd hrec' hrec, fun _ _ _ hn => absurd hn (by simp)⟩
      | some p =>
        obtain ⟨i, nd⟩ := p
        obtain ⟨hframe, hks, hin⟩ := slotBack_leaves (n := n) (h := h) (s := s)
          (c := nodeSlot (loadSystem s) i nd .resident 0 (s.now + 1)) (by rw [(nodeSlot_key ..).2.2]; decide) rfl
        refine ⟨hframe, hks, fun x hrec' => absurd hrec' hrec, fun j md _ hn => ?_⟩
        cases hn
        exact hin

end Sys2Proof.Machine
end

section
/-! SUPPORT. What the end of a record write leaves of the store, its queue and the always-on domain (09 R387, R391, R392). -/
namespace Sys2Proof.Machine

/-- `t` has the store, the queue of record writes, the generator and the always-on domain of `s`; marks of counters may be new. -/
def keepsStore (s t : State) : Prop :=
  t.aon = s.aon ∧ t.en = s.en ∧ t.nvm = { s.nvm with marks0 := t.nvm.marks0, marks1 := t.nvm.marks1 } ∧
    t.ks.commits = s.ks.commits ∧ t.ks.seq = s.ks.seq

section
variable {s t u : State}

theorem keepsStore_refl (s : State) : keepsStore s s := ⟨rfl, rfl, rfl, rfl, rfl⟩

theorem keepsStore_trans (ht : keepsStore s t) (hu : keepsStore t u) : keepsStore s u := by
  obtain ⟨haon, hen, hnvm, hcommits, hseq⟩ := ht
  obtain ⟨haon', hen', hnvm', hcommits', hseq'⟩ := hu
  exact ⟨haon'.trans haon, hen'.trans hen, by rw [hnvm', hnvm], hcommits'.trans hcommits, hseq'.trans hseq⟩

theorem keepsStore_foldl {α : Type} {f : State → α → State} (hf : ∀ s a, keepsStore s (f s a)) (l : List α) (s : State) :
    keepsStore s (l.foldl f s) := by
  induction l generalizing s with
  | nil => exact keepsStore_refl s
  | cons a l ih => exact keepsStore_trans (hf s a) (ih _)

theorem keepsStore_ks {f : Custody → Custody} (hf : (f s.ks).commits = s.ks.commits ∧ (f s.ks).seq = s.ks.seq) :
    keepsStore s (s.updKs f) := ⟨rfl, rfl, rfl, hf.1, hf.2⟩

theorem failRequest_en (rid status : Nat) (source : BitVec 16) (due : Nat) (s : State) :
    (failRequest rid status source due s).en = s.en := by
  cases h : s.req? rid with
  | none => rw [failRequest, h]
  | some r =>
    by_cases hc : (leftOver r).isEmpty = true ∨ cutsOutput status = true
    · obtain ⟨honly, -, -⟩ := failRequest_only h status source due hc
      rw [honly]
    · rw [failRequest_drains h status source due hc]
      rfl

theorem keepsStore_failRequest (rid status : Nat) (source : BitVec 16) (due : Nat) (s : State) :
    keepsStore s (failRequest rid status source due s) := by
  have hen := failRequest_en rid status source due s
  cases h : s.req? rid with
  | none =>
    rw [failRequest, h]
    exact keepsStore_refl s
  | some r =>
    obtain ⟨honly, -, -⟩ := failRequest_ends h status source due rfl
    generalize failRequest rid status source due s = t at hen honly
    unfold State.endsOnly at honly
    refine ⟨?_, hen, ?_, ?_, ?_⟩ <;> rw [honly]

theorem keepsStore_supersedeCopies (a : Nat) (h : BitVec 20) (s : State) : keepsStore s (supersedeCopies a h s) := by
  unfold supersedeCopies
  exact keepsStore_trans (keepsStore_foldl (fun s (r : Request) => keepsStore_failRequest r.rid 0x14 0 s.now s) _ s)
    (keepsStore_ks ⟨rfl, rfl⟩)

theorem keepsStore_cachePut (x : CacheSlot) (s : State) : keepsStore s (cachePut x s) := by
  rw [cachePut_frame]
  exact ⟨rfl, rfl, rfl, rfl, rfl⟩

theorem keepsStore_addCounter (s : State) (x : CacheSlot) : keepsStore s (addCounter s x) := by
  have hcount := addCounter_countersOnly s x
  unfold countersOnly at hcount
  rw [hcount]
  exact ⟨rfl, rfl, rfl, rfl, rfl⟩

theorem keepsStore_cacheCommitted (c : Commit) (r : StoreRec) (s : State) : keepsStore s (cacheCommitted c r s) := by
  unfold cacheCommitted
  dsimp only
  split
  · split
    · exact keepsStore_trans (keepsStore_cachePut _ s) (keepsStore_addCounter _ _)
    · exact keepsStore_cachePut _ s
  · split
    · exact keepsStore_cachePut _ s
    · exact keepsStore_refl s

theorem keepsStore_keyEntryOnly {n : Tenant} (h : keyEntryOnly n s t) (hks : t.ks.commits = s.ks.commits ∧ t.ks.seq = s.ks.seq) :
    keepsStore s t := by
  obtain ⟨hframe, -, -⟩ := h
  refine ⟨?_, ?_, ?_, hks.1, hks.2⟩ <;> rw [hframe]

theorem keepsStore_keResult (n : Tenant) (code : Nat) (s : State) : keepsStore s (keResult n code s) :=
  keepsStore_keyEntryOnly (keResult_keyEntryOnly (n := n) code s) (by rw [keResult_frame]; exact ⟨rfl, rfl⟩)

theorem startNextKe_window (n : Tenant) (s : State) : startNextKe n s = s ∨ ∃ f : KeyEntry → KeyEntry,
    (∀ e, (f e).result = e.result) ∧ startNextKe n s = s.updKe n f := by
  unfold startNextKe
  dsimp only
  split
  · exact .inl rfl
  · split
    · exact .inl rfl
    · refine .inr ⟨_, fun e => ?_, rfl⟩
      rfl

theorem keepsStore_startNextKe (n : Tenant) (s : State) : keepsStore s (startNextKe n s) := by
  obtain h | ⟨f, -, h⟩ := startNextKe_window n s <;> rw [h]
  · exact keepsStore_refl s
  · exact ⟨rfl, rfl, rfl, rfl, rfl⟩

theorem startNextKe_result (n : Tenant) (s : State) : ((startNextKe n s).page n).ke.result = (s.page n).ke.result := by
  obtain h | ⟨f, hf, h⟩ := startNextKe_window n s <;> rw [h]
  rw [page_updKe]
  exact hf _

/-- Key entry hears the end of a record write and starts its next operation (09 R391). -/
def keHears (n : Tenant) (code : Nat) (s : State) : State := showKe n (startNextKe n (keResult n code s))

theorem keHears_leaves (n : Tenant) (code : Nat) (s : State) : keepsStore s (keHears n code s) ∧
    ((keHears n code s).page n).ke.result = BitVec.ofNat 4 code := by
  refine ⟨keepsStore_trans (keepsStore_trans (keepsStore_keResult n code s) (keepsStore_startNextKe n _)) ⟨rfl, rfl, rfl, rfl, rfl⟩, ?_⟩
  rw [keHears, showKe_result, startNextKe_result, keResult_result]

/-! ### A record that stands in the store -/

/-- The state in which a record that stands in the store has been counted: during a rotation it is copied too (09 R387, R403). -/
def counted (r : StoreRec) (s : State) : State :=
  ((if s.ks.rot ≠ 0 ∧ r.recno / 4096 < s.ks.rotBlock then copyRewrapped r s else s).updKs fun k =>
    { k with seq := r.seq, commits := k.commits.drop 1 }).updAon fun a => { a with storeCounter := r.seq }

theorem counted_leaves (r : StoreRec) (s : State) : (counted r s).aon = { s.aon with storeCounter := r.seq } ∧
    (counted r s).ks.seq = r.seq ∧ (counted r s).ks.commits = s.ks.commits.drop 1 ∧ (counted r s).store = s.store ∧
    (counted r s).en.fill ≤ s.en.fill ∧ (counted r s).nvm.journal = s.nvm.journal := by
  unfold counted
  split
  · have hframe := copyRewrapped_frame r s
    have hstore := copyRewrapped_store r s
    have hfill : (copyRewrapped r s).en.fill = s.en.fill - 12 := takeBuf_fill 12 s.en
    generalize copyRewrapped r s = u at hframe hstore hfill
    refine ⟨?_, rfl, ?_, hstore, ?_, ?_⟩
    · change { u.aon with storeCounter := r.seq } = _
      rw [hframe]
    · change u.ks.commits.drop 1 = _
      rw [hframe]
    · change u.en.fill ≤ _
      omega
    · change u.nvm.journal = _
      rw [hframe]
      rfl
  · exact ⟨rfl, rfl, rfl, rfl, Nat.le_refl _, rfl⟩

theorem keepsStore_store (h : keepsStore s t) : t.store = s.store ∧ t.nvm.journal = s.nvm.journal := by
  obtain ⟨-, -, hnvm, -, -⟩ := h
  obtain ⟨hstore, -⟩ := stores_of_nvm (s := s) (t := t) (by rw [hnvm]) (by rw [hnvm]) (by rw [hnvm])
  refine ⟨hstore, ?_⟩
  rw [hnvm]
  rfl

/-- Copies that a record supersedes are retired, and it becomes resident where the configuration lists it (09 R377, R392). -/
def cacheTakes (c : Commit) (r : StoreRec) (s : State) : State :=
  if r.tomb then s else cacheCommitted c r (supersedeCopies r.tenant r.handle s)

theorem keepsStore_cacheTakes (c : Commit) (r : StoreRec) (s : State) : keepsStore s (cacheTakes c r s) := by
  unfold cacheTakes
  split
  · exact keepsStore_refl s
  · exact keepsStore_trans (keepsStore_supersedeCopies _ _ s) (keepsStore_cacheCommitted c r _)

theorem countCommit_eq (c : Commit) (r : StoreRec) (s : State) : countCommit c r s =
    if c.ke then showKe (tenantFin r.tenant) (startNextKe (tenantFin r.tenant) (answerCommit c r (cacheTakes c r (counted r s))))
    else answerCommit c r (cacheTakes c r (counted r s)) := rfl

/-- The answer to a record write is the result of key entry, and the end of the step of a request (09 R391, R393). -/
theorem answerCommit_window (c : Commit) (r : StoreRec) (s : State) : keepsStore s (answerCommit c r s) ∧
    (c.ke = true → ((answerCommit c r s).page (tenantFin r.tenant)).ke.result = if r.tomb then 3 else 2) := by
  have hunpend : keepsStore s (if r.tomb = true then s else unpend r.tenant r.handle.toNat s) := by
    split
    · exact keepsStore_refl s
    · exact ⟨rfl, rfl, rfl, rfl, rfl⟩
  have hres : ∀ u : State, ((keResult (tenantFin r.tenant) (if r.tomb = true then 3 else 2) u).page (tenantFin r.tenant)).ke.result =
      if r.tomb then 3 else 2 := fun u => by
    rw [keResult_result]
    cases r.tomb <;> rfl
  unfold answerCommit
  dsimp only
  cases hke : c.ke <;> cases c.rid
  · exact ⟨keepsStore_refl s, by simp⟩
  · exact ⟨⟨rfl, rfl, rfl, rfl, rfl⟩, by simp⟩
  · exact ⟨keepsStore_trans hunpend (keepsStore_keResult _ _ _), fun _ => hres _⟩
  · have hwindow := keepsStore_trans hunpend (keepsStore_keResult (tenantFin r.tenant) (if r.tomb = true then 3 else 2)
      (if r.tomb = true then s else unpend r.tenant r.handle.toNat s))
    exact ⟨hwindow, fun _ => hres _⟩

/-- What the count of a record that stands leaves (09 R387). -/
theorem countCommit_leaves (c : Commit) (r : StoreRec) (s : State) : keepsStore (counted r s) (countCommit c r s) ∧
    (c.ke = true → ((countCommit c r s).page (tenantFin r.tenant)).ke.result = if r.tomb then 3 else 2) := by
  have htakes := keepsStore_cacheTakes c r (counted r s)
  obtain ⟨hanswer, hres⟩ := answerCommit_window c r (cacheTakes c r (counted r s))
  have hkept := keepsStore_trans htakes hanswer
  rw [countCommit_eq]
  split
  case isTrue hke =>
    refine ⟨keepsStore_trans hkept (keepsStore_trans (keepsStore_startNextKe _ _) ⟨rfl, rfl, rfl, rfl, rfl⟩), fun _ => ?_⟩
    rw [showKe_result, startNextKe_result]
    exact hres hke
  case isFalse hke => exact ⟨hkept, fun h => absurd h hke⟩

end

end Sys2Proof.Machine
end

section
/-! PROOF. Record writes and IV marks (04 R191; 09 R387, R391, R392, R399; 10 R426). -/
namespace Sys2Proof.Machine

section
variable {s : State} {c : Commit} {l : List Commit}

/-! ### The write at the head -/

/-- The write at the head of the queue has its IV, or ends for want of it (10 R421, R426). -/
def ivDrawn (s : State) : Prop := (s.en.state = 3 ∧ 12 ≤ s.en.fill) ∨ 32768 ≤ s.en.fill

theorem drawsNow_ivDrawn (h : ivDrawn s) : drawsNow 12 s.en = true ∧ 12 ≤ s.en.fill := by
  unfold drawsNow
  unfold ivDrawn at h
  split
  case isTrue => exact ⟨decide_eq_true (by omega), by omega⟩
  case isFalse h3 =>
    have hfill := h.resolve_left fun hs => h3 hs.1
    exact ⟨decide_eq_true hfill, by omega⟩

/-- Whether the Custody processor can end a record write now. -/
def commitsNow (s : State) : Prop := custodyWrites s = true ∧ keWorks s = true ∧ rootHere s = true

theorem exec_keyStoreCommit (h : commitsNow s) (hd : closesJournal s = true ∨ drawsNow 12 s.en = true) (good : Bool) :
    exec (.keyStoreCommit good) s = .next (endCommit good s) := by
  obtain ⟨hc, hw, hr⟩ := h
  refine (if_neg (by simp [hc, hw, hr])).trans (if_pos ?_)
  simpa using hd

theorem exec_keyStoreCommit_refused (h : commitsNow s) (hj : closesJournal s = false) (hst : s.en.state = 3) (hfill : s.en.fill < 12)
    (good : Bool) : exec (.keyStoreCommit good) s = .next (refuseCommit s) := by
  obtain ⟨hc, hw, hr⟩ := h
  have hd : drawsNow 12 s.en = false := by
    rw [drawsNow, if_pos hst, decide_eq_false]
    omega
  exact (if_neg (by simp [hc, hw, hr])).trans ((if_neg (by simp [hj, hd])).trans (if_pos hst))

theorem closesJournal_append (hl : s.ks.commits = c :: l) (h : c.replace = false) : closesJournal s = false := by
  rw [closesJournal, hl]
  simp [h]

/-- An append that takes its place in the heap (09 R387; 16 R576). -/
theorem endCommit_appends (hl : s.ks.commits = c :: l) (hr : (c.replace && (s.nvm.journal.bind s.store.shadow).isSome) = false)
    (hroom : s.store.heapUsed + recordSize c.record ≤ heapBytes s) (good : Bool) : endCommit good s =
    if good then (if c.replace then openJournal c s else commitRecord c s)
    else if c.tries ≥ 3 then failCommit c ((nvmFailed s).updStore fun a => { a with heapUsed := a.heapUsed + recordSize c.record })
    else ((nvmFailed s).updStore fun a => { a with heapUsed := a.heapUsed + recordSize c.record }).updKs fun k =>
      { k with commits := { c with tries := c.tries + 1 } :: l } := by
  unfold endCommit
  rw [hl]
  dsimp only
  rw [if_neg (by simp [hr]), if_neg (by omega)]

theorem endCommit_closes (hl : s.ks.commits = c :: l) (hr : (c.replace && (s.nvm.journal.bind s.store.shadow).isSome) = true)
    (good : Bool) : endCommit good s = if good then closeJournal c s else nvmFailed s := by
  unfold endCommit
  rw [hl]
  dsimp only
  rw [if_pos hr]

/-! ### A record that is read back good -/

theorem updStore_nvm (f : StoreArea → StoreArea) (s : State) : (s.updStore f).nvm =
    { s.nvm with storeA := (s.updStore f).nvm.storeA, storeB := (s.updStore f).nvm.storeB } := by
  unfold State.updStore State.updNvm
  dsimp only
  split <;> rfl

theorem mem_index {a : StoreArea} {r x : StoreRec} : x ∈ (a.index r).recs ↔
    (x ∈ a.recs ∧ x.recno ≠ r.recno) ∨ x = { r with crc := indexCrc r } := by
  unfold StoreArea.index
  dsimp only
  rw [List.mem_append, List.mem_filter, List.mem_singleton, decide_eq_true_eq]

/-- The entry of a record in the index stands up to its CRC (09 R385). -/
theorem indexGood_indexed (r : StoreRec) : indexGood { r with crc := indexCrc r } = true := by
  rw [indexGood, beq_iff_eq]
  rfl

/-- The state in which a record has been appended and indexed (09 R387). -/
def recordStands (c : Commit) (s : State) : State := ((s.updEn (takeBuf 12)).draw 12).updStore fun a => a.put (sealed c s)

theorem commitRecord_eq (c : Commit) (s : State) : commitRecord c s = countCommit c (sealed c s) (recordStands c s) := rfl

theorem recordStands_store (c : Commit) (s : State) : (recordStands c s).store = s.store.put (sealed c s) :=
  store_updStore (fun a => a.put (sealed c s))

theorem sealed_of (c : Commit) (s : State) : ∃ i h, sealed c s =
    { c.record with seq := s.ks.seq + 1, gen := s.ks.gen, iv := i, hash := h } := ⟨_, _, rfl⟩

/-- A record write that is read back good (09 R387, R391, R399). -/
theorem commitRecord_leaves (hl : s.ks.commits = c :: l) (hfill : 12 ≤ s.en.fill) {t : State} (ht : t = commitRecord c s) :
    t.ks.commits = l ∧ t.ks.seq = s.ks.seq + 1 ∧ t.aon = { s.aon with storeCounter := s.ks.seq + 1 } ∧ t.en.fill + 12 ≤ s.en.fill ∧
    (∃ r ∈ t.store.recs, indexGood r = true ∧
      r = { c.record with seq := s.ks.seq + 1, gen := s.ks.gen, iv := r.iv, off := r.off, hash := r.hash, crc := r.crc }) ∧
    (∀ r ∈ s.store.recs, r.recno ≠ c.record.recno → r ∈ t.store.recs) ∧
    (c.ke = true → (t.page (tenantFin c.record.tenant)).ke.result = if c.record.tomb then 3 else 2) := by
  rw [commitRecord_eq] at ht
  have hstore := recordStands_store c s
  have hfill' : (recordStands c s).en.fill = s.en.fill - 12 := takeBuf_fill 12 s.en
  have hbefore : (recordStands c s).ks = s.ks ∧ (recordStands c s).aon = s.aon := ⟨rfl, rfl⟩
  obtain ⟨i, h, hsealed⟩ := sealed_of c s
  generalize sealed c s = r at ht hstore hsealed
  generalize recordStands c s = u at ht hstore hfill' hbefore
  obtain ⟨haon, hseq, hcommits, hcstore, hcfill, -⟩ := counted_leaves r u
  obtain ⟨hkept, hres⟩ := countCommit_leaves c r u
  rw [← ht] at hkept hres
  obtain ⟨htstore, -⟩ := keepsStore_store hkept
  obtain ⟨hkaon, hken, -, hkcommits, hkseq⟩ := hkept
  have hrecs : t.store.recs = (s.store.put r).recs := by rw [htstore, hcstore, hstore]
  have hin : { r with off := s.store.heapUsed / 64, crc := indexCrc { r with off := s.store.heapUsed / 64 } } ∈ t.store.recs := by
    rw [hrecs]
    exact mem_put.mpr (.inr rfl)
  subst hsealed
  refine ⟨?_, hkseq.trans hseq, ?_, ?_, ⟨_, hin, indexGood_indexed _, rfl⟩, fun x hx hne => ?_, hres⟩
  · rw [hkcommits, hcommits, hbefore.1, hl]
    rfl
  · rw [hkaon, haon, hbefore.2]
  · rw [hken]
    omega
  · rw [hrecs]
    exact mem_put.mpr (.inl ⟨hx, hne⟩)

/-! ### A replacement -/

/-- The journal of a replacement (09 R392). -/
def journalOf (c : Commit) (s : State) : Journal :=
  { recno := (sealed c s).recno, oldOff := ((s.store.recs.find? fun x => x.recno = (sealed c s).recno).map StoreRec.off).getD 0,
    newOff := s.store.heapUsed / 64, seq := (sealed c s).seq }

/-- The state in which the shadow of a replacement stands in the heap (09 R392). -/
def shadowStands (c : Commit) (s : State) : State := ((s.updEn (takeBuf 12)).draw 12).updStore fun a => a.append (sealed c s)

theorem openJournal_eq (c : Commit) (s : State) :
    openJournal c s = (shadowStands c s).updNvm (Nvm.setJournal (some (journalOf c s))) := rfl

/-- The first write of a replacement leaves the old record in force (09 R392). -/
theorem openJournal_leaves (c : Commit) (s : State) {t : State} (ht : t = openJournal c s) : ∃ r j, t.nvm.journal0 = some j ∧
    t.nvm.journal1 = some j ∧ j.recno = c.record.recno ∧ j.newOff = s.store.heapUsed / 64 ∧ j.seq = s.ks.seq + 1 ∧
    r ∈ t.store.shadows ∧
    r = { c.record with seq := s.ks.seq + 1, gen := s.ks.gen, iv := r.iv, hash := r.hash, off := s.store.heapUsed / 64 } ∧
    t.store.recs = s.store.recs ∧ t = { s with en := t.en, drawn := t.drawn, nvm := t.nvm } := by
  rw [openJournal_eq] at ht
  have hstore : (shadowStands c s).store = s.store.append (sealed c s) := store_updStore (fun a => a.append (sealed c s))
  have hframe : shadowStands c s = { s with
      en := (shadowStands c s).en, drawn := (shadowStands c s).drawn, nvm := (shadowStands c s).nvm } := by
    unfold shadowStands State.updStore
    rfl
  obtain ⟨i, h, hsealed⟩ := sealed_of c s
  have hj : (journalOf c s).recno = c.record.recno ∧ (journalOf c s).newOff = s.store.heapUsed / 64 ∧
      (journalOf c s).seq = s.ks.seq + 1 := ⟨rfl, rfl, rfl⟩
  generalize sealed c s = x at hstore hsealed
  generalize journalOf c s = j at ht hj
  generalize shadowStands c s = u at ht hstore hframe
  have hset := setJournal_frame (some j) u.nvm
  have hnvm : t.nvm = u.nvm.setJournal (some j) := by rw [ht]; rfl
  rw [← hnvm] at hset
  obtain ⟨hst, -⟩ := stores_of_nvm (s := u) (t := t) (by rw [hset]) (by rw [hset]) (by rw [hset])
  have hin : { x with off := s.store.heapUsed / 64 } ∈ t.store.shadows := by
    rw [hst, hstore]
    exact List.mem_append_right _ (List.mem_singleton_self _)
  subst hsealed
  refine ⟨_, j, by rw [hset], by rw [hset], hj.1, hj.2.1, hj.2.2, hin, rfl, ?_, ?_⟩
  · rw [hst, hstore]
    rfl
  · rw [ht, hframe]
    rfl

/-- The state in which the index entry of a replacement is written and its journal cleared (09 R392). -/
def shadowIndexed (r : StoreRec) (s : State) : State := (s.updStore fun a => a.index r).updNvm (Nvm.setJournal none)

theorem closeJournal_eq {j : Journal} {r : StoreRec} (hj : s.nvm.journal = some j) (hr : s.store.shadow j = some r) :
    closeJournal c s = countCommit c r (shadowIndexed r s) := by
  have hbind : s.nvm.journal.bind s.store.shadow = some r := by rw [hj]; exact hr
  unfold closeJournal
  rw [hbind]
  rfl

theorem shadowIndexed_leaves (r : StoreRec) (s : State) : (shadowIndexed r s).store = s.store.index r ∧
    (shadowIndexed r s).nvm.journal = none ∧ (shadowIndexed r s).ks = s.ks ∧ (shadowIndexed r s).aon = s.aon := by
  have hset := setJournal_frame none (s.updStore fun a => a.index r).nvm
  have hnvm : (shadowIndexed r s).nvm = (s.updStore fun a => a.index r).nvm.setJournal none := rfl
  rw [← hnvm] at hset
  obtain ⟨hst, -⟩ := stores_of_nvm (s := s.updStore fun a => a.index r) (t := shadowIndexed r s)
    (by rw [hset]) (by rw [hset]) (by rw [hset])
  refine ⟨hst.trans (store_updStore _), ?_, rfl, rfl⟩
  rw [hset]
  rfl

/-- The second write of a replacement puts its shadow in the store (09 R392). -/
theorem closeJournal_leaves {j : Journal} {r : StoreRec} (hl : s.ks.commits = c :: l) (hj : s.nvm.journal = some j)
    (hr : s.store.shadow j = some r) {t : State} (ht : t = closeJournal c s) : t.ks.commits = l ∧ t.nvm.journal = none ∧
    t.ks.seq = r.seq ∧ t.aon = { s.aon with storeCounter := r.seq } ∧ { r with crc := indexCrc r } ∈ t.store.recs ∧
    (∀ x ∈ s.store.recs, x.recno ≠ r.recno → x ∈ t.store.recs) := by
  rw [closeJournal_eq hj hr] at ht
  obtain ⟨hstore, hjournal, hks, haon⟩ := shadowIndexed_leaves r s
  generalize shadowIndexed r s = u at ht hstore hjournal hks haon
  obtain ⟨hcaon, hseq, hcommits, hcstore, -, hcjournal⟩ := counted_leaves r u
  obtain ⟨hkept, -⟩ := countCommit_leaves c r u
  rw [← ht] at hkept
  obtain ⟨htstore, htjournal⟩ := keepsStore_store hkept
  obtain ⟨hkaon, -, -, hkcommits, hkseq⟩ := hkept
  have hrecs : t.store.recs = (s.store.index r).recs := by rw [htstore, hcstore, hstore]
  refine ⟨?_, ?_, hkseq.trans hseq, ?_, ?_, fun x hx hne => ?_⟩
  · rw [hkcommits, hcommits, hks, hl]
    rfl
  · rw [htjournal, hcjournal, hjournal]
  · rw [hkaon, hcaon, haon]
  · rw [hrecs]
    exact mem_index.mpr (.inr rfl)
  · rw [hrecs]
    exact mem_index.mpr (.inl ⟨hx, hne⟩)

/-! ### A write that fails for good -/

/-- The state in which a write that has failed has left the queue, and key entry has heard of it (09 R387). -/
def commitDropped (c : Commit) (s : State) : State :=
  let s := s.updKs fun k => { k with commits := k.commits.drop 1 }
  if c.ke then
    keHears (tenantFin c.record.tenant) 10 (if c.record.tomb then s else unpend c.record.tenant c.record.handle.toNat s)
  else s

theorem dropCommitAs_eq (status : Nat) (source : BitVec 16) (c : Commit) (s : State) : dropCommitAs status source c s =
    match c.rid with
    | none => commitDropped c s
    | some rid => failRequest rid status source (commitDropped c s).now (commitDropped c s) := rfl

theorem keHears_frame (n : Tenant) (code : Nat) (s : State) : keHears n code s =
    { s with tenants := (keHears n code s).tenants } := by
  have hnext : ∀ u : State, startNextKe n u = { u with tenants := (startNextKe n u).tenants } := fun u => by
    obtain h | ⟨f, -, h⟩ := startNextKe_window n u
    · rw [h]
    · rw [h]
      rfl
  rw [keHears, showKe_frame, hnext, keResult_frame]

theorem commitDropped_leaves (c : Commit) (s : State) :
    commitDropped c s = { s with
      tenants := (commitDropped c s).tenants,
      ks := { s.ks with commits := s.ks.commits.drop 1, pendingH := (commitDropped c s).ks.pendingH } } ∧
    (c.ke = true → ((commitDropped c s).page (tenantFin c.record.tenant)).ke.result = 10) := by
  unfold commitDropped
  dsimp only
  split
  case isTrue =>
    refine ⟨?_, fun _ => (keHears_leaves _ 10 _).2⟩
    rw [keHears_frame]
    split <;> rfl
  case isFalse hke => exact ⟨rfl, fun h => absurd h hke⟩

theorem refuseCommit_eq (hl : s.ks.commits = c :: l) : refuseCommit s =
    dropCommitAs 0x30 0 c (s.updEn fun e => { e with noentIv := satInc 0xFFFF e.noentIv }) := by
  rw [refuseCommit, hl]

/-- A write that is dropped ends its request, and leaves the store (09 R387; 10 R426). -/
theorem dropCommitAs_leaves (status : Nat) (source : BitVec 16) (hl : s.ks.commits = c :: l) {t : State}
    (ht : t = dropCommitAs status source c s) : t.nvm = s.nvm ∧ t.ks.commits = l ∧ t.ks.seq = s.ks.seq ∧ t.en = s.en ∧
    (c.ke = true → (t.page (tenantFin c.record.tenant)).ke.result = 10) ∧
    (∀ rid r, c.rid = some rid → s.req? rid = some r →
      (∃ e ∈ t.ended, e.rid = rid ∧ e.status = BitVec.ofNat 8 status ∧ e.due = s.now) ∨
      (∃ q, t.req? rid = some q ∧ q.stage = .draining ∧ q.final = BitVec.ofNat 8 status)) := by
  obtain ⟨hframe, hres⟩ := commitDropped_leaves c s
  rw [dropCommitAs_eq] at ht
  generalize commitDropped c s = u at ht hframe hres
  have hcommits : u.ks.commits = l := by
    rw [hframe]
    exact congrArg (List.drop 1) hl
  have hseq : u.ks.seq = s.ks.seq := by rw [hframe]
  have hnvm : u.nvm = s.nvm := by rw [hframe]
  have hen : u.en = s.en := by rw [hframe]
  cases hrid : c.rid with
  | none =>
    rw [hrid] at ht
    subst ht
    exact ⟨hnvm, hcommits, hseq, hen, hres, fun _ _ hr => by cases hr⟩
  | some rid =>
    rw [hrid] at ht
    dsimp only at ht
    have hfen := failRequest_en rid status source u.now u
    have hnow : u.now = s.now := by rw [hframe]; rfl
    cases hreq : u.req? rid with
    | none =>
      rw [failRequest, hreq] at ht
      subst ht
      refine ⟨hnvm, hcommits, hseq, hen, hres, fun rid' r hr' hr => ?_⟩
      cases hr'
      rw [hframe] at hreq
      exact absurd (hr.symm.trans hreq) (by simp)
    | some q =>
      obtain ⟨honly, -, hends⟩ := failRequest_ends hreq status source u.now ht
      rw [← ht] at hfen
      unfold State.endsOnly at honly
      refine ⟨by rw [honly, hnvm], by rw [honly, hcommits], by rw [honly, hseq], hfen.trans hen, fun hke => ?_, fun rid' r hr' _ => ?_⟩
      · rw [honly]
        exact hres hke
      · cases hr'
        obtain ⟨-, hended⟩ | ⟨-, hdrains⟩ := hends
        · exact .inl ⟨_, hended, req_rid hreq, rfl, hnow⟩
        · exact .inr hdrains

/-! ### IV marks -/

theorem markOk_newMark (a : Nat) (h : BitVec 20) (base : Nat) : (newMark a h base).ok = true := by
  simp [newMark, Mark.ok]

/-- A mark that is written is found again (16 R579). -/
theorem markBase_putMark (a : Nat) (h : BitVec 20) (base : Nat) (s : State) :
    markBase (s.updNvm (putMark a h base)) a h = base := by
  have hfind : ((s.nvm.marks0.filter (fun m => !(m.tenant = a && m.handle == h)) ++ [newMark a h base]) ++
      (s.nvm.marks1.filter (fun m => !(m.tenant = a && m.handle == h)) ++ [newMark a h base])).find?
        (fun m => m.tenant = a && m.handle == h && m.ok) = some (newMark a h base) := by
    have hnone : (s.nvm.marks0.filter (fun m => !(m.tenant = a && m.handle == h))).find?
        (fun m => m.tenant = a && m.handle == h && m.ok) = none := by
      rw [List.find?_eq_none]
      intro m hm
      have hne := (List.mem_filter.mp hm).2
      simp only [Bool.not_eq_true', Bool.and_eq_false_iff] at hne
      obtain hne | hne := hne <;> simp [hne]
    rw [List.append_assoc, List.find?_append, hnone, Option.none_or]
    exact List.find?_cons_of_pos (by simp [markOk_newMark]; exact ⟨rfl, rfl⟩)
  exact congrArg (fun m : Option Mark => (m.map Mark.base).getD 0) hfind

theorem ivOf_updIv {v : IvCtr} {a h : Nat} (hv : ivOf s a h = some v) {f : IvCtr → IvCtr}
    (hf : ∀ x, (f x).tenant = x.tenant ∧ (f x).handle = x.handle) : ivOf (updIv a h f s) a h = some (f v) := by
  have hkey : v.tenant = a ∧ v.handle.toNat = h := by simpa using List.find?_some hv
  have hcomp : ((fun x : IvCtr => decide (x.tenant = a) && decide (x.handle.toNat = h)) ∘
      fun x => if x.tenant = a ∧ x.handle.toNat = h then f x else x) =
      fun x => decide (x.tenant = a) && decide (x.handle.toNat = h) := by
    funext x
    obtain ⟨ht, hh⟩ := hf x
    by_cases hx : x.tenant = a ∧ x.handle.toNat = h <;> simp [hx, ht, hh]
  unfold ivOf updIv State.updKs at *
  dsimp only
  rw [List.find?_map, hcomp, hv]
  simp [hkey]

end

end Sys2Proof.Machine
end

section
/-! PROOF. Record writes and IV marks settled (04 R191; 09 R387, R391, R392, R399; 10 R426). -/
namespace Sys2Proof.Machine

section
variable {s : State} {c : Commit} {l : List Commit}

/-- The state in which a write has failed, its place in the heap spent (09 R387). -/
def appendFailed (c : Commit) (s : State) : State :=
  (nvmFailed s).updStore fun a => { a with heapUsed := a.heapUsed + recordSize c.record }

theorem appendFailed_leaves (c : Commit) (s : State) : appendFailed c s = { s with nvm := (appendFailed c s).nvm } ∧
    (appendFailed c s).nvm.errors = min 0xFFFF (s.nvm.errors + 1) ∧ (appendFailed c s).store.recs = s.store.recs := by
  have hstore := store_updStore (s := nvmFailed s) (fun a => { a with heapUsed := a.heapUsed + recordSize c.record })
  have hnvm := updStore_nvm (fun a => { a with heapUsed := a.heapUsed + recordSize c.record }) (nvmFailed s)
  refine ⟨rfl, ?_, ?_⟩
  · exact congrArg Nvm.errors hnvm
  · have hfailed : (nvmFailed s).store = s.store := rfl
    rw [hfailed] at hstore
    exact (congrArg StoreArea.recs hstore :)

/-- Clauses on a write that takes its place in the heap (09 R387, R391, R399). -/
theorem recordAppended (h : commitsNow s) (hiv : ivDrawn s) (hl : s.ks.commits = c :: l) (hr : c.replace = false)
    (hroom : s.store.heapUsed + recordSize c.record ≤ heapBytes s) :
    (∃ t, exec (.keyStoreCommit true) s = .next t ∧ t = commitRecord c s) ∧
    (c.tries < 3 → ∃ t, exec (.keyStoreCommit false) s = .next t ∧
      t = { s with nvm := t.nvm, ks := { s.ks with commits := { c with tries := c.tries + 1 } :: l } } ∧
      t.nvm.errors = min 0xFFFF (s.nvm.errors + 1) ∧ t.store.recs = s.store.recs) ∧
    (3 ≤ c.tries → ∃ t, exec (.keyStoreCommit false) s = .next t ∧ t = failCommit c (appendFailed c s)) := by
  obtain ⟨hd, -⟩ := drawsNow_ivDrawn hiv
  have hexec := exec_keyStoreCommit h (.inr hd)
  have hends := endCommit_appends hl (by simp [hr]) hroom
  obtain ⟨hframe, herrors, hrecs⟩ := appendFailed_leaves c s
  refine ⟨⟨_, hexec true, ?_⟩, fun ht => ⟨_, hexec false, ?_⟩, fun ht => ⟨_, hexec false, ?_⟩⟩
  · rw [hends, if_pos rfl, if_neg (by simp [hr])]
  · have heq : endCommit false s = (appendFailed c s).updKs fun k => { k with commits := { c with tries := c.tries + 1 } :: l } := by
      rw [hends, if_neg (by decide), if_neg (by omega)]
      rfl
    rw [heq]
    generalize appendFailed c s = u at hframe herrors hrecs
    refine ⟨?_, herrors, hrecs⟩
    rw [hframe]
    rfl
  · rw [hends, if_neg (by decide), if_pos ht]
    rfl

/-- A write that has failed four times ends with result 10 (09 R387). -/
theorem failCommit_leaves (hl : s.ks.commits = c :: l) (hke : c.ke = true) {t : State} (ht : t = failCommit c (appendFailed c s)) :
    t.fixed = s.fixed ∧ t.ks.commits = l ∧ t.ks.seq = s.ks.seq ∧ t.store.recs = s.store.recs ∧
      (t.page (tenantFin c.record.tenant)).ke.result = 10 := by
  obtain ⟨hframe, -, hrecs⟩ := appendFailed_leaves c s
  have hfixed : (appendFailed c s).fixed = s.fixed := by rw [hframe]; rfl
  have hl' : (appendFailed c s).ks.commits = c :: l := by rw [hframe]; exact hl
  have hseq' : (appendFailed c s).ks.seq = s.ks.seq := by rw [hframe]
  generalize appendFailed c s = u at ht hrecs hfixed hl' hseq'
  obtain ⟨hnvm, hcommits, hseq, -, hres, -⟩ := dropCommitAs_leaves 0x3F (freeReport u.drawn) hl' rfl
  have hdrop : (dropCommitAs 0x3F (freeReport u.drawn) c u).fixed = u.fixed := by simp
  have hfail : failCommit c u = (dropCommitAs 0x3F (freeReport u.drawn) c u).draw 1 := rfl
  rw [hfail] at ht
  generalize dropCommitAs 0x3F (freeReport u.drawn) c u = w at ht hnvm hcommits hseq hres hdrop
  obtain ⟨hstore, -⟩ := stores_of_nvm (s := u) (t := w) (by rw [hnvm]) (by rw [hnvm]) (by rw [hnvm])
  subst ht
  refine ⟨hdrop.trans hfixed, hcommits, hseq.trans hseq', ?_, hres hke⟩
  rw [← hrecs, ← hstore]
  rfl

/-- The Custody processor moves a mark one step on (04 R191). -/
theorem markAdvanced {n : Tenant} {h : Handle} {v : IvCtr} (hv : ivOf s n.val h.toNat = some v) (hdue : v.mark ≤ v.c + 524288)
    {t : State} (ht : t = advanceMark v s) :
    t = { s with
      ks := { s.ks with ivs := t.ks.ivs }, nvm := { s.nvm with marks0 := t.nvm.marks0, marks1 := t.nvm.marks1 } } ∧
    ivOf t n.val h.toNat = some { v with mark := v.mark + 1048576 } ∧ markBase t n.val v.handle = markBase s n.val v.handle + 1 := by
  obtain ⟨htenant, hhandle⟩ : v.tenant = n.val ∧ v.handle.toNat = h.toNat := by simpa using List.find?_some hv
  have hadvance : advanceMark v s = (updIv v.tenant v.handle.toNat (fun x => { x with mark := x.mark + 1048576 }) s).updNvm
      (putMark v.tenant v.handle (markBase s v.tenant v.handle + 1)) := if_neg (by omega)
  rw [hadvance, htenant] at ht
  subst ht
  refine ⟨rfl, ?_, markBase_putMark _ _ _ _⟩
  rw [hhandle]
  exact ivOf_updIv hv fun x => ⟨rfl, rfl⟩

end

/-- Settles O47, by the outcome of each attempt at the write at the head of the queue. -/
theorem recordWritesEnd : Obligations.RecordWritesEnd := by
  unfold Obligations.RecordWritesEnd
  refine ⟨fun s c l hc hw hroot hiv hl hr hroom => ?_, fun s c l good hc hw hroot hst hfill hl hr => ?_,
    fun s c l hc hw hroot hl hr => ⟨fun hj hiv hroom => ?_, fun j r hj hshadow => ⟨?_, ?_⟩⟩,
    fun s n h v hc hv => ⟨fun hdue _ => ?_, fun hlow => ?_⟩⟩
  · have hnow : commitsNow s := ⟨hc, hw, hroot⟩
    obtain ⟨⟨t, hexec, ht⟩, hretried, hfailed⟩ := recordAppended hnow hiv hl hr hroom
    refine ⟨⟨t, hexec, ?_, commitRecord_leaves hl (drawsNow_ivDrawn hiv).2 ht⟩, hretried, fun htries hke _ => ?_⟩
    · rw [ht]
      simp
    · obtain ⟨u, hexec', hu⟩ := hfailed htries
      exact ⟨u, hexec', failCommit_leaves hl hke hu⟩
  · have hexec := exec_keyStoreCommit_refused ⟨hc, hw, hroot⟩ (closesJournal_append hl hr) hst hfill good
    have hfixed : (refuseCommit s).fixed = s.fixed := by simp
    rw [refuseCommit_eq hl] at hexec hfixed
    obtain ⟨hnvm, hcommits, hseq, hen, hres, hends⟩ :=
      dropCommitAs_leaves (s := s.updEn fun e => { e with noentIv := satInc 0xFFFF e.noentIv }) 0x30 0 hl rfl
    exact ⟨_, hexec, hfixed, hnvm, hcommits, hseq, hen, hres, hends⟩
  · obtain ⟨hd, -⟩ := drawsNow_ivDrawn hiv
    have hexec := exec_keyStoreCommit ⟨hc, hw, hroot⟩ (.inr hd) true
    rw [endCommit_appends hl (by simp [hj]) hroom, if_pos rfl, if_pos hr] at hexec
    obtain ⟨r, j, hleaves⟩ := openJournal_leaves c s rfl
    exact ⟨_, r, j, hexec, hleaves⟩
  · have hcloses : (c.replace && (s.nvm.journal.bind s.store.shadow).isSome) = true := by simp [hr, hj, hshadow]
    have hexec := exec_keyStoreCommit ⟨hc, hw, hroot⟩ (.inl (by rw [closesJournal, hl]; exact hcloses)) true
    rw [endCommit_closes hl hcloses, if_pos rfl] at hexec
    exact ⟨_, hexec, by simp, closeJournal_leaves hl hj hshadow rfl⟩
  · have hcloses : (c.replace && (s.nvm.journal.bind s.store.shadow).isSome) = true := by simp [hr, hj, hshadow]
    have hexec := exec_keyStoreCommit ⟨hc, hw, hroot⟩ (.inl (by rw [closesJournal, hl]; exact hcloses)) false
    rw [endCommit_closes hl hcloses, if_neg (by decide)] at hexec
    exact hexec
  · have hexec : exec (.ivMarkWrite n h) s = .next (advanceMark v s) := by
      change execIvMarkWrite n h s = _
      unfold execIvMarkWrite
      rw [hv]
      exact if_pos hc
    exact ⟨_, hexec, markAdvanced hv hdue rfl⟩
  · change execIvMarkWrite n h s = _
    unfold execIvMarkWrite
    rw [hv]
    refine (if_pos hc).trans (congrArg Host.Outcome.next ?_)
    exact if_pos hlow

end Sys2Proof.Machine
end

section
/-! SUPPORT. What a key-bus transfer changes, and which keys a bank has (02 R80; 04 R173, R174). -/
namespace Sys2Proof.Machine

/-! ### Key registers -/

/-- Two registers with one key: the same handle, with the same words. -/
def KeyReg.sameKey (a b : KeyReg) : Prop := a.tenant = b.tenant ∧ a.handle = b.handle ∧ a.value = b.value ∧ a.sym = b.sym

/-- Two registers of one handle of a tenant. -/
def KeyReg.sameHandle (a b : KeyReg) : Prop := a.tenant = b.tenant ∧ a.handle = b.handle

/-- Bank `b` has every key of bank `a`, for every step it served, and new registers of other handles only (04 R174). -/
def bankGrows (a b : List KeyReg) : Prop :=
  (∀ k ∈ a, ∃ x ∈ b, k.sameKey x ∧ ∀ u ∈ k.users, u ∈ x.users) ∧
    ∀ x ∈ b, (∃ k ∈ a, k.sameKey x) ∨ ∀ k ∈ a, ¬ k.sameHandle x

section
variable {a b c : List KeyReg}

theorem sameKey_refl (k : KeyReg) : k.sameKey k := ⟨rfl, rfl, rfl, rfl⟩

theorem sameKey_trans {x y z : KeyReg} (h : x.sameKey y) (h' : y.sameKey z) : x.sameKey z := by
  obtain ⟨h1, h2, h3, h4⟩ := h
  obtain ⟨h1', h2', h3', h4'⟩ := h'
  exact ⟨h1.trans h1', h2.trans h2', h3.trans h3', h4.trans h4'⟩

theorem bankGrows_refl (a : List KeyReg) : bankGrows a a :=
  ⟨fun k hk => ⟨k, hk, sameKey_refl k, fun _ hu => hu⟩, fun k hk => .inl ⟨k, hk, sameKey_refl k⟩⟩

theorem bankGrows_trans (h : bankGrows a b) (h' : bankGrows b c) : bankGrows a c := by
  obtain ⟨hkept, honly⟩ := h
  obtain ⟨hkept', honly'⟩ := h'
  refine ⟨fun k hk => ?_, fun x hx => ?_⟩
  · obtain ⟨y, hy, hky, hu⟩ := hkept k hk
    obtain ⟨z, hz, hyz, hu'⟩ := hkept' y hy
    exact ⟨z, hz, sameKey_trans hky hyz, fun u h => hu' u (hu u h)⟩
  · obtain ⟨y, hy, hyx⟩ | hnot := honly' x hx
    · obtain ⟨k, hk, hky⟩ | hnot := honly y hy
      · exact .inl ⟨k, hk, sameKey_trans hky hyx⟩
      · exact .inr fun k hk hkx => hnot k hk ⟨hkx.1.trans hyx.1.symm, hkx.2.trans hyx.2.1.symm⟩
    · refine .inr fun k hk hkx => ?_
      obtain ⟨y, hy, hky, -⟩ := hkept k hk
      exact hnot y hy ⟨hky.1.symm.trans hkx.1, hky.2.1.symm.trans hkx.2⟩

/-- Registers that keep their keys, and new ones of handles that the bank has not. -/
theorem bankGrows_append {f : KeyReg → KeyReg} (hf : ∀ k, k.sameKey (f k) ∧ ∀ u ∈ k.users, u ∈ (f k).users)
    (hb : ∀ x ∈ b, ∀ k ∈ a, ¬ k.sameHandle x) : bankGrows a (a.map f ++ b) := by
  refine ⟨fun k hk => ⟨f k, List.mem_append_left _ (List.mem_map_of_mem hk), hf k⟩, fun x hx => ?_⟩
  obtain hx | hx := List.mem_append.mp hx
  · obtain ⟨k, hk, rfl⟩ := List.mem_map.mp hx
    exact .inl ⟨k, hk, (hf k).1⟩
  · exact .inr (hb x hx)

/-- Bank `b` is bank `a` with what its registers brought renewed. -/
def bankMapped (a b : List KeyReg) : Prop :=
  ∃ f : KeyReg → KeyReg, (∀ k, k.sameKey (f k) ∧ ∀ u ∈ k.users, u ∈ (f k).users) ∧ b = a.map f

theorem bankMapped_refl (a : List KeyReg) : bankMapped a a :=
  ⟨id, fun k => ⟨sameKey_refl k, fun _ hu => hu⟩, (List.map_id a).symm⟩

theorem bankMapped_trans (h : bankMapped a b) (h' : bankMapped b c) : bankMapped a c := by
  obtain ⟨f, hf, rfl⟩ := h
  obtain ⟨g, hg, rfl⟩ := h'
  refine ⟨g ∘ f, fun k => ⟨sameKey_trans (hf k).1 (hg (f k)).1, fun u hu => (hg (f k)).2 u ((hf k).2 u hu)⟩, ?_⟩
  rw [List.map_map]

theorem bankGrows_of_mapped (h : bankMapped a b) : bankGrows a b := by
  obtain ⟨f, hf, rfl⟩ := h
  have happend := bankGrows_append (a := a) (b := []) hf fun x hx => by simp at hx
  rwa [List.append_nil] at happend

end

/-! ### What a transfer changes of the state -/

/-- What transfers to station `dest` change of what this obligation speaks of: the loading banks, elsewhere in counters only. -/
def carriesTo (dest : Fin 7) (s t : State) : Prop :=
  t.tt.busDone = s.tt.busDone ∧ t.nvm = s.nvm ∧ t.tenants = s.tenants ∧
    (∀ n : Fin 7, t.stations[n] = { s.stations[n] with loading := t.stations[n].loading, derived := t.stations[n].derived }) ∧
    ∀ n : Fin 7, n ≠ dest → t.stations[n].loading.map KeyReg.noCtr = s.stations[n].loading.map KeyReg.noCtr

section
variable {dest : Fin 7} {s t u : State}

theorem carriesTo_refl (dest : Fin 7) (s : State) : carriesTo dest s s := ⟨rfl, rfl, rfl, fun _ => rfl, fun _ _ => rfl⟩

theorem carriesTo_trans (ht : carriesTo dest s t) (hu : carriesTo dest t u) : carriesTo dest s u := by
  obtain ⟨hdone, hnvm, htenants, hst, hother⟩ := ht
  obtain ⟨hdone', hnvm', htenants', hst', hother'⟩ := hu
  exact ⟨hdone'.trans hdone, hnvm'.trans hnvm, htenants'.trans htenants, fun n => by rw [hst' n, hst n],
    fun n hn => (hother' n hn).trans (hother n hn)⟩

/-- An operation that changes no station, and of the timetable not what the bus has done. -/
theorem carriesTo_of_stations (dest : Fin 7) (hst : t.stations = s.stations) (htt : t.tt.busDone = s.tt.busDone)
    (hnvm : t.nvm = s.nvm) (hten : t.tenants = s.tenants) : carriesTo dest s t :=
  ⟨htt, hnvm, hten, fun n => by rw [hst], fun n _ => by rw [hst]⟩

theorem carriesTo_faultReport (dest : Fin 7) (c d : BitVec 16) (s : State) : carriesTo dest s (faultReport c d s) := by
  have honly := faultReport_only c d s
  unfold State.reportsOnly at honly
  refine carriesTo_of_stations dest ?_ ?_ ?_ ?_ <;> rw [honly]

theorem station_updStn_same (s : State) (n : Fin 7) (f : StationState → StationState) : (s.updStn n f).stations[n] = f s.stations[n] :=
  Vector.getElem_set_self ..

theorem station_updStn_other {m n : Fin 7} (h : m ≠ n) (s : State) (f : StationState → StationState) :
    (s.updStn n f).stations[m] = s.stations[m] :=
  Vector.getElem_set_ne n.isLt m.isLt (Fin.val_ne_of_ne (Ne.symm h))

/-- An update of the loading bank of a station: of `dest`, or of another in counters only. -/
theorem carriesTo_updStn {n : Fin 7} {f : List KeyReg → List KeyReg}
    (hf : n ≠ dest → (f s.stations[n].loading).map KeyReg.noCtr = s.stations[n].loading.map KeyReg.noCtr) :
    carriesTo dest s (s.updStn n fun x => { x with loading := f x.loading }) := by
  refine ⟨rfl, rfl, rfl, fun m => ?_, fun m hm => ?_⟩
  · by_cases h : m = n
    · subst h
      rw [station_updStn_same]
    · rw [station_updStn_other h]
  · by_cases h : m = n
    · subst h
      rw [station_updStn_same]
      exact hf hm
    · rw [station_updStn_other h]

theorem dropDerived_loading (sel : DerivedReg → Bool) (s : State) (n : Fin 7) :
    (dropDerived sel s).stations[n].loading = s.stations[n].loading := by rw [dropDerived_station]

/-- A step that fails leaves the key registers of every station (04 R175). -/
theorem failStep_loading (rid n code : Nat) (src : BitVec 16) (due : Nat) (s : State) (m : Fin 7) :
    (failStep rid n code src due s).stations[m].loading = s.stations[m].loading := by
  cases h : s.req? rid with
  | none => rw [failStep, h]
  | some r =>
    unfold failStep
    rw [h]
    dsimp only
    split
    · have hst := closeRequest_stations (r.failedAt n) code (failAux { r with cur := n } src) due s
      have hm := congrArg (fun v : Vector StationState 7 => v[m].loading) hst
      exact hm.trans (dropDerived_loading _ s m)
    · exact dropDerived_loading _ _ m

theorem failStep_busDone (rid n code : Nat) (src : BitVec 16) (due : Nat) (s : State) :
    (failStep rid n code src due s).tt.busDone = s.tt.busDone := by
  cases h : s.req? rid with
  | none => rw [failStep, h]
  | some r =>
    unfold failStep
    rw [h]
    dsimp only
    split
    · obtain ⟨honly, -, -⟩ := closeRequest_only (r.failedAt n) code (failAux { r with cur := n } src) due s
      rw [honly]
    · rfl

theorem carriesTo_failStep (dest : Fin 7) (rid n code : Nat) (src : BitVec 16) (due : Nat) (s : State) :
    carriesTo dest s (failStep rid n code src due s) := by
  have hload := failStep_loading rid n code src due s
  have hdone := failStep_busDone rid n code src due s
  cases h : s.req? rid with
  | none =>
    rw [failStep, h]
    exact carriesTo_refl dest s
  | some r =>
    obtain ⟨hten, hnvm, hst, -⟩ := failStep_ends h n code src due rfl
    refine ⟨hdone, hnvm, hten, fun m => ?_, fun m _ => by rw [hload m]⟩
    rw [hload m]
    exact hst m

/-! ### The draws of a step -/

theorem noCtr_follow (p : Brought → Bool) (k : KeyReg) : KeyReg.noCtr { k with
    brought := k.brought.map fun b => if p b then { b with ctr := b.ctr.map (· + 1) } else b } = k.noCtr := by
  unfold KeyReg.noCtr
  dsimp only
  rw [List.map_map]
  refine congrArg (fun l => { k with brought := l }) (List.map_congr_left fun b _ => ?_)
  cases hp : p b <;> simp [hp]

/-- A value of C that a step takes changes counters only: of the requests, and of what CS1 has loaded (04 R190). -/
theorem takeCounter_shape (d : Nat) (v : Request) (next : Nat) (s : State) : ∃ (f : KeyReg → KeyReg) (l : List Request),
    (∀ k, k.sameKey (f k) ∧ (∀ u ∈ k.users, u ∈ (f k).users) ∧ (f k).noCtr = k.noCtr) ∧
      takeCounter d v next s = { (s.updStn 1 fun x => { x with loading := x.loading.map f }) with reqs := l } := by
  refine ⟨_, _, fun k => ?_, rfl⟩
  refine ⟨sameKey_refl k, fun _ hu => hu, ?_⟩
  exact noCtr_follow _ k

/-- What the draws of a step leave of the banks: every key that they have. -/
def drawsOnly (dest : Fin 7) (s t : State) : Prop := carriesTo dest s t ∧
  ∀ n : Fin 7, bankMapped s.stations[n].loading t.stations[n].loading

theorem drawsOnly_of_stations (dest : Fin 7) (hst : t.stations = s.stations) (htt : t.tt.busDone = s.tt.busDone)
    (hnvm : t.nvm = s.nvm) (hten : t.tenants = s.tenants) : drawsOnly dest s t :=
  ⟨carriesTo_of_stations dest hst htt hnvm hten, fun n => by rw [hst]; exact bankMapped_refl _⟩

theorem drawsOnly_trans (ht : drawsOnly dest s t) (hu : drawsOnly dest t u) : drawsOnly dest s u :=
  ⟨carriesTo_trans ht.1 hu.1, fun n => bankMapped_trans (ht.2 n) (hu.2 n)⟩

theorem drawsOnly_takeCounter (dest : Fin 7) (d : Nat) (v : Request) (next : Nat) (s : State) :
    drawsOnly dest s (takeCounter d v next s) := by
  obtain ⟨f, l, hf, heq⟩ := takeCounter_shape d v next s
  have hcarries : carriesTo dest s (s.updStn 1 fun x => { x with loading := x.loading.map f }) := by
    refine carriesTo_updStn (f := fun b => b.map f) fun _ => ?_
    rw [List.map_map]
    exact List.map_congr_left fun k _ => (hf k).2.2
  rw [heq]
  refine ⟨hcarries, fun n => ?_⟩
  change bankMapped _ (s.updStn 1 fun x => { x with loading := x.loading.map f }).stations[n].loading
  by_cases h : n = 1
  · subst h
    rw [station_updStn_same]
    exact ⟨f, fun k => ⟨(hf k).1, (hf k).2.1⟩, rfl⟩
  · rw [station_updStn_other h]
    exact bankMapped_refl _

theorem drawsOnly_faultReport (dest : Fin 7) (c d : BitVec 16) (s : State) : drawsOnly dest s (faultReport c d s) := by
  have honly := faultReport_only c d s
  unfold State.reportsOnly at honly
  refine drawsOnly_of_stations dest ?_ ?_ ?_ ?_ <;> rw [honly]

theorem drawsOnly_failStep (dest : Fin 7) (rid n code : Nat) (src : BitVec 16) (due : Nat) (s : State) :
    drawsOnly dest s (failStep rid n code src due s) :=
  ⟨carriesTo_failStep dest rid n code src due s, fun m => by rw [failStep_loading]; exact bankMapped_refl _⟩

theorem drawsOnly_drawFor (dest : Fin 7) (d : Nat) (v : Request) (s : State) : drawsOnly dest s (drawFor d v s).1 := by
  have hsame : drawsOnly dest s s := drawsOnly_of_stations dest rfl rfl rfl rfl
  unfold drawFor
  dsimp only
  split
  · exact hsame
  split
  · split
    · exact hsame
    split
    · exact hsame
    split
    · exact drawsOnly_faultReport dest _ _ s
    · exact drawsOnly_trans (drawsOnly_of_stations dest rfl rfl rfl rfl) (drawsOnly_takeCounter dest d v _ _)
  split
  · exact hsame
  split
  · exact drawsOnly_of_stations dest rfl rfl rfl rfl
  · exact drawsOnly_of_stations dest rfl rfl rfl rfl

end

end Sys2Proof.Machine
end

section
/-! PROOF. One step at a key-bus entry, and the tests of the words that a transfer reads (01 R31; 02 R80; 04 R173, R174). -/
namespace Sys2Proof.Machine

/-! ### The keys of a step -/

/-- The handles of a step that no register of the bank serves yet (02 R80). -/
def carryNeed (dest : Fin 7) (v : Request) (s : State) : List Nat :=
  (carriedHandles v.desc).filter fun h => !((regsFor s.stations[dest].loading v).any fun k => k.handle.toNat = h)

/-- Of them those that the bank does not hold, which are to be carried (04 R174). -/
def carryWant (dest : Fin 7) (v : Request) (s : State) : List Nat :=
  (carryNeed dest v s).filter fun h => !s.stations[dest].loading.any (holdsKey v.tenant h)

/-- Their keys as the bus would carry them. -/
def carryKeys (dest : Fin 7) (v : Request) (s : State) : List (Nat × Option (BitVec 16 × BitVec 8 × Bool × Bytes × Bytes)) :=
  (carryWant dest v s).map fun h => (h, carryKey s v.rid v.tenant h)

/-- The lengths of those keys. -/
def carryLens (dest : Fin 7) (v : Request) (s : State) : List Nat :=
  (carryKeys dest v s).map fun k => (k.2.map fun x => x.2.2.2.1.length).getD 0

/-- What a step's first transfer brings with its keys (04 R174, R189). -/
def carryBrought (v : Request) (u : State) : List Brought :=
  let x0 := ((u.req? v.rid).bind fun r => r.steps[v.cur]?).getD StepState.reset
  if draws v.desc then [{ rid := v.rid, step := v.cur, drawn := x0.drawn, drawnSym := x0.drawnSym, ctr := x0.counter }] else []

/-- The registers that a transfer fills (04 R174). -/
def carryRegs (dest : Fin 7) (v : Request) (s u : State) : List KeyReg :=
  (carryKeys dest v s).filterMap fun k => k.2.map fun x =>
    { users := [(v.rid, v.cur)], tenant := v.tenant, handle := BitVec.ofNat 32 k.1, alg := x.1, usage := x.2.1,
      value := x.2.2.2.1, brought := carryBrought v u, sym := x.2.2.2.2 : KeyReg }

/-- A register that the bank holds serves the step too (02 R80, 04 R174). -/
def carryJoin (dest : Fin 7) (v : Request) (s u : State) (k : KeyReg) : KeyReg :=
  if (carryNeed dest v s).any (fun h => holdsKey v.tenant h k) then
    { k with users := k.users ++ [(v.rid, v.cur)], brought := k.brought ++ carryBrought v u }
  else k

/-- The state in which the bank has the keys of a step; `s` is the state of the transfer, `u` the one after its draws. -/
def keysCarried (dest : Fin 7) (v : Request) (s u : State) : State :=
  (u.updStn dest fun x => { x with loading := x.loading.map (carryJoin dest v s u) ++ carryRegs dest v s u }).updReq v.rid fun r =>
    { r with carried := (carryNeed dest v s).foldl (fun l h => addNew (BitVec.ofNat 20 h) l) r.carried,
             steps := r.steps.modify v.cur fun x =>
               { x with
                 keysDone := true, keysTick := if x.keysDone then x.keysTick else u.now + 1,
                 station := if x.station = 255 then dest.val else x.station } }

/-- What an entry does with the step `v` (02 R80, 04 R174, R189). -/
def carryServe (dest : Fin 7) (c : Carry) (v : Request) : Carry :=
  if (carryNeed dest v c.st).isEmpty then c
  else if (carryNeed dest v c.st).any (fun h =>
      invalidated c.st v.tenant h || (h = stateKeyHandle && (carryKey c.st v.rid v.tenant h).isNone)) then
    { c with st := failStep v.rid v.cur 0x14 0 c.st.now c.st }
  else if (carryKeys dest v c.st).any (fun k => k.2.isNone) then c
  else if dest.val = 4 ∧ (carryKeys dest v c.st).any (fun k => (k.2.map fun x => x.2.2.1).getD false) then
    { c with st := failStep v.rid v.cur 0x13 0 c.st.now (faultReport srcSecretBus 0 c.st) }
  else if bytesLeft c.st dest.val v.rid (carryLens dest v c.st).sum > 1280 then carryHalf dest v.rid c
  else if bytesLeft c.st dest.val v.rid (carryLens dest v c.st).sum > c.room then { c with more := false }
  else if regsUsed dest.val c.st.stations[dest].loading + ((carryLens dest v c.st).map (regsOf dest.val)).sum > bankRegs dest.val then
    { c with more := false }
  else
    match (drawFor dest.val v c.st).2 with
    | some (st, src) => { c with st := failStep v.rid v.cur st src (drawFor dest.val v c.st).1.now (drawFor dest.val v c.st).1 }
    | none => { c with
        st := keysCarried dest v c.st (drawFor dest.val v c.st).1,
        room := c.room - bytesLeft c.st dest.val v.rid (carryLens dest v c.st).sum }

theorem carryStep_eq (dest : Fin 7) (c : Carry) (r : Request) : carryStep dest c r =
    match if c.more then (c.st.req? r.rid).bind carryView else none with
    | none => c
    | some v => carryServe dest c v := rfl

/-! ### What one step changes -/

theorem ofLe_lt (b : Bytes) : ofLe b < 256 ^ b.length := by
  induction b with
  | nil => simp [ofLe]
  | cons x b ih =>
    have hx := x.isLt
    rw [ofLe, List.length_cons, Nat.pow_succ]
    omega

theorem leAt_lt (b : Bytes) (off len : Nat) : leAt b off len < 256 ^ len := by
  refine Nat.lt_of_lt_of_le (ofLe_lt _) (Nat.pow_le_pow_right (by omega) ?_)
  rw [slice, List.length_take]
  exact Nat.min_le_left _ _

/-- A handle that the bus carries fits the 32 bits of a key register. -/
theorem carriedHandles_lt {d : Desc} {h : Nat} (hh : h ∈ carriedHandles d) : h < 2 ^ 32 := by
  have hkeys : ∀ off, leAt d off 4 < 2 ^ 32 := fun off => leAt_lt d off 4
  unfold carriedHandles usedHandles at hh
  dsimp only at hh
  split at hh
  · simp at hh
  · simp only [List.mem_append] at hh
    obtain (hh | hh) | hh := hh <;> split at hh <;> simp only [List.mem_singleton, List.not_mem_nil] at hh <;> subst hh
    · exact hkeys 16
    · exact hkeys 20
    · decide

section
variable {dest : Fin 7} {s t u : State}

/-- What serving key-bus entries of station `dest` leaves: its bank grows. -/
def busServes (dest : Fin 7) (s t : State) : Prop :=
  carriesTo dest s t ∧ bankGrows s.stations[dest].loading t.stations[dest].loading

theorem busServes_refl (dest : Fin 7) (s : State) : busServes dest s s := ⟨carriesTo_refl dest s, bankGrows_refl _⟩

theorem busServes_trans (ht : busServes dest s t) (hu : busServes dest t u) : busServes dest s u :=
  ⟨carriesTo_trans ht.1 hu.1, bankGrows_trans ht.2 hu.2⟩

theorem busServes_of_draws (h : drawsOnly dest s t) : busServes dest s t := ⟨h.1, bankGrows_of_mapped (h.2 dest)⟩

theorem mem_carryWant {v : Request} {h : Nat} (hh : h ∈ carryWant dest v s) :
    h ∈ carriedHandles v.desc ∧ ∀ k ∈ s.stations[dest].loading, holdsKey v.tenant h k = false := by
  obtain ⟨hneed, hnot⟩ := List.mem_filter.mp hh
  refine ⟨(List.mem_filter.mp hneed).1, fun k hk => ?_⟩
  simpa using List.any_eq_false.mp (Bool.not_eq_true' _ ▸ hnot) k hk

/-- The registers that a transfer fills are of handles that the bank did not hold (04 R174). -/
theorem carryRegs_new {v : Request} {x : KeyReg} (hx : x ∈ carryRegs dest v s u) :
    ∀ k ∈ s.stations[dest].loading, ¬ k.sameHandle x := by
  obtain ⟨⟨h, y⟩, hy, hsome⟩ := List.mem_filterMap.mp hx
  obtain ⟨g, hg, heq⟩ := List.mem_map.mp hy
  cases heq
  obtain ⟨z, -, rfl⟩ := Option.map_eq_some_iff.mp hsome
  obtain ⟨hmem, hnot⟩ := mem_carryWant hg
  rintro k hk ⟨htenant, hhandle⟩
  have hlt := carriedHandles_lt hmem
  have hnat : k.handle.toNat = h := by
    rw [hhandle, BitVec.toNat_ofNat]
    exact Nat.mod_eq_of_lt hlt
  have hheld := hnot k hk
  simp [holdsKey, hnat, htenant] at hheld

theorem carryJoin_keeps (v : Request) (k : KeyReg) :
    k.sameKey (carryJoin dest v s u k) ∧ ∀ x ∈ k.users, x ∈ (carryJoin dest v s u k).users := by
  unfold carryJoin
  split
  · exact ⟨sameKey_refl k, fun x hx => List.mem_append_left _ hx⟩
  · exact ⟨sameKey_refl k, fun _ hx => hx⟩

theorem keysCarried_loading (v : Request) : (keysCarried dest v s u).stations[dest].loading =
    u.stations[dest].loading.map (carryJoin dest v s u) ++ carryRegs dest v s u :=
  congrArg StationState.loading (station_updStn_same u dest fun x =>
    { x with loading := x.loading.map (carryJoin dest v s u) ++ carryRegs dest v s u })

/-- A transfer that is made fills the bank of its station (02 R80; 04 R174). -/
theorem busServes_keysCarried (v : Request) (hu : drawsOnly dest s u) : busServes dest s (keysCarried dest v s u) := by
  obtain ⟨hcarries, hmapped⟩ := hu
  have hloads : carriesTo dest u (keysCarried dest v s u) := by
    refine carriesTo_trans (carriesTo_updStn (n := dest) (f := fun b => b.map (carryJoin dest v s u) ++ carryRegs dest v s u)
      fun h => absurd rfl h) (carriesTo_of_stations dest rfl rfl rfl rfl)
  refine ⟨carriesTo_trans hcarries hloads, ?_⟩
  obtain ⟨f, hf, hbank⟩ := hmapped dest
  rw [keysCarried_loading, hbank, List.map_map]
  refine bankGrows_append (fun k => ⟨sameKey_trans (hf k).1 (carryJoin_keeps v (f k)).1, fun x hx => ?_⟩) fun x hx => carryRegs_new hx
  exact (carryJoin_keeps v (f k)).2 x ((hf k).2 x hx)

theorem carryServe_serves (dest : Fin 7) (c : Carry) (v : Request) : busServes dest c.st (carryServe dest c v).st := by
  have hdraws := drawsOnly_drawFor dest dest.val v c.st
  have hfail : ∀ (w : State) (code : Nat) (src : BitVec 16), drawsOnly dest c.st w →
      busServes dest c.st (failStep v.rid v.cur code src w.now w) := fun w code src hw =>
    busServes_of_draws (drawsOnly_trans hw (drawsOnly_failStep dest _ _ _ _ _ w))
  unfold carryServe
  split
  · exact busServes_refl dest _
  split
  · exact busServes_of_draws (drawsOnly_failStep dest _ _ _ _ _ _)
  split
  · exact busServes_refl dest _
  split
  · exact busServes_of_draws (drawsOnly_trans (drawsOnly_faultReport dest srcSecretBus 0 c.st) (drawsOnly_failStep dest _ _ _ _ _ _))
  split
  · unfold carryHalf
    split
    · exact busServes_of_draws (drawsOnly_of_stations dest rfl rfl rfl rfl)
    · exact busServes_refl dest _
  split
  · exact busServes_refl dest _
  split
  · exact busServes_refl dest _
  split
  · exact hfail _ _ _ hdraws
  · exact busServes_keysCarried v hdraws

theorem carryStep_serves (dest : Fin 7) (c : Carry) (r : Request) : busServes dest c.st (carryStep dest c r).st := by
  rw [carryStep_eq]
  split
  · exact busServes_refl dest _
  · exact carryServe_serves dest c _

theorem foldl_carryStep_serves (dest : Fin 7) (l : List Request) (c : Carry) :
    busServes dest c.st (l.foldl (carryStep dest) c).st := by
  induction l generalizing c with
  | nil => exact busServes_refl dest _
  | cons r l ih => exact busServes_trans (carryStep_serves dest c r) (ih _)

/-! ### A whole entry -/

/-- What an entry does for platform `p`, its own or a borrower (02 R80). -/
def carryPlat (slot : Nat) (dest : Fin 6) (c : Carry) (p : Nat) : Carry :=
  if c.more ∧ c.room = 1280 then (carryOrder c.st slot dest.val p).foldl (carryStep ⟨dest.val, by omega⟩) c else c

theorem keyBusEntry_eq (slot : Nat) (dest : Fin 6) (s : State) : keyBusEntry slot dest s =
    ((entryBorrowers s (entryAt s 6 s.now slot (4 + dest.val))).foldl (carryPlat slot dest)
      (carryPlat slot dest { st := s, room := 1280, more := true } (entryPlat (entryAt s 6 s.now slot (4 + dest.val))))).st := by
  unfold keyBusEntry
  dsimp only
  rw [List.singleton_append, List.foldl_cons]
  rfl

theorem carryPlat_serves (slot : Nat) (dest : Fin 6) (c : Carry) (p : Nat) :
    busServes ⟨dest.val, by omega⟩ c.st (carryPlat slot dest c p).st := by
  unfold carryPlat
  split
  · exact foldl_carryStep_serves _ _ c
  · exact busServes_refl _ _

theorem foldl_carryPlat_serves (slot : Nat) (dest : Fin 6) (l : List Nat) (c : Carry) :
    busServes ⟨dest.val, by omega⟩ c.st (l.foldl (carryPlat slot dest) c).st := by
  induction l generalizing c with
  | nil => exact busServes_refl _ _
  | cons p l ih => exact busServes_trans (carryPlat_serves slot dest c p) (ih _)

/-! ### The words that a transfer has read -/

/-- The registers of the handle of `k`. -/
def ofHandle (k x : KeyReg) : Bool := x.tenant = k.tenant && x.handle == k.handle

/-- The state in which the bank has lost the registers of a handle whose slot lost a word (12 R480). -/
def regsLost (dest : Fin 7) (k : KeyReg) (s : State) : State :=
  s.updStn dest fun x => { x with loading := x.loading.filter fun y => !ofHandle k y }

/-- The state in which the registers of a handle are corrected (01 R31). -/
def regsMended (dest : Fin 7) (k : KeyReg) (s : State) : State :=
  s.updStn dest fun x => { x with loading := x.loading.map fun y => if ofHandle k y then y.mend else y }

theorem testTransfer_eq (dest : Fin 7) (k : KeyReg) (s : State) : testTransfer dest k s =
    if wordsLost k.value k.sym then loseSlot k.tenant k.handle.toNat (regsLost dest k s)
    else if wordsMended k.value k.sym then faultReport (srcCache 3) 0 (mendSlot k.tenant k.handle.toNat (regsMended dest k s))
    else s := rfl

/-- A slot that is lost leaves the stations to its outcome (12 R480). -/
theorem loseSlot_stations (a h : Nat) (s : State) : (loseSlot a h s).stations = s.stations ∧
    carriesTo dest s (loseSlot a h s) := by
  unfold loseSlot
  generalize (s.now + 1, srcCache 4, (0 : BitVec 16), WordOwner.slot (tenantFin a) (BitVec.ofNat 20 h)) = due
  have hcarries := carriesTo_faultReport dest (srcCache 4) 0 (s.updFlt fun f => { f with wordsDue := f.wordsDue ++ [due] })
  refine ⟨?_, carriesTo_trans (carriesTo_of_stations dest rfl rfl rfl rfl) hcarries⟩
  rw [faultReport_only (srcCache 4) 0 (s.updFlt fun f => { f with wordsDue := f.wordsDue ++ [due] })]
  rfl

theorem mendSlot_stations (a h : Nat) (c d : BitVec 16) (s : State) : (faultReport c d (mendSlot a h s)).stations = s.stations ∧
    carriesTo dest s (faultReport c d (mendSlot a h s)) := by
  have hcarries := carriesTo_faultReport dest c d (mendSlot a h s)
  refine ⟨?_, carriesTo_trans (carriesTo_of_stations dest rfl rfl rfl rfl) hcarries⟩
  rw [faultReport_only c d (mendSlot a h s)]
  rfl

/-- A test of the words changes nothing but the registers of the handle and what is reported (01 R31). -/
theorem testTransfer_carries (dest : Fin 7) (k : KeyReg) (s : State) : carriesTo dest s (testTransfer dest k s) := by
  have hlost : carriesTo dest s (regsLost dest k s) :=
    carriesTo_updStn (n := dest) (f := fun b => b.filter fun y => !ofHandle k y) fun h => absurd rfl h
  have hmended : carriesTo dest s (regsMended dest k s) :=
    carriesTo_updStn (n := dest) (f := fun b => b.map fun y => if ofHandle k y then y.mend else y) fun h => absurd rfl h
  rw [testTransfer_eq]
  split
  · exact carriesTo_trans hlost (loseSlot_stations _ _ _).2
  split
  · exact carriesTo_trans hmended (mendSlot_stations _ _ _ _ _).2
  · exact carriesTo_refl dest s

theorem testTransfers_carries (dest : Fin 7) (s : State) : carriesTo dest s (testTransfers dest s) := by
  unfold testTransfers
  generalize loadedNow dest s = l
  induction l generalizing s with
  | nil => exact carriesTo_refl dest s
  | cons k l ih => exact carriesTo_trans (testTransfer_carries dest k s) (ih _)

end

end Sys2Proof.Machine
end

section
/-! PROOF. The key bus fills the loading bank of its destination (01 R31; 02 R80; 04 R173, R174; 07 R296). -/
namespace Sys2Proof.Machine

section
variable {dest : Fin 7} {s u : State} {v : Request} {a b : List KeyReg} {key : Nat → Bytes × Bytes}

/-- The bank has each key of a step, for the step, and no other words under its handle. -/
def bankHas (v : Request) (key : Nat → Bytes × Bytes) (bank : List KeyReg) : Prop :=
  ∀ h ∈ carriedHandles v.desc,
    (∃ k ∈ bank, (v.rid, v.cur) ∈ k.users ∧ k.tenant = v.tenant ∧ k.handle = BitVec.ofNat 32 h ∧ k.value = (key h).1) ∧
    ∀ k ∈ bank, k.tenant = v.tenant → k.handle = BitVec.ofNat 32 h → k.value = (key h).1 ∧ k.sym = (key h).2

theorem bankHas_grows (hb : bankHas v key a) (hg : bankGrows a b) : bankHas v key b := by
  obtain ⟨hkept, honly⟩ := hg
  intro h hh
  obtain ⟨⟨k, hk, huser, htenant, hhandle, hvalue⟩, hall⟩ := hb h hh
  refine ⟨?_, fun x hx hxt hxh => ?_⟩
  · obtain ⟨x, hx, ⟨h1, h2, h3, -⟩, husers⟩ := hkept k hk
    exact ⟨x, hx, husers _ huser, h1.symm.trans htenant, h2.symm.trans hhandle, h3.symm.trans hvalue⟩
  · obtain ⟨y, hy, h1, h2, h3, h4⟩ | hnot := honly x hx
    · obtain ⟨hv, hs⟩ := hall y hy (h1.trans hxt) (h2.trans hxh)
      exact ⟨h3.symm.trans hv, h4.symm.trans hs⟩
    · exact absurd ⟨htenant.trans hxt.symm, hhandle.trans hxh.symm⟩ (hnot k hk)

/-! ### The words that a transfer has read -/

/-- The words of the keys of a step are free of errors (01 R31). -/
def keysClean (v : Request) (key : Nat → Bytes × Bytes) : Prop :=
  ∀ h ∈ carriedHandles v.desc, wordsLost (key h).1 (key h).2 = false ∧ wordsMended (key h).1 (key h).2 = false

theorem regsLost_loading (k : KeyReg) :
    (regsLost dest k s).stations[dest].loading = s.stations[dest].loading.filter fun y => !ofHandle k y :=
  congrArg StationState.loading (station_updStn_same s dest fun x => { x with loading := x.loading.filter fun y => !ofHandle k y })

theorem regsMended_loading (k : KeyReg) :
    (regsMended dest k s).stations[dest].loading = s.stations[dest].loading.map fun y => if ofHandle k y then y.mend else y :=
  congrArg StationState.loading
    (station_updStn_same s dest fun x => { x with loading := x.loading.map fun y => if ofHandle k y then y.mend else y })

theorem ofHandle_iff (k x : KeyReg) : ofHandle k x = true ↔ x.tenant = k.tenant ∧ x.handle = k.handle := by
  simp [ofHandle]

/-- A register whose words have an error is of another handle than the keys of a step that are clean. -/
theorem ofHandle_other {k x : KeyReg} {h : Nat} (hclean : keysClean v key) (hh : h ∈ carriedHandles v.desc)
    (hk : k.tenant = v.tenant → k.handle = BitVec.ofNat 32 h → k.value = (key h).1 ∧ k.sym = (key h).2)
    (hbad : wordsLost k.value k.sym = true ∨ wordsMended k.value k.sym = true) (hxt : x.tenant = v.tenant)
    (hxh : x.handle = BitVec.ofNat 32 h) : ofHandle k x = false := by
  rw [Bool.eq_false_iff, ne_eq, ofHandle_iff]
  rintro ⟨ht, hhandle⟩
  obtain ⟨hval, hsym⟩ := hk (ht.symm.trans hxt) (hhandle.symm.trans hxh)
  obtain ⟨hlost, hmended⟩ := hclean h hh
  rw [hval, hsym, hlost, hmended] at hbad
  simp at hbad

theorem testTransfer_lost {k : KeyReg} (h : wordsLost k.value k.sym = true) :
    (testTransfer dest k s).stations[dest].loading = s.stations[dest].loading.filter fun y => !ofHandle k y := by
  have hst := (loseSlot_stations (dest := dest) k.tenant k.handle.toNat (regsLost dest k s)).1
  have heq : testTransfer dest k s = loseSlot k.tenant k.handle.toNat (regsLost dest k s) := if_pos h
  rw [heq]
  exact (congrArg (fun v : Vector StationState 7 => v[dest].loading) hst).trans (regsLost_loading k)

theorem testTransfer_mended {k : KeyReg} (hlost : ¬ wordsLost k.value k.sym = true) (h : wordsMended k.value k.sym = true) :
    (testTransfer dest k s).stations[dest].loading =
      s.stations[dest].loading.map fun y => if ofHandle k y then y.mend else y := by
  have hst := (mendSlot_stations (dest := dest) k.tenant k.handle.toNat (srcCache 3) 0 (regsMended dest k s)).1
  have heq : testTransfer dest k s = faultReport (srcCache 3) 0 (mendSlot k.tenant k.handle.toNat (regsMended dest k s)) :=
    (if_neg hlost).trans (if_pos h)
  rw [heq]
  exact (congrArg (fun v : Vector StationState 7 => v[dest].loading) hst).trans (regsMended_loading k)

theorem testTransfer_clean {k : KeyReg} (hlost : ¬ wordsLost k.value k.sym = true) (hmended : ¬ wordsMended k.value k.sym = true) :
    testTransfer dest k s = s := (if_neg hlost).trans (if_neg hmended)

theorem testTransfer_has (hclean : keysClean v key) {k : KeyReg}
    (hk : ∀ h ∈ carriedHandles v.desc, k.tenant = v.tenant → k.handle = BitVec.ofNat 32 h → k.value = (key h).1 ∧ k.sym = (key h).2)
    (hb : bankHas v key s.stations[dest].loading) : bankHas v key (testTransfer dest k s).stations[dest].loading := by
  by_cases hlost : wordsLost k.value k.sym = true
  · rw [testTransfer_lost hlost]
    intro h hh
    obtain ⟨⟨x, hx, huser, hxt, hxh, hxv⟩, hall⟩ := hb h hh
    have hother := ofHandle_other hclean hh (hk h hh) (.inl hlost) hxt hxh
    exact ⟨⟨x, List.mem_filter.mpr ⟨hx, by simp [hother]⟩, huser, hxt, hxh, hxv⟩, fun y hy => hall y (List.mem_filter.mp hy).1⟩
  by_cases hmended : wordsMended k.value k.sym = true
  · rw [testTransfer_mended hlost hmended]
    intro h hh
    obtain ⟨⟨x, hx, huser, hxt, hxh, hxv⟩, hall⟩ := hb h hh
    have hother := fun (y : KeyReg) => ofHandle_other (x := y) hclean hh (hk h hh) (.inr hmended)
    refine ⟨⟨x, List.mem_map.mpr ⟨x, hx, by rw [hother x hxt hxh]; rfl⟩, huser, hxt, hxh, hxv⟩, fun y hy hyt hyh => ?_⟩
    obtain ⟨z, hz, rfl⟩ := List.mem_map.mp hy
    cases hof : ofHandle k z with
    | true =>
      rw [hof] at hyt hyh
      rw [hother z hyt hyh] at hof
      cases hof
    | false =>
      rw [hof] at hyt hyh
      exact hall z hz hyt hyh
  · rw [testTransfer_clean hlost hmended]
    exact hb

theorem testTransfers_has (hclean : keysClean v key) (hb : bankHas v key s.stations[dest].loading) :
    bankHas v key (testTransfers dest s).stations[dest].loading := by
  have hl : ∀ k ∈ loadedNow dest s, k ∈ s.stations[dest].loading := fun k hk => (List.mem_filter.mp hk).1
  have hkeys : ∀ k ∈ loadedNow dest s, ∀ h ∈ carriedHandles v.desc, k.tenant = v.tenant → k.handle = BitVec.ofNat 32 h →
      k.value = (key h).1 ∧ k.sym = (key h).2 := fun k hk h hh => (hb h hh).2 k (hl k hk)
  unfold testTransfers
  generalize loadedNow dest s = l at hkeys
  clear hl
  induction l generalizing s with
  | nil => exact hb
  | cons k l ih =>
    exact ih (testTransfer_has hclean (hkeys k (List.mem_cons_self ..)) hb) fun x hx => hkeys x (List.mem_cons_of_mem _ hx)

/-! ### The first step of an entry -/

/-- The words of a key as the bus would carry it. -/
def carriedWords (s : State) (v : Request) (h : Nat) : Bytes × Bytes :=
  ((carryKey s v.rid v.tenant h).map fun x => (x.2.2.2.1, x.2.2.2.2)).getD ([], [])

theorem carryNeed_empty (hbank : s.stations[dest].loading = []) : carryNeed dest v s = carriedHandles v.desc := by
  rw [carryNeed, hbank]
  simp [regsFor]

theorem carryWant_empty (hbank : s.stations[dest].loading = []) : carryWant dest v s = carriedHandles v.desc := by
  rw [carryWant, hbank, carryNeed_empty hbank]
  simp

theorem carryLens_empty (hbank : s.stations[dest].loading = []) : carryLens dest v s =
    (carriedHandles v.desc).map fun h => ((carryKey s v.rid v.tenant h).map fun x => x.2.2.2.1.length).getD 0 := by
  rw [carryLens, carryKeys, carryWant_empty hbank, List.map_map]
  rfl

/-- A transfer into an empty bank brings each key of its step. -/
theorem carryRegs_has (hbank : s.stations[dest].loading = [])
    (hkeys : ∀ h ∈ carriedHandles v.desc, (carryKey s v.rid v.tenant h).isSome = true) :
    bankHas v (carriedWords s v) (carryRegs dest v s u) := by
  intro h hh
  refine ⟨?_, fun k hk _ hkh => ?_⟩
  · obtain ⟨x, hx⟩ := Option.isSome_iff_exists.mp (hkeys h hh)
    have hmem : (h, some x) ∈ carryKeys dest v s := List.mem_map.mpr ⟨h, by rw [carryWant_empty hbank]; exact hh, by rw [hx]⟩
    refine ⟨_, List.mem_filterMap.mpr ⟨(h, some x), hmem, rfl⟩, List.mem_singleton_self _, rfl, rfl, ?_⟩
    simp [carriedWords, hx]
  · obtain ⟨⟨g, y⟩, hy, hsome⟩ := List.mem_filterMap.mp hk
    obtain ⟨f, hf, heq⟩ := List.mem_map.mp hy
    cases heq
    obtain ⟨z, hz, rfl⟩ := Option.map_eq_some_iff.mp hsome
    have hlt := carriedHandles_lt hh
    have hlt' := carriedHandles_lt (mem_carryWant hf).1
    have hfh : g = h := by
      have hnat := congrArg BitVec.toNat hkh
      simp only [BitVec.toNat_ofNat] at hnat
      rwa [Nat.mod_eq_of_lt hlt', Nat.mod_eq_of_lt hlt] at hnat
    subst hfh
    have hz' : carryKey s v.rid v.tenant g = some z := hz
    simp [carriedWords, hz']

/-- Whether the draws of a step refuse it, and with what (04 R189 to R194; 10 R426). -/
def drawRefusal (v : Request) (ivs : List IvCtr) (e : Entropy) : Option (Nat × BitVec 16) :=
  if v.step.keysDone then none
  else if needsCounter v.desc then
    match ivs.find? fun x => x.tenant = v.tenant && x.handle.toNat = Desc.keyA v.desc with
    | none => some (0x13, 0)
    | some c => if c.c ≥ 2 ^ 64 - 2 ^ 20 then some (0x13, 0) else if c.c ≥ c.mark then some (0x3F, srcCache 27) else none
  else if ivDraw v.desc = 0 then none
  else if e.state = 3 ∧ e.fill < ivDraw v.desc then some (0x30, 0) else none

theorem drawFor_refusal (d : Nat) (v : Request) (s : State) : (drawFor d v s).2 = drawRefusal v s.ks.ivs s.en := by
  have hiv : ivOf s v.tenant (Desc.keyA v.desc) =
    s.ks.ivs.find? fun x => x.tenant = v.tenant && x.handle.toNat = Desc.keyA v.desc := rfl
  unfold drawFor drawRefusal
  dsimp only
  by_cases hdone : v.step.keysDone = true
  · rw [if_pos hdone, if_pos hdone]
  rw [if_neg hdone, if_neg hdone]
  by_cases hctr : needsCounter v.desc = true
  · rw [if_pos hctr, if_pos hctr, ← hiv]
    cases ivOf s v.tenant (Desc.keyA v.desc) with
    | none => rfl
    | some c =>
      dsimp only
      by_cases hlast : c.c ≥ 2 ^ 64 - 2 ^ 20
      · rw [if_pos hlast, if_pos hlast]
      by_cases hmark : c.c ≥ c.mark
      · rw [if_neg hlast, if_neg hlast, if_pos hmark, if_pos hmark]
      · rw [if_neg hlast, if_neg hlast, if_neg hmark, if_neg hmark]
  rw [if_neg hctr, if_neg hctr]
  by_cases hnone : ivDraw v.desc = 0
  · rw [if_pos hnone, if_pos hnone]
  by_cases hout : s.en.state = 3 ∧ s.en.fill < ivDraw v.desc
  · rw [if_neg hnone, if_neg hnone, if_pos hout, if_pos hout]
  · rw [if_neg hnone, if_neg hnone, if_neg hout, if_neg hout]

/-- What lets an entry carry all keys of a step at once (01 R55; 02 R80; 04 R173, R174; 07 R296; 09 R399). -/
def keysFit (dest : Fin 7) (s : State) (v : Request) : Prop :=
  (drawFor dest.val v s).2 = none ∧
    (∀ h ∈ carriedHandles v.desc, invalidated s v.tenant h = false ∧ ∃ x, carryKey s v.rid v.tenant h = some x ∧
      (dest.val = 4 → x.2.2.1 = false) ∧ wordsLost x.2.2.2.1 x.2.2.2.2 = false ∧ wordsMended x.2.2.2.1 x.2.2.2.2 = false) ∧
    ((carriedHandles v.desc).map fun h => ((carryKey s v.rid v.tenant h).map fun x => x.2.2.2.1.length).getD 0).sum ≤ 1280 ∧
    ((carriedHandles v.desc).map fun h =>
      regsOf dest.val (((carryKey s v.rid v.tenant h).map fun x => x.2.2.2.1.length).getD 0)).sum ≤ bankRegs dest.val

theorem keysClean_of_fit (h : keysFit dest s v) : keysClean v (carriedWords s v) := by
  obtain ⟨-, hkeys, -, -⟩ := h
  intro h hh
  obtain ⟨-, x, hx, -, hlost, hmended⟩ := hkeys h hh
  have hwords : carriedWords s v h = (x.2.2.2.1, x.2.2.2.2) := by simp [carriedWords, hx]
  rw [hwords]
  exact ⟨hlost, hmended⟩

theorem carryServe_fits (hbank : s.stations[dest].loading = []) (hfit : keysFit dest s v) :
    carriedHandles v.desc = [] ∨
      (carryServe dest { st := s, room := 1280, more := true } v).st = keysCarried dest v s (drawFor dest.val v s).1 := by
  obtain ⟨hdraw, hkeys, hbytes, hregs⟩ := hfit
  by_cases hnil : carriedHandles v.desc = []
  · exact .inl hnil
  refine .inr ?_
  have hneed : ¬ (carryNeed dest v s).isEmpty = true := by
    rw [carryNeed_empty hbank]
    simpa using hnil
  have hvalid : ¬ (carryNeed dest v s).any (fun h =>
      invalidated s v.tenant h || (h = stateKeyHandle && (carryKey s v.rid v.tenant h).isNone)) = true := by
    rw [carryNeed_empty hbank, List.any_eq_true]
    rintro ⟨h, hh, hbad⟩
    obtain ⟨hinv, x, hx, -⟩ := hkeys h hh
    simp [hinv, hx] at hbad
  have hthere : ¬ (carryKeys dest v s).any (fun k => k.2.isNone) = true := by
    rw [carryKeys, carryWant_empty hbank, List.any_map, List.any_eq_true]
    rintro ⟨h, hh, hbad⟩
    obtain ⟨-, x, hx, -⟩ := hkeys h hh
    simp [hx] at hbad
  have hsecret : ¬ (dest.val = 4 ∧ (carryKeys dest v s).any (fun k => (k.2.map fun x => x.2.2.1).getD false) = true) := by
    rintro ⟨h4, hbad⟩
    rw [carryKeys, carryWant_empty hbank, List.any_map, List.any_eq_true] at hbad
    obtain ⟨h, hh, hbad⟩ := hbad
    obtain ⟨-, x, hx, hopen, -⟩ := hkeys h hh
    simp [hx, hopen h4] at hbad
  have hleft : bytesLeft s dest.val v.rid (carryLens dest v s).sum ≤ 1280 := by
    rw [carryLens_empty hbank]
    unfold bytesLeft
    split <;> omega
  have hroom : ¬ regsUsed dest.val s.stations[dest].loading + ((carryLens dest v s).map (regsOf dest.val)).sum > bankRegs dest.val := by
    have hused : regsUsed dest.val s.stations[dest].loading = 0 := by
      rw [hbank]
      rfl
    rw [hused, carryLens_empty hbank, List.map_map, Nat.zero_add]
    exact Nat.not_lt.mpr hregs
  unfold carryServe
  dsimp only
  rw [if_neg hneed, if_neg hvalid, if_neg hthere, if_neg hsecret, if_neg (by omega), if_neg (by omega), if_neg hroom, hdraw]

/-- The first step of an entry finds its keys in the bank (02 R80; 04 R173). -/
theorem carryStep_has {r : Request} (hr : s.req? r.rid = some r) (hv : carryView r = some v)
    (hbank : s.stations[dest].loading = []) (hfit : keysFit dest s v) :
    bankHas v (carriedWords s v) (carryStep dest { st := s, room := 1280, more := true } r).st.stations[dest].loading := by
  have hstep : carryStep dest { st := s, room := 1280, more := true } r =
      carryServe dest { st := s, room := 1280, more := true } v := by
    rw [carryStep_eq, if_pos rfl, hr]
    change (match carryView r with
      | none => _
      | some v => carryServe dest { st := s, room := 1280, more := true } v) = _
    rw [hv]
  rw [hstep]
  obtain hnil | hcarried := carryServe_fits hbank hfit
  · intro h hh
    rw [hnil] at hh
    simp at hh
  · rw [hcarried, keysCarried_loading]
    obtain ⟨f, -, hmap⟩ := (drawsOnly_drawFor dest dest.val v s).2 dest
    rw [hmap, hbank]
    refine carryRegs_has hbank fun h hh => ?_
    obtain ⟨-, x, hx, -⟩ := hfit.2.1 h hh
    simp [hx]

end

/-! ### The entry -/

/-- The state in which the bus has noted that the entry is used (02 R80). -/
def busNoted (slot : Fin 8) (dest : Fin 6) (s : State) : State :=
  s.updTt fun t => { t with busDone := t.busDone ++ [(slot.val, dest.val)] }

section
variable {s : State} {slot : Fin 8} {dest : Fin 6}

theorem exec_keyBusTransfer (hst : s.tt.started = true) (hl : s.locked = false) (hr : isRestarting s 6 = false)
    (hslot : slot.val + 1 = s.tt.slot) (hnew : (slot.val, dest.val) ∉ s.tt.busDone) : exec (.keyBusTransfer slot dest) s =
    .next (testTransfers ⟨dest.val, by omega⟩ (keyBusEntry slot.val dest (busNoted slot dest s))) := by
  refine if_neg ?_
  simp [hst, hl, hr, hslot, hnew]

theorem exec_keyBusTransfer_used (h : (slot.val, dest.val) ∈ s.tt.busDone) : exec (.keyBusTransfer slot dest) s = .next s := by
  refine if_pos ?_
  simp [h]

theorem busNoted_entry : entryAt (busNoted slot dest s) 6 (busNoted slot dest s).now slot.val (4 + dest.val) =
    entryAt s 6 s.now slot.val (4 + dest.val) := rfl

theorem busNoted_order (p : Nat) : carryOrder (busNoted slot dest s) slot.val dest.val p = carryOrder s slot.val dest.val p := rfl

theorem busNoted_fit {v : Request} (h : keysFit ⟨dest.val, by omega⟩ s v) : keysFit ⟨dest.val, by omega⟩ (busNoted slot dest s) v := by
  obtain ⟨hdraw, hkeys, hbytes, hregs⟩ := h
  refine ⟨?_, hkeys, hbytes, hregs⟩
  rw [drawFor_refusal] at hdraw ⊢
  exact hdraw

/-- The keys of the first step that is due are in the bank once the entry has been served. -/
theorem keyBusEntry_has {r v : Request} {l : List Request}
    (horder : carryOrder s slot.val dest.val (entryPlat (entryAt s 6 s.now slot.val (4 + dest.val))) = r :: l)
    (hr : s.req? r.rid = some r) (hv : carryView r = some v) (hbank : s.stations[(⟨dest.val, by omega⟩ : Fin 7)].loading = [])
    (hfit : keysFit ⟨dest.val, by omega⟩ s v) : bankHas v (carriedWords s v)
      (keyBusEntry slot.val dest (busNoted slot dest s)).stations[(⟨dest.val, by omega⟩ : Fin 7)].loading := by
  rw [keyBusEntry_eq, busNoted_entry]
  refine bankHas_grows ?_ (foldl_carryPlat_serves slot.val dest _ _).2
  have hplat : carryPlat slot.val dest { st := busNoted slot dest s, room := 1280, more := true }
      (entryPlat (entryAt s 6 s.now slot.val (4 + dest.val))) =
      (r :: l).foldl (carryStep ⟨dest.val, by omega⟩) { st := busNoted slot dest s, room := 1280, more := true } := by
    rw [← horder, ← busNoted_order]
    exact if_pos ⟨rfl, rfl⟩
  rw [hplat, List.foldl_cons]
  refine bankHas_grows ?_ (foldl_carryStep_serves _ l _).2
  exact carryStep_has (s := busNoted slot dest s) hr hv hbank (busNoted_fit hfit)

end

/-- Settles O23: an entry changes loading banks only, and its first step finds its keys there. -/
theorem keyBusFillsLoadingBank : Obligations.KeyBusFillsLoadingBank := by
  unfold Obligations.KeyBusFillsLoadingBank
  refine ⟨fun s slot dest hst hl hrest hslot hnew => ?_, fun s slot dest h => exec_keyBusTransfer_used h⟩
  obtain ⟨hentry, -⟩ : busServes ⟨dest.val, by omega⟩ (busNoted slot dest s) (keyBusEntry slot.val dest (busNoted slot dest s)) := by
    rw [keyBusEntry_eq]
    exact busServes_trans (carryPlat_serves ..) (foldl_carryPlat_serves ..)
  obtain ⟨hdone, hnvm, hten, hstations, hother⟩ := carriesTo_trans hentry (testTransfers_carries ⟨dest.val, by omega⟩ _)
  refine ⟨_, exec_keyBusTransfer hst hl hrest hslot hnew, ?_, hdone, hnvm, hten, hstations, fun n hn => ?_,
    fun n r v l hn horder hr hv hbank hdraw hkeys hbytes hregs h hh => ?_⟩
  · simp [busNoted]
  · exact hother n fun heq => hn (congrArg Fin.val heq)
  · obtain ⟨n, hlt⟩ := n
    obtain rfl : n = dest.val := hn
    have hfit : keysFit ⟨dest.val, by omega⟩ s v := ⟨hdraw, hkeys, hbytes, hregs⟩
    have hhas := testTransfers_has (keysClean_of_fit hfit) (keyBusEntry_has (slot := slot) horder hr hv hbank hfit)
    obtain ⟨⟨k, hk, huser, htenant, hhandle, hvalue⟩, -⟩ := hhas h hh
    refine ⟨k, hk, huser, htenant, hhandle, ?_⟩
    obtain ⟨-, x, hx, -⟩ := hkeys h hh
    rw [hvalue]
    simp [carriedWords, hx]

end Sys2Proof.Machine
end

section
/-! SUPPORT. What admitting a chain does: the outcomes of its checks, and what each leaves (03 R123 to R135, R145, R146). -/
namespace Sys2Proof.Machine

/-- The parts that admission may change. -/
def admitFrame (s t : State) : Prop :=
  t = { s with tt := t.tt, tenants := t.tenants, reqs := t.reqs, ended := t.ended, nextRid := t.nextRid, vs := t.vs, ss := t.ss,
               fab := t.fab, ks := t.ks }

/-- What the checks of a taken chain leave: it is queued, or it has ended with a failing status (03 R134). -/
def chainDecided (s t : State) : Prop :=
  (∃ r, t.reqs = s.reqs ++ [r] ∧ t.ended = s.ended ∧ t.nextRid = s.nextRid + 1 ∧ r.rid = s.nextRid ∧ r.admitTick = s.now ∧
    r.readyTick = s.now + 1 ∧ r.cur = 0) ∨
  ∃ e, t.ended = s.ended ++ [e] ∧ t.reqs = s.reqs ∧ t.nextRid = s.nextRid + 1 ∧ e.rid = s.nextRid ∧ e.admitted = false ∧
    e.due = s.now ∧ 0x10 ≤ e.status.toNat

/-- The descriptors of a chain as its words test. -/
def chainDescs (held : List HeldDesc) : List Desc := held.map fun h => readWords h.bytes h.sym

/-- The index of a chain: that of its first descriptor. -/
def chainIndex (held : List HeldDesc) : BitVec 16 := (held.map HeldDesc.index).headD 0

section
variable {s t u : State} {n : Tenant} {k : RingNo}

theorem admitFrame_trans (ht : admitFrame s t) (hu : admitFrame t u) : admitFrame s u := by
  refine Eq.trans hu ?_
  rw [ht]

/-! ### The drain of inline items -/

theorem drainItem_rings (len : Nat) (p : TenantPage) : (drainItem len p).1.rings = p.rings := by
  unfold drainItem
  split
  · rfl
  · split <;> rfl

theorem drainItem_status {len c : Nat} {p : TenantPage} (h : (drainItem len p).2.2 = some c) : c = 0x15 ∨ c = 0x16 := by
  have hsome : ∀ {a : Nat}, (some a : Option Nat) = some c → c = a := fun h => (Option.some.inj h).symm
  unfold drainItem at h
  split at h
  · exact .inl (hsome h)
  split at h
  · exact .inl (hsome h)
  dsimp only at h
  split at h
  · exact .inl (hsome h)
  split at h
  · exact .inr (hsome h)
  · cases h

/-- A drain takes items only; one that fails has the status of a missing or a long item (03 R145, R147). -/
theorem drainAll_leaves (ds : List Desc) (p : TenantPage) : (drainAll ds p).page.rings = p.rings ∧
    ∀ i c, (drainAll ds p).bad = some (i, c) → c = 0x15 ∨ c = 0x16 := by
  unfold drainAll
  refine List.foldlRecOn (motive := fun a : Drained => a.page.rings = p.rings ∧ ∀ i c, a.bad = some (i, c) → c = 0x15 ∨ c = 0x16) _ _
    ⟨rfl, fun _ _ h => by cases h⟩ fun a ⟨hrings, hbad⟩ it _ => ⟨(drainItem_rings _ _).trans hrings, fun i c h => ?_⟩
  dsimp only at h
  split at h
  next x hx =>
    exact hbad i c (hx.trans h)
  next b hb hc =>
    cases h
    exact drainItem_status hc
  · cases h

/-! ### What a decision changes -/

theorem takeMarks_ring (n : Tenant) (k : RingNo) (idx : List (BitVec 16)) (rid : Nat) (acted : Bool) (s : State) :
    (takeMarks n k idx rid acted s).ring n k = { s.ring n k with marks := (s.ring n k).marks.filter fun m => !idx.contains m } := by
  unfold takeMarks
  dsimp only
  rw [ring_updPage_rings (fun p => ?_), ring_updRing_same]
  rw [settleAbort_rings]
  split <;> rfl

theorem updPage_drained_ring (ds : List Desc) (n : Tenant) (k : RingNo) (s : State) :
    (s.updPage n fun _ => (drainAll ds (s.page n)).page).ring n k = s.ring n k := by
  have hpage : (s.updPage n fun _ => (drainAll ds (s.page n)).page).page n = (drainAll ds (s.page n)).page :=
    Vector.getElem_set_self ..
  unfold State.ring
  rw [hpage, (drainAll_leaves ds (s.page n)).1]

theorem takeMarks_frame (idx : List (BitVec 16)) (rid : Nat) (acted : Bool) (s : State) :
    takeMarks n k idx rid acted s = { s with tenants := (takeMarks n k idx rid acted s).tenants } := rfl

/-- The slots of the keys of a queued chain, those of `hs` pinned and those of what it receives taken (09 R382). -/
def chainSlots (n : Tenant) (rid : Nat) (hs : List Nat) (ds : List Desc) (s : State) : State :=
  let s := hs.foldl (fun s h => pinSlot rid n.val h s) s
  ds.foldl (fun s d => if receives d then
    s.updKs fun c => { c with pendingH := addNew (n.val, BitVec.ofNat 20 (Desc.keyB d)) c.pendingH } else s)
    (evictFor 0 s.ks.cache.length s)

theorem chainSlots_ks (rid : Nat) (hs : List Nat) (ds : List Desc) (s : State) : ∃ c, chainSlots n rid hs ds s = { s with ks := c } := by
  obtain ⟨c, hpin⟩ := foldl_ks (fun s h => pinSlot rid n.val h s) (fun s _ => ⟨_, rfl⟩) hs s
  obtain ⟨d, hevict⟩ := evictFor_ks 0 c.cache.length { s with ks := c }
  unfold chainSlots
  dsimp only
  rw [hpin, hevict]
  refine foldl_ks _ (fun s d => ?_) ds { s with ks := d }
  split
  · exact ⟨_, rfl⟩
  · exact ⟨s.ks, rfl⟩

/-- What taking a place on a platform leaves of its bucket and counters (02 R72, R74). -/
def placeTaken (rate : RateClass) (x : PlatStat) : PlatStat :=
  { x with
    depth := x.depth + 1, level := if rate == .inRate then x.level - oneToken else x.level,
    overs := if rate == .overRate then satInc 0xFFFF x.overs else x.overs }

/-- What becomes of a chain that passes its checks: a request of this tick, on its platform's queue (03 R134; 02 R74). -/
theorem queueChain_shape (ds : List Desc) (index : BitVec 16) (cls : ClassDef) (p : Nat) (rate : RateClass)
    (got : List ((Nat × Bool) × Bytes × Bytes)) (late : Bool) (s : State) : ∃ (r : Request) (v : Verify) (x : Sealed) (b : Fabric) (hs : List Nat),
    queueChain n k ds index cls p rate got late s = chainSlots n s.nextRid hs ds
      { s.updPlat p (placeTaken rate) with reqs := s.reqs ++ [r], nextRid := s.nextRid + 1, vs := v, ss := x, fab := b } ∧
    r.rid = s.nextRid ∧ r.tenant = n.val ∧ r.ring = k.val ∧ r.index = index ∧ r.descs = ds ∧
    r.cls = cls ∧ r.plat = p ∧ r.rate = rate ∧ r.cur = 0 ∧ r.admitTick = s.now ∧ r.readyTick = s.now + 1 :=
  ⟨_, _, _, _, _, rfl, rfl, rfl, rfl, rfl, rfl, rfl, rfl, rfl, rfl, rfl, rfl⟩

end

end Sys2Proof.Machine
end

section
/-! PROOF. Admission takes the next chain: queued, refused or none (03 R123 to R126, R133, R134, R146, R635). -/
namespace Sys2Proof.Machine

section
variable {s t u v : State} {n : Tenant} {k : RingNo} {held : List HeldDesc} {linkOk : Bool}

/-! ### Chains that are refused -/

/-- The state in which a taken chain is refused, checked in `u` (03 R134, R154); `v` is `u`, or `u` with its platform's count. -/
def chainRefused (n : Tenant) (k : RingNo) (held : List HeldDesc) (status check step : Nat) (u v : State) : State :=
  takeMarks n k (held.map HeldDesc.index) v.nextRid ((u.ring n k).marks.contains (chainIndex held))
    (refuseChain n k (chainDescs held) (chainIndex held) status check step (held.any HeldDesc.late)
      (v.updPage n fun _ => (drainAll (chainDescs held) (u.page n)).page))

/-- The state in which a taken chain is queued (03 R134). -/
def chainQueued (n : Tenant) (k : RingNo) (held : List HeldDesc) (cls : ClassDef) (p : Nat) (rate : RateClass) (u : State) : State :=
  takeMarks n k (held.map HeldDesc.index) u.nextRid false
    (queueChain n k (chainDescs held) (chainIndex held) cls p rate (drainAll (chainDescs held) (u.page n)).got (held.any HeldDesc.late)
      (u.updPage n fun _ => (drainAll (chainDescs held) (u.page n)).page))

theorem chainRefused_decides {status : Nat} (h16 : 16 ≤ status) (h256 : status < 256) (check step : Nat)
    (hv : ∃ x : Timetable, v = { u with tt := x }) :
    admitFrame u (chainRefused n k held status check step u v) ∧ chainDecided u (chainRefused n k held status check step u v) := by
  obtain ⟨x, rfl⟩ := hv
  unfold chainRefused
  rw [takeMarks_frame]
  unfold refuseChain
  refine ⟨rfl, .inr ⟨_, rfl, rfl, rfl, rfl, rfl, rfl, ?_⟩⟩
  change 16 ≤ (BitVec.ofNat 8 status).toNat
  rwa [BitVec.toNat_ofNat, Nat.mod_eq_of_lt h256]

/-! ### Chains that are queued -/

theorem updPlat_depth {p : Nat} {f : PlatStat → PlatStat} (s : State) {i : Fin 1024} (h : i.val = p) :
    (s.updPlat p f).tt.plats[i] = f s.tt.plats[i] := by
  subst h
  have hset : (s.updPlat i.val f).tt.plats = s.tt.plats.set i.val (f s.tt.plats[i.val]) := dif_pos i.isLt
  exact (congrArg (fun x : Vector PlatStat 1024 => x[i]) hset).trans (Vector.getElem_set_self ..)

theorem chainQueued_leaves (cls : ClassDef) (p : Nat) (rate : RateClass) : admitFrame u (chainQueued n k held cls p rate u) ∧
    (chainQueued n k held cls p rate u).ring n k =
      { u.ring n k with marks := (u.ring n k).marks.filter fun m => !(held.map HeldDesc.index).contains m } ∧
    (∀ i : Fin 1024, i.val = p → (chainQueued n k held cls p rate u).tt.plats[i].depth = u.tt.plats[i].depth + 1) ∧
    (chainQueued n k held cls p rate u).nextRid = u.nextRid + 1 ∧ (chainQueued n k held cls p rate u).ended = u.ended ∧
    ∃ r : Request, (chainQueued n k held cls p rate u).reqs = u.reqs ++ [r] ∧
      r.rid = u.nextRid ∧ r.tenant = n.val ∧ r.ring = k.val ∧ r.index = chainIndex held ∧ r.descs = chainDescs held ∧ r.cls = cls ∧
      r.plat = p ∧ r.rate = rate ∧ r.cur = 0 ∧ r.admitTick = u.now ∧ r.readyTick = u.now + 1 := by
  have hring := updPage_drained_ring (chainDescs held) n k u
  unfold chainQueued
  generalize hdr : u.updPage n (fun _ => (drainAll (chainDescs held) (u.page n)).page) = w at hring ⊢
  have hw : w = { u with tenants := w.tenants } := by
    rw [← hdr]
    rfl
  obtain ⟨r, vs, ss, fab, hs, hqueue, hfields⟩ := queueChain_shape (n := n) (k := k) (chainDescs held) (chainIndex held) cls p rate
    (drainAll (chainDescs held) (u.page n)).got (held.any HeldDesc.late) w
  obtain ⟨c, hslots⟩ := chainSlots_ks (n := n) w.nextRid hs (chainDescs held)
    { w.updPlat p (placeTaken rate) with reqs := w.reqs ++ [r], nextRid := w.nextRid + 1, vs := vs, ss := ss, fab := fab }
  have hreqs : w.reqs = u.reqs := (congrArg State.reqs hw :)
  have hended : w.ended = u.ended := (congrArg State.ended hw :)
  have hrid : w.nextRid = u.nextRid := (congrArg State.nextRid hw :)
  have htt : w.tt = u.tt := (congrArg State.tt hw :)
  have hnow : w.now = u.now := (congrArg State.now hw :)
  rw [hqueue, hslots]
  rw [hrid, hnow] at hfields
  refine ⟨?_, ?_, fun i hi => ?_, ?_, hended, r, ?_, hfields⟩
  · unfold admitFrame
    rw [hw]
    rfl
  · rw [takeMarks_ring, ← hring]
    rfl
  · change (w.updPlat p (placeTaken rate)).tt.plats[i].depth = _
    rw [updPlat_depth w hi, htt]
    rfl
  · change w.nextRid + 1 = _
    rw [hrid]
  · change w.reqs ++ [r] = _
    rw [hreqs]

/-! ### The checks -/

/-- A taken chain is refused by the first check that fails, or queued (03 R133). -/
theorem admitChain_decides (n : Tenant) (k : RingNo) (held : List HeldDesc) (linkOk : Bool) (u : State) :
    admitFrame u (admitChain n k held linkOk u) ∧ chainDecided u (admitChain n k held linkOk u) := by
  have hrefuse := fun {status : Nat} (h16 : 16 ≤ status) (h256 : status < 256) (check step : Nat) =>
    chainRefused_decides (u := u) (v := u) (n := n) (k := k) (held := held) h16 h256 check step ⟨u.tt, rfl⟩
  unfold admitChain
  dsimp only
  split
  · exact hrefuse (by decide) (by decide) 0 0
  split
  next cls p hcls hplat hone =>
    split
    next i _ => exact hrefuse (by decide) (by decide) 2 i
    split
    next i _ => exact hrefuse (by decide) (by decide) 3 i
    split
    next i _ => exact hrefuse (by decide) (by decide) 4 i
    split
    next i _ => exact hrefuse (by decide) (by decide) 4 i
    split
    next i st hbad =>
      obtain hst | hst := (drainAll_leaves _ _).2 i st hbad <;> exact hrefuse (by omega) (by omega) 5 i
    split
    · exact chainRefused_decides (by decide) (by decide) 6 0 ⟨_, rfl⟩
    next rate _ =>
      obtain ⟨hframe, -, -, hrid, hended, r, hreqs, hr, -, -, -, -, -, -, -, hcur, hadmit, hready⟩ :=
        chainQueued_leaves (u := u) (n := n) (k := k) (held := held) cls p rate
      exact ⟨hframe, .inl ⟨r, hreqs, hended, hrid, hr, hadmit, hready, hcur⟩⟩
  · exact hrefuse (by decide) (by decide) 1 _

/-- A chain that passes every check is queued on its platform (03 R134). -/
theorem admitChain_passes {cls : ClassDef} {p : Nat} {rate : RateClass} (hmark : chainIndex held ∉ (u.ring n k).marks)
    (h1 : check1 u n.val (chainDescs held) = none)
    (hcls : u.image.classes.find? (fun x => x.num = Desc.cls ((chainDescs held).getD 0 [])) = some cls)
    (hplat : platformOf u n.val (Desc.cls ((chainDescs held).getD 0 [])) = some p) (h2 : check2 u cls (chainDescs held) linkOk = none)
    (h3 : check3 u n (u.ring n k).port.toNat (chainDescs held) = none)
    (h4a : check4a u (u.plat p) p n.val ((u.plat p).kind == 1 && decide ((u.platStat p).level ≥ oneToken)) (chainDescs held) = none)
    (h4b : check4b u (u.plat p) n.val cls (chainDescs held) = none) (h5 : (drainAll (chainDescs held) (u.page n)).bad = none)
    (h6 : regionsOk u p n.val (u.ring n k).port.toNat (chainVs u cls (chainDescs held)) (chainSs u cls (chainDescs held))
      (chainVsHost (chainDescs held)) ((u.plat p).kind == 1 && decide ((u.platStat p).level ≥ oneToken)) = true)
    (hrate : placeRate u p = some rate) : admitChain n k held linkOk u = chainQueued n k held cls p rate u := by
  unfold chainIndex at hmark
  unfold chainDescs at *
  have hnot : ¬ (u.ring n k).marks.contains ((held.map HeldDesc.index).headD 0) = true := by simpa using hmark
  unfold admitChain
  dsimp only
  rw [if_neg hnot, h1, hcls, hplat]
  dsimp only
  rw [h2]
  dsimp only
  rw [h3]
  dsimp only
  rw [h4a]
  dsimp only
  rw [h4b]
  dsimp only
  rw [h5]
  dsimp only
  rw [if_pos h6, hrate]
  rfl

/-! ### The next chain -/

/-- Whether the head chain is taken now: it kept its place, or it is whole, in time and within the 16 of the tick (03 R123, R635). -/
def takenNow (s : State) (r : Ring) (held : List HeldDesc) : Prop :=
  r.kept = true ∨ r.waits = true ∨ (s.tt.taken + held.length ≤ 16 ∧ held.all (landedInTime s.now) = true)

/-- The state in which the descriptors of a chain count toward the tick; one that kept its place has been counted (03 R123). -/
def chainCounted (s : State) (g : Nat) (r : Ring) (held : List HeldDesc) : State :=
  if r.kept ∨ r.waits then s else countTaken s g held.length (((headDesc r).map fun h => Desc.cls h.bytes).getD 0)

theorem chainCounted_tt (s : State) (g : Nat) (r : Ring) (held : List HeldDesc) :
    ∃ x : Timetable, chainCounted s g r held = { s with tt := x } ∧ x.plats = s.tt.plats := by
  unfold chainCounted
  split
  · exact ⟨s.tt, rfl, rfl⟩
  · exact ⟨_, rfl, rfl⟩

theorem admitNext_taken {g : Nat} {r : Ring} (hnext : nextRing s = some (g, r)) (hhead : headChain r = some (held, linkOk))
    (htaken : takenNow s r held) : admitNext s = takeOrWait g held linkOk (chainCounted s g r held) := by
  unfold admitNext chainCounted
  rw [hnext]
  dsimp only
  rw [hhead]
  dsimp only
  by_cases hkept : r.kept = true ∨ r.waits = true
  · rw [if_pos hkept, if_pos hkept]
  · have hready : s.tt.taken + held.length ≤ 16 ∧ held.all (landedInTime s.now) = true := by
      obtain h | h | h := htaken
      · exact absurd (.inl h) hkept
      · exact absurd (.inr h) hkept
      · exact h
    obtain ⟨hfits, hlanded⟩ := hready
    rw [if_neg hkept, if_neg hkept, if_neg (by omega), if_neg (by simp [hlanded])]

/-- Where no chain is taken, nothing but what is counted and the place kept changes (03 R123, R635). -/
theorem admitNext_none (h : ∀ g r held linkOk, nextRing s = some (g, r) → headChain r = some (held, linkOk) → ¬ takenNow s r held) :
    admitFrame s (admitNext s) ∧ (admitNext s).reqs = s.reqs ∧ (admitNext s).ended = s.ended ∧ (admitNext s).nextRid = s.nextRid := by
  unfold admitNext
  split
  · exact ⟨rfl, rfl, rfl, rfl⟩
  next g r hnext =>
  dsimp only
  split
  · split <;> exact ⟨rfl, rfl, rfl, rfl⟩
  next held linkOk hhead =>
  have hnot := h g r held linkOk hnext hhead
  unfold takenNow at hnot
  split
  next hkept => exact absurd (hkept.imp_right .inl) hnot
  split
  · exact ⟨rfl, rfl, rfl, rfl⟩
  split
  · exact ⟨rfl, rfl, rfl, rfl⟩
  next hfits hlanded => exact absurd (.inr (.inr ⟨by omega, by simpa using hlanded⟩)) hnot

/-- A chain that waits for the end of a DISCARD stays at the head of its ring (03 R146). -/
theorem takeOrWait_waits {g : Nat} (h : waitsDiscard u g held = true) : takeOrWait g held linkOk u =
    u.updRing (tenantFin (g / 4)) (ringFin g) fun r => { r with waits := true } := if_pos h

theorem takeOrWait_takes {g : Nat} (h : waitsDiscard u g held = false) : takeOrWait g held linkOk u =
    admitChain (tenantFin (g / 4)) (ringFin g) held linkOk (takeChain (tenantFin (g / 4)) (ringFin g) held u) := by
  refine if_neg ?_
  rw [h]
  exact Bool.false_ne_true

theorem takeChain_ring (n : Tenant) (k : RingNo) (held : List HeldDesc) (u : State) : (takeChain n k held u).ring n k =
    { u.ring n k with
      sqHead := BitVec.ofNat 16 (((u.ring n k).sqHead.toNat + held.length) % (u.ring n k).entries), kept := false, waits := false,
      held := (u.ring n k).held.filter fun h => !(held.map HeldDesc.index).contains h.index,
      outstanding := (u.ring n k).outstanding + 1 } := ring_updRing_same ..

/-- A chain that is taken and does not wait is decided. -/
theorem taken_decided {g : Nat} {r : Ring} (hwait : waitsDiscard s g held = false) :
    admitFrame s (takeOrWait g held linkOk (chainCounted s g r held)) ∧
      chainDecided s (takeOrWait g held linkOk (chainCounted s g r held)) := by
  obtain ⟨x, hcounted, -⟩ := chainCounted_tt s g r held
  rw [hcounted, takeOrWait_takes (u := { s with tt := x }) hwait]
  obtain ⟨hframe, hdecided⟩ := admitChain_decides (tenantFin (g / 4)) (ringFin g) held linkOk
    (takeChain (tenantFin (g / 4)) (ringFin g) held { s with tt := x })
  exact ⟨admitFrame_trans (t := takeChain (tenantFin (g / 4)) (ringFin g) held { s with tt := x }) rfl hframe, hdecided⟩

theorem taken_waits {g : Nat} {r : Ring} (hwait : waitsDiscard s g held = true) :
    admitFrame s (takeOrWait g held linkOk (chainCounted s g r held)) ∧
      (takeOrWait g held linkOk (chainCounted s g r held)).reqs = s.reqs ∧
      (takeOrWait g held linkOk (chainCounted s g r held)).ended = s.ended ∧
      (takeOrWait g held linkOk (chainCounted s g r held)).nextRid = s.nextRid ∧
      (takeOrWait g held linkOk (chainCounted s g r held)).ring (tenantFin (g / 4)) (ringFin g) =
        { s.ring (tenantFin (g / 4)) (ringFin g) with waits := true } := by
  obtain ⟨x, hcounted, -⟩ := chainCounted_tt s g r held
  rw [hcounted, takeOrWait_waits (u := { s with tt := x }) hwait]
  exact ⟨rfl, rfl, rfl, rfl, ring_updRing_same ..⟩

theorem chainDecided_nextRid (h : chainDecided s t) : t.nextRid = s.nextRid + 1 := by
  obtain ⟨_, -, -, hrid, -⟩ | ⟨_, -, -, hrid, -⟩ := h <;> exact hrid

/-- Admission takes nothing, or queues or refuses one chain (03 R123, R134). -/
theorem admitNext_decides (s : State) : admitFrame s (admitNext s) ∧
    (((admitNext s).reqs = s.reqs ∧ (admitNext s).ended = s.ended ∧ (admitNext s).nextRid = s.nextRid) ∨ chainDecided s (admitNext s)) := by
  by_cases h : ∃ g r held linkOk, nextRing s = some (g, r) ∧ headChain r = some (held, linkOk) ∧ takenNow s r held
  · obtain ⟨g, r, held, linkOk, hnext, hhead, htaken⟩ := h
    rw [admitNext_taken hnext hhead htaken]
    cases hwait : waitsDiscard s g held with
    | false =>
      obtain ⟨hframe, hdecided⟩ := taken_decided (r := r) (linkOk := linkOk) hwait
      exact ⟨hframe, .inr hdecided⟩
    | true =>
      obtain ⟨hframe, hreqs, hended, hrid, -⟩ := taken_waits (r := r) (linkOk := linkOk) hwait
      exact ⟨hframe, .inl ⟨hreqs, hended, hrid⟩⟩
  · obtain ⟨hframe, hsame⟩ := admitNext_none fun g r held linkOk hnext hhead htaken => h ⟨g, r, held, linkOk, hnext, hhead, htaken⟩
    exact ⟨hframe, .inl hsame⟩

theorem exec_chainAdmission {c : Cycle} (hrun : engineRuns s = true) (hcut : cutDue s = false) (hcycle : c.val < 200) :
    exec (.chainAdmission c) s = .next (admitNext s) := by
  refine if_pos ⟨hrun, ?_, hcycle⟩
  rw [hcut]
  exact Bool.false_ne_true

theorem exec_chainAdmission_closed {c : Cycle} (h : engineRuns s = false ∨ 200 ≤ c.val) : exec (.chainAdmission c) s = .next s := by
  refine if_neg ?_
  rintro ⟨hrun, -, hcycle⟩
  obtain h | h := h
  · rw [h] at hrun
    cases hrun
  · omega

/-- A chain that passes every check is on its platform's queue, and its ring's head has moved past it (03 R121, R134). -/
theorem taken_queued {g p : Nat} {r : Ring} {cls : ClassDef} {rate : RateClass} (hn : n = tenantFin (g / 4)) (hk : k = ringFin g)
    (hwait : waitsDiscard s g held = false)
    (hpasses : admitChain n k held linkOk (takeChain n k held (chainCounted s g r held)) =
      chainQueued n k held cls p rate (takeChain n k held (chainCounted s g r held)))
    (ht : t = takeOrWait g held linkOk (chainCounted s g r held)) :
    ∃ q : Request, t.reqs = s.reqs ++ [q] ∧ t.ended = s.ended ∧ q.rid = s.nextRid ∧ q.tenant = n.val ∧ q.ring = k.val ∧
      q.index = chainIndex held ∧ q.descs = chainDescs held ∧ q.cls = cls ∧ q.plat = p ∧ q.rate = rate ∧ q.cur = 0 ∧
      q.admitTick = s.now ∧ q.readyTick = s.now + 1 ∧
      (t.ring n k).sqHead = BitVec.ofNat 16 (((s.ring n k).sqHead.toNat + held.length) % (s.ring n k).entries) ∧
      (t.ring n k).outstanding = (s.ring n k).outstanding + 1 ∧
      ∀ i : Fin 1024, i.val = p → t.tt.plats[i].depth = s.tt.plats[i].depth + 1 := by
  obtain ⟨x, hcounted, hplats⟩ := chainCounted_tt s g r held
  subst hn hk
  rw [hcounted] at hpasses ht
  rw [takeOrWait_takes (u := { s with tt := x }) hwait, hpasses] at ht
  subst ht
  obtain ⟨-, hring, hdepth, -, hended, q, hreqs, hrid, hten, hrno, hidx, hdescs, hqcls, hplat, hrate, hcur, hadmit, hready⟩ :=
    chainQueued_leaves (u := takeChain (tenantFin (g / 4)) (ringFin g) held { s with tt := x }) (n := tenantFin (g / 4)) (k := ringFin g)
      (held := held) cls p rate
  rw [takeChain_ring] at hring
  refine ⟨q, hreqs, hended, hrid, hten, hrno, hidx, hdescs, hqcls, hplat, hrate, hcur, hadmit, hready, ?_, ?_, fun i hi => ?_⟩
  · rw [hring]
    rfl
  · rw [hring]
    rfl
  · rw [hdepth i hi]
    change x.plats[i].depth + 1 = _
    rw [hplats]

end

/-- Settles O24: the chain taken is decided by its first failing check, or queued; the other branches only count or wait. -/
theorem admissionTakesOneChain : Obligations.AdmissionTakesOneChain := by
  unfold Obligations.AdmissionTakesOneChain
  refine ⟨fun s c hrun hcut hcycle => ?_, fun s c h => exec_chainAdmission_closed h⟩
  obtain ⟨hframe, hdecides⟩ := admitNext_decides s
  refine ⟨_, exec_chainAdmission hrun hcut hcycle, hframe, admitNext_fixed s, hdecides, fun g r held linkOk hnext hhead htaken => ?_, ?_⟩
  · rw [admitNext_taken hnext hhead htaken]
    refine ⟨fun hwait => chainDecided_nextRid (taken_decided hwait).2, fun hwait => ?_⟩
    obtain ⟨-, hreqs, hended, -, hring⟩ := taken_waits (r := r) (linkOk := linkOk) hwait
    rw [hring]
    exact ⟨hreqs, hended, rfl, rfl⟩
  · intro g r held linkOk n k ds cls p rate u hnext hhead hwait htaken hn hk hds hu hmark h1 hcls hplat h2 h3 h4a h4b h5 h6 hrate
    subst hds
    have hpasses := admitChain_passes (linkOk := linkOk) hmark h1 hcls hplat h2 h3 h4a h4b h5 h6 hrate
    rw [hu] at hpasses
    exact taken_queued hn hk hwait hpasses (admitNext_taken hnext hhead htaken)

end Sys2Proof.Machine
end
